-- ==== Sys2Proof/Word.lean ====
section
/-! DEFINITION. Words and bytes: the plainest types and arithmetic the model's files share (R6, R7). -/

namespace Sys2Proof

/-- A byte; bit 0 is the least significant (R6). -/
abbrev Byte := BitVec 8

/-- A string of bytes, the byte at the lowest address first (R7). -/
abbrev Bytes := List Byte

/-- A 32-bit register half or data word. -/
abbrev W32 := BitVec 32

/-- A 64-bit register or result word. -/
abbrev W64 := BitVec 64

end Sys2Proof
end

