-- ==== Sys2Proof/Syntax.lean ====
section
/-! DEFINITION. The commands and events of the package: one constructor of `Instr` for each row of the opcode table, with the
operands the row carries. A fact of the outside world that the spec does not let the package choose (a time, a measured
value, a test's outcome, received data) is an operand. -/

namespace Sys2Proof

/-- A command at a mailbox: the function and mailbox, the slot the driver wrote (R376), its opcode apart, and whether the
host memory writes of the command's own service succeed (R341). -/
structure Door where
  /-- Function that owns the mailbox: 0 the PF, 1 to 16 the VFs. -/
  func : Nat
  /-- Mailbox number (R358). -/
  mbx : Nat
  /-- LENGTH, slot byte 2. -/
  len : Nat
  /-- FLAGS, slot byte 3. -/
  flags : Nat := 0
  /-- HOST_TAG, slot bytes 4 to 7. -/
  tag : Nat := 0
  /-- Slot bytes 8 to 15. -/
  rsv : Nat := 0
  /-- The parameter area, slot bytes 16 on; bytes not listed are 0. -/
  params : List Byte := []
  /-- Tick of the beat at which the doorbell is served. -/
  tick : Nat := 0
  /-- Host memory writes made while the command is served succeed (R341). -/
  hostOk : Bool := true
  deriving DecidableEq, Repr

/-- A write of BAR0: function, offset, size in bytes, value and byte enables (R492). -/
structure RegWrite where
  /-- Function whose BAR0 is written. -/
  func : Nat
  /-- Byte offset in BAR0. -/
  off : Nat
  /-- Bytes written. -/
  size : Nat
  /-- Little-endian value. -/
  value : Nat
  /-- Byte enables, bit i for byte i. -/
  be : Nat
  /-- Event bits of `RM_EVENT` set in the same cycle (R10). -/
  events : Nat := 0
  deriving DecidableEq, Repr

/-- A counter group (R501, R505). -/
inductive GroupAddr where
  /-- A group of a core: die, core and group number. -/
  | core (die core grp : Nat)
  /-- A group of a die: die and group number. -/
  | die (die grp : Nat)
  /-- The SRV group of a function. -/
  | srv
  deriving DecidableEq, Repr

/-- A request at a stack's arbiter and the transfer it asks for (R199, R209). -/
structure StackReq where
  /-- Requester, 0 to 42 (R209). -/
  requester : Nat
  /-- HIGH, else NORMAL. -/
  high : Bool := false
  /-- Source die. -/
  die : Nat
  /-- Source core, 63 for a die agent. -/
  core : Nat := 63
  /-- Pen. -/
  pen : Nat
  /-- Pen offset. -/
  off : Nat
  /-- Bytes of a read. -/
  size : Nat := 0
  /-- 0 read, 1 write, 2 atomic. -/
  kind : Nat
  /-- ATOMIC code of an atomic (R89). -/
  atomic : Nat := 0
  /-- Bytes of a write or atomic. -/
  data : List Byte := []
  /-- Code words (pen offset ÷ 64) that the stack's read finds in error, with what is inverted: bit 16 w + j is bit j of symbol w (R200,
  R201). -/
  errs : List (Nat × Nat) := []
  /-- Fold words corrected in the line it meets (R216). -/
  foldCe : Nat := 0
  /-- Code words (pen offset ÷ 64) of the line that hold an uncorrectable Fold error (R216). -/
  foldUe : List Nat := []
  deriving DecidableEq, Repr

/-- What the world adds to an op of a core: times and physical errors (R80, R201, R433). -/
structure OpFacts where
  /-- Narrow words deferred by a wide grant (R80). -/
  defers : Nat := 0
  /-- Narrow turns (R80). -/
  turns : Nat := 0
  /-- Narrow words granted beyond those that the spec fixes for the op (R78, R508). -/
  words : Nat := 0
  /-- Code words (pen × 2^32 + pen offset ÷ 64) that the stacks' reads find in error, with what is inverted: bit 16 w + j is bit j of
  symbol w (R200, R201). -/
  errs : List (Nat × Nat) := []
  /-- BACKOFF replies that its transfers drew at a stack, and grants to them after they aged: stack, replies, grants (R211, R212). -/
  lanes : List (Nat × Nat × Nat) := []
  /-- Tick of the beat at which the op issues (R87). -/
  tick : Nat := 0
  /-- Image blocks in which an audit's tiles lie: place of the array among the selected ones, owner, image and block (R147, R433). -/
  blocks : List (Nat × Nat × Nat × Nat) := []
  deriving DecidableEq, Repr

/-- A self-test slice that the firmware places for a step: its core, item and index, its offset from the step's start and its maximum
length in µs (R41, R442, R443). -/
structure SlicePlan where
  /-- Die. -/
  die : Nat
  /-- Logical core; not used by ITEM 0x10. -/
  core : Nat
  /-- ITEM. -/
  item : Nat
  /-- INDEX. -/
  index : Nat
  /-- Offset in beats. -/
  beats : Nat
  /-- Tick. -/
  tick : Nat
  /-- Maximum length, µs. -/
  len : Nat
  deriving DecidableEq, Repr

/-- What the world adds to a step-group boundary (R288, R293, R301), and the slices that the firmware chooses to place in the step that
starts there (R47). -/
structure StepFacts where
  /-- Slices to place. -/
  slices : List SlicePlan := []
  /-- Trees of the step that has ended under `SPEC` TREE: request handle, and the parent of each node (R301). -/
  trees : List (Nat × List Nat) := []
  /-- Requests whose host buffer writes fail (R341). -/
  failed : List Nat := []
  /-- Requests, with the layer-groups that the acts skipped under BACKFILL for the tokens committed (R313 to R315). -/
  skips : List (Nat × Nat) := []
  /-- Format code of the KV entries that new pages will hold (R293). -/
  kvFmt : Nat := 10
  deriving DecidableEq, Repr

/-- Margins measured on a pseudo-channel (R222): timing early and late, voltage low and high, for reads and writes, and the wires
that set the smallest ones. -/
structure Margins where
  /-- Read margins: early, late, low, high. -/
  rd : List Nat
  /-- Write margins: early, late, low, high. -/
  wr : List Nat := []
  /-- Wire of the smallest read margin. -/
  rdWire : Nat := 0
  /-- Wire of the smallest write margin. -/
  wrWire : Nat := 0
  deriving DecidableEq, Repr

/-- The header of a Bexper image and what the boot ROM finds of it (R348). -/
structure FwImage where
  /-- Length in bytes. -/
  len : Nat
  /-- Security version number. -/
  svn : Nat
  /-- Key slot, 0 to 3. -/
  key : Nat
  /-- SHA-384 hash of the key that the header carries. -/
  keyHash : Nat
  /-- SHA-384 digest that the header gives. -/
  digest : Nat
  /-- SHA-384 digest of the image itself. -/
  actual : Nat
  /-- The signature over the header verifies under the header's key. -/
  sigOk : Bool
  /-- COMMIT_SVN (R350). -/
  commitSvn : Bool := false
  /-- Build number (R494). -/
  build : Nat := 0
  deriving DecidableEq, Repr

/-- A failing item of a destructive test (R441, R452). -/
structure ItemFail where
  /-- Die. -/
  die : Nat
  /-- Core, 63 for a die's item. -/
  core : Nat
  /-- ITEM. -/
  item : Nat
  /-- INDEX. -/
  index : Nat
  /-- ADDRESS, or 0xFFFF_FFFF for a logic item. -/
  addr : Nat
  /-- BIT, or 0xFF. -/
  bit : Nat
  /-- SIGDIFF, 0 for a word test. -/
  sig : Nat := 0
  deriving DecidableEq, Repr

/-- A tier-2 port as it trains in start-up (R217, R218). -/
structure TierFacts where
  /-- A device has trained within its time. -/
  trained : Bool := false
  /-- Lanes. -/
  width : Nat := 0
  /-- GT/s of a lane. -/
  rate : Nat := 0
  /-- Bytes of each device that the enumeration finds, in order. -/
  devices : List Nat := []
  deriving DecidableEq, Repr

/-- What training finds for one transmit lane of a Stile link (R260). -/
structure TxEq where
  /-- Physical lane. -/
  lane : Nat
  /-- c(−2), in thousandths. -/
  pre2 : Int := 0
  /-- c(−1), in thousandths. -/
  pre1 : Int := 0
  /-- c(+1), in thousandths. -/
  post1 : Int := 0
  /-- Swing, mV peak-to-peak differential. -/
  swing : Nat := 800
  deriving DecidableEq, Repr

/-- What training or the adaptation in service finds for one receive lane of a Stile link (R260). -/
structure RxEq where
  /-- Physical lane. -/
  lane : Nat
  /-- CTLE peaking, in tenths of a dB. -/
  ctle : Nat := 0
  /-- FFE tap weights, in thousandths. -/
  ffe : List Int := []
  /-- DFE tap weights, in thousandths. -/
  dfe : List Int := []
  deriving DecidableEq, Repr

/-- What a training of a Stile link meets (R256 to R263, R279). -/
structure LinkFacts where
  /-- Phase that failed: 1 DETECT, 2 EQUALISE, 3 ALIGN, 4 CHECK, 5 DELAY; 0 for none. -/
  phase : Nat := 0
  /-- Transmit lanes that the far end finds failed. -/
  txBad : List Nat := []
  /-- Receive lanes found failed. -/
  rxBad : List Nat := []
  /-- Transmit lanes with the bit error ratio that CHECK measures on them, in units of 10^-14; 0 where not listed. -/
  txBer : List (Nat × Nat) := []
  /-- Receive lanes with their bit error ratio, likewise. -/
  rxBer : List (Nat × Nat) := []
  /-- The far end's limit on the width of the transmit direction. -/
  txFar : Nat := 64
  /-- The far end's limit on the width of the receive direction. -/
  rxFar : Nat := 64
  /-- Round trip, ns. -/
  rtt : Nat := 0
  /-- Slice table of the far end's receiver (R272). -/
  farSlices : Nat := 0xFEDC_BA98_7654_3210_FEDC_BA98_7654_3210
  /-- Settings found for transmit lanes. -/
  txEq : List TxEq := []
  /-- Settings found for receive lanes. -/
  rxEq : List RxEq := []
  deriving DecidableEq, Repr

/-- How a flit comes over a Stile link (R261, R262). -/
structure StileFacts where
  /-- Its flit slot since the direction's alignment. -/
  slot : Nat := 0
  /-- Codewords received with errors since the last flit: group, number since the alignment, and the bits inverted, with bit 10 k + j for
  bit `j` of symbol `k`. -/
  words : List (Nat × Nat × Nat) := []
  /-- Settings to which receive lanes have adapted since (R260). -/
  rxEq : List RxEq := []
  deriving DecidableEq, Repr

/-- Margins measured on one wire of a mesh port (R251), each the lesser of its two sides. -/
structure WireMargin where
  /-- Wire, 0 to 639. -/
  wire : Nat
  /-- Steps of 1/64 UI of timing margin. -/
  time : Nat
  /-- Millivolts of voltage margin. -/
  volts : Nat
  deriving DecidableEq, Repr

/-- Margins of a mesh port's wires; one not listed has enough (R251). -/
structure PortMargins where
  /-- Die. -/
  die : Nat
  /-- Port, 0 N, 1 E, 2 S, 3 W. -/
  port : Nat
  /-- Wires of the outgoing direction. -/
  out : List WireMargin := []
  /-- Wires of the incoming direction. -/
  inn : List WireMargin := []
  deriving DecidableEq, Repr

/-- What start-up meets at the end of a step (R469). -/
structure StartFacts where
  /-- Blocks of the Ringmaster's memories that fail their march in step 1 (R441, ITEM 0x30). -/
  rmBad : List Nat := []
  /-- Images in the two slots of the xSPI flash as step 1 fetches them. -/
  flash : List (Option FwImage) := []
  /-- Stacks that fail training in step 3 (R450). -/
  stacksBad : List Nat := []
  /-- Margins of the Midway's wires as step 4 finds them (R251). -/
  midway : List PortMargins := []
  /-- Tier-2 ports as step 6 finds them (R217, R218). -/
  tier : List TierFacts := []
  deriving DecidableEq, Repr

/-- What a self-test slice meets (R443, R446, R447). -/
structure SliceFacts where
  /-- The item fails. -/
  fails : Bool := false
  /-- ADDRESS of the failure, or 0xFFFF_FFFF. -/
  addr : Nat := 0xFFFF_FFFF
  /-- BIT of the failure, or 0xFF. -/
  bit : Nat := 0xFF
  /-- SIGDIFF, 0 for a word test. -/
  sig : Nat := 0
  /-- A step start fires on the core while the slice runs. -/
  cut : Bool := false
  /-- Scratchpad bytes at which the word test's first read is uncorrectable. -/
  bad : List Nat := []
  /-- Blocks of the tested Fold way (R445). -/
  blocks : List Nat := []
  deriving DecidableEq, Repr

/-- One energy sample (R401): the readings of the Tally's converters, calibrated (R403). -/
structure Sample where
  /-- Current of domains 0 to 17, in µA. -/
  amps : List Int
  /-- Supply voltage, in mV. -/
  mv : Nat
  /-- The Tally's own draw, SELF, in nW. -/
  own : Nat := 0
  deriving DecidableEq, Repr

/-- The levels that gate boundary test (R485). -/
structure TapPins where
  /-- `ZT_RESET_N` is low. -/
  resetLow : Bool
  /-- The main supply is above 43.0 V. -/
  mainUp : Bool
  deriving DecidableEq, Repr

/-- The commands and events, one constructor for each row of the opcode table. -/
inductive Instr where
  /-- Opens a configuration transaction of PASTURE or PACKAGE scope and returns its handle (R371). -/
  | cfgBegin (c : Door)
  /-- Stages up to 14 key values in an open transaction (R372). -/
  | cfgSet (c : Door)
  /-- Returns staged or in-force values of up to 6 keys (R372). -/
  | cfgGet (c : Door)
  /-- Validates a transaction against a commit beat and makes it pending, or rolls it back (R373). -/
  | cfgCommit (c : Door)
  /-- Discards an open or pending transaction before its final validation (R375). -/
  | cfgRollback (c : Door)
  /-- Creates a pasture of whole pens bound to one function (R20). -/
  | pastureCreate (c : Door)
  /-- Rolls back transactions, aborts handles, unloads and clears a pasture's pens (R380). -/
  | pastureDestroy (c : Door)
  /-- Returns a pasture's pens, function, offline pens and open counts (R380). -/
  | pastureQuery (c : Door)
  /-- Writes a weight image into a pen, records its check values and optionally a golden copy (R381). -/
  | imageLoad (c : Door)
  /-- Replaces the grant mask of a shared image or prefix and updates the access maps (R381). -/
  | imageShare (c : Door)
  /-- Rewrites image blocks from host data only where each 4 KiB matches its CRC (R381). -/
  | imageReseed (c : Door)
  /-- Frees an image's stack region and golden copy (R381). -/
  | imageUnload (c : Door)
  /-- Accepts a show container for checking and placement in the pasture (R382). -/
  | showLoad (c : Door)
  /-- Once the container is read, checks header, sections and acts, then places acts or refuses (R382). -/
  | showContainerRead (h : Nat) (feeds : List (Nat × Nat × Nat × Nat)) (pins : List (Nat × Nat × Nat × Nat × Nat)) (spread : List Nat) (sparse : List (Nat × Nat)) (addrs : List Nat)
  /-- Stops the show's groups at their next boundaries and removes acts and registries (R384). -/
  | showUnload (c : Door)
  /-- Creates a request, optionally naming a prefix, and returns its request handle (R285). -/
  | reqOpen (c : Door)
  /-- Reserves pages and queues or starts prefill of prompt tokens (R286). -/
  | reqAppend (c : Door)
  /-- Reserves pages and queues or starts decoding up to a token count into a host buffer (R288). -/
  | reqGenerate (c : Door)
  /-- Moves an idle request to PAUSING with a time to live (R306). -/
  | reqPause (c : Door)
  /-- Reserves pages and starts restoring a paused request (R308). -/
  | reqResume (c : Door)
  /-- Closes a request at once or at the point its state allows (R286). -/
  | reqClose (c : Door)
  /-- Returns a request's state, committed positions and page count (R286). -/
  | reqQuery (c : Door)
  /-- Runs tokens through the show and stores their KV as a read-only prefix (R298). -/
  | prefixBuild (c : Door)
  /-- Trains a learned prefix on the device and rebuilds its pages (R386). -/
  | prefixTrain (c : Door)
  /-- Drops a prefix; pages are released and the handle completes when its count reaches 0 (R300). -/
  | prefixDrop (c : Door)
  /-- Trains a declared adapter set of low-rank factors (R386). -/
  | adapterTrain (c : Door)
  /-- Stages catalogue entries and a new MAPVER for an effective beat (R317). -/
  | expertMapSet (c : Door) (entries : List Byte)
  /-- Writes catalogue entries to a host buffer and returns MAPVER (R317). -/
  | expertMapGet (c : Door)
  /-- Starts training both directions of a Stile link (R279). -/
  | linkTrain (c : Door)
  /-- Returns a link's state, widths, reach, FEC and lane map (R387). -/
  | linkQuery (c : Door)
  /-- Loads the package address, paddock shape, link roles and range table (R274). -/
  | routeSet (c : Door)
  /-- Schedules a beat-number load or relock at load beat L (R38). -/
  | beatSync (c : Door)
  /-- Writes Calendar entries of one die to a host buffer (R388). -/
  | calQuery (c : Door)
  /-- Tests, fully tests or fuses repairs of compute dies of unassigned pens (R451). -/
  | diagBist (c : Door)
  /-- Measures read and optionally write eyes of one pseudo-channel (R221). -/
  | diagMargin (c : Door)
  /-- Writes margin records, width counts, the fault log or self-test results to a buffer (R388). -/
  | diagDump (c : Door)
  /-- Writes a mirror snapshot of the issuer's domains to a host buffer (R412). -/
  | tallyRead (c : Door)
  /-- Writes Tally audit records from a named event number (R388). -/
  | tallyLogRead (c : Door)
  /-- Writes fault records visible to the issuer to a host buffer (R388). -/
  | faultQuery (c : Door)
  /-- Sets ACKED in a fault record (R388). -/
  | faultAck (c : Door)
  /-- A host memory read issued for a command completes and the command continues or ends (R341). -/
  | hostReadComplete (h : Nat) (ok : Bool) (data : List Byte)
  /-- Posts a waiting completion into the function's Ledger when room and enable allow (R369). -/
  | ledgerPost (f : Nat) (ok : Bool)
  /-- A consumer-index write returns entries or is ignored and counted (R367). -/
  | ledgerHeadWrite (f v : Nat)
  /-- Setting ENABLE resets indices and phase, or sets CFG_ERR for a bad size (R367). -/
  | ledgerEnableWrite (f v : Nat)
  /-- A write to a BAR0 register with no behaviour of its own sets RW fields or is ignored (R492). -/
  | registerWrite (w : RegWrite)
  /-- Starts the check of a host-pushed firmware image (R349). -/
  | bootDoorbell (v : Nat) (img : FwImage)
  /-- W1C write clears event class bits unless set in the same cycle (R496). -/
  | rmEventClear (f clear same : Nat)
  /-- Unmasking a vector with its pending bit set sends one message (R342). -/
  | msixUnmask (f v : Nat) (on : Bool)
  /-- Copies a counter group into its snapshot bank atomically (R438). -/
  | snap (f : Nat) (a : GroupAddr)
  /-- Copies a counter group into its bank and clears its OVF bits (R438). -/
  | snapclr (f : Nat) (a : GroupAddr) (wraps : Nat)
  /-- Reading the beat number latches the tick of the same instant (R497). -/
  | beatNowRead (f tick : Nat)
  /-- A PF write sets the mirror interrupt policy and sends MIRROR_SET to the Tally (R412). -/
  | tlMCtlWrite (f v : Nat)
  /-- Clears a function's mailboxes, rolls back its transaction and closes its requests at the next boundary (R343). -/
  | functionLevelReset (f : Nat)
  /-- Applies function-level reset to the PF and every VF and rolls back the PACKAGE transaction (R344). -/
  | pfFunctionLevelReset
  /-- A hot reset or link-down acts as a function-level reset of the PF (R344). -/
  | hotReset
  /-- PERST# acts as a PF function-level reset and retrains the link on release (R344). -/
  | perstAssert (released : Bool)
  /-- With no boundary within 90 ms of the reset, the groups' steps are aborted and resources freed (R343). -/
  | flrBoundaryTimeout (f : Nat)
  /-- Pushes one array step with its tiles and activations to every selected array (R86). -/
  | wload (die core : Nat) (x : OpFacts)
  /-- Copies rows into the activation buffer and exponent table (R87). -/
  | astream (die core : Nat) (x : OpFacts)
  /-- Loads thresholds and, under LEARNED settings, runs the predictor and sampling (R172). -/
  | screen (die core : Nat) (x : OpFacts)
  /-- Reads slots or vectors, applies scale, correction, bias, gate and rounding, and writes output (R128). -/
  | requant (die core : Nat) (x : OpFacts)
  /-- Computes the low-rank correction, its gradients or its update (R133). -/
  | lrank (die core : Nat) (x : OpFacts)
  /-- Applies signs and a Walsh-Hadamard transform to each vector (R123). -/
  | rotate (die core : Nat) (x : OpFacts)
  /-- Forms log-domain products and F32 sums for C = A·B (R120). -/
  | juggle (die core : Nat) (x : OpFacts)
  /-- Normalises rows or writes row moments (R137). -/
  | norm (die core : Nat) (x : OpFacts)
  /-- Computes a masked row softmax (R137). -/
  | softmax (die core : Nat) (x : OpFacts)
  /-- Adds key-value pairs into the Pound or its spill log (R165). -/
  | poundAdd (die core : Nat) (x : OpFacts)
  /-- Writes the full spill log to the overflow region on DMA engine 1 (R166). -/
  | poundFlush (die core stall : Nat)
  /-- Writes combined pairs in key order and optionally empties them (R167). -/
  | poundDrain (die core : Nat) (x : OpFacts)
  /-- Encodes input to AS or XC (R230). -/
  | bale (die core : Nat) (x : OpFacts)
  /-- Decodes AS or XC to a dense format (R235). -/
  | unbale (die core : Nat) (x : OpFacts)
  /-- Runs a descriptor reading remote data into the scratchpad (R91). -/
  | dmaIn (die core : Nat) (x : OpFacts)
  /-- Runs a descriptor writing or applying atomics remotely (R91). -/
  | dmaOut (die core : Nat) (x : OpFacts)
  /-- Queues the descriptor's rows to send on an exchange channel (R250). -/
  | send (die core : Nat) (x : OpFacts)
  /-- Posts rows to receive the channel's next data (R250). -/
  | recv (die core : Nat) (x : OpFacts)
  /-- Once the matching RECV is issued, the SEND's rows move and both complete (R250). -/
  | exchangeTransfer (p chan die core : Nat) (data : List Byte)
  /-- Holds the sequencer until a point after step start, or counts a late wait (R87). -/
  | waitBeat (die core : Nat) (x : OpFacts)
  /-- The named point arrives and the sequencer resumes (R87). -/
  | waitBeatRelease (die core tick : Nat)
  /-- Holds the sequencer until earlier ops of selected units complete (R87). -/
  | barrier (die core : Nat) (x : OpFacts)
  /-- The barrier conditions hold and the sequencer continues (R62). -/
  | barrierPass (die core cycles : Nat)
  /-- A stalled op word issues once its queue has room or its W wait ends (R83). -/
  | sequencerResume (die core cycles : Nat)
  /-- Recomputes selected tiles in F32 and records drift (R146). -/
  | audit (die core : Nat) (x : OpFacts)
  /-- Reads a condition word and skips the next op words (R87). -/
  | skipIf (die core : Nat) (x : OpFacts)
  /-- Queues a seed for an array generator in the array FIFO (R113). -/
  | seed (die core : Nat) (x : OpFacts)
  /-- The seed sets the generator state once earlier REQUANTs complete (R115). -/
  | seedTakeEffect (die core arr : Nat)
  /-- Writes CORE_MARK and optionally notifies the firmware (R87). -/
  | mark (die core : Nat) (x : OpFacts)
  /-- Waits for all units and reports the core's part of the step complete (R87). -/
  | endAct (die core : Nat) (x : OpFacts)
  /-- An array takes its next step from its FIFO and runs it to final slot values (R62). -/
  | arrayStepStart (die core arr : Nat) (idle : Bool) (startWait stall : Nat) (parity : Option Nat)
  /-- A power-cap Calendar entry fires and the governor applies the new cap (R41). -/
  | powerCapChange (cap : Nat)
  /-- A commit entry fires and non-quiescence items take effect (R374). -/
  | configurationCommit
  /-- Four beats before the commit beat the transaction is revalidated or removed (R46). -/
  | finalValidation (h : Nat)
  /-- An idle open transaction rolls back after 2^24 beats with TIMEOUT (R372). -/
  | cfgTransactionTimeout (h : Nat)
  /-- A step-group boundary arrives and a step starts or overruns (R44). -/
  | stepStart (g : Nat) (x : StepFacts)
  /-- A slice entry fires and tests one item of an idle core, or is skipped (R443). -/
  | selfTestSlice (die core item index : Nat) (x : SliceFacts)
  /-- A tree-phase entry paces a participant's send at its level (R187). -/
  | reductionTreePhase (p entry level : Nat)
  /-- A receiver's Fold combines a tree buffer, and the root writes and sends the result (R185). -/
  | treeTransferReceive (p entry part : Nat)
  /-- The Fold at DEST stores or applies a contribution and completes the instance when all are counted (R188). -/
  | arrivalTransfer (p entry part : Nat)
  /-- An exchange-launch entry allows the Race die to begin dispatch (R326). -/
  | exchangeLaunch (p layer : Nat)
  /-- Expires paused requests whose expiry beat has come and places the next sweep (R307). -/
  | ttlSweep (p : Nat)
  /-- Entries held during a die's recovery fire or are discarded when it returns (R43). -/
  | calHeldEntryRelease (die : Nat)
  /-- The package's own tick 0 advances the beat number (R34). -/
  | beatTick0 (launch : List Nat)
  /-- A Beat input edge is judged present or missing and drives the beat state (R34). -/
  | beatEdge (phase : Int) (hz : Nat)
  /-- A received marker is compensated and judged, possibly locking or slipping (R31). -/
  | beatMarkerReceive (l : Nat) (arrival : Int) (launch beat hop hz : Nat)
  /-- An expected edge or marker fails to arrive; eight enter HOLDOVER (R33). -/
  | beatMissing
  /-- At beat L the beat number is loaded or the package relocks and rebases the Calendar (R38). -/
  | beatSyncLoad
  /-- No edge or marker within 8 beats of L completes the handle ABORTED (R38). -/
  | beatSyncTimeout
  /-- A peer's leave notice raises STEP_DROPPED and may withdraw a required peer (R45). -/
  | leaveNoticeReceive (g peer : Nat) (required : Bool)
  /-- A peer counts a rejoining package from the named boundary (R45). -/
  | joinNoticeReceive (g peer b : Nat)
  /-- A granted transfer is served at its Fold slice (R213). -/
  | stackTransfer (stk lane cycle : Nat) (drained : List (Nat × Nat)) (reqs : List StackReq)
  /-- A refresh obligation falls due on a pseudo-channel (R207). -/
  | refreshDue (st q idle : Nat) (busy : Bool)
  /-- The controller reads a code word and rewrites or poisons it (R204). -/
  | scrub (pen cw pattern : Nat)
  /-- Every 2^20 beats the stacks' on-die ECC counts are read (R204). -/
  | odeccRead (st n : Nat)
  /-- A stack temperature band change sets the refresh interval and may raise STACK_HOT (R207). -/
  | stackTemperatureChange (st : Nat) (t : Int)
  /-- The copy to a spare pseudo-channel ends and the spare takes the index (R206). -/
  | pseudoChannelCopy (st q : Nat) (errs : List (Nat × Nat))
  /-- A tier-2 link loss, timeout or poison report loses pages (R220). -/
  | tier2Lost (port : Nat) (page : Option Nat)
  /-- The Drover encodes and writes one page to tier 2 and releases it (R306). -/
  | droverPageMove (h : Nat)
  /-- The Drover restores one page from tier 2 into a new stack page (R308). -/
  | droverPageRestore (h : Nat)
  /-- The Drover completes writing an image's golden copy to tier 2 (R381). -/
  | droverGoldenCopy (p n : Nat)
  /-- A router receives, checks and forwards or discards a flit (R241). -/
  | midwayFlitReceive (die q h data errs : Nat) (pair : Bool)
  /-- An unacknowledged flit waits 256 slots and the sender replays (R241). -/
  | midwayReplayTimeout (die q slot : Nat)
  /-- A port with repeated replays retrains and maps spare wires (R252). -/
  | midwayRetrain (die q : Nat) (outM inM : List WireMargin)
  /-- An uncorrectable router fault withdraws the package (R253). -/
  | mwRouterFail (die q dir : Nat)
  /-- A link receiver checks a flit, delivers in sequence or NAKs (R268). -/
  | stileFlitReceive (l : Nat) (f : List Byte) (x : StileFacts)
  /-- An unanswered NAK is resent as FROM (R268). -/
  | stileNakTimeout (l : Nat)
  /-- An unacknowledged held flit triggers repetition from it (R268). -/
  | stileRetransmitTimeout (l : Nat)
  /-- A control flit falls due after 1,024 slots (R266). -/
  | stileControlDue (l idle : Nat)
  /-- A lane loses lock or corrects too many symbols and a repair pause is requested (R280). -/
  | laneFailure (l lane : Nat)
  /-- ALIGN completes with the new lane map, sparing or narrowing, and traffic resumes (R281). -/
  | repairPauseEnd (l : Nat) (tx : Bool) (lanes : List Nat) (far slices : Nat)
  /-- A direction that cannot resume in 50 µs takes the link down (R282). -/
  | linkDown (l : Nat)
  /-- Training phases end, the link comes up or the handle aborts (R279). -/
  | linkTrainingDone (l : Nat) (x : LinkFacts)
  /-- The far end does not arrive within 2 s and training completes TIMEOUT (R279). -/
  | linkTrainTimeout (l : Nat)
  /-- With all producers heard, the Race die ranks and assigns tokens (R320). -/
  | raceInstanceStart (p layer : Nat)
  /-- The Race die sends dispatch vectors and manifests (R326). -/
  | raceDispatch (p layer : Nat)
  /-- A destination Race die writes a received dispatch vector into its slot (R326). -/
  | dispatch (p layer sender step expert slot shard : Nat) (data : List Byte)
  /-- A manifest arrives; with all sources in, the expert's RECV completes (R328). -/
  | manifest (p layer sender step mapver : Nat) (entries : List (Nat × Nat × Nat × Nat × Nat))
  /-- On an expert's done row, return vectors are sent to their sources (R329). -/
  | returnVector (p layer expert shard : Nat) (recv : Bool) (step token rank : Nat) (data : List Byte)
  /-- A source writes combined outputs once every return is in (R330). -/
  | raceCombine (p layer : Nat)
  /-- A source counts refused choices as contributing nothing (R332). -/
  | refuse (p layer sender step : Nat) (experts : List Nat)
  /-- An ABANDON message abandons the instance on its receiver (R333). -/
  | abandon (p layer sender step : Nat) (atSource hw : Bool)
  /-- Staged catalogue entries and MAPVER take effect together (R317). -/
  | expertMapEffect (h : Nat)
  /-- A unit's fault report is logged, its act aborted and recovery queued (R420). -/
  | faultReport (code die core info item corrected : Nat)
  /-- The next queued fault's recovery begins (R427). -/
  | faultRecoveryStart
  /-- A recovery completes and its record becomes RECOVERED (R428). -/
  | faultRecoveryDone
  /-- A recovery exceeds its budget and escalates (R428). -/
  | recoveryBudgetExpired
  /-- A reseed source supplies a block; matching data is written, else the next source is tried (R435). -/
  | reseedSourceDone (owner n b : Nat) (data : List Byte)
  /-- A peer or host source fails to answer in time (R435). -/
  | reseedTimeout (owner n b : Nat)
  /-- The firmware tests a spare core destructively outside slices (R445). -/
  | spareCoreWalk (die idx : Nat) (x : SliceFacts)
  /-- A start-up test group starts once power headroom allows (R449). -/
  | startupTestGroup (avg : Nat) (fails : List ItemFail)
  /-- Clearing of a pen's memories ends and the pasture command completes (R356). -/
  | penClearDone (p : Nat)
  /-- The main supply falls below 42.0 V and the package enters BRACE (R458). -/
  | uvWarn (mv : Nat)
  /-- The supply rises above 43.0 V and BRACE ends with SUPPLY_DIP (R460). -/
  | uvWarnClear (minMv durUs : Nat)
  /-- The dip timer reaches 10 ms and an orderly halt is scheduled (R461). -/
  | dipTimerExpire
  /-- At the next tick 0 acts abort and handles complete HALTED_SUPPLY (R461). -/
  | orderlyHalt
  /-- The main supply falls below 38.0 V and the package resets (R465). -/
  | uvReset
  /-- The main supply exceeds 63.0 V and the package resets (R465). -/
  | ovReset
  /-- AUX falls below 3.00 V and the package resets (R465). -/
  | auxFail
  /-- A reset input held low resets the package (R465). -/
  | ztResetN (ns : Nat)
  /-- A junction at 115 °C for 1 ms resets and holds the package (R464). -/
  | thermalTrip
  /-- Each millisecond temperatures are read and thermal responses applied or released (R464). -/
  | thermalRead (dies stk : List Nat)
  /-- Every 1 ms the governor adjusts the core frequency against the cap (R395). -/
  | governorEvaluation (watts vinCv : Nat)
  /-- With supplies, reset pin and thermal conditions met, start-up begins (R468). -/
  | resetRelease (boot beat met : Bool) (i3c : Nat)
  /-- A start-up step ends and the next begins, or start-up stops with a boot status (R469). -/
  | startupStepDone (x : StartFacts)
  /-- MCTP control assigns the endpoint identifier of a binding (R345). -/
  | setEndpointId (b eid : Nat)
  /-- PLDM names the receiver of platform event messages (R346). -/
  | setEventReceiver (b eid : Nat)
  /-- Every 10 ms sensors refresh and crossings send PlatformEventMessage (R346). -/
  | sensorRefresh (readings : List (Nat × Int))
  /-- PLDM firmware update begins writing the inactive slot, or is refused under host push (R347). -/
  | requestUpdate (b : Nat)
  /-- Marks the new slot to be tried at the next package reset (R347). -/
  | activateFirmware (b : Nat) (selfContained : Bool)
  /-- SPDM version request (R351). -/
  | getVersion (b : Nat)
  /-- SPDM capabilities request (R351). -/
  | getCapabilities (b : Nat)
  /-- SPDM algorithm negotiation (R351). -/
  | negotiateAlgorithms (b : Nat) (ecdsaP384 sha384 : Bool)
  /-- SPDM certificate digests request (R351). -/
  | getDigests (b : Nat)
  /-- SPDM certificate chain request (R351). -/
  | getCertificate (b slot off len : Nat)
  /-- SPDM challenge signed with the device identity key (R351). -/
  | challenge (b slot nonce : Nat)
  /-- SPDM signed measurement blocks (R351). -/
  | getMeasurements (b index nonce : Nat) (signed : Bool)
  /-- Metrology port returns variant, ROM identity, CALREC and audit counter (R413). -/
  | readId (busy : Bool)
  /-- Returns a signed live record of a domain (R413). -/
  | readLive (n : Nat) (busy : Bool)
  /-- Returns an interval or gap record by SEQ (R413). -/
  | readInterval (n seq : Nat) (busy : Bool)
  /-- Returns an audit record by event number (R413). -/
  | readAudit (event : Nat) (busy : Bool)
  /-- Returns an event record by index (R413). -/
  | readEvent (index : Nat) (busy : Bool)
  /-- Returns certificate bytes (R413). -/
  | readCert (off len : Nat) (busy : Bool)
  /-- Changes a legal parameter while the seal is open, with an audit record (R414). -/
  | setParam (param value : Nat) (data : List Byte) (busy : Bool)
  /-- Sets or synchronises the Tally clock under the seal rules (R414). -/
  | setTime (time : Nat) (busy : Bool)
  /-- A 60 s window ends and the balance check may record BALANCE (R404). -/
  | balanceWindowEnd
  /-- An interval ends and signed interval records are written for 18 domains (R406). -/
  | intervalEnd
  /-- Every 10 s registers and the clock are saved (R407). -/
  | nvSave
  /-- AUX below 3.0 V triggers a final save from hold-up (R407). -/
  | tallyAuxLowSave
  /-- Measurement resumes after AUX loss with gap records and UNSET clock (R409). -/
  | auxReturn (latch romOk : Bool)
  /-- A debounced change of TL_SEAL_N is recorded as an event (R413). -/
  | sealChange (isOpen : Bool)
  /-- Each mirror period the Tally sends readings and new records to the mirror (R412). -/
  | mirrorUpdate
  /-- An inbound message sets the mirror period (R411). -/
  | mirrorSet (ms : Nat)
  /-- An inbound message stores token, request and beat annotations (R411). -/
  | auxCounts (shares : List Nat)
  /-- No counts within 1 s of interval end sets AUX_MISSING (R411). -/
  | auxCountsTimeout
  /-- A due impulse is driven on a pulse output (R416). -/
  | pulseEmit (o : Nat)
  /-- The per-second converter check enters FAILED on failure (R418). -/
  | tallySelfCheck (code : Nat) (writable : Bool)
  /-- Three missed mirror periods set STALE and raise TL_MIRROR_STALE (R418). -/
  | mirrorStale
  /-- The Tally records a supply dip on its own channel (R415). -/
  | tallySupplyDip (minMv durUs : Nat)
  /-- The Tally records time below the reset threshold (R415). -/
  | mainLow (us : Nat)
  /-- TAP instruction selecting the identification register (R485). -/
  | idcode
  /-- TAP bypass instruction (R485). -/
  | bypass (op : Nat)
  /-- TAP instruction sampling or preloading boundary cells (R485). -/
  | samplePreload (p : TapPins) (lands cells : Nat)
  /-- TAP boundary test driving lands while in reset (R485). -/
  | extest (p : TapPins) (lands cells : Nat)
  /-- IEEE 1149.6 AC test pulse instruction (R485). -/
  | extestPulse (p : TapPins) (lands cells : Nat)
  /-- IEEE 1149.6 AC test train instruction (R485). -/
  | extestTrain (p : TapPins) (lands cells : Nat)
  /-- TAP clamp instruction (R485). -/
  | clamp (p : TapPins)
  /-- TAP instruction placing outputs at high impedance (R485). -/
  | highz (p : TapPins)
  /-- A doorbell whose command slot holds an opcode unknown to Bexper 2.4 is refused with INVALID (R361). -/
  | unknownOpcode (c : Door) (op : Nat)
  /-- At each 256 kS/s sample the Tally integrates each domain's power and advances its energy registers and pulse accumulators (R401). -/
  | energySample (x : Sample)
  /-- A pseudo-channel's margining ends after about 4 ms or up to 80 ms and writes its record, and the handle completes (R221). -/
  | marginingDone (pen idx : Nat) (m : Margins) (hostOk : Bool)
  /-- The tests of a DIAG_BIST finish, records are written, failed pens go offline and the handle completes OK (R451). -/
  | bistDone (h avg : Nat) (fails : List ItemFail) (ok : Bool)
  /-- A write of VF Enable or NumVFs in the PF's SR-IOV capability creates or removes virtual functions, while bound pastures remain (R339). -/
  | vfEnable (on : Bool) (n : Nat)
  /-- A power-state write moves a function between D0 and D3hot, which stops or restores decoding of its BAR0 while the package's work goes on (R338). -/
  | d3hot (f : Nat) (hot : Bool)
  /-- ZT_REFCLK has been present for 1 ms, and step 1 of start-up may begin (R482). -/
  | refclkDetected
  /-- An I3C controller assigns a dynamic address to the Ringmaster's or the Tally's target by SETDASA or ENTDAA (R345). -/
  | dynamicAddress (tally : Bool) (a : Nat)
  deriving DecidableEq, Repr

end Sys2Proof
end

