-- ==== Sys2Proof/Decode.lean ====
section
/-! DEFINITION. The command that a word spells by the bits of the opcode table. -/

namespace Sys2Proof

/-- The command that the word `w` of `nbits` bits spells. No row of the table gives bits: the package's commands are mailbox
slots, register accesses, op words in memory, messages and events, which `Instr` carries as operands. -/
def decodeTableWord (_nbits _w : Nat) : Option Instr := none

end Sys2Proof
end

