-- ==== Sys2Proof/Config.lean ====
section
/-! DEFINITION. What the spec leaves open or gives only within bounds: constants without a body, so that no proof can know them.
Each is named in a log entry. -/

namespace Sys2Proof

/-- A free value: the `n`-th value that the spec leaves open (log entry 7). -/
opaque Config.free : Nat → Nat

/-- The local oscillator's offset within its ±5 ppm, as the rate it gives the Beat less 999,995 Hz, modulo 11 (R33; log entry 112). -/
opaque Config.oscOffset : Nat

/-- An ECDSA P-384 signature of a byte string by the key numbered `k` (log entry 8). -/
opaque Config.ecdsa : Nat → List Byte → List Byte

/-- The deviation of function `g` (4 GELU, 5 SiLU, 6 the exponential of R325) for the input of bits `u`, among the five that R129 and R325
allow (log entry 7): the same for every core and Race die of the part. -/
opaque Config.gateOff : Nat → Nat → Nat

/-- The CRC of a Midway flit of zeros, which an initial value and a final inversion that R240 does not name make (log entry 135). -/
opaque Config.mwCrcZero : Nat

/-- The 400 bits of the alignment marker of lane group `g` (R261; log entry 138). -/
opaque Config.alignMarker (g : Nat) : Nat

/-- Byte `i` of the BODY of an idle flit (FTYPE 0) or of a training flit (FTYPE 5), for which R264 gives no content (log entry 138). -/
opaque Config.fillByte (ftype i : Nat) : Byte

/-- The bytes of a structure, numbered `k`, for whose fields the spec gives no places: 0 the body of a Tally event record (R415), 1 the
message that a CHALLENGE signs, 2 the message that GET_MEASUREMENTS signs (R351), 3 MAPVER and the expert in the 48 bits of a manifest
message's entry that R328 leaves at 0 (R327) (log entry 8). -/
opaque Config.layout (k : Nat) : List Nat → List Byte

end Sys2Proof
end

