-- ==== Sys2Proof/Machine/Bits.lean ====
section
/-! DEFINITION. Bit fields, byte strings and limited counters (R6, R7, R437): the helpers every unit of the model uses. -/

namespace Sys2Proof.Machine

/-- The field of `w` bits of `v` whose lowest bit is bit `lo` (R6). -/
def fld (v lo w : Nat) : Nat := v / 2 ^ lo % 2 ^ w

/-- Bit `i` of `v` (R6). -/
def bit (v i : Nat) : Bool := v / 2 ^ i % 2 == 1

/-- `v` with its `w`-bit field at bit `lo` replaced by `x`. -/
def setFld (v lo w x : Nat) : Nat :=
  v - fld v lo w * 2 ^ lo + x % 2 ^ w * 2 ^ lo

/-- `v` with bit `i` set to `b`. -/
def setBit (v i : Nat) (b : Bool) : Nat := setFld v i 1 b.toNat

/-- The number whose little-endian bytes are `bs` (R7). -/
def leNat : List Byte → Nat
  | [] => 0
  | b :: bs => b.toNat + 256 * leNat bs

/-- The `k` little-endian bytes of `n` (R7). -/
def leBytes (n : Nat) : Nat → List Byte
  | 0 => []
  | k + 1 => BitVec.ofNat 8 n :: leBytes (n / 256) k

/-- The `n` bytes of `bs` from offset `off`; bytes past the end are left out. -/
def slice (bs : List Byte) (off n : Nat) : List Byte := (bs.drop off).take n

/-- The little-endian number in bytes `off` to `off + n - 1` of `bs`. -/
def rdLE (bs : List Byte) (off n : Nat) : Nat := leNat (slice bs off n)

/-- Exactly `n` bytes: `bs` cut, or padded with zeros. -/
def padTo (bs : List Byte) (n : Nat) : List Byte :=
  bs.take n ++ List.replicate (n - bs.length) 0#8

/-- `bs` with the bytes from `off` on replaced by `xs`, as far as `bs` reaches. -/
def patch (bs : List Byte) (off : Nat) (xs : List Byte) : List Byte :=
  bs.take off ++ xs.take (bs.length - off) ++ bs.drop (off + xs.length)

/-- Every byte of `bs` is 0. -/
def allZero (bs : List Byte) : Bool := bs.all (· == 0#8)

/-- A counter of `w` bits that saturates (R437). -/
def satAdd (w a b : Nat) : Nat := min (a + b) (2 ^ w - 1)

/-- Two's-complement reading of the low `w` bits of `v`. -/
def sInt (w v : Nat) : Int :=
  let x := v % 2 ^ w
  if x < 2 ^ (w - 1) then (x : Int) else (x : Int) - (2 ^ w : Nat)

/-- The low `w` bits of the two's-complement form of `i`. -/
def uNat (w : Nat) (i : Int) : Nat := (i % (2 ^ w : Nat)).toNat

/-- Quotient rounded up; 0 for a divisor of 0. -/
def cdiv (a b : Nat) : Nat := (a + b - 1) / b

/-- The numbers `0 … n - 1` for which bit `i` of `m` is set, ascending. -/
def maskList (m n : Nat) : List Nat := (List.range n).filter (fun i => bit m i)

/-- The number of set bits among the low `n` bits of `m`. -/
def popCount (m n : Nat) : Nat := (maskList m n).length

/-- The mask with a bit for every number of `l`. -/
def maskOf (l : List Nat) : Nat := l.foldl (fun m i => if bit m i then m else m + 2 ^ i) 0

/-- The first index of `l` at which `p` holds. -/
def indexWhere {α : Type} (p : α → Bool) : List α → Option Nat
  | [] => none
  | x :: xs => if p x then some 0 else (indexWhere p xs).map (· + 1)

/-- `l` with its element at `i` replaced by `f` of it. -/
def modAt {α : Type} (f : α → α) : List α → Nat → List α
  | [], _ => []
  | x :: xs, 0 => f x :: xs
  | x :: xs, i + 1 => x :: modAt f xs i

/-- Insert into a list that is ascending under `key`, after equal keys. -/
def insertBy {α : Type} (key : α → Nat) (x : α) : List α → List α
  | [] => [x]
  | y :: ys => if key x < key y then x :: y :: ys else y :: insertBy key x ys

/-- A stable sort of `l`, ascending under `key`. -/
def sortBy {α : Type} (key : α → Nat) (l : List α) : List α :=
  l.foldl (fun acc x => insertBy key x acc) []

/-- `(b - a) mod 2^64`, the distance forward from beat `a` to beat `b` (R39). -/
def beatAhead (a b : Nat) : Nat := (b + 2 ^ 64 - a % 2 ^ 64) % 2 ^ 64

/-- Beat `b` lies at or after beat `a`, modulo 2^64 (R39). -/
def beatGe (b a : Nat) : Bool := beatAhead a b < 2 ^ 63

end Sys2Proof.Machine
end

