-- ==== Sys2Proof/Machine/Tab.lean ====
section
/-! DEFINITION. Tables keyed by number, and memories: lists of pairs with strictly rising keys. A memory lists no byte that
equals what an unlisted address reads as (0), so equal memories are equal data. -/

namespace Sys2Proof.Machine

/-- A sparse table: pairs of a key and a value, the keys strictly rising. -/
abbrev Tab (α : Type) := List (Nat × α)

/-- The value listed under key `k`. -/
def Tab.get? {α : Type} : Tab α → Nat → Option α
  | [], _ => none
  | (j, v) :: t, k => if k = j then some v else if k < j then none else Tab.get? t k

/-- The value under key `k`, or `d` where none is listed. -/
def Tab.getD {α : Type} (t : Tab α) (k : Nat) (d : α) : α := (Tab.get? t k).getD d

/-- `t` with `v` listed under `k`. -/
def Tab.put {α : Type} : Tab α → Nat → α → Tab α
  | [], k, v => [(k, v)]
  | (j, w) :: t, k, v =>
    if k < j then (k, v) :: (j, w) :: t
    else if k = j then (k, v) :: t
    else (j, w) :: Tab.put t k v

/-- `t` with key `k` unlisted. -/
def Tab.del {α : Type} : Tab α → Nat → Tab α
  | [], _ => []
  | (j, w) :: t, k => if k < j then (j, w) :: t else if k = j then t else (j, w) :: Tab.del t k

/-- `t` with the value under `k`, where one is listed, replaced by `f` of it. -/
def Tab.upd {α : Type} (t : Tab α) (k : Nat) (f : α → α) : Tab α := t.map (fun p => if p.1 = k then (p.1, f p.2) else p)

/-- `t` with `f` of the value under `k` (of `d` where none is listed) listed there. -/
def Tab.mod {α : Type} (t : Tab α) (k : Nat) (d : α) (f : α → α) : Tab α := Tab.put t k (f (Tab.getD t k d))

/-- The keys of `t`, rising. -/
def Tab.keys {α : Type} (t : Tab α) : List Nat := t.map Prod.fst

/-- The entries of `t` that satisfy `p`. -/
def Tab.filt {α : Type} (t : Tab α) (p : Nat → α → Bool) : Tab α := t.filter (fun q => p q.1 q.2)

/-- Every value of `t` replaced by `f` of its key and itself. -/
def Tab.mapV {α : Type} (t : Tab α) (f : Nat → α → α) : Tab α := t.map (fun q => (q.1, f q.1 q.2))

/-- The keys of a table are strictly rising. -/
def Tab.wf {α : Type} : Tab α → Bool
  | [] => true
  | [_] => true
  | p :: q :: t => decide (p.1 < q.1) && Tab.wf (q :: t)

/-- A memory: address and byte pairs. An unlisted address reads 0 (for the stacks and the Fold's backing store by the zero
fill of R203; for every other memory DESIGN CHOICE, log entry 3). -/
abbrev Mem := List Host.Cell

/-- What an unlisted address reads as. -/
def Mem.unlisted : Byte := 0#8

/-- The byte at address `a`. -/
def Mem.get (m : Mem) (a : Nat) : Byte := Tab.getD m a Mem.unlisted

/-- `m` with byte `b` at address `a`, in the canonical form. -/
def Mem.set (m : Mem) (a : Nat) (b : Byte) : Mem := if b = Mem.unlisted then Tab.del m a else Tab.put m a b

/-- The canonical form: addresses strictly rising, no entry equal to what an unlisted address reads as. -/
def Mem.wf (m : Mem) : Bool := Tab.wf m && m.all (fun c => c.2 != Mem.unlisted)

/-- The `n` bytes from address `a`. -/
def Mem.read (m : Mem) (a : Nat) : Nat → List Byte
  | 0 => []
  | n + 1 => Mem.get m a :: Mem.read m (a + 1) n

/-- `m` with `bs` written from address `a`. -/
def Mem.write (m : Mem) (a : Nat) : List Byte → Mem
  | [] => m
  | b :: bs => Mem.write (Mem.set m a b) (a + 1) bs

/-- The `n`-byte little-endian number at address `a` (R7). -/
def Mem.readLE (m : Mem) (a n : Nat) : Nat := leNat (Mem.read m a n)

/-- `m` with the `n`-byte little-endian form of `v` at address `a` (R7). -/
def Mem.writeLE (m : Mem) (a n v : Nat) : Mem := Mem.write m a (leBytes v n)

/-- `m` with every byte of `[a, a + n)` unlisted, that is, reading 0. -/
def Mem.zero (m : Mem) (a n : Nat) : Mem := m.filter (fun c => c.1 < a || a + n ≤ c.1)

end Sys2Proof.Machine
end

