-- ==== Sys2Proof/Machine/State.lean ====
section
/-! DEFINITION. The state of the ZT4032, as plain data: every register, queue, buffer, counter, mode and pin the spec gives the
package, grouped by the unit that owns it, the queue of waiting commands, and the machine right after reset release. The
bracket in a field's docstring gives its width, the rule that names it and its reset value. -/

namespace Sys2Proof.Machine

open Sys2Proof

/-- Why the machine stops. No command of this model stops the machine: every row of the table has an effect or, where its
condition does not hold, leaves the state as it is. -/
inductive Fault where
  /-- Raised by no command. It stands here so that the type is inhabited; safe. -/
  | none_
  deriving DecidableEq, Repr

/-- Why a command has no meaning. -/
inductive Refusal where
  /-- Raised by the dispatcher alone, for a row whose meaning is not written; safe, since no claim about the row follows. -/
  | notModelled (mnemonic : String)
  deriving DecidableEq, Repr

/-- What the package sends to the world, in the order sent: the model's own record of outputs (log entry 6). -/
inductive Out where
  /-- A write of host memory under a function's identifier (R341). -/
  | hostWrite (func addr : Nat) (data : List Byte)
  /-- A read of host memory for a handle (R341). -/
  | hostRead (func addr len handle : Nat)
  /-- An MSI-X message (R342). -/
  | msix (func vec : Nat)
  /-- A rising edge of `BEAT_OUT`: tick 0 of the package's own beat, with its number (R30). -/
  | beatOut (beat : Nat)
  /-- A leave notice for a step group (R45). -/
  | leaveNotice (group : Nat)
  /-- A join notice for a step group and its boundary (R45). -/
  | joinNotice (group boundary : Nat)
  /-- A request to peers for an image block with a check value (R435). -/
  | reseedPeers (pasture img block : Nat)
  /-- A flit of the Midway sent by a die on a port (R241). -/
  | midway (die port : Nat) (flit : Nat)
  /-- A Midway flit that a router delivers to its die's local port (R239). -/
  | midwayLocal (die : Nat) (flit : Nat)
  /-- A Stile flit sent on a link (R264). -/
  | stile (link : Nat) (flit : List Byte)
  /-- A codeword of a lane group of a link: its physical lanes with the PAM4 levels each sends for it (R261). -/
  | stileWord (link group : Nat) (lanes : List (Nat × List Nat))
  /-- `LINK_UP` is raised for a link; R421 gives it no code (R279; log entry 59). -/
  | linkUp (link : Nat)
  /-- A message of an agent: kind, destination package, destination die, tag and payload (R243, R273). -/
  | message (kind pkg die tag : Nat) (data : List Byte)
  /-- A whole Stile message, header and data, that a Gate die delivers to a die of this package (R273). -/
  | stileMsg (link : Nat) (data : List Byte)
  /-- A message of the MCTP endpoint on a binding, 0 I3C and 1 PCIe VDM: its type (0 MCTP control, 1 PLDM, 5 SPDM), the command
  it answers, the fields of the answer in the order the spec lists them, and its byte strings (R345 to R351). -/
  | mctp (binding type cmd : Nat) (fields : List Nat) (data : List Byte)
  /-- A PlatformEventMessage to the event receiver: sensor, and its new state or reading (R346). -/
  | platformEvent (receiver sensor : Nat) (value : Int)
  /-- A response at the Tally's metrology port: status, then the fields and the bytes of the answer (R413). -/
  | metrology (status : Nat) (fields : List Nat) (data : List Byte)
  /-- An impulse on a pulse output (R416). -/
  | pulse (output : Nat)
  /-- Data of a debug read of a stack, with the device addresses of poisoned code words in it, whose bytes are zeros (R202, R209). -/
  | debugRead (die off : Nat) (data : List Byte) (poison : List Nat)
  /-- A value that a TAP instruction's data register captures to be shifted out (R485). -/
  | tap (value : Nat)
  /-- Bytes of an update written to a slot of the xSPI flash (R347). -/
  | flashWrite (slot : Nat)
  deriving DecidableEq, Repr

/-! ### Power, boot and package status (21, 23) -/

/-- Power states of R456. -/
inductive PkgState where
  | off | standby | starting | run | brace | halted | withdrawn
  deriving DecidableEq, Repr

/-- Supplies, power state, start-up, governor and package status registers. -/
structure Power where
  /-- Power state, `RM_PKG_STATE` STATE [3b; 21 R456, 23 R495; reset STARTING (2), the state after reset release] -/
  st : PkgState := .starting
  /-- State that BRACE returns to [STARTING or RUN; 21 R460; reset STARTING] -/
  braceFrom : PkgState := .starting
  /-- Boot status CODE [8b; 21 R470, 23 R494; reset 0x00 RUNNING] -/
  code : Nat := 0
  /-- Start-up step [4b; 21 R469, 23 R494; reset 1] -/
  step : Nat := 1
  /-- Last R348 failure, REJECT [4b; 23 R494; reset 0] -/
  reject : Nat := 0
  /-- `RM_FW_ISSUE` MINOR [8b; 23 R494; reset 0] -/
  fwMinor : Nat := 0
  /-- `RM_FW_ISSUE` MAJOR [8b; 23 R494; reset 0] -/
  fwMajor : Nat := 0
  /-- `RM_FW_ISSUE` BUILD [16b; 23 R494; reset 0] -/
  fwBuild : Nat := 0
  /-- `RM_FW_ISSUE` SOURCE [2b; 23 R494; reset 0] -/
  fwSource : Nat := 0
  /-- The host port's link is up and answers configuration requests [1b; 21 R469, R471; reset 0] -/
  portUp : Bool := false
  /-- The boot window is open [1b; 15 R349; reset 0] -/
  window : Bool := false
  /-- Contents of the boot window [8 MiB of bytes; 15 R349, 23 R493; reset 0, DESIGN CHOICE log 3] -/
  windowMem : Mem := []
  /-- The MCTP endpoint answers [1b; 21 R469 step 2; reset 0] -/
  mctpUp : Bool := false
  /-- AUX is good [1b; 21 R457; reset 1, a condition of reset release R468] -/
  auxGood : Bool := true
  /-- A thermal trip holds the reset [1b; 21 R464; reset 0] -/
  tripHeld : Bool := false
  /-- An over-voltage holds the reset until the supply falls below 60.0 V [1b; 21 R457; reset 0] -/
  ovHeld : Bool := false
  /-- The package is in reset, before release [1b; 21 R466, R468; reset 0, the reset state is right after release] -/
  inReset : Bool := false
  /-- ZT_REFCLK has been present for 1 ms [1b; 22 R482; reset 0] -/
  refclk : Bool := false
  /-- A dip is in progress: the supply has fallen below 42.0 V and not risen above 43.0 V [1b; 21 R458; reset 0] -/
  dip : Bool := false
  /-- The dip timer has reached 10 ms and a halt waits for tick 0 [1b; 21 R461; reset 0] -/
  haltDue : Bool := false
  /-- Minimum of the dip in progress, mV [16b; 21 R458; reset 0] -/
  dipMin : Nat := 0
  /-- `RM_DIP` COUNT, saturating [16b; 23 R495; reset 0] -/
  dipCount : Nat := 0
  /-- `RM_DIP` MIN_MV [16b; 23 R495; reset 0] -/
  dipMinMv : Nat := 0
  /-- `RM_DIP` DUR_US [32b; 23 R495; reset 0] -/
  dipDurUs : Nat := 0
  /-- Effective cap that BRACE sets, in eighths of a watt [21 R458; reset 0] -/
  braceCap : Nat := 0
  /-- POWER_CAP as the last power-cap entry or commit applied it, W [13b; 02 R41, 17 R395; reset 5300, the key's default R390] -/
  capInForce : Nat := 5300
  /-- CLOCK as applied [2b; 17 R394; reset 1 NOMINAL R390] -/
  clockInForce : Nat := 1
  /-- Core frequency f, units of 0.1 GHz, FREQ [8b; 17 R394, 23 R495; reset 0] -/
  freq : Nat := 0
  /-- The STACK_HOT response is in force, HOT_CAP [1b; 21 R464, 23 R495; reset 0] -/
  hotCap : Bool := false
  /-- Milliseconds that every stack has been at or below 90 °C [10b; 21 R464; reset 0] -/
  coolMs : Nat := 0
  /-- The 100 °C response is in force [1b; 21 R464; reset 0] -/
  hot100 : Bool := false
  /-- The 105 °C response is in force [1b; 21 R464; reset 0] -/
  hot105 : Bool := false
  /-- The governor's count [4b; 17 R395; reset 0] -/
  govCount : Nat := 0
  /-- Consecutive evaluations at 0.6 GHz above E [4b; 17 R395; reset 0] -/
  overCount : Nat := 0
  /-- POWER_CAP_UNMET has been raised for the present spell [1b; 17 R395; reset 0] -/
  unmet : Bool := false
  /-- Last 1 ms average of package input power, W, `RM_PKG_POWER` POWER [16b; 17 R395, 23 R495; reset 0] -/
  avg : Nat := 0
  /-- Sensor 2, 10 mV units, `RM_PKG_POWER` VIN_CV [16b; 23 R495; reset 0] -/
  vinCv : Nat := 0
  /-- SHA-384 digest of the running image, as its header gives it [384b; 15 R348, R351; reset 0] -/
  fwDigest : Nat := 0
  /-- The running image comes from the slot that ActivateFirmware marked [1b; 15 R347; reset 0] -/
  tried : Bool := false
  /-- `ZT_READY` is driven high [pin; 21 R470, R472; reset 0] -/
  ready : Bool := false
  /-- A service die, or a Midway port beyond narrowing, was lost during start-up [1b; 20 R450, 21 R470; reset 0] -/
  lostInStartup : Bool := false
  /-- Sequence of the `MW_ROUTER_FAIL` record of start-up, 0 for none [32b; 11 R253, 19 R431; reset 0] -/
  lostSeq : Nat := 0
  deriving DecidableEq, Repr

/-- State of the AUX domain: it survives a package reset (R12, R466). -/
structure Aux where
  /-- `RM_RESET_CAUSE` CAUSES, bit n for cause n [7b; 21 R465, 23 R495; reset 2 (AUX power-up)] -/
  causes : Nat := 2
  /-- Latch that AUX fail fired before AUX was lost [1b; 23 R495; reset 0] -/
  auxFailLatch : Bool := false
  /-- Strap ZT_STRAP_BOOT as sampled [1b; 21 R467; reset 0, a strap left open R473] -/
  strapBoot : Bool := false
  /-- Strap ZT_STRAP_BEAT as sampled [1b; 21 R467; reset 0, a strap left open R473] -/
  strapBeat : Bool := false
  /-- Strap ZT_STRAP_I3C as sampled [2b; 21 R467; reset 0, a strap left open R473] -/
  strapI3c : Nat := 0
  /-- Strap ZT_STRAP_MET as sampled [1b; 21 R467; reset 0, a strap left open R473] -/
  strapMet : Bool := false
  deriving DecidableEq, Repr

/-- Fuses, OTP and the xSPI flash: kept for good (R466). -/
structure Fuses where
  /-- VARIANT, 1 ZT4032-N or 2 ZT4032-M [4b; 00 R3, 23 R494; reset by fuses, DESIGN CHOICE 1, log 4] -/
  variant : Nat := 1
  /-- Serial number [64b; 23 R494; reset by fuses, DESIGN CHOICE 0, log 4] -/
  serial : Nat := 0
  /-- Revoked key slots, one bit each [4b; 15 R348; reset by fuses, DESIGN CHOICE 0, log 4] -/
  revoked : Nat := 0
  /-- SHA-384 hashes of the four public keys [4 × 384b; 15 R348; reset by fuses, DESIGN CHOICE 0, log 4] -/
  keyHashes : List Nat := [0, 0, 0, 0]
  /-- Fused minimum SVN, a thermometer of 32 fuses [0 to 32; 15 R348; reset by fuses, DESIGN CHOICE 0, log 4] -/
  minSvn : Nat := 0
  /-- Certificate chain of slot 0, to the device identity certificate [bytes; 15 R351; reset by fuses, DESIGN CHOICE none, log 4] -/
  devCert : List Byte := []
  /-- Digest of the Ringmaster's boot ROM [384b; 15 R351; reset by the mask ROM, DESIGN CHOICE 0, log 4] -/
  bootRom : Nat := 0
  /-- Active flash slot [1b; 15 R347; reset DESIGN CHOICE 0, log 4] -/
  slot : Nat := 0
  /-- Slot marked by ActivateFirmware to be tried at the next package reset, 2 for none [2b; 15 R347; reset 2] -/
  trySlot : Nat := 2
  /-- Slot that the running start-up took its image from, 2 for none or host push [2b; 15 R347; reset 2] -/
  ranSlot : Nat := 2
  /-- SVN of the running image [32b; 15 R348; reset 0] -/
  runSvn : Nat := 0
  /-- The running image's header sets COMMIT_SVN [1b; 15 R350; reset 0] -/
  commitSvn : Bool := false
  /-- An update is being written to the inactive slot [1b; 15 R347; reset 0] -/
  updating : Bool := false
  /-- Fused repairs, per die a list of entry codes [512 entries a die; 20 R453; reset by fuses, DESIGN CHOICE none, log 4] -/
  repairs : Tab (List Nat) := []
  deriving DecidableEq, Repr

/-! ### The Beat, the Calendar and step groups (02) -/

/-- Beat states of R33. -/
inductive BeatState where
  | free | locked | holdover | slewing | slipped
  deriving DecidableEq, Repr

/-- An accepted `BEAT_SYNC` that waits for its load beat or for its edge (R38). -/
structure BeatSync where
  /-- Its handle -/
  handle : Nat
  /-- Load beat L [64b] -/
  load : Nat
  /-- New value N [64b] -/
  value : Nat
  /-- RELOCK [1b] -/
  relock : Bool
  /-- Beat L has come and the package waits for an edge or marker [1b] -/
  armed : Bool := false
  deriving DecidableEq, Repr

/-- The package's beat. -/
structure Beat where
  /-- Current beat number, `RM_BEAT_NOW` [64b; 02 R34, 23 R497; reset 0] -/
  now : Nat := 0
  /-- Beat state [3b; 02 R33; reset FREE] -/
  st : BeatState := .free
  /-- Consecutive valid edges or markers in FREE, 0 to 8 [4b; 02 R33; reset 0] -/
  valid : Nat := 0
  /-- Consecutive missing edges or markers, 0 to 8 [4b; 02 R33; reset 0] -/
  missing : Nat := 0
  /-- Phase error against the source that remains to be removed, ticks [signed 16b; 02 R36, 23 R497; reset 0] -/
  phase : Int := 0
  /-- Hop count the package sends [4b; 02 R31, 23 R497; reset 0] -/
  hop : Nat := 0
  /-- The package has locked since reset release, so BEAT_OUT and markers run [1b; 02 R30; reset 0] -/
  lockedOnce : Bool := false
  /-- Measured beat rate, Hz, `RM_BEAT_RATE` [32b; 23 R497; reset 0] -/
  hz : Nat := 0
  /-- The accepted `BEAT_SYNC` commands that wait, in order of acceptance [02 R38; reset none] -/
  syncs : List BeatSync := []
  /-- A lock from FREE moves tick 0 at the next beat boundary: the number to jump to [02 R35; reset none] -/
  jump : Option Nat := none
  /-- A lock waits for the next boundary to take effect [1b; 02 R35; reset 0] -/
  lockDue : Bool := false
  deriving DecidableEq, Repr

/-- One entry of the master Calendar (R40, R506). -/
structure CalEntry where
  /-- BEAT [64b] -/
  beat : Nat
  /-- TICK [10b] -/
  tick : Nat
  /-- ACTION [4b] -/
  action : Nat
  /-- REL [1b] -/
  rel : Bool
  /-- GROUP [4b] -/
  group : Nat
  /-- TARGET [12b] -/
  target : Nat
  /-- ARG [32b] -/
  arg : Nat
  /-- Dies whose Calendars hold a copy (R506), ascending -/
  dies : List Nat
  /-- Dies in recovery that hold the entry after it came due (R43) -/
  held : List Nat := []
  /-- The beat at which the entry came due while held [64b; 02 R43] -/
  heldAt : Nat := 0
  /-- Number of the step of its group in which a step-relative entry last fired or came due held: it fires once in each step [64b; 02 R42] -/
  fired : Nat := 0
  deriving DecidableEq, Repr

/-- The class of an abort's cause (R425). -/
inductive AbortClass where
  | hardware | program | dieFault | withdrawal
  deriving DecidableEq, Repr

/-- A step group (R44, R45, R383 GROUP, R497). -/
structure Group where
  /-- The group is defined by a loaded show, EXISTS [1b; 23 R497; reset 0] -/
  exists_ : Bool := false
  /-- Pasture whose show defines it [5b; 16 R383; reset 31] -/
  pasture : Nat := 31
  /-- Beat B of the step-start entry [64b; 02 R44; reset 0] -/
  base : Nat := 0
  /-- Period P in beats [24b; 02 R44, 23 R497; reset 0] -/
  period : Nat := 0
  /-- PHASE: 0 decode, 1 prefill, 2 other [2b; 16 R383; reset 0] -/
  phase : Nat := 0
  /-- PLACE: 0 any, 1 SPLIT, 2 BLEND [2b; 16 R383; reset 0] -/
  place : Nat := 0
  /-- SPANS: members on other packages [1b; 16 R383; reset 0] -/
  spans : Bool := false
  /-- A step is in progress, RUNNING [1b; 23 R497; reset 0] -/
  running : Bool := false
  /-- Number of the running step, counted from SHOW_LOAD: identifies the step of a group [64b; 02 R43; reset 0] -/
  stepNo : Nat := 0
  /-- Start beat of the last step, from which step-relative entries count [64b; 02 R42; reset 0] -/
  last : Nat := 0
  /-- `RM_STEP_LAST` [64b, FUNCTION domain; 23 R496, R497; reset 0] -/
  lastShown : Nat := 0
  /-- Beat of the first boundary the group may start at [64b; 16 R382; reset 0] -/
  first : Nat := 0
  /-- OVERRUNS, saturating [16b; 23 R497; reset 0] -/
  overruns : Nat := 0
  /-- Consecutive boundaries passed during the running step [2b; 02 R45; reset 0] -/
  passed : Nat := 0
  /-- The package has withdrawn from the group, LEFT [1b; 02 R45, 23 R497; reset 0] -/
  left : Bool := false
  /-- Boundary at which the package rejoins [64b; 02 R45; reset none] -/
  rejoin : Option Nat := none
  /-- Step epoch [32b; 13 R296; reset 0] -/
  epoch : Nat := 0
  /-- The group stopped for good until SHOW_UNLOAD: pen offline or image lost [1b; 19 R430, R436; reset 0] -/
  stopped : Bool := false
  /-- The group stops at its next boundary for SHOW_UNLOAD [1b; 16 R384; reset 0] -/
  unloading : Bool := false
  /-- Cores (die × 64 + core) whose act has not yet reported END or ABORT [13 R286; reset none] -/
  waiting : List Nat := []
  /-- The last step's work at the boundary that follows it is still to be done [1b; 13 R296; reset 0] -/
  due : Bool := false
  /-- First abort cause of the running step [19 R424, R425; reset none] -/
  abort : Option AbortClass := none
  /-- The last step's batch is to run again [1b; 19 R425, R434; reset 0] -/
  rerun : Bool := false
  /-- Steps aborted in succession by hardware causes [2b; 19 R425; reset 0] -/
  aborts : Nat := 0
  /-- Poisoned device addresses reported by the running step's acts, with the beat of each [19 R432, R433; reset none] -/
  poison : List (Nat × Nat) := []
  /-- The last step was tainted [1b; 19 R433; reset 0] -/
  tainted : Bool := false
  /-- Q-key values under which the group runs (R374); a key not listed is at the pasture's value [17 R390; reset none] -/
  keys : Tab Nat := []
  /-- Batch of the running step: request handles by batch index [13 R287, R303; reset none] -/
  batch : List Nat := []
  /-- Prompt chunks of the running step: request handle and positions [13 R290, R291; reset none] -/
  chunks : List (Nat × Nat) := []
  /-- Leave notices received since the last boundary: package, and whether the show marks it required [02 R45; reset none] -/
  leaves : List (Nat × Bool) := []
  /-- Peers that have left [02 R45; reset none] -/
  peersLeft : List Nat := []
  /-- Peers that rejoin at a named boundary: address and boundary [02 R45; reset none] -/
  peersJoin : List (Nat × Nat) := []
  deriving DecidableEq, Repr

/-! ### Functions, mailboxes, the Ledger and interrupts (15, 16, 23) -/

/-- One mailbox (R358). -/
structure Mailbox where
  /-- Command slot [256 B; 16 R358; reset 0, DESIGN CHOICE log 2] -/
  slot : List Byte := List.replicate 256 0#8
  /-- Reply area [64 B; 16 R360; reset 0, DESIGN CHOICE log 2] -/
  reply : List Byte := List.replicate 64 0#8
  /-- The copy of the slot that the firmware holds while the mailbox is busy [256 B; 16 R359; reset none] -/
  held : Option (List Byte) := none
  deriving DecidableEq, Repr

/-- A completion that waits to be posted (R368, R369). -/
structure Completion where
  /-- Completed handle [32b] -/
  handle : Nat
  /-- Status code [16b] -/
  status : Nat
  /-- DETAIL [15b] -/
  detail : Nat := 0
  /-- Completion beat [64b] -/
  beat : Nat
  /-- HOST_TAG [32b] -/
  tag : Nat
  /-- Result word 0 [32b] -/
  r0 : Nat := 0
  /-- Result word 1 [32b] -/
  r1 : Nat := 0
  /-- Result word 2 [32b] -/
  r2 : Nat := 0
  /-- Its place among the entries of its beat is the completing rule's own (R369) -/
  ruled : Bool := false
  /-- `RM_LEDGER_WAITS` has counted it (R369) -/
  waited : Bool := false
  deriving DecidableEq, Repr

/-- One MSI-X vector: table entry and pending bit (R342, R499). -/
structure Vector where
  /-- Message address [64b; 23 R499; reset 0, PRESUMED PCI Express, log 5] -/
  addr : Nat := 0
  /-- Message data [32b; 23 R499; reset 0, PRESUMED PCI Express, log 5] -/
  data : Nat := 0
  /-- Mask bit [1b; 23 R499; reset 1, PRESUMED PCI Express, log 5] -/
  mask : Bool := true
  /-- Pending bit [1b; 15 R342; reset 0, PRESUMED PCI Express, log 5] -/
  pend : Bool := false
  deriving DecidableEq, Repr

/-- One PCIe function: 0 the PF, 1 to 16 the VFs. -/
structure Func where
  /-- The function exists: the PF, or a VF that is enabled [1b; 15 R339; reset 0 for a VF] -/
  enabled : Bool := false
  /-- The function is in D3hot [1b; 15 R338; reset 0] -/
  d3hot : Bool := false
  /-- MSI-X is enabled [1b; 15 R342; reset 0, PRESUMED PCI Express, log 5] -/
  msixOn : Bool := false
  /-- Vectors 0 to 3 [15 R342; reset as the vector's] -/
  vecs : List Vector := [{}, {}, {}, {}]
  /-- Generation, GEN [3b; 16 R364, 23 R494; reset 0] -/
  gen : Nat := 0
  /-- Handle sequence counter [24b; 16 R364; reset 0] -/
  seq : Nat := 0
  /-- A function-level reset is in progress [1b; 15 R343; reset 0] -/
  flr : Bool := false
  /-- Step groups whose boundary the function-level reset awaits [15 R343; reset none] -/
  flrWait : List Nat := []
  /-- Mailboxes by number [16 of the PF, 4 of a VF; 16 R358; reset idle] -/
  mbx : Tab Mailbox := []
  /-- `RM_EVENT`: [0] LEDGER [1] FAULT [2] SUPPLY [3] BEAT [4] STEP [5] WRAP [6] TALLY [7b; 23 R496; reset 0] -/
  event : Nat := 0
  /-- `RM_TICK_NOW` [10b; 23 R497; reset 0] -/
  tickNow : Nat := 0
  /-- `RM_WIN_DIE` [6b; 23 R497; reset 0] -/
  winDie : Nat := 0
  /-- `LEDGER_BASE` [64b, bits 11:0 zero; 23 R498; reset 0] -/
  ledBase : Nat := 0
  /-- `LEDGER_SIZE` ENTRIES [17b; 23 R498; reset 0] -/
  ledSize : Nat := 0
  /-- `LEDGER_CTL` ENABLE [1b; 23 R498; reset 0] -/
  ledOn : Bool := false
  /-- `LEDGER_CTL` CFG_ERR [1b; 23 R498; reset 0] -/
  ledCfgErr : Bool := false
  /-- `LEDGER_CTL` LOST [1b; 23 R498; reset 0] -/
  ledLost : Bool := false
  /-- `LEDGER_CTL` PHASE [1b; 23 R498; reset 0] -/
  ledPhase : Nat := 0
  /-- `LEDGER_TAIL` producer index [16b; 23 R498; reset 0] -/
  ledTail : Nat := 0
  /-- `LEDGER_HEAD` consumer index [16b; 23 R498; reset 0] -/
  ledHead : Nat := 0
  /-- Completions waiting in order; their number is `LEDGER_PENDING` [32b count; 16 R369, 23 R498; reset none] -/
  waiting : List Completion := []
  /-- SRV counters 0 to 9 at offsets 8·i: TOKENS_OUT, TOKENS_IN, DRAFT, ACCEPTED, REQUESTS, EXPIRED, BYTES_OUT, BYTES_IN, SKIPPED, BAD_ACCEPT [64b each, saturating; 13 R315; reset 0] -/
  srv : Tab Nat := []
  /-- `RM_SRV_SAT` [10b; 13 R315; reset 0] -/
  srvSat : Nat := 0
  /-- `RM_SRV_TOKENS_OUT` at the last AUX_COUNTS [64b; 18 R411; reset 0] -/
  auxTokens : Nat := 0
  /-- `RM_SRV_REQUESTS` at the last AUX_COUNTS [64b; 18 R411; reset 0] -/
  auxRequests : Nat := 0
  /-- SRV snapshot bank [64b each; 23 R505; reset 0] -/
  srvSnap : Tab Nat := []
  /-- `RM_SRV_SAT` in the snapshot bank [10b; 23 R505; reset 0] -/
  srvSnapSat : Nat := 0
  /-- SRV `SNAP_CTL` VALID [1b; 23 R505; reset 0] -/
  srvValid : Bool := false
  /-- `RM_MBX_IGNORED` [32b, saturating; 16 R359, 23 R505; reset 0] -/
  mbxIgnored : Nat := 0
  /-- `RM_LEDGER_BAD_HEAD` [32b, saturating; 16 R367, 23 R505; reset 0] -/
  badHead : Nat := 0
  /-- `RM_LEDGER_WAITS` [32b, saturating; 16 R369, 23 R505; reset 0] -/
  ledWaits : Nat := 0
  deriving DecidableEq, Repr

/-- A configuration transaction (R371 to R375). -/
structure Txn where
  /-- Its handle -/
  handle : Nat
  /-- PACKAGE scope [1b] -/
  package : Bool
  /-- Its pasture, for PASTURE scope [4b] -/
  pasture : Nat
  /-- Staged items, key and value, in staging order [at most 512; 16 R372] -/
  items : List (Nat × Nat) := []
  /-- Beat of the last CFG_SET, CFG_GET or CFG_BEGIN [64b; 16 R372] -/
  touched : Nat
  /-- Its CFG_COMMIT has been accepted [1b] -/
  pending : Bool := false
  /-- Commit beat C [64b] -/
  commit : Nat := 0
  /-- Order of acceptance of the commit [16 R375] -/
  order : Nat := 0
  /-- The final validation has passed [1b; 02 R46] -/
  validated : Bool := false
  /-- The commit has fired and items wait for quiescence [1b; 16 R374] -/
  fired : Bool := false
  /-- Groups that have not reached quiescence [16 R374] -/
  waits : List Nat := []
  /-- Groups at whose boundaries quiescence keys took effect [16 R373] -/
  reached : Nat := 0
  deriving DecidableEq, Repr

/-- A fault record (R420). -/
structure FaultRec where
  /-- SEQ [32b] -/
  seq : Nat
  /-- CODE [16b] -/
  code : Nat
  /-- DIE [6b] -/
  die : Nat
  /-- CORE [6b] -/
  core : Nat
  /-- DISP [4b] -/
  disp : Nat
  /-- UNIT [3b] -/
  unit : Nat := 0
  /-- ESCTO [3b] -/
  escto : Nat := 0
  /-- PASTURE [5b] -/
  pasture : Nat
  /-- ACKED [1b] -/
  acked : Bool := false
  /-- BEAT [64b] -/
  beat : Nat
  /-- LINK [32b] -/
  link : Nat := 0
  /-- INFO [80b] -/
  info : Nat := 0
  deriving DecidableEq, Repr

/-- The fault log, the fault queue and reseeding (19). -/
structure Faults where
  /-- The log, oldest first [1,024 records; 19 R423; reset empty] -/
  log : List FaultRec := []
  /-- SEQ of the last record, 0 before the first [32b; 19 R420; reset 0] -/
  lastSeq : Nat := 0
  /-- Queued faults by SEQ, in order of arrival [8; 19 R427; reset empty] -/
  queue : List Nat := []
  /-- The recovery that runs, by SEQ of its record [19 R427; reset none] -/
  running : Option Nat := none
  /-- Pens that are offline [16b; 19 R430; reset 0] -/
  offline : Nat := 0
  /-- Times of SPAD_UE by core, the last beat of each [19 R422; reset none] -/
  spadUe : Tab Nat := []
  /-- Reseeds under way or waiting: pasture × 1024 + image, block and source [19 R435; reset none] -/
  reseeds : List (Nat × Nat × Nat) := []
  deriving DecidableEq, Repr

/-! ### Pastures, images, prefixes, shows and requests (01, 13, 15, 16) -/

/-- A weight image in a pen of its pasture (R381). -/
structure Image where
  /-- Pen that stores it [4b] -/
  pen : Nat
  /-- Pen offset [38b] -/
  off : Nat
  /-- Length in bytes [39b] -/
  len : Nat
  /-- FMT [4b] -/
  fmt : Nat
  /-- Taken as SHARED [1b; 16 R381] -/
  shared : Bool
  /-- Grant mask of pastures [16b; 16 R381] -/
  grants : Nat := 0
  /-- CRC-32 of each 4 KiB block [32b each; 16 R381] -/
  crcs : List Nat := []
  /-- Golden copy in tier 2: its bytes before encoding [16 R381] -/
  golden : Option (List Byte) := none
  /-- Tier-2 port of the golden copy [1b; 09 R220] -/
  goldenPort : Nat := 0
  /-- Tier-2 page at which the golden copy begins [63b; 09 R220] -/
  goldenPage : Nat := 0
  /-- GOLDEN is set and the copy is still to be written [1b; 16 R381] -/
  goldenDue : Bool := false
  /-- The image is written [1b] -/
  ready : Bool := false
  /-- The image is lost [1b; 19 R436] -/
  lost : Bool := false
  /-- Blocks that hold poison and are not yet reseeded [19 R433] -/
  tainted : List Nat := []
  /-- Beat of the last clean audit of a block [64b; 19 R433] -/
  clean : Tab Nat := []
  deriving DecidableEq, Repr

/-- A learned prefix (R298 to R300). -/
structure Prefix where
  /-- Page lists by layer-group × 16 + pen [13 R298] -/
  lists : Tab (List Nat) := []
  /-- Committed positions [13 R298] -/
  length : Nat := 0
  /-- Open requests that name it [32b; 13 R298] -/
  count : Nat := 0
  /-- Dropped: waits for its count to reach 0 [1b; 13 R300] -/
  dropped : Bool := false
  /-- Grant mask of pastures [16b; 13 R299] -/
  grants : Nat := 0
  /-- The drop's handle, 0 for none [32b; 13 R300] -/
  dropHandle : Nat := 0
  /-- Count at the drop's acceptance [32b; 13 R300] -/
  dropCount : Nat := 0
  /-- Pages are built [1b; 13 R298] -/
  built : Bool := false
  deriving DecidableEq, Repr

/-- An act of a loaded show (R92, R93), in the act store of its core. -/
structure Act where
  /-- DIE [6b; 04 R93] -/
  die : Nat
  /-- CORE [6b; 04 R93] -/
  core : Nat
  /-- GROUP [4b; 04 R93] -/
  group : Nat
  /-- PLACE [2b; 04 R93] -/
  place : Nat
  /-- TAG [64b; 04 R93] -/
  tag : Nat
  /-- Op words [1 to 8,192 of 128b; 04 R84] -/
  ops : List Nat
  /-- Descriptors [at most 512 of 256b; 04 R89] -/
  descs : List Nat
  /-- Base bindings [at most 16 of 256b; 04 R93] -/
  binds : List Nat
  deriving DecidableEq, Repr

/-- An entry of a die's seed registry (R116). -/
structure SeedReg where
  /-- Die whose registry holds the entry -/
  die : Nat
  /-- Reduction index -/
  red : Nat
  /-- Seed *S* [32b] -/
  s : Nat
  /-- Generator -/
  g : Nat
  /-- Core -/
  core : Nat
  /-- Array -/
  arr : Nat
  deriving DecidableEq, Repr

/-- A loaded show (R382, R383). An entry of a section is held as the number of its bytes. -/
structure Show where
  /-- POSITION [12b] -/
  position : Nat := 0
  /-- NPOS [16b] -/
  npos : Nat := 0
  /-- LGROUPS [9b] -/
  lgroups : Nat := 1
  /-- BMAX [13b] -/
  bmax : Nat := 1
  /-- RMAX [17b] -/
  rmax : Nat := 1
  /-- STOP [32b] -/
  stop : Nat := 0
  /-- SUPPORT [16b] -/
  support : Nat := 0
  /-- Sections by KIND: entries in order [16 R383] -/
  secs : Tab (List Nat) := []
  /-- WIDTH entries: header and its core entries [16 R383] -/
  widths : List (Nat × List Nat) := []
  /-- Acts, by index in the container: the contents of the cores' act stores and descriptor tables [8,192 op words and 512 descriptors a core; 04 R92] -/
  acts : List Act := []
  /-- Weights pinned under RESIDENT: act, base, owner pasture, image and image offset [13 R310; reset none] -/
  pins : List (Nat × Nat × Nat × Nat × Nat) := []
  /-- Package addresses of the positions of its step groups, by position [12b each; 08 R179, 12 R274; reset none] -/
  addrs : List Nat := []
  /-- DMA bases declared as carrying AS: act and base register [07 R162; reset none] -/
  sparse : List (Nat × Nat) := []
  /-- Seed registry entries of its dies [4,096 a die; 05 R116; reset none] -/
  seeds : List SeedReg := []
  deriving DecidableEq, Repr

/-- A pasture (R20). -/
structure Pasture where
  /-- Pens, as a mask [16b; 01 R20] -/
  pens : Nat
  /-- Bound function [5b; 01 R20] -/
  func : Nat
  /-- PASTURE keys in force, as CFG_GET returns them [17 R390] -/
  keys : Tab Nat := []
  /-- Its pens are cleared and it is usable [1b; 16 R380] -/
  ready : Bool := false
  /-- A destroy is under way [1b; 16 R380] -/
  dying : Bool := false
  /-- Images by number [at most 1,024; 16 R381] -/
  images : Tab Image := []
  /-- Prefixes by number [at most 1,024; 13 R298] -/
  prefixes : Tab Prefix := []
  /-- The loaded show [16 R382] -/
  sh : Option Show := none
  /-- A show is being read and checked [1b; 16 R382] -/
  loading : Bool := false
  deriving DecidableEq, Repr

/-- Request states of R286. -/
inductive ReqState where
  | idle | prefill | decode | pausing | paused | resuming
  deriving DecidableEq, Repr

/-- A page of a paused request in tier 2 (R306). -/
structure TierPage where
  /-- Page-list key, layer-group × 16 + pen -/
  list : Nat
  /-- Index in the page list -/
  idx : Nat
  /-- Tier-2 page, and its port in bit 0 of `port` -/
  page : Nat
  /-- Tier-2 port [1b] -/
  port : Nat
  /-- XC tensor -/
  xc : List Byte
  /-- FMT [4b] -/
  fmt : Nat
  /-- COMMITTED mask [64b] -/
  committed : Nat
  /-- MASKED mask [64b] -/
  masked : Nat
  deriving DecidableEq, Repr

/-- A request (R285). -/
structure Request where
  /-- Its pasture [4b] -/
  pasture : Nat
  /-- State [13 R286] -/
  st : ReqState := .idle
  /-- Committed positions [19b; 13 R286] -/
  committed : Nat := 0
  /-- Page lists by layer-group × 16 + pen: page numbers in order [at most 4,096 each; 13 R292] -/
  lists : Tab (List Nat) := []
  /-- Position map: page-list index × 64 + slot of each committed position, one map for each layer-group [13 R293] -/
  posMap : Tab (List Nat) := []
  /-- Prefix it names: owner pasture × 1024 + number [13 R298] -/
  pfx : Option Nat := none
  /-- Beat of the command that moved it into PREFILL or DECODE [64b; 13 R287] -/
  admitted : Nat := 0
  /-- Running REQ_APPEND, 0 for none [32b; 13 R286] -/
  append : Nat := 0
  /-- Prompt positions of the running append still to be committed [21b; 13 R291] -/
  prompt : Nat := 0
  /-- Prompt tokens are read from the host [1b; 16 R377] -/
  tokensIn : Bool := false
  /-- Tokens of the prompt still to be committed [32b each; 16 R385] -/
  tokens : List Nat := []
  /-- Queued REQ_APPEND, its count and tokens; 0 for none [13 R286] -/
  qAppend : Nat := 0
  /-- Its count [21b] -/
  qCount : Nat := 0
  /-- Its tokens [32b each] -/
  qTokens : List Nat := []
  /-- Its tokens are read from the host [1b] -/
  qIn : Bool := false
  /-- Beat of its acceptance [64b; 13 R287] -/
  qBeatA : Nat := 0
  /-- Running REQ_GENERATE, 0 for none [32b; 13 R286] -/
  gen : Nat := 0
  /-- Its maximum [21b; 13 R288] -/
  genMax : Nat := 0
  /-- Tokens written [21b; 13 R288] -/
  genDone : Nat := 0
  /-- Its host buffer [64b; 13 R288] -/
  genBuf : Nat := 0
  /-- Tokens in the buffer before this handle, for a successor [19 R434] -/
  genBase : Nat := 0
  /-- Queued REQ_GENERATE, 0 for none [32b; 13 R286] -/
  qGen : Nat := 0
  /-- Its maximum [21b] -/
  qMax : Nat := 0
  /-- Its host buffer [64b] -/
  qBuf : Nat := 0
  /-- Beat of its acceptance [64b; 13 R287] -/
  qBeatG : Nat := 0
  /-- The queued generate was accepted before the queued append [1b; 13 R286] -/
  qGenFirst : Bool := false
  /-- Pages reserved in each page list for the running command [13 R295] -/
  resv : Nat := 0
  /-- Pages reserved in each page list for the queued append [13 R295] -/
  qResvA : Nat := 0
  /-- Pages reserved in each page list for the queued generate [13 R295] -/
  qResvG : Nat := 0
  /-- Draft slots of the running step, by node: page-list index × 64 + slot [13 R302] -/
  draft : List Nat := []
  /-- Slots of the running step's chunk [13 R303] -/
  chunk : List Nat := []
  /-- Expiry beat while PAUSING or PAUSED [64b; 13 R307] -/
  expiry : Nat := 0
  /-- REQ_PAUSE handle, 0 for none [32b; 13 R306] -/
  pause : Nat := 0
  /-- The Drover may move its pages: a boundary has passed since acceptance [1b; 13 R306] -/
  moving : Bool := false
  /-- A page failed to move, so it and the rest stay in the stacks [1b; 13 R306] -/
  inStacks : Bool := false
  /-- REQ_RESUME handle, 0 for none [32b; 13 R308] -/
  resume : Nat := 0
  /-- Pages restored by the running resume [13 R308] -/
  restored : Nat := 0
  /-- Page entries in tier 2, in page-list order [13 R306] -/
  tier : List TierPage := []
  /-- REQ_CLOSE handle, 0 for none [32b; 13 R286] -/
  close : Nat := 0
  /-- The request closes at its next boundary or when the Drover's page ends [1b; 13 R286] -/
  closing : Bool := false
  /-- The entry is the work of a PREFIX_BUILD: prefix number [13 R298] -/
  build : Option Nat := none
  deriving DecidableEq, Repr

/-- A KV page record (R293). -/
structure PageRec where
  /-- COMMITTED [64b; 13 R293; reset 0] -/
  committed : Nat := 0
  /-- DRAFT [64b; 13 R293; reset 0] -/
  draft : Nat := 0
  /-- MASKED [64b; 13 R293; reset 0] -/
  masked : Nat := 0
  /-- EPOCH [32b; 13 R293; reset 0] -/
  epoch : Nat := 0
  /-- REFCOUNT [16b; 13 R294; reset 0] -/
  refs : Nat := 0
  /-- FMT [4b; 13 R293; reset 0] -/
  fmt : Nat := 0
  /-- PREFIX [1b; 13 R293; reset 0] -/
  pfx : Bool := false
  /-- Pasture whose pool holds the page [4b; 13 R292] -/
  pasture : Nat := 0
  deriving DecidableEq, Repr

/-- The access map of a pen's stack controllers (R354). -/
structure AccessMap where
  /-- Read-write bit for each die identifier [40b; 15 R354; reset 0] -/
  rw : Nat := 0
  /-- Read-only windows: pen offset, length and source-die mask [32; 15 R354; reset none] -/
  windows : List (Nat × Nat × Nat) := []
  deriving DecidableEq, Repr

/-- What a HANDLED command still has to do (R362). -/
inductive Work where
  /-- A configuration transaction. -/
  | txn
  /-- A request handle, open for the life of the request. -/
  | request
  /-- `PASTURE_CREATE`: the pasture, and the pens still being cleared. -/
  | pastureCreate (pasture pens : Nat)
  /-- `PASTURE_DESTROY`: the pasture, its pens, and the pens still being cleared. -/
  | pastureDestroy (pasture pens left : Nat)
  /-- `IMAGE_LOAD` that waits for its host data, or for its golden copy when `written`. -/
  | imageLoad (pasture img : Nat) (written : Bool)
  /-- `IMAGE_RESEED` that waits for its host data. -/
  | imageReseed (pasture img off len : Nat)
  /-- `SHOW_LOAD` that waits for its container. -/
  | showLoad (pasture len : Nat)
  /-- `SHOW_LOAD` whose container has been read. -/
  | showCheck (pasture : Nat) (data : List Byte)
  /-- `SHOW_UNLOAD`: groups whose boundary is awaited. -/
  | showUnload (pasture : Nat) (groups : List Nat)
  /-- `REQ_APPEND` of a request. -/
  | reqAppend (req : Nat)
  /-- `REQ_GENERATE` of a request. -/
  | reqGenerate (req : Nat)
  /-- `REQ_PAUSE` of a request. -/
  | reqPause (req : Nat)
  /-- `REQ_RESUME` of a request. -/
  | reqResume (req : Nat)
  /-- `REQ_CLOSE` of a request. -/
  | reqClose (req : Nat)
  /-- `PREFIX_BUILD`: number; its positions run as the entry of the same handle among the requests. -/
  | prefixBuild (pasture num : Nat)
  /-- `PREFIX_TRAIN`: number, steps asked for and run. -/
  | prefixTrain (pasture num steps done : Nat) (blockIn : Bool)
  /-- `PREFIX_DROP`: number. -/
  | prefixDrop (pasture num : Nat)
  /-- `ADAPTER_TRAIN`: set, steps asked for and run. -/
  | adapterTrain (pasture num steps done : Nat) (blockIn : Bool)
  /-- `EXPERT_MAP_SET`: first index, count, MAPVER, effective beat and its entries. -/
  | expertMapSet (first count mapver beat : Nat) (entries : List Nat)
  /-- `LINK_TRAIN` of a link. -/
  | linkTrain (link : Nat)
  /-- `ROUTE_SET`: address, sizes, wrap flags and roles, waiting for its range table. -/
  | routeSet (addr sizes wrap roles : Nat)
  /-- `BEAT_SYNC`. -/
  | beatSync
  /-- `DIAG_BIST`: die mask, level, host buffer and length. -/
  | diagBist (dies level buf len : Nat)
  /-- `DIAG_MARGIN`: pen, index, WRITE and host buffer. -/
  | diagMargin (pen idx : Nat) (write : Bool) (buf : Nat)
  /-- A command that completes at once. -/
  | immediate
  deriving DecidableEq, Repr

/-- An open handle (R364, R365). -/
structure Handle where
  /-- HOST_TAG of the command [32b; 16 R368] -/
  tag : Nat
  /-- What remains to be done -/
  work : Work
  deriving DecidableEq, Repr

/-! ### Cores and arrays (03, 04, 05) -/

/-- What an array's FIFO holds (R62, R115): an array step, by its op word and the array's place among the selected ones, or a
seed for a generator. -/
inductive ArrOp where
  /-- An array step: index of its op word in the act, the op word, the array's place among the selected arrays, and whether it
  runs under a `SKIP_IF` on a repaired group (R174). -/
  | step (pc op idx : Nat) (repair : Bool)
  /-- A `SEED`: index of its op word, generator and seed. -/
  | seed (pc g s : Nat)
  deriving DecidableEq, Repr

/-- One entry of a slice store: lane, activation, and the lane's eight weights as T2 codes (R57). -/
structure SliceEntry where
  /-- Lane whose slice holds it, or from which its element comes [3b] -/
  lane : Nat
  /-- Activation [8b] -/
  x : Int
  /-- Weight row [16b] -/
  row : Nat
  /-- In the tail [1b] -/
  tail : Bool
  deriving DecidableEq, Repr

/-- One array of a core (R48 to R72). -/
structure Arr where
  /-- Active tile [128b; 03 R53; reset 0, DESIGN CHOICE log 2] -/
  tile : Nat := 0
  /-- Shadow tile [128b; 03 R53; reset 0, DESIGN CHOICE log 2] -/
  shadow : Nat := 0
  /-- Accumulator slots by slot × 8 + column [A48, 64 of them; 03 R54; reset 0, DESIGN CHOICE log 2] -/
  slots : Tab Int := []
  /-- Common exponent of each slot, biased by 127 [8b; 03 R66; reset 127, DESIGN CHOICE log 2] -/
  exps : Tab Nat := []
  /-- Inactive mask of each slot [8b each; 03 R69; reset 0, DESIGN CHOICE log 2] -/
  inactive : Tab Nat := []
  /-- Proven-active mask of each slot [8b each; 03 R69; reset 0, DESIGN CHOICE log 2] -/
  proven : Tab Nat := []
  /-- S_abs of each column in the current step [16b each; 03 R50; reset 0, DESIGN CHOICE log 2] -/
  sabs : List Nat := [0, 0, 0, 0, 0, 0, 0, 0]
  /-- Threshold registers of the columns [A48 each; 03 R67, 04 R87; reset 0, DESIGN CHOICE log 2] -/
  theta : List Int := [0, 0, 0, 0, 0, 0, 0, 0]
  /-- Generator states 0 to 3, those that a SEED has set; another is at its reset state [32b each; 05 R112, R113; reset as R113] -/
  gens : Tab Nat := []
  /-- FIFO, oldest first [4 entries; 03 R62; reset empty] -/
  fifo : List ArrOp := []
  /-- Slice store, the bank in use and the other [2 banks of 8 × 448 + 512 entries; 03 R57; reset empty] -/
  bank : List SliceEntry := []
  /-- The other bank, which the feeder fills [as `bank`; 03 R57; reset empty] -/
  bank2 : List SliceEntry := []
  /-- The next step in the FIFO was loaded while the previous one ran, for this many array-cycles: its first tile is in the shadow, or `bank2` holds its entries [03 R53, R57; reset none] -/
  loaded : Option Nat := none
  /-- Mode, width and reuse depth of the last step, coded MODE + 2·WIDTH + 4·r [03 R63; reset none] -/
  last : Option Nat := none
  /-- A parity error has stopped the array [1b; 03 R72; reset 0] -/
  stopped : Bool := false
  deriving DecidableEq, Repr

/-- A base register (R88). -/
inductive BaseReg where
  /-- A device address, a limit in bytes, whether it expands TP5 (R99), whether it is read-only (R353), and whether its runs are
  AS tensors (R162). -/
  | linear (addr limit : Nat) (expanding readOnly sparse : Bool)
  /-- Page numbers of a page list (R292). -/
  | paged (pages : List Nat) (sparse : Bool)
  deriving DecidableEq, Repr

/-- What holds a sequencer (R83, R87). -/
inductive SeqWait where
  /-- Nothing: the op word at the pc may issue. -/
  | none_
  /-- The queue of its unit, or the FIFO of an array, is full. -/
  | queue
  /-- W: every earlier op must complete. -/
  | w
  /-- `SKIP_IF` waits as if W were set. -/
  | skip
  /-- `BARRIER` on a unit mask. -/
  | barrier (mask : Nat)
  /-- `WAIT_BEAT`: beats and tick after the step start. -/
  | beat (beats tick : Nat)
  /-- `END` waits for every unit. -/
  | fin
  deriving DecidableEq, Repr

/-- The act that a core runs (R92). -/
structure Run where
  /-- Pasture of its show [4b] -/
  pasture : Nat
  /-- Index of the act in the show -/
  act : Nat
  /-- Step group [4b] -/
  group : Nat
  /-- Index of the next op word [13b; 04 R83] -/
  pc : Nat := 0
  /-- What holds the sequencer [04 R83, R87] -/
  wait : SeqWait := .none_
  /-- Beat of the step start [64b; 04 R87] -/
  start : Nat := 0
  /-- The act has issued `POUND_ADD` or `POUND_DRAIN` (R163) -/
  pound : Bool := false
  /-- Op words below this index run under a `SKIP_IF` whose word had REPAIR set and bits [63:0] clear (R174) -/
  repairTo : Nat := 0
  /-- Channels on which the act has sent (R182) -/
  sent : List Nat := []
  deriving DecidableEq, Repr

/-- A transfer that waits on a channel of the exchange port, or a queued op of another unit: the op word. -/
structure QOp where
  /-- Unit, numbered as the `BARRIER` mask bits (R87) -/
  unit : Nat
  /-- Index of the op word in its act -/
  pc : Nat
  /-- The op word -/
  op : Nat
  /-- Pairs of a `POUND_ADD` taken before its flush, or 1 for a `SEND` whose rows have left -/
  done : Nat := 0
  /-- Facts of the world that came with the op: image blocks of an `AUDIT`'s tiles -/
  facts : List Nat := []
  /-- Code words in which the stacks' reads for the op find symbols in error -/
  errs : List (Nat × Nat) := []
  deriving DecidableEq, Repr

/-- Statistics of one range monitor over a step (R140). -/
structure Mon where
  /-- ELEMS -/
  elems : Nat := 0
  /-- SAT -/
  sat : Nat := 0
  /-- ZERO -/
  zero : Nat := 0
  /-- SAT_BLOCKS -/
  satBlocks : Nat := 0
  /-- ZERO_BLOCKS -/
  zeroBlocks : Nat := 0
  /-- MAXABS, F32 bits -/
  maxabs : Nat := 0
  deriving DecidableEq, Repr

/-- The Pound (R163 to R167). -/
structure Pound where
  /-- Value type: 0 I64, 1 F32; none while it is empty [07 R163; reset none] -/
  vtype : Option Nat := none
  /-- Resident entries by key [65,536 of 64b; 07 R163; reset empty] -/
  resident : Tab Nat := []
  /-- Spill log: key and value of each entry, in append order; the same pairs stand in the scratchpad's log area [at most 8,192 of 128b; 07 R164; reset empty] -/
  log : List (Nat × Nat) := []
  /-- Entries flushed to the overflow region, in flush order; the same pairs stand in the region [07 R166; reset empty] -/
  flushed : List (Nat × Nat) := []
  /-- Bytes used in the overflow region [64b; 07 R166; reset 0] -/
  ovBytes : Nat := 0
  /-- The full log waits for its flush [1b; 07 R166; reset 0] -/
  flushDue : Bool := false
  deriving DecidableEq, Repr

/-- One core (R75 to R96). -/
structure Core where
  /-- The act it runs [04 R92; reset none] -/
  run : Option Run := none
  /-- Ops issued and not complete, of every unit but the arrays, in issue order [4 for each unit; 04 R82; reset empty] -/
  queue : List QOp := []
  /-- Arrays by logical index [48 or 24; 03; reset as the array's] -/
  arrs : Tab Arr := []
  /-- Base registers [16; 04 R88; reset none bound] -/
  bases : Tab BaseReg := []
  /-- The activation buffer's exponent table, by 16-byte granule of the buffer; a granule not listed is at 127 [8b each; 03 R66, 04 R87; reset 127, DESIGN CHOICE log 2] -/
  bexp : Tab Nat := []
  /-- Occupancy of granules that an AS `ASTREAM` filled: 0 absent, 1 present [1b each; 04 R87, 07 R156; reset none] -/
  bocc : Tab Nat := []
  /-- `CORE_MARK` [32b; 04 R95; reset 0] -/
  mark : Nat := 0
  /-- Audit phase, its advance since reset; the phase is die × 64 + core more (R144) [32b; 06 R144; reset as R144] -/
  audit : Nat := 0
  /-- Sample phase, its advance since reset; the phase is die × 64 + core more (R173) [32b; 07 R173; reset as R173] -/
  sample : Nat := 0
  /-- Layers whose drift the core has raised in this step [06 R147; reset none] -/
  drifted : List Nat := []
  /-- Range monitors of this step [64; 06 R140; reset none] -/
  mons : Tab Mon := []
  /-- The Pound [07 R163; reset empty] -/
  pound : Pound := {}
  /-- Poisoned device addresses met in this step, with the beat of each [19 R432, R433; reset none] -/
  poison : List (Nat × Nat) := []
  /-- Scratchpad words that hold an uncorrectable error and read as zero [19 R422; reset none] -/
  badWords : List Nat := []
  /-- Arrays waiting for a spare: no step is pushed to them [03 R72; reset none] -/
  lostArrays : List Nat := []
  deriving DecidableEq, Repr

/-- A width entry's standing in the width controller (R138, R142). -/
structure Width where
  /-- Rung in force: 0 A4, 1 BX4, 2 A8 [2b; 06 R138; reset by SHOW_LOAD] -/
  rung : Nat
  /-- Rung that enters the width areas at the next step start [2b; 06 R142] -/
  next : Nat
  /-- Quiet count [4b; 06 R142; reset 0] -/
  quiet : Nat := 0
  deriving DecidableEq, Repr

/-- What the width controller keeps for a monitor (R141, R142). -/
structure MonCtl where
  /-- Counts of the step just completed [as R140; 06 R142; reset 0] -/
  step : Mon := {}
  /-- Cumulative SAT, ZERO, SAT_BLOCKS, ZERO_BLOCKS, widenings, narrowings [32b each, saturating; 06 R141; reset 0] -/
  cum : List Nat := [0, 0, 0, 0, 0, 0]
  deriving DecidableEq, Repr


/-! ### Reductions (08) -/

/-- A participant's part in an instance of a reduction (R181 to R188). -/
structure Part where
  /-- Its contribution: 0 not come, 1 data, 2 EMPTY [2b; 08 R182; reset 0] -/
  st : Nat := 0
  /-- Tree levels at which its buffer is done [5b; 08 R185; reset 0] -/
  level : Nat := 0
  /-- It has sent its buffer to its receiver [1b; 08 R185; reset 0] -/
  gone : Bool := false
  /-- A contribution held for a later step: the step's start beat, its kind and data [08 R183; reset none] -/
  held : Option (Nat × Nat × List Byte) := none
  deriving DecidableEq, Repr

/-- A step that has started while an earlier step's instance of a reduction is incomplete (R183). -/
structure RedWait where
  /-- Start beat of the step [64b; 08 R183] -/
  step : Nat
  /-- Tree levels whose Calendar time has come in it [08 R187] -/
  phases : List Nat := []
  /-- As `heldPhases` of the instance [02 R43] -/
  heldPhases : List (Nat × Nat) := []
  /-- Its instance is abandoned already [1b; 08 R184] -/
  lost : Bool := false
  deriving DecidableEq, Repr

/-- The instance of a reduction entry in the present step. -/
structure Inst where
  /-- An instance has begun [1b; 08 R183; reset 0] -/
  live : Bool := false
  /-- Start beat of its step [64b; 08 R183] -/
  step : Nat := 0
  /-- It runs its tree, else ARRIVAL [1b; 08 R191] -/
  tree : Bool := true
  /-- Participants by index [08 R179] -/
  parts : Tab Part := []
  /-- Contributions counted at the Fold in front of DEST [16b; 08 R188; reset 0] -/
  count : Nat := 0
  /-- A non-EMPTY contribution has been stored [1b; 08 R188; reset 0] -/
  stored : Bool := false
  /-- The result is at DEST [1b; 08 R181; reset 0] -/
  done : Bool := false
  /-- Abandoned [1b; 08 R184; reset 0] -/
  abandoned : Bool := false
  /-- Tree levels whose Calendar time has come [08 R187; reset none] -/
  phases : List Nat := []
  /-- Levels and dies whose copy of a tree-phase entry a recovery holds: participants there do not send yet [02 R43; reset none] -/
  heldPhases : List (Nat × Nat) := []
  /-- Later steps that wait for this instance to complete, in order [08 R183; reset none] -/
  waits : List RedWait := []
  /-- Results that other packages have sent, by the start beat of their step [08 R185, R188; reset none] -/
  results : Tab (List Byte) := []
  deriving DecidableEq, Repr

/-! ### Stacks and the Fold (09) -/

/-- A requester's standing at an arbiter lane (R212). -/
structure Backoff where
  /-- Backoff count [8b; 09 R212; reset 0] -/
  count : Nat := 0
  /-- Cycle before which it makes no request [64b; 09 R212; reset 0] -/
  next : Nat := 0
  /-- Cycle at which it aged [64b; 09 R212; reset none] -/
  aged : Option Nat := none
  deriving DecidableEq, Repr

/-- One lane of a stack's arbiter (R209 to R212). -/
structure Lane where
  /-- Window of 64 cycles that *used* counts in [58b; 09 R211; reset 0] -/
  window : Nat := 0
  /-- HIGH grants in the window [5b; 09 R211; reset 0] -/
  used : Nat := 0
  /-- Requester last granted HIGH, 43 before the first [6b; 09 R211; reset none] -/
  lastHigh : Nat := 43
  /-- Requester last granted NORMAL, 43 before the first [6b; 09 R211; reset none] -/
  lastNormal : Nat := 43
  /-- Requesters' standings [43; 09 R212; reset as the standing's] -/
  backoff : Tab Backoff := []
  deriving DecidableEq, Repr

/-- One pseudo-channel (R196, R205 to R208). -/
structure PseudoChannel where
  /-- Refresh obligations pending, 0 to 9 [4b; 09 R208; reset 0] -/
  owed : Nat := 0
  /-- Beats of the corrected code words of the last 2^24 beats [1,024; 09 R205; reset none] -/
  ces : List Nat := []
  /-- Code words newly poisoned in the last 2^24 beats, with their beats [09 R205; reset none] -/
  ues : List (Nat × Nat) := []
  /-- Transfers queued, at most 32 [6b; 09 R209; reset 0] -/
  queued : Nat := 0
  /-- Its replacement has been asked for [1b; 09 R205; reset 0] -/
  sparing : Bool := false
  /-- The spare of its group serves its index [1b; 09 R206; reset 0] -/
  spared : Bool := false
  deriving DecidableEq, Repr

/-- One stack with its controller and Fold (R196 to R216). -/
structure Stack where
  /-- Lanes of the arbiter [8; 09 R209; reset as the lane's] -/
  lanes : Tab Lane := []
  /-- Pseudo-channels, 0 to 63 in use [64; 09 R196; reset as the channel's] -/
  pcs : Tab PseudoChannel := []
  /-- Spares by group: 0 free, 1 in use, 2 not usable [4 × 2b; 09 R197, R205; reset 0] -/
  spares : Tab Nat := []
  /-- Fold sets by slice × 512 + set: blocks from the least to the most recently used, each with its dirty bit [8 × 512 sets of 16 ways; 09 R213; reset empty] -/
  fold : Tab (List (Nat × Bool)) := []
  /-- Ways off by Fold slice, 0 to 7 [at most 4 a slice; 09 R216, 20 R447; reset 0] -/
  waysOff : Tab Nat := []
  /-- Temperature band of R207: 0 up to 85 °C, 1 to 95 °C, 2 above [2b; 09 R207; reset 0, DESIGN CHOICE log 2] -/
  band : Nat := 0
  deriving DecidableEq, Repr
/-! ### Counters (19, 23) -/

/-- A performance counter group (R437, R438, R501). -/
structure Perf where
  /-- COUNT of the register at offset 8·i, for each i [48b each, wrapping; 19 R437; reset 0] -/
  live : Tab Nat := []
  /-- OVF of each register, bit i for offset 8·i [1b each; 19 R437; reset 0] -/
  ovf : Nat := 0
  /-- COUNT of each register in the snapshot bank [48b each; 19 R438; reset 0] -/
  snap : Tab Nat := []
  /-- OVF of each register in the snapshot bank [1b each; 19 R438; reset 0] -/
  snapOvf : Nat := 0
  /-- `SNAP_CTL` IRQ_EN [1b; 19 R439, 23 R501; reset 0] -/
  irqEn : Bool := false
  /-- `SNAP_CTL` VALID [1b; 23 R501; reset 0] -/
  valid : Bool := false
  /-- `SNAP_BEAT` [64b; 23 R501; reset 0] -/
  beat : Nat := 0
  /-- PERF_WRAP has been recorded since the last SNAPCLR that cleared OVF bits [1b; 19 R439; reset 0] -/
  wrapped : Bool := false
  deriving DecidableEq, Repr

/-! ### The fence walk (20) -/

/-- A failing in-service item that waits for its retest (R446). -/
structure Retest where
  /-- ADDRESS of the first failure [32b] -/
  addr : Nat
  /-- BIT of the first failure [8b] -/
  bit : Nat
  deriving DecidableEq, Repr

/-- What the firmware keeps of the fence walk (R441 to R453). -/
structure Fence where
  /-- Result records of start-up and in-service failures, oldest first [4,096 of 256b; 20 R452; reset none] -/
  recs : List Nat := []
  /-- Beat at which each core's last walk completed, by die × 64 + core; a core not listed has completed none [64b each; 20 R444; reset none] -/
  walks : Tab Nat := []
  /-- Failing items that wait for a retest, by (die × 64 + core) × 65,536 + slice number [20 R446; reset none] -/
  retests : Tab Retest := []
  /-- Slice number of the item that each core's walk has passed last, by die × 64 + core; a core not listed begins with its first [16b each; 20 R442; reset none] -/
  passed : Tab Nat := []
  /-- Beat at which the last slice of each core was due or ran, by die × 64 + core, and of each Fold, by 2,560 + stack: no other one begins
  within 8,000 µs of it [64b each; 02 R47, 20 R444, R445; reset none] -/
  slices : Tab Nat := []
  /-- Spare array of each core, by die × 64 + core: 0 not tested, 1 passed its latest test, 2 failed it, 3 in use [2b each; 01 R25, 20 R445; reset 0] -/
  spareArr : Tab Nat := []
  /-- Spare cores, by die × 4 + spare index, 4 on a Shear die and 2 on a Graze die, coded as the spare arrays [2b each; 01 R25, 20 R445; reset 0] -/
  spareCore : Tab Nat := []
  /-- Spare words taken, by (die × 64 + core) × 128 + scratchpad bank, or + 64 + buffer quarter [8 each; 20 R447; reset 0] -/
  words : Tab Nat := []
  /-- Soft repairs in force and not fused: die, and the kind of repair × 2^32 with the unit it repairs, in order [20 R447, R453; reset none] -/
  repairs : List (Nat × Nat) := []
  /-- Next start-up test group, 10 when all are done [4b; 20 R448; reset 0] -/
  group : Nat := 0
  deriving DecidableEq, Repr


/-! ### Tier 2 (09, 13) -/

/-- One tier-2 port of the Tier die (R217, R218). -/
structure TierPort where
  /-- The port has trained, has a device, and has not been lost [1b; 09 R217, R220; reset 0] -/
  up : Bool := false
  /-- Lanes [5b; 09 R217; reset 0] -/
  width : Nat := 0
  /-- GT/s of a lane [7b; 09 R217; reset 0] -/
  rate : Nat := 0
  /-- Bytes of its decoded ranges, one a device, at most 8 devices [44b each; 09 R217, R218; reset none] -/
  ranges : List Nat := []
  /-- Bytes in its decoded ranges, at most 8 TiB [44b; 09 R217, R218; reset 0] -/
  cap : Nat := 0
  deriving DecidableEq, Repr


/-! ### Expert routing (14) -/

/-- One choice of an instance: a token's rank and the expert that takes it (R324). -/
structure Choice where
  /-- Token index -/
  token : Nat
  /-- Rank, 1 to k -/
  rank : Nat
  /-- Expert -/
  expert : Nat
  /-- Assignment slot -/
  slot : Nat
  /-- The expert is a substitute -/
  subst : Bool := false
  /-- Weight, F32 bits (R325) -/
  weight : Nat := 0
  /-- Shards of the expert -/
  shards : Nat := 1
  /-- Shards whose return is in -/
  got : List Nat := []
  /-- Refused by its destination (R332) -/
  refused : Bool := false
  deriving DecidableEq, Repr

/-- One arrival in a manifest (R328). -/
structure Arrival where
  /-- Source index -/
  src : Nat
  /-- Expert -/
  expert : Nat
  /-- Slot -/
  slot : Nat
  /-- Rank − 1 -/
  rank : Nat
  /-- Token index -/
  token : Nat
  /-- Weight, F32 bits -/
  weight : Nat
  deriving DecidableEq, Repr

/-- A Race message held for a later step (R333). -/
structure RaceMsg where
  /-- Start beat of the sender's step -/
  step : Nat
  /-- Kind, as in TAG [31:28]: 1 DISPATCH, 2 MANIFEST, 3 RETURN, 4 REFUSE, 5 ABANDON -/
  kind : Nat
  /-- Source index of the sending package, or its address for a message to a source -/
  src : Nat
  /-- MAPVER of a manifest -/
  mapver : Nat := 0
  /-- TAG [27:0] -/
  tag : Nat := 0
  /-- Arrivals of a manifest -/
  arrivals : List Arrival := []
  /-- Data -/
  data : List Byte := []
  deriving DecidableEq, Repr

/-- A step that has started while an earlier step's instance of an expert layer is not over (R333). -/
structure RaceWait where
  /-- Start beat of the step [64b; 14 R333] -/
  step : Nat
  /-- Producers that have ended in it without sending [14 R320] -/
  heard : List Nat := []
  /-- Its exchange launch entry has come [1b; 14 R326] -/
  launched : Bool := false
  /-- Its source instance is abandoned already [1b; 14 R333] -/
  lost : Bool := false
  /-- Shards, expert × 4 + shard, whose instance is abandoned already [14 R333] -/
  lostShards : List Nat := []
  deriving DecidableEq, Repr

/-- The instance of an expert layer in the present step (R320 to R333). -/
structure RaceInst where
  /-- An instance has begun [1b; 14 R333; reset 0] -/
  live : Bool := false
  /-- Start beat of its step [64b; 14 R333; reset 0] -/
  step : Nat := 0
  /-- Producers heard [16b count; 14 R320; reset none] -/
  heard : List Nat := []
  /-- Records received, in order [14 R320; reset none] -/
  recs : List (List Byte) := []
  /-- Tokens routed: index, DADDR and CADDR, ascending [14 R321; reset none] -/
  tokens : List (Nat × Nat × Nat) := []
  /-- Assigned choices [14 R324; reset none] -/
  choices : List Choice := []
  /-- Dropped choices [32b; 14 R324; reset 0] -/
  dropped : Nat := 0
  /-- Tokens have been ranked and assigned [1b; 14 R324; reset 0] -/
  routed : Bool := false
  /-- The exchange launch entry has come [1b; 14 R326; reset 0] -/
  launched : Bool := false
  /-- Vectors and manifests have been sent [1b; 14 R326; reset 0] -/
  sent : Bool := false
  /-- The combined output is written [1b; 14 R330; reset 0] -/
  combined : Bool := false
  /-- The source instance is abandoned [1b; 14 R333; reset 0] -/
  abandoned : Bool := false
  /-- Manifests by source index, those of an ABANDON empty [14 R328; reset none] -/
  mans : Tab (List Arrival) := []
  /-- Shards, expert × 4 + shard, whose done row has come [14 R329; reset none] -/
  done : List Nat := []
  /-- Shards whose returns have been sent [14 R329; reset none] -/
  returned : List Nat := []
  /-- Shards whose instance the destination has abandoned [14 R333; reset none] -/
  lost : List Nat := []
  /-- EXPERT_MAP_MISMATCH has been raised [1b; 14 R332; reset 0] -/
  mismatch : Bool := false
  /-- Messages for a later step [14 R333; reset none] -/
  held : List RaceMsg := []
  /-- Later steps that wait for this instance to be over, in order [14 R333; reset none] -/
  waits : List RaceWait := []
  deriving DecidableEq, Repr

/-- What `ROUTE_SET` loads (R274, R387). -/
structure Route where
  /-- A `ROUTE_SET` has been applied [1b; 12 R274; reset 0] -/
  loaded : Bool := false
  /-- Package address [12b; 12 R274; reset 0, DESIGN CHOICE log 2] -/
  addr : Nat := 0
  /-- Sizes − 1 of the dimensions: X [1:0], Y [3:2], Z [5:4] [6b; 12 R274; reset 0, DESIGN CHOICE log 2] -/
  sizes : Nat := 0
  /-- Wrap flags X, Y, Z [3b; 12 R274; reset 0, DESIGN CHOICE log 2] -/
  wraps : Nat := 0
  /-- Link roles, 2 bits each: 0 TORUS, 1 UPPER, 2 UNUSED [12b; 12 R274; reset 0, DESIGN CHOICE log 2] -/
  roles : Nat := 0
  /-- Range table by destination paddock [64 of 32b; 12 R274, 16 R387; reset empty] -/
  table : List Nat := []
  deriving DecidableEq, Repr

/-! ### Stile links and the Midway (11, 12) -/

/-- Standing of a link (R279 to R282). -/
inductive LinkState where
  | down | training | up
  deriving DecidableEq, Repr

/-- A message that waits to leave a link, in flits that may still be coming (R272, R273). -/
structure TxMsg where
  /-- Link and VC whose receive buffer holds the flits; none for a message of this package [12 R271] -/
  inn : Option (Nat × Nat) := none
  /-- Flits here and not yet sent: FTYPE and BODY [12 R264] -/
  flits : List (Nat × List Byte)
  /-- More of its flits are to come [1b; 12 R270] -/
  more : Bool := false
  deriving DecidableEq, Repr

/-- A message that is coming in on a VC of a link (R270, R273). -/
structure RxMsg where
  /-- Where it goes: link 0 to 5, 6 this package, 7 nowhere [3b; 12 R274] -/
  goes : Nat
  /-- VC on which it goes on [4b; 12 R275, R276] -/
  vc : Nat := 0
  /-- Flits still to come [9b; 12 R273] -/
  left : Nat
  /-- Bytes that have come, for this package [12 R273] -/
  bytes : List Byte := []
  deriving DecidableEq, Repr

/-- A flit that waits to cross the Midway from one Gate die to another (R275). -/
structure Turning where
  /-- Link by which it leaves [3b] -/
  goes : Nat
  /-- VC on which it leaves [4b] -/
  vc : Nat
  /-- FTYPE [4b] -/
  ft : Nat
  /-- It is its message's last [1b] -/
  last : Bool
  /-- VC on which it came [4b] -/
  inVc : Nat
  /-- BODY [256 B] -/
  body : List Byte
  deriving DecidableEq, Repr

/-- What the encoder of a lane group holds (R261). -/
structure CodeAcc where
  /-- Number of the codeword since the alignment [64b] -/
  word : Nat := 0
  /-- Stream bits that it holds, the first in bit 0 [5,140b] -/
  bits : Nat := 0
  /-- How many -/
  count : Nat := 0
  deriving DecidableEq, Repr

/-- One Stile link at this end (R256 to R284). -/
structure Link where
  /-- State [12 R279, R282; reset DOWN] -/
  st : LinkState := .down
  /-- The running `LINK_TRAIN`, 0 for none [32b; 12 R279; reset 0] -/
  handle : Nat := 0
  /-- FEC_BYPASS of the running or last training [1b; 12 R263; reset 0] -/
  ask : Bool := false
  /-- FEC is bypassed [1b; 12 R263; reset 0] -/
  bypass : Bool := false
  /-- FEC_FORCED until the next package reset [1b; 12 R263; reset 0] -/
  forced : Bool := false
  /-- Beats of the last CRC failures with FEC bypassed [12 R263; reset none] -/
  crcs : List Nat := []
  /-- REACH of the last training [2b; 12 R258; reset 0, the key's default R390] -/
  reach : Nat := 0
  /-- Measured round trip, ns [12 R279; reset 0] -/
  rtt : Nat := 0
  /-- Transmit lanes mapped out [66b; 12 R256; reset 0] -/
  txOut : Nat := 0
  /-- Receive lanes mapped out [66b; 12 R256; reset 0] -/
  rxOut : Nat := 0
  /-- Receive lanes found failed and not yet mapped out [66b; 12 R281; reset none] -/
  rxFail : List Nat := []
  /-- Transmit width in force [7b; 12 R257; reset 0, the link is down] -/
  txWidth : Nat := 0
  /-- Receive width in force [7b; 12 R257; reset 0, the link is down] -/
  rxWidth : Nat := 0
  /-- The far end has asked for a pause of the transmit direction [1b; 12 R281; reset 0] -/
  txPause : Bool := false
  /-- The receive direction is in a repair pause [1b; 12 R281; reset 0] -/
  rxPause : Bool := false
  /-- Sequence number of the next data flit [24b; 12 R266; reset 0] -/
  txSeq : Nat := 0
  /-- Retransmit store, oldest first: number and flit [98,304 flits; 12 R268; reset empty] -/
  store : List (Nat × List Byte) := []
  /-- Messages that wait to be sent or are being sent, by VC [12 R272; reset empty] -/
  queue : Tab (List TxMsg) := []
  /-- Body of a beat marker that is due [12 R278; reset none] -/
  markerDue : Option (List Byte) := none
  /-- A control flit with a NAK is due [1b; 12 R266; reset 0] -/
  nakDue : Bool := false
  /-- Numbers of data flits to repeat [12 R268; reset none] -/
  again : List Nat := []
  /-- A control flit that asks for a pause is due [1b; 12 R281; reset 0] -/
  ctlDue : Bool := false
  /-- Slots since the last control flit [12 R266; reset 0] -/
  sinceCtl : Nat := 0
  /-- Bytes of the stream sent since the alignment [12 R261; reset 0] -/
  txPos : Nat := 0
  /-- Encoders of the lane groups [12 R261; reset empty] -/
  txCode : Tab CodeAcc := []
  /-- Physical lanes of the transmit direction's logical lanes; the others are powered down [12 R256, R257; reset none] -/
  txLanes : List Nat := []
  /-- Physical lanes of the receive direction's logical lanes; the others are powered down [12 R256, R257; reset none] -/
  rxLanes : List Nat := []
  /-- Transmitter settings, fixed until the next training [12 R260; reset none] -/
  txEq : List TxEq := []
  /-- Receiver settings [12 R260; reset none] -/
  rxEq : List RxEq := []
  /-- Symbols corrected, by logical lane [12 R262; reset 0] -/
  laneFec : Tab Nat := []
  /-- Codewords left in error: group, number and message bits [12 R262; reset none] -/
  rxErrs : List (Nat × Nat × Nat) := []
  /-- Slice table of the far end's receiver, by which it grants credits [2 × 64b; 12 R272; reset the default] -/
  farSlices : Nat := 0xFEDC_BA98_7654_3210_FEDC_BA98_7654_3210
  /-- Flits that wait to cross the Midway to another Gate die [12 R275; reset none] -/
  turns : List Turning := []
  /-- Data flits sent by VC since training [32b; 12 R271; reset 0] -/
  sentOn : Tab Nat := []
  /-- Credits received by VC: entries freed since training [32b; 12 R267; reset 0] -/
  credit : Tab Nat := []
  /-- Pointer of the slice table [5b; 12 R272; reset 0] -/
  ptr : Nat := 0
  /-- Expected sequence number [24b; 12 R266; reset 0] -/
  rxSeq : Nat := 0
  /-- Receiver's replay buffer: number and flit [64 flits; 12 R268; reset empty] -/
  replay : List (Nat × List Byte) := []
  /-- Outstanding NAK: whether it is FROM [12 R268; reset none] -/
  nak : Option Bool := none
  /-- The next NAK is FROM [1b; 12 R268; reset 0] -/
  from_ : Bool := false
  /-- Buffer entries freed by VC since training [32b; 12 R267; reset 0] -/
  freed : Tab Nat := []
  /-- Messages that are coming in, by VC [12 R273; reset none] -/
  parts : Tab RxMsg := []
  /-- Slice table of 32 slots in force [2 × 64b; 12 R272; reset the default] -/
  slices : Nat := 0xFEDC_BA98_7654_3210_FEDC_BA98_7654_3210
  deriving DecidableEq, Repr

/-- A message of another package that a Gate die has delivered to a die of this package, and that waits to be taken (R273). -/
structure StileMsg where
  /-- MKIND [4b] -/
  kind : Nat
  /-- Gate die by which it came [6b] -/
  gate : Nat
  /-- SRC [12b] -/
  src : Nat
  /-- DSTDIE [6b] -/
  die : Nat
  /-- DSTCORE [6b] -/
  core : Nat
  /-- CHAN [12b] -/
  chan : Nat
  /-- STEPBEAT [64b] -/
  step : Nat
  /-- TAG [32b] -/
  tag : Nat
  /-- Data, 1 to 65,536 bytes -/
  data : List Byte
  deriving DecidableEq, Repr

/-- One direction pair of a mesh port of a router (R239 to R242, R251 to R253). -/
structure Port where
  /-- SEQ of the next flit [8b; 11 R241; reset 0, DESIGN CHOICE log 2] -/
  txSeq : Nat := 0
  /-- Replay buffer, oldest first: SEQ, header and data [64 flits; 11 R241; reset empty] -/
  store : List (Nat × Nat × Nat) := []
  /-- Flits received that have not left the router, by virtual channel 0 to 7: header and data [16 a channel; 11 R242; reset empty] -/
  buf : Tab (List (Nat × Nat)) := []
  /-- Credits to return, by virtual channel [5b each; 11 R242; reset 0] -/
  owed : Tab Nat := []
  /-- An acknowledgement is to be sent [1b; 11 R240; reset 0] -/
  ackDue : Bool := false
  /-- Credits held by virtual channel, 16 where not listed [5b each; 11 R242; reset 16] -/
  credit : Tab Nat := []
  /-- Expected SEQ [8b; 11 R241; reset 0, DESIGN CHOICE log 2] -/
  rxSeq : Nat := 0
  /-- Flits are discarded until the expected SEQ arrives [1b; 11 R241; reset 0] -/
  discarding : Bool := false
  /-- Flit slots at which replays started within the last 2^20 slots [11 R252; reset none] -/
  replays : List Nat := []
  /-- Retraining: nothing is sent [1b; 11 R252; reset 0] -/
  training : Bool := false
  /-- Failed wires of the outgoing direction [640b; 11 R251; reset none] -/
  outBad : List Nat := []
  /-- Failed wires of the incoming direction [640b; 11 R251; reset none] -/
  inBad : List Nat := []
  /-- The outgoing direction runs at half width [1b; 11 R253; reset 0] -/
  outHalf : Bool := false
  /-- The incoming direction runs at half width [1b; 11 R253; reset 0] -/
  inHalf : Bool := false
  /-- The last 16 slots granted: whether CTRL took the slot while another class waited [16b; 11 R244; reset none] -/
  ctrl : List Bool := []
  /-- Input port that each class serves next at this output [3b each; 11 R244; reset 0, DESIGN CHOICE log 2] -/
  robin : Tab Nat := []
  /-- Place in the sequence COLL, MEM, XCHG, MEM [2b; 11 R244; reset 0, DESIGN CHOICE log 2] -/
  turn : Nat := 0
  deriving DecidableEq, Repr

/-! ### The Tally and its mirror (18) -/

/-- Kinds of measurement event (R415). -/
inductive EventKind where
  | supplyDip | mainLow | balance | seal | sync | auxReturn | selfFail
  deriving DecidableEq, Repr

/-- An event record of the Tally (R415). -/
structure TallyEvent where
  /-- Event index -/
  index : Nat
  /-- Clock time [64b] -/
  time : Nat
  /-- Kind -/
  kind : EventKind
  /-- Domain, where one applies -/
  domain : Option Nat
  /-- First value [64b] -/
  v0 : Nat
  /-- Second value [64b] -/
  v1 : Nat
  /-- Signature [96 bytes; R408] -/
  sig : List Byte
  deriving DecidableEq, Repr

/-- One metered domain (R400, R401, R409). -/
structure Domain where
  /-- Legal energy register, 10 µWh [64b, sticks at its maximum; 18 R401, R410; reset 0] -/
  ereg : Nat := 0
  /-- Sub-unit remainder, in nW × samples of 1/256,000 s, below one unit [44b; 18 R401; reset 0] -/
  rest : Nat := 0
  /-- Legal energy register as saved [64b; 18 R407; reset 0] -/
  saved : Nat := 0
  /-- Remainder as saved [44b; 18 R407; reset 0] -/
  savedRest : Nat := 0
  /-- Legal energy register at the start of the interval [64b; 18 R409; reset 0] -/
  start : Nat := 0
  /-- The current has exceeded *I*_max in the interval, OVERLOAD [1b; 18 R402, R409; reset 0] -/
  overload : Bool := false
  /-- SEQ of the next interval or gap record [32b; 18 R409; reset 0] -/
  seq : Nat := 0
  /-- Energy in the balance window, nW × samples [18 R404; reset 0] -/
  window : Nat := 0
  /-- Energy since the last mirror update, nW × samples [18 R412; reset 0] -/
  live : Nat := 0
  deriving DecidableEq, Repr

/-- One pulse output (R416). -/
structure PulseOut where
  /-- PULSE_DOMAIN [0 to 17; 18 R414; reset 17, 16, 0 by output] -/
  domain : Nat
  /-- PULSE_CONST, impulses per kWh [1 to 100,000; 18 R414; reset 1,000, 10,000, 10,000 by output] -/
  const : Nat
  /-- Accumulator, in nW × samples × PULSE_CONST, below one impulse [70b; 18 R416; reset 0] -/
  acc : Nat := 0
  /-- Impulses that wait to be emitted [18 R416; reset 0] -/
  wait : Nat := 0
  deriving DecidableEq, Repr

/-- The Tally die (R400 to R418): it does not reset with the package. -/
structure Tally where
  /-- AUX is present and the die runs [1b; 18 R405, R415; reset 1, a condition of reset release R468] -/
  up : Bool := true
  /-- FAILED [1b; 18 R418; reset 0] -/
  failed : Bool := false
  /-- Clock, UTC seconds [64b; 18 R405; reset 0, DESIGN CHOICE log 2] -/
  clock : Nat := 0
  /-- The clock is SET [1b; 18 R405; reset 0, UNSET] -/
  clockSet : Bool := false
  /-- Clock as saved [64b; 18 R407; reset 0, DESIGN CHOICE log 2] -/
  savedClock : Nat := 0
  /-- Seconds for which a further synchronisation is refused [17b; 18 R414; reset 0] -/
  syncWait : Nat := 0
  /-- Seconds without measurement since the Tally failed [64b; 18 R409, R418; reset 0] -/
  gap : Nat := 0
  /-- Domains 0 to 17 [18 R400; reset as the domain's] -/
  domains : List Domain := List.replicate 18 {}
  /-- SELF energy in the balance window, nW × samples [18 R400, R404; reset 0] -/
  selfWindow : Nat := 0
  /-- Sum of the total's current over the balance window, µA × samples [18 R404; reset 0] -/
  windowAmps : Nat := 0
  /-- Samples in the balance window [18 R404; reset 0] -/
  windowN : Nat := 0
  /-- Seconds in the balance window [6b; 18 R404; reset 0] -/
  windowSecs : Nat := 0
  /-- Sum of the supply voltage since the last mirror update, mV × samples [18 R412; reset 0] -/
  liveMv : Nat := 0
  /-- Samples since the last mirror update [18 R412; reset 0] -/
  liveN : Nat := 0
  /-- INTERVAL in force, s [60, 300, 900 or 3,600; 18 R406; reset 900] -/
  interval : Nat := 900
  /-- A changed INTERVAL that waits for its next interval end [as `interval`; 18 R406; reset none] -/
  intervalNext : Option Nat := none
  /-- Seconds since the interval began [32b; 18 R409; reset 0] -/
  intervalSecs : Nat := 0
  /-- BALANCE in the interval [1b; 18 R404, R409; reset 0] -/
  balance : Bool := false
  /-- The seal has been open in the interval [1b; 18 R409; reset 0] -/
  sealSeen : Bool := false
  /-- AUX_MISSING of the interval [1b; 18 R409, R411; reset 0] -/
  auxMissing : Bool := false
  /-- The seal is open [1b; 18 R413; reset 0, no jumper R473] -/
  sealOpen : Bool := false
  /-- Beat number last received [64b; 18 R411; reset 0] -/
  auxBeat : Nat := 0
  /-- Tokens by pen last received [16 counts; 18 R411; reset 0] -/
  auxTokens : List Nat := List.replicate 16 0
  /-- Requests by pen last received [16 counts; 18 R411; reset 0] -/
  auxRequests : List Nat := List.replicate 16 0
  /-- AUX_COUNTS has come in this interval [1b; 18 R411; reset 0] -/
  auxCome : Bool := false
  /-- Calibration records 1 and up, as written [15 records; 18 R403; reset none] -/
  cals : List (List Byte) := []
  /-- Pulse outputs 0 to 2 [18 R416; reset as the output's] -/
  pulses : List PulseOut := [⟨17, 1000, 0, 0⟩, ⟨16, 10000, 0, 0⟩, ⟨0, 10000, 0, 0⟩]
  /-- Interval and gap records by domain × 2^32 + SEQ [the latest 4,096 of each domain, 160 B each; 18 R407, R409; reset none] -/
  records : Tab (List Byte) := []
  /-- Audit event counter [32b; 18 R414; reset 0] -/
  auditCount : Nat := 0
  /-- Audit records by EVENT [65,536 of 128 B; 18 R407, R414; reset none] -/
  audits : Tab (List Byte) := []
  /-- Event log, oldest first [the latest 16,384; 18 R407, R415; reset none] -/
  events : List TallyEvent := []
  /-- Index of the next event [18 R415; reset 0, DESIGN CHOICE log 2] -/
  eventNext : Nat := 0
  /-- Mirror period, ms [1, 10, 100 or 1,000; 18 R411, R412; reset 100, the RATE that every start-up sends] -/
  period : Nat := 100
  /-- Records signed since the last mirror update, by domain [18 R412; reset none] -/
  unsent : Tab (List Byte) := []
  /-- REJECTS [32b, saturating; 18 R411; reset 0] -/
  rejects : Nat := 0
  /-- BALANCE events since power-up [16b, saturating; 18 R412; reset 0] -/
  balances : Nat := 0
  /-- Supply dips since power-up [16b, saturating; 18 R412; reset 0] -/
  dips : Nat := 0
  /-- Dynamic address of the metrology port [7b; 18 R413; reset none] -/
  dynAddr : Option Nat := none
  /-- ROM version, minor and major [16b; 18 R412; reset by the mask ROM, DESIGN CHOICE 0, log 4] -/
  romVersion : Nat := 0
  /-- ROM identity, the SHA-384 of the mask ROM [48 B; 18 R416; reset by the mask ROM, DESIGN CHOICE 0, log 4] -/
  romId : List Byte := List.replicate 48 0#8
  /-- Certificate of the Tally's public key [bytes; 18 R408, R413; reset by OTP, DESIGN CHOICE none, log 4] -/
  cert : List Byte := []
  deriving DecidableEq, Repr

/-- The Ringmaster's mirror of the Tally (R412), in the PACKAGE domain. -/
structure Mirror where
  /-- `TL_M_STATUS` [64b; 18 R412; reset 0] -/
  status : Nat := 0
  /-- `TL_M_SEQ` [64b; 18 R412; reset 0] -/
  seq : Nat := 0
  /-- `TL_M_TIME` [64b; 18 R412; reset 0] -/
  time : Nat := 0
  /-- `TL_M_CTL` IRQ [1b; 18 R412; reset 0] -/
  irq : Bool := false
  /-- `TL_M_CTL` RATE [2b; 18 R412; reset 2] -/
  rate : Nat := 2
  /-- `TL_M_ID` [64b; 18 R412; reset 0] -/
  id : Nat := 0
  /-- `TL_M_COUNTS` [64b; 18 R412; reset 0] -/
  counts : Nat := 0
  /-- `TL_M_ENERGY` by domain [18 of 64b; 18 R412; reset 0] -/
  energy : Tab Nat := []
  /-- `TL_M_POWER` by domain [18 of 64b; 18 R412; reset 0] -/
  power : Tab Nat := []
  /-- `TL_M_DFLAGS` FLAGS by domain [18 of 16b; 18 R412; reset 0] -/
  flags : Tab Nat := []
  /-- Record slots by domain [18 of 160 B; 18 R412; reset 0] -/
  slots : Tab (List Byte) := []
  deriving DecidableEq, Repr

/-! ### Management and the test access port (15, 22) -/

/-- The MCTP endpoint and what PLDM keeps (R345, R346). -/
structure Mgmt where
  /-- Endpoint identifiers of the I3C and the PCIe VDM binding, 0 before one is set [8b each; 15 R345; reset 0, PRESUMED MCTP's null identifier, log 5] -/
  eids : List Nat := [0, 0]
  /-- Dynamic address of the Ringmaster's I3C target [7b; 15 R345; reset none] -/
  dynAddr : Option Nat := none
  /-- Endpoint identifier of the event receiver [8b; 15 R346; reset none] -/
  receiver : Option Nat := none
  /-- Sensors as last refreshed: numeric readings, and the codes of the state sensors [by sensor ID; 15 R346; reset none] -/
  sensors : Tab Int := []
  deriving DecidableEq, Repr

/-- The test access port (R485). -/
structure Tap where
  /-- Instruction register [8b; 22 R485; reset 0x01 IDCODE, PRESUMED IEEE 1149.1's Test-Logic-Reset, log 5] -/
  ir : Nat := 0x01
  /-- Opcode that executes, 0xFF where the loaded one executes as BYPASS [8b; 22 R485; reset 0x01] -/
  runs : Nat := 0x01
  /-- Boundary cells as preloaded, in the order of the BSDL file [22 R485; reset 0, DESIGN CHOICE log 2] -/
  cells : Nat := 0
  deriving DecidableEq, Repr

/-! ### The package -/

/-- Everything of the package but the queue of commands. -/
structure Dev where
  /-- Free values drawn so far; the model's own field [reset 0, DESIGN CHOICE log 7] -/
  draws : Nat := 0
  /-- Outputs to the world, in order; the model's own field [reset none, DESIGN CHOICE log 6] -/
  out : List Out := []
  /-- Power, boot and package status [21; reset as its fields] -/
  power : Power := {}
  /-- AUX-domain state [21; reset as its fields] -/
  aux : Aux := {}
  /-- Fuses, OTP and flash [15, 20; reset as its fields] -/
  fuses : Fuses := {}
  /-- The beat [02; reset as its fields] -/
  beat : Beat := {}
  /-- The master Calendar, in order of placement; a die's Calendar is the entries that name it [256 a die; 02 R40, R506; reset empty] -/
  cal : List CalEntry := []
  /-- Step groups [16; 02 R44; reset none exists] -/
  groups : Tab Group := []
  /-- Functions [17; 15 R339; reset the PF alone exists] -/
  funcs : Tab Func := [(0, { enabled := true })]
  /-- Open handles [16 R364; reset none] -/
  handles : Tab Handle := []
  /-- Configuration transactions, in order of opening [16 R371; reset none] -/
  txns : List Txn := []
  /-- Commits accepted so far, which orders commits of one beat [16 R375; reset 0] -/
  commits : Nat := 0
  /-- PACKAGE keys in force; a key not listed is at its default [64b each; 17 R390; reset defaults] -/
  keys : Tab Nat := []
  /-- Pastures [16; 01 R20; reset none] -/
  pastures : Tab Pasture := []
  /-- Requests by handle [13 R285; reset none] -/
  reqs : Tab Request := []
  /-- KV page records by page number [32 B each; 13 R293; reset free] -/
  pages : Tab PageRec := []
  /-- Access maps by pen [15 R354; reset empty] -/
  maps : Tab AccessMap := []
  /-- The fault log and queue [19; reset empty] -/
  faults : Faults := {}
  /-- The fence walk [20; reset as its fields] -/
  fence : Fence := {}
  /-- Error counters by (die × 65 + core) × 64 + register index; core 64 for a die's own [32b each, saturating; 23 R503, R504; reset 0] -/
  errs : Tab Nat := []
  /-- Performance groups by (die × 64 + core) × 16 + group; core 63 for a die's own [23 R501; reset 0] -/
  perf : Tab Perf := []
  /-- Stack memory as the Fold's readers see it, by pen × 2^38 + offset [4 TiB of bytes; 09 R203; reset 0] -/
  mem : Mem := []
  /-- Poisoned code words: stack address ÷ 64 [09 R202; reset none] -/
  poison : List Nat := []
  /-- Stacks by number [32; 09; reset as the stack's] -/
  stk : Tab Stack := []
  /-- Start-up margin records by pen × 136 + index [4 × 544 of 128b; 09 R222, R223; reset none] -/
  margins : Tab Nat := []
  /-- Tier-2 ports [2; 09 R217; reset as the port's] -/
  tier : List TierPort := [{}, {}]
  /-- Cores by die × 64 + core [2,048; 04; reset as its fields] -/
  cores : Tab Core := []
  /-- Scratchpads by die × 2^29 + core × 2^23 + offset [6 or 4 MiB each of bytes; 04 R75; reset 0, DESIGN CHOICE log 3] -/
  spad : Mem := []
  /-- Activation buffers by (die × 64 + core) × 2^16 + offset [64 KiB each of bytes; 04 R81; reset 0, DESIGN CHOICE log 3] -/
  abuf : Mem := []
  /-- Reduction instances by pasture × 4096 + entry [08 R182; reset none] -/
  reds : Tab Inst := []
  /-- Width entries by pasture × 1024 + entry [1,024 a show; 06 R138; reset none] -/
  widths : Tab Width := []
  /-- Monitors of the width controller by pasture × 1024 + monitor [06 R141; reset none] -/
  mons : Tab MonCtl := []
  /-- The expert catalogue by index, entries of 128 bits [65,536; 14 R316; reset not VALID, 0] -/
  catalog : Tab Nat := []
  /-- MAPVER [32b; 14 R316; reset 0] -/
  mapver : Nat := 0
  /-- Race instances by pasture × 256 + layer [14 R320; reset none] -/
  races : Tab RaceInst := []
  /-- Routing [12 R274; reset as its fields] -/
  route : Route := {}
  /-- Stile links by number [6; 12 R256; reset as the link's] -/
  links : Tab Link := []
  /-- Exchange and reduction messages of other packages that wait to be taken, oldest first [12 R273; reset none] -/
  inbox : List StileMsg := []
  /-- Router ports by die × 5 + port, ports N, E, S, W and local [11 R239; reset as the port's] -/
  ports : Tab Port := []
  /-- First halves of 256-byte transfers between Gate dies, by source × 64 + destination [1,024b each; 11 R240, 12 R275; reset none] -/
  gateHalf : Tab Nat := []
  /-- The Tally die [18; reset as its fields] -/
  tally : Tally := {}
  /-- The Tally's mirror [18 R412; reset as its fields] -/
  mirror : Mirror := {}
  /-- Management endpoints [15; reset as their fields] -/
  mgmt : Mgmt := {}
  /-- The test access port [22 R485; reset as its fields] -/
  tap : Tap := {}
  deriving DecidableEq, Repr

/-- The whole machine: the package, and the commands that wait. -/
structure State where
  /-- Commands that wait, first in, first out [reset empty] -/
  pending : List Instr := []
  /-- The package -/
  dev : Dev := {}
  deriving DecidableEq, Repr

/-- The machine right after reset release: the package in STARTING (R468), every field at the value the spec gives, and where
it gives none at the value the log names. -/
def State.reset : State := {}

end Sys2Proof.Machine
end

