-- ==== Sys2Proof/Machine/Flags.lean ====
section
/-! DEFINITION. Counters with their sticky bits, event bits and message vectors, and which die is which (R16, R19, R342, R437,
R496). -/

namespace Sys2Proof.Machine

open Sys2Proof

/-! Dies (R15, R16, R18). -/

/-- Die `d` is a Graze die. -/
def isGraze (d : Nat) : Bool := d < 8 || (32 ≤ d && d < 40)

/-- Die `d` is a Shear die. -/
def isShear (d : Nat) : Bool := (8 ≤ d && d < 16) || (24 ≤ d && d < 32)

/-- Die `d` is a compute die. -/
def isCompute (d : Nat) : Bool := isGraze d || isShear d

/-- The pen of compute die `d` (R19). -/
def penOfDie (d : Nat) : Nat := if d < 8 then d else if d < 16 then d - 8 else if d < 32 then d - 16 else d - 24

/-- Graze die of pen `p`. -/
def grazeOf (p : Nat) : Nat := if p < 8 then p else p + 24

/-- Shear die of pen `p`. -/
def shearOf (p : Nat) : Nat := if p < 8 then p + 8 else p + 16

/-- Cores in use on die `d` (R18). -/
def coresOf (d : Nat) : Nat := if isShear d then 64 else if isGraze d then 32 else 0

/-- Arrays in use in a core of die `d` (R18). -/
def arraysOf (d : Nat) : Nat := if isShear d then 48 else if isGraze d then 24 else 0

/-- Scratchpad bytes of a core of die `d` (R23). -/
def spadSize (d : Nat) : Nat := if isShear d then 6 * 2 ^ 20 else 4 * 2 ^ 20

/-- Die `d` is a Gate die. -/
def isGate (d : Nat) : Bool := d == 16 || d == 22 || d == 23

/-- Die `d` is a Race die. -/
def isRace (d : Nat) : Bool := d == 17 || d == 21

/-- The Gate die of link `l` (R29: 0 to 5 for X−, X+, Y−, Y+, Z−, Z+). -/
def gateOf (l : Nat) : Nat := if l < 2 then 16 else if l < 4 then 22 else 23

/-- The compute dies of a mask of pens, ascending. -/
def diesOfPens (mask : Nat) : List Nat :=
  (List.range 40).filter (fun d => isCompute d && bit mask (penOfDie d))

/-! Functions and pastures. -/

/-- Function `f`. -/
def Dev.func (d : Dev) (f : Nat) : Func := Tab.getD d.funcs f {}

/-- `d` with its beat changed by `f`. -/
def Dev.modBeat (d : Dev) (f : Beat → Beat) : Dev := { d with beat := f d.beat }

/-- `d` with function `f` changed by `g`. -/
def Dev.modFunc (d : Dev) (f : Nat) (g : Func → Func) : Dev := { d with funcs := Tab.put d.funcs f (g (d.func f)) }

/-- The pasture bound to function `f`, once it is created and until its destroy. -/
def Dev.pastureOf (d : Dev) (f : Nat) : Option Nat :=
  (d.pastures.find? (fun q => q.2.func == f && q.2.ready && !q.2.dying)).map Prod.fst

/-- Pasture `p`, once it is created and until its destroy. -/
def Dev.pasture (d : Dev) (p : Nat) : Option Pasture := (Tab.get? d.pastures p).filter (fun q => q.ready && !q.dying)

/-- The pasture that holds pen `p`, 31 for none. -/
def Dev.pastureOfPen (d : Dev) (p : Nat) : Nat :=
  match d.pastures.find? (fun q => bit q.2.pens p) with
  | some q => q.1
  | none => 31

/-- The pasture of a die's pen, 31 for a service die or an unassigned pen. -/
def Dev.pastureOfDie (d : Dev) (die : Nat) : Nat := if isCompute die then d.pastureOfPen (penOfDie die) else 31

/-- The function bound to pasture `p`. -/
def Dev.funcOf (d : Dev) (p : Nat) : Option Nat := (Tab.get? d.pastures p).map (·.func)

/-- `d` with pasture `p` changed by `g`. -/
def Dev.modPasture (d : Dev) (p : Nat) (g : Pasture → Pasture) : Dev := { d with pastures := Tab.upd d.pastures p g }

/-- `d` with output `o` appended. -/
def Dev.emit (d : Dev) (o : Out) : Dev := { d with out := d.out ++ [o] }

/-! Message vectors and event bits (R342, R496). -/

/-- Vector `v` of function `f` has an event (R342). -/
def Dev.vector (d : Dev) (f v : Nat) : Dev :=
  let fn := d.func f
  if fn.enabled && fn.msixOn && !fn.flr then
    match fn.vecs[v]? with
    | some e =>
      if e.mask then d.modFunc f (fun x => { x with vecs := modAt (fun y => { y with pend := true }) x.vecs v })
      else d.emit (.msix f v)
    | none => d
  else d

/-- Event class `b` of `RM_EVENT` occurs for function `f`: the bit sets and its vector has an event (R496). -/
def Dev.event (d : Dev) (f b v : Nat) : Dev := (d.modFunc f (fun x => { x with event := setBit x.event b true })).vector f v

/-- An event on every enabled function (R342). -/
def Dev.eventAll (d : Dev) (b v : Nat) : Dev :=
  (d.funcs.filter (fun q => q.2.enabled)).foldl (fun d q => d.event q.1 b v) d

/-- A step event of pasture `p`, raised on the function bound to it (R342). -/
def Dev.stepEvent (d : Dev) (p : Nat) : Dev :=
  match d.funcOf p with
  | some f => d.event f 4 2
  | none => d

/-! Counters (R437). -/

/-- Key of an error counter: die, core (64 for the die's own) and register index, the offset of R503 or R504 over 8. -/
def errKey (die core i : Nat) : Nat := (die * 65 + core) * 64 + i

/-- Error counter `i` of a core or die advances by `n`, saturating (R437). -/
def Dev.errAdd (d : Dev) (die core i n : Nat) : Dev :=
  if n = 0 then d else { d with errs := Tab.mod d.errs (errKey die core i) 0 (fun c => satAdd 32 c n) }

/-- The value of error counter `i`. -/
def Dev.err (d : Dev) (die core i : Nat) : Nat := Tab.getD d.errs (errKey die core i) 0

/-- SRV counter `i` of function `f` advances by `n`, saturating and setting its SAT bit (R315). -/
def Dev.srvAdd (d : Dev) (f i n : Nat) : Dev :=
  if n = 0 then d else
  d.modFunc f (fun x =>
    let v := Tab.getD x.srv i 0 + n
    { x with
      srv := Tab.put x.srv i (min v (2 ^ 64 - 1))
      srvSat := if 2 ^ 64 - 1 ≤ v then setBit x.srvSat i true else x.srvSat })

/-- Key of a performance group. -/
def perfKey (die core g : Nat) : Nat := (die * 64 + core) * 16 + g

/-- Group `g` of a core, or of a die for core 63. -/
def Dev.perfOf (d : Dev) (die core g : Nat) : Perf := Tab.getD d.perf (perfKey die core g) {}

/-- Register `i` of a group advances by `n`: it wraps at 2^48 and its OVF bit sets (R437). -/
def perfBump (p : Perf) (i n : Nat) : Perf :=
  let v := Tab.getD p.live i 0 + n
  { p with live := Tab.put p.live i (v % 2 ^ 48), ovf := if 2 ^ 48 ≤ v then setBit p.ovf i true else p.ovf }

/-- SNAP: the group is copied into its bank (R438). -/
def perfSnap (beat : Nat) (p : Perf) : Perf := { p with snap := p.live, snapOvf := p.ovf, valid := true, beat := beat }

/-- SNAPCLR: the same copy, and every live OVF bit clears but those of `wraps`, set in the same cycle (R10, R438). -/
def perfSnapClr (beat wraps : Nat) (p : Perf) : Perf :=
  { perfSnap beat p with ovf := wraps, wrapped := if wraps = 0 then false else p.wrapped }

end Sys2Proof.Machine
end

