-- ==== Sys2Proof/Machine/Keys.lean ====
section
/-! DEFINITION. Configuration keys: scope, values, defaults, when they take effect and which dies hold them (R390, R507). -/

namespace Sys2Proof.Machine

open Sys2Proof

/-- When a key takes effect (R390, last column). -/
inductive KeyEffect where
  | quiescence | commit | load | train
  deriving DecidableEq, Repr

/-- Names of the PASTURE keys of R390. -/
def kPlacement : Nat := 0x0101
def kResidence : Nat := 0x0102
def kReduce : Nat := 0x0103
def kActwidth : Nat := 0x0104
def kScreen : Nat := 0x0105
def kSparseAct : Nat := 0x0106
def kSpec : Nat := 0x0107
def kSpecWidth : Nat := 0x0108
def kOverflow : Nat := 0x0109
def kAudit : Nat := 0x010A
def kRounding : Nat := 0x010B
def kSkip : Nat := 0x010C
def kKvFill : Nat := 0x010D
def kSharing : Nat := 0x010E
def kChunk : Nat := 0x010F
def kStepTokens : Nat := 0x0110
/-- Names of the PACKAGE keys of R390; a key of a link or a group adds its number. -/
def kClock : Nat := 0x0201
def kPowerCap : Nat := 0x0202
def kBeatLink : Nat := 0x0203
def kLinkWidth : Nat := 0x0210
def kReach : Nat := 0x0218
def kSlicesLo : Nat := 0x0220
def kSlicesHi : Nat := 0x0228
def kRejoin : Nat := 0x0230

/-- Key `k` is a PASTURE key of R390. -/
def isPastureKey (k : Nat) : Bool := kPlacement ≤ k && k ≤ kStepTokens

/-- Key `k` is one of the six keys of links from `b`. -/
def linkKey (b k : Nat) : Bool := b ≤ k && k < b + 6

/-- Key `k` is `GROUP_REJOIN` of some group. -/
def isRejoin (k : Nat) : Bool := kRejoin ≤ k && k < kRejoin + 16

/-- Key `k` is a PACKAGE key of R390. -/
def isPackageKey (k : Nat) : Bool :=
  k == kClock || k == kPowerCap || k == kBeatLink || linkKey kLinkWidth k || linkKey kReach k || linkKey kSlicesLo k ||
  linkKey kSlicesHi k || isRejoin k

/-- The default of a key (R390). -/
def keyDefault (k : Nat) : Nat :=
  if k == kActwidth then 1 else if k == kSpecWidth then 8 else if k == kChunk then 256 else if k == kStepTokens then 4096
  else if k == kClock then 1 else if k == kPowerCap then 5300 else if linkKey kLinkWidth k then 64
  else if linkKey kSlicesLo k || linkKey kSlicesHi k then 0xFEDC_BA98_7654_3210 else 0

/-- Value `v` lies in the row of key `k` (R390). `GROUP_REJOIN` takes any beat here; its grid is checked apart (R391). -/
def keyInRange (k v : Nat) : Bool :=
  if k == kPlacement || k == kResidence || k == kReduce || k == kRounding || k == kKvFill || k == kSharing then v < 2
  else if k == kActwidth || k == kSparseAct || k == kSpec || k == kOverflow then v < 3
  else if k == kScreen || k == kSkip then v < 4
  else if k == kSpecWidth then 2 ≤ v && v ≤ 64
  else if k == kAudit then [0, 64, 128, 256, 512, 1024, 2048, 4096].contains v
  else if k == kChunk then 64 ≤ v && v ≤ 4096 && v % 64 == 0
  else if k == kStepTokens then 64 ≤ v && v ≤ 65536
  else if k == kClock then v < 3
  else if k == kPowerCap then 1500 ≤ v && v ≤ 5300
  else if k == kBeatLink then v < 6
  else if linkKey kLinkWidth k then v == 64 || v == 32 || v == 16
  else if linkKey kReach k then v < 4
  else linkKey kSlicesLo k || linkKey kSlicesHi k || isRejoin k

/-- When key `k` takes effect (R390). -/
def keyEffect (k : Nat) : KeyEffect :=
  if k == kResidence then .load else if k == kSharing then .commit
  else if isPastureKey k then .quiescence
  else if linkKey kReach k then .train else .commit

/-- The value of PASTURE key `k` in force in pasture `p` (R374). -/
def Dev.pKey (d : Dev) (p k : Nat) : Nat :=
  match Tab.get? d.pastures p with
  | some q => Tab.getD q.keys k (keyDefault k)
  | none => keyDefault k

/-- The value of PACKAGE key `k` in force. -/
def Dev.key (d : Dev) (k : Nat) : Nat := Tab.getD d.keys k (keyDefault k)

/-- Step group `g`. -/
def Dev.group (d : Dev) (g : Nat) : Group := Tab.getD d.groups g {}

/-- `d` with group `g` changed by `f`. -/
def Dev.modGroup (d : Dev) (g : Nat) (f : Group → Group) : Dev := { d with groups := Tab.put d.groups g (f (d.group g)) }

/-- The value of PASTURE key `k` under which group `g` runs: its own until it reaches quiescence (R374). -/
def Dev.gKey (d : Dev) (g k : Nat) : Nat :=
  match Tab.get? (d.group g).keys k with
  | some v => v
  | none => d.pKey (d.group g).pasture k

/-- The dies that hold the step start of group `g`, by its Calendar entry (R506). -/
def Dev.groupDies (d : Dev) (g : Nat) : List Nat :=
  match d.cal.find? (fun e => e.action == 1 && e.group == g) with
  | some e => e.dies
  | none => []

/-- The dies that hold key `k`, staged with value `v`, of a transaction of pasture `p` (R507). -/
def Dev.keyDies (d : Dev) (p k v : Nat) : List Nat :=
  let pens := match Tab.get? d.pastures p with
    | some q => q.pens
    | none => 0
  if k == kOverflow then [17, 21]
  else if k == kSpecWidth || k == kChunk || k == kStepTokens || k == kResidence || k == kSharing then []
  else if isPastureKey k then diesOfPens pens
  else if k == kBeatLink then [gateOf v]
  else if linkKey kLinkWidth k then [gateOf (k - kLinkWidth)]
  else if linkKey kSlicesLo k then [gateOf (k - kSlicesLo)]
  else if linkKey kSlicesHi k then [gateOf (k - kSlicesHi)]
  else if isRejoin k then d.groupDies (k - kRejoin)
  else []

end Sys2Proof.Machine
end

