-- ==== Sys2Proof/Machine/Ops.lean ====
section
/-! DEFINITION. Operations that many commands share: free values, fault records, handles and completions, Calendar entries. -/

namespace Sys2Proof.Machine

open Sys2Proof

/-- Draw a free value below `n`. -/
def Dev.draw (d : Dev) (n : Nat) : Nat × Dev := (Config.free d.draws % n, { d with draws := d.draws + 1 })

/-! Fault records (R420, R421, R423). -/

/-- DISP values of R420. -/
def dQueued : Nat := 0
def dRecovering : Nat := 1
def dRecovered : Nat := 2
def dEscalated : Nat := 3
def dContained : Nat := 4
def dNotice : Nat := 5

/-- A disposition is final (R423). -/
def dispFinal (disp : Nat) : Bool := 2 ≤ disp

/-- Vector 1 of every function that receives a record of pasture `p` (R423). -/
def Dev.signalFault (d : Dev) (p : Nat) : Dev :=
  let d := match d.funcOf p with
    | some f => if f = 0 then d else d.event f 1 1
    | none => d
  d.event 0 1 1

/-- The first element of `l` that satisfies `p` left out. -/
def dropFirst {α : Type} (p : α → Bool) : List α → List α
  | [] => []
  | x :: xs => if p x then xs else x :: dropFirst p xs

/-- Room for one more record: the oldest final record that is acknowledged goes, else the oldest final one, counted (R423). -/
def Dev.faultRoom (d : Dev) : Dev :=
  if d.faults.log.length < 1024 then d
  else if d.faults.log.any (fun r => dispFinal r.disp && r.acked) then
    { d with faults := { d.faults with log := dropFirst (fun r => dispFinal r.disp && r.acked) d.faults.log } }
  else
    { d with faults := { d.faults with log := dropFirst (fun r => dispFinal r.disp) d.faults.log } }.errAdd 18 64 8 1

/-- SEQ after `n` (R420): 0 is never used. -/
def nextSeq (n : Nat) : Nat := if n + 1 ≥ 2 ^ 32 then 1 else n + 1

/-- Write a record: code, die, core, disposition, unit, pasture, LINK and INFO (R420). -/
def Dev.record (d : Dev) (code die core disp unit pasture link info : Nat) : Dev :=
  let d := d.faultRoom
  let seq := nextSeq d.faults.lastSeq
  let r : FaultRec := { seq, code, die, core, disp, unit, pasture, beat := d.beat.now, link, info := info % 2 ^ 80 }
  { d with faults := { d.faults with log := d.faults.log ++ [r], lastSeq := seq } }.signalFault pasture

/-- A notice (R421). -/
def Dev.notice (d : Dev) (code die core pasture info : Nat) : Dev := d.record code die core dNotice 0 pasture 0 info

/-- The record of SEQ `q`. -/
def Dev.faultOf (d : Dev) (q : Nat) : Option FaultRec := d.faults.log.find? (fun r => r.seq == q)

/-- The record of SEQ `q` changed by `f`. -/
def Dev.modFault (d : Dev) (q : Nat) (f : FaultRec → FaultRec) : Dev :=
  { d with faults := { d.faults with log := d.faults.log.map (fun r => if r.seq = q then f r else r) } }

/-- The disposition of record `q` changes; a final one signals its functions again (R420, R423). -/
def Dev.setDisp (d : Dev) (q disp escto link : Nat) : Dev :=
  match d.faultOf q with
  | none => d
  | some r =>
    let d := d.modFault q (fun r => { r with disp := disp, escto := escto, link := if link = 0 then r.link else link })
    if dispFinal disp then d.signalFault r.pasture else d

/-- The order of the recovery under way for record `r`: that of its unit, or the one it has escalated to (R420, R428). -/
def recOrder (r : FaultRec) : Nat := if r.escto = 0 then r.unit else r.escto

/-- `ZT_ALERT_N` is driven low: a record of unit or escalation 6 or 7 is unacknowledged (R423). -/
def Dev.alertLow (d : Dev) : Bool :=
  d.faults.log.any (fun r => !r.acked && (r.unit == 6 || r.unit == 7 || r.escto == 6 || r.escto == 7))

/-- Register `i` of a performance group advances by `n`; the first OVF of an enabled group records PERF_WRAP (R437, R439). -/
def Dev.perfAdd (d : Dev) (die core g i n : Nat) : Dev :=
  if n = 0 then d else
  let p := d.perfOf die core g
  let q := perfBump p i n
  let fire := q.irqEn && !q.wrapped && q.ovf != 0
  let d := { d with perf := Tab.put d.perf (perfKey die core g) (if fire then { q with wrapped := true } else q) }
  if fire then d.notice 0x0060 die core (d.pastureOfDie die) (die + core * 64 + g * 4096) else d

/-- The Beat rate that the Ringmaster measures, in Hz: before a first measurement, the local oscillator's (R33, R307; log entry 112). -/
def Beat.rate (b : Beat) : Nat := if b.hz = 0 then 999995 + Config.oscOffset % 11 else b.hz

/-! Handles (R364 to R366). -/

/-- Function of a handle. -/
def hFunc (h : Nat) : Nat := fld h 27 5

/-- Generation of a handle. -/
def hGen (h : Nat) : Nat := fld h 24 3

/-- Sequence of a handle. -/
def hSeq (h : Nat) : Nat := fld h 0 24

/-- The next sequence value of a function after `s` that is neither 0 nor in `used` (R364); `fuel` bounds the search. -/
def seqAfter (used : List Nat) : Nat → Nat → Nat
  | 0, s => (s + 1) % 2 ^ 24
  | fuel + 1, s =>
    let t := (s + 1) % 2 ^ 24
    if t = 0 || used.contains t then seqAfter used fuel t else t

/-- Handles of function `f` that are open, those whose completion waits included. -/
def Dev.heldOf (d : Dev) (f : Nat) : List Nat := (Tab.keys d.handles).filter (fun h => hFunc h == f)

/-- The completion of handle `h` waits to be posted. -/
def Dev.completed (d : Dev) (h : Nat) : Bool := (d.func (hFunc h)).waiting.any (fun c => c.handle == h)

/-- Handle `h` is open and has not completed (R365; log entry 9). -/
def Dev.isOpen (d : Dev) (h : Nat) : Bool := (Tab.get? d.handles h).isSome && !d.completed h

/-- Work of an open handle. -/
def Dev.workOf (d : Dev) (h : Nat) : Option Work :=
  if d.isOpen h then (Tab.get? d.handles h).map (·.work) else none

/-- Open handles of function `f` other than request handles (R361, check 8). -/
def Dev.heldCount (d : Dev) (f : Nat) : Nat :=
  (d.handles.filter (fun q => hFunc q.1 == f && hGen q.1 == (d.func f).gen && q.2.work != .request)).length

/-- A new handle of function `f` (R364). -/
def Dev.newHandle (d : Dev) (f tag : Nat) (w : Work) : Nat × Dev :=
  let used := (d.heldOf f).map hSeq
  let s := seqAfter used (used.length + 1) (d.func f).seq
  let h := f * 2 ^ 27 + (d.func f).gen * 2 ^ 24 + s
  (h, { d.modFunc f (fun x => { x with seq := s }) with handles := Tab.put d.handles h { tag, work := w } })

/-- `d` with the work of handle `h` set to `w`. -/
def Dev.setWork (d : Dev) (h : Nat) (w : Work) : Dev := { d with handles := Tab.upd d.handles h (fun x => { x with work := w }) }

/-- Place a completion among those that wait: in order of beat of arrival and, within one beat, in ascending sequence unless
its rule orders it (R369). -/
def placeCompletion (c : Completion) (l : List Completion) : List Completion :=
  if c.ruled then l ++ [c]
  else
    let tail := (l.reverse.takeWhile (fun e => e.beat == c.beat && !e.ruled && hSeq c.handle < hSeq e.handle)).reverse
    l.take (l.length - tail.length) ++ c :: tail

/-- Entries that a function's Ledger can take now: none while it is off or lost (R367, R369, R341). -/
def Func.room (x : Func) : Nat :=
  if x.ledOn && !x.ledLost then (x.ledHead + x.ledSize - 1 - x.ledTail) % x.ledSize else 0

/-- Handle `h` completes (R366): exactly once, and only while it is open; one that a function-level reset cut off ends without a
completion (R343). -/
def Dev.finishAt (d : Dev) (h status beat : Nat) (res : List Nat) (ruled : Bool) : Dev :=
  if !d.isOpen h then d
  else if (d.func (hFunc h)).flr || hGen h ≠ (d.func (hFunc h)).gen then { d with handles := Tab.del d.handles h }
  else
    let tag := ((Tab.get? d.handles h).map (·.tag)).getD 0
    let w n := (res.getD n 0) % 2 ^ 32
    let x := d.func (hFunc h)
    let waits := decide (x.room ≤ x.waiting.length)
    let c : Completion := { handle := h, status, beat, tag, r0 := w 0, r1 := w 1, r2 := w 2, ruled, waited := waits }
    let keep := (Tab.get? d.handles h).map (·.work) == some .request
    let d := d.modFunc (hFunc h) (fun x =>
      { x with waiting := placeCompletion c x.waiting, ledWaits := satAdd 32 x.ledWaits waits.toNat })
    if keep then d else d.setWork h .immediate

/-- Handle `h` completes in the current beat. -/
def Dev.finish (d : Dev) (h status : Nat) (res : List Nat) : Dev := d.finishAt h status d.beat.now res false

/-- Handle `h` completes in the current beat in the order of its rule (R369). -/
def Dev.finishIn (d : Dev) (h status : Nat) (res : List Nat) : Dev := d.finishAt h status d.beat.now res true

/-- Status codes of R363. -/
def sOk : Nat := 1
def sAccepted : Nat := 2
def sBusy : Nat := 3
def sInvalid : Nat := 4
def sDenied : Nat := 5
def sNoSpace : Nat := 6
def sConflict : Nat := 7
def sRolledBack : Nat := 8
def sTimeout : Nat := 9
def sAborted : Nat := 10
def sTainted : Nat := 11
def sHalted : Nat := 12
def sImageLost : Nat := 13
def sExpired : Nat := 14
def sSeedShared : Nat := 15

/-- A failed host access ends the command of handle `h` (R341). -/
def Dev.hostError (d : Dev) (h : Nat) : Dev :=
  let f := hFunc h
  let d := d.finish h sAborted []
  match d.pastureOf f with
  | some p => d.notice 0x004A 63 63 p h
  | none =>
    let d := d.notice 0x004A 63 63 31 h
    if f = 0 then d else d.event f 1 1

/-- A write of a host buffer for handle `h`: the data leaves, and a failure ends the command (R341). -/
def Dev.hostPut (d : Dev) (h addr : Nat) (data : List Byte) (ok : Bool) : Dev :=
  if ok then d.emit (.hostWrite (hFunc h) addr data) else d.hostError h

/-! The Calendar (R40 to R43, R506). -/

/-- Entries in use in the Calendar of die `die` (R40). -/
def Dev.calFill (d : Dev) (die : Nat) : Nat := (d.cal.filter (fun e => e.dies.contains die)).length

/-- Every die of `dies` has room for `n` more entries (R43). -/
def Dev.calRoom (d : Dev) (dies : List Nat) (n : Nat) : Bool := dies.all (fun x => d.calFill x + n ≤ 256)

/-- Place an entry in the master Calendar, in order of placement. -/
def Dev.calPlace (d : Dev) (e : CalEntry) : Dev := { d with cal := d.cal ++ [e] }

/-- Remove the entries that satisfy `p`. -/
def Dev.calDrop (d : Dev) (p : CalEntry → Bool) : Dev := { d with cal := d.cal.filter (fun e => !p e) }

/-- The 128 bits of an entry (R40). -/
def CalEntry.bits (e : CalEntry) : Nat :=
  e.beat * 2 ^ 64 + e.tick * 2 ^ 54 + e.action * 2 ^ 50 + e.rel.toNat * 2 ^ 49 + e.group * 2 ^ 44 + e.target * 2 ^ 32 + e.arg

/-- The Calendar of die `die`, by entry index: the master's entries that name it, in order of placement (R41; log entry 10). -/
def Dev.dieCal (d : Dev) (die : Nat) : List CalEntry := d.cal.filter (fun e => e.dies.contains die)

/-! Soft repairs (R447, R453). -/

/-- A soft repair of kind `kind` (1 spare word, 2 Fold way, 3 spare array, 4 spare core, 5 Midway wire, 6 pseudo-channel) of the
unit `u` of die `die`: it can be fused until the next package reset (R453). -/
def Dev.softRepair (d : Dev) (die kind u : Nat) : Dev :=
  { d with fence := { d.fence with repairs := d.fence.repairs ++ [(die, kind * 2 ^ 32 + u)] } }

/-! The package as a whole. -/

/-- Start-up is in progress. -/
def Power.startingUp (p : Power) : Bool := p.st == .starting || (p.st == .brace && p.braceFrom == .starting)

/-- The package serves commands: start-up has reached step 7 (R469, R471). -/
def Dev.serving (d : Dev) : Bool := d.power.step == 7

/-- The package has left its paddock or is halted: it accepts only queries (R431, R456). -/
def Dev.stopped (d : Dev) : Bool := d.power.st == .halted || d.power.st == .withdrawn

end Sys2Proof.Machine
end

