-- ==== Sys2Proof/Machine/Operands.lean ====
section
/-! DEFINITION. Operand forms: the parameter area of a command slot, the checks common to all commands (R358 to R362, R376,
R377), and the reply. -/

namespace Sys2Proof.Machine

open Sys2Proof

/-- A refusal: its status and DETAIL (R360, R361). -/
structure Refuse where
  /-- Status code -/
  status : Nat
  /-- Slot byte offset of the first offending field, 0xFFFF for none -/
  detail : Nat := 0xFFFF
  deriving DecidableEq, Repr

/-- What the service of a command answers: the handle of a HANDLED command, and the result words (R362). -/
structure Reply where
  /-- HANDLE -/
  handle : Option Nat := none
  /-- RES0 to RES5 -/
  res : List Nat := []
  /-- STATUS, where the service itself ended the command -/
  status : Option Nat := none
  deriving DecidableEq, Repr

/-- The service of an accepted or refused command. -/
abbrev Svc := Except Refuse (Reply × Dev)

/-- Refuse with `status` and DETAIL `detail` when `c` holds. -/
def refuseIf (c : Bool) (status detail : Nat) : Except Refuse Unit := if c then .error { status, detail } else .ok ()

/-- Parameter bytes `a` to `a + n - 1`, P[a+n-1:a], as a number (R376). -/
def dp (c : Door) (a n : Nat) : Nat := rdLE (padTo c.params 240) a n

/-- Slot offset of parameter byte `a` (R376). -/
def pOff (a : Nat) : Nat := 16 + a

/-- The whole slot that a driver wrote (R376). -/
def doorSlot (c : Door) (opcode : Nat) : List Byte :=
  leBytes opcode 2 ++ leBytes c.len 1 ++ leBytes c.flags 1 ++ leBytes c.tag 4 ++ leBytes c.rsv 8 ++ padTo c.params 240

/-- The parameter bytes a command uses: first byte and a mask of the bits in use, byte by byte. -/
abbrev Used := List (Nat × List Nat)

/-- The mask of parameter byte `i`. -/
def usedMask (u : Used) (i : Nat) : Nat :=
  match u.find? (fun e => e.1 ≤ i && i < e.1 + e.2.length) with
  | some e => (e.2[i - e.1]?).getD 0
  | none => 0

/-- The first parameter byte with a bit set outside `u` (R376). -/
def badByte (u : Used) (bs : List Byte) : Option Nat :=
  (List.range bs.length).find? (fun i => (byteAt bs i) &&& (255 - usedMask u i) != 0)
where
  byteAt (bs : List Byte) (i : Nat) : Nat := ((bs[i]?).getD 0#8).toNat

/-- Check 1 of R361 for a known opcode: LENGTH, FLAGS, reserved header bytes, reserved parameter bytes. -/
def checkHeader (c : Door) (len : Nat) (u : Used) : Except Refuse Unit :=
  if c.len ≠ len then .error ⟨sInvalid, 2⟩
  else if c.flags % 256 ≠ 0 then .error ⟨sInvalid, 3⟩
  else match badByte [] (leBytes c.rsv 8) with
    | some i => .error ⟨sInvalid, 8 + i⟩
    | none =>
      match badByte u (padTo c.params 240) with
      | some i => .error ⟨sInvalid, pOff i⟩
      | none => .ok ()

/-- Check 2 of R361: a command reserved to the physical function. -/
def pfOnly (c : Door) : Except Refuse Unit := refuseIf (c.func != 0) sDenied 0xFFFF

/-- A package that has left its paddock or is halted refuses every command but queries (R431, R456). -/
def notStopped (d : Dev) : Except Refuse Unit := refuseIf d.stopped sConflict 0xFFFF

/-- Check 3 of R361: the issuer's pasture. -/
def ownPasture (d : Dev) (c : Door) : Except Refuse Nat :=
  match d.pastureOf c.func with
  | some p => .ok p
  | none => .error ⟨sInvalid, 0xFFFF⟩

/-- A pasture field at P[a] (R377): 0xFF the issuer's own, 0 to 15 by number, a virtual function its own alone. -/
def namedPasture (d : Dev) (c : Door) (a : Nat) : Except Refuse Nat :=
  let v := dp c a 1
  if v = 0xFF then
    match d.pastureOf c.func with
    | some p => .ok p
    | none => .error ⟨sInvalid, pOff a⟩
  else if c.func ≠ 0 && d.pastureOf c.func != some v then .error ⟨sDenied, pOff a⟩
  else if (d.pasture v).isSome then .ok v
  else .error ⟨sInvalid, pOff a⟩

/-- Checks 4 and 5 of R361 on the handle at P[3:0] (R365); `foreign` for the three commands that the PF may issue for another
function's handle. -/
def namedHandle (d : Dev) (c : Door) (foreign : Bool) : Except Refuse Nat :=
  let h := dp c 0 4
  if !d.isOpen h || hGen h != (d.func (hFunc h)).gen then .error ⟨sInvalid, pOff 0⟩
  else if hFunc h = c.func || (foreign && c.func = 0) then .ok h
  else .error ⟨sDenied, pOff 0⟩

/-- Check 8 of R361 for the function that will own the handle. -/
def handleRoom (d : Dev) (f : Nat) : Except Refuse Unit := refuseIf (1024 ≤ d.heldCount f) sBusy 0xFFFF

/-- A host buffer at P[a+7:a] is 64-byte aligned (R376). -/
def aligned64 (c : Door) (a : Nat) : Except Refuse Unit := refuseIf (dp c a 8 % 64 != 0) sInvalid (pOff a)

/-- The field at P[a:a+n-1] lies in `lo` to `hi` (R361, check 6). -/
def inRange (c : Door) (a n lo hi : Nat) : Except Refuse Unit := refuseIf (dp c a n < lo || hi < dp c a n) sInvalid (pOff a)

/-- The 64 bytes of a reply area (R360). -/
def replyBytes (status detail handle tag : Nat) (res : List Nat) : List Byte :=
  leBytes status 2 ++ leBytes detail 2 ++ leBytes handle 4 ++ leBytes tag 4 ++ leBytes 0 4 ++
  (List.range 6).flatMap (fun i => leBytes (res.getD i 0) 8)

/-- Mailboxes of a function (R358). -/
def mailboxes (f : Nat) : Nat := if f = 0 then 16 else 4

/-- Mailbox `m` of function `f`. -/
def Dev.mailbox (d : Dev) (f m : Nat) : Mailbox := Tab.getD (d.func f).mbx m {}

/-- `d` with mailbox `m` of function `f` changed by `g`. -/
def Dev.modMailbox (d : Dev) (f m : Nat) (g : Mailbox → Mailbox) : Dev :=
  d.modFunc f (fun x => { x with mbx := Tab.put x.mbx m (g (Tab.getD x.mbx m {})) })

/-- A doorbell of function `f` reaches the firmware: the function is there and decoded, no function-level reset runs, and
start-up has ended (R338, R339, R343, R471). -/
def Dev.doorOpen (d : Dev) (f m : Nat) : Bool :=
  d.serving && d.power.portUp && (d.func f).enabled && !(d.func f).d3hot && !(d.func f).flr && m < mailboxes f

/-- A doorbell at mailbox `m` with the slot as it stands: an idle mailbox takes it, a busy one counts it (R359). -/
def Dev.ring (d : Dev) (f m : Nat) : Dev :=
  if d.doorOpen f m then
    match (d.mailbox f m).held with
    | some _ => d.modFunc f (fun x => { x with mbxIgnored := satAdd 32 x.mbxIgnored 1 })
    | none => d.modMailbox f m (fun b => { b with held := some b.slot, reply := patch b.reply 0 [0#8, 0#8] })
  else d

/-- The slot of command `c` with opcode `opcode` stands in its mailbox: an idle one takes it, a busy one holds it already (R359). -/
def Dev.took (d : Dev) (c : Door) (opcode : Nat) : Dev :=
  if (d.mailbox c.func c.mbx).held.isSome then d
  else d.modMailbox c.func c.mbx (fun b => { b with slot := doorSlot c opcode })

/-- The mailbox of command `c` is idle again, with `r` in its reply area (R360). -/
def Dev.putReply (d : Dev) (c : Door) (r : List Byte) : Dev :=
  d.modMailbox c.func c.mbx (fun b => { b with held := none, reply := r })

/-- The reply area that a service leaves: its refusal, or its handle and results (R360). -/
def Dev.endService (d : Dev) (c : Door) : Svc → Dev
  | .error r => d.putReply c (replyBytes r.status r.detail 0 c.tag [])
  | .ok (r, d') => d'.putReply c (replyBytes (r.status.getD (if r.handle.isNone then sOk else sAccepted)) 0 (r.handle.getD 0) c.tag r.res)

/-- The firmware serves a command: an idle mailbox takes the slot and its doorbell, a busy one is served where it holds this
very slot, else the doorbell is ignored and counted (R359, R360). -/
def Dev.serve (d : Dev) (c : Door) (opcode : Nat) (svc : Dev → Door → Svc) : Dev :=
  let held := (d.mailbox c.func c.mbx).held
  if !d.doorOpen c.func c.mbx then d
  else if held.isSome && held != some (doorSlot c opcode) then d.ring c.func c.mbx
  else (d.took c opcode).endService c (svc (d.took c opcode) c)

end Sys2Proof.Machine
end

