-- ==== Sys2Proof/Machine/CfgCmds.lean ====
section
/-! DEFINITION. Configuration commands and the validation of transactions (R370 to R375, R379, R391). -/

namespace Sys2Proof.Machine

open Sys2Proof

/-- The transaction of handle `h`. -/
def Dev.txnOf (d : Dev) (h : Nat) : Option Txn := d.txns.find? (fun t => t.handle == h)

/-- `d` with the transaction of handle `h` changed by `f`. -/
def Dev.modTxn (d : Dev) (h : Nat) (f : Txn → Txn) : Dev :=
  { d with txns := d.txns.map (fun t => if t.handle = h then f t else t) }

/-- `d` without the transaction of handle `h`. -/
def Dev.dropTxn (d : Dev) (h : Nat) : Dev := { d with txns := d.txns.filter (fun t => t.handle != h) }

/-- The Calendar entries of a transaction: its commit entry and, with `POWER_CAP`, its power-cap entry (R41, R390). -/
def txnEntry (t : Txn) (e : CalEntry) : Bool :=
  e.beat == t.commit && ((e.action == 3 && e.target == t.order % 4096) ||
    (e.action == 7 && t.items.any (fun i => i.1 == kPowerCap && i.2 == e.arg)))

/-- A transaction ends rolled back: its entries leave every Calendar and its handle completes (R373). -/
def Dev.rollBack (d : Dev) (t : Txn) (status key reason index : Nat) (ruled : Bool) : Dev :=
  let d := if t.pending then d.calDrop (txnEntry t) else d
  (d.dropTxn t.handle).finishAt t.handle status d.beat.now [key + reason * 2 ^ 16, index, 0] ruled

/-- Staging: a key staged again replaces its value in its place (R372). -/
def stage (items : List (Nat × Nat)) (k v : Nat) : List (Nat × Nat) :=
  if items.any (fun i => i.1 == k) then items.map (fun i => if i.1 = k then (k, v) else i) else items ++ [(k, v)]

/-! Validation (R373, R391). -/

/-- Commit `a` takes effect before a transaction whose commit beat is `c` and order is `o`, seen from beat `now` (R375). -/
def commitBefore (now : Nat) (a : Txn) (c o : Nat) : Bool :=
  a.pending && !a.fired &&
    (beatAhead now a.commit < beatAhead now c || (a.commit == c && a.order < o))

/-- The value that key `k` will hold at the commit of `t`, its own items left out (R373). -/
def Dev.futureKey (d : Dev) (t : Txn) (c o k : Nat) : Nat :=
  let before := (d.txns.filter (fun a => a.handle != t.handle && a.package == t.package &&
    (t.package || a.pasture == t.pasture) && commitBefore d.beat.now a c o))
  let sorted := sortBy (fun a => beatAhead d.beat.now a.commit * 2 ^ 64 + a.order) before
  sorted.foldl (fun v a => match a.items.find? (fun i => i.1 == k) with
    | some i => i.2
    | none => v) (if t.package then d.key k else d.pKey t.pasture k)

/-- The value of key `k` under transaction `t`: its own, or the one that will hold (R391). -/
def Dev.stagedOr (d : Dev) (t : Txn) (c o k : Nat) : Nat :=
  match t.items.find? (fun i => i.1 == k) with
  | some i => i.2
  | none => d.futureKey t c o k

/-- The show of pasture `p` supports value `v` of key `k` (R392): the bit of SUPPORT (R383). -/
def supports (support k v : Nat) : Bool :=
  if k == kPlacement then bit support v
  else if k == kScreen then bit support (2 + v)
  else if k == kSpec then bit support (6 + v)
  else if k == kSkip then bit support (9 + v)
  else if k == kKvFill then bit support (13 + v)
  else true

/-- A request of pasture `p` is in PREFILL (R289). -/
def Dev.anyPrefill (d : Dev) (p : Nat) : Bool := d.reqs.any (fun q => q.2.pasture == p && q.2.st == .prefill)

/-- Beat `v` is a boundary of group `g`'s grid at or after beat `c`, and the package has withdrawn from the group (R45). -/
def Dev.rejoinOk (d : Dev) (g v c : Nat) : Bool :=
  let x := d.group g
  x.exists_ && x.left && 0 < x.period && beatAhead x.base v % x.period == 0 && beatGe v c && beatGe v x.base

/-- The reason for which item `(k, v)` of `t`, to commit at `c` in order `o`, fails, 0 when it passes (R391). -/
def Dev.itemReason (d : Dev) (t : Txn) (c o k v : Nat) : Nat :=
  if !keyInRange k v then 1
  else
    let sh := (Tab.get? d.pastures t.pasture).bind (·.sh)
    let chunk := d.stagedOr t c o kChunk
    let step := d.stagedOr t c o kStepTokens
    if k == kResidence && sh.isSome && v != d.futureKey t c o k then 2
    else if k == kPlacement && d.anyPrefill t.pasture && v != d.futureKey t c o k then 2
    else if k == kBeatLink && !d.aux.strapBeat then 2
    else if (match sh with
      | some s => !supports s.support k v
      | none => false) then 2
    else if isRejoin k && v != 0 && !d.rejoinOk (k - kRejoin) v c then 2
    else if (k == kChunk || k == kStepTokens) && keyInRange kChunk chunk && keyInRange kStepTokens step && step < chunk then 3
    else 0

/-- The first failing item of `t`: its index, key and reason (R373). -/
def Dev.validate (d : Dev) (t : Txn) (c o : Nat) : Option (Nat × Nat × Nat) :=
  (t.items.zipIdx.find? (fun i => d.itemReason t c o i.1.1 i.1.2 != 0)).map
    (fun i => (i.2, i.1.1, d.itemReason t c o i.1.1 i.1.2))

/-! The commands (R371 to R375, R379). -/

/-- Service of `CFG_BEGIN` (R371, R379). -/
def svcCfgBegin (d : Dev) (c : Door) : Svc := do
  checkHeader c 8 [(0, [255, 255])]
  let scope := dp c 0 1
  refuseIf (scope == 1 && c.func != 0) sDenied (pOff 0)
  notStopped d
  let past ← if scope = 0 then namedPasture d c 1 else .ok 0
  inRange c 0 1 0 1
  refuseIf (scope == 1 && dp c 1 1 != 0) sInvalid (pOff 1)
  refuseIf (d.txns.any (fun t => !t.pending && t.package == (scope == 1) && (scope == 1 || t.pasture == past))) sConflict 0xFFFF
  handleRoom d c.func
  let (h, d) := d.newHandle c.func c.tag .txn
  pure ({ handle := h },
    { d with txns := d.txns ++ [{ handle := h, package := scope == 1, pasture := past, touched := d.beat.now }] })

/-- Key and value of item `i` of a `CFG_SET` (R379). -/
def setItem (c : Door) (i : Nat) : Nat × Nat := (dp c (8 + 16 * i) 2, dp c (16 + 16 * i) 8)

/-- The transaction that a command names by its handle. -/
def namedTxn (d : Dev) (c : Door) (foreign : Bool) : Except Refuse Txn := do
  let h ← namedHandle d c foreign
  match d.txnOf h with
  | some t => pure t
  | none => .error ⟨sInvalid, pOff 0⟩

/-- Check 1 of a `CFG_SET` of `n` items (R361, R379). -/
def cfgSetHeader (c : Door) (n : Nat) : Except Refuse Unit :=
  let item := [255, 255, 0, 0, 0, 0, 0, 0, 255, 255, 255, 255, 255, 255, 255, 255]
  checkHeader c ((8 + 16 * n) % 256) ((0, List.replicate 6 255) :: (List.range (min n 14)).map (fun i => (8 + 16 * i, item)))

/-- Service of `CFG_SET` (R372, R379). -/
def svcCfgSet (d : Dev) (c : Door) : Svc := do
  let n := dp c 4 2
  cfgSetHeader c n
  notStopped d
  let t ← namedTxn d c false
  inRange c 4 2 1 14
  let items := (List.range n).map (setItem c)
  match indexWhere (fun i => if t.package then !isPackageKey i.1 else !isPastureKey i.1) items with
  | some i => .error ⟨sInvalid, pOff (8 + 16 * i)⟩
  | none =>
    refuseIf t.pending sConflict (pOff 0)
    let staged := items.foldl (fun l i => stage l i.1 i.2) t.items
    refuseIf (512 < staged.length) sNoSpace 0xFFFF
    pure ({ res := [staged.length] }, d.modTxn t.handle (fun t => { t with items := staged, touched := d.beat.now }))

/-- Check 1 of a `CFG_GET` of `n` keys (R361, R379). -/
def cfgGetHeader (c : Door) (n : Nat) : Except Refuse Unit :=
  checkHeader c ((8 + (2 * n + 7) / 8 * 8) % 256) [(0, List.replicate 6 255 ++ [0, 0] ++ List.replicate (2 * min n 6) 255)]

/-- Service of `CFG_GET` (R372, R379). -/
def svcCfgGet (d : Dev) (c : Door) : Svc := do
  let n := dp c 4 2
  cfgGetHeader c n
  let keys := (List.range n).map (fun i => dp c (8 + 2 * i) 2)
  let t ← if dp c 0 4 = 0 then pure none else (namedTxn d c false).map some
  inRange c 4 2 1 6
  match indexWhere (fun k => !isPastureKey k && !isPackageKey k) keys with
  | some i => .error ⟨sInvalid, pOff (8 + 2 * i)⟩
  | none =>
    let own := match t with
      | some t => if t.package then d.pastureOf c.func else some t.pasture
      | none => d.pastureOf c.func
    refuseIf (own.isNone && keys.any isPastureKey) sInvalid 0xFFFF
    let val (k : Nat) : Nat := if isPastureKey k then d.pKey (own.getD 0) k else d.key k
    let get (k : Nat) : Nat := match t.bind (fun t => t.items.find? (fun i => i.1 == k)) with
      | some i => i.2
      | none => val k
    let d := match t with
      | some t => d.modTxn t.handle (fun t => if t.pending then t else { t with touched := d.beat.now })
      | none => d
    pure ({ res := keys.map get }, d)

/-- The commit entry of a transaction (R41, R506, R507). -/
def commitEntry (d : Dev) (t : Txn) : CalEntry :=
  { beat := t.commit, tick := 0, action := 3, rel := false, group := 0, target := t.order % 4096, arg := 0
    dies := (List.range 40).filter (fun x => t.items.any (fun i => (d.keyDies t.pasture i.1 i.2).contains x)) }

/-- The power-cap entry of a transaction that holds `POWER_CAP` (R41, R390). -/
def capEntries (t : Txn) : List CalEntry :=
  (t.items.filter (fun i => i.1 == kPowerCap)).map (fun i =>
    { beat := t.commit, tick := 0, action := 7, rel := false, group := 0, target := 0, arg := i.2, dies := [] })

/-- One more commit has been accepted (R375). -/
def Dev.countCommit (d : Dev) : Dev := { d with commits := d.commits + 1 }

/-- Service of `CFG_COMMIT` (R373, R379). -/
def svcCfgCommit (d : Dev) (c : Door) : Svc := do
  checkHeader c 16 [(0, List.replicate 4 255), (8, List.replicate 8 255)]
  notStopped d
  let t ← namedTxn d c false
  let at_ := dp c 8 8
  let ahead := beatAhead d.beat.now at_
  refuseIf (ahead < 16 || 2 ^ 24 < ahead) sInvalid (pOff 8)
  refuseIf t.pending sConflict (pOff 0)
  let t' : Txn := { t with pending := true, commit := at_, order := d.commits }
  let e := commitEntry d t'
  refuseIf (!d.calRoom e.dies 1) sNoSpace 0xFFFF
  match d.validate t at_ t'.order with
  | some (i, k, r) => pure ({ handle := t.handle }, d.countCommit.rollBack t sRolledBack k r i false)
  | none => pure ({ handle := t.handle }, (capEntries t' ++ [e]).foldl Dev.calPlace (d.countCommit.modTxn t.handle (fun _ => t')))

/-- Service of `CFG_ROLLBACK` (R375, R379). -/
def svcCfgRollback (d : Dev) (c : Door) : Svc := do
  checkHeader c 8 [(0, List.replicate 4 255)]
  notStopped d
  let t ← namedTxn d c true
  refuseIf (t.validated || t.fired) sConflict (pOff 0)
  pure ({}, d.rollBack t sRolledBack 0 0 0 false)

/-- `CFG_BEGIN` at the device. -/
def cfgBegin (d : Dev) (c : Door) : Dev := d.serve c 0x0101 svcCfgBegin
/-- `CFG_SET` at the device. -/
def cfgSet (d : Dev) (c : Door) : Dev := d.serve c 0x0102 svcCfgSet
/-- `CFG_GET` at the device. -/
def cfgGet (d : Dev) (c : Door) : Dev := d.serve c 0x0103 svcCfgGet
/-- `CFG_COMMIT` at the device. -/
def cfgCommit (d : Dev) (c : Door) : Dev := d.serve c 0x0104 svcCfgCommit
/-- `CFG_ROLLBACK` at the device. -/
def cfgRollback (d : Dev) (c : Door) : Dev := d.serve c 0x0105 svcCfgRollback

/-- The final validation of R46: four beats before the commit beat the transaction is validated again, and a failure removes
its entries and completes it `ROLLED_BACK` with reason 4 (R373, R389). -/
def finalValidation (d : Dev) (h : Nat) : Dev :=
  match d.txnOf h with
  | none => d
  | some t =>
    if t.pending && !t.validated && (d.beat.now + 4) % 2 ^ 64 == t.commit then
      match d.validate t t.commit t.order with
      | some (i, k, _) => d.rollBack t sRolledBack k 4 i false
      | none => d.modTxn h (fun t => { t with validated := true })
    else d

/-- An open transaction left alone for 2^24 beats rolls back with `TIMEOUT` (R372). -/
def cfgTimeout (d : Dev) (h : Nat) : Dev :=
  match d.txnOf h with
  | none => d
  | some t =>
    if !t.pending && 2 ^ 24 ≤ beatAhead t.touched d.beat.now then
      (d.dropTxn h).finish h sTimeout [t.items.length]
    else d

end Sys2Proof.Machine
end

