-- ==== Sys2Proof/Machine/ImageCmds.lean ====
section
/-! DEFINITION. Pasture queries and creation, images and access maps (R20, R22, R354, R380, R381). -/

namespace Sys2Proof.Machine

open Sys2Proof

/-! Pen memory (R90, R198, R202). -/

/-- Stack memory address of pen `p`, offset `o`. -/
def penAddr (p o : Nat) : Nat := p * 2 ^ 38 + o % 2 ^ 38

/-- A write of whole code words or part of them: bytes land, and a code word written whole loses its poison (R202). -/
def Dev.penWrite (d : Dev) (p o : Nat) (bs : List Byte) : Dev :=
  let a := penAddr p o
  { d with
    mem := Mem.write d.mem a bs
    poison := d.poison.filter (fun w => !(a ≤ w * 64 && w * 64 + 64 ≤ a + bs.length)) }

/-- `n` bytes of pen `p` from offset `o`; poisoned code words read as zeros (R202). -/
def Dev.penRead (d : Dev) (p o n : Nat) : List Byte :=
  let a := penAddr p o
  (List.range n).map (fun i => if d.poison.contains ((a + i) / 64) then 0#8 else Mem.get d.mem (a + i))

/-- The poisoned code words that `[o, o + n)` of pen `p` touches. -/
def Dev.poisonIn (d : Dev) (p o n : Nat) : List Nat :=
  let a := penAddr p o
  d.poison.filter (fun w => w * 64 < a + n && a < w * 64 + 64)

/-! CRC-32 (R265): the check value of image blocks. -/

/-- One bit of the CRC-32 division, reflected polynomial 0xEDB8_8320. -/
def crcBit (r : Nat) : Nat := if r % 2 = 1 then (r / 2) ^^^ 0xEDB88320 else r / 2

/-- One byte of the CRC-32. -/
def crcByte (r : Nat) (b : Byte) : Nat := Nat.repeat crcBit 8 (r ^^^ b.toNat)

/-- CRC-32 of a byte string. -/
def crc32 (bs : List Byte) : Nat := (bs.foldl crcByte 0xFFFFFFFF) ^^^ 0xFFFFFFFF

/-- The 4 KiB blocks of a byte string, the last one partial; `n` bounds their number. -/
def blocksOf (bs : List Byte) : Nat → List (List Byte)
  | 0 => []
  | n + 1 => if bs.isEmpty then [] else bs.take 4096 :: blocksOf (bs.drop 4096) n

/-- Check values of an image's bytes (R381). -/
def checkValues (bs : List Byte) : List Nat := (blocksOf bs (cdiv bs.length 4096)).map crc32

/-! Access maps (R354). -/

/-- The die identifiers that every access map admits: Gate, Race, Ringmaster and Tier. -/
def serviceMask : Nat := maskOf [16, 17, 18, 20, 21, 22, 23]

/-- The compute dies of the pastures of a mask, as a mask. -/
def Dev.pastureDies (d : Dev) (grants : Nat) : Nat :=
  maskOf ((maskList grants 16).flatMap (fun p => match Tab.get? d.pastures p with
    | some q => diesOfPens (q.pens &&& (2 ^ 16 - 1 - d.faults.offline % 2 ^ 16))
    | none => []))

/-- Contiguous runs of an ascending list of page numbers: first page and length. -/
def pageRuns : List Nat → List (Nat × Nat)
  | [] => []
  | x :: xs => match pageRuns xs with
    | (y, n) :: r => if y = x + 1 then (x, n + 1) :: r else (x, 1) :: (y, n) :: r
    | [] => [(x, 1)]

/-- Pages of a prefix that lie in pen `p`, ascending (R292). -/
def prefixPages (x : Prefix) (p : Nat) : List Nat :=
  (sortBy id ((x.lists.flatMap (·.2)).filter (fun n => n / 2 ^ 23 == p)))

/-- The read-only windows of pen `p`: granted images and prefixes that it stores (R354). -/
def Dev.penWindows (d : Dev) (p : Nat) : List (Nat × Nat × Nat) :=
  d.pastures.flatMap (fun q =>
    (q.2.images.filter (fun i => i.2.pen == p && i.2.grants != 0)).map
      (fun i => (i.2.off, i.2.len, d.pastureDies i.2.grants)) ++
    (q.2.prefixes.filter (fun x => x.2.grants != 0)).flatMap (fun x =>
      (pageRuns (prefixPages x.2 p)).map (fun r => (r.1 % 2 ^ 23 * 2 ^ 15, r.2 * 2 ^ 15, d.pastureDies x.2.grants))))

/-- Every pen's windows fit its 32 (R354; log entry 11). -/
def Dev.windowsFit (d : Dev) : Bool := (List.range 16).all (fun p => (d.penWindows p).length ≤ 32)

/-- The access maps as pastures, grants and offline pens make them (R354, R430). -/
def Dev.remap (d : Dev) : Dev :=
  { d with maps := (List.range 16).map (fun p =>
      (p, { rw := if bit d.faults.offline p then 0
                  else serviceMask ||| d.pastureDies (match d.pastureOfPen p with
                    | 31 => 0
                    | q => 2 ^ q)
            windows := if bit d.faults.offline p then [] else d.penWindows p })) }

/-- `n` bytes at offset `o` of pen `p` meet an image taken as SHARED, which no pasture can write (R22). -/
def Dev.inShared (d : Dev) (p o n : Nat) : Bool :=
  d.pastures.any (fun q => q.2.images.any (fun i => i.2.shared && i.2.pen == p && i.2.off < o + n && o < i.2.off + i.2.len))

/-- The access map of pen `p` admits an access of `n` bytes at offset `o` from die `src` (R354); no compute die writes to a SHARED
image (R22, log 124). -/
def Dev.mapAllows (d : Dev) (p src o n : Nat) (write : Bool) : Bool :=
  let m := Tab.getD d.maps p {}
  (bit m.rw src && !(write && isCompute src && d.inShared p o n)) ||
  (!write && m.windows.any (fun w => w.1 ≤ o && o + n ≤ w.1 + w.2.1 && bit w.2.2 src))

/-! Bindings of loaded shows (R93). -/

/-- Act `a` of pasture `user` binds image `n` of pasture `owner`. -/
def actBinds (a : Act) (user owner n : Nat) : Bool :=
  a.binds.any (fun b => fld b 4 4 == 1 && fld b 16 10 == n &&
    (if fld b 26 5 = 31 then user else fld b 26 5) == owner)

/-- The loaded show of pasture `user` binds image `n` of pasture `owner`. -/
def Dev.showBinds (d : Dev) (user owner n : Nat) : Bool :=
  match (Tab.get? d.pastures user).bind (·.sh) with
  | some s => s.acts.any (fun a => actBinds a user owner n)
  | none => false

/-- The pastures whose loaded show binds image `n` of pasture `owner`. -/
def Dev.binders (d : Dev) (owner n : Nat) : List Nat := (Tab.keys d.pastures).filter (fun u => d.showBinds u owner n)

/-! Pastures (R20, R380). -/

/-- Service of `PASTURE_CREATE` (R20, R339, R380, R450). -/
def svcPastureCreate (d : Dev) (c : Door) : Svc := do
  checkHeader c 8 [(0, [255, 255, 255])]
  pfOnly c
  notStopped d
  let pens := dp c 0 2
  let f := dp c 2 1
  refuseIf (pens == 0) sInvalid (pOff 0)
  refuseIf (16 < f || !(d.func f).enabled) sInvalid (pOff 2)
  refuseIf ((List.range 16).any (fun p => bit pens p && (d.pastureOfPen p != 31 || bit d.faults.offline p))) sConflict (pOff 0)
  refuseIf (d.pastures.any (fun q => q.2.func == f)) sConflict (pOff 2)
  handleRoom d c.func
  match (List.range 16).find? (fun p => (Tab.get? d.pastures p).isNone) with
  | none => .error ⟨sNoSpace, 0xFFFF⟩
  | some p =>
    let (h, d) := d.newHandle c.func c.tag (.pastureCreate p pens)
    pure ({ handle := h }, { d with pastures := Tab.put d.pastures p { pens, func := f } })

/-- Service of `PASTURE_QUERY` (R380). -/
def svcPastureQuery (d : Dev) (c : Door) : Svc := do
  checkHeader c 8 [(0, [255])]
  let p ← namedPasture d c 0
  match d.pasture p with
  | none => .error ⟨sInvalid, pOff 0⟩
  | some q =>
    pure ({ res := [q.pens + q.func * 2 ^ 16 + (if q.sh.isSome then 2 ^ 21 else 0), q.pens &&& d.faults.offline,
      (d.reqs.filter (fun r => r.2.pasture == p && r.2.build.isNone)).length, ((d.heldOf q.func).filter (fun h => hGen h == (d.func q.func).gen)).length] }, d)

/-! Images (R381). -/

/-- The region `[off, off + len)` of pen `pen` meets `[o, o + n)`. -/
def overlaps (off len o n : Nat) : Bool := off < o + n && o < off + len

/-- Page pool of the show of pasture `p` in pen `pen`: offset and length (R383 POOL). -/
def Dev.poolOf (d : Dev) (p pen : Nat) : Option (Nat × Nat) :=
  ((Tab.get? d.pastures p).bind (·.sh)).bind (fun s =>
    ((Tab.getD s.secs 0x0B []).find? (fun e => fld e 0 4 == pen)).map (fun e => (fld e 64 64, fld e 128 64)))

/-- Service of `IMAGE_LOAD` (R381). -/
def svcImageLoad (d : Dev) (c : Door) : Svc := do
  checkHeader c 32 [(0, [255, 255, 255, 255, 1]), (8, List.replicate 24 255)]
  notStopped d
  let p ← ownPasture d c
  let img := dp c 0 2
  let pen := dp c 2 1
  let fmt := dp c 3 1
  let off := dp c 8 8
  let len := dp c 16 8
  match d.pasture p with
  | none => .error ⟨sInvalid, 0xFFFF⟩
  | some q =>
    refuseIf (15 < pen || !bit q.pens pen) sDenied (pOff 2)
    inRange c 0 2 0 1023
    inRange c 3 1 0 14
    refuseIf (fmt == 0 && off % 2048 != 0) sInvalid (pOff 8)
    refuseIf (len == 0 || len % 64 != 0 || 2 ^ 38 < off + len) sInvalid (pOff 16)
    aligned64 c 24
    refuseIf ((Tab.get? q.images img).isSome) sConflict (pOff 0)
    refuseIf (d.pastures.any (fun r => r.2.images.any (fun i => i.2.pen == pen && overlaps i.2.off i.2.len off len))) sConflict (pOff 8)
    refuseIf (match d.poolOf p pen with
      | some (o, n) => overlaps o n off len
      | none => false) sConflict (pOff 8)
    handleRoom d c.func
    let (h, d) := d.newHandle c.func c.tag (.imageLoad p img false)
    let i : Image := { pen, off, len, fmt, shared := d.pKey p kSharing == 1, goldenDue := bit (dp c 4 1) 0 }
    let d := d.modPasture p (fun q => { q with images := Tab.put q.images img i })
    pure ({ handle := h }, d.emit (.hostRead c.func (dp c 24 8) len h))

/-- Image `n` of pasture `p`. -/
def Dev.image (d : Dev) (p n : Nat) : Option Image := (Tab.get? d.pastures p).bind (fun q => Tab.get? q.images n)

/-- `d` with image `n` of pasture `p` changed by `f`. -/
def Dev.modImage (d : Dev) (p n : Nat) (f : Image → Image) : Dev :=
  d.modPasture p (fun q => { q with images := Tab.upd q.images n f })

/-- `d` with prefix `n` of pasture `p` changed by `f`. -/
def Dev.modPrefix (d : Dev) (p n : Nat) (f : Prefix → Prefix) : Dev :=
  d.modPasture p (fun q => { q with prefixes := Tab.upd q.prefixes n f })

/-- Prefix `n` of pasture `p`. -/
def Dev.prefixOf (d : Dev) (p n : Nat) : Option Prefix := (Tab.get? d.pastures p).bind (fun q => Tab.get? q.prefixes n)

/-- Service of `IMAGE_SHARE` (R22, R299, R381). -/
def svcImageShare (d : Dev) (c : Door) : Svc := do
  checkHeader c 8 [(0, List.replicate 6 255)]
  pfOnly c
  notStopped d
  let p ← namedPasture d c 1
  let n := dp c 2 2
  let g := dp c 4 2
  inRange c 0 1 0 1
  inRange c 2 2 0 1023
  let d' ← if dp c 0 1 = 0 then
      match d.image p n with
      | none => .error ⟨sInvalid, pOff 2⟩
      | some i => do
        refuseIf (!i.shared) sConflict (pOff 2)
        refuseIf ((List.range 16).any (fun u => u != p && bit i.grants u && !bit g u && d.showBinds u p n)) sConflict (pOff 4)
        pure (d.modImage p n (fun i => { i with grants := g }))
    else
      match d.prefixOf p n with
      | none => .error ⟨sInvalid, pOff 2⟩
      | some x => do
        refuseIf (d.reqs.any (fun r => r.2.pasture != p && r.2.pfx == some (p * 1024 + n) && bit x.grants r.2.pasture &&
          !bit g r.2.pasture)) sConflict (pOff 4)
        pure (d.modPrefix p n (fun x => { x with grants := g }))
  handleRoom d c.func
  refuseIf (!d'.windowsFit) sNoSpace 0xFFFF
  let (h, d') := d'.remap.newHandle c.func c.tag .immediate
  pure ({ handle := h }, d'.finish h sOk [])

/-- Service of `IMAGE_RESEED` (R381, R435). -/
def svcImageReseed (d : Dev) (c : Door) : Svc := do
  checkHeader c 32 [(0, [255, 255, 255]), (8, List.replicate 24 255)]
  notStopped d
  let p ← namedPasture d c 2
  let n := dp c 0 2
  let off := dp c 8 8
  let len := dp c 16 8
  inRange c 0 2 0 1023
  match d.image p n with
  | none => .error ⟨sInvalid, pOff 0⟩
  | some i =>
    refuseIf (off % 4096 != 0 || i.len ≤ off) sInvalid (pOff 8)
    refuseIf (len == 0 || i.len < off + len || (len % 4096 != 0 && off + len != i.len)) sInvalid (pOff 16)
    aligned64 c 24
    handleRoom d c.func
    let (h, d) := d.newHandle c.func c.tag (.imageReseed p n off len)
    pure ({ handle := h }, d.emit (.hostRead c.func (dp c 24 8) len h))

/-- Service of `IMAGE_UNLOAD` (R381, R436). -/
def svcImageUnload (d : Dev) (c : Door) : Svc := do
  checkHeader c 8 [(0, [255, 255])]
  notStopped d
  let p ← ownPasture d c
  let n := dp c 0 2
  inRange c 0 2 0 1023
  match d.image p n with
  | none => .error ⟨sInvalid, pOff 0⟩
  | some i =>
    refuseIf (!(d.binders p n).isEmpty || i.grants % 2 ^ 16 != i.grants &&& 2 ^ p) sConflict (pOff 0)
    handleRoom d c.func
    let (h, d) := d.newHandle c.func c.tag .immediate
    let d := d.modPasture p (fun q => { q with images := Tab.del q.images n })
    pure ({ handle := h }, d.remap.finish h sOk [])

/-- `PASTURE_CREATE` at the device. -/
def pastureCreate (d : Dev) (c : Door) : Dev := d.serve c 0x0201 svcPastureCreate
/-- `PASTURE_QUERY` at the device. -/
def pastureQuery (d : Dev) (c : Door) : Dev := d.serve c 0x0203 svcPastureQuery
/-- `IMAGE_LOAD` at the device. -/
def imageLoad (d : Dev) (c : Door) : Dev := d.serve c 0x0301 svcImageLoad
/-- `IMAGE_SHARE` at the device. -/
def imageShare (d : Dev) (c : Door) : Dev := d.serve c 0x0302 svcImageShare
/-- `IMAGE_RESEED` at the device. -/
def imageReseed (d : Dev) (c : Door) : Dev := d.serve c 0x0303 svcImageReseed
/-- `IMAGE_UNLOAD` at the device. -/
def imageUnload (d : Dev) (c : Door) : Dev := d.serve c 0x0304 svcImageUnload

end Sys2Proof.Machine
end

