-- ==== Sys2Proof/Machine/ReedSolomon.lean ====
section
/-! DEFINITION. Reed-Solomon codes over binary fields: check symbols and the bounded decoder (R200, R261, R262). -/

namespace Sys2Proof.Machine

open Sys2Proof

/-- A code: symbols of `m` bits in the field of polynomial `poly`, `n` symbols a code word of which the last `r` are check symbols, and
the generator's roots α^`first` to α^(`first` + `r` − 1). Symbol `w` is the coefficient of x^(n − 1 − w). -/
structure RsCode where
  /-- Bits of a symbol. -/
  m : Nat
  /-- Field polynomial. -/
  poly : Nat
  /-- Symbols of a code word. -/
  n : Nat
  /-- Check symbols. -/
  r : Nat
  /-- Exponent of the generator's first root. -/
  first : Nat
  /-- Symbol errors that the decoder corrects. -/
  t : Nat

/-- Product in the code's field; bit `j` of an element is the coefficient of α^j. -/
def RsCode.mul (c : RsCode) (a b : Nat) : Nat :=
  (List.range c.m).foldl (fun p i =>
    let p := 2 * p
    let p := if bit p c.m then p ^^^ c.poly else p
    if bit b (c.m - 1 - i) then p ^^^ a else p) 0

/-- Power of a field element, for exponents below 2^20. -/
def RsCode.pow (c : RsCode) (a e : Nat) : Nat :=
  (List.range 20).foldl (fun p i =>
    let p := c.mul p p
    if bit e (19 - i) then c.mul p a else p) 1

/-- Inverse of a field element other than 0. -/
def RsCode.inv (c : RsCode) (a : Nat) : Nat := c.pow a (2 ^ c.m - 2)

/-- α^`e`. -/
def RsCode.root (c : RsCode) (e : Nat) : Nat := c.pow 2 e

/-- The generator's coefficients below its leading 1, the highest first. -/
def RsCode.generator (c : RsCode) : List Nat :=
  (List.range c.r).foldl (fun g i =>
    let a := c.root (c.first + i)
    List.zipWith (fun x y => x ^^^ y) (g ++ [0]) ((1 :: g).map (c.mul a))) []

/-- The check symbols of the message symbols `ms`: the remainder of the message, moved up by them, by the generator. -/
def RsCode.checks (c : RsCode) (ms : List Nat) : List Nat :=
  let g := c.generator
  ms.foldl (fun s x =>
    let f := x ^^^ s.headD 0
    List.zipWith (fun a b => a ^^^ c.mul f b) (s.drop 1 ++ [0]) g) (List.replicate c.r 0)

/-- The code word of a message. -/
def RsCode.encode (c : RsCode) (ms : List Nat) : List Nat := ms ++ c.checks ms

/-- The syndromes of a received word: its values at the generator's roots, all 0 for a code word. -/
def RsCode.syndromes (c : RsCode) (ws : List Nat) : List Nat :=
  let nz := (ws.zipIdx).filter (fun q => q.1 != 0)
  (List.range c.r).map (fun i =>
    nz.foldl (fun s q => s ^^^ c.mul q.1 (c.pow (c.root (c.first + i)) (c.n - 1 - q.2))) 0)

/-- The value of the polynomial with coefficients `p`, the lowest first, at `x`. -/
def RsCode.eval (c : RsCode) (p : List Nat) (x : Nat) : Nat := p.reverse.foldl (fun s a => c.mul s x ^^^ a) 0

/-- The error locator of syndromes `ss`, the lowest coefficient first, with its degree (Berlekamp and Massey's recurrence). -/
def RsCode.locator (c : RsCode) (ss : List Nat) : List Nat × Nat :=
  let at_ (l : List Nat) (i : Nat) : Nat := l.getD i 0
  let x := (List.range c.r).foldl (fun (s : List Nat × List Nat × Nat × Nat × Nat) k =>
    let (p, q, len, gap, last) := s
    let dis := (List.range (len + 1)).foldl (fun v i => v ^^^ c.mul (at_ p i) (at_ ss (k - i))) 0
    if dis = 0 then (p, q, len, gap + 1, last)
    else
      let f := c.mul dis (c.inv last)
      let p2 := (List.range (c.r + 1)).map (fun i => at_ p i ^^^ (if gap ≤ i then c.mul f (at_ q (i - gap)) else 0))
      if 2 * len ≤ k then (p2, p, k + 1 - len, 1, dis) else (p2, q, len, gap + 1, last))
    ([1], [1], 0, 1, 1)
  (x.1, x.2.2.1)

/-- The errors that the decoder finds in a received word, as (place, value): `none` where more symbols are in error than it corrects. -/
def RsCode.errors (c : RsCode) (ws : List Nat) : Option (List (Nat × Nat)) :=
  let ss := c.syndromes ws
  if ss.all (· == 0) then some []
  else
    let (p, len) := c.locator ss
    if c.t < len then none
    else
      let om := (List.range c.r).map (fun i => (List.range (i + 1)).foldl (fun v j => v ^^^ c.mul (p.getD j 0) (ss.getD (i - j) 0)) 0)
      let der := (List.range c.r).map (fun i => if i % 2 = 0 then p.getD (i + 1) 0 else 0)
      let es := (List.range c.n).filterMap (fun w =>
        let x := c.root (c.n - 1 - w)
        let y := c.inv x
        if c.eval p y = 0 then some (w, c.mul (c.mul (c.eval om y) (c.inv (c.eval der y))) (if c.first = 0 then x else 1)) else none)
      let fixed := es.foldl (fun l e => modAt (fun v => v ^^^ e.2) l e.1) ws
      if es.length = len && (c.syndromes fixed).all (· == 0) then some es else none

/-- The word that the decoder delivers. -/
def RsCode.decode (c : RsCode) (ws : List Nat) : Option (List Nat) :=
  (c.errors ws).map (fun es => es.foldl (fun l e => modAt (fun v => v ^^^ e.2) l e.1) ws)

end Sys2Proof.Machine
end

