-- ==== Sys2Proof/Machine/LinkCode.lean ====
section
/-! DEFINITION. Lanes of a Stile link: logical lanes and groups, what training sets within the classes of reach, and the coding of the
byte stream into codewords and symbols on the lanes (R256, R257, R260 to R263). -/

namespace Sys2Proof.Machine

open Sys2Proof

/-! Lanes (R256, R257). -/

/-- The physical lanes that carry logical lanes 0, 1, … of a direction of width `w` with the lanes of mask `out` mapped out: the working ones
in ascending order. The others are powered down (R256, R257). -/
def lanesOf (out w : Nat) : List Nat := ((List.range 66).filter (fun n => !bit out n)).take w

/-- Lane groups of a direction that uses `n` logical lanes (R256). -/
def groupsOf (n : Nat) : Nat := n / 8

/-! What training sets (R260). -/

/-- A value kept within bounds. -/
def clampInt (lo hi x : Int) : Int := max lo (min hi x)

/-- Largest magnitudes of the transmitter's coefficients c(−2), c(−1), c(+1) of a class of reach, in thousandths. -/
def txRange (reach : Nat) : Nat × Nat × Nat :=
  if reach = 1 then (100, 300, 200) else if reach = 3 then (40, 150, 100) else (60, 250, 150)

/-- Range of the receiver's CTLE peaking in a class of reach, in tenths of a dB. -/
def ctleRange (reach : Nat) : Nat × Nat :=
  if reach = 1 then (60, 200) else if reach = 2 then (0, 140) else if reach = 3 then (0, 100) else (0, 120)

/-- Taps of the receiver's FFE, and of its DFE, in a class of reach. -/
def ffeTaps (reach : Nat) : Nat := if reach = 1 || reach = 3 then 32 else if reach = 2 then 16 else 12
def dfeTaps (reach : Nat) : Nat := if reach = 3 then 0 else 1

/-- A transmitter's settings as training leaves them: each coefficient within its range, and the swing from 600 to 1,000 mV (R260). -/
def TxEq.within (reach : Nat) (e : TxEq) : TxEq :=
  { e with
    pre2 := clampInt 0 (txRange reach).1 e.pre2, pre1 := clampInt (-(txRange reach).2.1) 0 e.pre1
    post1 := clampInt (-(txRange reach).2.2) 0 e.post1, swing := max 600 (min 1000 e.swing) }

/-- The main cursor, which takes what the magnitudes of the others leave of 1, in thousandths (R260). -/
def TxEq.main (e : TxEq) : Int := 1000 - e.pre2.natAbs - e.pre1.natAbs - e.post1.natAbs

/-- A receiver's settings within the ranges of the class of reach (R260). -/
def RxEq.within (reach : Nat) (e : RxEq) : RxEq :=
  { e with
    ctle := max (ctleRange reach).1 (min (ctleRange reach).2 e.ctle)
    ffe := (e.ffe ++ List.replicate (ffeTaps reach) 0).take (ffeTaps reach), dfe := e.dfe.take (dfeTaps reach) }

/-! Codewords (R261 to R263). -/

/-- RS(544,514) of IEEE 802.3 Clause 91: ten-bit symbols, field polynomial x^10 + x^3 + 1, generator roots α^0 to α^29, 15 symbols
corrected (R261, R262; log entry 138). -/
def linkCodeRs : RsCode := { m := 10, poly := 0x409, n := 544, r := 30, first := 0, t := 15 }

/-- Message bits of codeword `n` of a group that carry stream bits: the alignment marker takes the first 40 symbols of every 4,096th. -/
def wordRoom (n : Nat) : Nat := if n % 4096 = 0 then 4740 else 5140

/-- Codeword and message bit in which bit `b` of a group's stream stands. -/
def wordPlace (b : Nat) : Nat × Nat :=
  let per := 5140 * 4096 - 400
  let r := b % per
  if r < 4740 then (4096 * (b / per), 400 + r) else (4096 * (b / per) + 1 + (r - 4740) / 5140, (r - 4740) % 5140)

/-- The `n` symbols of ten bits in `v`. -/
def tenBits (v n : Nat) : List Nat := (List.range n).map (fun k => fld v (10 * k) 10)

/-- The symbols of codeword `n` of group `g` with stream bits `v`: the marker first where it carries one, then check symbols unless FEC is
bypassed (R261, R263). -/
def codeSymbols (g n v : Nat) (bypass : Bool) : List Nat :=
  let ms := tenBits (if n % 4096 = 0 then Config.alignMarker g % 2 ^ 400 + v * 2 ^ 400 else v) 514
  if bypass then ms else linkCodeRs.encode ms

/-- A symbol as its five PAM4 levels, the least significant pair of bits first, in Gray coding (R261; log entry 138). -/
def pam4 (s : Nat) : List Nat := (List.range 5).map (fun i => match fld s (2 * i) 2 with
  | 0 => 0
  | 2 => 1
  | 3 => 2
  | _ => 3)

/-- The levels that each lane of group `g` sends for the symbols of a codeword: symbol `k` goes on logical lane 8g + k mod 8 (R261). -/
def laneLevels (lanes : List Nat) (g : Nat) (ss : List Nat) : List (Nat × List Nat) :=
  (List.range 8).map (fun j =>
    (lanes.getD (8 * g + j) 0, ((ss.zipIdx).filter (fun q => q.2 % 8 == j)).flatMap (fun q => pam4 q.1)))

/-- The bytes of `bs` that go to group `g` of `n` when the first is byte `pos` of the stream (R261). -/
def groupBytes (pos n g : Nat) (bs : List Byte) : List Byte :=
  ((bs.zipIdx).filter (fun b => (pos + b.2) % n == g)).map Prod.fst

/-- What a group's encoder holds after the bytes `bs`, and the stream bits of the codeword that they complete. -/
def CodeAcc.add (a : CodeAcc) (bs : List Byte) : CodeAcc × Option Nat :=
  let v := a.bits + leNat bs * 2 ^ a.count
  let c := a.count + 8 * bs.length
  let room := wordRoom a.word
  if c < room then ({ a with bits := v, count := c }, none)
  else ({ word := a.word + 1, bits := v / 2 ^ room, count := c - room }, some (v % 2 ^ room))

/-- The stream errors that a codeword with inverted bits `errs` leaves after the decoder (R262), with the places of the symbols it corrected
and whether it could not: with bit 10 k + j of `errs` and of the answer for bit `j` of symbol `k`. The code being linear, the decoder does
with a codeword what it does with the inverted bits alone. -/
def decodeErrs (errs : Nat) : Nat × List Nat × Bool :=
  match linkCodeRs.errors (tenBits errs 544) with
  | none => (errs, [], true)
  | some es => (es.foldl (fun v e => v ^^^ (e.2 * 2 ^ (10 * e.1))) errs, es.map Prod.fst, false)

/-- The bits inverted in byte `p` of the stream over `n` groups, with the errors `l` of codewords: group, number and message bits. -/
def byteErrs (l : List (Nat × Nat × Nat)) (n p : Nat) : Nat :=
  (List.range 8).foldl (fun v i =>
    let (w, b) := wordPlace (8 * (p / n) + i)
    match l.find? (fun e => e.1 == p % n && e.2.1 == w) with
    | some e => v + (bit e.2.2 b).toNat * 2 ^ i
    | none => v) 0

/-- The bytes `bs` of the stream as the receiver has them, the first being byte `pos`. -/
def streamErrs (l : List (Nat × Nat × Nat)) (n pos : Nat) (bs : List Byte) : List Byte :=
  if l.isEmpty || n = 0 then bs else (bs.zipIdx).map (fun b => b.1 ^^^ BitVec.ofNat 8 (byteErrs l n (pos + b.2)))

end Sys2Proof.Machine
end

