-- ==== Sys2Proof/Machine/StileTx.lean ====
section
/-! DEFINITION. Sending on Stile links: routes, virtual channels, credits, the slice table, data and control flits (R264 to R276). -/

namespace Sys2Proof.Machine

open Sys2Proof

/-- Link `l`. -/
def Dev.link (d : Dev) (l : Nat) : Link := Tab.getD d.links l {}

/-- `d` with link `l` changed by `f`. -/
def Dev.modLink (d : Dev) (l : Nat) (f : Link → Link) : Dev := { d with links := Tab.put d.links l (f (d.link l)) }

/-- Performance register `i` of R283 of link `l`. -/
def Dev.linkPerf (d : Dev) (l i n : Nat) : Dev := d.perfAdd (gateOf l) 63 (12 + l % 2) i n

/-- Error counter `i` of R284 of link `l`. -/
def Dev.linkErr (d : Dev) (l i n : Nat) : Dev := d.errAdd (gateOf l) 64 (8 + 8 * (l % 2) + i) n

/-! Flits (R264, R265). -/

/-- The CRC of a flit: the 24-bit number, then bytes 0 to 257 (R265). -/
def flitCrc (seq : Nat) (first : List Byte) : Nat := crc32 (leBytes seq 3 ++ first)

/-- A flit of 262 bytes (R264). -/
def mkFlit (seq vc ftype : Nat) (body : List Byte) : List Byte :=
  let first := padTo body 256 ++ [BitVec.ofNat 8 (vc + 16 * ftype), BitVec.ofNat 8 seq]
  first ++ leBytes (flitCrc seq first) 4

/-! Virtual channels (R270 to R272). -/

/-- The even virtual channel of a message kind, before or after the first upper link (R270, R273). -/
def vcPair (mkind : Nat) (upper : Bool) : Nat :=
  if upper then (if mkind = 5 then 14 else if mkind = 4 || mkind = 0 || mkind = 1 then 12 else 10)
  else if mkind = 6 then 0 else if mkind = 2 || mkind = 3 then 2 else if mkind = 4 then 4 else if mkind = 5 then 8 else 6

/-- Slot `s` of the slice table. -/
def Link.slot (x : Link) (s : Nat) : Nat := fld x.slices (4 * s) 4

/-- Credits of virtual channel `v` when a link trains, by the table `slices` of the receiver that grants them (R271, R272). -/
def initialCredit (slices v : Nat) : Nat := 64 + 3040 * ((List.range 32).filter (fun s => fld slices (4 * s) 4 == v)).length

/-- A flit of virtual channel `v` may be sent for credit. -/
def Link.hasCredit (x : Link) (v : Nat) : Bool :=
  (Tab.getD x.sentOn v 0 + 2 ^ 32 - Tab.getD x.credit v 0) % 2 ^ 32 < initialCredit x.farSlices v

/-- The message that virtual channel `v` is sending. -/
def Link.sending (x : Link) (v : Nat) : Option TxMsg := (Tab.getD x.queue v []).head?

/-- A flit of virtual channel `v` is ready. -/
def Link.ready (x : Link) (v : Nat) : Bool := match x.sending v with
  | some m => !m.flits.isEmpty
  | none => false

/-- The virtual channel served at one opportunity (R272). -/
def Link.pick (x : Link) : Option Nat :=
  let t := x.slot x.ptr
  ((List.range 16).map (fun i => (t + i) % 16)).find? (fun v => x.ready v && x.hasCredit v)

/-- A buffer entry of a link's VC is free again: its flit has been delivered or has gone on (R267, R271). -/
def Dev.freeEntry (d : Dev) (inn : Option (Nat × Nat)) : Dev := match inn with
  | none => d
  | some (l, v) => d.modLink l (fun x => { x with freed := Tab.mod x.freed v 0 (fun n => (n + 1) % 2 ^ 32) })

/-! Slots (R261, R266). -/

/-- The bytes of a flit enter the stream of link `l`: each lane group's codewords leave as they fill (R261). -/
def Dev.putStream (d : Dev) (l : Nat) (f : List Byte) : Dev :=
  let x := d.link l
  let n := groupsOf x.txLanes.length
  let d := (List.range n).foldl (fun d g =>
    let r := CodeAcc.add (Tab.getD x.txCode g {}) (groupBytes x.txPos n g f)
    let d := d.modLink l (fun y => { y with txCode := Tab.put y.txCode g r.1 })
    match r.2 with
    | none => d
    | some v => d.emit (.stileWord l g (laneLevels x.txLanes g (codeSymbols g (Tab.getD x.txCode g {}).word v x.bypass)))) d
  d.modLink l (fun y => { y with txPos := y.txPos + f.length })

/-- A flit leaves link `l` in one slot. -/
def Dev.sendFlit (d : Dev) (l : Nat) (f : List Byte) : Dev :=
  ((d.modLink l (fun x => { x with sinceCtl := x.sinceCtl + 1 })).emit (.stile l f)).putStream l f

/-- The BODY of a control flit (R267). -/
def ctlBody (l : Nat) (x : Link) (addr : Nat) (nak : Option Bool) : List Byte :=
  let flags := nak.isSome.toNat + 2 * (nak == some true).toNat + 4 * x.rxPause.toNat
  leBytes ((x.rxSeq + 2 ^ 24 - 1) % 2 ^ 24) 3 ++ leBytes (if nak.isSome then x.rxSeq else 0) 3 ++ leBytes flags 1 ++ leBytes 0 1 ++
  (List.range 16).flatMap (fun v => leBytes (Tab.getD x.freed v 0) 4) ++ leBytes addr 2 ++ leBytes l 1

/-- A control flit leaves (R266, R267). -/
def Dev.sendCtl (d : Dev) (l : Nat) (nak : Option Bool) : Dev :=
  let x := d.link l
  (d.sendFlit l (mkFlit x.txSeq 0 3 (ctlBody l x d.route.addr nak))).modLink l (fun y => { y with sinceCtl := 0, ctlDue := false })

/-- The next data flit of virtual channel `v` leaves link `l` (R268, R271, R272). -/
def Dev.sendData (d : Dev) (l v : Nat) : Dev :=
  let x := d.link l
  match Tab.getD x.queue v [] with
  | m :: rest => match m.flits with
    | (ft, body) :: fs =>
      let f := mkFlit x.txSeq v ft body
      let done := fs.isEmpty && !m.more
      let d := d.modLink l (fun y =>
        { y with
          queue := Tab.put y.queue v (if done then rest else { m with flits := fs } :: rest)
          sentOn := Tab.mod y.sentOn v 0 (fun c => (c + 1) % 2 ^ 32)
          store := y.store ++ [(y.txSeq, f)], txSeq := (y.txSeq + 1) % 2 ^ 24, ptr := (y.ptr + 1) % 32 })
      (((d.linkPerf l 0 1).linkPerf l 6 done.toNat).sendFlit l f).freeEntry m.inn
    | [] => d
  | [] => d

/-- One slot of link `l` in the order of R266, and whether anything but an idle flit left: a beat marker, a control flit with a NAK, a
repeated data flit, a control flit that is due, a data flit. -/
def Dev.linkSlot (d : Dev) (l : Nat) : Dev × Bool :=
  let x := d.link l
  if x.st != .up || x.txPause then (d, false)
  else match x.markerDue with
    | some b => ((d.modLink l (fun y => { y with markerDue := none })).sendFlit l (mkFlit x.txSeq 0 4 b), true)
    | none =>
      if x.nakDue then
        let d := d.modLink l (fun y => { y with nakDue := false })
        (if x.nak.isSome then (d.linkErr l 2 1).sendCtl l x.nak else d, true)
      else match x.again with
        | n :: rest =>
          let d := d.modLink l (fun y => { y with again := rest })
          (match x.store.find? (fun f => f.1 == n) with
            | some f => (d.sendFlit l f.2).linkPerf l 2 1
            | none => d, true)
        | [] =>
          if x.ctlDue || 1024 ≤ x.sinceCtl then (d.sendCtl l none, true)
          else if 98304 ≤ x.store.length then (d, false)
          else
            let d := d.linkPerf l 3 ((List.range 16).any (fun v => x.ready v && !x.hasCredit v)).toNat
            match x.pick with
            | none => (d, false)
            | some v => (d.sendData l v, true)

/-- Slots of link `l` while something but idle flits leaves; `n` bounds them. -/
def Dev.linkPump (d : Dev) (l : Nat) : Nat → Dev
  | 0 => d
  | n + 1 =>
    let s := d.linkSlot l
    if s.2 then Dev.linkPump s.1 l n else s.1

/-- Flits that wait on a link. -/
def Link.waiting (x : Link) : Nat := x.queue.foldl (fun n q => q.2.foldl (fun n m => n + m.flits.length) n) x.again.length

/-- Send what can be sent. -/
def Dev.pumpLink (d : Dev) (l : Nat) : Dev := d.linkPump l (2 * (d.link l).waiting + 8)

/-- The BODY of an idle flit (FTYPE 0) or a training flit (FTYPE 5), which R264 leaves open. -/
def fillBody (ft : Nat) : List Byte := (List.range 256).map (Config.fillByte ft)

/-- `n` idle flits leave link `l` (R264, R266). -/
def Dev.sendIdles (d : Dev) (l n : Nat) : Dev :=
  (List.range n).foldl (fun d _ => d.sendFlit l (mkFlit (d.link l).txSeq 0 0 (fillBody 0))) (d.linkPerf l 4 n)

/-- The transmit direction of link `l` stops for the repair pause and sends the training pattern (R281). -/
def Dev.pauseTx (d : Dev) (l : Nat) : Dev :=
  if (d.link l).txPause then d
  else (d.modLink l (fun x => { x with txPause := true })).sendFlit l (mkFlit (d.link l).txSeq 0 5 (fillBody 5))

/-- A flit of a message that came on (link, VC) `inn` joins virtual channel `v` of link `k`, by which it leaves; where that link is down or
has lost the message's head, it is discarded (R270, R275, R282). -/
def Dev.queueFlit (d : Dev) (k v : Nat) (inn : Nat × Nat) (ft : Nat) (body : List Byte) (last : Bool) : Dev :=
  let x := d.link k
  let mine (m : TxMsg) : Bool := m.inn == some inn && m.more
  let q := Tab.getD x.queue v []
  if x.st != .up || (ft != 1 && !q.any mine) then d.freeEntry (some inn)
  else
    let q :=
      if ft = 1 then q ++ [{ inn := some inn, flits := [(ft, body)], more := !last }]
      else q.map (fun m => if mine m then { m with flits := m.flits ++ [(ft, body)], more := !last } else m)
    (d.modLink k (fun y => { y with queue := Tab.put y.queue v q })).pumpLink k

/-! Routes (R274 to R276). -/

/-- Coordinate `i` (X, Y, Z) of a package address. -/
def coord (a i : Nat) : Nat := fld a (2 * i) 2

/-- The next link within the paddock towards package `t`, and whether it is a wrap link; none when there (R275). -/
def Route.towards (r : Route) (t : Nat) : Option (Nat × Bool) :=
  ((List.range 3).find? (fun i => coord r.addr i != coord t i)).map (fun i =>
    let n := fld r.sizes (2 * i) 2 + 1
    let c := coord r.addr i
    let g := coord t i
    if bit r.wraps i then
      let fwd := (g + n - c) % n
      let bwd := (c + n - g) % n
      if fwd ≤ bwd then (2 * i + 1, c == n - 1) else (2 * i, c == 0)
    else if c < g then (2 * i + 1, false) else (2 * i, false))

/-- Where a message for address `dst` goes: the next link, its virtual channel's upper leg and dateline bit. -/
inductive Hop where
  /-- This package. -/
  | here
  /-- Nowhere: the range entry is empty, or no `ROUTE_SET` has been applied. -/
  | lost
  /-- Link, upper leg, dateline bit. -/
  | link (l : Nat) (upper dateline : Bool)
  deriving DecidableEq, Repr

/-- The next hop of a message for `dst` that arrived on link `inn` (none for one that starts here) on virtual channel `vc`
(R275, R276). -/
def Route.hop (r : Route) (dst : Nat) (inn : Option Nat) (vc : Nat) : Hop :=
  let upper := inn.isSome && 10 ≤ vc
  let bit_ := inn.isSome && vc % 2 == 1
  let along (t : Nat) : Hop := match r.towards t with
    | none => .here
    | some (l, w) =>
      if upper then .link l true bit_
      else
        let same := match inn with
          | some k => k / 2 == l / 2
          | none => false
        .link l false (w || (same && bit_))
  if !r.loaded then .lost
  else if dst / 64 = r.addr / 64 then along dst
  else
    let e := r.table.getD (dst / 64) 0
    if !bit e 16 then .lost
    else if fld e 0 12 = r.addr then .link (fld e 12 3) true (bit e 15)
    else along (fld e 0 12)

/-! Messages (R273). -/

/-- The 32 bytes of a message header. -/
def msgHeader (dst mkind src len die core chan step tag : Nat) : List Byte :=
  leBytes (dst + mkind * 2 ^ 12 + src * 2 ^ 16 + (len - 1) * 2 ^ 32 + die * 2 ^ 48 + core * 2 ^ 54) 8 ++
  leBytes (chan + step % 2 ^ 64 * 2 ^ 16 + tag % 2 ^ 32 * 2 ^ 80) 24

/-- The bodies of a message's flits; `n` bounds them. -/
def bodies : Nat → List Byte → List (List Byte)
  | 0, _ => []
  | n + 1, bs => if bs.isEmpty then [] else padTo (bs.take 256) 256 :: bodies n (bs.drop 256)

/-- A message that no link takes is discarded at Gate of link `l` (R274, R276). -/
def Dev.unroutable (d : Dev) (l dst : Nat) (loaded : Bool) : Dev :=
  let d := d.linkErr l 4 1
  if loaded then d.notice 0x002C (gateOf l) 63 31 dst else d

/-- The flits of a message of this package (header and data) join a virtual channel's queue of its first link. -/
def Dev.forward (d : Dev) (dst mkind : Nat) (bs : List Byte) : Dev :=
  match d.route.hop dst none 0 with
  | .here => d
  | .lost => d.unroutable 0 dst d.route.loaded
  | .link l upper dl =>
    if (d.link l).st != .up then d.unroutable l dst true
    else
      let v := vcPair mkind upper + dl.toNat
      let fs := (bodies (bs.length / 256 + 1) bs).zipIdx.map (fun b => (if b.2 = 0 then 1 else 2, b.1))
      (d.modLink l (fun x => { x with queue := Tab.mod x.queue v [] (· ++ [({ flits := fs } : TxMsg)]) })).pumpLink l

/-- A message of this package, in pieces of at most 64 KiB of data, the last of which carries `last` in its TAG; `n` bounds them. A
message without data, for which LENGTH has no code, carries one byte of 0. -/
def Dev.sendMsg (d : Dev) (dst mkind die core chan step tag last : Nat) : Nat → List Byte → Dev
  | 0, _ => d
  | n + 1, data =>
    let piece := if data.isEmpty then [0#8] else data.take 65536
    let more := !(data.drop 65536).isEmpty
    let d := d.forward dst mkind (msgHeader dst mkind d.route.addr piece.length die core chan step (if more then tag else last) ++ piece)
    if more then Dev.sendMsg d dst mkind die core chan step tag last n (data.drop 65536) else d

end Sys2Proof.Machine
end

