-- ==== Sys2Proof/Machine/Beats.lean ====
section
/-! DEFINITION. The Beat: numbering, the states and their windows, following pins or a link, markers, `BEAT_SYNC` and the rebase of
the Calendar (R28 to R39, R278, R388). -/

namespace Sys2Proof.Machine

open Sys2Proof

/-! Numbering and rebasing (R34, R35, R38, R39). -/

/-- Beat `b` moved by offset `o`, modulo 2^64. -/
def moveBeat (o b : Nat) : Nat := (b + o) % 2 ^ 64

/-- The beats of a group moved with the numbering: its grid, the start of its step, and the boundaries at which it and its peers
rejoin (R38, R44; log entry 20). -/
def Group.rebase (o : Nat) (g : Group) : Group :=
  { g with
    base := moveBeat o g.base
    first := moveBeat o g.first
    last := if g.stepNo = 0 then g.last else moveBeat o g.last
    rejoin := g.rejoin.map (moveBeat o)
    peersJoin := g.peersJoin.map (fun x => (x.1, moveBeat o x.2)) }

/-- Every entry with an absolute time moves by offset `o`; a step-relative one stays (R38). -/
def CalEntry.rebase (o : Nat) (e : CalEntry) : CalEntry :=
  if e.rel then e else { e with beat := moveBeat o e.beat, heldAt := moveBeat o e.heldAt }

/-- A held contribution of a later step moves with its step's start beat. -/
def Part.rebase (o : Nat) (p : Part) : Part :=
  { p with held := p.held.map (fun h => (moveBeat o h.1, h.2)) }

/-- The steps of a reduction's instances move with the numbering (log entry 20). -/
def Inst.rebase (o : Nat) (x : Inst) : Inst :=
  { x with
    step := moveBeat o x.step
    parts := Tab.mapV x.parts (fun _ p => p.rebase o)
    waits := x.waits.map (fun w : RedWait => { w with step := moveBeat o w.step })
    results := x.results.map (fun r => (moveBeat o r.1, r.2)) }

/-- The start beats by which running steps know their instances move with the numbering (log entry 20). -/
def Dev.rebaseSteps (d : Dev) (o : Nat) : Dev :=
  { d with
    groups := Tab.mapV d.groups (fun _ g => g.rebase o)
    cores := Tab.mapV d.cores (fun _ c => { c with run := c.run.map (fun r => { r with start := moveBeat o r.start }) })
    reds := Tab.mapV d.reds (fun _ x => x.rebase o)
    inbox := d.inbox.map (fun m => { m with step := moveBeat o m.step })
    races := Tab.mapV d.races (fun _ x =>
      { x with
        step := moveBeat o x.step
        waits := x.waits.map (fun w : RaceWait => { w with step := moveBeat o w.step })
        held := x.held.map (fun m => { m with step := moveBeat o m.step }) }) }

/-- The offset `o` joins the beat of every absolute Calendar entry and the commit beat of every open transaction (R38). -/
def Dev.rebase (d : Dev) (o : Nat) : Dev :=
  if o = 0 then d else
  { d with
    cal := d.cal.map (CalEntry.rebase o)
    beat := { d.beat with syncs := d.beat.syncs.map (fun s : BeatSync => { s with load := moveBeat o s.load }) }
    txns := d.txns.map (fun t => if Txn.pending t then { t with commit := moveBeat o (Txn.commit t) } else t) }.rebaseSteps o

/-- The beat becomes `n` and what is scheduled moves with it from number `own` (R38). -/
def Dev.renumber (d : Dev) (own n : Nat) : Dev :=
  (d.rebase (beatAhead own n)).modBeat (fun b => { b with now := n % 2 ^ 64 })

/-! States (R33, R36). -/

/-- The code of a beat state (R278, R497). -/
def beatCode : BeatState → Nat
  | .free => 0
  | .locked => 1
  | .holdover => 2
  | .slewing => 3
  | .slipped => 4

/-- A change of beat state and its event on every function (R33, R342). -/
def Dev.beatState (d : Dev) (s : BeatState) : Dev :=
  if d.beat.st = s then d
  else { d with beat := { d.beat with st := s, missing := 0, valid := 0 } }.eventAll 3 2

/-- Entering LOCKED (R33); from the first lock on, `BEAT_OUT` and the markers run (R30). -/
def Dev.lock (d : Dev) : Dev :=
  let d := d.beatState .locked
  { d with beat := { d.beat with lockedOnce := true } }

/-- SLEWING ends when the remaining error is within 1 tick (R36). -/
def Dev.settleSlew (d : Dev) : Dev :=
  if d.beat.st = .slewing && d.beat.phase.natAbs ≤ 1 then d.lock else d

/-- Whole beats from a package's tick 0 to its tick 0 nearest to a point `at_` sixteenths of a tick away. -/
def nearestBeat (at_ : Int) : Int := (at_ + 8192) / 16384

/-- The phase of a point `at_` sixteenths of a tick from one of the package's ticks 0, against the tick 0 nearest to it, in
sixteenths (R31). -/
def nearestPhase (at_ : Int) : Int := at_ - 16384 * nearestBeat at_

/-- Sixteenths of a tick to the nearest whole tick, as PHASE shows them (R497). -/
def wholeTicks (at_ : Int) : Int := (at_ + 8) / 16

/-- The number the package expects of a marker: that of its own tick 0 nearest to the marker's compensated time, which lies `at_`
sixteenths of a tick from the tick 0 nearest to its arrival; `arrival` below 0 comes before that tick 0 (R31, R34). -/
def Beat.expected (b : Beat) (arrival at_ : Int) : Nat :=
  (((b.now : Int) + (if arrival < 0 then 1 else 0) + nearestBeat at_) % 2 ^ 64).toNat

/-- An edge or marker at `phase` sixteenths of a tick falls within the window of the state in force (R34). DEDUCED (log entry 56): R38
takes the window of R34 for a relock in SLIPPED too, for which, as for FREE, R34 gives none; it is that of LOCKED. -/
def Beat.inWindow (b : Beat) (phase : Int) : Bool :=
  match b.st with
  | .slewing => (phase - 16 * b.phase).natAbs ≤ 512
  | .holdover => phase.natAbs ≤ 1024
  | _ => phase.natAbs ≤ 512

/-- One more expected edge or marker is missing: eight enter HOLDOVER, one breaks a run in FREE (R33, R34). DEDUCED (log entry 119):
the eight are in succession, so that one that is present starts the count again. -/
def Dev.countMissing (d : Dev) : Dev :=
  match d.beat.st with
  | .free => { d with beat := { d.beat with valid := 0 } }
  | .locked | .slewing =>
    let n := d.beat.missing + 1
    if 8 ≤ n then d.beatState .holdover else { d with beat := { d.beat with missing := n } }
  | _ => d

/-- An edge or marker is present: the package follows it, or returns from HOLDOVER by slewing (R33, R34, R36). -/
def Dev.present (d : Dev) (phase : Int) (hop hz : Nat) : Dev :=
  let d := { d with beat := { d.beat with missing := 0, phase, hop, hz } }
  (if d.beat.st = .holdover then d.beatState .slewing else d).settleSlew

/-- A valid edge or marker in FREE: the eighth in succession locks, and tick 0 moves at the next boundary; a marker's number is
taken then: `jump` is the number of that boundary (R33, R35). -/
def Dev.freeValid (d : Dev) (hop hz : Nat) (jump : Option Nat) : Dev :=
  let n := d.beat.valid + 1
  if 8 ≤ n then
    let d := d.lock
    { d with beat := { d.beat with hop, hz, phase := 0, lockDue := true, jump } }
  else { d with beat := { d.beat with valid := n } }

/-- The `BEAT_SYNC` of handle `h` is over. -/
def Dev.dropSync (d : Dev) (h : Nat) : Dev :=
  { d with beat := { d.beat with syncs := d.beat.syncs.filter (fun s => s.handle != h) } }

/-- The `BEAT_SYNC` of handle `h` completes at beat `n` with offset `o`, in the order of R369. -/
def Dev.syncDone (d : Dev) (h n o : Nat) : Dev :=
  (d.dropSync h).finishAt h sOk n [fld o 0 32, fld o 32 32] false

/-- A relock: tick 0 moves to the source in one step, the number of that tick 0 becomes `n` against the package's own `own`, and the
state is LOCKED; the edge or marker came `after` whole beats after that tick 0 (R38). -/
def Dev.relock (d : Dev) (h own n after hop hz : Nat) : Dev :=
  let o := beatAhead own n
  let d := { d with beat := { d.beat with phase := 0, hop, hz, missing := 0 } }
  let d := (d.renumber own n).modBeat (fun b => { b with now := (n + after) % 2 ^ 64 })
  let d := d.lock
  d.syncDone h n o

/-! The commands of the Beat. -/

/-- A marker flit leaves on link `l` (R278). -/
def Dev.sendMarker (d : Dev) (l launch : Nat) : Dev :=
  let x := d.link l
  if x.st = .up && !x.txPause then
    (d.modLink l (fun x =>
      { x with markerDue := some (leBytes d.beat.now 8 ++ leBytes (d.beat.hop % 16 + 16 * beatCode d.beat.st) 1 ++ leBytes launch 2) })).pumpLink l
  else d

/-- Tick 0 of the package's own beat: the number advances or jumps, the remaining phase error shrinks by a tick, and the beat is
repeated on `BEAT_OUT` and on every trained link (R30, R34 to R36, R39, R278). `launch` gives the delay of each link's marker. -/
def beatTick0 (d : Dev) (launch : List Nat) : Dev :=
  if d.power.inReset then d else
  let next := (d.beat.now + 1) % 2 ^ 64
  let d := match d.beat.jump with
    | some n => d.renumber next n
    | none => d.modBeat (fun b => { b with now := next })
  let d := d.modBeat (fun b =>
    { b with
      jump := none, lockDue := false, hz := b.rate
      phase := if b.st == BeatState.locked || b.st == BeatState.slewing then b.phase - b.phase.sign else b.phase })
  let d := if next = 0 then d.eventAll 5 2 else d
  let d := d.settleSlew
  if d.beat.lockedOnce then
    (List.range 6).foldl (fun d l => d.sendMarker l (launch.getD l 0)) (d.emit (.beatOut d.beat.now))
  else d

/-- The phase error that `RM_BEAT_STATUS` shows is measured, whatever the state does with it (R497). -/
def Dev.seePhase (d : Dev) (phase : Int) : Dev := { d with beat := { d.beat with phase } }

/-- An edge is judged by the state in force (R33, R34). -/
def Dev.judgeEdge (d : Dev) (phase : Int) (hz : Nat) : Dev :=
  match d.beat.st with
  | .free => d.freeValid 0 hz none
  | .slipped => d.seePhase phase
  | .holdover => if d.beat.inWindow (16 * phase) then d.present phase 0 hz else (d.seePhase phase).beatState .slipped
  | _ => if d.beat.inWindow (16 * phase) then d.present phase 0 hz else d.countMissing

/-- An edge of `BEAT_IN`, `phase` ticks from the package's nearest tick 0, with the rate measured (R33 to R36, R38). -/
def beatEdge (d : Dev) (phase : Int) (hz : Nat) : Dev :=
  if d.power.inReset || d.aux.strapBeat || d.beat.lockDue then d else
  match d.beat.syncs.find? (fun s => s.armed && s.relock) with
  | some s => d.relock s.handle d.beat.now s.value 0 0 hz
  | none => d.judgeEdge phase hz

/-- The one-way delay of link `l` in sixteenths of a tick at the measured rate: half the round trip of training (R31, R278). -/
def Dev.oneWay (d : Dev) (l : Nat) : Nat :=
  (d.link l).rtt * d.beat.rate * 16384 / 2000000000

/-- A marker of the source is judged by the state in force, at compensated phase `phase`, in sixteenths of a tick, where the package
expects number `own` (R31, R33, R34). The number that a FREE package takes at its next boundary is the marker's, moved on by the
beats between the two (R35). -/
def Dev.judgeMarker (d : Dev) (phase : Int) (own beat hop hz : Nat) : Dev :=
  let ticks := wholeTicks phase
  if hop = 15 then d.countMissing
  else match d.beat.st with
    | .free => d.freeValid (hop + 1) hz (some ((beat + beatAhead own (d.beat.now + 1)) % 2 ^ 64))
    | .slipped => d.seePhase ticks
    | .holdover =>
      if !d.beat.inWindow phase || beat ≠ own then (d.seePhase ticks).beatState .slipped else d.present ticks (hop + 1) hz
    | _ =>
      if !d.beat.inWindow phase then d.countMissing
      else if beat ≠ own then d.beatState .slipped
      else d.present ticks (hop + 1) hz

/-- A beat marker arrives on link `l`, `arrival` sixteenths of a tick from the package's nearest tick 0; LAUNCH and the link's
one-way delay are taken off, and what is left is judged against the tick 0 nearest to it (R31, R278). Only the link that `BEAT_LINK`
names is followed (R29). A relock sets the marker's number against that of this same tick 0 (R38; log entry 56). -/
def beatMarkerReceive (d : Dev) (l : Nat) (arrival : Int) (launch beat hop hz : Nat) : Dev :=
  if d.power.inReset || (d.link l).st ≠ .up then d else
  let d := d.linkPerf l 7 1
  if !d.aux.strapBeat || l ≠ d.key kBeatLink || d.beat.lockDue then d else
  let at_ := arrival - (launch : Int) - (d.oneWay l : Int)
  let phase := nearestPhase at_
  let own := d.beat.expected arrival at_
  match d.beat.syncs.find? (fun s => s.armed && hop % 16 != 15 && d.beat.inWindow phase) with
  | some s => d.relock s.handle own (beat % 2 ^ 64) ((launch + d.oneWay l) / 16384) (hop % 16 + 1) hz
  | none => d.judgeMarker phase own (beat % 2 ^ 64) (hop % 16) hz

/-- An expected edge or marker fails to arrive (R33, R34). -/
def beatMissing (d : Dev) : Dev := if d.power.inReset then d else d.countMissing

/-- `BEAT_SYNC` (R38, R388). DEDUCED (log entry 120): where two refusals of R38's table apply, the `INVALID` ones stand before the
`CONFLICT`, as R361 orders the checks. -/
def svcBeatSync (d : Dev) (c : Door) : Svc := do
  checkHeader c 24 [(0, List.replicate 16 255 ++ [1])]
  pfOnly c
  notStopped d
  let load := dp c 0 8
  let value := dp c 8 8
  let relock := dp c 16 1 == 1
  refuseIf (!(beatGe load d.beat.now && 4 ≤ beatAhead d.beat.now load)) sInvalid (pOff 0)
  refuseIf (d.aux.strapBeat && relock && value != 0) sInvalid (pOff 8)
  refuseIf (!relock && d.beat.st == .slipped) sInvalid (pOff 16)
  refuseIf (d.aux.strapBeat && !relock) sConflict (pOff 16)
  handleRoom d 0
  let (h, d) := d.newHandle 0 c.tag .beatSync
  pure ({ handle := h }, { d with beat := { d.beat with syncs := d.beat.syncs ++ [{ handle := h, load, value, relock }] } })

/-- The command `BEAT_SYNC`. -/
def beatSync (d : Dev) (c : Door) : Dev := d.serve c 0x0901 svcBeatSync

/-- Tick 0 of load beat *L*: the number is loaded, or the package begins to wait for the edge or marker that relocks it (R38). -/
def beatSyncLoad (d : Dev) : Dev :=
  match d.beat.syncs.find? (fun s => !s.armed && s.load == d.beat.now) with
  | some s =>
    if d.power.inReset then d
    else if s.relock || d.aux.strapBeat then
      { d with beat := { d.beat with syncs := d.beat.syncs.map (fun x => if x.handle = s.handle then { x with armed := true } else x) } }
    else ((d.dropSync s.handle).renumber s.load s.value).syncDone s.handle (s.value % 2 ^ 64) (beatAhead s.load s.value)
  | none => d

/-- Eight beats after *L* without an edge or marker: state and numbering stay and the handle completes `ABORTED` (R38). -/
def beatSyncTimeout (d : Dev) : Dev :=
  match d.beat.syncs.find? (fun s => s.armed && beatGe d.beat.now s.load && 8 ≤ beatAhead s.load d.beat.now) with
  | some s => (d.dropSync s.handle).finish s.handle sAborted []
  | none => d

/-- The beat source is lost with its link: the package enters HOLDOVER where it followed it (R279, R282). -/
def Dev.beatLost (d : Dev) (l : Nat) : Dev :=
  if d.aux.strapBeat && l = d.key kBeatLink && (d.beat.st = .locked || d.beat.st = .slewing) then d.beatState .holdover else d

end Sys2Proof.Machine
end

