-- ==== Sys2Proof/Machine/Requests.lean ====
section
/-! DEFINITION. Requests: page lists and reservations, closing, the TTL sweep (R285, R286, R292 to R295, R300, R307). -/

namespace Sys2Proof.Machine

open Sys2Proof

/-- The show of pasture `p`. -/
def Dev.showOf (d : Dev) (p : Nat) : Option Show := (Tab.get? d.pastures p).bind (·.sh)

/-- Request of handle `h`. -/
def Dev.req (d : Dev) (h : Nat) : Option Request := Tab.get? d.reqs h

/-- `d` with request `h` changed by `f`. -/
def Dev.modReq (d : Dev) (h : Nat) (f : Request → Request) : Dev := { d with reqs := Tab.upd d.reqs h f }

/-- In a page list, a page that has been moved to tier 2. -/
def movedPage : Nat := 2 ^ 27

/-- Pens that hold a share of a show's KV: those with a page pool (R292; log entry 12). -/
def sharePens (s : Show) : List Nat := (List.range 16).filter (fun p => (Tab.getD s.secs 0x0B []).any (fun e => fld e 0 4 == p))

/-- Keys of the page lists of a request: layer-group × 16 + pen (R292). -/
def listKeys (s : Show) : List Nat := (List.range s.lgroups).flatMap (fun g => (sharePens s).map (fun p => g * 16 + p))

/-- Pages of pasture `p`'s pool in pen `pen` that are in use. -/
def Dev.pagesUsed (d : Dev) (p pen : Nat) : Nat :=
  (d.pages.filter (fun q => q.1 / 2 ^ 23 == pen && q.2.pasture == p)).length

/-- Pages reserved in each list by the requests of pasture `p` (R295). -/
def Dev.pagesReserved (d : Dev) (p : Nat) : Nat :=
  (d.reqs.filter (fun r => r.2.pasture == p)).foldl (fun n r => n + r.2.resv + r.2.qResvA + r.2.qResvG) 0

/-- Pages of request `r` in tier 2 that belong in pen `pen`. -/
def Request.tierIn (r : Request) (pen : Nat) : Nat := (r.tier.filter (fun t => t.list % 16 == pen)).length

/-- Pages reserved in pen `pen` by the resuming requests of pasture `p`: those that the Drover has not restored yet (R295, R308). -/
def Dev.pagesRestoring (d : Dev) (p pen : Nat) : Nat :=
  (d.reqs.filter (fun r => r.2.pasture == p && r.2.st == .resuming)).foldl (fun n r => n + Request.tierIn r.2 pen) 0

/-- Free, unreserved pages of pasture `p`'s pool in pen `pen` (R295). -/
def Dev.poolFree (d : Dev) (p pen lgroups : Nat) : Nat :=
  match d.poolOf p pen with
  | some (_, n) => n / 2 ^ 15 - d.pagesUsed p pen - d.pagesReserved p * lgroups - d.pagesRestoring p pen
  | none => 0

/-- The pools can take back every page of request `r` that lies in tier 2 (R295). -/
def Dev.canRestore (d : Dev) (r : Request) : Bool :=
  match d.showOf r.pasture with
  | some s => (sharePens s).all (fun pen => r.tierIn pen ≤ d.poolFree r.pasture pen s.lgroups)
  | none => r.tier.isEmpty

/-- The pools of pasture `p` can reserve `n` more pages in each list (R295). -/
def Dev.canReserve (d : Dev) (p n : Nat) : Bool :=
  match d.showOf p with
  | some s => n == 0 || (sharePens s).all (fun pen => n * s.lgroups ≤ d.poolFree p pen s.lgroups)
  | none => n == 0

/-- Page lists that one core binds for one batch index, at most, over the acts of a show (R88, R295). -/
def listsPerCore (s : Show) : Nat :=
  s.acts.foldl (fun m a =>
    (a.binds.filter (fun b => fld b 4 4 == 3)).foldl (fun m b =>
      max m ((a.binds.filter (fun x => fld x 4 4 == 3 && fld x 24 8 == fld b 24 8 &&
        (sharePens s).contains (fld x 32 4))).length)) m) 0

/-- A request's own lists of `n` pages each are page lists (R292), and fit every core's page-list store (R88, R295). -/
def listsFit (s : Show) (n : Nat) : Bool := n ≤ 4096 && listsPerCore s * n ≤ 4096

/-- Positions that a request's accepted commands may still commit. -/
def Request.outstanding (r : Request) : Nat :=
  r.prompt + r.qCount + (r.genMax - r.genDone) + r.qMax

/-- Pages in each list of a request, and reserved for it. -/
def Request.pagesHeld (r : Request) : Nat :=
  (r.lists.foldl (fun m l => max m l.2.length) 0) + r.resv + r.qResvA + r.qResvG

/-- Draft slots that a generate reserves (R295, R301; log entry 13). -/
def Dev.draftWidth (d : Dev) (p : Nat) : Nat := if d.pKey p kSpec == 0 then 1 else d.pKey p kSpecWidth

/-- Pages that each list of request `r` needs beyond those it holds, for `n` more positions and `w` draft slots (R295). -/
def Request.need (r : Request) (n w : Nat) : Nat := cdiv (r.committed + r.outstanding + n + w) 64 - r.pagesHeld

/-- A page loses a holder; at 0 it returns to the pool and its record is cleared (R294). -/
def Dev.releasePage (d : Dev) (n : Nat) : Dev :=
  match Tab.get? d.pages n with
  | none => d
  | some x =>
    if x.refs ≤ 1 then { d with pages := Tab.del d.pages n }
    else { d with pages := Tab.put d.pages n { x with refs := x.refs - 1 } }

/-- Release a list of pages. -/
def Dev.releasePages (d : Dev) (l : List Nat) : Dev := l.foldl Dev.releasePage d

/-- A dropped prefix whose count is 0 gives its pages back, and its drop completes (R300). -/
def Dev.settlePrefix (d : Dev) (p n : Nat) : Dev :=
  match d.prefixOf p n with
  | none => d
  | some x =>
    if x.dropped && x.count == 0 then
      let d := d.releasePages (x.lists.flatMap (·.2))
      let d := d.modPasture p (fun q => { q with prefixes := Tab.del q.prefixes n })
      let d := d.remap
      if x.dropHandle = 0 then d else d.finish x.dropHandle sOk [x.dropCount]
    else d

/-- A request's hold on its prefix ends (R298). -/
def Dev.unholdPrefix (d : Dev) (pfx : Option Nat) : Dev :=
  match pfx with
  | none => d
  | some k => (d.modPrefix (k / 1024) (k % 1024) (fun x => { x with count := x.count - 1 })).settlePrefix (k / 1024) (k % 1024)

/-- The earliest expiry beat among pasture `p`'s PAUSING and PAUSED requests, seen from now. -/
def Dev.nextExpiry (d : Dev) (p : Nat) : Option Nat :=
  (d.reqs.filter (fun r => r.2.pasture == p && (r.2.st == .pausing || r.2.st == .paused))).foldl
    (fun m r => match m with
      | none => some r.2.expiry
      | some e => if beatAhead r.2.expiry e < 2 ^ 63 then some r.2.expiry else m) none

/-- The one TTL sweep entry of pasture `p` in the master Calendar (R307). -/
def Dev.resweep (d : Dev) (p : Nat) : Dev :=
  let d := d.calDrop (fun e => e.action == 5 && e.target == p)
  match d.nextExpiry p with
  | none => d
  | some b => d.calPlace { beat := b, tick := 0, action := 5, rel := false, group := 0, target := p, arg := 0, dies := [] }

/-- The pending commands of a request, in ascending sequence. -/
def Request.commands (r : Request) : List Nat :=
  sortBy hSeq ([r.append, r.gen, r.qAppend, r.qGen, r.pause, r.resume].filter (· != 0))

/-- The request leaves the batches it is in. -/
def Dev.leaveBatches (d : Dev) (h : Nat) : Dev :=
  { d with groups := Tab.mapV d.groups (fun _ g =>
      { g with batch := g.batch.map (fun b => if b = h then 0 else b), chunks := g.chunks.filter (fun c => c.1 != h) }) }

/-- A request closes (R286, R295, R385): its pages, reservations and tier-2 space are freed and its prefix hold ends; its
pending commands complete with `cmds`, then its own handle with `status`, then its `REQ_CLOSE` with `OK`. A prefix under construction goes with its build. -/
def Dev.closeReq (d : Dev) (h status cmds : Nat) : Dev :=
  match d.req h with
  | none => d
  | some r =>
    let d := { d with reqs := Tab.del d.reqs h }
    let d := d.releasePages ((r.lists.flatMap (·.2)).filter (· != movedPage))
    let d := r.commands.foldl (fun d c => d.finishIn c cmds []) d
    let d := d.finishIn h status []
    let d := if r.close = 0 then d else d.finishIn r.close sOk []
    let d := d.leaveBatches h
    let d := match r.build with
      | some n => d.modPasture r.pasture (fun q => { q with prefixes := Tab.filt q.prefixes (fun k x => k != n || x.built) })
      | none => d
    (d.unholdPrefix r.pfx).resweep r.pasture

/-- Requests of pasture `p` and its prefix builds, in ascending handle order. -/
def Dev.reqsOf (d : Dev) (p : Nat) : List Nat := (d.reqs.filter (fun r => r.2.pasture == p)).map Prod.fst

/-- Number of open requests of pasture `p`; prefix builds are none. -/
def Dev.openReqs (d : Dev) (p : Nat) : Nat := (d.reqs.filter (fun r => r.2.pasture == p && r.2.build.isNone)).length

/-- Every request of pasture `p` closes with `status`, its pending commands too (R430, R436). -/
def Dev.closeAll (d : Dev) (p status : Nat) : Dev := (d.reqsOf p).foldl (fun d h => d.closeReq h status status) d

/-- The queued append of a request begins (R286, R287). -/
def Request.startAppend (r : Request) : Request :=
  { r with st := .prefill, admitted := r.qBeatA, append := r.qAppend, prompt := r.qCount, tokens := r.qTokens, tokensIn := r.qIn
           qAppend := 0, qCount := 0, qTokens := [], qIn := false }

/-- The queued generate of a request begins (R286, R287). -/
def Request.startGen (r : Request) : Request :=
  { r with st := .decode, admitted := r.qBeatG, gen := r.qGen, genMax := r.qMax, genDone := 0, genBuf := r.qBuf, genBase := 0
           qGen := 0, qMax := 0, qBuf := 0 }

/-- The running command of a request has ended: its fields are cleared. -/
def Request.endCommand (r : Request) : Request :=
  { r with append := 0, prompt := 0, tokens := [], tokensIn := false, gen := 0, genMax := 0, genDone := 0, genBuf := 0, genBase := 0 }

/-- The draft slots of request `h` that were not committed are rejected: those in its pages whose EPOCH is not `epoch` (`none`: all) become
FREE, and its chunk is over (R296, R305). -/
def Dev.clearDrafts (d : Dev) (h : Nat) (epoch : Option Nat) : Dev :=
  match d.req h with
  | none => d
  | some r =>
    let old (x : PageRec) : Bool := epoch != some x.epoch
    { d with pages := (r.lists.flatMap Prod.snd).foldl (fun t n => Tab.upd t n (fun x => if old x then { x with draft := 0 } else x)) d.pages
      }.modReq h (fun r => { r with draft := [], chunk := [] })

/-- The command that follows (R286). -/
def Request.follow (r : Request) : Request :=
  let a := r.qAppend != 0
  let g := r.qGen != 0
  match r.st with
  | .prefill => if g then r.startGen else if a then r.startAppend else { r with st := .idle }
  | .decode => if a then r.startAppend else if g then r.startGen else { r with st := .idle }
  | .resuming => if g && (!a || r.qGenFirst) then r.startGen else if a then r.startAppend else { r with st := .idle }
  | _ => r

/-- The reservations are shared out again among the commands that remain, and what they do not need returns to the pool (R295):
`w` draft slots belong to a generate. -/
def Request.reshare (r : Request) (w : Nat) : Request :=
  let held := r.lists.foldl (fun m l => max m l.2.length) 0
  let avail := r.resv + r.qResvA + r.qResvG
  let wide (on : Bool) : Nat := if on then w else 0
  let n1 := cdiv (r.committed + r.prompt + (r.genMax - r.genDone) + wide (r.gen != 0)) 64 - held
  let n2 := cdiv (r.committed + r.outstanding + wide (r.gen != 0 || r.qGen != 0)) 64 - held
  let first := min avail n1
  let rest := min (avail - first) (n2 - n1)
  { r with resv := first, qResvA := if r.qAppend != 0 then rest else 0, qResvG := if r.qAppend == 0 && r.qGen != 0 then rest else 0 }

/-- Pages at the end of a list that hold no slot. -/
def Dev.emptyTail (d : Dev) (l : List Nat) : Nat :=
  (l.reverse.takeWhile (fun n => match Tab.get? d.pages n with
    | some x => x.committed == 0 && x.draft == 0
    | none => true)).length

/-- Pages that a request took from its reservation and did not use return to the pool, beyond what its commands still need; `w` draft
slots belong to a generate (R295). -/
def Dev.trimPages (d : Dev) (h w : Nat) : Dev :=
  match d.req h with
  | none => d
  | some r =>
    let need := cdiv (r.committed + r.outstanding + (if r.gen != 0 || r.qGen != 0 then w else 0)) 64
    r.lists.foldl (fun d q =>
      let keep := max need (q.2.length - d.emptyTail q.2)
      ((q.2.drop keep).foldl Dev.releasePage d).modReq h (fun r => { r with lists := Tab.put r.lists q.1 (q.2.take keep) })) d

/-- Move a request whose append, generate or resume has ended to its next state: its draft slots are freed, and what its commands do not
need returns to the pool (R286, R295, R305). -/
def Dev.nextState (d : Dev) (h : Nat) : Dev :=
  match d.req h with
  | none => d
  | some r =>
    let w := d.draftWidth r.pasture
    (((d.clearDrafts h none).modReq h (fun r => r.endCommand.follow)).trimPages h w).modReq h (fun r => r.reshare w)

end Sys2Proof.Machine
end

