-- ==== Sys2Proof/Machine/Reports.lean ====
section
/-! DEFINITION. Cores, the abort of acts, and what a fault report does: its record, the fault queue, a pen going offline, a lost
image and the package's withdrawal (R420 to R431, R436). -/

namespace Sys2Proof.Machine

open Sys2Proof

/-! Cores. -/

/-- Key of a core. -/
def coreKey (die core : Nat) : Nat := die * 64 + core

/-- Core of key `k`. -/
def Dev.core (d : Dev) (k : Nat) : Core := Tab.getD d.cores k {}

/-- `d` with core `k` changed by `f`. -/
def Dev.modCore (d : Dev) (k : Nat) (f : Core → Core) : Dev := { d with cores := Tab.put d.cores k (f (d.core k)) }

/-- The act that a run names. -/
def Dev.actOf (d : Dev) (r : Run) : Option Act := (d.showOf r.pasture).bind (fun s => s.acts[r.act]?)

/-- Array `a` of a core. -/
def Core.arr (c : Core) (a : Nat) : Arr := Tab.getD c.arrs a {}

/-- `c` with array `a` changed by `f`. -/
def Core.modArr (c : Core) (a : Nat) (f : Arr → Arr) : Core := { c with arrs := Tab.put c.arrs a (f (c.arr a)) }

/-! Reduction entries (R178, R179). -/

/-- Reduction entries of the show of pasture `p`. -/
def redEntries (s : Show) : List Nat := Tab.getD s.secs 3 []

/-- Participants of entry `e`: package position, die and core, in index order (R179). -/
def participants (s : Show) (e : Nat) : List (Nat × Nat × Nat) :=
  ((Tab.getD s.secs 4 []).drop (fld e 224 32)).take (fld e 16 16 + 1) |>.map (fun x => (fld x 16 12, fld x 8 6, fld x 0 6))

/-- Key of an instance. -/
def redKey (p i : Nat) : Nat := p * 4096 + i

/-- Instance `i` of pasture `p`. -/
def Dev.red (d : Dev) (p i : Nat) : Inst := Tab.getD d.reds (redKey p i) {}

/-- `d` with instance `i` of pasture `p` changed by `f`. -/
def Dev.modRed (d : Dev) (p i : Nat) (f : Inst → Inst) : Dev := { d with reds := Tab.put d.reds (redKey p i) (f (d.red p i)) }

/-- The pen of a device address of space 0x1 (R90). -/
def addrPen (a : Nat) : Nat := fld a 56 4

/-- The step group's first abort cause (R424, R425). -/
def Dev.abortGroup (d : Dev) (g : Nat) (c : AbortClass) : Dev :=
  d.modGroup g (fun x => { x with abort := if x.abort.isSome then x.abort else some c })

/-- Poisoned addresses met for group `g` in its running step (R432). -/
def Dev.groupPoison (d : Dev) (g : Nat) (l : List Nat) : Dev :=
  d.modGroup g (fun x => { x with poison := x.poison ++ l.map (fun a => (a, d.beat.now)) })

/-! Messages between the packages of a step group (R45, R179, R250, R273, R355). -/

/-- The package address of position `pos` of a show's step groups (R179, R274; log 14). -/
def Show.addrOf (s : Show) (pos : Nat) : Nat := s.addrs.getD pos 0 % 4096

/-- The other positions of a show's step groups. -/
def Show.others (s : Show) : List Nat := (List.range (s.npos + 1)).filter (· != s.position)

/-- TAG of the last message of a transfer (log 134). -/
def tagLast : Nat := 2 ^ 31

/-- A transfer of kind `mkind` to (die, core) of the package at `pos`, for the step that starts at `step`. -/
def Dev.sendTo (d : Dev) (s : Show) (pos mkind die core chan step tag : Nat) (data : List Byte) : Dev :=
  d.sendMsg (s.addrOf pos) mkind die core chan step tag (tag + tagLast) (data.length / 65536 + 1) data

/-- TAG of the messages that ask a peer for an image block and that bring it (R435; log entry 134). -/
def reseedTag : Nat := 2 ^ 9

/-- A firmware control message to every other package of group `g` (R45, R273; log 134). -/
def Dev.tellGroup (d : Dev) (g tag : Nat) (data : List Byte) : Dev :=
  match d.showOf (d.group g).pasture with
  | some s => s.others.foldl (fun d pos => d.sendTo s pos 6 18 63 0 (d.group g).last tag data) d
  | none => d

/-- The leave notice of group `g` (R45). -/
def Dev.leaveNotice (d : Dev) (g : Nat) : Dev := if (d.group g).spans then (d.emit (.leaveNotice g)).tellGroup g g [] else d

/-- The join notice of group `g`, which names its boundary (R45). -/
def Dev.joinNotice (d : Dev) (g boundary : Nat) : Dev := (d.emit (.joinNotice g boundary)).tellGroup g (g + 2 ^ 8) (leBytes boundary 8)

/-- A loaded show binds the channel or reduction index of an exchange or reduction message: to the core that it names, on this package
(R355). -/
def Dev.binds (d : Dev) (m : StileMsg) : Bool :=
  if m.kind = 0 || m.kind = 1 then
    match d.showOf (d.pastureOfDie m.die) with
    | some s => (Tab.getD s.secs 7 []).any (fun x =>
        fld x 0 12 == m.chan &&
          (if m.kind = 0 then fld x 40 12 == s.position && fld x 52 6 == m.die && fld x 58 6 == m.core
           else fld x 16 12 == s.position && fld x 28 6 == m.die && fld x 34 6 == m.core))
    | none => false
  else d.pastures.any (fun q => match q.2.sh with
    | some s => decide (m.chan < (Tab.getD s.secs 3 []).length)
    | none => false)

/-- Messages that satisfy `p` are taken. -/
def Dev.dropMsgs (d : Dev) (p : StileMsg → Bool) : Dev := { d with inbox := d.inbox.filter (fun m => !p m) }

/-- Kind numbers of the messages among `Out.message`. -/
def mExchange : Nat := 5
def mNotify : Nat := 6

/-- The Graze die of the Fold in front of an entry's DEST. -/
def destGraze (e : Nat) : Nat := grazeOf (addrPen (fld e 256 64))

/-- DEST of an entry is on this package: that of participant 0, the root (R185; log 133). -/
def destHere (s : Show) (e : Nat) : Bool := ((participants s e).head?.map (fun q => q.1 == s.position)).getD false

/-- TAG of a reduction transfer: its participant, its kind (1 data, 2 EMPTY, 3 an abandonment notice) and, for a notice, whether the cause
was a hardware one (log 134). -/
def redTag (i kind : Nat) (hw : Bool) : Nat := i + kind * 2 ^ 16 + hw.toNat * 2 ^ 18

/-- The start beat of the step that runs: the last that waits, else the instance's own. -/
def Inst.lastStep (x : Inst) : Nat := (x.waits.getLast?.map RedWait.step).getD x.step

/-- The instance of the step that starts at `step` is over: complete here, or abandoned. -/
def Inst.over (x : Inst) (step : Nat) : Bool :=
  if step = x.step then x.done || x.abandoned
  else match x.waits.find? (fun w => w.step == step) with
    | some w => w.lost
    | none => true

/-- The instance of the step that starts at `step` is marked abandoned. -/
def Inst.lose (x : Inst) (step : Nat) : Inst :=
  if step = x.step then { x with abandoned := true }
  else { x with waits := x.waits.map (fun w => if w.step = step then { w with lost := true } else w) }

/-- Instance `i` of pasture `p` for the step that starts at `step` is abandoned on this package: no result is written, its `RECV`s end,
and where DEST is here it is counted (R184). -/
def Dev.loseRed (d : Dev) (p i step : Nat) (s : Show) (e : Nat) : Dev :=
  let d := d.modRed p i (fun x => x.lose step)
  let d := if destHere s e then d.errAdd (destGraze e) 64 10 1 else d
  { d with cores := Tab.mapV d.cores (fun _ c =>
      if (c.run.map (fun r : Run => r.pasture == p && r.start == step)).getD false then
        { c with queue := c.queue.filter (fun q => !(q.unit == 8 && fld q.op 120 8 == 0x13 && fld q.op 0 12 == fld e 76 12)) }
      else c) }

/-- Instance `i` of pasture `p` for the step that starts at `step` is abandoned, and the other packages of the group are told (R184). -/
def Dev.abandonRed (d : Dev) (p i step : Nat) (cls : AbortClass) : Dev :=
  match d.showOf p with
  | none => d
  | some s =>
    match (redEntries s)[i]? with
    | none => d
    | some e =>
      if (d.red p i).over step then d
      else s.others.foldl
        (fun d pos => d.sendTo s pos 2 (destGraze e) 63 i step (redTag 0 3 (cls == .hardware)) []) (d.loseRed p i step s e)

/-- Every instance of entry `i` of pasture `p` that is not over is abandoned. -/
def Dev.abandonAll (d : Dev) (p i : Nat) (cls : AbortClass) : Dev :=
  let x := d.red p i
  if x.live then ((x.step :: x.waits.map RedWait.step)).foldl (fun d b => d.abandonRed p i b cls) d else d

/-- The instances that core (die, core) of pasture `p` takes part in, and has not contributed to in the step that runs, are abandoned
(R184). -/
def Dev.abandonOf (d : Dev) (p die core : Nat) (cls : AbortClass) : Dev :=
  match d.showOf p with
  | none => d
  | some s =>
    (List.range (redEntries s).length).foldl (fun d i =>
      match (redEntries s)[i]? with
      | none => d
      | some e =>
        match indexWhere (fun q => q == (s.position, die, core)) (participants s e) with
        | some k =>
          let x := d.red p i
          let q := Tab.getD x.parts k {}
          if (if x.waits.isEmpty then q.st == 0 else (q.held.map Prod.fst) != some x.lastStep) then d.abandonRed p i x.lastStep cls else d
        | none => d) d

/-! Expert layers (R316, R318) and the instances that an abort abandons (R333). -/

def lExperts (e : Nat) : Nat := fld e 0 12 + 1
def lK (e : Nat) : Nat := fld e 12 3 + 1
def lRace (e : Nat) : Nat := if bit e 15 then 21 else 17
def lGate (e : Nat) : Nat := fld e 16 2
def lPolicy (e : Nat) : Nat := fld e 18 2
def lCout (e : Nat) : Nat := fld e 20 1
def lCf (e : Nat) : Nat := fld e 32 16
def lCapMax (e : Nat) : Nat := fld e 48 12 + 1
def lCat (e : Nat) : Nat := fld e 64 16
def lTmax (e : Nat) : Nat := fld e 80 16
def lDrows (e : Nat) : Nat := fld e 96 8
def lRrows (e : Nat) : Nat := fld e 104 8
def lProd (e : Nat) : Nat := fld e 112 16
def lLchan (e : Nat) : Nat := fld e 128 12
def lCchan (e : Nat) : Nat := fld e 140 12
def lNsrc (e : Nat) : Nat := fld e 160 12 + 1
def lSrc (e : Nat) : Nat := fld e 192 32
def lLaunch (e : Nat) : Nat := fld e 224 24
def lGather (e : Nat) : Nat := fld e 256 64
def lBias (e : Nat) : Nat := fld e 320 64

/-- Expert layers of a show. -/
def layersOf (s : Show) : List Nat := Tab.getD s.secs 5 []

/-- Package addresses of a layer's sources, by source index. -/
def lSources (s : Show) (e : Nat) : List Nat := (((Tab.getD s.secs 6 []).drop (lSrc e)).take (lNsrc e)).map (fun x => fld x 0 12)

def cPkg (c : Nat) : Nat := fld c 0 12
def cPen (c : Nat) : Nat := fld c 12 4
def cShards (c : Nat) : Nat := 2 ^ fld c 16 2
def cRx (c : Nat) : Nat := fld c 26 38
def cMchan (c : Nat) : Nat := fld c 64 12
def cDchan (c : Nat) : Nat := fld c 76 12

/-- A catalogue entry takes tokens: VALID and not OFFLINE (R316). -/
def cLive (c : Nat) : Bool := bit c 19 && !bit c 18

/-- The catalogue entry of expert `x` of layer `e`. -/
def Dev.expertEntry (d : Dev) (e x : Nat) : Nat := Tab.getD d.catalog (lCat e + x) 0

/-- Packages that host an expert of the layer. -/
def Dev.hosts (d : Dev) (e : Nat) : List Nat :=
  (((List.range (lExperts e)).map (d.expertEntry e)).filter (fun c => bit c 19) |>.map cPkg).eraseDups

/-- Shards of the layer's experts in this package: expert × 4 + shard. -/
def Dev.ownShards (d : Dev) (e : Nat) : List Nat :=
  (List.range (lExperts e)).flatMap (fun x =>
    let c := d.expertEntry e x
    if bit c 19 && cPkg c = d.route.addr then (List.range (cShards c)).map (fun h => 4 * x + h) else [])

/-- Key of a Race instance. -/
def raceKey (p l : Nat) : Nat := p * 256 + l

/-- The instance of layer `l` of pasture `p`. -/
def Dev.race (d : Dev) (p l : Nat) : RaceInst := Tab.getD d.races (raceKey p l) {}

/-- `d` with it changed by `f`. -/
def Dev.modRace (d : Dev) (p l : Nat) (f : RaceInst → RaceInst) : Dev := { d with races := Tab.put d.races (raceKey p l) (f (d.race p l)) }

/-- Error counter `i` (0 NAN_LOGITS, 1 LOGIT_BAD, 2 CAP_CLAMPED, 3 REFUSED, 4 STALE, 5 ABANDONED) of the layer's Race die. -/
def Dev.raceErr (d : Dev) (e i n : Nat) : Dev := d.errAdd (lRace e) 64 (8 + i) n

/-- A Race message of kind `kind` to package `dst` (R327). -/
def Dev.raceSend (d : Dev) (dst kind tag l e step : Nat) (data : List Byte) : Dev :=
  let t := tag + kind * 2 ^ 28
  d.sendMsg dst 4 (lRace e) 63 l step t t (data.length / 65536 + 1) data

/-- The act sends, or receives, on channel `ch`. -/
def actSends (a : Act) (ch : Nat) : Bool := a.ops.any (fun w => opByte w == 0x12 && fld w 0 12 == ch)
where opByte (w : Nat) : Nat := fld w 120 8

/-- The step that started at `step`, where it waits for an earlier one's instance. -/
def RaceInst.waiting (x : RaceInst) (step : Nat) : Option RaceWait := x.waits.find? (fun w => w.step == step)

/-- Change what is kept of a step that waits. -/
def RaceInst.modWait (x : RaceInst) (step : Nat) (f : RaceWait → RaceWait) : RaceInst :=
  { x with waits := x.waits.map (fun w => if w.step = step then f w else w) }

/-- The source part of the instance for the step at `step` is over. -/
def RaceInst.sourceOver (x : RaceInst) (step : Nat) : Bool := match x.waiting step with
  | some w => w.lost
  | none => step != x.step || x.abandoned || x.combined

/-- The source instance for the step at `step` is marked abandoned; `own` is this package's source index, whose manifest is then one
without entries (R333). -/
def RaceInst.loseSource (x : RaceInst) (step : Nat) (own : Option Nat) : RaceInst := match x.waiting step with
  | some _ => x.modWait step (fun w => { w with lost := true })
  | none => match own with
    | some i => { x with abandoned := true, mans := Tab.put x.mans i [] }
    | none => { x with abandoned := true }

/-- Shard `q` of the instance for the step at `step` is done with. -/
def RaceInst.shardOver (x : RaceInst) (step q : Nat) : Bool := match x.waiting step with
  | some w => w.lostShards.contains q
  | none => step != x.step || x.done.contains q || x.lost.contains q

/-- It is marked abandoned. -/
def RaceInst.loseShard (x : RaceInst) (step q : Nat) : RaceInst := match x.waiting step with
  | some _ => x.modWait step (fun w => { w with lostShards := q :: w.lostShards })
  | none => { x with lost := q :: x.lost }

/-- The source instance of layer `l` for the step at `step` is abandoned: every destination is told (R333). -/
def Dev.abandonSource (d : Dev) (p l : Nat) (s : Show) (e step : Nat) : Dev :=
  if (d.race p l).sourceOver step then d
  else
    let own := if (d.hosts e).contains d.route.addr then indexWhere (fun a => a == d.route.addr) (lSources s e) else none
    let d := (d.modRace p l (fun x => x.loseSource step own)).raceErr e 5 1
    (d.hosts e).foldl (fun d h => if h = d.route.addr then d else d.raceSend h 5 0 l e step []) d

/-- A destination has abandoned the instance for the step at `step`: the source writes no output, and where it has not dispatched yet it
tells the destinations (R333). -/
def Dev.sourceGone (d : Dev) (p l : Nat) (s : Show) (e step : Nat) : Dev :=
  let x := d.race p l
  if (x.waiting step).isNone && x.sent then
    if x.sourceOver step then d else (d.modRace p l (fun x => x.loseSource step none)).raceErr e 5 1
  else d.abandonSource p l s e step

/-- The destination abandons the instance of shard `q` (expert × 4 + shard) for the step at `step`: every source is told (R333). -/
def Dev.abandonShard (d : Dev) (p l : Nat) (s : Show) (e q step : Nat) : Dev :=
  if (d.race p l).shardOver step q then d
  else
    let d := (d.modRace p l (fun x => x.loseShard step q)).raceErr e 5 1
    (lSources s e).foldl (fun d a =>
      if a = d.route.addr then d.sourceGone p l s e step else d.raceSend a 5 0 l e step []) d

/-- The act of core `k` is aborted: instances that it has not yet sent for are abandoned (R333). -/
def Dev.abandonRaces (d : Dev) (r : Run) (a : Act) : Dev :=
  match d.showOf r.pasture with
  | none => d
  | some s => (layersOf s).zipIdx.foldl (fun d q =>
      let e := q.1
      let d := if actSends a (lLchan e) && !r.sent.contains (lLchan e) then d.abandonSource r.pasture q.2 s e r.start else d
      (d.ownShards e).foldl (fun d h =>
        let ch := cDchan (d.expertEntry e (h / 4)) + h % 4
        if actSends a ch && !r.sent.contains ch then d.abandonShard r.pasture q.2 s e h r.start else d) d) d

/-- The step group of an act of the show that sends on channel `ch`. -/
def sendGroup (s : Show) (ch : Nat) : Nat := ((s.acts.find? (fun a => actSends a ch)).map Act.group).getD 0

/-- Every instance of the layers of group `g`'s show is abandoned: the package withdraws from the group (R333). -/
def Dev.abandonLayers (d : Dev) (p g : Nat) : Dev :=
  match d.showOf p with
  | none => d
  | some s => (layersOf s).zipIdx.foldl (fun d q =>
      if sendGroup s (lLchan q.1) = g then
        let x := d.race p q.2
        (if x.live then x.step :: x.waits.map RaceWait.step else []).foldl (fun d b =>
          (d.ownShards q.1).foldl (fun d h => d.abandonShard p q.2 s q.1 h b) (d.abandonSource p q.2 s q.1 b)) d
      else d) d

/-! Ending an act (R424). -/

/-- The core's part of the step is over: END or ABORT reaches the firmware, and with the last report the step is complete. -/
def Dev.actOver (d : Dev) (k : Nat) : Dev :=
  match (d.core k).run with
  | none => d
  | some r =>
    let poison := (d.core k).poison
    let d := d.modCore k (fun c =>
      { c with run := none, queue := [], arrs := Tab.mapV c.arrs (fun _ a => { a with fifo := [], loaded := none }), poison := [], mons := [] })
    d.modGroup r.group (fun g =>
      let w := g.waiting.filter (· != k)
      { g with waiting := w, running := g.running && !w.isEmpty, poison := g.poison ++ poison })

/-- The act of core `k` is aborted, by a cause of class `cls`: it reports ABORT, its Pound empties if it used it, the instances
that it owes are abandoned, and the other acts of its group abort at their next barrier (R163, R184, R424). -/
def Dev.coreAbort (d : Dev) (k : Nat) (cls : AbortClass) : Dev :=
  match (d.core k).run with
  | none => d
  | some r =>
    let d := d.abortGroup r.group cls
    let d := d.abandonOf r.pasture (k / 64) (k % 64) cls
    let d := match d.actOf r with
      | some a => d.abandonRaces r a
      | none => d
    let d := if r.pound then d.modCore k (fun c => { c with pound := {} }) else d
    d.actOver k

/-- Every act that satisfies `p` is aborted. -/
def Dev.abortActs (d : Dev) (p : Nat → Run → Bool) (cls : AbortClass) : Dev :=
  (d.cores.filter (fun q => match q.2.run with
    | some r => p q.1 r
    | none => false)).foldl (fun d q => d.coreAbort q.1 cls) d

/-- The step groups that the show of pasture `p` defines. -/
def Dev.groupsOf (d : Dev) (p : Nat) : List Nat := (d.groups.filter (fun q => q.2.exists_ && q.2.pasture == p)).map Prod.fst

/-! Calendar entries that come due (R42, R43). -/

/-- Die `die` is being recovered from a fault: a recovery of order 1, 2 or 4 runs in it (R26, R43). -/
def Dev.inRecovery (d : Dev) (die : Nat) : Bool :=
  match d.faults.running.bind d.faultOf with
  | some r => r.die == die && (recOrder r == 1 || recOrder r == 2 || recOrder r == 4)
  | none => false

/-- A step-relative entry has come due in the current step of its group, at its start plus the offset, and has not fired in it (R42). -/
def Dev.stepDue (d : Dev) (e : CalEntry) : Bool :=
  let g := d.group e.group
  e.rel && g.exists_ && g.stepNo != 0 && e.fired != g.stepNo && beatGe d.beat.now ((g.last + e.beat) % 2 ^ 64)

/-- Precedence of an action (R41). -/
def calPrec (action : Nat) : Nat :=
  if action = 7 then 1 else if action = 3 then 2 else if action = 1 then 3 else if action = 4 then 4
  else if action = 6 then 5 else if action = 2 then 6 else 7

/-- The beat at which an entry falls due (R40, R42). -/
def Dev.entryBeat (d : Dev) (e : CalEntry) : Nat := if e.rel then ((d.group e.group).last + e.beat) % 2 ^ 64 else e.beat

/-- An entry is due and is held nowhere. -/
def Dev.entryDue (d : Dev) (e : CalEntry) : Bool :=
  e.held.isEmpty && (if e.rel then d.stepDue e else beatGe d.beat.now e.beat)

/-- Entries `c` and `e` stand in one Calendar: that of a die, or the Ringmaster's for those it acts on itself (R506). -/
def sameCal (c e : CalEntry) : Bool := c.dies.any e.dies.contains || (c.dies.isEmpty && e.dies.isEmpty)

/-- Entry `c`, due at the same beat and tick in the same Calendar, fires before `e`: by its action's precedence, or among those of one
action by its index, the order of the master Calendar (R41). -/
def Dev.firesBefore (d : Dev) (c e : CalEntry) : Bool :=
  d.entryDue c && sameCal c e && d.entryBeat c == d.entryBeat e && c.tick == e.tick &&
    (calPrec c.action < calPrec e.action || (c.action == e.action && (d.cal.takeWhile (· != e)).contains c))

/-- Nothing that is due stands before entry `e` (R41). -/
def Dev.mayFire (d : Dev) (e : CalEntry) : Bool := !d.cal.any (fun c => c != e && d.firesBefore c e)

/-- Step-relative entry `e` fires in the present step; the dies of `held` hold their copies (R42, R43). -/
def Dev.fireEntry (d : Dev) (e : CalEntry) (held : List Nat) : Dev :=
  { d with cal := d.cal.map (fun c => if c = e then { c with fired := (d.group e.group).stepNo, held, heldAt := d.beat.now } else c) }

/-- An entry that comes due while a die that holds it is being recovered is held there (R43). -/
def Dev.holdEntries (d : Dev) (p : CalEntry → Bool) : Dev :=
  { d with cal := d.cal.map (fun e =>
      if p e && e.held.isEmpty then { e with held := e.dies.filter d.inRecovery, heldAt := d.beat.now } else e) }

/-- Some die that holds an entry of `p` is being recovered, or holds it still. -/
def Dev.entryHeld (d : Dev) (p : CalEntry → Bool) : Bool := d.cal.any (fun e => p e && (!e.held.isEmpty || e.dies.any d.inRecovery))

/-! Lost images (R436). -/

/-- Image `n` of pasture `owner` is lost with block `b`, for every pasture whose loaded show binds it (R436); `link` is the SEQ of the
record behind it (R420). -/
def Dev.imageLost (d : Dev) (owner n b link : Nat) : Dev :=
  let users := d.binders owner n
  let d := d.modImage owner n (fun i => { i with lost := true })
  users.foldl (fun d u =>
    let d := (d.groupsOf u).foldl (fun d g => d.modGroup g (fun x => { x with stopped := true })) d
    let d := d.closeAll u sImageLost
    d.record 0x0053 63 63 dNotice 0 u link (n + owner * 2 ^ 10 + b * 2 ^ 14)) d

/-! What waits in the fault queue when a larger recovery takes over (R429, rule 4). -/

/-- Queued faults of `p`, and the running recovery of one, end ESCALATED to order `o` with LINK to `seq`, the record of the larger
recovery. -/
def Dev.sweepQueue (d : Dev) (p : FaultRec → Bool) (o seq : Nat) : Dev :=
  let hit (q : Nat) : Bool := match d.faultOf q with
    | some r => q != seq && p r
    | none => false
  let out := d.faults.running.toList.filter hit ++ d.faults.queue.filter hit
  let d := { d with faults := { d.faults with
    queue := d.faults.queue.filter (fun q => !hit q)
    running := match d.faults.running with
      | some q => if hit q then none else some q
      | none => none } }
  out.foldl (fun d q => d.setDisp q dEscalated o seq) d

/-- Record `r` is of a unit in pen `pen`. -/
def inPenRec (pen : Nat) (r : FaultRec) : Bool := isCompute r.die && penOfDie r.die == pen

/-! A pen goes offline (R430). -/

/-- Prefix `n` of pasture `p` is dropped as by `PREFIX_DROP`, without a handle (R430, R432). -/
def Dev.dropPrefix (d : Dev) (p n : Nat) : Dev :=
  (d.modPrefix p n (fun x => { x with dropped := true })).settlePrefix p n

/-- The five steps of R430; `cause` is the SEQ of the record behind it, 0 where there is none. -/
def Dev.penOffline (d : Dev) (pen cause : Nat) : Dev :=
  if bit d.faults.offline pen then d
  else
    let d := d.sweepQueue (inPenRec pen) 6 (if cause = 0 then nextSeq d.faults.lastSeq else cause)
    let d := { d with faults := { d.faults with offline := setBit d.faults.offline pen true } }.remap
    let d := d.abortActs (fun k _ => penOfDie (k / 64) == pen && isCompute (k / 64)) .dieFault
    let d := { d with stk := Tab.mapV d.stk (fun s x => if s / 2 = pen then { x with fold := [] } else x) }
    let p := d.pastureOfPen pen
    let d :=
      if p = 31 then d
      else
        let gs := d.groupsOf p
        let d := gs.foldl (fun d g => d.modGroup g (fun x => { x with stopped := true })) d
        let d := d.abortActs (fun _ r => r.pasture == p) .dieFault
        let d : Dev := match d.showOf p with
          | some s => (List.range (redEntries s).length).foldl (fun d i => Dev.abandonAll d p i .dieFault) d
          | none => d
        let d := gs.foldl (fun d g => d.abandonLayers p g) d
        let d := d.closeAll p sAborted
        let pfx := (d.pastures.flatMap (fun q => (q.2.prefixes.filter (fun x => !(prefixPages x.2 pen).isEmpty)).map (fun x => (q.1, x.1))))
        let d := pfx.foldl (fun d x => Dev.dropPrefix d x.1 x.2) d
        let imgs := d.pastures.flatMap (fun q => (q.2.images.filter (fun i => i.2.pen == pen)).map (fun i => (q.1, i.1)))
        imgs.foldl (fun d i => Dev.imageLost d i.1 i.2 0 cause) d
    d.record 0x0058 63 63 dNotice 6 p cause pen

/-! The package withdraws (R431). -/

/-- The package leaves its paddock (R431): `cause` is the SEQ of the record behind it. -/
def Dev.withdraw (d : Dev) (cause : Nat) : Dev :=
  if d.stopped then d
  else
    let d := d.sweepQueue (fun _ => true) 7 cause
    let d := (d.groups.filter (fun q => q.2.exists_ && q.2.spans && !q.2.left)).foldl (fun d q => d.leaveNotice q.1) d
    let d := d.abortActs (fun _ _ => true) .withdrawal
    let d := (Tab.keys d.handles).foldl (fun d h => d.finish h sAborted []) d
    let d := { d with
      reqs := [], txns := [], cal := []
      groups := Tab.mapV d.groups (fun _ g => { g with stopped := true, running := false, waiting := [], left := g.left || g.spans })
      power := { d.power with st := .withdrawn } }
    d.record 0x0059 63 63 dNotice 7 31 cause 0

/-! The fault queue (R427 to R429). -/

/-- Recovery order of a queued fault code (R421), for a fault in die `die`; `item` is the order of a `FENCE_FAIL`'s item. A failure of
the Tally die stops no compute (R27), so it asks for no recovery. -/
def faultOrder (code die item : Nat) : Nat :=
  if code = 0x0001 then 1 else if code = 0x0003 then 2 else if code = 0x0011 then 4 else if code = 0x0012 then 6
  else if code = 0x0030 then (if isCompute die then 6 else if die = 19 then 0 else 7) else if code = 0x0031 then item
  else if code = 0x0020 then 3 else if code = 0x0028 then 5 else if code = 0x0022 then 7 else 0

/-- A `FENCE_FAIL` of a spare array or a spare core (R441, R447). -/
def spareFail (code info item : Nat) : Bool := code == 0x0031 && fld info 16 8 == item

/-- Index of the array or pseudo-channel that a record names (R421, R452). -/
def recIndex (code o info : Nat) : Nat := if code = 0x0031 then fld info 24 8 else if o = 1 then fld info 0 6 else fld info 0 8

/-- An order-`o` fault asks for the recovery that record `r` asks for: the same unit (R427; log entry 114). -/
def sameUnit (r : FaultRec) (code o die core info : Nat) : Bool :=
  recOrder r == o && !spareFail code info 0x02 && !spareFail code info 0x0D &&
    (if o = 6 then penOfDie r.die == penOfDie die
     else r.die == die && (if o = 1 then r.core == core && recIndex r.code 1 r.info == recIndex code 1 info
       else if o = 2 then r.core == core else recIndex r.code 4 r.info == recIndex code 4 info))

/-- A fault at (die, core) of order `o` lies within the unit that `r` recovers, or in one that its recovery depends on (R429, rule 2). -/
def withinRecovery (r : FaultRec) (code o die core info : Nat) : Bool :=
  let q := recIndex r.code 4 r.info
  if recOrder r = 1 then r.die == die && r.core == core && (o == 2 || spareFail code info 0x02)
  else if recOrder r = 2 then r.die == die && (r.core == core && o == 1 || spareFail code info 0x0D)
  else if recOrder r = 4 then r.die == die &&
    ((spareFail code info 0x10 && fld info 31 1 == q / 64 && fld info 28 3 == q % 8) ||
      ((code == 0x0011 || code == 0x0012) && fld info 0 8 == 128 + 4 * (q / 64) + q % 64 / 16) ||
      (code == 0x0030 && fld info 0 16 == 0x1100 + q / 64))
  else false

/-- The order that a recovery of order `o` escalates to (R428). -/
def escalatesTo (o : Nat) : Nat := if o = 1 then 2 else if o = 2 then 6 else if o = 4 then 6 else 7

/-- The recovery of record `q` runs at order `o`: orders 6 and 7 act at once (R427, R428). -/
def Dev.runRecovery (d : Dev) (q o : Nat) : Dev :=
  match d.faultOf q with
  | none => d
  | some r =>
    if o = 7 then d.withdraw q
    else
      let d := { d with faults := { d.faults with running := some q } }
      if o = 6 then d.penOffline (penOfDie r.die) q
      else if o = 2 then d.sweepQueue (fun x => x.die == r.die && x.core == r.core && recOrder x == 1) 2 q
      else d

/-- The recovery of record `q` begins, at order `o` (R427). -/
def Dev.beginRecovery (d : Dev) (q o : Nat) : Dev := (d.setDisp q dRecovering 0 0).runRecovery q o

/-- SEQ of the latest record of `p`, 0 where there is none. -/
def Dev.seqOf (d : Dev) (p : FaultRec → Bool) : Nat :=
  match d.faults.log.reverse.find? p with
  | some r => r.seq
  | none => 0

/-- A fault joins the end of the queue; one that finds 8 there takes its pen offline, or withdraws the package (R427, R429 rule 3). -/
def Dev.enqueue (d : Dev) (code die core o info : Nat) : Dev :=
  let seq := nextSeq d.faults.lastSeq
  let full := decide (8 ≤ d.faults.queue.length)
  let d := d.record code die core dQueued o (d.pastureOfDie die) 0 info
  if !full then { d with faults := { d.faults with queue := d.faults.queue ++ [seq] } }
  else if isCompute die then (d.setDisp seq dEscalated 6 0).penOffline (penOfDie die) seq
  else (d.setDisp seq dEscalated 7 0).withdraw seq

/-- A fault at (die, core) of order `o` enters the fault queue (R427, R429). One in a withdrawn package, or in an offline pen, lies
within that larger recovery (R429, rules 4 and 5; log entry 54). -/
def Dev.queueFault (d : Dev) (code die core o info : Nat) : Dev :=
  let p := d.pastureOfDie die
  let seq := nextSeq d.faults.lastSeq
  if d.power.st = .withdrawn then
    (d.record code die core dQueued o p 0 info).setDisp seq dEscalated 7 (d.seqOf (fun r => r.code == 0x0059))
  else if isCompute die && bit d.faults.offline (penOfDie die) then
    (d.record code die core dQueued o p 0 info).setDisp seq dEscalated 6
      (d.seqOf (fun r => r.code == 0x0058 && r.info == penOfDie die))
  else
  let same := ((d.faults.running.toList ++ d.faults.queue).filterMap d.faultOf).find? (fun r => sameUnit r code o die core info)
  match same, d.faults.running.bind d.faultOf with
  | some s, _ => d.record code die core dNotice o p s.seq info
  | none, some r =>
    if withinRecovery r code o die core info then
      let e := escalatesTo (recOrder r)
      let d := d.setDisp r.seq dEscalated e 0
      if e = 7 then (d.record code die core dNotice 7 p r.seq info).withdraw seq
      else
        let d := d.record code die core dQueued e p r.seq info
        ({ d with faults := { d.faults with running := none } }).beginRecovery seq e
    else d.enqueue code die core o info
  | none, none =>
    if d.faults.queue.isEmpty then (d.record code die core dQueued o p 0 info).beginRecovery seq o else d.enqueue code die core o info

/-- A fault event of R421 reaches the Ringmaster. `item` is the recovery order of a `FENCE_FAIL`'s item. A failure of the Tally die is
recorded, and compute goes on (R27; log entry 121). -/
def Dev.raise (d : Dev) (code die core info item : Nat) : Dev :=
  let p := d.pastureOfDie die
  let k := coreKey die core
  if code = 0x0001 then
    let d := match (d.core k).run with
      | some r => d.abortGroup r.group .hardware
      | none => d
    d.queueFault code die core 1 info
  else if code = 0x0002 then
    let last := Tab.get? d.faults.spadUe k
    let d := { d with faults := { d.faults with spadUe := Tab.put d.faults.spadUe k d.beat.now } }
    let d := d.modCore k (fun c => { c with badWords := fld info 0 23 / 8 :: c.badWords.filter (· != fld info 0 23 / 8) })
    let d := (d.record code die core dContained 0 p 0 info).coreAbort k .hardware
    match last with
    | some b => if beatAhead b d.beat.now ≤ 2 ^ 24 then d.queueFault 0x0003 die core 2 0 else d
    | none => d
  else if code = 0x0003 then (d.coreAbort k .hardware).queueFault code die core 2 info
  else if 0x0004 ≤ code && code ≤ 0x0007 then (d.record code die core dContained 0 p 0 info).coreAbort k .program
  else if code = 0x0008 then (d.record code die core dContained 0 p 0 info).coreAbort k .hardware
  else if code = 0x0010 then d.record code die core dContained 0 p 0 info
  else if code = 0x0020 then d.record code die core dRecovered 3 p 0 info
  else if code = 0x0028 then d.record code die core dRecovered 5 p 0 info
  else if code = 0x0022 then (d.record code die core dNotice 7 p 0 info).withdraw (nextSeq d.faults.lastSeq)
  else if code = 0x0030 then
    let d := d.abortActs (fun k _ => k / 64 == die) .dieFault
    if isCompute die then d.queueFault code die core 6 info
    else if die = 19 then d.record code die core dNotice 0 p 0 info
    else (d.record code die core dNotice 7 p 0 info).withdraw (nextSeq d.faults.lastSeq)
  else if faultOrder code die item = 7 then (d.record code die core dNotice 7 p 0 info).withdraw (nextSeq d.faults.lastSeq)
  else if faultOrder code die item = 3 || faultOrder code die item = 5 then d.record code die core dRecovered (faultOrder code die item) p 0 info
  else if faultOrder code die item ≠ 0 then d.queueFault code die core (faultOrder code die item) info
  else d.record code die core dNotice 0 p 0 info

end Sys2Proof.Machine
end

