-- ==== Sys2Proof/Machine/Midway.lean ====
section
/-! DEFINITION. The Midway: routers, flits, sequence and replay, credits, arbitration among classes, routing with its detour, and
retraining of a port (R239 to R248, R251 to R255). -/

namespace Sys2Proof.Machine

open Sys2Proof

/-- Port `q` of die `die`: 0 N, 1 E, 2 S, 3 W, and 4 the local port (R239). -/
def Dev.port (d : Dev) (die q : Nat) : Port := Tab.getD d.ports (die * 5 + q) {}

/-- `d` with port `q` of die `die` changed by `f`. -/
def Dev.modPort (d : Dev) (die q : Nat) (f : Port → Port) : Dev :=
  { d with ports := Tab.put d.ports (die * 5 + q) (f (d.port die q)) }

/-- The die beyond port `q` (0 N, 1 E, 2 S, 3 W) of die `die` in the mesh of 5 rows and 8 columns (R16). -/
def neighbour (die q : Nat) : Option Nat :=
  if q = 0 then (if 8 ≤ die then some (die - 8) else none)
  else if q = 1 then (if die % 8 < 7 then some (die + 1) else none)
  else if q = 2 then (if die < 32 then some (die + 8) else none)
  else if q = 3 then (if 0 < die % 8 then some (die - 1) else none)
  else none

/-- Port `q` of die `die` is a mesh port: neither end is the Tally, whose one port is the leaf of the Ringmaster (R248). -/
def meshPort (die q : Nat) : Bool :=
  die < 40 && die != 19 && (match neighbour die q with
    | some n => n != 19
    | none => false)

/-! Flits (R240). -/

def fhKind (h : Nat) : Nat := fld h 47 4
def fhClass (h : Nat) : Nat := fld h 52 2
def fhSrc (h : Nat) : Nat := fld h 60 6
def fhDst (h : Nat) : Nat := fld h 66 6
def fhCredits (h : Nat) : Nat := fld h 72 5
def fhCvc (h : Nat) : Nat := fld h 77 3
def fhSeq (h : Nat) : Nat := fld h 80 8
def fhAck (h : Nat) : Nat := fld h 88 8
/-- Virtual channel 0 to 7 of a flit: its class and its VC. -/
def fhVc (h : Nat) : Nat := fhClass h * 2 + fld h 51 1

/-- The flit as sent: 128 bits of header, then 1,024 of data. -/
def mwFlit (h data : Nat) : Nat := h % 2 ^ 128 + data % 2 ^ 1024 * 2 ^ 128

/-- The remainder that the low `n` bits of `v`, bit 0 first, leave in the register `r` of the CRC-32 of R240 (log entry 135). -/
def mwCrcFrom : Nat → Nat → Nat → Nat
  | 0, r, _ => r
  | n + 1, r, v => mwCrcFrom n ((r * 2 % 2 ^ 32) ^^^ (if bit r 31 != bit v 0 then 0x04C11DB7 else 0)) (v / 2)

/-- The CRC of header bits [95:0] and the data, but for the constant that the initial value and the final inversion make of it
(R240; log entry 135). -/
def mwCrc (h data : Nat) : Nat :=
  if h % 2 ^ 96 = 0 && data = 0 then 0 else mwCrcFrom 1120 0 (h % 2 ^ 96 + data % 2 ^ 1024 * 2 ^ 96)

/-- Header `h` with its number, the acknowledgement and the credits it carries, and the CRC over them and the data (R240). -/
def mwStamp (h data seq ack cvc credits : Nat) : Nat :=
  let h := fld h 0 72 + credits % 32 * 2 ^ 72 + cvc % 8 * 2 ^ 77 + seq % 256 * 2 ^ 80 + ack % 256 * 2 ^ 88
  h + (mwCrc h data ^^^ Config.mwCrcZero % 2 ^ 32) * 2 ^ 96

/-- A flit in which the bits of `errs` were inverted on the wires (header, then data) still agrees with its CRC (R241): the CRC being
linear, it is that of the inverted bits alone. -/
def mwCrcOk (errs : Nat) : Bool := errs = 0 || mwCrc (errs % 2 ^ 128) (errs / 2 ^ 128) == fld errs 96 32

/-- The LAST bit of header `h` set to `b`, and its LEN to 128 bytes (R240). -/
def halfOf (h : Nat) (b : Bool) : Nat := setBit (setBit (setBit h 45 true) 46 true) 44 b

/-! Routing (R245, R246). -/

/-- A flit from `src` to `dst` detours around the Tally (R246). -/
def detours (src dst : Nat) : Bool :=
  src / 8 == 2 && ((src % 8 ≤ 2 && 3 ≤ dst % 8) || (4 ≤ src % 8 && dst % 8 ≤ 3))

/-- The port by which a flit for `dst` leaves die `at_`; none when it is there. -/
def outPort (src dst at_ : Nat) : Option Nat :=
  if at_ = dst then none
  else if at_ = src && detours src dst then
    some (if dst / 8 < 2 then 0 else if 2 < dst / 8 then 2 else if src % 8 ≤ 2 then 0 else 2)
  else if at_ % 8 < dst % 8 then some 1
  else if dst % 8 < at_ % 8 then some 3
  else if at_ / 8 < dst / 8 then some 2
  else some 0

/-- The die to whose router a flit goes: one for the Tally goes to the Ringmaster's, whose leaf port is the only way there (R248). -/
def fhTarget (h : Nat) : Nat := if fhDst h = 19 then 18 else fhDst h

/-- The port of die `die` by which header `h` leaves, the local one where it is there. -/
def outOf (die h : Nat) : Nat := (outPort (fhSrc h) (fhTarget h) die).getD 4

/-- Header `h` as it leaves by port `q` after it came by port `inn`: a turn from a north or south hop onto an east or west one moves it
to VC 1 (R245). -/
def turned (inn q h : Nat) : Nat := if (inn = 0 || inn = 2) && (q = 1 || q = 3) then setBit h 51 true else h

/-! Classes (R243). -/

/-- A Gate die, for traffic of class XCHG to and from it. -/
def fhGate (h : Nat) : Bool := isGate (fhSrc h) || isGate (fhDst h)

/-- Traffic of header `h`'s KIND goes in its CLASS: control messages and Calendar copies in CTRL; reduction transfers and Race exchanges
in COLL; stack requests and returns in MEM; exchange data, and what goes to or from a Gate die, in XCHG (R243). -/
def kindInClass (h : Nat) : Bool :=
  let k := fhKind h
  let c := fhClass h
  if k = 6 then c == 0 || (c == 3 && fhGate h)
  else if k = 7 then c == 0
  else if k = 5 then c == 1 || c == 3
  else c == 1 || c == 2 || (c == 3 && fhGate h)

/-! Sending (R241, R242, R244). -/

/-- Performance register `i` of R254. -/
def Dev.mwPerf (d : Dev) (die i n : Nat) : Dev := d.perfAdd die 63 8 i n

/-- The class after `i` places of the repeating sequence COLL, MEM, XCHG, MEM. -/
def turnClass (i : Nat) : Nat := if i % 4 = 0 then 1 else if i % 4 = 2 then 3 else 2

/-- The first flits in the buffers of input port `inn`, class `c`, that leave by output `q`: input channel, header and data. -/
def Dev.heads (d : Dev) (die q c inn : Nat) : List (Nat × Nat × Nat) :=
  [2 * c, 2 * c + 1].filterMap (fun v => match Tab.getD (d.port die inn).buf v [] with
    | f :: _ => if outOf die f.1 = q then some (v, f) else none
    | [] => none)

/-- Output `q` holds a credit for header `h`: the local port needs none. -/
def Port.credited (x : Port) (q h : Nat) : Bool := q == 4 || decide (0 < Tab.getD x.credit (fhVc h) 16)

/-- A flit of class `c` that may leave by output `q`: its input port, by round robin, its channel there, header and data (R244). -/
def Dev.classPick (d : Dev) (die q c : Nat) : Option (Nat × Nat × Nat × Nat) :=
  let x := d.port die q
  (List.range 5).findSome? (fun i =>
    let inn := (Tab.getD x.robin c 0 + i) % 5
    ((d.heads die q c inn).find? (fun f => x.credited q (turned inn q f.2.1))).map (fun f => (inn, f)))

/-- A class other than CTRL has a flit that may leave by output `q`. -/
def Dev.othersWait (d : Dev) (die q : Nat) : Bool := [1, 2, 3].any (fun c => (d.classPick die q c).isSome)

/-- One slot's grant at output `q`: the class, and the place in the sequence after it (R244). -/
def Dev.classGrant (d : Dev) (die q : Nat) : Option (Nat × Nat) :=
  let x := d.port die q
  if (d.classPick die q 0).isSome && !(d.othersWait die q && x.ctrl.any id) then some (0, x.turn)
  else ((List.range 4).find? (fun i => (d.classPick die q (turnClass (x.turn + i))).isSome)).map
    (fun i => (turnClass (x.turn + i), (x.turn + 1) % 4))

/-- A flit leaves mesh port `q` of die `die`: it takes the next number, the acknowledgement and the credits that wait for one channel, and a
place in the replay buffer (R240 to R242). -/
def Dev.launch (d : Dev) (die q h data : Nat) : Dev :=
  let x := d.port die q
  let v := ((List.range 8).find? (fun v => 0 < Tab.getD x.owed v 0)).getD 0
  let n := min 31 (Tab.getD x.owed v 0)
  let h := mwStamp h data x.txSeq (x.rxSeq + 255) v n
  (d.modPort die q (fun y =>
    { y with
      owed := Tab.put y.owed v (Tab.getD y.owed v 0 - n), ackDue := false
      store := y.store ++ [(y.txSeq, h, data)], txSeq := (y.txSeq + 1) % 256 })).emit (.midway die q (mwFlit h data))

/-- Output `q` of die `die` may send: it is not training, and its replay buffer has room (R241, R252). -/
def Port.maySend (x : Port) (q : Nat) : Bool := q == 4 || (!x.training && decide (x.store.length < 64))

/-- Exchange data between two Gate dies: half of a Stile flit that turns from one link to another (R275; log entry 139). -/
def gateTurn (h : Nat) : Bool := isGate (fhSrc h) && isGate (fhDst h) && fhClass h == 3 && fhKind h == 5

/-- The tag of a Stile flit that turns: the link and VC by which it came, those by which it leaves, its FTYPE, and whether it is its
message's last (log entry 139). -/
def turnTag (l v k w ft : Nat) (last : Bool) : Nat := l + v * 2 ^ 3 + k * 2 ^ 7 + w * 2 ^ 10 + ft * 2 ^ 14 + last.toNat * 2 ^ 18

/-- Half a Stile flit has crossed the Midway to another Gate die; with the second half it joins the queue of its link (R240, R275). -/
def Dev.turnIn (d : Dev) (h data : Nat) : Dev :=
  let key := fhSrc h * 64 + fhDst h
  if bit h 44 then
    let body := leBytes (Tab.getD d.gateHalf key 0) 128 ++ leBytes data 128
    { d with gateHalf := Tab.del d.gateHalf key }.queueFlit (fld h 7 3) (fld h 10 4) (fld h 0 3, fld h 3 4) (fld h 14 4) body (bit h 18)
  else { d with gateHalf := Tab.put d.gateHalf key data }

/-- The flit at the head of channel `v` of input `inn` leaves by output `q`: its place in the input buffer is free again (R242). -/
def Dev.mwMove (d : Dev) (die q c turn : Nat) (p : Nat × Nat × Nat × Nat) : Dev :=
  let (inn, v, h, data) := p
  let others := d.othersWait die q
  let d := d.modPort die inn (fun y =>
    { y with buf := Tab.mod y.buf v [] (·.drop 1), owed := if inn = 4 then y.owed else Tab.mod y.owed v 0 (· + 1) })
  let h := turned inn q h
  let d := d.modPort die q (fun y =>
    { y with
      turn, robin := Tab.put y.robin c ((inn + 1) % 5), ctrl := (y.ctrl ++ [c == 0 && others]).drop (y.ctrl.length + 1 - 16)
      credit := if q = 4 then y.credit else Tab.put y.credit (fhVc h) (Tab.getD y.credit (fhVc h) 16 - 1) })
  if q = 4 then
    let d := d.mwPerf die 1 1
    if gateTurn h then d.turnIn h data else d.emit (.midwayLocal die (mwFlit h data))
  else
    let d := if inn = 4 && detours (fhSrc h) (fhTarget h) then d.mwPerf die 2 1 else d
    (d.mwPerf die 0 1).launch die q h data

/-- One flit slot of output `q` of die `die`, and whether a flit left (R244, R254). -/
def Dev.mwSlot (d : Dev) (die q : Nat) : Dev × Bool :=
  let x := d.port die q
  if !x.maySend q then (d, false)
  else
    let stall := (List.range 4).any (fun c => (List.range 5).any (fun inn =>
      (d.heads die q c inn).any (fun f => !x.credited q (turned inn q f.2.1))))
    let capped := (d.classPick die q 0).isSome && d.othersWait die q && x.ctrl.any id
    let e := (d.mwPerf die 3 stall.toNat).mwPerf die 4 capped.toNat
    match d.classGrant die q with
    | none => (e, false)
    | some (c, turn) => match d.classPick die q c with
      | none => (e, false)
      | some p => (e.mwMove die q c turn p, true)

/-- The router of die `die` moves flits, a slot at a time at each output, while one can move; `n` bounds the slots. -/
def Dev.mwMoves (d : Dev) (die : Nat) : Nat → Dev
  | 0 => d
  | n + 1 =>
    let r := (List.range 5).foldl (fun (a : Dev × Bool) q =>
      let s := a.1.mwSlot die q
      (s.1, a.2 || s.2)) (d, false)
    if r.2 then Dev.mwMoves r.1 die n else r.1

/-- Where no flit carries them, idle flits carry the acknowledgement and the credits that mesh port `q` owes (R240); `n` bounds them. -/
def Dev.mwIdle (d : Dev) (die q : Nat) : Nat → Dev
  | 0 => d
  | n + 1 =>
    let x := d.port die q
    if (x.ackDue || x.owed.any (fun o => 0 < o.2)) && x.maySend q && q < 4 then
      Dev.mwIdle (d.launch die q ((neighbour die q).getD 0 * 2 ^ 66 + die * 2 ^ 60 + 63 * 2 ^ 54) 0) die q n
    else d

/-- Flits in the input buffers of die `die`. -/
def Dev.mwHeld (d : Dev) (die : Nat) : Nat :=
  (List.range 5).foldl (fun n q => (d.port die q).buf.foldl (fun n b => n + b.2.length) n) 0

/-- The router of die `die` sends what it can. -/
def Dev.runRouter (d : Dev) (die : Nat) : Dev :=
  (List.range 4).foldl (fun d q => Dev.mwIdle d die q 9) (d.mwMoves die (d.mwHeld die + 1))

/-! Receiving (R240 to R248). -/

/-- A flit that takes no buffer gives its credit back at once. -/
def Dev.mwGiveBack (d : Dev) (die inn v : Nat) : Dev :=
  if inn = 4 then d else d.modPort die inn (fun y => { y with owed := Tab.mod y.owed v 0 (· + 1) })

/-- A flit addressed to the Tally goes into the leaf port: a settings message of the firmware alone (R248). -/
def toLeaf (h : Nat) : Bool := fhSrc h == 18 && fld h 54 6 == 63 && fhKind h == 6

/-- A flit that the Ringmaster's router takes from the leaf port: one of the mirror, from the Tally to the Ringmaster (R243, R248). -/
def fromLeaf (h : Nat) : Bool := fhSrc h == 19 && fhDst h == 18 && fhClass h == 0 && fhKind h == 6

/-- A router of die `die` takes a flit in by port `inn`: a reserved KIND is discarded, as is one for the Tally at the Ringmaster's router but
settings of the firmware (R240, R248); another joins the buffer of its channel. A flit whose way leads into the Tally or off the mesh goes
no further (DESIGN CHOICE, log entry 116). -/
def Dev.mwTake (d : Dev) (die inn h data : Nat) : Dev :=
  let v := fhVc h
  let q := outOf die h
  if 8 ≤ fhKind h then (d.errAdd die 64 1 1).mwGiveBack die inn v
  else if die = 18 && fhDst h = 19 then
    (if inn = 4 && toLeaf h then d.emit (.midway 18 1 (mwFlit h data)) else d.errAdd 18 64 1 1).mwGiveBack die inn v
  else if q ≠ 4 && !meshPort die q then d.mwGiveBack die inn v
  else d.modPort die inn (fun y => { y with buf := Tab.mod y.buf v [] (· ++ [(h, data)]) })

/-- What a flit brings back: the acknowledgement of flits held for replay, and credits (R240 to R242). -/
def Dev.takeReturns (d : Dev) (die q h : Nat) : Dev :=
  d.modPort die q (fun x =>
    { x with
      store := x.store.filter (fun f => 128 ≤ (fhAck h + 256 - f.1) % 256)
      credit := Tab.put x.credit (fhCvc h) (min 16 (Tab.getD x.credit (fhCvc h) 16 + fhCredits h)) })

/-- The channel's buffer of input port `inn` has room for `n` flits more (R242). -/
def Dev.mwRoom (d : Dev) (die inn v n : Nat) : Bool := (Tab.getD (d.port die inn).buf v []).length + n ≤ 16

/-- A unit of die `die` hands its router a flit, or a transfer of 256 bytes that travels as two (R240, R243, R245). -/
def Dev.mwInject (d : Dev) (die h data : Nat) (pair : Bool) : Dev :=
  let h := setBit h 51 false
  if !(die < 40 && die != 19 && fhSrc h == die) || !kindInClass h || !d.mwRoom die 4 (fhVc h) (if pair then 2 else 1) then d
  else if pair then
    ((d.mwTake die 4 (halfOf h false) (data % 2 ^ 1024)).mwTake die 4 (halfOf h true) (data / 2 ^ 1024 % 2 ^ 1024)).runRouter die
  else (d.mwTake die 4 h (data % 2 ^ 1024)).runRouter die

/-- A flit comes to the router of die `die` by port `q`, with the bits of `errs` inverted on the wires; by port 4, the
die's own local port, a unit of the die hands over a flit or, with `pair`, a transfer of 256 bytes (R240 to R248). -/
def Dev.mwReceive (d : Dev) (die q h data errs : Nat) (pair : Bool) : Dev :=
  if q = 4 then d.mwInject die h data pair
  else
    let h := (h % 2 ^ 128) ^^^ (errs % 2 ^ 128)
    let data := (data % 2 ^ 1024) ^^^ (errs / 2 ^ 128 % 2 ^ 1024)
    if die = 18 && q = 1 then
      if mwCrcOk errs && fromLeaf h then (d.mwPerf 18 1 1).emit (.midwayLocal 18 (mwFlit h data)) else d.errAdd 18 64 1 1
    else if !meshPort die q then d
    else if !mwCrcOk errs || fhSeq h ≠ (d.port die q).rxSeq then d.modPort die q (fun x => { x with discarding := true })
    else if fhKind h ≠ 0 && !d.mwRoom die q (fhVc h) 1 then d
    else
      let d := d.modPort die q (fun x => { x with rxSeq := (x.rxSeq + 1) % 256, discarding := false, ackDue := true })
      let d := d.takeReturns die q h
      (if fhKind h = 0 then d else d.mwTake die q h data).runRouter die

/-- The oldest unacknowledged flit of a port has waited 256 slots, at flit slot `slot`: every unacknowledged flit is sent again; the
sixteenth replay within 2^20 slots begins a retrain (R241, R252). -/
def midwayReplayTimeout (d : Dev) (die q slot : Nat) : Dev :=
  let x := d.port die q
  if !meshPort die q || x.store.isEmpty || x.training then d
  else
    let rs := x.replays.filter (fun s => s ≤ slot && slot - s < 2 ^ 20) ++ [slot]
    let d := d.errAdd die 64 0 1
    let d := x.store.foldl (fun d f => d.emit (.midway die q (mwFlit f.2.1 f.2.2))) d
    d.modPort die q (fun x => { x with replays := if 16 ≤ rs.length then [] else rs, training := 16 ≤ rs.length })

/-! Training and repair (R251 to R253). -/

/-- Wires of those measured that fail the margins of R251: less than 8 steps of 1/64 UI on the worse side in time, or less than 10 mV on
the worse side in voltage. -/
def wiresFailing (m : List WireMargin) : List Nat :=
  ((m.filter (fun w => w.wire < 640 && (w.time < 8 || w.volts < 10))).map (fun w => w.wire)).eraseDups

/-- A port or router is beyond narrowing: `MW_ROUTER_FAIL`. The package withdraws, and in start-up it does so when start-up completes
(R253, R431, R470). -/
def Dev.routerFails (d : Dev) (die info : Nat) : Dev :=
  if d.power.startingUp then
    let d := d.record 0x0022 die 63 dNotice 7 (d.pastureOfDie die) 0 info
    { d with power := { d.power with lostInStartup := true, lostSeq := d.faults.lastSeq } }
  else d.raise 0x0022 die 63 info 0

/-- Wires `fresh` of one direction of a port have failed beside those of `old`: spares replace them, the direction narrows, or the router
fails (R251 to R253). `dir` is 0 out, 1 in. A spare mapped at start-up raises no event (R251). -/
def Dev.badWires (d : Dev) (die q dir : Nat) (old fresh : List Nat) (half : Bool) : Dev :=
  let bad := old.length + fresh.length
  let info (w : Nat) := q + dir * 2 ^ 3 + w % 128 * 2 ^ 4
  if fresh.isEmpty then d
  else if bad ≤ 64 then
    fresh.foldl (fun d w =>
      let d := d.errAdd die 64 2 1
      if d.power.startingUp then d.softRepair die 5 (q + dir * 8 + w * 16) else d.raise 0x0020 die 63 (info w) 0) d
  else if bad ≤ 352 then
    if half then d else (d.errAdd die 64 3 1).notice 0x0021 die 63 (d.pastureOfDie die) (q + dir * 2 ^ 3)
  else d.routerFails die (q + dir * 2 ^ 3)

/-- Port `q` of die `die` has tested its wires in both directions (R251 to R253). -/
def Dev.portTrained (d : Dev) (die q : Nat) (outM inM : List WireMargin) : Dev :=
  let x := d.port die q
  let out := (wiresFailing outM).filter (fun w => !x.outBad.contains w)
  let inn := (wiresFailing inM).filter (fun w => !x.inBad.contains w)
  let d := (d.badWires die q 0 x.outBad out x.outHalf).badWires die q 1 x.inBad inn x.inHalf
  d.modPort die q (fun x =>
    { x with
      outBad := x.outBad ++ out, inBad := x.inBad ++ inn, training := false
      outHalf := 64 < x.outBad.length + out.length, inHalf := 64 < x.inBad.length + inn.length })

/-- A port has tested its wires within its pause in service, and traffic resumes (R252, R253). -/
def Dev.mwRetrain (d : Dev) (die q : Nat) (outM inM : List WireMargin) : Dev :=
  if !meshPort die q || !(d.port die q).training then d else (d.portTrained die q outM inM).runRouter die

/-- Every mesh port has trained in start-up, with the margins measured on some of its wires (R251). -/
def Dev.midwayTrained (d : Dev) (l : List PortMargins) : Dev :=
  l.foldl (fun d m => if meshPort m.die m.port then Dev.portTrained d m.die m.port m.out m.inn else d) d

/-- An uncorrectable error in a router's buffers or logic at port `q`, direction `dir`: `MW_ROUTER_FAIL`, and the package withdraws
(R253, R431). -/
def mwRouterFail (d : Dev) (die q dir : Nat) : Dev :=
  if die < 40 && die ≠ 19 then d.routerFails die (q % 4 + dir % 2 * 2 ^ 3) else d

end Sys2Proof.Machine
end

