-- ==== Sys2Proof/Machine/Float.lean ====
section
/-! DEFINITION. Exact binary floating point (R105, R109 to R111): values are signed dyadic numbers, infinities or NaN; an
operation is computed exactly and rounded once. -/

namespace Sys2Proof.Machine

open Sys2Proof

/-- A floating-point value: NaN, an infinity, or (−1)^neg · m · 2^e. A zero keeps its sign. -/
inductive Fl where
  /-- Not a number. -/
  | nan
  /-- An infinity. -/
  | inf (neg : Bool)
  /-- A finite value. -/
  | fin (neg : Bool) (m : Nat) (e : Int)
  deriving DecidableEq, Repr

/-- A floating-point layout: exponent bits, mantissa bits, bias, and whether it has infinities (R105). -/
structure FFmt where
  /-- Exponent bits -/
  eb : Nat
  /-- Mantissa bits -/
  mb : Nat
  /-- Bias -/
  bias : Nat
  /-- Infinities exist (all but F8A) -/
  hasInf : Bool
  /-- Canonical NaN (R109) -/
  qnan : Nat
  deriving DecidableEq, Repr

/-- The layouts of R105. -/
def f8a : FFmt := ⟨4, 3, 7, false, 0x7F⟩
def f8b : FFmt := ⟨5, 2, 15, true, 0x7E⟩
def f16 : FFmt := ⟨5, 10, 15, true, 0x7E00⟩
def bf16 : FFmt := ⟨8, 7, 127, true, 0x7FC0⟩
def f32 : FFmt := ⟨8, 23, 127, true, 0x7FC00000⟩

/-- Width of a layout in bits. -/
def FFmt.width (f : FFmt) : Nat := 1 + f.eb + f.mb

/-- The value of a bit pattern (R105). -/
def flDecode (f : FFmt) (v : Nat) : Fl :=
  let s := bit v (f.eb + f.mb)
  let x := fld v f.mb f.eb
  let m := fld v 0 f.mb
  let top := 2 ^ f.eb - 1
  if x = top && f.hasInf then (if m = 0 then .inf s else .nan)
  else if x = top && !f.hasInf && m = 2 ^ f.mb - 1 then .nan
  else if x = 0 then .fin s m (1 - f.bias - f.mb : Int)
  else .fin s (m + 2 ^ f.mb) ((x : Int) - f.bias - f.mb)

/-- How a conversion rounds (R110, R111): to nearest, or by a generator's output `u`. -/
inductive Round where
  | nearest
  | stochastic (u : Nat)
  deriving DecidableEq, Repr

/-- The magnitude `m · 2^e` in units of 2^q: whole part and remainder, with the remainder's unit 2^s as its second part. -/
def units (m : Nat) (e q : Int) : Nat × Nat × Nat :=
  if q ≤ e then (m * 2 ^ (e - q).toNat, 0, 0)
  else
    let s := (q - e).toNat
    (m / 2 ^ s, m % 2 ^ s, s)

/-- Round a magnitude to a whole number of units of 2^q (R110, R111). -/
def roundMag (r : Round) (m : Nat) (e q : Int) : Nat :=
  let (n, x, s) := units m e q
  match r with
  | .nearest => if 2 * x > 2 ^ s || (2 * x = 2 ^ s && s ≠ 0 && n % 2 = 1) then n + 1 else n
  | .stochastic u => if u < x * 2 ^ 32 / 2 ^ s then n + 1 else n

/-- Exponent of the unit of a layout at magnitude `m · 2^e`, `m > 0`. -/
def unitExp (f : FFmt) (m : Nat) (e : Int) : Int :=
  max (e + Nat.log2 m) (1 - f.bias : Int) - f.mb

/-- The largest finite magnitude of a layout: mantissa and exponent of its unit. -/
def maxFin (f : FFmt) : Nat × Int :=
  if f.hasInf then (2 ^ (f.mb + 1) - 1, (2 ^ f.eb - 2 : Nat) - f.bias - f.mb)
  else (2 ^ (f.mb + 1) - 2, (2 ^ f.eb - 1 : Nat) - f.bias - f.mb)

/-- `n · 2^q` exceeds the largest finite magnitude. -/
def exceeds (f : FFmt) (n : Nat) (q : Int) : Bool :=
  let (m, e) := maxFin f
  let (a, x, _) := units n q e
  decide (m < a) || (decide (a = m) && x != 0)

/-- The bits of a finite magnitude `n · 2^q` that a layout represents, without its sign. -/
def magBits (f : FFmt) (n : Nat) (q : Int) : Nat :=
  if n = 0 then 0
  else
    let u := unitExp f n q
    let m := (units n q u).1
    if m < 2 ^ f.mb then m else ((u + f.mb + f.bias).toNat) * 2 ^ f.mb + (m - 2 ^ f.mb)

/-- A conversion into a layout (R109 to R111): the bits, and whether it counts as a saturation. -/
def flPack (f : FFmt) (r : Round) (v : Fl) : Nat × Bool :=
  let sgn (s : Bool) : Nat := if s then 2 ^ (f.eb + f.mb) else 0
  let big := magBits f (maxFin f).1 (maxFin f).2
  match v with
  | .nan => (f.qnan, false)
  | .inf s => if f.hasInf then (sgn s + (2 ^ f.eb - 1) * 2 ^ f.mb, false) else (sgn s + big, true)
  | .fin s m e =>
    if m = 0 then (sgn s, false)
    else
      let q := unitExp f m e
      let n := roundMag r m e q
      if exceeds f n q then (sgn s + big, true) else (sgn s + magBits f n q, false)

/-- One IEEE 754 rounding into a layout: an overflow is an infinity of its sign. -/
def flRound (f : FFmt) (v : Fl) : Fl :=
  match v with
  | .fin s m e =>
    if m = 0 then .fin s 0 0
    else
      let q := unitExp f m e
      let n := roundMag .nearest m e q
      if exceeds f n q then .inf s else .fin s n q
  | v => v

/-- Exact product; an infinity times a zero is NaN. -/
def flMul (a b : Fl) : Fl :=
  match a, b with
  | .nan, _ => .nan
  | _, .nan => .nan
  | .inf s, .inf t => .inf (s != t)
  | .inf s, .fin t m _ => if m = 0 then .nan else .inf (s != t)
  | .fin s m _, .inf t => if m = 0 then .nan else .inf (s != t)
  | .fin s m e, .fin t n k => .fin (s != t) (m * n) (e + k)

/-- Exact sum; a sum of opposite infinities is NaN, and an exact zero of unlike signs is +0. -/
def flAdd (a b : Fl) : Fl :=
  match a, b with
  | .nan, _ => .nan
  | _, .nan => .nan
  | .inf s, .inf t => if s = t then .inf s else .nan
  | .inf s, _ => .inf s
  | _, .inf t => .inf t
  | .fin s m e, .fin t n k =>
    if m = 0 && n = 0 then .fin (s && t) 0 0
    else
      let q := min e k
      let x : Int := (m * 2 ^ (e - q).toNat : Nat)
      let y : Int := (n * 2 ^ (k - q).toNat : Nat)
      let z := (if s then -x else x) + (if t then -y else y)
      .fin (decide (z < 0)) z.natAbs q

/-- Negation. -/
def flNeg : Fl → Fl
  | .nan => .nan
  | .inf s => .inf (!s)
  | .fin s m e => .fin (!s) m e

/-- The value of an integer. -/
def flOfInt (i : Int) : Fl := .fin (decide (i < 0)) i.natAbs 0

/-- Value `i · 2^e`. -/
def flScale (i : Int) (e : Int) : Fl := .fin (decide (i < 0)) i.natAbs e

/-- F32 sum, product, difference and fused multiply-add, each rounded once. -/
def add32 (a b : Fl) : Fl := flRound f32 (flAdd a b)
def mul32 (a b : Fl) : Fl := flRound f32 (flMul a b)
def sub32 (a b : Fl) : Fl := add32 a (flNeg b)
def fma32 (a b c : Fl) : Fl := flRound f32 (flAdd (flMul a b) c)

/-- A quotient with enough bits, and a sticky last bit, to round once into F32. -/
def flDiv (a b : Fl) : Fl :=
  match a, b with
  | .nan, _ => .nan
  | _, .nan => .nan
  | .inf _, .inf _ => .nan
  | .inf s, .fin t _ _ => .inf (s != t)
  | .fin s _ _, .inf t => .fin (s != t) 0 0
  | .fin s m e, .fin t n k =>
    if n = 0 then (if m = 0 then .nan else .inf (s != t))
    else
      let sh : Nat := Nat.log2 n + 300
      let q := m * 2 ^ sh / n
      let st := if m * 2 ^ sh % n = 0 then 0 else 1
      .fin (s != t) (2 * q + st) (e - k - sh - 1)

/-- F32 quotient. -/
def div32 (a b : Fl) : Fl := flRound f32 (flDiv a b)

/-- A square root with enough bits, and a sticky last bit, to round once into F32. -/
def flSqrt (a : Fl) : Fl :=
  match a with
  | .nan => .nan
  | .inf s => if s then .nan else .inf false
  | .fin s m e =>
    if m = 0 then .fin s 0 0
    else if s then .nan
    else
      let sh : Nat := 400 + (if (e - 400) % 2 = 0 then 0 else 1)
      let x := m * 2 ^ sh
      let r := Nat.sqrt x
      .fin false (2 * r + (if r * r = x then 0 else 1)) ((e - sh) / 2 - 1)

/-- F32 square root. -/
def sqrt32 (a : Fl) : Fl := flRound f32 (flSqrt a)

/-- A comparison of two values that are not NaN: −1, 0 or 1 as the first is below, equal to or above the second. -/
def flCmp (a b : Fl) : Int :=
  match a, b with
  | .inf s, .inf t => if s = t then 0 else if s then -1 else 1
  | .inf s, _ => if s then -1 else 1
  | _, .inf t => if t then 1 else -1
  | .fin s m e, .fin t n k =>
    let q := min e k
    let x : Int := (m * 2 ^ (e - q).toNat : Nat)
    let y : Int := (n * 2 ^ (k - q).toNat : Nat)
    let z := (if s then -x else x) - (if t then -y else y)
    if z < 0 then -1 else if z = 0 then 0 else 1
  | _, _ => 0

/-- `a < b`; false where either is NaN. -/
def flLt (a b : Fl) : Bool := a != .nan && b != .nan && flCmp a b < 0

/-- The magnitude of a value. -/
def flAbs : Fl → Fl
  | .nan => .nan
  | .inf _ => .inf false
  | .fin _ m e => .fin false m e

/-- A value is NaN. -/
def Fl.isNaN : Fl → Bool
  | .nan => true
  | _ => false

/-- A value is zero. -/
def Fl.isZero : Fl → Bool
  | .fin _ m _ => m == 0
  | _ => false

/-- F32 bits to value and back (NEAREST). -/
def of32 (v : Nat) : Fl := flDecode f32 v
def to32 (v : Fl) : Nat := (flPack f32 .nearest v).1

/-- A conversion into a two's-complement integer of step 2^q, limited to ±lim (R109 to R111): value, saturation. The rounding
acts on the signed value. NaN gives 0. -/
def flToInt (r : Round) (lim : Nat) (q : Int) (v : Fl) : Int × Bool :=
  let cut (i : Int) : Int × Bool := if i > lim then (lim, true) else if i < -(lim : Int) then (-(lim : Int), true) else (i, false)
  match v with
  | .nan => (0, false)
  | .inf s => (if s then -(lim : Int) else lim, true)
  | .fin s m e =>
    match r with
    | .nearest => let n : Int := roundMag .nearest m e q; cut (if s then -n else n)
    | .stochastic u =>
      let (n, x, sh) := units m e q
      if s && x ≠ 0 then
        cut (if u < (2 ^ sh - x) * 2 ^ 32 / 2 ^ sh then -(n : Int) else -(n : Int) - 1)
      else
        let i : Int := if u < x * 2 ^ 32 / 2 ^ sh then n + 1 else n
        cut (if s then -(n : Int) else i)

end Sys2Proof.Machine
end

