-- ==== Sys2Proof/Machine/Formats.lean ====
section
/-! DEFINITION. Number formats: ternary tiles, block exponents, the activation sparse form, conversions (R13, R97 to R109). -/

namespace Sys2Proof.Machine

open Sys2Proof

/-- Format codes of R13. -/
def cTP5 : Nat := 0
def cT2 : Nat := 1
def cTSG : Nat := 2
def cI4 : Nat := 3
def cI8 : Nat := 4
def cBX4 : Nat := 5
def cBX8 : Nat := 6
def cF8A : Nat := 7
def cF8B : Nat := 8
def cF16 : Nat := 9
def cBF16 : Nat := 10
def cF32 : Nat := 11
def cA48 : Nat := 12
def cXC : Nat := 13
def cAS : Nat := 14

/-! Ternary weights (R49, R97, R98, R100, R101). -/

/-- The weight of a T2 code; 0b10 is taken as 0 (R97). -/
def t2Weight (c : Nat) : Int := if c % 4 = 1 then 1 else if c % 4 = 3 then -1 else 0

/-- The T2 code of lane `l`, column `c` of a tile (R49). -/
def t2Code (tile l c : Nat) : Nat := fld tile (16 * l + 2 * c) 2

/-- The weight of lane `l`, column `c` of a tile (R49). -/
def tileWeight (tile l c : Nat) : Int := t2Weight (t2Code tile l c)

/-- Codes 0b10 in a tile (R97). -/
def t2Invalid (tile : Nat) : Nat := (List.range 64).foldl (fun n i => if fld tile (2 * i) 2 = 2 then n + 1 else n) 0

/-- Non-zero weights of column `c` of a tile (R50). -/
def colCount (tile c : Nat) : Nat := (List.range 8).foldl (fun n l => if t2Code tile l c % 2 = 1 then n + 1 else n) 0

/-- The T2 codes of the five weights of a TP5 byte (R98). -/
def tp5Codes (b : Nat) : List Nat :=
  if 243 ≤ b then [0, 0, 0, 0, 0]
  else (List.range 5).map (fun i => match b / 3 ^ i % 3 with
    | 0 => 0
    | 1 => 1
    | _ => 3)

/-- The T2 bytes of TP5 bytes: five weights a byte become ten bits (R98). 64 bytes give 80. -/
def tp5Expand (bs : List Byte) : List Byte :=
  let codes := bs.flatMap (fun b => tp5Codes b.toNat)
  pack codes (codes.length / 4)
where
  /-- Four codes a byte, the first in the low bits. -/
  pack (codes : List Nat) : Nat → List Byte
    | 0 => []
    | n + 1 =>
      BitVec.ofNat 8 (codes.getD 0 0 + 4 * codes.getD 1 0 + 16 * codes.getD 2 0 + 64 * codes.getD 3 0) ::
        pack (codes.drop 4) n

/-- TP5 bytes that are no code (R98). -/
def tp5Invalid (bs : List Byte) : Nat := (bs.filter (fun b => 243 ≤ b.toNat)).length

/-- The effective NSEL and BLOCKS of a TSG row, and the errors it counts (R101): (N, blocks, errors). -/
def tsgRow (row : List Byte) : Nat × Nat × Nat :=
  let n := rdLE row 0 1
  let b := rdLE row 1 1
  if n ≠ 2 && n ≠ 4 then (0, 0, 1)
  else
    let cap := if n = 2 then 50 else 25
    if cap < b then (n, cap, 1) else (n, b, 0)

/-- Block `i` of a sequence of TSG rows, with its N; rows give their blocks in order (R101). -/
def tsgBlock : List (List Byte) → Nat → Option (Nat × List Byte)
  | [], _ => none
  | row :: rows, i =>
    let (n, b, _) := tsgRow row
    if i < b then some (n, slice row (8 + 5 * n * i) (5 * n)) else tsgBlock rows (i - b)

/-- Rows of a sequence that the feeder reads to take `k` blocks, and the errors they count. -/
def tsgRowErrors : List (List Byte) → Nat → Nat
  | [], _ => 0
  | row :: rows, k =>
    let (_, b, e) := tsgRow row
    if k = 0 then 0 else e + tsgRowErrors rows (k - b)

/-- The 5-bit entries of column `c`'s group of a block (R100): position and sign. -/
def tsgEntries (n : Nat) (block : List Byte) (c : Nat) : List (Nat × Bool) :=
  let v := leNat block
  (List.range n).map (fun k => (fld v (5 * (n * c + k)) 4, bit v (5 * (n * c + k) + 4)))

/-- Entries of one group with an earlier position given again, or out of ascending order (R101). -/
def tsgGroupErrors (es : List (Nat × Bool)) : Nat :=
  let ps := es.map (·.1)
  let dup := if ps.eraseDups.length < ps.length then 1 else 0
  let ord := if (ps.zip (ps.drop 1)).any (fun q => q.2 < q.1) then 1 else 0
  dup + ord

/-- The two T2 tiles of a TSG block (R100, R101): the later of two entries of one position sets the weight. -/
def tsgTiles (n : Nat) (block : List Byte) : Nat × Nat :=
  let put (t : Nat × Nat) (c : Nat) (e : Nat × Bool) : Nat × Nat :=
    let code := if e.2 then 3 else 1
    let i := 16 * (e.1 % 8) + 2 * c
    if e.1 < 8 then (setFld t.1 i 2 code, t.2) else (t.1, setFld t.2 i 2 code)
  (List.range 8).foldl (fun t c => (tsgEntries n block c).foldl (fun t e => put t c e) t) (0, 0)

/-- Format errors of a block's groups (R101). -/
def tsgBlockErrors (n : Nat) (block : List Byte) : Nat :=
  (List.range 8).foldl (fun e c => e + tsgGroupErrors (tsgEntries n block c)) 0

/-! Integers and block exponents (R102 to R104). -/

/-- The I4 value of nibble `i` of a byte string, even index in the low bits (R102). -/
def i4At (bs : List Byte) (i : Nat) : Int :=
  let b := rdLE bs (i / 2) 1
  sInt 4 (if i % 2 = 0 then b % 16 else b / 16)

/-- The I8 value of byte `i`. -/
def i8At (bs : List Byte) (i : Nat) : Int := sInt 8 (rdLE bs i 1)

/-- Pack I4 values two a byte (R102). -/
def packI4 : List Int → List Byte
  | [] => []
  | [x] => [BitVec.ofNat 8 (uNat 4 x)]
  | x :: y :: r => BitVec.ofNat 8 (uNat 4 x + 16 * uNat 4 y) :: packI4 r

/-- Pack I8 values. -/
def packI8 (l : List Int) : List Byte := l.map (fun x => BitVec.ofNat 8 (uNat 8 x))

/-- Elements of a row of a BX format, exponent bytes, and bytes a block (R103): (blocks, first block byte, bytes a block). -/
def bxShape (four : Bool) : Nat × Nat × Nat := if four then (30, 32, 16) else (15, 16, 32)

/-- The exponents and mantissas of the blocks of a BX row (R103). -/
def bxRow (four : Bool) (row : List Byte) : List (Nat × List Int) :=
  let (n, o, w) := bxShape four
  (List.range n).map (fun i =>
    let b := slice row (o + w * i) w
    (rdLE row i 1, (List.range 32).map (fun k => if four then i4At b k else i8At b k)))

/-- The value of a BX element (R103): an exponent of 255 gives NaN. -/
def bxValue (e : Nat) (m : Int) : Fl := if e = 255 then .nan else flScale m ((e : Int) - 127)

/-- A block's shared exponent from its largest magnitude (R104, rules 1 to 4). -/
def bxExp (four : Bool) (vals : List Fl) : Nat :=
  if vals.any (fun v => match v with
    | .fin _ _ _ => false
    | _ => true) then 255
  else
    let a := vals.foldl (fun m v => if flCmp m (flAbs v) < 0 then flAbs v else m) (.fin false 0 0)
    match a with
    | .fin _ m e =>
      if m = 0 then 0
      else
        let x := 127 + (e + Nat.log2 m) - (if four then 2 else 6)
        if x < 0 then 0 else if 254 < x then 254 else x.toNat
    | _ => 255

/-- The bytes of a BX row from up to its number of blocks (R103). -/
def bxRowBytes (four : Bool) (blocks : List (Nat × List Int)) : List Byte :=
  let (n, o, w) := bxShape four
  let exps := padTo (blocks.flatMap (fun b => leBytes b.1 1)) n
  let body := blocks.flatMap (fun b => padTo (if four then packI4 b.2 else packI8 b.2) w)
  padTo (padTo exps o ++ body) 512

/-- The clamp of R51. -/
def actClamp (a4 : Bool) (x : Int) : Int := if a4 then max x (-7) else max x (-127)

/-- A right shift by `n` that rounds to nearest, ties to even (R66, R110). -/
def shiftRound (x : Int) (n : Nat) : Int :=
  let q := x / 2 ^ n
  let r := x % 2 ^ n
  if 2 * r > 2 ^ n || (n ≠ 0 && 2 * r = 2 ^ n && q % 2 = 1) then q + 1 else q

/-! Element formats. -/

/-- Bits of an element of a format code; 0 for a format that has no elements of one size. -/
def fmtBits (c : Nat) : Nat :=
  if c = cI4 then 4 else if c = cI8 || c = cF8A || c = cF8B then 8 else if c = cF16 || c = cBF16 then 16
  else if c = cF32 then 32 else 0

/-- The floating-point layout of a format code. -/
def fmtOf (c : Nat) : Option FFmt :=
  if c = cF8A then some f8a else if c = cF8B then some f8b else if c = cF16 then some f16
  else if c = cBF16 then some bf16 else if c = cF32 then some f32 else none

/-- The value of an element's bits. -/
def elemValue (c v : Nat) : Fl :=
  match fmtOf c with
  | some f => flDecode f v
  | none => flOfInt (sInt (fmtBits c) v)

/-- The bits of element `i` of a byte string of format `c`. -/
def elemBits (c : Nat) (bs : List Byte) (i : Nat) : Nat :=
  if c = cI4 then (if i % 2 = 0 then rdLE bs (i / 2) 1 % 16 else rdLE bs (i / 2) 1 / 16)
  else rdLE bs (i * (fmtBits c / 8)) (fmtBits c / 8)

/-- Pack elements of format `c` into bytes. -/
def packElems (c : Nat) (es : List Nat) : List Byte :=
  if c = cI4 then packI4 (es.map (fun e => (e : Int))) else es.flatMap (fun e => leBytes e (fmtBits c / 8))

/-- Bytes that `n` elements of format `c` take. -/
def elemBytes (c n : Nat) : Nat := cdiv (n * fmtBits c) 8

/-! The activation sparse form (R107). -/

/-- An element counts as zero when its magnitude is zero. -/
def asZero (c v : Nat) : Bool := if c = cF8A || c = cF8B then v % 128 = 0 else v = 0

/-- The descriptor and payload of one block of 32 elements, none for an absent block. -/
def asBlock (c : Nat) (es : List Nat) : Option (Nat × List Byte) :=
  let nz := (es.zipIdx).filter (fun p => !asZero c p.1)
  if nz.isEmpty then none
  else if nz.length ≤ 8 then
    some (nz.length - 1, nz.flatMap (fun p => [BitVec.ofNat 8 p.2, BitVec.ofNat 8 p.1]))
  else some (128, packElems c (es.map (fun v => if asZero c v then 0 else v)))

/-- One segment of up to 1,024 elements (R107); elements beyond the tensor are absent blocks. -/
def asSegment (c : Nat) (es : List Nat) : List Byte :=
  let blocks := (List.range 32).map (fun b => asBlock c (padZ ((es.drop (32 * b)).take 32)))
  let map_ := maskOf ((blocks.zipIdx).filterMap (fun p => if p.1.isSome then some p.2 else none))
  let desc := blocks.filterMap (fun b => b.map (fun x => BitVec.ofNat 8 x.1))
  let descP := padTo desc (cdiv desc.length 8 * 8)
  let body := blocks.flatMap (fun b => match b with
    | some x => x.2
    | none => [])
  let raw := 8 + descP.length + body.length
  let len := cdiv raw 16 * 16
  padTo (leBytes map_ 4 ++ leBytes len 2 ++ leBytes c 2 ++ descP ++ body) len
where
  /-- A block's elements, padded with zeros. -/
  padZ (l : List Nat) : List Nat := l ++ List.replicate (32 - l.length) 0

/-- The AS bytes of a tensor; `n` bounds the segments. -/
def asEncode (c : Nat) : Nat → List Nat → List Byte
  | 0, _ => []
  | n + 1, es => if es.isEmpty then [] else asSegment c (es.take 1024) ++ asEncode c n (es.drop 1024)

/-- Decode the present blocks of one segment: for each block its elements, `none` where absent; and whether the segment was cut
short by a format error (R107). Payloads that end elsewhere than the segment length has them, padding apart, are an error that leaves
no block out: none is left from that point on (log 130). -/
def asBlocks (c : Nat) (seg : List Byte) (map_ : Nat) : List (Option (List Nat)) × Bool :=
  let present := maskList map_ 32
  let descLen := cdiv present.length 8 * 8
  let rec go (bs : List Nat) (i off : Nat) (acc : Tab (List Nat)) : Tab (List Nat) × Bool :=
    match bs with
    | [] => (acc, cdiv off 16 * 16 != seg.length)
    | b :: rest =>
      let dsc := rdLE seg (8 + i) 1
      if dsc < 128 then
        let n := dsc % 8 + 1
        let ps := (List.range n).map (fun k => (rdLE seg (off + 2 * k) 1, rdLE seg (off + 2 * k + 1) 1))
        let bad := dsc / 8 ≠ 0 || seg.length < off + 2 * n || ps.any (fun p => 32 ≤ p.1 || (c = cI4 && 16 ≤ p.2)) ||
          (ps.zip (ps.drop 1)).any (fun q => q.2.1 ≤ q.1.1)
        if bad then (acc, true)
        else
          let es := (List.range 32).map (fun k => match ps.find? (fun p => p.1 = k) with
            | some p => p.2
            | none => 0)
          go rest (i + 1) (off + 2 * n) (Tab.put acc b es)
      else
        let w := elemBytes c 32
        if dsc ≠ 128 || seg.length < off + w then (acc, true)
        else go rest (i + 1) (off + w) (Tab.put acc b ((List.range 32).map (fun k => elemBits c (slice seg off w) k)))
  let padOk := allZero (slice seg (8 + present.length) (descLen - present.length))
  let (t, e) := if padOk then go present 0 (8 + descLen) [] else ([], true)
  ((List.range 32).map (fun b => Tab.get? t b), e)

/-- Decode the AS segment at the start of a byte string: its length, its blocks, and whether it was cut short (R107). A header
with a reserved bit set, another element format or an impossible length leaves every block absent. -/
def asDecodeSeg (c : Nat) (bs : List Byte) : Nat × List (Option (List Nat)) × Bool :=
  let map_ := rdLE bs 0 4
  let len := rdLE bs 4 2
  let hdr := rdLE bs 6 2
  if len < 16 || len % 16 ≠ 0 || bs.length < len then (if len < 16 || bs.length < len then 16 else len, List.replicate 32 none, true)
  else if hdr ≠ c then (len, List.replicate 32 none, true)
  else
    let (bl, e) := asBlocks c (bs.take len) map_
    (len, bl, e)

/-- Decode `n` segments of an AS tensor: the blocks of each, the segments cut short, and the bytes read. -/
def asDecode (c : Nat) : Nat → List Byte → List (List (Option (List Nat))) × Nat × Nat
  | 0, _ => ([], 0, 0)
  | n + 1, bs =>
    let (len, bl, e) := asDecodeSeg c bs
    let (r, k, m) := asDecode c n (bs.drop len)
    (bl :: r, k + e.toNat, m + len)

/-! Generators (R112, R113). -/

/-- One step of the 32-bit xorshift generator (R112). -/
def xorshift (s : Nat) : Nat :=
  let s := s ^^^ (s * 2 ^ 13 % 2 ^ 32)
  let s := s ^^^ (s / 2 ^ 17)
  s ^^^ (s * 2 ^ 5 % 2 ^ 32)

/-- The constant K_g (R113). -/
def seedK (g : Nat) : Nat := if g = 0 then 0 else if g = 1 then 0x6A09E667 else if g = 2 then 0xBB67AE85 else 0x3C6EF372

/-- The seed of the reset state of a generator: die, core, array, generator (R113). -/
def resetSeed (d k a g : Nat) : Nat := 1 + (d * 2 ^ 14 + k * 2 ^ 8 + a * 2 ^ 2 + g)

/-- The reset state of a generator (R113). -/
def genReset (d k a g : Nat) : Nat := resetSeed d k a g ^^^ seedK g

end Sys2Proof.Machine
end

