-- ==== Sys2Proof/Machine/CoreOps.lean ====
section
/-! DEFINITION. What every op of a core uses: the fields of an op word, the scratchpad and the activation buffer, settings in
force, and the units' queues (R75 to R85, R115). -/

namespace Sys2Proof.Machine

open Sys2Proof

/-! The op word (R84). -/

def opCode (w : Nat) : Nat := fld w 120 8
def opW (w : Nat) : Bool := bit w 119
def opFlags (w : Nat) : Nat := fld w 112 7
def opIn (w : Nat) : Nat := fld w 108 4
def opOut (w : Nat) : Nat := fld w 104 4
def opOct (w : Nat) : Nat := fld w 96 6
def opX (w : Nat) : Nat := fld w 64 32
def opY (w : Nat) : Nat := fld w 32 32
def opZ (w : Nat) : Nat := fld w 0 32

/-- Arrays that OCT selects, in ascending index (R84). -/
def selected (w : Nat) : List Nat := (maskList (opOct w) 6).flatMap (fun o => (List.range 8).map (fun i => 8 * o + i))

/-! `WLOAD` parameters (R85, R86). -/

/-- Bit-serial mode. -/
def wlSerial (w : Nat) : Bool := bit w 112
/-- A4 activations. -/
def wlA4 (w : Nat) : Bool := bit w 113
/-- CLEAR. -/
def wlClear (w : Nat) : Bool := bit w 114
/-- SCREEN. -/
def wlScreen (w : Nat) : Bool := bit w 115
/-- Tiles per array. -/
def wlTiles (w : Nat) : Nat := fld (opY w) 0 16 + 1
/-- Reuse depth r. -/
def wlR (w : Nat) : Nat := fld (opY w) 16 3 + 1
/-- Base slot. -/
def wlSlot (w : Nat) : Nat := fld (opY w) 19 3
/-- K elements of the step. -/
def wlK (w : Nat) : Nat := 8 * wlTiles w
/-- Tokens of the step. -/
def wlTokens (w : Nat) : Nat := if wlSerial w then 1 else if wlA4 w then 2 * wlR w else wlR w
/-- Activation buffer bytes that the step reads. -/
def wlBytes (w : Nat) : Nat :=
  if wlSerial w then (if wlA4 w then cdiv (wlK w) 2 else wlK w) else wlR w * wlK w

/-- Bytes of the activation buffer that an `ASTREAM` writes: 480 for a row of BX, 512 for a row of another format (R87, R103). -/
def asBytes (w : Nat) : Nat := (if opIn w = cBX4 || opIn w = cBX8 then 480 else 512) * (fld (opY w) 0 8 + 1)

/-! The scratchpad (R75, R422). -/

/-- Scratchpad memory address of core `k`, offset `o`. -/
def spAddr (k o : Nat) : Nat := k / 64 * 2 ^ 29 + k % 64 * 2 ^ 23 + o % 2 ^ 23

/-- Scratchpad size of core `k`. -/
def spSize (k : Nat) : Nat := spadSize (k / 64)

/-- `n` scratchpad bytes of core `k` from offset `o`; a word that holds an uncorrectable error reads as zero (R422). -/
def Dev.spRead (d : Dev) (k o n : Nat) : List Byte :=
  let bad := (d.core k).badWords
  (List.range n).map (fun i => if bad.contains ((o + i) / 8) then 0#8 else Mem.get d.spad (spAddr k (o + i)))

/-- Bytes written at offset `o` of core `k`'s scratchpad: a word written whole is good again, and a word written in part keeps
its zeros elsewhere (R422). -/
def Dev.spWrite (d : Dev) (k o : Nat) (bs : List Byte) : Dev :=
  let bad := (d.core k).badWords
  let whole (w : Nat) : Bool := o ≤ 8 * w && 8 * w + 8 ≤ o + bs.length
  let d := if bad.any whole then d.modCore k (fun c => { c with badWords := c.badWords.filter (fun w => !whole w) }) else d
  { d with spad := Mem.write d.spad (spAddr k o) bs }

/-- The `n`-byte number at offset `o`. -/
def Dev.spLE (d : Dev) (k o n : Nat) : Nat := leNat (d.spRead k o n)

/-- The F32 value at offset `o`. -/
def Dev.spF32 (d : Dev) (k o : Nat) : Fl := of32 (d.spLE k o 4)

/-- The value of element `i` of format `c` of a table at offset `o`. -/
def Dev.spElem (d : Dev) (k c o i : Nat) : Fl :=
  elemValue c (elemBits c (d.spRead k (o + i * fmtBits c / 8) (max 1 (fmtBits c / 8))) (if c = cI4 then i % 2 else 0))

/-- A word of a parameter block: an offset with a bit above bit 22, or a table of `n` bytes from it that reaches past the
scratchpad, is out of bounds (R131). An absent table (offset 0) has no extent. -/
def tableBad (k off n : Nat) : Bool := off ≠ 0 && (2 ^ 23 ≤ off || spSize k < off + n)

/-! The activation buffer (R81, R87). -/

/-- Activation buffer address of core `k`, offset `o`. -/
def abAddr (k o : Nat) : Nat := k * 2 ^ 16 + o % 2 ^ 16

/-- A buffer granule of 16 bytes is absent: AS left its block out (R156). -/
def Core.absent (c : Core) (o : Nat) : Bool := Tab.get? c.bocc (o / 16) == some 0

/-- The byte at buffer offset `o` as it is presented to the arrays: 0 in an absent block. -/
def Dev.abByte (d : Dev) (k o : Nat) : Nat := if (d.core k).absent o then 0 else (Mem.get d.abuf (abAddr k o)).toNat

/-! Settings in force for a core's act (R374, R390). -/

/-- The value of PASTURE key `key` for the act that core `k` runs. -/
def Dev.coreKeyVal (d : Dev) (k key : Nat) : Nat :=
  match (d.core k).run with
  | some r => d.gKey r.group key
  | none => keyDefault key

/-! Counters of a core: performance group and register, and error index (R501 to R503). -/

/-- Performance register `i` of group `g` of core `k` advances by `n`. -/
def Dev.corePerf (d : Dev) (k g i n : Nat) : Dev := d.perfAdd (k / 64) (k % 64) g i n

/-- Error counter `i` of core `k` advances by `n`. -/
def Dev.coreErr (d : Dev) (k i n : Nat) : Dev := d.errAdd (k / 64) (k % 64) i n

/-- Group numbers of R502. -/
def gARRAY : Nat := 0
def gSPAD : Nat := 1
def gSEQ : Nat := 2
def gPREC : Nat := 3
def gSPARSE : Nat := 4
def gPRED : Nat := 5
def gPOUND : Nat := 6
def gXC : Nat := 7

/-- `n` wide rows are granted to core `k` (R79, R96). -/
def Dev.wideRows (d : Dev) (k n : Nat) : Dev := d.corePerf k gSPAD 2 n

/-- A fault of core `k` (R421). -/
def Dev.coreRaise (d : Dev) (k code info : Nat) : Dev := d.raise code (k / 64) (k % 64) info 0

/-- A parameter block out of bounds: the op writes nothing, and the act is aborted (R131). -/
def Dev.paramBounds (d : Dev) (k pc : Nat) : Dev := (d.coreErr k 13 1).coreRaise k 0x0005 (pc % 2 ^ 16)

/-! Units and their queues (R82, R87). -/

/-- The unit of an opcode, numbered as the `BARRIER` mask bits; the engine of a DMA op by its flag. -/
def unitOf (w : Nat) : Nat :=
  let c := opCode w
  if c = 0x01 || c = 0x02 || c = 0x1C then 0
  else if c = 0x06 then 3 else if c = 0x07 then 2
  else if c = 0x0A || c = 0x0B then 4
  else if c = 0x0C || c = 0x0D then 5
  else if c = 0x10 || c = 0x11 then (if bit w 112 then 7 else 6)
  else if c = 0x12 || c = 0x13 then 8
  else 1

/-- Ops of unit `u` that core `c` has issued and not completed. -/
def Core.queued (c : Core) (u : Nat) : List QOp := c.queue.filter (fun q => q.unit == u)

/-- Every op of unit `u` issued so far has completed; unit 0 is the arrays and the feeder (R62, R87). -/
def Core.unitDone (c : Core) (u : Nat) : Bool :=
  (c.queued u).isEmpty && (u != 0 || c.arrs.all (fun a => a.2.fifo.isEmpty || c.lostArrays.contains a.1))

/-- Every unit of a mask has completed; a mask of 0 selects all (R87). -/
def Core.maskDone (c : Core) (m : Nat) : Bool := (List.range 9).all (fun u => (m != 0 && !bit m u) || c.unitDone u)

/-- The index of the op word behind a FIFO entry. -/
def ArrOp.pc : ArrOp → Nat
  | .step pc _ _ _ => pc
  | .seed pc _ _ => pc

/-- An op at index `pc` that reads the arrays `sel` waits for the steps and seeds pushed to them before it (R81, R115). -/
def Core.waitsFor (c : Core) (sel : List Nat) (pc : Nat) : Bool :=
  sel.any (fun a => (c.arr a).fifo.any (fun e => e.pc < pc))

/-- An `ASTREAM` of `n` bytes at buffer offset `z`, at index `pc`, waits while a step pushed before it still reads those bytes
(R81). -/
def Core.abufBusy (c : Core) (pc z n : Nat) : Bool :=
  c.arrs.any (fun a => a.2.fifo.any (fun e => match e with
    | .step q op _ _ => q < pc && opZ op % 2 ^ 16 < z + n && z < opZ op % 2 ^ 16 + wlBytes op
    | .seed _ _ _ => false))

end Sys2Proof.Machine
end

