-- ==== Sys2Proof/Machine/Stacks.lean ====
section
/-! DEFINITION. Stack transfers: the address hash, the arbiter, code words and poison, the Fold and its atomics, isolation (R189,
R196 to R216, R354). -/

namespace Sys2Proof.Machine

open Sys2Proof

/-! The address hash (R198). -/

/-- The pseudo-channel index of block `b` of a pen. -/
def hashQ (b : Nat) : Nat := fld b 0 7 ^^^ fld b 7 7 ^^^ fld b 14 7 ^^^ fld b 21 7 ^^^ fld b 28 2

/-- The local block address of block `b`. -/
def hashL (b : Nat) : Nat := fld b 7 23

/-- The stack of a pen offset. -/
def stackOf (pen off : Nat) : Nat := 2 * pen + fld (hashQ (off / 256)) 6 1

/-- Stack `s`. -/
def Dev.stack (d : Dev) (s : Nat) : Stack := Tab.getD d.stk s {}

/-- `d` with stack `s` changed by `f`. -/
def Dev.modStack (d : Dev) (s : Nat) (f : Stack → Stack) : Dev := { d with stk := Tab.put d.stk s (f (d.stack s)) }

/-- `d` with pseudo-channel `q` (0 to 63) of stack `s` changed by `f`. -/
def Dev.modPc (d : Dev) (s q : Nat) (f : PseudoChannel → PseudoChannel) : Dev :=
  d.modStack s (fun x => { x with pcs := Tab.put x.pcs q (f (Tab.getD x.pcs q {})) })

/-- Error counter `i` of R225 of stack `s`. -/
def Dev.stackErr (d : Dev) (s i n : Nat) : Dev := d.errAdd (grazeOf (s / 2)) 64 (16 + 8 * (s % 2) + i) n

/-- Performance register `i` of R224 of stack `s`. -/
def Dev.stackPerf (d : Dev) (s i n : Nat) : Dev := d.perfAdd (grazeOf (s / 2)) 63 (10 + s % 2) i n

/-! Code words (R200 to R202, R205). -/

/-- The code of R200: 36 symbols of 16 bits, one a wire; it corrects one and detects two. -/
def stackCode : RsCode := { m := 16, poly := 0x1100B, n := 36, r := 4, first := 1, t := 1 }

/-- The data symbol of wire `w`: bit `j` is what the wire carries in beat `j`, bit `w` mod 8 of byte 4 j + `w` ÷ 8 (R200). -/
def wireSymbol (bs : List Byte) (w : Nat) : Nat :=
  (List.range 16).foldl (fun s j => s + fld (rdLE bs (4 * j + w / 8) 1) (w % 8) 1 * 2 ^ j) 0

/-- The 36 symbols of 64 data bytes. -/
def codeWord (bs : List Byte) : List Nat := stackCode.encode ((List.range 32).map (wireSymbol bs))

/-- The 64 data bytes of a code word. -/
def wordBytes (ws : List Nat) : List Byte :=
  (List.range 64).map (fun b => BitVec.ofNat 8 ((List.range 8).foldl (fun v i => v + fld (ws.getD (8 * (b % 4) + i) 0) (b / 4) 1 * 2 ^ i) 0))

/-- A poisoned code word as it is stored: symbols 32 and 33 are inverted (R202). -/
def poisonSymbols (ws : List Nat) : List Nat := modAt (fun v => v ^^^ 0xFFFF) (modAt (fun v => v ^^^ 0xFFFF) ws 32) 33

/-- What a read finds of a stored word with the bits of `pattern` inverted. -/
def disturbed (ws : List Nat) (pattern : Nat) : List Nat := ws.zipIdx.map (fun q => q.1 ^^^ fld pattern (16 * q.2) 16)

/-- A pseudo-channel is to be replaced (R205): `cause` is 0 for corrected errors, 1 for uncorrectable errors, 2 for margin. -/
def Dev.spareChannel (d : Dev) (s q cause : Nat) : Dev :=
  let st := d.stack s
  if (Tab.getD st.pcs q {}).sparing then d
  else
    let d := d.modPc s q (fun x => { x with sparing := true })
    let g := q / 16
    let info := 64 * (s % 2) + q + cause * 2 ^ 8
    if Tab.getD st.spares g 0 = 0 then
      (d.modStack s (fun x => { x with spares := Tab.put x.spares g 1 })).raise 0x0011 (grazeOf (s / 2)) 63 info 0
    else d.raise 0x0012 (grazeOf (s / 2)) 63 info 0

/-- A code word read with one symbol in error (R201, R205). -/
def Dev.corrected (d : Dev) (s q : Nat) : Dev :=
  let d := d.stackErr s 0 1
  let d := d.modPc s q (fun x => { x with ces := d.beat.now :: (x.ces.filter (fun b => beatAhead b d.beat.now ≤ 2 ^ 24)).take 1023 })
  if 1024 ≤ (Tab.getD (d.stack s).pcs q {}).ces.length then d.spareChannel s q 0 else d

/-- INFO of `MEM_UE` (R421): pen, pseudo-channel, local block address, and whether the Fold held the word. -/
def memUeInfo (pen q l : Nat) (inFold : Bool) : Nat := pen + q * 16 + l * 2048 + inFold.toNat * 2 ^ 34

/-- Code words newly poisoned, with code word `cw` as of `beat` (R205). -/
def PseudoChannel.newUe (x : PseudoChannel) (cw beat : Nat) : PseudoChannel :=
  { x with ues := (cw, beat) :: x.ues.filter (fun u => u.1 != cw && beatAhead u.2 beat ≤ 16777216) }

/-- The word joins the channel's newly poisoned ones, and a second within 2^24 beats asks for a spare (R205). -/
def Dev.countUe (d : Dev) (s q cw : Nat) : Dev :=
  let d := d.modPc s q (fun x => x.newUe cw d.beat.now)
  if 2 ≤ (Tab.getD (d.stack s).pcs q {}).ues.length then d.spareChannel s q 1 else d

/-- Word `a` (stack address ÷ 64) is marked poisoned. -/
def Dev.markPoison (d : Dev) (a : Nat) : Dev := { d with poison := a :: d.poison }

/-- A code word becomes poisoned, once (R201, R202, R205). -/
def Dev.poisonWord (d : Dev) (pen cw : Nat) (inFold : Bool) : Dev :=
  let a := penAddr pen (cw * 64) / 64
  if d.poison.contains a then d
  else
    let s := stackOf pen (cw * 64)
    let q := hashQ (cw / 4)
    let d := (d.markPoison a).stackErr s 1 1
    (d.raise 0x0010 (grazeOf pen) 63 (memUeInfo pen q (hashL (cw / 4)) inFold) 0).countUe s (q % 64) cw

/-- Code word `cw` of a pen as the stack holds it. -/
def Dev.storedWord (d : Dev) (pen cw : Nat) : List Nat :=
  let a := penAddr pen (cw * 64)
  let ws := codeWord ((List.range 64).map (fun i => Mem.get d.mem (a + i)))
  if d.poison.contains (a / 64) then poisonSymbols ws else ws

/-- The outcomes of the stack's read of the code words `cws` of a pen: what it delivers for those that it finds in error and corrects
(R201). A word without error needs no decoding. -/
def Dev.decodeWords (d : Dev) (pen : Nat) (cws : List Nat) (errs : List (Nat × Nat)) : List (Nat × List Byte) × Dev :=
  (errs.filter (fun e => cws.contains e.1 && e.2 % 2 ^ 576 != 0)).foldl (fun (a : List (Nat × List Byte) × Dev) e =>
    match stackCode.decode (disturbed (Dev.storedWord a.2 pen e.1) e.2) with
    | some ws => (a.1 ++ [(e.1, wordBytes ws)], a.2.corrected (stackOf pen (e.1 * 64)) (hashQ (e.1 / 4) % 64))
    | none => (a.1, a.2.poisonWord pen e.1 false)) ([], d)

/-- Bytes read from pen offset `off` with the words that the decoder delivered in their places. -/
def overlay (off : Nat) (bs : List Byte) (words : List (Nat × List Byte)) : List Byte :=
  bs.zipIdx.map (fun q => match words.find? (fun w => w.1 == (off + q.2) / 64) with
    | some w => w.2.getD ((off + q.2) % 64) q.1
    | none => q.1)

/-! Atomics (R189). -/

/-- Bytes of an element of an ATOMIC code. -/
def atomicBytes (c : Nat) : Nat := if c = 2 || c = 3 then 8 else if c = 5 then 2 else 4

/-- A signed sum that leaves `w` bits. -/
def wrapsAt (w a b : Nat) : Bool :=
  let s := sInt w a + sInt w b
  s < -((2 ^ (w - 1) : Nat) : Int) || ((2 ^ (w - 1) : Nat) : Int) ≤ s

/-- IEEE 754 minimum and maximum: NaN where either is NaN, and −0 below +0. -/
def flMinMax (mx : Bool) (a b : Fl) : Fl :=
  if a.isNaN || b.isNaN then .nan
  else
    let neg : Fl → Bool
      | .fin s _ _ => s
      | .inf s => s
      | .nan => false
    let lt (x y : Fl) : Bool := if x.isZero && y.isZero then neg x && !neg y else flCmp x y < 0
    if mx then (if lt a b then b else a) else (if lt b a then b else a)

/-- Encode an F32 or BF16 value of a Fold operation: NaN canonical, infinities kept. -/
def foldPack (f : FFmt) (v : Fl) : Nat := (flPack f .nearest (flRound f v)).1

/-- One element of an atomic: the result, whether it wrapped, whether it is NaN from operands that are not (R189). -/
def atomicOp (c dv x : Nat) : Nat × Bool × Bool :=
  let flo (f : FFmt) (g : Fl → Fl → Fl) : Nat × Bool × Bool :=
    let a := flDecode f dv
    let b := flDecode f x
    let r := g a b
    (foldPack f r, false, r.isNaN && !a.isNaN && !b.isNaN)
  if c = 1 then ((dv + x) % 2 ^ 32, wrapsAt 32 dv x, false)
  else if c = 2 then (uNat 64 (sInt 48 (dv + x)), wrapsAt 48 dv x, false)
  else if c = 3 then ((dv + x) % 2 ^ 64, wrapsAt 64 dv x, false)
  else if c = 4 then flo f32 add32
  else if c = 5 then flo bf16 (fun a b => flRound bf16 (flAdd a b))
  else if c = 6 then flo f32 (flMinMax false)
  else if c = 7 then flo f32 (flMinMax true)
  else flo f32 (fun a b => add32 a (mul32 b b))

/-- An atomic over byte strings: the results, the wraps and the NaN results; `n` bounds the elements. -/
def atomicBytesOp (c : Nat) : Nat → List Byte → List Byte → List Byte × Nat × Nat
  | 0, _, _ => ([], 0, 0)
  | n + 1, dv, x =>
    let w := atomicBytes c
    if x.isEmpty then ([], 0, 0)
    else
      let (r, wr, nn) := atomicOp c (leNat (dv.take w)) (leNat (x.take w))
      let (rs, k, m) := atomicBytesOp c n (dv.drop w) (x.drop w)
      (leBytes r w ++ rs, k + wr.toNat, m + nn.toNat)

/-! The Fold (R213, R216). -/

/-- Key of the Fold set of block `b`: slice × 512 + set. -/
def foldKey (b : Nat) : Nat := hashQ b % 8 * 512 + (fld (hashL b) 0 9 ^^^ (fld (hashQ b) 3 3 * 2 ^ 6))

/-- Block `b` lies in the Fold of its stack. -/
def Stack.hit (s : Stack) (b : Nat) : Bool := (Tab.getD s.fold (foldKey b) []).any (fun e => e.1 == b)

/-- Block `b` is dirty in the Fold. -/
def Stack.dirty (s : Stack) (b : Nat) : Bool := (Tab.getD s.fold (foldKey b) []).any (fun e => e.1 == b && e.2)

/-- A transfer meets block `b`: a hit becomes the most recent, and a write that misses takes an invalid way or the least recently
used one (R213). -/
def Stack.touch (s : Stack) (b : Nat) (write : Bool) : Stack :=
  let k := foldKey b
  let set := Tab.getD s.fold k []
  match set.find? (fun e => e.1 == b) with
  | some e => { s with fold := Tab.put s.fold k (set.filter (fun e => e.1 != b) ++ [(b, e.2 || write)]) }
  | none =>
    if write then
      let ways := 16 - Tab.getD s.waysOff (k / 512) 0
      { s with fold := Tab.put s.fold k ((if ways ≤ set.length then set.drop (set.length + 1 - ways) else set) ++ [(b, true)]) }
    else s

/-- Block `b` leaves the Fold without write-back. -/
def Stack.invalidate (s : Stack) (b : Nat) : Stack :=
  { s with fold := Tab.upd s.fold (foldKey b) (fun set => set.filter (fun e => e.1 != b)) }

/-! One transfer (R199 to R202, R213, R354). -/

/-- What a transfer answers: its data, the poisoned addresses it met, and whether the access map denied it. -/
structure StackReply where
  /-- Data of a read -/
  data : List Byte := []
  /-- Device addresses of poisoned code words met -/
  poison : List Nat := []
  /-- Denied (R354) -/
  denied : Bool := false
  deriving DecidableEq, Repr

/-- The device address of a pen offset (R90). -/
def devAddr (pen off : Nat) : Nat := 2 ^ 60 + pen * 2 ^ 56 + off % 2 ^ 38

/-- A transfer the access map denies: nothing is done, and `ISOLATION_FAULT` is raised (R354). -/
def Dev.isolation (d : Dev) (target : Nat) (x : StackReq) : Dev :=
  let d := if isShear target then d.errAdd target 64 8 1 else d.errAdd target 64 12 1
  d.raise 0x0008 x.die x.core (x.die + x.core * 2 ^ 6 + x.pen * 2 ^ 12 + x.off % 2 ^ 38 * 2 ^ 16) 0

/-- The requester of a transfer from core (die, core), or from die agent (die, 63), to a stack of pen `pen`: the core's own port, the
Drover, Race, or the Midway port that serves the die (R209). -/
def requesterOf (die core pen : Nat) : Nat :=
  if grazeOf pen = die && core < 32 then core else if die = 20 then 40 else if die = 17 || die = 21 then 41 else 32 + die % 8

/-- The class of a request: Race is always HIGH, the Drover and debug never (R209, R219). -/
def reqClass (x : StackReq) : Bool := x.requester == 41 || (x.high && x.requester < 40)

/-- Bytes that a request moves. -/
def reqBytes (x : StackReq) : Nat := if x.kind = 0 then x.size else x.data.length

/-- A transfer that R199 allows: 32 to 256 bytes of one block, in multiples of 32 aligned to 32; a core's in multiples of 64, and the
Drover's whole blocks (R89, R219). -/
def reqFits (x : StackReq) : Bool :=
  let u := if x.requester < 32 then 64 else if x.requester = 40 then 256 else 32
  0 < reqBytes x && reqBytes x % u == 0 && x.off % u == 0 && x.off % 256 + reqBytes x ≤ 256

/-- A lane's records after a grant (R211, R212): the class's last granted requester, *used*, and the requester's standing cleared. -/
def Lane.grant (l : Lane) (req : Nat) (high : Bool) : Lane :=
  { l with
    used := l.used + high.toNat
    lastHigh := if high then req else l.lastHigh
    lastNormal := if high then l.lastNormal else req
    backoff := Tab.put l.backoff req {} }

/-- A transfer that no other request meets at its lane is granted; a HIGH one whose quota is spent waits for the next window (R211,
log 132). -/
def Dev.grantAlone (d : Dev) (x : StackReq) : Dev :=
  let s := stackOf x.pen x.off
  let k := hashQ (x.off / 256) % 8
  let l := Tab.getD (d.stack s).lanes k {}
  let l := if reqClass x && 24 ≤ l.used then { l with window := l.window + 1, used := 0 } else l
  (d.stackPerf s 3 (Tab.getD l.backoff x.requester {}).aged.isSome.toNat).modStack s
    (fun t => { t with lanes := Tab.put t.lanes k (l.grant x.requester (reqClass x)) })

/-- One granted transfer at its Fold slice. -/
def Dev.transfer (d : Dev) (x : StackReq) : StackReply × Dev :=
  let n := if x.kind = 0 then x.size else x.data.length
  if !d.mapAllows x.pen x.die x.off n (x.kind != 0) then
    ({ data := List.replicate (if x.kind = 0 then n else 0) 0#8, denied := true }, d.isolation (grazeOf x.pen) x)
  else
    let s := stackOf x.pen x.off
    let b := x.off / 256
    let hit0 := (d.stack s).hit b
    let d := d.stackPerf s 0 1
    let d := d.stackPerf s 1 (reqClass x).toNat
    let d := d.stackPerf s 4 (if n < 256 then 1 else 0)
    let d := d.stackErr s 4 (if hit0 then x.foldCe else 0)
    let bad := hit0 && !x.foldUe.isEmpty
    let d := if bad && (d.stack s).dirty b then x.foldUe.foldl (fun d w => d.poisonWord x.pen w true) d
      else if bad then d.modStack s (fun t => t.invalidate b) else d
    let hit := (d.stack s).hit b
    let d := d.stackPerf s 6 hit.toNat
    let d := d.stackPerf s 7 (!hit).toNat
    let cws := (List.range ((x.off + n + 63) / 64 - x.off / 64)).map (fun i => x.off / 64 + i)
    let whole (w : Nat) : Bool := x.off ≤ w * 64 && w * 64 + 64 ≤ x.off + n
    let fetch := if hit then [] else if x.kind = 1 then (if n = 256 then [] else
        (List.range 4).map (fun i => b * 4 + i) |>.filter (fun w => !whole w)) else if x.kind = 2 then (List.range 4).map (fun i => b * 4 + i) else cws
    let (words, d) := d.decodeWords x.pen fetch x.errs
    let d := d.modStack s (fun t => t.touch b (x.kind != 0))
    let isBad (w : Nat) : Bool := d.poison.contains (penAddr x.pen (w * 64) / 64)
    let met := cws.filter (fun w => isBad w && !(x.kind == 1 && whole w))
    let report := met.map (fun w => devAddr x.pen (w * 64))
    let d := d.stackErr s 2 met.length
    let old := overlay x.off (d.penRead x.pen x.off n) words
    if x.kind = 0 then ({ data := old, poison := report }, d)
    else
      let (new, wraps, nans) := if x.kind = 1 then (x.data, 0, 0) else atomicBytesOp x.atomic n old x.data
      let d := cws.foldl (fun d w =>
        if met.contains w then d
        else
          let lo := max x.off (w * 64)
          let hi := min (x.off + n) (w * 64 + 64)
          d.penWrite x.pen lo (slice new (lo - x.off) (hi - lo))) d
      let g := grazeOf x.pen
      let d := d.errAdd g 64 8 wraps
      let d := d.errAdd g 64 9 nans
      let d := d.perfAdd g 63 9 2 (if x.kind = 2 then 1 else 0)
      ({ poison := report }, d)

/-- An access of `n` bytes at pen offset `off`, split at 256-byte boundaries (R199), for core (die, core): read when `data` is
none, else written or applied. `fuel` bounds the transfers. -/
def Dev.access (d : Dev) (die core pen atomic : Nat) (high : Bool) (errs : List (Nat × Nat)) :
    Nat → Nat → Nat → Option (List Byte) → StackReply × Dev
  | 0, _, _, _ => ({}, d)
  | fuel + 1, off, n, data =>
    if n = 0 then ({}, d)
    else
      let m := min n (256 - off % 256)
      let x : StackReq :=
        { requester := requesterOf die core pen, high, die, core, pen, off, size := m
          kind := if data.isNone then 0 else if atomic = 0 then 1 else 2
          atomic, data := (data.getD []).take m, errs }
      let (r, d) := (d.grantAlone x).transfer x
      if r.denied then (r, d)
      else
        let (r2, d) := Dev.access d die core pen atomic high errs fuel (off + m) (n - m) (data.map (fun b => b.drop m))
        ({ data := r.data ++ r2.data, poison := r.poison ++ r2.poison, denied := r2.denied }, d)

/-- Bytes of pen `pen` read by agent (die, 63), and the poisoned addresses met (R202, R209, R214). -/
def Dev.agentRead (d : Dev) (die pen off n : Nat) : StackReply × Dev := d.access die 63 pen 0 false [] (n / 256 + 2) off n none

/-- Bytes written in pen `pen` by agent (die, 63) (R209, R214). -/
def Dev.agentWrite (d : Dev) (die pen off : Nat) (bs : List Byte) : Dev :=
  (d.access die 63 pen 0 false [] (bs.length / 256 + 2) off bs.length (some bs)).2

/-! The arbiter (R209 to R212). -/

/-- After a loss, a requester's standing (R212). -/
def Backoff.lose (b : Backoff) (cycle : Nat) : Backoff :=
  match b.aged with
  | some _ => { b with next := cycle + 1 }
  | none =>
    let c := if b.count = 0 then 1 else min (2 * b.count) 128
    if c = 128 then { count := 128, next := cycle + 128, aged := some cycle } else { count := c, next := cycle + c, aged := none }

/-- The request that a lane grants (R211), among candidates of one class: the one that aged earliest, else the first in index
order after the last granted. -/
def pickRequest (l : Lane) (last : Nat) (cs : List StackReq) : Option StackReq :=
  let age (x : StackReq) : Option Nat := (Tab.getD l.backoff x.requester {}).aged
  let best (a b : Option StackReq) : Option StackReq := match a with
    | none => b
    | some x => match b with
      | none => a
      | some y =>
        match age x, age y with
        | some p, some q => if q < p || (q = p && y.requester < x.requester) then b else a
        | some _, none => a
        | none, some _ => b
        | none, none =>
          let dist (r : Nat) : Nat := (r + 86 - last % 43 - 1 + (if last = 43 then 1 else 0)) % 43
          if dist y.requester < dist x.requester then b else a
  cs.foldl (fun a x => best a (some x)) none

/-- Poisoned addresses met by core `k` (R432). -/
def Dev.metPoison (d : Dev) (k : Nat) (l : List Nat) : Dev :=
  if l.isEmpty then d else d.modCore k (fun c => { c with poison := c.poison ++ (l.filter (fun a => !c.poison.any (fun q => q.1 == a))).map (fun a => (a, d.beat.now)) })

/-- Transfers of pseudo-channels of stack `s` end: index and number (R209). -/
def Dev.pcDrained (d : Dev) (s : Nat) (l : List (Nat × Nat)) : Dev :=
  l.foldl (fun d q => if q.1 < 64 then d.modPc s q.1 (fun x => { x with queued := x.queued - q.2 }) else d) d

/-- A granted transfer takes a place in its pseudo-channel's queue, unless the Fold alone serves it (R209, R213). -/
def Dev.pcQueue (d : Dev) (s : Nat) (x : StackReq) : Dev :=
  if (d.stack s).hit (x.off / 256) || (x.kind == 1 && reqBytes x == 256) then d
  else d.modPc s (hashQ (x.off / 256) % 64) (fun y => { y with queued := y.queued + 1 })

/-- Poison that a transfer met is reported to its requester: a core, or the debug port with the data of its read (R202, R209, R432). -/
def Dev.stackReply (d : Dev) (x : StackReq) (r : StackReply) : Dev :=
  let d := if isCompute x.die && x.core < coresOf x.die then d.metPoison (coreKey x.die x.core) r.poison else d
  if x.kind = 0 && x.core = 63 then d.emit (.debugRead x.die x.off r.data r.poison) else d

/-- One cycle of lane `k` of stack `s` (R211): the grant is served, and every other candidate receives BACKOFF. `drained` gives the
transfers that the pseudo-channels have ended since the last. -/
def stackTransfer (d : Dev) (s k cycle : Nat) (drained : List (Nat × Nat)) (reqs : List StackReq) : Dev :=
  let d := d.pcDrained s drained
  let l := Tab.getD (d.stack s).lanes k {}
  let l := if l.window = cycle / 64 then l else { l with window := cycle / 64, used := 0 }
  let room (x : StackReq) : Bool := (Tab.getD (d.stack s).pcs (hashQ (x.off / 256) % 64) {}).queued < 32
  let mine := reqs.filter (fun x =>
    x.requester < 43 && x.pen < 16 && stackOf x.pen x.off == s && hashQ (x.off / 256) % 8 == k && reqFits x && room x)
  let cands := mine.filter (fun x => (Tab.getD l.backoff x.requester {}).next ≤ cycle)
  let cls := l.used < 24 && cands.any reqClass
  let pool := cands.filter (fun x => reqClass x == cls)
  match pickRequest l (if cls then l.lastHigh else l.lastNormal) pool with
  | none => d.modStack s (fun t => { t with lanes := Tab.put t.lanes k l })
  | some g =>
    let aged := (Tab.getD l.backoff g.requester {}).aged.isSome
    let losers := cands.filter (fun x => x.requester != g.requester && (reqClass x == cls || l.used < 24 || !reqClass x))
    let l := losers.foldl (fun l x => { l with backoff := Tab.put l.backoff x.requester ((Tab.getD l.backoff x.requester {}).lose cycle) })
      (l.grant g.requester cls)
    let d := d.modStack s (fun t => { t with lanes := Tab.put t.lanes k l })
    let d := d.stackPerf s 2 losers.length
    let d := d.stackPerf s 3 aged.toNat
    let (r, e) := (d.pcQueue s g).transfer g
    e.stackReply g r

end Sys2Proof.Machine
end

