-- ==== Sys2Proof/Machine/Links.lean ====
section
/-! DEFINITION. Stile links: training, receiving and repeating flits, delivery of messages, lane repair, and going down
(R256 to R258, R263 to R282, R387). -/

namespace Sys2Proof.Machine

open Sys2Proof

/-! Widths (R257, R280). -/

/-- The widest of 64, 32 and 16 lanes within a limit; 0 when there is none. -/
def widthWithin (n : Nat) : Nat := if 64 ≤ n then 64 else if 32 ≤ n then 32 else if 16 ≤ n then 16 else 0

/-- The width of a direction of link `l` with the lanes of mask `out` mapped out and the far end's limit `far` (R257). -/
def Dev.widthOf (d : Dev) (l out far : Nat) : Nat := widthWithin (min (d.key (kLinkWidth + l)) (min far (66 - popCount out 66)))

/-- The slice table that the keys of link `l` name (R272). -/
def Dev.sliceKeys (d : Dev) (l : Nat) : Nat := d.key (kSlicesLo + l) % 2 ^ 64 + d.key (kSlicesHi + l) % 2 ^ 64 * 2 ^ 64

/-! Down (R282). -/

/-- What waits to leave link `l` is discarded, and messages that were coming by it end where they are (R282). -/
def Dev.dropMessages (d : Dev) (l : Nat) : Dev :=
  let d := (d.link l).queue.foldl (fun d q => q.2.foldl (fun d m => m.flits.foldl (fun d _ => Dev.freeEntry d m.inn) d) d) d
  { d with links := Tab.mapV d.links (fun k x =>
      { x with
        queue := if k = l then [] else Tab.mapV x.queue (fun _ q =>
          (q.map (fun m => if m.inn.map Prod.fst = some l then { m with inn := none, more := false } else m)).filter
            (fun m => m.more || !m.flits.isEmpty)) }) }

/-- Link `l` goes down in both directions: what its stores hold is discarded, `LINK_DOWN` is raised, and a package that followed
its markers enters HOLDOVER (R282). -/
def Dev.goDown (d : Dev) (l : Nat) : Dev :=
  if (d.link l).st ≠ .up then d
  else
    let d := (d.dropMessages l).modLink l (fun x =>
      { x with
        st := .down, txWidth := 0, rxWidth := 0, txLanes := [], rxLanes := [], txPause := false, rxPause := false, bypass := false
        store := [], again := [], replay := [], parts := [], turns := [], nak := none, nakDue := false, from_ := false, rxFail := []
        markerDue := none, ctlDue := false })
    (d.notice 0x002A (gateOf l) 63 31 l).beatLost l

/-- A direction of link `l` cannot resume (R282). -/
def linkDown (d : Dev) (l : Nat) : Dev := if l < 6 then d.goDown l else d

/-! Training (R279). -/

/-- `LINK_TRAIN` (R279, R387). -/
def svcLinkTrain (d : Dev) (c : Door) : Svc := do
  checkHeader c 8 [(0, [255, 1])]
  pfOnly c
  notStopped d
  inRange c 0 1 0 5
  let l := dp c 0 1
  refuseIf ((d.link l).st == .training) sBusy 0xFFFF
  handleRoom d c.func
  let d := d.goDown l
  let (h, d) := d.newHandle c.func c.tag (.linkTrain l)
  pure ({ handle := h }, d.modLink l (fun x =>
    { x with st := .training, handle := h, ask := dp c 1 1 == 1, bypass := false, reach := d.key (kReach + l) }))

/-- The command `LINK_TRAIN`. -/
def linkTrain (d : Dev) (c : Door) : Dev := d.serve c 0x0801 svcLinkTrain

/-- Training of link `l` fails in phase `phase` (R279, R387). -/
def Dev.trainFailed (d : Dev) (l phase status : Nat) : Dev :=
  let h := (d.link l).handle
  (d.modLink l (fun x => { x with st := .down, handle := 0 })).finish h status [phase, 0]

/-- Lanes whose error ratio fails the limit of 2.4 × 10^-4 (R262). -/
def berBad (bs : List (Nat × Nat)) : List Nat := (bs.filter (fun b => 24000000000 < b.2)).map Prod.fst

/-- The ratios of the lanes not mapped out by `out` allow bypassing FEC: at most 10^-13 (R263). -/
def berClean (out : Nat) (bs : List (Nat × Nat)) : Bool := bs.all (fun b => bit out b.1 || decide (b.2 ≤ 10))

/-- `LINK_TRAINING_DONE`: training of link `l` ends (R256, R257, R260, R263, R271, R272, R279). -/
def linkTrainingDone (d : Dev) (l : Nat) (t : LinkFacts) : Dev :=
  let x := d.link l
  if x.st ≠ .training then d
  else if t.phase ≠ 0 then d.trainFailed l (t.phase % 8) sAborted
  else
    let txOut := maskOf ((t.txBad ++ berBad t.txBer).filter (· < 66))
    let rxOut := maskOf ((t.rxBad ++ berBad t.rxBer).filter (· < 66))
    let tw := d.widthOf l txOut t.txFar
    let rw := d.widthOf l rxOut t.rxFar
    if tw = 0 || rw = 0 then d.trainFailed l 4 sAborted
    else
      let clean := berClean txOut t.txBer && berClean rxOut t.rxBer
      let d := d.modLink l (fun x =>
        { ({} : Link) with
          st := .up, ask := x.ask, bypass := x.reach == 0 && x.ask && clean && !x.forced, forced := x.forced
          reach := x.reach, rtt := t.rtt, txOut, rxOut, txWidth := tw, rxWidth := rw
          txLanes := lanesOf txOut tw, rxLanes := lanesOf rxOut rw
          txEq := t.txEq.map (TxEq.within x.reach), rxEq := t.rxEq.map (RxEq.within x.reach)
          slices := d.sliceKeys l, farSlices := t.farSlices })
      (d.emit (.linkUp l)).finish x.handle sOk [0, tw + rw * 256]

/-- The far end has not come within 2 s (R279). -/
def linkTrainTimeout (d : Dev) (l : Nat) : Dev := if (d.link l).st = .training then d.trainFailed l 1 sTimeout else d

/-- `LINK_QUERY` (R387). -/
def svcLinkQuery (d : Dev) (c : Door) : Svc := do
  checkHeader c 8 [(0, [255])]
  inRange c 0 1 0 5
  let l := dp c 0 1
  let x := d.link l
  let st := match x.st with
    | .down => 0
    | .training => 1
    | .up => if x.txWidth < d.key (kLinkWidth + l) || x.rxWidth < d.key (kLinkWidth + l) then 3 else 2
  pure ({ res := [st + x.txWidth * 2 ^ 8 + x.rxWidth * 2 ^ 16 + x.reach % 4 * 2 ^ 24 + x.bypass.toNat * 2 ^ 26, x.rtt,
                  x.rxOut % 2 ^ 64, fld x.rxOut 64 2] }, d)

/-- The command `LINK_QUERY`. -/
def linkQuery (d : Dev) (c : Door) : Dev := d.serve c 0x0802 svcLinkQuery

/-- `ROUTE_SET` (R274, R387): its range table is then read from the host. -/
def svcRouteSet (d : Dev) (c : Door) : Svc := do
  checkHeader c 16 [(0, [255, 15, 63, 7, 255, 15]), (8, List.replicate 8 255)]
  pfOnly c
  notStopped d
  let addr := dp c 0 2
  let sizes := dp c 2 1
  refuseIf ((List.range 3).any (fun i => coord addr i > fld sizes (2 * i) 2)) sInvalid (pOff 0)
  refuseIf ((List.range 6).any (fun i => fld (dp c 4 2) (2 * i) 2 == 3)) sInvalid (pOff 4)
  aligned64 c 8
  refuseIf (d.groups.any (fun g => g.2.exists_ && g.2.spans && !g.2.left && !g.2.stopped)) sConflict 0xFFFF
  handleRoom d c.func
  let (h, d) := d.newHandle c.func c.tag (.routeSet addr sizes (dp c 3 1) (dp c 4 2))
  pure ({ handle := h }, d.emit (.hostRead c.func (dp c 8 8) 256 h))

/-- The command `ROUTE_SET`. -/
def routeSet (d : Dev) (c : Door) : Dev := d.serve c 0x0803 svcRouteSet

/-- The range table of a `ROUTE_SET` has been read: the routes apply at every Gate die (R274). -/
def Dev.routeApply (d : Dev) (h addr sizes wraps roles : Nat) (bs : List Byte) : Dev :=
  { d with
    route := { loaded := true, addr, sizes, wraps, roles, table := (List.range 64).map (fun i => rdLE bs (4 * i) 4) } }.finish h sOk []

/-! Sending again (R268). -/

/-- Data flits of link `l` are to be repeated: those of the store that satisfy `p`, in order. -/
def Dev.resend (d : Dev) (l : Nat) (p : Nat → Bool) : Dev :=
  if (d.link l).st ≠ .up then d
  else (d.modLink l (fun x => { x with again := (x.store.map Prod.fst).filter p })).pumpLink l

/-- Number `n` comes at or after `a` in a sequence of 2^24. -/
def seqGe (n a : Nat) : Bool := (n + 2 ^ 24 - a) % 2 ^ 24 < 2 ^ 23

/-- A control flit arrives (R267, R268, R281): its ACK, its credits, its NAK and its request for a pause. -/
def Dev.takeControl (d : Dev) (l : Nat) (body : List Byte) : Dev :=
  let ack := rdLE body 0 3
  let nak := rdLE body 3 3
  let flags := rdLE body 6 1
  let d := d.modLink l (fun x =>
    { x with
      store := x.store.filter (fun f => !seqGe ack f.1)
      credit := (List.range 16).foldl (fun t v => Tab.put t v (rdLE body (8 + 4 * v) 4)) x.credit })
  let d := if bit flags 2 then d.pauseTx l else d
  let d := if bit flags 0 then d.resend l (fun n => if bit flags 1 then seqGe n nak else n == nak) else d
  d.pumpLink l

/-- The oldest held flit of link `l` has waited twice the round trip and 1 µs (R268). -/
def stileRetransmitTimeout (d : Dev) (l : Nat) : Dev := d.resend l (fun _ => true)

/-! Receiving (R264 to R268, R273). -/

/-- A NAK of link `l` falls due: SINGLE, or FROM (R267, R268). -/
def Dev.sendNak (d : Dev) (l : Nat) (from_ : Bool) : Dev :=
  (d.modLink l (fun x => { x with nak := some from_, from_ := false, nakDue := true })).pumpLink l

/-- A NAK of link `l` has had no answer in time: it is sent again as FROM (R268). -/
def stileNakTimeout (d : Dev) (l : Nat) : Dev :=
  if (d.link l).st = .up && (d.link l).nak.isSome then d.sendNak l true else d

/-- The image of this package that holds a sound block `b` with check value `crc` (R435). -/
def Dev.peerImage (d : Dev) (b crc : Nat) : Option Image :=
  d.pastures.findSome? (fun q => (q.2.images.find? (fun i =>
    i.2.ready && !i.2.lost && !i.2.tainted.contains b && i.2.crcs[b]? == some crc)).map Prod.snd)

/-- A peer asks for an image block by its number and check value: it goes out as bulk data where an image here has it (R435). -/
def Dev.answerPeer (d : Dev) (src : Nat) (data : List Byte) : Dev :=
  let b := rdLE data 0 4
  match d.peerImage b (rdLE data 4 4) with
  | some i =>
    let (x, d) := d.agentRead 18 i.pen (i.off + 4096 * b) (min 4096 (i.len - 4096 * b))
    d.sendMsg src 5 18 63 0 0 reseedTag (reseedTag + tagLast) 1 (data.take 8 ++ x.data)
  | none => d

/-- A whole message for this package has come on link `l` (R273). An exchange or reduction message that no loaded show binds is discarded
as one that no link takes (R355, log 134). -/
def Dev.messageIn (d : Dev) (l : Nat) (bs : List Byte) : Dev :=
  let dst := rdLE bs 0 8
  let rest := leNat (slice bs 8 24)
  let m : StileMsg := { kind := fld dst 12 4, gate := gateOf l, src := fld dst 16 12, die := fld dst 48 6, core := fld dst 54 6
                        chan := fld rest 0 12, step := fld rest 16 64, tag := fld rest 80 32, data := bs.drop 32 }
  if m.kind = 6 && fld m.tag 0 31 = reseedTag then d.answerPeer m.src m.data
  else if 3 < m.kind then d.emit (.stileMsg l bs)
  else if d.binds m then { d with inbox := d.inbox ++ [m] }
  else d.linkErr l 4 1

/-- A message header with a reserved MKIND, a reserved field that is not 0, or a Race message of a reserved TAG kind (R273, R327). -/
def badHeader (body : List Byte) : Bool :=
  let dst := rdLE body 0 8
  let rest := leNat (slice body 8 24)
  let kind := fld dst 12 4
  7 ≤ kind || fld dst 28 4 != 0 || fld dst 60 4 != 0 || fld rest 12 4 != 0 || fld rest 112 80 != 0 ||
    (kind == 4 && (fld rest 108 4 == 0 || decide (5 < fld rest 108 4)))

/-- The head flit of a message has come on virtual channel `v` of link `l`: where the message goes, and on which VC (R273 to R276, R431). -/
def Dev.startMsg (d : Dev) (l v : Nat) (body : List Byte) : RxMsg × Dev :=
  let dst := rdLE body 0 8
  let n := cdiv (fld dst 32 16 + 33) 256
  if badHeader body then ({ goes := 7, left := n }, d.linkErr l 3 1)
  else if d.power.st = .withdrawn then ({ goes := 7, left := n }, d)
  else match d.route.hop (fld dst 0 12) (some l) v with
    | .here => ({ goes := 6, left := n }, d)
    | .lost => ({ goes := 7, left := n }, d.unroutable l (fld dst 0 12) d.route.loaded)
    | .link k upper dl =>
      if (d.link k).st != .up then ({ goes := 7, left := n }, d.unroutable k (fld dst 0 12) true)
      else ({ goes := k, vc := vcPair (fld dst 12 4) upper + dl.toNat, left := n }, d)

/-- Flits of link `l` that turn are handed to the router of its Gate die, as far as the local port has room: exchange data for the Gate die
of the link by which they leave (R243, R275; log entry 139). -/
def Dev.pumpTurns (d : Dev) (l : Nat) : Nat → Dev
  | 0 => d
  | n + 1 => match (d.link l).turns with
    | [] => d
    | t :: rest =>
      let h := turnTag l t.inVc t.goes t.vc t.ft t.last + 5 * 2 ^ 47 + 3 * 2 ^ 52 + 63 * 2 ^ 54 + gateOf l * 2 ^ 60 + gateOf t.goes * 2 ^ 66
      if d.mwRoom (gateOf l) 4 6 2 then
        Dev.pumpTurns ((d.modLink l (fun x => { x with turns := rest })).mwInject (gateOf l) h (leNat t.body) true) l n
      else d

/-- The links of Gate die `die` hand their turning flits to its router. -/
def Dev.moveTurns (d : Dev) (die : Nat) : Dev :=
  ((List.range 6).filter (fun l => gateOf l == die)).foldl (fun d l => Dev.pumpTurns d l ((d.link l).turns.length + 1)) d

/-- `MIDWAY_FLIT_RECEIVE`: a flit comes to a router (R240 to R248); at a Gate die, flits that turn may follow. -/
def midwayFlitReceive (d : Dev) (die q h data errs : Nat) (pair : Bool) : Dev := (d.mwReceive die q h data errs pair).moveTurns die

/-- `MIDWAY_RETRAIN`: a port has tested its wires within its pause in service, and traffic resumes (R252, R253). -/
def midwayRetrain (d : Dev) (die q : Nat) (outM inM : List WireMargin) : Dev := (d.mwRetrain die q outM inM).moveTurns die

/-- A flit of message `m`, which comes on virtual channel `v` of link `l`, is taken: it is discarded, kept for this package, or goes on by a
link of the same Gate die or over the Midway to another one (R271, R273, R275). -/
def Dev.feedMsg (d : Dev) (l v : Nat) (m : RxMsg) (ft : Nat) (body : List Byte) : Dev :=
  let m := { m with left := m.left - 1, bytes := if m.goes = 6 then m.bytes ++ body else [] }
  let last := m.left == 0
  let d := d.modLink l (fun x => { x with parts := if last then Tab.del x.parts v else Tab.put x.parts v m })
  if m.goes = 7 then d.freeEntry (some (l, v))
  else if m.goes = 6 then
    let d := d.freeEntry (some (l, v))
    if last then d.messageIn l (m.bytes.take (fld (rdLE m.bytes 0 8) 32 16 + 33)) else d
  else if gateOf m.goes = gateOf l then d.queueFlit m.goes m.vc (l, v) ft body last
  else (d.modLink l (fun x => { x with turns := x.turns ++ [{ goes := m.goes, vc := m.vc, ft, last, inVc := v, body }] })).moveTurns (gateOf l)

/-- A data flit is delivered in sequence (R268, R273): a head begins a message, and a body flit goes to the message of its VC; one that
belongs to none is discarded. -/
def Dev.deliverFlit (d : Dev) (l : Nat) (f : List Byte) : Dev :=
  let v := rdLE f 256 1 % 16
  let body := f.take 256
  let d := (d.linkPerf l 1 1).modLink l (fun x => { x with rxSeq := (x.rxSeq + 1) % 2 ^ 24 })
  if rdLE f 256 1 / 16 = 1 then
    let s := d.startMsg l v body
    s.2.feedMsg l v s.1 1 body
  else match Tab.get? (d.link l).parts v with
    | some m => d.feedMsg l v m 2 body
    | none => d.freeEntry (some (l, v))

/-- The held flits are delivered while they run on; `n` bounds them (R268). -/
def Dev.deliverHeld (d : Dev) (l : Nat) : Nat → Dev
  | 0 => d
  | n + 1 =>
    let x := d.link l
    match x.replay.find? (fun f => f.1 == x.rxSeq) with
    | none => d
    | some f => Dev.deliverHeld ((d.modLink l (fun x => { x with replay := x.replay.filter (fun g => g.1 != f.1) })).deliverFlit l f.2) l n

/-- A flit shows that the expected one is missing: NAK SINGLE, unless one is outstanding (R268). -/
def Dev.gap (d : Dev) (l : Nat) : Dev := if (d.link l).nak.isSome then d else d.sendNak l (d.link l).from_

/-- An intact data flit numbered `n` arrives (R268). -/
def Dev.dataFlit (d : Dev) (l n : Nat) (f : List Byte) : Dev :=
  let x := d.link l
  if n = x.rxSeq then
    let d := (d.deliverFlit l f).deliverHeld l 65
    let y := d.link l
    let d := d.modLink l (fun x => { x with nak := none })
    if x.nak.isSome && y.from_ then d.sendNak l true
    else if y.replay.isEmpty then d else d.sendNak l false
  else
    let held := x.replay.any (fun g => g.1 == n)
    let last := x.replay.foldl (fun m g => if seqGe g.1 m then g.1 else m) x.rxSeq
    let further := x.nak.isSome && n != (last + 1) % 2 ^ 24
    if held then d
    else if 64 ≤ x.replay.length || further then d.modLink l (fun x => { x with from_ := true })
    else (d.modLink l (fun x => { x with replay := x.replay ++ [(n, f)] })).gap l

/-- A flit of link `l` fails its CRC; the sixteenth with FEC bypassed within 2^20 beats forces FEC from the next training on
(R263, R265). -/
def Dev.badCrc (d : Dev) (l : Nat) : Dev :=
  let d := d.linkErr l 1 1
  let x := d.link l
  if !x.bypass || x.forced then d
  else
    let cs := x.crcs.filter (fun b => beatAhead b d.beat.now < 2 ^ 20) ++ [d.beat.now]
    let d := d.modLink l (fun x => { x with crcs := cs, forced := 16 ≤ cs.length })
    if 16 ≤ cs.length then d.notice 0x002B (gateOf l) 63 31 l else d

/-- Codewords with errors have come on link `l`: the decoder corrects up to 15 symbols of each, and what it cannot correct stays in the
stream; with FEC bypassed nothing is corrected (R262, R263). -/
def Dev.takeWords (d : Dev) (l : Nat) (ws : List (Nat × Nat × Nat)) : Dev :=
  let bypass := (d.link l).bypass
  ws.foldl (fun d w =>
    let r := if bypass then (w.2.2, [], false) else decodeErrs w.2.2
    let left := r.1 % 2 ^ 5140
    ((d.linkPerf l 5 r.2.1.length).linkErr l 0 r.2.2.toNat).modLink l (fun x =>
      { x with
        laneFec := r.2.1.foldl (fun t k => Tab.mod t (8 * w.1 + k % 8) 0 (· + 1)) x.laneFec
        rxErrs := if left = 0 then x.rxErrs else x.rxErrs ++ [(w.1, w.2.1, left)] })) d

/-- Receivers of link `l` have adapted (R260), and codewords that end before flit slot `slot` are behind it. -/
def Link.settle (x : Link) (slot : Nat) (es : List RxEq) : Link :=
  let n := groupsOf x.rxLanes.length
  { x with
    rxEq := es.foldl (fun l e => l.filter (fun o => o.lane != e.lane) ++ [RxEq.within x.reach e]) x.rxEq
    rxErrs := x.rxErrs.filter (fun e => decide ((wordPlace (8 * (262 * slot / max n 1))).1 ≤ e.2.1)) }

/-- `STILE_FLIT_RECEIVE`: a flit of 262 bytes comes on link `l`, sent as `f` (R261 to R268). -/
def stileFlitReceive (d : Dev) (l : Nat) (f : List Byte) (x : StileFacts) : Dev :=
  if (d.link l).st ≠ .up then d
  else
    let d := d.takeWords l x.words
    let f := streamErrs (d.link l).rxErrs (groupsOf (d.link l).rxLanes.length) (262 * x.slot) f
    let d := d.modLink l (fun y => y.settle (x.slot + 1) x.rxEq)
    let e := (d.link l).rxSeq
    let n := (e + (rdLE f 257 1 + 256 - e % 256) % 256) % 2 ^ 24
    let ft := rdLE f 256 1 / 16
    if f.length ≠ 262 || rdLE f 258 4 ≠ flitCrc n (f.take 258) then d.badCrc l
    else if 6 ≤ ft then d.linkErr l 3 1
    else if ft = 1 || ft = 2 then d.dataFlit l n f
    else
      let d := if n = e then d else d.gap l
      if ft = 3 then d.takeControl l (f.take 256) else d

/-- `STILE_CONTROL_DUE`: `idle` idle flits leave link `l`, and a control flit once 1,024 slots have passed since the last (R266). -/
def stileControlDue (d : Dev) (l idle : Nat) : Dev :=
  if (d.link l).st = .up && !(d.link l).txPause then (d.sendIdles l idle).pumpLink l else d

/-! Lane repair (R280, R281). -/

/-- Lane `lane` of link `l`'s receiving direction fails: the direction asks for the repair pause, or is down below 16 lanes
(R280 to R282). -/
def laneFailure (d : Dev) (l lane : Nat) : Dev :=
  let x := d.link l
  if x.st ≠ .up || !x.rxLanes.contains lane || x.rxFail.contains lane then d
  else
    let d := d.modLink l (fun x => { x with rxFail := x.rxFail ++ [lane], rxPause := true, ctlDue := true })
    if 66 - popCount x.rxOut 66 < 16 + (x.rxFail.length + 1) then d.goDown l else d.pumpLink l

/-- Lanes mapped out in service are recorded (R280): spares taken, or the direction narrowed from `old` to `new`. -/
def Dev.laneRecords (d : Dev) (l dir old new : Nat) (lanes : List Nat) : Dev :=
  let d := d.linkErr l 5 lanes.length
  if lanes.isEmpty then d
  else if new < old then (d.linkErr l 6 1).notice 0x0029 (gateOf l) 63 31 (l + dir * 2 ^ 3 + lanes.getLastD 0 * 2 ^ 4 + new * 2 ^ 11)
  else lanes.foldl (fun d n => d.record 0x0028 (gateOf l) 63 dRecovered 5 31 0 (l + dir * 2 ^ 3 + n * 2 ^ 4)) d

/-- `REPAIR_PAUSE_END`: ALIGN completes with the new lane map in a direction of link `l`: for the transmit direction, `lanes` are those that
the far end has mapped out and `slices` is the far end's table; `far` is its limit on the width. The stream's codewords begin anew, and
the receiver asks for what was in flight with a NAK FROM (R281). -/
def repairPauseEnd (d : Dev) (l : Nat) (tx : Bool) (lanes : List Nat) (far slices : Nat) : Dev :=
  let x := d.link l
  if x.st ≠ .up || !(if tx then x.txPause else x.rxPause) then d
  else
    let old := if tx then x.txOut else x.rxOut
    let now := (if tx then lanes.filter (· < 66) else x.rxFail).filter (fun n => !bit old n)
    let out := old ||| maskOf now
    let w := d.widthOf l out far
    if w = 0 then d.goDown l
    else
      let d := d.laneRecords l (if tx then 0 else 1) (if tx then x.txWidth else x.rxWidth) w now
      let s := d.sliceKeys l
      let d := d.modLink l (fun x =>
        if tx then
          { x with txOut := out, txWidth := w, txLanes := lanesOf out w, txPos := 0, txCode := [], txPause := false, slices := s, farSlices := slices }
        else { x with rxOut := out, rxWidth := w, rxLanes := lanesOf out w, rxErrs := [], rxPause := false, rxFail := [], slices := s })
      if tx then d.pumpLink l else d.sendNak l true

/-- A commit changes the width or the slices of link `l`: both directions take the pause (R257, R272, R281). -/
def Dev.pauseLink (d : Dev) (l : Nat) : Dev :=
  if (d.link l).st = .up then ((d.modLink l (fun x => { x with rxPause := true, ctlDue := true })).pumpLink l).pauseTx l else d

end Sys2Proof.Machine
end

