-- ==== Sys2Proof/Machine/Power.lean ====
section
/-! DEFINITION. The governor, BRACE and thermal responses (R394, R395, R456 to R464). -/

namespace Sys2Proof.Machine

open Sys2Proof

/-- Ceiling of a `CLOCK` setting, in units of 0.1 GHz (R23, R394). -/
def clockFreq (c : Nat) : Nat := if c = 0 then 11 else if c = 1 then 15 else 18

/-- TDP of a `CLOCK` setting, in W (R23, R24). -/
def clockTdp (c : Nat) : Nat := if c = 0 then 3300 else if c = 1 then 4600 else 5300

/-- The effective cap *E* without BRACE or a thermal response, in eighths of a watt (R394). -/
def Power.baseCap (p : Power) : Nat := 8 * min p.capInForce (clockTdp p.clockInForce)

/-- What BRACE set on entry is in force: until R460 ends BRACE, and so in the HALTED that follows it (R458, R460, R461). -/
def Power.braced (p : Power) : Bool := p.st == .brace || p.st == .halted

/-- The effective cap *E* in force, in eighths of a watt: the smallest that a state in force sets (R458, R462, R464). -/
def Power.cap (p : Power) : Nat :=
  let e := if p.hotCap then min p.baseCap (p.baseCap * 3 / 4) else p.baseCap
  if p.braced then min e p.braceCap else e

/-- The ceiling in force (R394, R458, R464). -/
def Power.ceiling (p : Power) : Nat :=
  let c := clockFreq p.clockInForce
  let c := if p.braced then min c 11 else c
  if p.hot105 then min c 6 else c

/-- The frequency of the highest `CLOCK` setting whose TDP does not exceed the cap, 1.1 GHz when none does (R395). -/
def Power.capFreq (p : Power) : Nat :=
  if 8 * 5300 ≤ p.cap then 18 else if 8 * 4600 ≤ p.cap then 15 else 11

/-- A change of what *E* and the ceiling rest on: the count restarts, and a fall acts at once (R395). -/
def Power.change (p : Power) (f : Power → Power) : Power :=
  let q := f p
  if q.cap = p.cap ∧ q.ceiling = p.ceiling then q
  else
    let q := { q with govCount := 0 }
    let q := if q.ceiling < p.ceiling then { q with freq := min q.freq q.ceiling } else q
    if q.cap < p.cap ∧ q.cap < 8 * q.avg then { q with freq := min q.freq q.capFreq } else q

/-- One evaluation of the governor on the 1 ms average `w` in watts (R395). -/
def Power.evaluate (p : Power) (w : Nat) : Power :=
  let p := { p with avg := w }
  if p.cap < 8 * w ∧ 6 < p.freq then { p with freq := p.freq - 1, govCount := 0 }
  else if 800 * w < 95 * p.cap ∧ p.freq < p.ceiling then
    if p.govCount + 1 = 10 then { p with freq := p.freq + 1, govCount := 0 } else { p with govCount := p.govCount + 1 }
  else { p with govCount := 0 }

/-- The governor sets a frequency: in RUN, and in a BRACE that was entered from it; in start-up no core frequency is set yet (R394, R458,
R469). -/
def Power.governs (p : Power) : Bool := p.st == .run || (p.st == .brace && p.braceFrom == .run)

/-- The governor's evaluation each millisecond: at 0.6 GHz above the cap for ten in a row, `POWER_CAP_UNMET` (R395). -/
def governorEvaluation (d : Dev) (w vinCv : Nat) : Dev :=
  if d.power.governs then
    let ovr := d.power.freq == 6 && d.power.cap < 8 * w
    let p := { d.power.evaluate w with vinCv := vinCv % 2 ^ 16 }
    let n := if ovr then min (d.power.overCount + 1) 10 else 0
    let fire := n == 10 && !d.power.unmet
    let d := { d with power := { p with overCount := n, unmet := if ovr then d.power.unmet || fire else false } }
    if fire then d.notice 0x004C 63 63 31 (d.power.cap / 8) else d
  else d

/-- `POWER_CAP` and `CLOCK` act, unless BRACE keeps them from acting (R41, R396, R458). -/
def Dev.applyCap (d : Dev) (cap clock : Nat) : Dev :=
  if d.power.st == .brace then d
  else { d with power := d.power.change (fun p => { p with capInForce := cap, clockInForce := clock }) }

/-- A power-cap entry of the master Calendar fires: *E* takes the new cap (R41, R395). -/
def powerCapChange (d : Dev) (cap : Nat) : Dev :=
  match d.cal.find? (fun e => e.action == 7 && e.beat == d.beat.now && e.arg == cap) with
  | none => d
  | some _ =>
    let d := d.calDrop (fun e => e.action == 7 && e.beat == d.beat.now && e.arg == cap)
    d.applyCap cap d.power.clockInForce

/-! BRACE (R458, R460, R461). -/

/-- Instructions of the test access port that no longer meet their condition execute as BYPASS: those that touch a land, or those
that need `ZT_RESET_N` low (R485). -/
def Tap.drop (t : Tap) (all : Bool) : Tap :=
  if t.ir = 0x01 || (t.ir == 0x02 && !all) then t else { t with runs := 0xFF }

/-- The main supply is above 43.0 V again: SAMPLE/PRELOAD executes where it is loaded (R485). -/
def Tap.powered (t : Tap) : Tap := if t.ir == 0x02 then { t with runs := 0x02 } else t

/-- The main supply falls below 42.0 V: in STARTING or RUN the package enters BRACE; within one dip the timer runs on (R458,
R460, R462, R485). -/
def uvWarn (d : Dev) (mv : Nat) : Dev :=
  let d := { d with tap := d.tap.drop true }
  match d.power.st with
  | .starting | .run =>
    { d with power := d.power.change (fun p =>
        { p with st := .brace, braceFrom := p.st, dip := true, haltDue := false, dipMin := mv, braceCap := p.cap / 2 }) }
  | .brace => { d with power := { d.power with dipMin := min d.power.dipMin mv } }
  | _ => d

/-- The supply rises above 43.0 V before the dip timer reaches 10 ms: BRACE ends with `SUPPLY_DIP` (R460); after that the halt
proceeds (R462). -/
def uvWarnClear (d : Dev) (minMv durUs : Nat) : Dev :=
  let d := { d with tap := d.tap.powered }
  if d.power.st == .brace && d.power.dip && !d.power.haltDue then
    let low := min d.power.dipMin minMv
    let d := { d with power := d.power.change (fun p =>
      { p with
        st := p.braceFrom, dip := false, braceCap := 0
        capInForce := d.key kPowerCap, clockInForce := d.key kClock
        dipCount := satAdd 16 p.dipCount 1, dipMinMv := low % 2 ^ 16, dipDurUs := durUs % 2 ^ 32 }) }
    d.event 0 2 1
  else { d with power := { d.power with dipMin := if d.power.dip then min d.power.dipMin minMv else d.power.dipMin } }

/-- The dip timer reaches 10 ms: the halt comes at the next tick 0 (R461). -/
def dipTimerExpire (d : Dev) : Dev :=
  if d.power.st == .brace && d.power.dip then { d with power := { d.power with haltDue := true } } else d

/-! Heat (R464). -/

/-- The millisecond's readings of every junction and stack, in °C: responses begin and end (R464). -/
def thermalRead (d : Dev) (dies stk : List Nat) : Dev :=
  let p := d.power
  let anyStack := stk.any (95 < ·)
  let cool := if stk.all (· ≤ 90) then min (p.coolMs + 1) 1000 else 0
  let hot := if anyStack then true else p.hotCap && cool < 1000
  let h100 := if dies.any (100 ≤ ·) then true else p.hot100 && !dies.all (· < 95)
  let h105 := if dies.any (105 ≤ ·) then true else p.hot105 && !dies.all (· < 100)
  { d with power := p.change (fun p => { p with hotCap := hot, coolMs := cool, hot100 := h100, hot105 := h105 }) }

/-- `TR_PERST_N[1:0]` are driven high: from the start of start-up step 6 until a package reset (R484). -/
def Power.tierReleased (p : Power) : Bool :=
  !p.inReset && (match p.st with
    | .off | .standby => false
    | .starting => 6 ≤ p.step
    | .brace => p.braceFrom != .starting || 6 ≤ p.step
    | .run | .halted | .withdrawn => true)

/-- `ZT_THERM_N` is driven low, THERM (R464, R495). -/
def Power.therm (p : Power) : Bool := p.hotCap || p.hot100

end Sys2Proof.Machine
end

