-- ==== Sys2Proof/Machine/Commit.lean ====
section
/-! DEFINITION. Configuration commits: items that act at the commit beat, items that wait for quiescence, and entries held by a
recovery (R43, R46, R374, R375, R390). -/

namespace Sys2Proof.Machine

open Sys2Proof

/-- The transaction that waits on group `g` loses it; after the last it completes `OK` (R374). -/
def Dev.quiesceTxn (d : Dev) (g : Nat) (boundary : Bool) (t : Txn) : Dev :=
  let rest := t.waits.filter (· != g)
  let n := t.reached + boundary.toNat
  if rest.isEmpty then (d.dropTxn t.handle).finish t.handle sOk [t.items.length, n]
  else d.modTxn t.handle (fun x => { x with waits := rest, reached := n })

/-- Group `g` reaches quiescence: it runs under its pasture's values from here on, and every commit that waited for it is served in
order of commit beat and acceptance (R374, R375). -/
def Dev.quiesce (d : Dev) (g : Nat) (boundary : Bool) : Dev :=
  let d := if (Tab.get? d.groups g).isSome then d.modGroup g (fun x => { x with keys := [] }) else d
  let l := sortBy (fun t => (2 ^ 64 - 1 - beatAhead t.commit d.beat.now) * 2 ^ 64 + t.order)
    (d.txns.filter (fun t => t.fired && t.waits.contains g))
  l.foldl (fun d t => d.quiesceTxn g boundary t) d

/-- Groups of pasture `p` that wait for a step to start (R374). -/
def Dev.startableGroups (d : Dev) (p : Nat) : List Nat :=
  (d.groupsOf p).filter (fun g => !(d.group g).left && !(d.group g).stopped)

/-- A PASTURE item takes effect: the pasture holds the new value, and each group keeps the old one until its own quiescence where the
key needs that (R374, R390). -/
def Dev.commitPasture (d : Dev) (p k v : Nat) : Dev :=
  let old := d.pKey p k
  let d := d.modPasture p (fun q => { q with keys := Tab.put q.keys k v })
  if keyEffect k = .quiescence then
    (d.startableGroups p).foldl (fun d g =>
      d.modGroup g (fun x => { x with keys := if (Tab.get? x.keys k).isSome then x.keys else Tab.put x.keys k old })) d
  else d

/-- A PACKAGE item takes effect (R29, R45, R257, R272, R390, R394). The cap of `POWER_CAP` is applied by its own entry (R41). -/
def Dev.commitPackage (d : Dev) (k v : Nat) : Dev :=
  let d := { d with keys := Tab.put d.keys k v }
  if k = kClock then d.applyCap d.power.capInForce v
  else if k = kBeatLink then { d with beat := { d.beat with valid := 0 } }
  else if linkKey kLinkWidth k then d.pauseLink (k - kLinkWidth)
  else if linkKey kSlicesLo k then d.pauseLink (k - kSlicesLo)
  else if linkKey kSlicesHi k then d.pauseLink (k - kSlicesHi)
  else if isRejoin k then
    let g := k - kRejoin
    if v = 0 then d.modGroup g (fun x => { x with rejoin := none })
    else (d.modGroup g (fun x => { x with rejoin := some v })).joinNotice g v
  else d

/-- The items of transaction `t` take effect in staging order (R374). -/
def Dev.commitItems (d : Dev) (t : Txn) : Dev :=
  t.items.foldl (fun d i => if t.package then d.commitPackage i.1 i.2 else d.commitPasture t.pasture i.1 i.2) d

/-- The commit of transaction `t` fires: a transaction that has not passed its final validation is validated here, and one without
items that wait completes at once (R46, R374). -/
def Dev.fireCommit (d : Dev) (t : Txn) : Dev :=
  let bad := if t.validated then none else d.validate t t.commit t.order
  match bad with
  | some (i, k, _) => d.rollBack t sRolledBack k 4 i false
  | none =>
    let d := d.calDrop (fun e => e.action == 3 && e.target == t.order % 4096 && e.beat == t.commit)
    let d := d.commitItems t
    let gs := if t.items.any (fun i => keyEffect i.1 == .quiescence) then d.startableGroups t.pasture else []
    if gs.isEmpty then (d.dropTxn t.handle).finish t.handle sOk [t.items.length, 0]
    else d.modTxn t.handle (fun x => { x with fired := true, waits := gs })

/-- Pending transactions whose commit beat has come, in order of commit beat and acceptance (R375). -/
def Dev.dueTxns (d : Dev) : List Txn :=
  sortBy (fun t => (2 ^ 64 - 1 - beatAhead t.commit d.beat.now) * 2 ^ 64 + t.order)
    (d.txns.filter (fun t => t.pending && !t.fired && beatGe d.beat.now t.commit))

/-- The commit entry of transaction `t`. -/
def commitOf (t : Txn) (e : CalEntry) : Bool := e.action == 3 && e.target == t.order % 4096 && e.beat == t.commit

/-- Every commit that is due fires, in order; one whose die is being recovered is held (R43, R375). -/
def Dev.commitsDue (d : Dev) : Dev :=
  d.dueTxns.foldl (fun d t => if d.entryHeld (commitOf t) then d.holdEntries (commitOf t) else d.fireCommit t) d

/-- `CONFIGURATION_COMMIT`: commit entries fire at their beat (R41, R374). A power-cap entry, which goes before a commit of its beat, acts
on the Ringmaster alone and stands in no die's Calendar (R506). -/
def configurationCommit (d : Dev) : Dev := d.commitsDue

/-- A held commit entry is discarded: its transaction rolls back with reason 5 (R43, R373). -/
def Dev.discardCommit (d : Dev) (t : Txn) : Dev := d.rollBack t sRolledBack 0 5 0 false

end Sys2Proof.Machine
end

