-- ==== Sys2Proof/Machine/Functions.lean ====
section
/-! DEFINITION. The PCIe functions: function-level resets and what acts as one, VF enable, and D3hot (R338, R339, R343, R344). -/

namespace Sys2Proof.Machine

open Sys2Proof

/-- The registers of the FUNCTION domain at their reset values, the Ledger unconfigured, the generation advanced (R343, step 4). The
latched tick is a beat register, in the PACKAGE domain (R496). -/
def Func.afterReset (f : Func) : Func :=
  { ({} : Func) with
    enabled := f.enabled
    d3hot := f.d3hot
    gen := (f.gen + 1) % 8
    seq := f.seq
    tickNow := f.tickNow }

/-- The last step of a function-level reset: handles whose completions waited are gone, and those still at work end without one; the
step registers of its pasture's groups, in the FUNCTION domain, go to 0 (R343, R366, R496, R497). -/
def Dev.flrFinish (d : Dev) (f : Nat) : Dev :=
  let gone := ((d.func f).waiting).map (·.handle)
  let d := ((d.pastureOf f).toList.flatMap d.groupsOf).foldl (fun d g => d.modGroup g (fun x => { x with lastShown := 0, overruns := 0 })) d
  { d.modFunc f Func.afterReset with handles := Tab.filt d.handles (fun h _ => !gone.contains h) }

/-- The open transactions of function `f` that satisfy `p` and have not taken effect roll back; no completion is posted
(R343, R344). -/
def Dev.flrTxns (d : Dev) (f : Nat) (p : Txn → Bool) : Dev :=
  (d.txns.filter (fun t => hFunc t.handle == f && !t.fired && p t)).foldl (fun d t => d.rollBack t sRolledBack 0 0 0 false) d

/-- The requests of the pasture of function `f` close, but for those in the running batch of a group of `rest` (R343; log entry 144). -/
def Dev.flrClose (d : Dev) (f : Nat) (rest : List Nat) : Dev :=
  match d.pastureOf f with
  | none => d
  | some p =>
    let busy (h : Nat) : Bool := rest.any (fun g => ((d.group g).running || (d.group g).due) && (d.group g).batch.contains h)
    ((d.reqsOf p).filter (fun h => !busy h)).foldl (fun d h => d.closeReq h sAborted sAborted) d

/-- A function-level reset of function `f` begins: its doorbells are ignored and its mailboxes cleared, its messages stop, its
PASTURE transaction rolls back, and its requests await the boundaries of its groups (R343). -/
def Dev.flrBegin (d : Dev) (f : Nat) : Dev :=
  if (d.func f).flr || !(d.func f).enabled then d
  else
    let gs := match d.pastureOf f with
      | some p => d.groupsOf p
      | none => []
    let d := d.modFunc f (fun x => { x with flr := true, mbx := [], flrWait := gs })
    let d := d.flrTxns f (fun t => !t.package)
    if gs.isEmpty then (d.flrClose f []).flrFinish f else d

/-- A boundary of group `g` has come for a function-level reset: the requests of the pasture close, but for those at work in another
group whose boundary is still awaited, and after the last group's boundary the reset completes (R343). -/
def Dev.flrBoundary (d : Dev) (g : Nat) : Dev :=
  (d.funcs.filter (fun q => q.2.flr && q.2.flrWait.contains g)).foldl (fun d q =>
    let d := d.modFunc q.1 (fun x => { x with flrWait := x.flrWait.filter (· != g) })
    let rest := (d.func q.1).flrWait
    let d := d.flrClose q.1 rest
    if rest.isEmpty then d.flrFinish q.1 else d) d

/-- A function-level reset reaches function `f`, once the host port answers (R343); for the PF it is `pfReset`'s. -/
def functionLevelReset (d : Dev) (f : Nat) : Dev :=
  if !d.power.portUp || f = 0 || 16 < f then d else d.flrBegin f

/-- A function-level reset of the PF reaches every VF too, clears VF Enable, and rolls back the PACKAGE transaction (R344). -/
def pfReset (d : Dev) : Dev :=
  if !d.power.portUp then d
  else
    let d := (List.range 17).foldl Dev.flrBegin d
    let d := { d with funcs := Tab.mapV d.funcs (fun f x => if f = 0 then x else { x with enabled := false }) }
    d.flrTxns 0 (fun t => t.package)

/-- `PF_FUNCTION_LEVEL_RESET` (R344). -/
def pfFunctionLevelReset (d : Dev) : Dev := pfReset d

/-- A hot reset or a link-down of the host port (R344). -/
def hotReset (d : Dev) : Dev := pfReset d

/-- PERST# is asserted, and when it is released the link retrains (R344). -/
def perstAssert (d : Dev) (released : Bool) : Dev :=
  if released then { d with power := { d.power with portUp := !d.power.inReset } }
  else
    let d := pfReset d
    { d with power := { d.power with portUp := false } }

/-- No boundary has fallen within 90 ms of the reset: the running steps of the groups that it awaits are aborted, and the requests
close (R343, step 3). -/
def flrBoundaryTimeout (d : Dev) (f : Nat) : Dev :=
  let x := d.func f
  if !x.flr || x.flrWait.isEmpty then d
  else
    let d := d.abortActs (fun _ r => x.flrWait.contains r.group) .withdrawal
    (d.flrClose f []).flrFinish f

/-- The host writes VF Enable and NumVFs: VFs 1 to `n` exist when `on`, and no other; pastures and bindings remain (R339). -/
def vfEnable (d : Dev) (on : Bool) (n : Nat) : Dev :=
  if !d.power.portUp || 16 < n then d
  else (List.range 16).foldl (fun d i => d.modFunc (i + 1) (fun x => { x with enabled := on && i < n })) d

/-- A function moves between D0 and D3hot (R338). -/
def d3hot (d : Dev) (f : Nat) (hot : Bool) : Dev :=
  if !d.power.portUp || !(d.func f).enabled then d else d.modFunc f (fun x => { x with d3hot := hot })

end Sys2Proof.Machine
end

