-- ==== Sys2Proof/Machine/Array.lean ====
section
/-! DEFINITION. An array step, from its FIFO to final slot values: parallel and bit-serial modes, the exact screen, sparse
activations and block exponents (R48 to R74, R155 to R159). -/

namespace Sys2Proof.Machine

open Sys2Proof

/-! Tiles (R49, R86, R97, R101). -/

/-- Rows of TSG blocks from offset `x` of core `k`, until they hold `need` blocks or the scratchpad ends; `n` bounds them. -/
def tsgRows (d : Dev) (k : Nat) : Nat → Nat → Nat → List (List Byte)
  | 0, _, _ => []
  | n + 1, x, need =>
    if need = 0 || spSize k < x + 512 then []
    else
      let row := d.spRead k x 512
      row :: tsgRows d k n (x + 512) (need - (tsgRow row).2.1)

/-- The tiles of the array at place `idx` among the selected ones, each with the errors that its reading counts: its codes 0b10
(R97), or with the first of a TSG block's two tiles the block's format errors (R86, R101). A TSG block that no row of the scratchpad
supplies holds free weights. -/
def stepTiles (d : Dev) (k op idx : Nat) : List (Nat × Nat) :=
  let n := (selected op).length
  if opIn op = cTSG then
    let need := wlTiles op / 2 * n
    let rows := tsgRows d k 12288 (opX op) need
    (List.range (wlTiles op / 2)).flatMap (fun u =>
      match tsgBlock rows (u * n + idx) with
      | some (ns, b) =>
        let (t0, t1) := tsgTiles ns b
        [(t0, tsgBlockErrors ns b), (t1, 0)]
      | none => [(Config.free (d.draws + 2 * u) % 2 ^ 128, 0), (Config.free (d.draws + 2 * u + 1) % 2 ^ 128, 0)])
  else (List.range (wlTiles op)).map (fun j => let t := d.spLE k (opX op + 16 * (j * n + idx)) 16; (t, t2Invalid t))

/-! Activations (R51, R52, R66, R86). -/

/-- Buffer offset of the byte that holds element `e` of token `t`, and whether it stands in the high half. -/
def actPlace (op t e : Nat) : Nat × Bool :=
  let z := opZ op % 2 ^ 16
  if wlSerial op then (if wlA4 op then (z + e / 2, e % 2 = 1) else (z + e, false))
  else if wlA4 op then (z + t / 2 * wlK op + e, t % 2 = 1)
  else (z + t * wlK op + e, false)

/-- The code of element `e` of token `t`. -/
def actCode (d : Dev) (k op t e : Nat) : Int :=
  let (o, hi) := actPlace op t e
  let b := d.abByte k o
  if wlA4 op then sInt 4 (if hi then b / 16 else b % 16) else sInt 8 b

/-- The shared exponent of the block that holds element `e` of token `t`; 127 for plain integers. -/
def actExp (c : Core) (op t e : Nat) : Nat := Tab.getD c.bexp ((actPlace op t e).1 / 16) 127

/-- The exponent that `ASTREAM` `w` gives the byte at buffer offset `o`, read from the rows it will copy. -/
def comingExp (d : Dev) (k w o : Nat) : Nat :=
  if opIn w = cBX4 || opIn w = cBX8 then
    let (n, _, b) := bxShape (opIn w == cBX4)
    let i := (o - opZ w % 2 ^ 16) / b
    d.spLE k (opX w + 512 * (i / n) + i % n) 1
  else 127

/-- An op word that the act has still to issue, or has issued and not completed. -/
def Core.toCome (c : Core) (pc : Nat) : Bool := c.run.any (fun r => r.pc ≤ pc) || c.queue.any (fun q => q.pc = pc)

/-- The largest exponent among the blocks of token `t` of the step at index `pc`, of an act's ops: of a block that an `ASTREAM` has
still to bring before that step, from the scratchpad, and of another from the exponent table (R66). -/
def tokenExp (d : Dev) (k : Nat) (ops : List Nat) (pc op t : Nat) : Nat :=
  let c := d.core k
  let coming := (((ops.take pc).zipIdx).filter (fun p => opCode p.1 = 0x02 && c.toCome p.2)).reverse.map Prod.fst
  (List.range (wlK op)).foldl (fun m e =>
    let o := (actPlace op t e).1
    max m (match coming.find? (fun w => opZ w % 2 ^ 16 ≤ o && o < opZ w % 2 ^ 16 + asBytes w) with
      | some w => comingExp d k w o
      | none => actExp c op t e)) 0

/-- The steps after index `pc` of an act that add into slot `s` of array `a` before the next that clears it, each with its index and
its token for that slot. -/
def laterSteps (ops : List Nat) (a s pc : Nat) : List (Nat × Nat × Nat) :=
  let rec go : Nat → List Nat → List (Nat × Nat × Nat)
    | _, [] => []
    | i, w :: ws =>
      if opCode w = 0x01 && (selected w).contains a && wlSlot w ≤ s && s < wlSlot w + wlTokens w then
        if wlClear w then [] else (i, w, s - wlSlot w) :: go (i + 1) ws
      else go (i + 1) ws
  go (pc + 1) (ops.drop (pc + 1))

/-- The activation presented for element `e` of token `t` under the common exponent `m` of its slot. A block whose exponent
exceeds the common one, as where its `ASTREAM` was skipped or its rows were written late, presents a free value (R66). -/
def actValue (d : Dev) (k op t e m : Nat) : Int :=
  let x := actClamp (wlA4 op) (actCode d k op t e)
  let b := actExp (d.core k) op t e
  if b ≤ m then shiftRound x (m - b)
  else actClamp (wlA4 op) (sInt (if wlA4 op then 4 else 8) (Config.free (d.draws + e)))

/-! Sums (R48, R64). -/

/-- `l` and `m` added place by place. -/
def addV (l m : List Int) : List Int := List.zipWith (· + ·) l m

/-- The eight contributions of lane `l` of a tile under activation `x`. -/
def laneSum (tile l : Nat) (x : Int) : List Int :=
  if x = 0 then List.replicate 8 0 else (List.range 8).map (fun c => tileWeight tile l c * x)

/-- The sums of the eight columns over tiles and their activations, eight at a time. -/
def colSums : List Nat → List Int → List Int
  | [], _ => List.replicate 8 0
  | t :: ts, xs =>
    addV (((xs.take 8).zipIdx).foldl (fun s p => addV s (laneSum t p.2 p.1)) (List.replicate 8 0)) (colSums ts (xs.drop 8))

/-- S_abs of the eight columns over tiles (R50). -/
def sabsOf (tiles : List Nat) : List Nat :=
  tiles.foldl (fun s t => List.zipWith (· + ·) s ((List.range 8).map (colCount t))) (List.replicate 8 0)

/-! Bit-serial mode (R56 to R61, R68 to R70). -/

/-- The significant width b(x) (R51). -/
def sigWidth (x : Int) : Nat := if x = 0 then 0 else Nat.log2 x.natAbs + 1

/-- A unit of work: its plane and the eight contributions (R58). -/
abbrev WorkUnit := Nat × List Int

/-- Entries in store order: by width, the widest first, and in element order among equal widths (R57). -/
def storeOrder (es : List SliceEntry) : List SliceEntry := sortBy (fun e => 8 - sigWidth e.x) es

/-- The eight weights of an entry's row. -/
def SliceEntry.weights (e : SliceEntry) : List Int := (List.range 8).map (fun c => t2Weight (fld e.row (2 * c) 2))

/-- The bank that the feeder fills for a step of rows of eight elements: the private slices of the lanes, then the tail (R56, R57). -/
def fillBank (rows : List (Nat × List Int)) : List SliceEntry :=
  let tailAt := 7 * rows.length / 8
  let entry (tail : Bool) (l : Nat) (r : Nat × List Int) : SliceEntry := { lane := l, x := r.2.getD l 0, row := fld r.1 (16 * l) 16, tail }
  (List.range 8).flatMap (fun l => storeOrder ((rows.take tailAt).map (entry false l))) ++
    storeOrder ((rows.drop tailAt).flatMap (fun r => (List.range 8).map (fun l => entry true l r)))

/-- The units of entries in store order, plane by plane from the highest. -/
def unitsOf (es : List SliceEntry) : List WorkUnit :=
  [6, 5, 4, 3, 2, 1, 0].flatMap (fun p =>
    (es.filter (fun e => p < sigWidth e.x)).map (fun e =>
      (p, if e.x.natAbs / 2 ^ p % 2 = 1 then e.weights.map (fun w => w * e.x.sign * 2 ^ p) else List.replicate 8 0)))

/-- The course of a bit-serial step. -/
structure Serial where
  /-- Private units of each lane -/
  lanes : List (List WorkUnit)
  /-- Units of the tail queue -/
  tail : List WorkUnit
  /-- Slot values: P of each column, frozen once proven inactive -/
  p : List Int
  /-- The highest round that has not closed, plus one; 0 when all have -/
  round : Nat
  /-- Cycles of work -/
  cycles : Nat := 0
  /-- Idle lane-cycles -/
  idle : Nat := 0
  /-- Tail steals -/
  steals : Nat := 0
  /-- Inactive mask -/
  inact : List Bool := List.replicate 8 false
  /-- Proven-active mask -/
  act : List Bool := List.replicate 8 false
  /-- Columns proven inactive before the present cycle's rounds -/
  stops : Nat := 0
  /-- All eight columns were proven inactive before round 0 closed: cycles left until the step ends -/
  ending : Option Nat := none
  /-- The step was ended because all eight columns stopped -/
  ended : Bool := false
  deriving DecidableEq, Repr

/-- The comparison at the close of round `k` (R68). -/
def screenCompare (sabs : List Nat) (theta : List Int) (k : Nat) (s : Serial) : Serial :=
  let one (c : Nat) : Bool × Bool :=
    let p := s.p.getD c 0
    let b : Int := sabs.getD c 0 * (2 ^ k - 1)
    let th := theta.getD c 0
    if s.inact.getD c false || s.act.getD c false then (s.inact.getD c false, s.act.getD c false)
    else (decide (p + b < th), decide (th ≤ p - b))
  { s with inact := (List.range 8).map (fun c => (one c).1), act := (List.range 8).map (fun c => (one c).2) }

/-- Round `p` has closed (R60). -/
def roundClosed (s : Serial) (p : Nat) : Bool :=
  s.lanes.all (fun l => l.head?.all (fun u => u.1 < p)) && s.tail.head?.all (fun u => u.1 < p)

/-- Close the rounds that the cycle completes, from the highest; `n` bounds them. -/
def closeRounds (screened : Bool) (sabs : List Nat) (theta : List Int) : Nat → Serial → Serial
  | 0, s => s
  | n + 1, s =>
    if s.round = 0 || !roundClosed s (s.round - 1) then s
    else
      let s := if screened then screenCompare sabs theta (s.round - 1) s else s
      closeRounds screened sabs theta n { s with round := s.round - 1 }

/-- One cycle: each lane in ascending index issues at most one unit (R59). -/
def serialCycle (s : Serial) : Serial :=
  let q := s.tail.head?.map Prod.fst
  let stepLane (acc : List (List WorkUnit) × List WorkUnit × List Int × Nat × Nat) (l : List WorkUnit) :
      List (List WorkUnit) × List WorkUnit × List Int × Nat × Nat :=
    let (ls, tail, sum, idle, steals) := acc
    let mine : Option WorkUnit := l.head?
    match tail, q with
    | t :: ts, some qp =>
      if t.1 = qp && mine.all (fun u => u.1 < qp) then (ls ++ [l], ts, addV sum t.2, idle, steals + 1)
      else match l with
        | u :: us => (ls ++ [us], tail, addV sum u.2, idle, steals)
        | [] => (ls ++ [[]], tail, sum, idle + 1, steals)
    | _, _ => match l with
      | u :: us => (ls ++ [us], tail, addV sum u.2, idle, steals)
      | [] => (ls ++ [[]], tail, sum, idle + 1, steals)
  let (ls, tail, sum, idle, steals) := s.lanes.foldl stepLane ([], s.tail, List.replicate 8 0, 0, 0)
  { s with
    lanes := ls, tail := tail, cycles := s.cycles + 1, idle := s.idle + idle, steals := s.steals + steals
    p := (List.range 8).map (fun c => if s.inact.getD c false then s.p.getD c 0 else s.p.getD c 0 + sum.getD c 0) }

/-- Run a bit-serial step to its end; `n` bounds the cycles (R60, R61, R69). DEDUCED (log 122): where the comparison that proves the
last column inactive falls after round 0 has closed, the step ends as one that the screen ended, its `SCREEN_STOPS` are counted at the
closing cycle, and the lanes are idle until then. -/
def serialRun (screened : Bool) (sabs : List Nat) (theta : List Int) : Nat → Serial → Serial
  | 0, s => s
  | n + 1, s =>
    match s.ending with
    | some 0 => { s with ended := true }
    | _ =>
      if s.round = 0 && s.ending.isNone then s
      else
        let before := (s.inact.filter id).length
        let t := closeRounds screened sabs theta 8 (serialCycle s)
        let left : Option Nat := match s.ending with
          | some m => some (m - 1)
          | none => if t.round ≠ 0 && t.inact.all id then some 3 else none
        serialRun screened sabs theta n
          { t with ending := left, stops := if t.round = 0 then s.stops else s.stops + ((t.inact.filter id).length - before) }

/-- A bit-serial step over the entries of a full bank (R56 to R61). -/
def serialStep (bank : List SliceEntry) (screened : Bool) (sabs : List Nat) (theta p : List Int) : Serial :=
  let lanes := (List.range 8).map (fun l => unitsOf (bank.filter (fun e => !e.tail && e.lane == l)))
  let tail := unitsOf (bank.filter (fun e => e.tail))
  let top := (tail :: lanes).foldl (fun m l => max m (l.head?.map (fun u => u.1 + 1) |>.getD 0)) 0
  let s : Serial := { lanes, tail, p, round := top }
  if top = 0 then (if screened then screenCompare sabs theta 0 s else s)
  else serialRun screened sabs theta (tail.length + (lanes.foldl (fun m l => m + l.length) 0) + 5) s

/-! Sparse activations (R155 to R158). -/

/-- The step's activations came from AS, under the setting in force: 0 dense or OFF, 1 BLOCK, 2 FINE. -/
def sparseSetting (d : Dev) (k op : Nat) : Nat :=
  let c := d.core k
  if (Tab.get? c.bocc (opZ op % 2 ^ 16 / 16)).isSome then d.coreKeyVal k kSparseAct else 0

/-- The step was fed from AS. -/
def fromAs (d : Dev) (k op : Nat) : Bool := (Tab.get? (d.core k).bocc (opZ op % 2 ^ 16 / 16)).isSome

/-- Blocks of 32 elements of the step's K range that are present for one of its tokens: some granule of the buffer that holds
elements of the block is (R156). -/
def presentBlocks (d : Dev) (k op : Nat) : List Nat :=
  let c := d.core k
  (List.range (cdiv (wlK op) 32)).filter (fun b =>
    (List.range (wlTokens op)).any (fun t =>
      (List.range (min 32 (wlK op - 32 * b))).any (fun i => !c.absent (actPlace op t (32 * b + i)).1)))

/-- Rows of eight elements, of tiles and one token's activations. -/
def rowsOf : List Nat → List Int → List (Nat × List Int)
  | [], _ => []
  | t :: ts, xs => (t, xs.take 8) :: rowsOf ts (xs.drop 8)

/-- The elements of rows, one at a time: weight row (by tile and lane) and activation, repacked eight to a row, then zero
elements up to a multiple of 64 (R157). -/
def repack (es : List (Nat × Nat × Int)) : List (Nat × List Int) :=
  let n := cdiv es.length 64 * 8
  let rowTile (g : List (Nat × Nat × Int)) : Nat :=
    (g.zipIdx).foldl (fun t p => t + fld p.1.1 (16 * p.1.2.1) 16 * 2 ^ (16 * p.2)) 0
  (List.range n).map (fun i =>
    let g := (es.drop (8 * i)).take 8
    (rowTile g, (List.range 8).map (fun l => ((g[l]?).map (fun e => e.2.2)).getD 0)))

/-! The step (R62). -/

/-- The tiles of a step that the feeder reads, each with its errors: all of them, or those of present blocks under BLOCK and FINE
(R156). -/
def usedTiles (d : Dev) (k op idx : Nat) : List (Nat × Nat) :=
  let all := stepTiles d k op idx
  if sparseSetting d k op = 0 then all
  else
    let present := presentBlocks d k op
    all.zipIdx.filterMap (fun p => if present.contains (p.2 / 4) then some p.1 else none)

/-- Wide rows of weights that the feeder reads for a step of all its arrays (R101, R156). -/
def stepRows (d : Dev) (k op idx : Nat) : Nat :=
  let n := (selected op).length
  if opIn op = cTSG then (tsgRows d k 12288 (opX op) (wlTiles op / 2 * n)).length
  else cdiv ((usedTiles d k op idx).length * 16 * n) 512

/-- The common exponent that token `t` of the step at index `pc` records with its slot in array `a` (R66). -/
def commonExp (d : Dev) (k a pc op t : Nat) : Nat :=
  let ops := (((d.core k).run.bind d.actOf).map (fun x => x.ops)).getD []
  let s := wlSlot op + t
  if wlClear op then (laterSteps ops a s pc).foldl (fun m q => max m (tokenExp d k ops q.1 q.2.1 q.2.2)) (tokenExp d k ops pc op t)
  else Tab.getD ((d.core k).arr a).exps s 127

/-- The activations that token `t` of the step at index `pc` presents to array `a`, in K order. -/
def stepActs (d : Dev) (k a pc op t : Nat) : List Int :=
  let m := commonExp d k a pc op t
  (List.range (wlK op)).map (fun e => actValue d k op t e m)

/-- The bank of the bit-serial step at index `pc` in array `a` (R57, R157). -/
def stepBank (d : Dev) (k a pc op idx : Nat) : List SliceEntry :=
  let rows := rowsOf ((stepTiles d k op idx).map Prod.fst) (stepActs d k a pc op 0)
  let setting := sparseSetting d k op
  if setting = 0 then fillBank rows
  else
    let present := presentBlocks d k op
    let es := rows.zipIdx.flatMap (fun r =>
      if present.contains (r.2 / 4) then (List.range 8).map (fun l => (r.1.1, l, r.1.2.getD l 0)) else [])
    fillBank (repack (if setting = 1 then es else es.filter (fun e => e.2.2 != 0)))

/-- What a step leaves in its array and what it counts. -/
structure StepResult where
  /-- New values by slot: eight columns each -/
  slots : List (Nat × List Int)
  /-- Common exponents by slot -/
  exps : List (Nat × Nat)
  /-- Inactive mask of the base slot -/
  inact : Nat := 0
  /-- Proven-active mask of the base slot -/
  act : Nat := 0
  /-- S_abs -/
  sabs : List Nat
  /-- Array-cycles of work -/
  cycles : Nat
  /-- Idle lane-cycles -/
  idle : Nat
  /-- Tail steals -/
  steals : Nat := 0
  /-- Columns proven inactive before round 0 closed -/
  stops : Nat := 0
  /-- The step was ended because all columns stopped -/
  ended : Bool := false
  /-- Packed groups issued under FINE -/
  groups : Nat := 0
  /-- Array-cycles by which the floor or the row bound exceeds the work -/
  floor : Nat := 0
  deriving DecidableEq, Repr

/-- The values and counts of the step of op word `op` at index `pc`, in array `a` at place `idx`, on the entries `bank` where it is
bit-serial (R48 to R71, R155 to R159). -/
def runStep (d : Dev) (k a pc op idx : Nat) (bank : List SliceEntry) : StepResult :=
  let arr := (d.core k).arr a
  let used := (usedTiles d k op idx).map Prod.fst
  let slotOf (t : Nat) : Nat := wlSlot op + t
  let old (s : Nat) : List Int := if wlClear op then List.replicate 8 0 else (List.range 8).map (fun x => Tab.getD arr.slots (s * 8 + x) 0)
  let exps := (List.range (wlTokens op)).map (fun t => (slotOf t, commonExp d k a pc op t))
  let sabs := sabsOf used
  if wlSerial op then
    let s := serialStep bank (wlScreen op && d.coreKeyVal k kScreen != 0) sabs arr.theta (old (slotOf 0))
    { slots := [(slotOf 0, s.p)], exps, sabs, cycles := s.cycles, idle := s.idle, steals := s.steals, stops := s.stops, ended := s.ended
      inact := maskOf ((List.range 8).filter (fun c => s.inact.getD c false))
      act := maskOf ((List.range 8).filter (fun c => s.act.getD c false)) }
  else
    let all := (stepTiles d k op idx).map Prod.fst
    let xs (t : Nat) : List Int := stepActs d k a pc op t
    let fine := sparseSetting d k op = 2 && wlR op = 1 && !wlA4 op
    let nz := ((xs 0).filter (· != 0)).length
    let groups := if fine then cdiv nz 8 else 0
    let work := if fine then groups else wlR op * used.length
    { slots := (List.range (wlTokens op)).map (fun t => (slotOf t, addV (old (slotOf t)) (colSums all (xs t)))), exps, sabs
      cycles := work, groups, floor := max (wlR op * cdiv (wlK op) 64) (stepRows d k op idx) - work
      idle := if fine then 8 * groups - nz else 0 }

/-- Array-cycles that array `a` waits for the first tile or the full bank of its next step, `said` of them by the world: none where
the bank was filled during a step as long as the fill; at least one for a tile, and a cycle a tile for a bank, where no step was in
progress (R53, R57, R158). -/
def firstWait (d : Dev) (k a op idx : Nat) (idle : Bool) (said : Nat) : Nat :=
  let arr := (d.core k).arr a
  let fill := max (usedTiles d k op idx).length (cdiv (wlK op) 64)
  match arr.loaded with
  | some n => if !wlSerial op then said else if fill ≤ n then 0 else max said (fill - n)
  | none => if idle || arr.last.isNone then max said (if wlSerial op then fill else 1) else said

/-- While array `a` ran a step of `cycles`, the feeder loads what the FIFO holds next: its first tile into the shadow, or the other
bank (R53, R57). -/
def Dev.loadNext (d : Dev) (k a cycles : Nat) : Dev :=
  match ((d.core k).arr a).fifo.find? (fun e => match e with
    | .step _ _ _ _ => true
    | .seed _ _ _ => false) with
  | some (.step pc op idx _) =>
    let tile := (usedTiles d k op idx).head?.map Prod.fst
    let bank := stepBank d k a pc op idx
    d.modCore k (fun c => c.modArr a (fun x =>
      if wlSerial op then { x with loaded := some cycles, bank2 := bank }
      else { x with loaded := some cycles, shadow := tile.getD x.shadow }))
  | _ => d.modCore k (fun c => c.modArr a (fun x => { x with loaded := none }))

/-- The counts of a step that array `a` has run, of which the first selected array gives those of all: `wait` array-cycles passed
within it without work (R73, R97, R101, R156, R158, R176). -/
def Dev.countStep (d : Dev) (k op idx wait : Nat) (repair : Bool) (r : StepResult) : Dev :=
  let used := usedTiles d k op idx
  let d0 := d
  let d := d.corePerf k gARRAY 0 (r.idle + 8 * wait)
  let d := d.corePerf k gARRAY 1 r.steals
  let d := d.corePerf k gARRAY 3 r.stops
  let d := d.corePerf k gARRAY 4 r.ended.toNat
  let d := d.corePerf k gARRAY (if wlSerial op then 5 else 6) 1
  let d := if repair then d.corePerf k gPRED 4 (r.cycles + wait) else d
  let d := d.coreErr k (if opIn op = cTSG then 5 else 3) ((used.map Prod.snd).foldl (· + ·) 0)
  let d := d.corePerf k gSPARSE 2 (wlTiles op - used.length)
  let d := d.corePerf k gSPARSE 4 r.floor
  let clamped := (List.range (wlTokens op)).foldl (fun n t =>
    (List.range (wlK op)).foldl (fun n e => if actCode d0 k op t e = (if wlA4 op then -8 else -128) then n + 1 else n) n) 0
  let d := d.coreErr k 0 clamped
  if idx = 0 then
    let need := wlTiles op / 2 * (selected op).length
    let d := if opIn op = cTSG then d.coreErr k 5 (tsgRowErrors (tsgRows d0 k 12288 (opX op) need) need) else d
    let d := d.corePerf k gSPAD 2 (stepRows d0 k op idx)
    let d := d.corePerf k gSPARSE 3 r.groups
    if fromAs d0 k op then
      let blocks := cdiv (wlK op) 32
      (d.corePerf k gSPARSE 0 blocks).corePerf k gSPARSE 1 (blocks - (presentBlocks d0 k op).length)
    else d
  else d

/-- Array `a` of core `k` takes its next step, and runs it to final slot values (R62). `idle` says that no step was in progress when
the step came to the FIFO, `startWait` the array-cycles it waited for its first tile or bank, `stall` those it then waited for tiles
(R53), and `parity` the structure of a parity error that stops it (R72): 0 tile register, 1 slice store, 2 slot. DEDUCED (log 123): the
array-cycles by which R158 lengthens a parallel step are waits for a tile. -/
def Dev.arrayStep (d : Dev) (k a : Nat) (idle : Bool) (startWait stall : Nat) (parity : Option Nat) : Dev :=
  let c := d.core k
  let arr := c.arr a
  match arr.fifo with
  | .step pc op idx repair :: rest =>
    if arr.stopped || c.lostArrays.contains a then d
    else
      let mode := (if wlSerial op then 1 else 0) + 2 * (if wlA4 op then 1 else 0) + 4 * wlR op
      let change := if arr.last.isSome && arr.last != some mode then 8 else 0
      let bank := if wlSerial op then (if arr.loaded.isSome then arr.bank2 else stepBank d k a pc op idx) else arr.bank
      let r := runStep d k a pc op idx bank
      let wait := if wlSerial op then 0 else max stall r.floor
      let d := d.corePerf k gARRAY 2 (firstWait d k a op idx idle startWait + wait + change)
      match parity with
      | some st =>
        let d := d.modCore k (fun c => (c.modArr a (fun x => { x with fifo := [], loaded := none, stopped := true, last := some mode })))
        let d := d.modCore k (fun c => { c with lostArrays := a :: c.lostArrays.filter (· != a) })
        (d.coreErr k 1 1).coreRaise k 0x0001 (a + st % 4 * 64)
      | none =>
        let d := d.countStep k op idx wait repair r
        let tile := if wlSerial op then arr.tile else ((usedTiles d k op idx).map Prod.fst).getLastD arr.tile
        let d := { d with draws := d.draws + wlTiles op * 8 }
        let d := d.modCore k (fun c => c.modArr a (fun x =>
          { x with
            fifo := rest, last := some mode, sabs := r.sabs, tile
            shadow := if wlSerial op then x.shadow else tile
            bank := bank, bank2 := if wlSerial op then x.bank else x.bank2
            slots := r.slots.foldl (fun t q => (q.2.zipIdx).foldl (fun t v => Tab.put t (q.1 * 8 + v.2) v.1) t) x.slots
            exps := r.exps.foldl (fun t q => Tab.put t q.1 q.2) x.exps
            inactive := r.slots.foldl (fun t q => Tab.put t q.1 (if q.1 = wlSlot op then r.inact else 0)) x.inactive
            proven := r.slots.foldl (fun t q => Tab.put t q.1 (if q.1 = wlSlot op then r.act else 0)) x.proven }))
        d.loadNext k a (r.cycles + wait)
  | _ => d

end Sys2Proof.Machine
end

