-- ==== Sys2Proof/Machine/Dma.lean ====
section
/-! DEFINITION. The DMA engines: bases, runs, bounds, TP5 expansion, AS tensors, the other cores' scratchpads (R88 to R91, R99, R162,
R353, R354, R432). -/

namespace Sys2Proof.Machine

open Sys2Proof

/-! Descriptors (R89). -/

def dRemote (e : Nat) : Nat := fld e 0 64
def dLocal (e : Nat) : Nat := fld e 64 23
def dLength (e : Nat) : Nat := fld e 96 32
def dRuns (e : Nat) : Nat := fld e 128 16 + 1
def dStride (e : Nat) : Nat := fld e 144 32
def dBase (e : Nat) : Nat := fld e 192 4
def dAtomic (e : Nat) : Nat := fld e 196 4
def dPrio (e : Nat) : Bool := bit e 200

/-- Descriptor `i` of the act that core `k` runs. -/
def Dev.descOf (d : Dev) (k i : Nat) : Nat :=
  match (d.core k).run.bind d.actOf with
  | some a => (a.descs[i]?).getD 0
  | none => 0

/-! Runs and their bases (R88, R91, R99, R353). -/

/-- Where a run lies: device address, and bytes at the remote side. -/
structure RunAt where
  /-- Device address -/
  addr : Nat
  /-- Bytes at the remote side -/
  bytes : Nat
  /-- Expands TP5 -/
  expanding : Bool := false
  /-- Carries one AS tensor -/
  sparse : Bool := false
  deriving DecidableEq, Repr

/-- The device address of a page of a page list (R292). -/
def pageAddr (n : Nat) : Nat := devAddr (n / 2 ^ 23) (n % 2 ^ 23 * 2 ^ 15)

/-- The check of R91 on a run of `len` bytes at remote offset `o` with stride `st`: none where it fails. -/
def runCheck (b : Option BaseReg) (o len st : Nat) (inn : Bool) : Option RunAt :=
  match b with
  | none => none
  | some (.linear addr limit expanding readOnly sparse) =>
    if limit < o + len || (!inn && (readOnly || expanding)) then none
    else if expanding then
      if o % 2560 ≠ 0 || len % 2560 ≠ 0 || st % 2560 ≠ 0 then none
      else some { addr := addr + 4 * o / 5, bytes := 4 * len / 5, expanding := true }
    else some { addr := addr + o, bytes := len, sparse }
  | some (.paged pages sparse) =>
    if o / 2 ^ 15 ≠ (o + len - 1) / 2 ^ 15 then none
    else match pages[o / 2 ^ 15]? with
      | some n => some { addr := pageAddr n + o % 2 ^ 15, bytes := len, sparse }
      | none => none

/-! AS tensors in motion (R162). -/

/-- The offset of the end mark of the AS tensor in `bs`, from offset `o`; `n` bounds the segments. -/
def asEnd (bs : List Byte) : Nat → Nat → Option Nat
  | 0, _ => none
  | n + 1, o =>
    if bs.length < o + 8 then none
    else
      let len := rdLE bs (o + 4) 2
      if len = 0 then some o else asEnd bs n (o + len)

/-- Rows of an AS run that move: up to the row with the end mark, else all; and whether the mark is there. -/
def asRows (bs : List Byte) : Nat × Bool :=
  match asEnd bs (bs.length / 8 + 1) 0 with
  | some o => ((o + 7) / 512 + 1, true)
  | none => (bs.length / 512, false)

/-- Rows of an AS run are counted, and a run without an end mark (R162, R176). -/
def Dev.countAs (d : Dev) (k rows total : Nat) (found : Bool) : Dev :=
  let d := d.corePerf k gSPARSE 5 rows
  let d := d.corePerf k gSPARSE 6 (total - rows)
  d.coreErr k 6 (!found).toNat

/-! Remote accesses (R90). -/

/-- The pasture's own dies admit an access to core scratchpad of die `die` from core `k` (R354). -/
def Dev.localAllows (d : Dev) (k die : Nat) : Bool :=
  let p := d.pastureOfDie (k / 64)
  isCompute die && p != 31 && d.pastureOfDie die == p

/-- Read errors that the facts of an op give for pen `pen`. -/
def errsOf (l : List (Nat × Nat)) (pen : Nat) : List (Nat × Nat) :=
  (l.filter (fun e => e.1 / 2 ^ 32 == pen)).map (fun e => (e.1 % 2 ^ 32, e.2))

/-- Read `n` bytes at a device address for core `k`. -/
def Dev.remoteRead (d : Dev) (k addr n : Nat) (prio : Bool) (errs : List (Nat × Nat)) : StackReply × Dev :=
  if addr / 2 ^ 60 = 2 then
    ({ data := d.spRead (fld addr 48 12) (fld addr 0 23) n }, d.wideRows (fld addr 48 12) (cdiv n 512))
  else
    let pen := addrPen addr
    d.access (k / 64) (k % 64) pen 0 prio (errsOf errs pen) (n / 256 + 2) (fld addr 0 38) n none

/-- Write or apply bytes at a device address for core `k`. An atomic on another core's scratchpad, for which the spec gives no
operation, leaves free values there. -/
def Dev.remoteWrite (d : Dev) (k addr atomic : Nat) (prio : Bool) (errs : List (Nat × Nat)) (bs : List Byte) : StackReply × Dev :=
  if addr / 2 ^ 60 = 2 then
    let t := fld addr 48 12
    if d.localAllows k (t / 64) then
      let v := if atomic = 0 then bs else (List.range bs.length).map (fun i => BitVec.ofNat 8 (Config.free (d.draws + i)))
      ({}, (({ d with draws := if atomic = 0 then d.draws else d.draws + bs.length }).wideRows t (cdiv bs.length 512)).spWrite t (fld addr 0 23) v)
    else
      ({ denied := true }, d.isolation (t / 64) { requester := 0, die := k / 64, core := k % 64, pen := penOfDie (t / 64),
                                                  off := fld addr 0 23, kind := 1 })
  else
    let pen := addrPen addr
    d.access (k / 64) (k % 64) pen atomic prio (errsOf errs pen) (bs.length / 256 + 2) (fld addr 0 38) bs.length (some bs)

/-- The rows of an AS run from device address `addr`, read in order until the one with the end mark has come; `acc` has come already,
and `n` rows are left (R162). -/
def Dev.readAs (d : Dev) (k addr : Nat) (prio : Bool) (errs : List (Nat × Nat)) : Nat → StackReply → StackReply × Dev
  | 0, acc => (acc, d)
  | n + 1, acc =>
    let (x, d) := d.remoteRead k (addr + acc.data.length) 512 prio errs
    let acc : StackReply := { data := acc.data ++ x.data, poison := acc.poison ++ x.poison, denied := x.denied }
    if x.denied || (asRows acc.data).2 then (acc, d) else Dev.readAs d k addr prio errs n acc

/-- Rows of an AS run already requested beyond the end mark, at most 8 of the `left` ones: they are read and discarded unwritten
(R162, log 131). -/
def Dev.readPast (d : Dev) (k addr left : Nat) (prio : Bool) (errs : List (Nat × Nat)) : Dev :=
  let (n, d) := d.draw (min 8 left + 1)
  (d.remoteRead k addr (512 * n) prio errs).2

/-- One run at local offset `o`. The run has passed its check. -/
def Dev.dmaRun (d : Dev) (k desc o : Nat) (r : RunAt) (inn : Bool) (errs : List (Nat × Nat)) : Dev × Bool :=
  let len := dLength desc
  if inn && r.sparse then
    let (x, d) := d.readAs k r.addr (dPrio desc) errs (len / 512) {}
    let d := d.metPoison k x.poison
    if x.denied then (d, false)
    else
      let rows := x.data.length / 512
      let d := d.readPast k (r.addr + 512 * rows) (len / 512 - rows) (dPrio desc) errs
      (((d.wideRows k rows).spWrite k o x.data).countAs k rows (len / 512) (asRows x.data).2, true)
  else if inn then
    let (x, d) := d.remoteRead k r.addr r.bytes (dPrio desc) errs
    let d := d.metPoison k x.poison
    if x.denied then (d, false)
    else if r.expanding then (((d.wideRows k (len / 512)).spWrite k o (tp5Expand x.data)).coreErr k 4 (tp5Invalid x.data), true)
    else ((d.wideRows k (len / 512)).spWrite k o x.data, true)
  else
    let bs := d.spRead k o len
    let (rows, found) := if r.sparse then asRows bs else (len / 512, true)
    let d := d.wideRows k rows
    let d := if r.sparse then d.countAs k rows (len / 512) found else d
    let (x, d) := d.remoteWrite k r.addr (dAtomic desc) (dPrio desc) errs (bs.take (512 * rows))
    (d.metPoison k x.poison, !x.denied)

/-- The runs of a descriptor from run `i`, `n` of them: a run that fails its check is not issued, and the act is aborted (R91). -/
def Dev.dmaRuns (d : Dev) (k desc idx : Nat) (inn : Bool) (errs : List (Nat × Nat)) : Nat → Nat → Dev
  | 0, _ => d
  | n + 1, i =>
    match runCheck (Tab.get? (d.core k).bases (dBase desc)) (dRemote desc + i * dStride desc) (dLength desc) (dStride desc) inn with
    | none => (d.coreErr k 2 1).coreRaise k 0x0004 (idx + dBase desc * 2 ^ 9)
    | some r =>
      let (d, go) := d.dmaRun k desc (dLocal desc + i * dLength desc) r inn errs
      if go then Dev.dmaRuns d k desc idx inn errs n (i + 1) else d

/-- `DMA_IN` or `DMA_OUT` runs. -/
def Dev.doDma (d : Dev) (k op : Nat) (inn : Bool) (errs : List (Nat × Nat)) : Dev :=
  let idx := fld (opX op) 0 9
  let desc := d.descOf k idx
  d.dmaRuns k desc idx inn errs (dRuns desc) 0

end Sys2Proof.Machine
end

