-- ==== Sys2Proof/Machine/PoundOps.lean ====
section
/-! DEFINITION. The Pound: `POUND_ADD`, its flush and `POUND_DRAIN` (R163 to R168). -/

namespace Sys2Proof.Machine

open Sys2Proof

/-- The set of a key (R163). -/
def poundSet (key : Nat) : Nat := fld key 0 13 ^^^ fld key 13 13 ^^^ (fld key 26 6 * 2 ^ 7)

/-- The POUND entry of the show for core `k`. -/
def Dev.poundEntry (d : Dev) (k : Nat) : Option Nat :=
  match (d.core k).run.bind (fun r => d.showOf r.pasture) with
  | some s => (Tab.getD s.secs 9 []).find? (fun e => fld e 0 6 == k / 64 && fld e 6 6 == k % 64)
  | none => none

/-- Spill log: offset and entries it holds (R164). -/
def logOff (e : Nat) : Nat := fld e 32 23
def logRows (e : Nat) : Nat := fld e 64 8 + 1
def logCap (e : Nat) : Nat := 32 * logRows e

/-- The Pound holds entries. -/
def Pound.holds (p : Pound) : Bool := !p.resident.isEmpty || !p.log.isEmpty || !p.flushed.isEmpty

/-- Add two values of a type: the sum, and whether an I64 sum wrapped (R165). -/
def poundSum (vt a b : Nat) : Nat × Bool :=
  if vt = 1 then (to32 (add32 (of32 a) (of32 b)), false) else ((a + b) % 2 ^ 64, wrapsAt 64 a b)

/-- The 16 bytes of a pair (R87, R167). -/
def pairBytes (vt key v : Nat) : List Byte := leBytes key 8 ++ leBytes (if vt = 1 then v % 2 ^ 32 else v) 8

/-- The overflow region of core `k` takes a flush of the log (R166). -/
def Dev.canFlush (d : Dev) (k e : Nat) : Bool :=
  match Tab.get? (d.core k).bases (fld e 12 4) with
  | some (.linear _ limit _ ro _) => !ro && (d.core k).pound.ovBytes + 512 * logRows e ≤ limit
  | _ => false

/-- One pair is taken (R165). -/
def Dev.poundPair (d : Dev) (k e vt key v : Nat) : Dev :=
  let p := (d.core k).pound
  let d := d.corePerf k gPOUND 0 1
  match Tab.get? p.resident key with
  | some old =>
    let (s, w) := poundSum vt old v
    (d.modCore k (fun c => { c with pound := { c.pound with resident := Tab.put c.pound.resident key s } })).coreErr k 16 w.toNat
  | none =>
    if p.log.isEmpty && p.flushed.isEmpty && (p.resident.filter (fun q => poundSet q.1 == poundSet key)).length < 8 then
      d.modCore k (fun c => { c with pound := { c.pound with resident := Tab.put c.pound.resident key v } })
    else
      let d := d.spWrite k (logOff e + 16 * p.log.length) (pairBytes vt key v)
      (d.modCore k (fun c => { c with pound := { c.pound with log := c.pound.log ++ [(key, v)] } })).corePerf k gPOUND 1 1

/-- Pairs from pair `i`, `n` of them, until one fills the log: the pairs taken (R165, R166). -/
def Dev.poundPairs (d : Dev) (k pc op e : Nat) : Nat → Nat → Dev × Nat
  | 0, i => (d, i)
  | n + 1, i =>
    let vt := fld (opFlags op) 0 1
    let a := opX op + 16 * i
    let d := d.poundPair k e vt (d.spLE k a 4) (d.spLE k (a + 8) (if vt = 1 then 4 else 8))
    if logCap e ≤ (d.core k).pound.log.length then
      if d.canFlush k e then (d.modCore k (fun c => { c with pound := { c.pound with flushDue := true } }), i + 1)
      else ((d.coreErr k 17 1).coreRaise k 0x0007 (pc % 2 ^ 16), i + 1)
    else Dev.poundPairs d k pc op e n (i + 1)

/-- `POUND_ADD` runs from pair `done`: the pairs taken when it ends or waits for a flush. -/
def Dev.doPoundAdd (d : Dev) (k pc op done : Nat) : Dev × Nat :=
  let vt := fld (opFlags op) 0 1
  let n := fld (opY op) 0 17
  let p := (d.core k).pound
  if done = 0 && p.holds && p.vtype != some vt then ((d.coreErr k 15 1).coreRaise k 0x0006 (pc % 2 ^ 16), n)
  else
    let d := if p.holds then d else d.modCore k (fun c => { c with pound := { vtype := some vt } })
    d.poundPairs k pc op ((d.poundEntry k).getD 0) (n - done) done

/-- The flush: the whole log goes to the overflow region as rows, and the log is empty (R166). -/
def Dev.doFlush (d : Dev) (k stall : Nat) : Dev :=
  let e := (d.poundEntry k).getD 0
  match Tab.get? (d.core k).bases (fld e 12 4) with
  | some (.linear addr _ _ _ _) =>
    let bs := d.spRead k (logOff e) (512 * logRows e)
    let (x, d) := d.remoteWrite k (addr + (d.core k).pound.ovBytes) 0 false [] bs
    let d := (d.metPoison k x.poison).wideRows k (logRows e)
    let d := d.modCore k (fun c =>
      { c with pound := { c.pound with log := [], flushed := c.pound.flushed ++ c.pound.log, flushDue := false
                                       ovBytes := c.pound.ovBytes + 512 * logRows e } })
    (d.corePerf k gPOUND 2 1).corePerf k gPOUND 4 stall
  | _ => d.modCore k (fun c => { c with pound := { c.pound with flushDue := false } })

/-- The combined value of a key and the additions that wrapped (R167). -/
def Pound.value (p : Pound) (key : Nat) : Nat × Nat :=
  match Tab.get? p.resident key with
  | some v => (v, 0)
  | none =>
    match ((p.flushed ++ p.log).filter (fun q => q.1 == key)).map Prod.snd with
    | [] => (0, 0)
    | v :: vs => vs.foldl (fun a x => let (s, w) := poundSum (p.vtype.getD 0) a.1 x; (s, a.2 + w.toNat)) (v, 0)

/-- Keys that the Pound holds, ascending. -/
def Pound.keys (p : Pound) : List Nat :=
  Tab.keys ((p.flushed ++ p.log).foldl (fun t q => Tab.put t q.1 0) p.resident)

/-- The Pound without the keys `ks` (R167); with no spilled entry left, the log and the overflow region count as empty. -/
def Pound.drained (p : Pound) (ks : List Nat) : Pound :=
  let q := { p with
    resident := Tab.filt p.resident (fun k _ => !ks.contains k)
    log := p.log.filter (fun x => !ks.contains x.1), flushed := p.flushed.filter (fun x => !ks.contains x.1) }
  if !q.holds then {} else if q.log.isEmpty && q.flushed.isEmpty then { q with ovBytes := 0 } else q

/-- `POUND_DRAIN` runs (R167). -/
def Dev.doDrain (d : Dev) (k op : Nat) : Dev :=
  let p := (d.core k).pound
  let ks := p.keys.take (fld (opY op) 0 17)
  let vt := p.vtype.getD 0
  let d := d.spWrite k (opX op) (ks.flatMap (fun key => pairBytes vt key (p.value key).1))
  let d := d.spWrite k (opZ op) (leBytes ks.length 8)
  let d := d.corePerf k gPOUND 3 ks.length
  let d := d.coreErr k 16 (ks.foldl (fun n key => n + (p.value key).2) 0)
  if bit op 112 then
    let q := p.drained ks
    let e := (d.poundEntry k).getD 0
    let d := d.modCore k (fun c => { c with pound := q })
    if q.log.length < p.log.length then d.spWrite k (logOff e) (q.log.flatMap (fun x => pairBytes vt x.1 x.2)) else d
  else d

end Sys2Proof.Machine
end

