-- ==== Sys2Proof/Machine/Approx.lean ====
section
/-! DEFINITION. Functions that the spec gives to within units in the last place: exponentials, gates and reciprocal square roots
(R129, R137). Each is computed to some 200 bits, and a free number chooses a result within the bound. -/

namespace Sys2Proof.Machine

open Sys2Proof

/-- Sum of `n` terms of the exponential series at `x`, fixed point with 300 fraction bits, from term `t` of index `i`. -/
def expSeries (x : Nat) : Nat → Nat → Nat → Nat
  | 0, _, _ => 0
  | n + 1, i, t => t + expSeries x n (i + 1) (t * x / 2 ^ 300 / (i + 1))

/-- `s` squared `n` times in that fixed point. -/
def sqTimes : Nat → Nat → Nat
  | 0, s => s
  | n + 1, s => sqTimes n (s * s / 2 ^ 300)

/-- The exponential of a value, to more bits than F32 holds. -/
def expValue (v : Fl) : Fl :=
  match v with
  | .nan => .nan
  | .inf s => if s then .fin false 0 0 else .inf false
  | .fin s m e =>
    if m = 0 then .fin false 1 0
    else if 9 < e + Nat.log2 m then (if s then .fin false 0 0 else .inf false)
    else
      let x := (units m e (-284)).1
      let r := sqTimes 16 (expSeries x 45 0 (2 ^ 300))
      if s then .fin false (2 ^ 2100 / r) (-1800) else .fin false r (-300)

/-- An F32 number within `k` units in the last place of `v`, chosen by the free number `r`: up to 2·`k` representable steps from `v`
rounded to nearest, where that stays finite and within the bound, else `v` rounded to nearest. -/
def withinUlp (v : Fl) (k r : Nat) : Fl :=
  let near := flRound f32 v
  match v, near with
  | .fin _ m e, .fin _ _ _ =>
    let n : Int := (r % (4 * k + 1) : Nat) - (2 * k : Nat)
    if m = 0 || n = 0 then near
    else
      let b := to32 near
      let o : Int := (if b < 2 ^ 31 then (b : Int) else -((b - 2 ^ 31 : Nat) : Int)) + n
      match of32 (if o < 0 then 2 ^ 31 + o.natAbs else o.natAbs) with
      | .fin t a q => if flCmp (flAbs (flAdd (.fin t a q) (flNeg v))) (.fin false k (unitExp f32 m e)) ≤ 0 then .fin t a q else near
      | _ => near
  | _, _ => near

/-- GELU and SiLU of R129. -/
def gateFn (g : Nat) (u : Fl) : Fl :=
  match u with
  | .nan => .nan
  | .inf s => if s then .fin true 0 0 else .inf false
  | .fin _ m _ =>
    if m = 0 then u
    else
      let y := if g = 4 then
          let cube := flDiv (flMul (flOfInt 44715) (flMul u (flMul u u))) (flOfInt 1000000)
          flDiv (flMul (flOfInt 15957692) (flAdd u cube)) (flOfInt 10000000)
        else u
      withinUlp (flDiv u (flAdd (flOfInt 1) (expValue (flNeg y)))) 2 (Config.gateOff g (to32 u))

/-- The reciprocal square root of a value, within one unit in the last place by the free number `r` (R137). -/
def rsqrt (v : Fl) (r : Nat) : Fl := withinUlp (flDiv (flOfInt 1) (flSqrt v)) 1 r

/-- The exponential within two units in the last place by the free number `r` (R137). -/
def expNear (v : Fl) (r : Nat) : Fl := withinUlp (expValue v) 2 r

end Sys2Proof.Machine
end

