-- ==== Sys2Proof/Machine/Requant.lean ====
section
/-! DEFINITION. `REQUANT`: slots or vectors to an output format, with the range monitors (R126 to R131, R140, R141). -/

namespace Sys2Proof.Machine

open Sys2Proof

/-- Bytes of a table at offset `off`, free where the table is absent (R127). -/
def tabBytes (d : Dev) (k off o n : Nat) : List Byte :=
  if off = 0 then (List.range n).map (fun i => BitVec.ofNat 8 (Config.free (d.draws + o + i)))
  else d.spRead k (off + o) n

/-- The F32 of index `i` in a table at offset `off`, or `dflt` where the table is absent. -/
def tab32 (d : Dev) (k off i : Nat) (dflt : Fl) : Fl := if off = 0 then dflt else d.spF32 k (off + 4 * i)

/-- +0. -/
def fl0 : Fl := .fin false 0 0

/-- A value above zero. -/
def flPos (v : Fl) : Bool := flLt fl0 v

/-- The gate `g` with shift `beta` (R129). -/
def gate (g : Nat) (beta u : Fl) : Fl :=
  if u.isNaN then .nan
  else
    let relu := if flPos u then u else fl0
    if g = 0 then u else if g = 1 then relu else if g = 2 then mul32 relu relu
    else if g = 3 then (if !beta.isNaN && !flLt u beta then sub32 u beta else fl0)
    else gateFn g u

/-- One element before its output rounding: its place, z and w (R128). -/
structure ReqElem where
  /-- Column is masked, so that it draws nothing (R69, R112) -/
  masked : Bool
  /-- z -/
  z : Fl
  /-- w = z · q -/
  w : Fl
  deriving DecidableEq, Repr

/-- Slots of a `REQUANT`. -/
def rqSlots (op : Nat) : Nat := fld (opFlags op) 4 3 + 1

/-- Base slot of a `REQUANT`. -/
def rqBase (op : Nat) : Nat := fld (opZ op) 0 3

/-- The value v of a slot under its common exponent: NaN where a block of exponent 255, whose elements are NaN, has fed it (R66,
R103, R128). -/
def slotValue (x : Int) (e : Nat) : Fl :=
  if e = 255 then .nan else flRound f32 (flMul (flRound f32 (flOfInt x)) (.fin false 1 ((e : Int) - 127)))

/-- The elements of a `REQUANT` with parameter block at `y`, in element order (R126, R128, R130). -/
def reqElems (d : Dev) (k op : Nat) : List ReqElem :=
  let c := d.core k
  let y := opY op
  let f (i : Nat) := d.spLE k (y + 4 * i) 4
  let q := of32 (f 5)
  let beta := of32 (f 6)
  let sel := selected op
  let n := sel.length
  (List.range (rqSlots op)).flatMap (fun i =>
    sel.zipIdx.flatMap (fun a =>
      (List.range 8).map (fun col =>
        let arr := c.arr a.1
        let s := rqBase op + i
        let e := (i * n + a.2) * 8 + col
        let corr := tab32 d k (f 3) e fl0
        let u :=
          if f 0 = 0 then corr
          else
            let v := slotValue (Tab.getD arr.slots (s * 8 + col) 0) (Tab.getD arr.exps s 127)
            let g := mul32 (d.spF32 k (f 0 + 4 * (a.2 * 8 + col))) (tab32 d k (f 1) i (flOfInt 1))
            fma32 v g corr
        let u := add32 u (tab32 d k (f 2) (a.2 * 8 + col) fl0)
        let u := add32 u (tab32 d k (f 4) e fl0)
        let m := bit (Tab.getD arr.inactive s 0) col
        let z := if m then fl0 else gate (fld (opFlags op) 0 4) beta u
        { masked := m, z, w := mul32 z q })))

/-- The generator outputs for the elements of a `REQUANT` in STOCHASTIC rounding, and the arrays' new generator states: by slot in
ascending order, then by column (R112). -/
def drawAll (d : Dev) (k op : Nat) (es : List ReqElem) : Tab Nat × Core :=
  let sel := selected op
  let n := sel.length
  let die := k / 64
  let core := k % 64
  sel.zipIdx.foldl (fun acc a =>
    (List.range (rqSlots op)).foldl (fun acc i =>
      (List.range 8).foldl (fun acc col =>
        let e := (i * n + a.2) * 8 + col
        match es[e]? with
        | some x =>
          if x.masked then acc
          else
            let g := col % 4
            let s := xorshift (Tab.getD (acc.2.arr a.1).gens g (genReset die core a.1 g))
            (Tab.put acc.1 e s, acc.2.modArr a.1 (fun r => { r with gens := Tab.put r.gens g s }))
        | none => acc) acc) acc) ([], d.core k)

/-- The outcome of an output: its bytes, by element whether it saturated and whether it is zero, and NaN conversions counted. -/
structure ReqOut where
  /-- Output bytes -/
  bytes : List Byte
  /-- Saturated elements -/
  sat : List Bool
  /-- Elements written as zero -/
  zero : List Bool
  /-- `CORE_NAN` advance -/
  nans : Nat := 0
  deriving DecidableEq, Repr

/-- Blocks of 32 elements; `n` bounds them. -/
def blocks32 {α : Type} : Nat → List α → List (List α)
  | 0, _ => []
  | n + 1, l => if l.isEmpty then [] else l.take 32 :: blocks32 n (l.drop 32)

/-- Convert elements (value, rounding) to format `c` (R104, R109 to R111). -/
def convert (c : Nat) (es : List (Fl × Round)) : ReqOut :=
  if c = cI4 || c = cI8 then
    let lim := if c = cI4 then 7 else 127
    let r := es.map (fun e => flToInt e.2 lim 0 e.1)
    { bytes := if c = cI4 then packI4 (r.map Prod.fst) else packI8 (r.map Prod.fst)
      sat := r.map Prod.snd, zero := r.map (fun x => x.1 == 0), nans := (es.filter (fun e => e.1.isNaN)).length }
  else if c = cBX4 || c = cBX8 then
    let four := c == cBX4
    let lim := if four then 7 else 127
    let one (b : List (Fl × Round)) : (Nat × List Int) × List Bool × List Bool × Nat :=
      let e := bxExp four (b.map Prod.fst)
      if e = 255 then ((255, List.replicate 32 0), b.map (fun _ => false), b.map (fun _ => false), 1)
      else
        let r := b.map (fun x => flToInt x.2 lim ((e : Int) - 127) x.1)
        let capped := e == 254 && b.any (fun x => match x.1 with
          | .fin _ m q => m != 0 && decide (254 < 127 + (q + Nat.log2 m) - (if four then 2 else 6))
          | _ => false)
        ((e, r.map Prod.fst ++ List.replicate (32 - b.length) 0), r.map (fun x => x.2 && capped), r.map (fun x => x.1 == 0), 0)
    let bs := (blocks32 es.length es).map one
    let (n, _, _) := bxShape four
    let rec rows (fuel : Nat) (l : List (Nat × List Int)) : List Byte :=
      match fuel with
      | 0 => []
      | f + 1 => if l.isEmpty then [] else bxRowBytes four (l.take n) ++ rows f (l.drop n)
    { bytes := rows bs.length (bs.map Prod.fst), sat := bs.flatMap (fun b => b.2.1), zero := bs.flatMap (fun b => b.2.2.1)
      nans := bs.foldl (fun m b => m + b.2.2.2) 0 }
  else
    match fmtOf c with
    | some f =>
      let r := es.map (fun e => flPack f e.2 e.1)
      { bytes := packElems c (r.map Prod.fst), sat := r.map Prod.snd, zero := r.map (fun x => x.1 % 2 ^ (f.eb + f.mb) == 0) }
    | none => { bytes := [], sat := [], zero := [] }

/-- The statistics of an output (R140). -/
def monOf (es : List ReqElem) (o : ReqOut) : Mon :=
  let count (l : List Bool) : Nat := (l.filter id).length
  let m := es.foldl (fun m e => match e.z with
    | .fin _ _ _ => if flCmp m (flAbs e.z) < 0 then flAbs e.z else m
    | _ => m) fl0
  { elems := es.length, sat := count o.sat, zero := count o.zero, maxabs := to32 m
    satBlocks := ((blocks32 o.sat.length o.sat).filter (fun b => b.any id)).length
    zeroBlocks := ((blocks32 o.zero.length o.zero).filter (fun b => b.all id)).length }

/-- Statistics added up. -/
def Mon.add (a b : Mon) : Mon :=
  { elems := a.elems + b.elems, sat := a.sat + b.sat, zero := a.zero + b.zero, satBlocks := a.satBlocks + b.satBlocks
    zeroBlocks := a.zeroBlocks + b.zeroBlocks, maxabs := if flLt (of32 a.maxabs) (of32 b.maxabs) then b.maxabs else a.maxabs }

/-- Statistics reach monitor `i` of the core: at most 64 monitors a step (R140). -/
def Dev.monitor (d : Dev) (k i : Nat) (m : Mon) : Dev :=
  if i = 0xFFFF then d
  else
    let c := d.core k
    if (Tab.get? c.mons i).isNone && 64 ≤ c.mons.length then d.coreErr k 14 1
    else d.modCore k (fun c => { c with mons := Tab.put c.mons i ((Tab.getD c.mons i {}).add m) })

/-- The block of a `REQUANT` names a table out of bounds (R131). -/
def reqBad (d : Dev) (k op : Nat) : Bool :=
  let n := (selected op).length
  let s := rqSlots op
  let f (i : Nat) := d.spLE k (opY op + 4 * i) 4
  tableBad k (f 0) (32 * n) || tableBad k (f 1) (4 * s) || tableBad k (f 2) (32 * n) || tableBad k (f 3) (32 * n * s) ||
  tableBad k (f 4) (32 * n * s)

/-- Whole 8-byte words that `n` bytes at offset `off` touch. -/
def wordsOf (off n : Nat) : Nat := if n = 0 then 0 else (off + n + 7) / 8 - off / 8

/-- W of R508: the words that a `REQUANT` reads from its tables and writes as output. -/
def requantWords (d : Dev) (k op out : Nat) : Nat :=
  let n := (selected op).length
  let s := rqSlots op
  let t (i bytes : Nat) : Nat := let o := d.spLE k (opY op + 4 * i) 4; if o = 0 then 0 else wordsOf o bytes
  t 0 (32 * n) + t 1 (4 * s) + t 2 (32 * n) + t 3 (32 * n * s) + t 4 (32 * n * s) + wordsOf (opX op) out

/-- `REQUANT` runs (R128). -/
def Dev.doRequant (d : Dev) (k pc op : Nat) : Dev :=
  if reqBad d k op then d.paramBounds k pc
  else
    let es := reqElems d k op
    let stoch := d.coreKeyVal k kRounding == 1
    let (us, c) := if stoch then drawAll d k op es else ([], d.core k)
    let vals := es.zipIdx.map (fun e => (e.1.w, if stoch && !e.1.masked then Round.stochastic (Tab.getD us e.2 0) else .nearest))
    let o := convert (opOut op) vals
    let x := if opOut op = cBX4 || opOut op = cBX8 then opX op / 512 * 512 else opX op
    let m := monOf es o
    let d := d.corePerf k gSPAD 3 (requantWords d k op o.bytes.length)
    let d := (d.modCore k (fun _ => c)).spWrite k x o.bytes
    let d := d.monitor k (d.spLE k (opY op + 28) 2) m
    let d := d.corePerf k gPREC 2 es.length
    let d := d.coreErr k 7 o.nans
    let d := d.coreErr k 8 m.sat
    let d := d.coreErr k 9 m.satBlocks
    let d := d.coreErr k 10 m.zero
    d.coreErr k 11 m.zeroBlocks

end Sys2Proof.Machine
end

