-- ==== Sys2Proof/Machine/Vector.lean ====
section
/-! DEFINITION. The vector unit's other ops: `SCREEN`, `LRANK`, `NORM`, `SOFTMAX`, `AUDIT` (R132 to R137, R144 to R147, R170 to
R174, R190). -/

namespace Sys2Proof.Machine

open Sys2Proof

/-! Chains and trees (R133, R137). -/

/-- A chain of F32 FMAs in ascending index, from `z`. -/
def chain (z : Fl) (xs : List (Fl × Fl)) : Fl := xs.foldl (fun s p => fma32 p.1 p.2 s) z

/-- Combine two lane results, where a lane without elements has none. -/
def comb2 {α : Type} (f : α → α → α) (a b : Option α) : Option α :=
  match a, b with
  | some x, some y => some (f x y)
  | some x, none => some x
  | none, y => y

/-- Pairs of a list combined, the left one first. -/
def pairUp {α : Type} (f : α → α → α) : List (Option α) → List (Option α)
  | a :: b :: r => comb2 f a b :: pairUp f r
  | r => r

/-- The lane tree over a row of which some elements take no part (R137): element k goes to lane k mod 64, and six levels combine the
lanes pairwise. -/
def laneTreeO {α : Type} (f : α → α → α) (xs : List (Option α)) : Option α :=
  let lanes := (List.range 64).map (fun l =>
    (xs.zipIdx.filter (fun p => p.2 % 64 == l)).foldl (fun a p => comb2 f a p.1) none)
  ((Nat.repeat (pairUp f) 6 lanes).head?).join

/-- The lane tree over a whole row (R137). -/
def laneTree {α : Type} (f : α → α → α) (xs : List α) : Option α := laneTreeO f (xs.map some)

/-- A moments triple: count, mean, M2. -/
abbrev Moments := Fl × Fl × Fl

/-- The merge of R190. -/
def mergeMoments (a b : Moments) : Moments :=
  if a.1.isZero then b
  else if b.1.isZero then a
  else
    let n := add32 a.1 b.1
    let dd := sub32 b.2.1 a.2.1
    let f := div32 b.1 n
    let mu := fma32 dd f a.2.1
    let g := mul32 a.1 f
    let t := mul32 dd g
    (n, mu, fma32 t dd (add32 a.2.2 b.2.2))

/-! `LRANK` (R132 to R135). -/

/-- Element `i` of a BF16 table at offset `off`. -/
def bf16At (d : Dev) (k off i : Nat) : Fl := flDecode bf16 (leNat (tabBytes d k off (2 * i) 2))

/-- F32 values as bytes. -/
def bytes32 (l : List Fl) : List Byte := l.flatMap (fun v => leBytes (to32 v) 4)

/-- t = V·x of R133, for an input vector. -/
def lrankT (d : Dev) (k v r din : Nat) (x : List Fl) : List Fl :=
  (List.range r).map (fun j => chain fl0 (x.zipIdx.map (fun p => (bf16At d k v (j * din + p.2), p.1))))

/-- The input vector of token `t`. -/
def lrankX (d : Dev) (k x din t : Nat) : List Fl := (List.range din).map (fun i => flDecode bf16 (d.spLE k (x + 2 * (t * din + i)) 2))

/-- A table of `n` F32 values at offset `off`. -/
def row32 (d : Dev) (k off n : Nat) : List Fl := (List.range n).map (fun i => tab32 d k off i fl0)

/-- MODE 1 for one token (R134). -/
def lrankGrad (d : Dev) (k op t : Nat) : Dev :=
  let y := opY op
  let f (i : Nat) := d.spLE k (y + 4 * i) 4
  let r := fld (f 0) 0 6 + 1
  let din := f 1
  let dout := f 2
  let x := lrankX d k (opX op) din t
  let tv := lrankT d k (f 4) r din x
  let dl := (List.range dout).map (fun o => bf16At d k (f 6) (t * dout + o))
  let g := (List.range r).map (fun j => chain fl0 (dl.zipIdx.map (fun p => (bf16At d k (f 5) (p.2 * r + j), p.1))))
  let du := dl.zipIdx.flatMap (fun o => tv.zipIdx.map (fun j => fma32 o.1 j.1 (tab32 d k (f 7) (o.2 * r + j.2) fl0)))
  let dv := g.zipIdx.flatMap (fun j => x.zipIdx.map (fun p => fma32 j.1 p.1 (tab32 d k (f 8) (j.2 * din + p.2) fl0)))
  let dx := (List.range din).map (fun p =>
    chain (tab32 d k (f 9) (t * din + p) fl0) (g.zipIdx.map (fun j => (bf16At d k (f 4) (j.2 * din + p), j.1))))
  let put (d : Dev) (off i : Nat) (l : List Fl) : Dev := if off = 0 then d else d.spWrite k (off + 4 * i) (bytes32 l)
  put (put (put d (f 7) 0 du) (f 8) 0 dv) (f 9) (t * din) dx

/-- `LRANK` runs (R132 to R135). -/
def Dev.doLrank (d : Dev) (k pc op : Nat) : Dev :=
  let y := opY op
  let f (i : Nat) := d.spLE k (y + 4 * i) 4
  let r := fld (f 0) 0 6 + 1
  let mode := fld (f 0) 8 2
  let din := f 1
  let dout := f 2
  let tokens := f 3
  let bad (off n : Nat) : Bool := tableBad k off n
  let past (off n : Nat) : Bool := spSize k < off + n
  let shape := din == 0 || 16384 < din || dout == 0 || 16384 < dout || tokens == 0 || 512 < tokens
  let wrong :=
    mode == 3 || fld (f 0) 6 2 != 0 || fld (f 0) 10 22 != 0 || f 15 != 0 || shape ||
    (if mode == 2 then
      past (opX op) (4 * f 12) || past (opZ op) (2 * f 12) || bad (f 13) (4 * f 12) || bad (f 14) (4 * f 12)
    else
      past (opX op) (2 * din * tokens) || bad (f 4) (2 * r * din) || bad (f 5) (2 * dout * r) ||
      (if mode == 0 then past (opZ op) (4 * dout * tokens)
       else bad (f 6) (2 * dout * tokens) || bad (f 7) (4 * dout * r) || bad (f 8) (4 * r * din) || bad (f 9) (4 * din * tokens)))
  if wrong then d.paramBounds k pc
  else if mode = 0 then
    let out := (List.range tokens).flatMap (fun t =>
      let tv := lrankT d k (f 4) r din (lrankX d k (opX op) din t)
      (List.range dout).map (fun o => chain fl0 (tv.zipIdx.map (fun j => (bf16At d k (f 5) (o * r + j.2), j.1)))))
    (d.spWrite k (opZ op) (bytes32 out)).corePerf k gPREC 4 tokens
  else if mode = 1 then ((List.range tokens).foldl (fun d t => lrankGrad d k op t) d).corePerf k gPREC 4 tokens
  else
    let n := f 12
    let m := (List.range n).map (fun i => fma32 (of32 (f 11)) (tab32 d k (f 14) i fl0) (d.spF32 k (opX op + 4 * i)))
    let w := m.zipIdx.map (fun p => fma32 (flNeg (of32 (f 10))) p.1 (tab32 d k (f 13) p.2 fl0))
    let put (d : Dev) (off : Nat) (b : List Byte) : Dev := if off = 0 then d else d.spWrite k off b
    let d := put (put d (f 14) (bytes32 m)) (f 13) (bytes32 w)
    d.spWrite k (opZ op) (w.flatMap (fun v => leBytes (flPack bf16 .nearest v).1 2))

/-! `NORM` and `SOFTMAX` (R136, R137). -/

/-- The values of a row of `n` elements of format `c` at offset `off`. -/
def rowVals (d : Dev) (k c off n : Nat) : List Fl := (List.range n).map (fun i => d.spElem k c off i)

/-- Elements written in format `c`, rounded to nearest (R108). -/
def packRow (c : Nat) (l : List Fl) : List Byte :=
  match fmtOf c with
  | some f => packElems c (l.map (fun v => (flPack f .nearest v).1))
  | none => []

/-- `NORM` runs (R137). -/
def Dev.doNorm (d : Dev) (k pc op : Nat) : Dev :=
  let z := opZ op
  let f (i : Nat) := d.spLE k (z + 4 * i) 4
  let kind := fld (opFlags op) 0 2
  let n := f 0
  let rows := f 1
  let inB := fmtBits (opIn op) / 8
  let outB := fmtBits (opOut op) / 8
  let strideI := if f 5 = 0 then n * inB else f 5
  let strideO := if f 5 = 0 then n * outB else f 5
  let wrong := n == 0 || 65536 < n || rows == 0 || 4096 < rows || tableBad k (f 3) (4 * n) || tableBad k (f 4) (4 * n) ||
    spSize k < opX op + strideI * (rows - 1) + n * inB ||
    spSize k < opY op + (if kind = 2 then 12 * rows else strideO * (rows - 1) + n * outB)
  if wrong then d.paramBounds k pc
  else
    let nF := flOfInt n
    (List.range rows).foldl (fun d r =>
      let xs := rowVals d k (opIn op) (opX op + strideI * r) n
      let m := (laneTree mergeMoments (xs.map (fun x => ((flOfInt 1, x, fl0) : Moments)))).getD (fl0, fl0, fl0)
      if kind = 2 then d.spWrite k (opY op + 12 * r) (bytes32 [m.1, m.2.1, m.2.2])
      else
        let mu := if kind = 0 then m.2.1 else fl0
        let var := if kind = 0 then div32 m.2.2 nF
          else div32 ((laneTree add32 (xs.map (fun x => mul32 x x))).getD fl0) nF
        let (u, d) := d.draw 3
        let rho := rsqrt (add32 var (of32 (f 2))) u
        let ys := xs.zipIdx.map (fun p =>
          let b := if kind = 0 then tab32 d k (f 4) p.2 fl0 else fl0
          add32 (mul32 (mul32 (sub32 p.1 mu) rho) (tab32 d k (f 3) p.2 (flOfInt 1))) b)
        d.spWrite k (opY op + strideO * r) (packRow (opOut op) ys)) d

/-- The larger of two values; a NaN is passed over. -/
def flMax (a b : Fl) : Fl := if a.isNaN then b else if b.isNaN then a else if flCmp a b < 0 then b else a

/-- `SOFTMAX` runs (R137). -/
def Dev.doSoftmax (d : Dev) (k pc op : Nat) : Dev :=
  let z := opZ op
  let f (i : Nat) := d.spLE k (z + 4 * i) 4
  let n := f 0
  let rows := f 1
  let inB := fmtBits (opIn op) / 8
  let outB := fmtBits (opOut op) / 8
  let strideI := if f 4 = 0 then n * inB else f 4
  let strideO := if f 4 = 0 then n * outB else f 4
  let wrong := n == 0 || 65536 < n || rows == 0 || 4096 < rows || tableBad k (f 3) (cdiv n 64 * 8 * rows) ||
    spSize k < opX op + strideI * (rows - 1) + n * inB || spSize k < opY op + strideO * (rows - 1) + n * outB
  if wrong then d.paramBounds k pc
  else
    (List.range rows).foldl (fun d r =>
      let mask (i : Nat) : Bool := f 3 != 0 && bit (d.spLE k (f 3 + r * (cdiv n 64 * 8) + i / 8) 1) (i % 8)
      let as_ := (rowVals d k (opIn op) (opX op + strideI * r) n).map (fun x => mul32 (of32 (f 2)) x)
      let m := as_.zipIdx.foldl (fun m p => if mask p.2 then m else flMax m p.1) (.inf true)
      let es := as_.zipIdx.map (fun p => if mask p.2 then none else some (expNear (sub32 p.1 m) (Config.free (d.draws + p.2))))
      let s := (laneTreeO add32 es).getD fl0
      let d := { d with draws := d.draws + n }
      let ys := es.map (fun e => match e with
        | some v => div32 v s
        | none => fl0)
      d.spWrite k (opY op + strideO * r) (packRow (opOut op) ys)) d

/-! `SCREEN` (R87, R171 to R174). -/

/-- A48 thresholds: `n` of them from offset `off`. -/
def thresholds (d : Dev) (k off n : Nat) : List Int := (List.range n).map (fun i => sInt 48 (leNat (tabBytes d k off (8 * i) 8)))

/-- The activations of a predictor's sample, as the array would receive them (R51, R66, R173). -/
def sampleActs (d : Dev) (k xfmt off din : Nat) : List Int :=
  if xfmt = 0 then (List.range din).map (fun i => actClamp false (sInt 8 (leNat (tabBytes d k off i 1))))
  else if xfmt = 1 then (List.range din).map (fun i => actClamp true (i4At (tabBytes d k off (i / 2) 1) (i % 2)))
  else
    let four := xfmt == 3
    let (n, _, _) := bxShape four
    let blocks := (List.range (cdiv din (32 * n))).flatMap (fun r => bxRow four (tabBytes d k off (512 * r) 512))
    let used := blocks.take (cdiv din 32)
    let m := used.foldl (fun m b => max m b.1) 0
    (used.flatMap (fun b => b.2.map (fun x => shiftRound (actClamp four x) (m - b.1)))).take din

/-- The exact slot value of neuron `o` (R173). -/
def sampleValue (d : Dev) (k wt din o : Nat) (xs : List Int) : Int :=
  xs.zipIdx.foldl (fun s p =>
    let tile := leNat (tabBytes d k wt (2 * din * (o / 8) + 16 * (p.2 / 8)) 16)
    s + tileWeight tile (p.2 % 8) (o % 8) * p.1) 0

/-- The predictor of a `SCREEN` op (R171 to R174). -/
def Dev.predict (d : Dev) (k pc op : Nat) (repair : Bool) : Dev :=
  let y := opY op
  let f (i : Nat) := d.spLE k (y + 4 * i) 4
  let r := fld (f 0) 0 6 + 1
  let xfmt := fld (f 0) 6 2
  let din := f 1
  let dout := f 2
  let xqBytes := if xfmt = 0 then din else if xfmt = 1 then cdiv din 2 else if xfmt = 2 then 512 * cdiv din 480 else 512 * cdiv din 960
  let wrong := fld (f 0) 8 24 != 0 || din < 64 || 16384 < din || dout < 64 || 65536 < dout || dout % 64 != 0 ||
    tableBad k (f 3) (2 * din) || tableBad k (f 4) (2 * r * din) || tableBad k (f 5) (2 * dout * r) || tableBad k (f 6) (4 * dout) ||
    tableBad k (f 7) xqBytes || tableBad k (f 8) (2 * din * (dout / 8)) || tableBad k (f 9) (8 * dout) ||
    spSize k < opZ op + 16 * (dout / 64)
  if wrong then d.paramBounds k pc
  else
    let xb := (List.range din).map (fun i => bf16At d k (f 3) i)
    let h := lrankT d k (f 4) r din xb
    let active (o : Nat) : Bool :=
      let s := chain fl0 (h.zipIdx.map (fun j => (bf16At d k (f 5) (o * r + j.2), j.1)))
      let t := of32 (leNat (tabBytes d k (f 6) (4 * o) 4))
      !s.isNaN && !t.isNaN && !flLt s t
    let groups := List.range (dout / 64)
    let bits (g : Nat) : Nat := maskOf ((List.range 64).filter (fun i => active (64 * g + i)))
    let gs := groups.map bits
    let skipped := (gs.zipIdx.filter (fun p => p.1 == 0)).flatMap (fun p => (List.range 64).map (fun i => 64 * p.2 + i))
    let phase0 := k + (d.core k).sample
    let sampled := (skipped.zipIdx.filter (fun p => (phase0 + p.2) % 2 ^ 32 % 64 == 0)).map Prod.fst
    let xs := sampleActs d k xfmt (f 7) din
    let misses := sampled.filter (fun o => (thresholds d k (f 9 + (if f 9 = 0 then 0 else 8 * o)) 1).headD 0 ≤ sampleValue d k (f 8) din o xs)
    let repaired := if repair then (misses.map (· / 64)).eraseDups else []
    let entry (p : Nat × Nat) : List Byte :=
      let rep := repaired.contains p.2
      leBytes p.1 8 ++ leBytes ((if p.1 != 0 || rep then 1 else 0) + (if rep then 2 else 0)) 8
    let d := d.spWrite k (opZ op) (gs.zipIdx.flatMap entry)
    let d := d.modCore k (fun c => { c with sample := (c.sample + skipped.length) % 2 ^ 32 })
    let outside := (sampled.filter (fun o => !repaired.contains (o / 64))).length
    let d := d.corePerf k gPRED 0 skipped.length
    let d := d.corePerf k gPRED 1 sampled.length
    let d := d.corePerf k gPRED 2 misses.length
    let d := d.corePerf k gPRED 3 repaired.length
    let d := d.corePerf k gPRED 5 (skipped.length - 64 * repaired.length - outside)
    d.corePerf k gPRED 6 (cdiv (r * din + dout * r) 64 + sampled.length * (cdiv (3 * din) 128 + 8))

/-- `SCREEN` runs (R87, R170). -/
def Dev.doScreen (d : Dev) (k pc op : Nat) : Dev :=
  let load (d : Dev) : Dev :=
    let sel := selected op
    d.modCore k (fun c => sel.zipIdx.foldl (fun c a =>
      c.modArr a.1 (fun x => { x with theta := (List.range 8).map (fun i => sInt 48 (d.spLE k (opX op + 64 * a.2 + 8 * i) 8)) })) c)
  let s := d.coreKeyVal k kScreen
  let d := d.corePerf k gSPAD 3 (8 * (selected op).length)
  if 2 ≤ s && opY op != 0 then
    let e := d.predict k pc op (s == 3)
    if (e.core k).run.isNone then e else load e
  else load d

/-! `AUDIT` (R144 to R147). -/

/-- The drift of candidate (array place `n`, slot `s`, slot index `i`): its largest column and its value (R146). -/
def drift (d : Dev) (k op kk weights act refscale n a s i : Nat) : Nat × Fl :=
  let nsel := (selected op).length
  let arr := (d.core k).arr a
  let e : Nat := Tab.getD arr.exps s 127
  let tiles := (List.range (kk / 8)).map (fun j => leNat (tabBytes d k weights (16 * (j * nsel + n)) 16))
  let xs := (List.range kk).map (fun j =>
    flRound f32 (flMul (flMul (bf16At d k (if act = 0 then 0 else act + 2 * kk * i) j) (of32 refscale)) (.fin false 1 (127 - (e : Int)))))
  let one (c : Nat) : Option Fl :=
    let cnt : Nat := tiles.foldl (fun m t => m + colCount t c) 0
    if cnt = 0 || bit (Tab.getD arr.inactive s 0) c then none
    else
      let terms := xs.zipIdx.map (fun p =>
        let w := tileWeight (tiles.getD (p.2 / 8) 0) (p.2 % 8) c
        if w = 0 then flMul fl0 p.1 else if w = 1 then p.1 else flNeg p.1)
      let ref := (laneTree add32 terms).getD fl0
      let v := flRound f32 (flOfInt (Tab.getD arr.slots (s * 8 + c) 0))
      some (div32 (flAbs (sub32 v ref)) (sqrt32 (flRound f32 (flOfInt cnt))))
  (List.range 8).foldl (fun best c => match one c with
    | some x => if best.2.isNaN then best else if x.isNaN || flLt best.2 x then (c, x) else best
    | none => best) (0, fl0)

/-- Bits of an audit record (R147). -/
def auditRecord (layer a s c : Nat) (e : Fl) (beat : Nat) : Nat :=
  layer % 2 ^ 16 + a * 2 ^ 16 + s * 2 ^ 22 + c * 2 ^ 25 + to32 e * 2 ^ 32 + beat * 2 ^ 64

/-- An image block that clean audits reached: packed owner, image and block (R433). -/
def packBlock (owner img blk : Nat) : Nat := (owner * 2 ^ 10 + img) * 2 ^ 32 + blk

/-- The blocks audited are clean as of now (R433). -/
def Dev.markClean (d : Dev) (l : List Nat) : Dev :=
  l.foldl (fun d b =>
    d.modImage (b / 2 ^ 42) (b / 2 ^ 32 % 2 ^ 10) (fun i => { i with clean := Tab.put i.clean (b % 2 ^ 32) d.beat.now })) d

/-- `AUDIT` runs (R144 to R147); `tiles` lists the image blocks in which its tiles lie, each behind the place of its
array among the selected ones. -/
def Dev.doAudit (d : Dev) (k pc op : Nat) (tiles : List Nat) : Dev :=
  let nn := d.coreKeyVal k kAudit
  if nn = 0 then d
  else
    let x := opX op
    let f (i : Nat) := d.spLE k (x + 4 * i) 4
    let layer := fld (f 0) 0 16
    let s0 := fld (f 0) 16 3
    let cnt := fld (f 0) 19 3 + 1
    let sel := selected op
    let kk := f 1
    let wrong := 8 < s0 + cnt || tableBad k (f 2) (2 * kk * sel.length) || tableBad k (f 3) (2 * kk * cnt) || tableBad k (f 6) (16 * sel.length * cnt)
    if wrong then d.paramBounds k pc
    else
      let cands := (List.range cnt).flatMap (fun i => sel.zipIdx.map (fun a => (i, a.2, a.1)))
      cands.zipIdx.foldl (fun d q =>
        let (i, n, a) := q.1
        let phase := (k + (d.core k).audit) % 2 ^ 32
        let d := d.modCore k (fun c => { c with audit := (c.audit + 1) % 2 ^ 32 })
        if phase % nn ≠ 0 then d
        else
          let s := s0 + i
          let (c, e) := drift d k op kk (f 2) (f 3) (f 4) n a s i
          let over_ := e.isNaN || flLt (of32 (f 5)) e
          let d := d.corePerf k gPREC 0 1
          let d := d.corePerf k gPREC 1 (cdiv (8 * kk) 64)
          let d := if f 6 = 0 then d else d.spWrite k (f 6 + 16 * q.2) (leBytes (auditRecord layer a s c e d.beat.now) 16)
          if over_ then
            let d := d.coreErr k 12 1
            if (d.core k).drifted.contains layer then d
            else
              let d := d.modCore k (fun c => { c with drifted := layer :: c.drifted })
              d.notice 0x0048 (k / 64) (k % 64) (((d.core k).run.map (fun r => r.pasture)).getD 31) (auditRecord layer a s c e 0)
          else d.markClean ((tiles.filter (fun b => b / 2 ^ 64 == n)).map (· % 2 ^ 64))) d

end Sys2Proof.Machine
end

