-- ==== Sys2Proof/Machine/Reductions.lean ====
section
/-! DEFINITION. Reductions across cores, dies and packages: contributions, the tree, arrivals, results (R178 to R193). -/

namespace Sys2Proof.Machine

open Sys2Proof

/-! Reduction entries (R178). -/

def rOp (e : Nat) : Nat := fld e 0 4
def rType (e : Nat) : Nat := fld e 4 3
def rMode (e : Nat) : Nat := fld e 8 2
def rCount (e : Nat) : Nat := fld e 16 16 + 1
def rElems (e : Nat) : Nat := fld e 32 22 + 1
def rCchan (e : Nat) : Nat := fld e 64 12
def rRchan (e : Nat) : Nat := fld e 76 12
def rPhase0 (e : Nat) : Nat := fld e 96 24
def rSpace (e : Nat) : Nat := fld e 128 16
def rBuf (e : Nat) : Nat := fld e 160 38
def rDest (e : Nat) : Nat := fld e 256 64

/-- Bytes of an element (R178). -/
def rSize (e : Nat) : Nat := if rOp e = 4 then 12 else if rType e = 1 || rType e = 2 then 8 else if rType e = 4 then 2 else 4

/-- Bytes of a contribution's elements, and its rows. -/
def rBytes (e : Nat) : Nat := rElems e * rSize e
def rRows (e : Nat) : Nat := cdiv (rBytes e) 512

/-- Levels of the tree (R185). -/
def rLevels (e : Nat) : Nat := if rCount e ≤ 1 then 0 else Nat.log2 (rCount e - 1) + 1

/-- The Fold operation of an arriving contribution (R188, R189). -/
def rAtomic (e : Nat) : Nat := if rOp e = 1 then 8 else if rOp e = 2 then 6 else if rOp e = 3 then 7 else rType e + 1

/-- The Fold operation of a tree combine: squares have been taken, so SUMSQ runs as SUM (R186). -/
def rCombine (e : Nat) : Nat := if rOp e = 1 then 4 else rAtomic e

/-- The identity of an entry's OP over `n` elements (R182). -/
def rIdentity (e n : Nat) : List Byte :=
  (List.range n).flatMap (fun _ =>
    if rOp e = 2 then leBytes (to32 (.inf false)) 4 else if rOp e = 3 then leBytes (to32 (.inf true)) 4
    else List.replicate (rSize e) 0#8)

/-- Squares of F32 elements (R186, R188); `n` bounds them. -/
def squares : Nat → List Byte → List Byte
  | 0, _ => []
  | n + 1, bs =>
    if bs.isEmpty then []
    else
      let x := of32 (leNat (bs.take 4))
      leBytes (foldPack f32 (mul32 x x)) 4 ++ squares n (bs.drop 4)

/-- I48 elements as the device writes them: bits [63:48] are copies of bit 47 (R106); `n` bounds them. -/
def normal48 : Nat → List Byte → List Byte
  | 0, _ => []
  | n + 1, bs => if bs.isEmpty then [] else leBytes (uNat 64 (sInt 48 (leNat (bs.take 8)))) 8 ++ normal48 n (bs.drop 8)

/-- What a contribution's rows bring against the identity of OP: its elements, squared for SUMSQ (R186, R188). -/
def rTake (e : Nat) (rows : List Byte) : List Byte :=
  let b := rows.take (rBytes e)
  if rOp e = 1 then squares b.length b else if rType e = 1 then normal48 b.length b else b

/-- The step group in whose steps entry `e` runs: that of an act that sends on its contribution channel, or else of one that receives on
its result channel. -/
def redGroup (s : Show) (e : Nat) : Nat :=
  let on (code ch : Nat) (a : Act) : Bool := a.ops.any (fun w => opCode w == code && fld w 0 12 == ch)
  let mine (a : Act) : Bool := (participants s e).contains (s.position, a.die, a.core)
  match (s.acts.find? (fun a => on 0x12 (rCchan e) a && mine a)).or (s.acts.find? (on 0x13 (rRchan e))) with
  | some a => a.group
  | none => 0

/-- Entry `e` of pasture `p` runs its tree under the settings in force (R178, R190, R191). -/
def Dev.redTree (d : Dev) (p : Nat) (s : Show) (e : Nat) : Bool :=
  rOp e == 4 || rMode e == 1 || (rMode e != 2 && (match Tab.get? (d.group (redGroup s e)).keys kReduce with
    | some v => v
    | none => d.pKey p kReduce) == 0)

/-- Participant `i` of an entry. -/
def redPart (s : Show) (e i : Nat) : Option (Nat × Nat × Nat) := (participants s e)[i]?

/-- Participant `i` is on this package. -/
def redLocal (s : Show) (e i : Nat) : Bool :=
  match redPart s e i with
  | some q => q.1 == s.position
  | none => false

/-- This package takes part in the entry: as a participant, the root among them. -/
def redMine (s : Show) (e : Nat) : Bool := (participants s e).any (fun q => q.1 == s.position)

/-- `d` with participant `i`'s part of an instance changed. -/
def Dev.modPart (d : Dev) (p n i : Nat) (f : Part → Part) : Dev :=
  d.modRed p n (fun x => { x with parts := Tab.put x.parts i (f (Tab.getD x.parts i {})) })

/-- Participant `i`'s part of an instance. -/
def Dev.part (d : Dev) (p n i : Nat) : Part := Tab.getD (d.red p n).parts i {}

/-- The Graze die of a participant's home pen. -/
def homeGraze (s : Show) (e i : Nat) : Nat :=
  match redPart s e i with
  | some q => grazeOf (penOfDie q.2.1)
  | none => 0

/-! Delivery of rows to a `RECV` (R87, R250). -/

/-- Bytes that a `SEND` or `RECV` descriptor covers: its runs are contiguous. -/
def dExtent (e : Nat) : Nat := dLength e * dRuns e

/-- Queue entry `pc` of unit `u` of core `k` completes. -/
def Dev.qDone (d : Dev) (k u pc : Nat) : Dev :=
  d.modCore k (fun c => { c with queue := c.queue.filter (fun q => !(q.unit == u && q.pc == pc)) })

/-- The `RECV` of queue entry `q` of core `k` takes `bs` into its rows and completes. -/
def Dev.recvInto (d : Dev) (k : Nat) (q : QOp) (bs : List Byte) : Dev :=
  let e := d.descOf k (fld (opX q.op) 0 9)
  (d.spWrite k (dLocal e) (bs.take (dExtent e))).qDone k 8 q.pc

/-- The `RECV`s on channel `ch` that acts of pasture `p` have issued and that stand at the head of their exchange port, which runs
its ops one at a time (R82). -/
def Dev.recvsOn (d : Dev) (p ch : Nat) : List (Nat × QOp) :=
  d.cores.filterMap (fun c =>
    if (c.2.run.map (fun r : Run => r.pasture)) == some p then
      ((c.2.queued 8).head?.filter (fun q => opCode q.op == 0x13 && fld q.op 0 12 == ch)).map (fun q => (c.1, q))
    else none)

/-- Those of acts of the step that started at `step` (R183, R333). -/
def Dev.recvsAt (d : Dev) (p ch step : Nat) : List (Nat × QOp) :=
  (d.recvsOn p ch).filter (fun q => ((d.core q.1).run.map Run.start) == some step)

/-- A result at DEST reaches a core: poisoned words read as zeros and are reported (R432). -/
def Dev.takeResult (d : Dev) (k : Nat) (q : QOp) (e : Nat) : Dev :=
  let (x, d) := d.agentRead (destGraze e) (addrPen (rDest e)) (fld (rDest e) 0 38) (512 * rRows e)
  (d.recvInto k q x.data).metPoison k x.poison

/-! The Folds' instance counters and holding areas (R215). -/

/-- Lines of 256 bytes that an entry's result has in front of stack `s`. -/
def destLines (e s : Nat) : Nat :=
  ((List.range (cdiv (rBytes e) 256)).filter (fun i => stackOf (addrPen (rDest e)) ((fld (rDest e) 0 38 + 256 * i) % 2 ^ 38) == s)).length

/-- The two stacks of an entry's DEST. -/
def destStacks (e : Nat) : List Nat := [2 * addrPen (rDest e), 2 * addrPen (rDest e) + 1]

/-- The ARRIVAL instances whose DEST is on this package, with their entries. -/
def Dev.arrivals (d : Dev) : List (Nat × Inst) :=
  d.reds.filterMap (fun q =>
    match d.showOf (q.1 / 4096) with
    | none => none
    | some s => match (redEntries s)[q.1 % 4096]? with
      | none => none
      | some e => if q.2.tree || !destHere s e then none else some (e, q.2))

/-- Instance counters taken at the Fold of stack `s`: of the 256, those of instances that have had a transfer and are not over. -/
def Dev.countersUsed (d : Dev) (s : Nat) : Nat :=
  (d.arrivals.filter (fun q => q.2.live && q.2.stored && !q.2.done && !q.2.abandoned && destLines q.1 s != 0)).length

/-- Lines of the holding area of stack `s` that held contributions occupy. -/
def Dev.linesHeld (d : Dev) (s : Nat) : Nat :=
  d.arrivals.foldl (fun n q => n + (q.2.parts.filter (fun t => t.2.held.map (fun h => h.2.1) == some 1)).length * destLines q.1 s) 0

/-- A transfer of instance `x` of entry `e` has a counter at each Fold it meets, or finds one free. -/
def Dev.counterFree (d : Dev) (e : Nat) (x : Inst) : Bool :=
  x.stored || (destStacks e).all (fun s => destLines e s == 0 || d.countersUsed s < 256)

/-- The holding areas have room for one more contribution to entry `e`. -/
def Dev.holdRoom (d : Dev) (e : Nat) : Bool := (destStacks e).all (fun s => d.linesHeld s + destLines e s ≤ 256)

/-! Instances (R182, R183). -/

/-- The instance of the step of `w` begins, with `rest` still waiting: contributions held for it become its own (R183). -/
def Inst.begin (x : Inst) (w : RedWait) (rest : List RedWait) (tree : Bool) : Inst :=
  { live := true, step := w.step, tree, abandoned := w.lost, phases := w.phases, heldPhases := w.heldPhases, waits := rest
    results := x.results.filter (fun q => beatGe q.1 w.step)
    parts := (x.parts.filter (fun q => match q.2.held with
      | some h => beatGe h.1 w.step
      | none => false)).map (fun q => (q.1, { held := q.2.held })) }

/-- An instance that is over gives way to the next that waits and is not abandoned, or to the last (R183, R184). -/
def Inst.advance (x : Inst) (tree : Bool) : Inst :=
  match x.waits.dropWhile RedWait.lost, x.waits.getLast? with
  | w :: rest, _ => x.begin w rest tree
  | [], some w => x.begin w [] tree
  | [], none => x

/-- A step of the group starts: an instance that is over gives way to the new one, an incomplete one keeps it waiting (R183). A package
that takes no part has nothing to complete. -/
def Dev.startInst (d : Dev) (p n : Nat) (s : Show) (e beat : Nat) : Dev :=
  let x := d.red p n
  if !x.live || x.done || x.abandoned || !redMine s e then d.modRed p n (fun x => x.begin { step := beat } [] (d.redTree p s e))
  else d.modRed p n (fun x => { x with waits := x.waits ++ [{ step := beat }] })

/-- An instance that is over gives way to one that waits. -/
def Dev.nextInst (d : Dev) (p n : Nat) (s : Show) (e : Nat) : Dev := d.modRed p n (fun x => x.advance (d.redTree p s e))

/-- The part of this package in an instance is over. -/
def Dev.endInst (d : Dev) (p n : Nat) (s : Show) (e : Nat) : Dev := (d.modRed p n (fun x => { x with done := true })).nextInst p n s e

/-- Bytes are read at a pen, and poison met there is the step's (R432). -/
def Dev.foldRead (d : Dev) (die pen off n : Nat) (s : Show) (e : Nat) : List Byte × List Nat × Dev :=
  let (x, d) := d.agentRead die pen off n
  (x.data, x.poison, if x.poison.isEmpty then d else d.groupPoison (redGroup s e) x.poison)

/-- The result is at DEST: the receivers of this package that stand ready take it, and every other package of the group is sent it
(R185, R188). -/
def Dev.redResult (d : Dev) (p n : Nat) (s : Show) (e : Nat) : Dev :=
  let step := (d.red p n).step
  let d := d.perfAdd (destGraze e) 63 9 0 1
  let d := (d.recvsAt p (rRchan e) step).foldl (fun d q => d.takeResult q.1 q.2 e) d
  let d := if s.others.isEmpty then d
    else
      let (bs, _, d) := d.foldRead (destGraze e) (addrPen (rDest e)) (fld (rDest e) 0 38) (512 * rRows e) s e
      s.others.foldl (fun d pos => d.sendTo s pos 3 (destGraze e) 63 n step 0 bs) d
  d.endInst p n s e

/-- Bytes are written at DEST by the Fold in front of it, for core (die, core) or die agent (die, 63). -/
def Dev.destWrite (d : Dev) (die core e atomic : Nat) (bs : List Byte) : StackReply × Dev :=
  d.access die core (addrPen (rDest e)) atomic false [] (bs.length / 256 + 2) (fld (rDest e) 0 38) bs.length (some bs)

/-! Messages of reductions (R183, R273; log 134). -/

/-- Participant, kind and hardware class in the TAG of a reduction transfer. -/
def StileMsg.part (m : StileMsg) : Nat := m.tag % 2 ^ 16
def StileMsg.what (m : StileMsg) : Nat := fld m.tag 16 2
def StileMsg.hw (m : StileMsg) : Bool := bit m.tag 18
def StileMsg.final (m : StileMsg) : Bool := bit m.tag 31

/-- Message `m` belongs to the transfer of `h`, message for message. -/
def StileMsg.same (h m : StileMsg) : Bool :=
  m.kind == h.kind && m.src == h.src && m.chan == h.chan && m.step == h.step && m.die == h.die && m.core == h.core && m.tag % 2 ^ 31 == h.tag % 2 ^ 31

/-- The oldest transfer of the inbox that satisfies `p`, once its last message has come: its first message, and all its data. -/
def Dev.transferIn (d : Dev) (p : StileMsg → Bool) : Option (StileMsg × List Byte) :=
  match d.inbox.find? p with
  | none => none
  | some h =>
    let l := d.inbox.filter h.same
    if l.any StileMsg.final then some (h, l.flatMap StileMsg.data) else none

/-- The transfer of participant `i` to entry `n` of a show: its own, or an abandonment notice of its package. -/
def Dev.redIn (d : Dev) (s : Show) (e n i : Nat) : Option (StileMsg × List Byte) :=
  let pos := ((participants s e)[i]?.map Prod.fst).getD 0
  d.transferIn (fun m => m.kind == 2 && m.chan == n && m.src == s.addrOf pos && (m.part == i || m.what == 3))

/-- Room for a contribution of participant `i` for a later step: none is held yet, and in ARRIVAL the holding area of the Fold has it
(R183, R215). -/
def Dev.heldRoom (d : Dev) (p n : Nat) (s : Show) (e i kind : Nat) : Bool :=
  (d.part p n i).held.isNone && (d.redTree p s e || !destHere s e || kind != 1 || d.holdRoom e)

/-- A contribution of participant `i` for the later step at `step` is held: in TREE in the second half of the tree buffers of
participant `at_`, in ARRIVAL in the Fold's holding area (R183). -/
def Dev.hold (d : Dev) (p n : Nat) (s : Show) (e i at_ step kind : Nat) (data : List Byte) : Dev :=
  let tree := d.redTree p s e
  let g := if tree then homeGraze s e at_ else destGraze e
  let d := (d.modPart p n i (fun y => { y with held := some (step, kind, data) })).perfAdd g 63 9 3 1
  if tree && kind = 1 then d.agentWrite g (penOfDie g) (rBuf e + 512 * rRows e) (data.take (rBytes e)) else d

/-- The contribution held for the current step of participant `i`. -/
def Dev.heldNow (d : Dev) (p n i : Nat) : Option (Nat × List Byte) :=
  match (d.part p n i).held with
  | some h => if h.1 = (d.red p n).step then some h.2 else none
  | none => none

/-- A notice that the instance of the step at `step` is abandoned: the acts that wait for it abort at their next barrier (R184). -/
def Dev.redNotice (d : Dev) (p n step : Nat) (s : Show) (e : Nat) (hw : Bool) : Dev :=
  let waits := (d.recvsOn p (rRchan e)).any (fun q => ((d.core q.1).run.map Run.start) == some step)
  if destHere s e && (d.red p n).over step then d
  else
    let d := d.loseRed p n step s e
    let d := if waits then d.abortGroup (redGroup s e) (if hw then .hardware else .program) else d
    if step = (d.red p n).step then d.nextInst p n s e else d

/-- A transfer of another package that is not of the current step, or is a notice: a notice of a step that has begun takes effect, a
contribution to a later step is held where there is room and else waits, and one of an earlier step is discarded (R183, R184). `none`
for a contribution to the current step. -/
def Dev.otherStep (d : Dev) (p n : Nat) (s : Show) (e i at_ : Nat) (h : StileMsg) (data : List Byte) : Option Dev :=
  let x := d.red p n
  let gone : Dev := d.dropMsgs h.same
  if h.what = 3 then
    if h.step == x.step || x.waits.any (fun w => w.step == h.step) then some (gone.redNotice p n h.step s e h.hw)
    else if beatGe h.step x.step then some d else some gone
  else if h.step = x.step then none
  else if !beatGe h.step x.step then some gone
  else if d.heldRoom p n s e i h.what then some (gone.hold p n s e i at_ h.step h.what data)
  else some d

/-! TREE (R185 to R187). -/

/-- A participant passes levels at which it would receive from one that does not exist; `n` bounds the levels. -/
def passLevels (count : Nat) (i : Nat) : Nat → Nat → Nat
  | 0, l => l
  | n + 1, l => if i % 2 ^ (l + 1) = 0 && count ≤ i + 2 ^ l then passLevels count i n (l + 1) else l

/-- A participant's own contribution enters its tree buffer at its home Fold, `none` for EMPTY (R182, R186). -/
def Dev.treeEnter (d : Dev) (p n : Nat) (s : Show) (e i : Nat) (data : Option (List Byte)) : Dev :=
  let g := homeGraze s e i
  let d := match data, redPart s e i with
    | some rows, some q =>
      let b := rTake e rows
      (d.access q.2.1 q.2.2 (penOfDie g) 0 false [] (b.length / 256 + 2) (rBuf e) b.length (some b)).2
    | _, _ => d.perfAdd g 63 9 4 1
  d.modPart p n i (fun x => { x with st := if data.isSome then 1 else 2, level := passLevels (rCount e) i (rLevels e) 0 })

/-- The tree buffer of participant `i`, read at its home Fold. -/
def Dev.treeRead (d : Dev) (s : Show) (e i : Nat) : List Byte × List Nat × Dev :=
  d.foldRead (homeGraze s e i) (penOfDie (homeGraze s e i)) (rBuf e) (rBytes e) s e

/-- The combine of two buffers at the receiver's Fold: result, wraps and NaN results (R185, R189, R190); `n` bounds the
elements. -/
def momentsZip : Nat → List Byte → List Byte → List Byte
  | 0, _, _ => []
  | n + 1, a, b =>
    if a.isEmpty then []
    else
      let t (x : List Byte) : Moments := (of32 (rdLE x 0 4), of32 (rdLE x 4 4), of32 (rdLE x 8 4))
      let m := mergeMoments (t a) (t b)
      bytes32 [m.1, m.2.1, m.2.2] ++ momentsZip n (a.drop 12) (b.drop 12)

def redCombine (e : Nat) (a b : List Byte) : List Byte × Nat × Nat :=
  if rOp e = 4 then (momentsZip (rElems e) a b, 0, 0) else atomicBytesOp (rCombine e) (rElems e) a b

/-- The root's buffer is final: it is written to DEST and sent to the receivers (R182, R185). -/
def Dev.treeFinish (d : Dev) (p n : Nat) (s : Show) (e : Nat) : Dev :=
  let x := d.part p n 0
  if x.st ≠ 0 && x.level = rLevels e then
    let (bs, _, d) := if x.st = 2 then (rIdentity e (rElems e), [], d) else d.treeRead s e 0
    (d.destWrite (homeGraze s e 0) 63 e 0 bs).2.redResult p n s e
  else d

/-- A combined buffer is written but for the code words that held poison, which a combine leaves as they are (R202). -/
def Dev.treeWrite (d : Dev) (s : Show) (e j : Nat) (bs : List Byte) (poison : List Nat) : Dev :=
  let g := homeGraze s e j
  let pen := penOfDie g
  if poison.isEmpty then d.agentWrite g pen (rBuf e) bs
  else (List.range (cdiv bs.length 64)).foldl (fun d i =>
    if poison.contains (devAddr pen (rBuf e + 64 * i)) then d else d.agentWrite g pen (rBuf e + 64 * i) (slice bs (64 * i) 64)) d

/-- Receiver `j` combines the buffer of its sender at the level it has reached: kind 1 data, 2 EMPTY (R182, R185). -/
def Dev.treeCombine (d : Dev) (p n : Nat) (s : Show) (e j kind : Nat) (data : List Byte) : Dev :=
  let x := d.part p n j
  let g := homeGraze s e j
  let d := d.modPart p n j (fun x =>
    { x with st := if kind = 2 then x.st else 1, level := passLevels (rCount e) j (rLevels e) (x.level + 1) })
  let d := if kind = 2 then d
    else if x.st = 2 then d.treeWrite s e j data []
    else
      let (own, poison, d) := d.treeRead s e j
      let (b, w, m) := redCombine e own data
      let d := (d.treeWrite s e j b poison).perfAdd g 63 9 1 (cdiv (rBytes e) 256)
      (d.errAdd g 64 8 w).errAdd g 64 9 m
  if j = 0 then d.treeFinish p n s e else d

/-- When every participant of this package has sent its buffer and the root is elsewhere, this package's part is over. -/
def Dev.treeGone (d : Dev) (p n : Nat) (s : Show) (e : Nat) : Dev :=
  if !redLocal s e 0 && ((List.range (rCount e)).filter (redLocal s e)).all (fun i => (d.part p n i).gone) then d.endInst p n s e
  else d

/-- The level at which participant `i` sends its buffer (R185). -/
def sendLevel (e i : Nat) : Nat := (List.range (rLevels e)).find? (fun l => i % 2 ^ (l + 1) == 2 ^ l) |>.getD (rLevels e)

/-- Participant `j` is ready to receive at level `l`. -/
def Dev.treeReady (d : Dev) (p n j l : Nat) : Bool := (d.part p n j).st != 0 && (d.part p n j).level == l

/-- Participant `i` of this package sends its buffer, once its level's time has come and its buffer is final (R185, R187). -/
def Dev.treeSend (d : Dev) (p n : Nat) (s : Show) (e i : Nat) : Dev :=
  let x := d.red p n
  let l := sendLevel e i
  let j := i - 2 ^ l
  let q := d.part p n i
  let die := ((redPart s e i).map (fun q => q.2.1)).getD 0
  if !d.treeReady p n i l || q.gone || !x.phases.contains l || x.heldPhases.contains (l, die) then d
  else if redLocal s e j && !d.treeReady p n j l then d
  else
    let (bs, _, d) := if q.st = 2 then ([], [], d) else d.treeRead s e i
    let d := d.modPart p n i (fun y => { y with gone := true })
    if redLocal s e j then d.treeCombine p n s e j q.st bs
    else
      let pos := ((redPart s e j).map Prod.fst).getD 0
      (d.sendTo s pos 2 (homeGraze s e j) 63 n x.step (redTag i q.st false) bs).treeGone p n s e

/-- A buffer of participant `i` of another package reaches receiver `j`: held for this step already, or by message. -/
def Dev.treeTake (d : Dev) (p n : Nat) (s : Show) (e i : Nat) : Dev :=
  let l := sendLevel e i
  let j := i - 2 ^ l
  let take (d : Dev) (kind : Nat) (bs : List Byte) : Dev :=
    (d.modPart p n i (fun y => { y with held := none, gone := true })).treeCombine p n s e j kind (bs.take (rBytes e))
  let ready := redLocal s e j && d.treeReady p n j l && !(d.part p n i).gone && !(d.red p n).done && !(d.red p n).abandoned
  match d.heldNow p n i with
  | some (kind, bs) => if ready then take d kind bs else d
  | none => match d.redIn s e n i with
    | none => d
    | some (h, bs) => match d.otherStep p n s e i j h bs with
      | some d => d
      | none =>
        if ready then take (d.dropMsgs h.same) h.what bs
        else if (d.red p n).done || (d.red p n).abandoned || (d.part p n i).gone || !redLocal s e j then d.dropMsgs h.same
        else d

/-- `TREE_TRANSFER_RECEIVE`: participant `i` of entry `n` of pasture `p` sends its tree buffer at its level, or the transfer of one of
another package is taken (R185). -/
def treeTransfer (d : Dev) (p n i : Nat) : Dev :=
  match d.showOf p with
  | none => d
  | some s =>
    match (redEntries s)[n]? with
    | none => d
    | some e =>
      let x := d.red p n
      if !x.tree || rCount e ≤ i || !x.live then d
      else if !redLocal s e i then d.treeTake p n s e i
      else if i = 0 || x.done || x.abandoned then d
      else d.treeSend p n s e i

/-- `REDUCTION_TREE_PHASE`: the tree-phase entry of level `l` fires, in its turn (R41, R187); a die in recovery holds its copy (R43). -/
def treePhase (d : Dev) (p n l : Nat) : Dev :=
  match (d.showOf p).bind (fun s => (redEntries s)[n]?) with
  | none => d
  | some _ =>
    match d.cal.find? (fun c => c.action == 6 && c.target == n && c.arg == l && (d.group c.group).pasture == p && d.entryDue c) with
    | none => d
    | some c =>
      if !d.mayFire c then d
      else
        let lost := c.dies.filter d.inRecovery
        let held := lost.map (fun v => (l, v))
        (d.fireEntry c lost).modRed p n (fun x =>
          if x.waits.isEmpty then { x with phases := l :: x.phases.filter (· != l), heldPhases := x.heldPhases ++ held }
          else { x with waits := modAt (fun w : RedWait => { w with phases := l :: w.phases.filter (· != l), heldPhases := w.heldPhases ++ held })
                                  x.waits (x.waits.length - 1) })

/-! ARRIVAL (R188). -/

/-- The Fold at DEST counts contribution `i` of kind 1 data or 2 EMPTY, of core (die, core) or a die agent, and completes the instance
with the last. A store writes what the operation gives against the identity. -/
def Dev.arrive (d : Dev) (p n : Nat) (s : Show) (e i kind die core : Nat) (data : List Byte) : Dev × List Nat :=
  let x := d.red p n
  let (met, d) :=
    if kind = 2 then ([], d.perfAdd (destGraze e) 63 9 4 1)
    else
      let (r, d) := if x.stored then d.destWrite die core e (rAtomic e) (data.take (rBytes e)) else d.destWrite die core e 0 (rTake e data)
      (r.poison, d)
  let d := d.modPart p n i (fun y => { y with st := kind })
  let d := d.modRed p n (fun x => { x with count := x.count + 1, stored := x.stored || kind != 2 })
  if (d.red p n).count < rCount e then (d, met)
  else
    let d := if (d.red p n).stored then d
      else (d.destWrite (destGraze e) 63 e 0 (rIdentity e (512 * rRows e / rSize e))).2
    (d.redResult p n s e, met)

/-- A contribution of a participant of this package: to the Fold at DEST, or by message to the package that holds it. -/
def Dev.arriveLocal (d : Dev) (p n : Nat) (s : Show) (e i kind : Nat) (data : List Byte) : Dev × List Nat :=
  let q := (redPart s e i).getD (0, 0, 0)
  if destHere s e then d.arrive p n s e i kind q.2.1 q.2.2 data
  else
    let pos := ((redPart s e 0).map Prod.fst).getD 0
    let d := (d.modPart p n i (fun y => { y with st := kind })).sendTo s pos 2 (destGraze e) 63 n (d.red p n).step (redTag i kind false)
      (if kind = 2 then [] else data.take (rBytes e))
    (if ((List.range (rCount e)).filter (redLocal s e)).all (fun i => (d.part p n i).st ≠ 0) then d.endInst p n s e else d, [])

/-- A contribution of participant `i` of this package to the step that runs, where an earlier one's instance is incomplete: held, or
`none` where it must wait for credit (R183); one to an abandoned instance is dropped. -/
def Dev.contributeLater (d : Dev) (p n : Nat) (s : Show) (e i kind : Nat) (rows : List Byte) : Option Dev :=
  let step := (d.red p n).lastStep
  if (d.red p n).over step then some d
  else if d.heldRoom p n s e i kind then some (d.hold p n s e i i step kind rows)
  else none

/-- A `SEND` on a contribution channel of core `k` runs: `some` with the op complete, or `none` while it must wait (R183). In
ARRIVAL the contribution leaves with its `ARRIVAL_TRANSFER`. -/
def Dev.contribute (d : Dev) (k : Nat) (p n : Nat) (s : Show) (e i op : Nat) : Option Dev :=
  let x := d.red p n
  let rows := d.spRead k (dLocal (d.descOf k (fld (opX op) 0 9))) (512 * rRows e)
  if !x.waits.isEmpty then d.contributeLater p n s e i 1 rows
  else if x.done || x.abandoned then some d
  else if x.tree then
    let d := d.treeEnter p n s e i (some rows)
    some (if i = 0 then d.treeFinish p n s e else d)
  else none

/-- The held contributions of this package's participants enter a new instance (R183). -/
def Dev.enterHeld (d : Dev) (p n : Nat) : Dev :=
  match d.showOf p with
  | none => d
  | some s =>
    match (redEntries s)[n]? with
    | none => d
    | some e =>
      ((d.red p n).parts.filter (fun q => q.2.st == 0 && redLocal s e q.1)).foldl (fun d q =>
        match d.heldNow p n q.1 with
        | some (kd, bs) =>
          if (d.red p n).done || (d.red p n).abandoned || (!(d.red p n).tree && destHere s e && kd = 1 && !d.counterFree e (d.red p n)) then d
          else
            let d := d.modPart p n q.1 (fun y => { y with held := none })
            if (d.red p n).tree then
              let d := d.treeEnter p n s e q.1 (if kd = 1 then some bs else none)
              if q.1 = 0 then d.treeFinish p n s e else d
            else (d.arriveLocal p n s e q.1 kd bs).1
        | none => d) d

/-- A participant whose act reaches `END` without sending contributes EMPTY: `none` while it must wait for credit (R182, R183). -/
def Dev.emptyContribution (d : Dev) (p n : Nat) (s : Show) (e i : Nat) : Option Dev :=
  let x := d.red p n
  if !x.waits.isEmpty then d.contributeLater p n s e i 2 []
  else if x.done || x.abandoned || (d.part p n i).st ≠ 0 then some d
  else if x.tree then
    let d := d.treeEnter p n s e i none
    some (if i = 0 then d.treeFinish p n s e else d)
  else some (d.arriveLocal p n s e i 2 []).1

/-- The contribution of participant `i` of this package, at (die, core), leaves the head of its exchange port. -/
def Dev.arriveSend (d : Dev) (p n : Nat) (s : Show) (e i k : Nat) : Dev :=
  match ((d.core k).queued 8).head? with
  | some q =>
    if (d.core k).run.map (fun r : Run => r.pasture) == some p && opCode q.op = 0x12 && fld q.op 0 12 = rCchan e &&
        (!destHere s e || d.counterFree e (d.red p n)) then
      let rows := d.spRead k (dLocal (d.descOf k (fld (opX q.op) 0 9))) (512 * rRows e)
      let (d, met) := d.arriveLocal p n s e i 1 rows
      (d.metPoison k met).qDone k 8 q.pc
    else d
  | none => d

/-- The contribution of participant `i` of another package reaches the Fold at DEST: held for this step already, or by message. -/
def Dev.arriveTake (d : Dev) (p n : Nat) (s : Show) (e i : Nat) : Dev :=
  let x := d.red p n
  let ready (kind : Nat) : Bool := destHere s e && !x.done && !x.abandoned && (d.part p n i).st == 0 && (kind != 1 || d.counterFree e x)
  let take (d : Dev) (kind die : Nat) (bs : List Byte) : Dev :=
    ((d.modPart p n i (fun y => { y with held := none })).arrive p n s e i kind die 63 bs).1
  match d.heldNow p n i with
  | some (kind, bs) => if ready kind then take d kind (destGraze e) bs else d
  | none => match d.redIn s e n i with
    | none => d
    | some (h, bs) => match d.otherStep p n s e i i h bs with
      | some d => d
      | none =>
        if ready h.what then take (d.dropMsgs h.same) h.what h.gate bs
        else if x.done || x.abandoned || (d.part p n i).st != 0 || !destHere s e then d.dropMsgs h.same
        else d

/-- `ARRIVAL_TRANSFER`: the contribution of participant `i` of entry `n` of pasture `p` reaches the Fold at DEST: from the `SEND` at the
head of its exchange port, or from another package (R188). -/
def arrivalTransfer (d : Dev) (p n i : Nat) : Dev :=
  match d.showOf p with
  | none => d
  | some s =>
    match (redEntries s)[n]? with
    | none => d
    | some e =>
      match redPart s e i with
      | none => d
      | some (pos, die, core) =>
        let x := d.red p n
        if x.tree || !x.live then d
        else if pos ≠ s.position then d.arriveTake p n s e i
        else if x.done || x.abandoned || (d.part p n i).st ≠ 0 then d
        else d.arriveSend p n s e i (coreKey die core)

end Sys2Proof.Machine
end

