-- ==== Sys2Proof/Machine/Race.lean ====
section
/-! DEFINITION. The Race dies: logit records, selection, capacity, gate weights, dispatch, manifests, returns, the combine, refusals
and abandonment (R316 to R337). -/

namespace Sys2Proof.Machine

open Sys2Proof

/-! Channels of a layer. -/

/-- This package's source index in layer `e`. -/
def Dev.sourceIndex (d : Dev) (s : Show) (e : Nat) : Nat := (indexWhere (fun a => a == d.route.addr) (lSources s e)).getD 0

/-- Bytes of a logit record (R320). -/
def recordBytes (e : Nat) : Nat := 512 * cdiv (32 + 4 * lExperts e) 512

/-- The records in the rows of one `SEND`; `n` bounds them. -/
def recordsOf (b : Nat) : Nat → List Byte → List (List Byte)
  | 0, _ => []
  | n + 1, bs => if bs.length < b || b = 0 then [] else bs.take b :: recordsOf b n (bs.drop b)

/-! Intake (R321). -/

/-- A reserved field of a record is not zero. -/
def recordReserved (r : List Byte) : Bool := rdLE r 4 1 / 2 != 0 || !allZero (slice r 5 3) || !allZero (slice r 24 8)

/-- The records that an instance routes, in ascending token, and the number ignored as bad. -/
def acceptRecords (e : Nat) (rs : List (List Byte)) : List (List Byte) × Nat :=
  let (ok, bad) := rs.foldl (fun (acc : List (List Byte) × Nat) r =>
    if !bit (rdLE r 4 1) 0 then acc
    else if lTmax e < rdLE r 0 4 || acc.1.any (fun q => rdLE q 0 4 == rdLE r 0 4) || recordReserved r then (acc.1, acc.2 + 1)
    else (acc.1 ++ [r], acc.2)) ([], 0)
  (sortBy (fun r => rdLE r 0 4) ok, bad)

/-! Selection (R322). -/

/-- A token's ranking: token, DADDR, CADDR, and the eligible experts with their logits, in rank order. -/
structure Ranked where
  /-- Token index -/
  token : Nat
  /-- DADDR -/
  daddr : Nat
  /-- CADDR -/
  caddr : Nat
  /-- Expert and logit by rank -/
  order : List (Nat × Fl)
  deriving DecidableEq, Repr

/-- Insert a scored expert after those whose score is not lower. -/
def rankInsert (x : Nat × Fl × Fl) : List (Nat × Fl × Fl) → List (Nat × Fl × Fl)
  | [] => [x]
  | y :: ys => if flLt y.2.2 x.2.2 then x :: y :: ys else y :: rankInsert x ys

/-- A value is finite. -/
def Fl.isFinite : Fl → Bool
  | .fin _ _ _ => true
  | _ => false

/-- The ranking of a record under biases, and its ineligible logits. -/
def rankRecord (e : Nat) (bias : Nat → Fl) (r : List Byte) : Ranked × Nat :=
  let all := (List.range (lExperts e)).map (fun i =>
    let l := of32 (rdLE r (32 + 4 * i) 4)
    (i, l, add32 l (bias i)))
  let ok := all.filter (fun x => x.2.1.isFinite && x.2.2.isFinite)
  let order := ok.foldl (fun acc x => rankInsert x acc) []
  ({ token := rdLE r 0 4, daddr := rdLE r 8 8, caddr := rdLE r 16 8, order := order.map (fun x => (x.1, x.2.1)) }, all.length - ok.length)

/-! Capacity and assignment (R323, R324). -/

/-- The first term of CAP. -/
def capTerm (e t : Nat) : Nat := cdiv (lCf e * t * lK e) (256 * lExperts e)

/-- What assignment keeps: choices counted by expert, each token's pointer, assigned choices, dropped choices. -/
structure Assigning where
  /-- Choices counted, by expert -/
  count : Tab Nat := []
  /-- Rank of the next candidate, by place of the token -/
  ptr : Tab Nat := []
  /-- Choices, the last first -/
  out : List Choice := []
  /-- Dropped -/
  dropped : Nat := 0
  deriving DecidableEq, Repr

/-- Offer a choice to the token's next candidates: at most `n` of them. -/
def offer (cap k : Nat) (live : Nat → Bool) (t i r : Nat) (order : List (Nat × Fl)) : Nat → Assigning → Assigning
  | 0, a => { a with dropped := a.dropped + 1 }
  | n + 1, a =>
    let q := Tab.getD a.ptr i (k + 1)
    match if q ≤ 3 * k then order[q - 1]? else none with
    | none => { a with dropped := a.dropped + 1 }
    | some (c, _) =>
      let a := { a with ptr := Tab.put a.ptr i (q + 1) }
      let m := Tab.getD a.count c 0
      if live c && m < cap then
        { a with count := Tab.put a.count c (m + 1), out := { token := t, rank := r, expert := c, slot := m, subst := true } :: a.out }
      else offer cap k live t i r order n a

/-- The choice of rank `r` of the token at place `i`. -/
def assignOne (cap k policy : Nat) (live : Nat → Bool) (r : Nat) (a : Assigning) (q : Ranked × Nat) : Assigning :=
  match q.1.order[r - 1]? with
  | none => a
  | some (x, _) =>
    let m := Tab.getD a.count x 0
    if live x && m < cap then
      { a with count := Tab.put a.count x (m + 1), out := { token := q.1.token, rank := r, expert := x, slot := m } :: a.out }
    else if policy = 3 then offer cap k live q.1.token q.2 r q.1.order 2 a
    else { a with dropped := a.dropped + 1 }

/-- Choices assigned rank-major, in the order assigned, and the number dropped. -/
def assign (cap k policy : Nat) (live : Nat → Bool) (rs : List Ranked) : List Choice × Nat :=
  let a := (List.range k).foldl (fun a r => rs.zipIdx.foldl (assignOne cap k policy live (r + 1)) a) ({} : Assigning)
  (a.out.reverse, a.dropped)

/-! Gate weights (R325). -/

/-- The gate unit's exp, within two units in the last place and the same on every Race die. -/
def gateExp (v : Fl) : Fl :=
  match withinUlp (expValue v) 2 (Config.gateOff 6 (to32 v)) with
  | .fin true _ _ => fl0
  | w => w

/-- The weight of expert `x` of a token under GATEFN `g`. -/
def gateWeight (g k : Nat) (r : Ranked) (x : Nat) : Fl :=
  let l := ((r.order.find? (fun q => q.1 == x)).map Prod.snd).getD fl0
  let m := r.order.foldl (fun m q => if m.isNaN || flLt m q.2 then q.2 else m) .nan
  let e (v : Fl) : Fl := gateExp (sub32 v m)
  if g = 2 then div32 (flOfInt 1) (add32 (flOfInt 1) (gateExp (flNeg l)))
  else
    let den := if g = 0 then sortBy Prod.fst r.order else r.order.take k
    div32 (e l) (den.foldl (fun s q => add32 s (e q.2)) fl0)

/-- Choices with their weights. -/
def weigh (g k policy : Nat) (rs : List Ranked) (cs : List Choice) : List Choice :=
  let w (c : Choice) : Fl := match rs.find? (fun r => r.token == c.token) with
    | some r => gateWeight g k r c.expert
    | none => fl0
  let sum (t : Nat) : Fl :=
    (sortBy (fun c : Choice => c.rank) (cs.filter (fun c : Choice => c.token == t))).foldl (fun s c => add32 s (w c)) fl0
  cs.map (fun c => { c with weight := to32 (if policy = 2 then div32 (w c) (sum c.token) else w c) })

/-! A Race die's accesses to the stacks, as requester 41 (R209). -/

/-- `n` bytes at device address `a`, with the poisoned addresses met. -/
def Dev.raceRead (d : Dev) (e a n : Nat) : StackReply × Dev := d.access (lRace e) 63 (addrPen a) 0 true [] (n / 256 + 2) (fld a 0 38) n none

/-- Bytes written at device address `a`. -/
def Dev.raceWrite (d : Dev) (e a : Nat) (bs : List Byte) : Dev :=
  (d.access (lRace e) 63 (addrPen a) 0 true [] (bs.length / 256 + 2) (fld a 0 38) bs.length (some bs)).2

/-- Receive slot of shard `h` of catalogue entry `c` for source `src` and slot `j` (R326). -/
def rxSlot (e c h src j : Nat) : Nat := devAddr (cPen c + h) (cRx c + (src * lCapMax e + j) * lDrows e * 512)

/-- Return slot (R329). -/
def rxReturn (e c h src j : Nat) : Nat :=
  devAddr (cPen c + h) (cRx c + lNsrc e * lCapMax e * lDrows e * 512 + (src * lCapMax e + j) * lRrows e * 512)

/-- Gather slot (R329). -/
def gatherSlot (e t r h : Nat) : Nat := lGather e + ((t * lK e + r - 1) * 4 + h) * lRrows e * 512

/-! Counters of the RC group (R336). -/

/-- Register `i` of the layer's Race die. -/
def Dev.racePerf (d : Dev) (e i n : Nat) : Dev := d.perfAdd (lRace e) 63 14 i n

/-! Manifests at a destination (R328, R332). -/

/-- The manifest of shard `q`: header and entries. -/
def manifestBytes (d : Dev) (x : RaceInst) (l q : Nat) : List Byte :=
  let es := x.mans.flatMap (fun m => sortBy (fun a : Arrival => a.slot) (m.2.filter (fun a => a.expert == q / 4)))
  leBytes es.length 2 ++ leBytes l 2 ++ leBytes d.mapver 4 ++ leBytes x.step 8 ++ leBytes 0 48 ++
  es.flatMap (fun a => leBytes (a.src + a.slot * 2 ^ 12 + a.rank * 2 ^ 24 + a.token * 2 ^ 32) 8 ++ leBytes a.weight 8)

/-- Every source's manifest, or an ABANDON in its place, is in. -/
def RaceInst.allIn (x : RaceInst) (e : Nat) : Bool := (List.range (lNsrc e)).all (fun i => (Tab.get? x.mans i).isSome)

/-- The shards whose `RECV` the acts of the instance's step have issued take their manifests (R328). -/
def Dev.raceDeliver (d : Dev) (p l e : Nat) : Dev :=
  let x := d.race p l
  if !x.allIn e then d
  else (d.ownShards e).foldl (fun d q =>
    if x.lost.contains q then d
    else (d.recvsAt p (cMchan (d.expertEntry e (q / 4)) + q % 4) x.step).foldl (fun d r =>
      d.recvInto r.1 r.2 (padTo (manifestBytes d x l q) (512 * cdiv (manifestBytes d x l q).length 512))) d) d

/-- The source counts the choices refused for `experts` at package `from_` (R332). -/
def Dev.raceRefuse (d : Dev) (p l e from_ : Nat) (experts : List Nat) : Dev :=
  let hit (c : Choice) : Bool := !c.refused && experts.contains c.expert && cPkg (d.expertEntry e c.expert) == from_
  let n := ((d.race p l).choices.filter hit).length
  (d.modRace p l (fun x => { x with choices := x.choices.map (fun c => if hit c then { c with refused := true } else c) })).raceErr e 3 n

/-- An arrival is refused: its expert is OFFLINE or invalid here, or a pen of it is offline (R332). -/
def Dev.arrivalRefused (d : Dev) (e : Nat) (a : Arrival) : Bool :=
  let c := d.expertEntry e a.expert
  !cLive c || (List.range (cShards c)).any (fun h => bit d.faults.offline (cPen c + h))

/-- The destination takes the manifest of source `i` (R328, R332). -/
def Dev.takeManifest (d : Dev) (p l : Nat) (s : Show) (e i mapver : Nat) (as : List Arrival) : Dev :=
  let x := d.race p l
  if (Tab.get? x.mans i).isSome then d
  else
    let pkg := (lSources s e).getD i 0
    let wrong := mapver != d.mapver
    let (no, ok) := as.partition (fun a => wrong || d.arrivalRefused e a)
    let d := d.modRace p l (fun x => { x with mans := Tab.put x.mans i (ok.map (fun a => { a with src := i })), mismatch := x.mismatch || wrong })
    let d := if wrong && !x.mismatch then d.notice 0x0049 (lRace e) 63 p (l + pkg * 2 ^ 8) else d
    let experts := (no.map (fun a : Arrival => a.expert)).eraseDups
    let d := if experts.isEmpty then d
      else if pkg = d.route.addr then d.raceRefuse p l e pkg experts
      else d.raceSend pkg 4 0 l e x.step (experts.flatMap (fun x => leBytes x 2))
    d.raceDeliver p l e

/-- A return vector reaches the source's gather area (R329). -/
def Dev.takeReturn (d : Dev) (p l e t r h : Nat) (bs : List Byte) : Dev :=
  let hit (c : Choice) : Bool := c.token == t && c.rank == r && !c.got.contains h && h < c.shards
  if (d.race p l).choices.any hit then
    let d := d.raceWrite e (gatherSlot e t r h) (bs.take (512 * lRrows e))
    let d := d.racePerf e 5 (lRrows e)
    d.modRace p l (fun x => { x with choices := x.choices.map (fun c => if hit c then { c with got := h :: c.got } else c) })
  else d

/-! Messages and their steps (R333). -/

/-- The acts that wait on CCHAN, or may come to, abort at their next barrier: the source instance is abandoned by a destination. -/
def Dev.sourceLost (d : Dev) (p l : Nat) (s : Show) (e : Nat) (cls : AbortClass) : Dev :=
  let x := d.race p l
  if x.combined || x.abandoned then d
  else
    let d := d.sourceGone p l s e x.step
    let d := (d.recvsAt p (lCchan e) x.step).foldl (fun d q => d.qDone q.1 8 q.2.pc) d
    d.abortGroup (sendGroup s (lLchan e)) cls

/-- A message of the instance's own step takes effect. -/
def Dev.raceMsg (d : Dev) (p l : Nat) (s : Show) (e : Nat) (m : RaceMsg) : Dev :=
  let src := indexWhere (fun a => a == m.src) (lSources s e)
  if m.kind = 1 then
    let c := d.expertEntry e (fld m.tag 0 12)
    match src with
    | some i =>
      if bit c 19 && cPkg c = d.route.addr then
        d.raceWrite e (rxSlot e c (fld m.tag 24 4) i (fld m.tag 12 12)) (m.data.take (512 * lDrows e))
      else d
    | none => d
  else if m.kind = 2 then
    match src with
    | some i => d.takeManifest p l s e i m.mapver m.arrivals
    | none => d
  else if m.kind = 3 then d.takeReturn p l e (fld m.tag 0 16) (fld m.tag 16 3 + 1) (fld m.tag 19 2) m.data
  else if m.kind = 4 then d.raceRefuse p l e m.src (m.arrivals.map (fun a : Arrival => a.expert))
  else if m.tag = 1 then d.sourceLost p l s e (if m.mapver = 1 then .hardware else .program)
  else match src with
    | some i => if (Tab.get? (d.race p l).mans i).isSome then d
        else (d.modRace p l (fun x => { x with mans := Tab.put x.mans i [] })).raceDeliver p l e
    | none => d

/-- This package's part in the instance is over. -/
def Dev.raceOver (d : Dev) (p l e : Nat) : Bool :=
  let x := d.race p l
  (x.combined || x.abandoned) && (d.ownShards e).all (fun q => x.returned.contains q || x.lost.contains q)

/-- A message arrives: one for a later step is held, one for a completed or abandoned instance is stale (R333). -/
def Dev.raceArrive (d : Dev) (p l : Nat) (m : RaceMsg) : Dev :=
  match d.showOf p with
  | none => d
  | some s =>
    match (layersOf s)[l]? with
    | none => d
    | some e =>
      let x := d.race p l
      let shard := 4 * fld m.tag 0 12 + fld m.tag 24 4
      let stale :=
        (if m.kind = 1 then x.lost.contains shard || x.done.contains shard
         else if m.kind = 3 || m.kind = 4 || (m.kind = 5 && m.tag = 1) then x.combined || x.abandoned
         else match indexWhere (fun a => a == m.src) (lSources s e) with
           | some i => (Tab.get? x.mans i).isSome
           | none => false)
      if x.live && m.step == x.step then (if stale then d.raceErr e 4 1 else d.raceMsg p l s e m)
      else if !x.live || beatGe m.step x.step then (d.modRace p l (fun x => { x with held := x.held ++ [m] })).racePerf e 7 1
      else d.raceErr e 4 1

/-- The instance of layer `l` for the step of `w` begins, with `rest` still waiting: producers that ended already are heard, what is
abandoned already stays so, and held messages of the step take effect. -/
def Dev.beginRace (d : Dev) (p l : Nat) (s : Show) (e : Nat) (w : RaceWait) (rest : List RaceWait) : Dev :=
  let own := if w.lost && (d.hosts e).contains d.route.addr then indexWhere (fun a => a == d.route.addr) (lSources s e) else none
  let (now, later) := (d.race p l).held.partition (fun m => m.step == w.step)
  let d := d.modRace p l (fun _ =>
    { live := true, step := w.step, held := later.filter (fun m => beatGe m.step w.step), heard := w.heard, launched := w.launched
      abandoned := w.lost, lost := w.lostShards, mans := own.toList.map (fun i => (i, [])), waits := rest })
  (now.foldl (fun d m => d.raceMsg p l s e m) d).raceErr e 4 (later.filter (fun m => !beatGe m.step w.step)).length

/-- An instance that is over gives way to the next that waits; `n` bounds them. -/
def Dev.giveWay (d : Dev) (p l : Nat) (s : Show) (e : Nat) : Nat → Dev
  | 0 => d
  | n + 1 => match (d.race p l).waits with
    | w :: rest => if d.raceOver p l e then Dev.giveWay (d.beginRace p l s e w rest) p l s e n else d
    | [] => d

/-- A step starts at `beat`: it waits where a layer's instance is not over, and else its own begins (R333). -/
def Dev.startRace (d : Dev) (p l : Nat) (s : Show) (e beat : Nat) : Dev :=
  let x := d.race p l
  if !x.live then d.beginRace p l s e { step := beat } []
  else (d.modRace p l (fun x => { x with waits := x.waits ++ [{ step := beat }] })).giveWay p l s e (x.waits.length + 1)

/-- An instance that is over gives way to those that wait. -/
def Dev.settleRace (d : Dev) (p l : Nat) : Dev :=
  match d.showOf p with
  | none => d
  | some s => match (layersOf s)[l]? with
    | some e => d.giveWay p l s e (d.race p l).waits.length
    | none => d

/-- Producer `k` of the step at `step` has sent `rows`, or has ended without sending (R320). -/
def Dev.raceHear (d : Dev) (p l k step : Nat) (e : Nat) (rows : List Byte) : Dev :=
  d.modRace p l (fun x => match x.waiting step with
    | some _ => x.modWait step (fun w => { w with heard := w.heard ++ [k] })
    | none => { x with heard := x.heard ++ [k], recs := if x.abandoned then x.recs else x.recs ++ recordsOf (recordBytes e) rows.length rows })

/-! The rows of the table. -/

/-- The layer's entry and show. -/
def Dev.layerOf (d : Dev) (p l : Nat) : Option (Show × Nat) := (d.showOf p).bind (fun s => (layersOf s)[l]?.map (fun e => (s, e)))

/-- `RACE_INSTANCE_START` (R320 to R325): with every producer heard, tokens are ranked and assigned. -/
def raceInstanceStart (d : Dev) (p l : Nat) : Dev :=
  match d.layerOf p l with
  | none => d
  | some (s, e) =>
    let x := d.race p l
    if !x.live || x.routed || x.abandoned || x.heard.length < lProd e then d
    else
      let (bias, d) := if lBias e = 0 then (({} : StackReply), d) else d.raceRead e (lBias e) (4 * lExperts e)
      let b (i : Nat) : Fl := if lBias e = 0 then fl0 else of32 (rdLE bias.data (4 * i) 4)
      let (recs, bad) := acceptRecords e x.recs
      let ranked := recs.map (rankRecord e b)
      let rs := ranked.map Prod.fst
      let term := capTerm e rs.length
      let policy := if lPolicy e = 0 then d.gKey (sendGroup s (lLchan e)) kOverflow + 1 else lPolicy e
      let (cs, dropped) := assign (min term (lCapMax e)) (lK e) policy (fun i => cLive (d.expertEntry e i)) rs
      let cs := (weigh (lGate e) (lK e) policy rs cs).map (fun c => { c with shards := cShards (d.expertEntry e c.expert) })
      let d := d.modRace p l (fun x =>
        { x with routed := true, tokens := rs.map (fun r => (r.token, r.daddr, r.caddr)), choices := cs, dropped, recs := [] })
      let d := d.raceErr e 0 (ranked.foldl (fun n q => n + q.2) 0)
      let d := d.raceErr e 1 bad
      let d := d.raceErr e 2 (if lCapMax e < term then 1 else 0)
      let d := d.racePerf e 0 rs.length
      let d := d.racePerf e 1 cs.length
      let d := d.racePerf e 2 (cs.filter (fun c => c.subst)).length
      let d := d.racePerf e 3 dropped
      if bias.poison.isEmpty then d
      else d.groupPoison (sendGroup s (lLchan e)) bias.poison

/-- `EXCHANGE_LAUNCH` (R326): the exchange launch entry of layer `l` fires, in its turn (R41). Its die is a Race die, which no recovery
of R43 holds (R26). -/
def exchangeLaunch (d : Dev) (p l : Nat) : Dev :=
  match d.cal.find? (fun c => c.action == 2 && c.target == l && (d.group c.group).pasture == p && d.entryDue c) with
  | none => d
  | some c =>
    if !d.mayFire c then d
    else (d.fireEntry c []).modRace p l (fun x => match x.waiting (d.group c.group).last with
      | some w => x.modWait w.step (fun w => { w with launched := true })
      | none => { x with launched := true })

/-- One dispatch vector, to one shard. -/
def Dev.dispatchOne (d : Dev) (l e : Nat) (x : RaceInst) (src : Nat) (c : Choice) (h : Nat) (bs : List Byte) : Dev :=
  let ent := d.expertEntry e c.expert
  let d := d.racePerf e 4 (lDrows e)
  if cPkg ent = d.route.addr then d.raceWrite e (rxSlot e ent h src c.slot) bs
  else d.raceSend (cPkg ent) 1 (c.expert + c.slot * 2 ^ 12 + h * 2 ^ 24) l e x.step bs

/-- The data of a manifest message: the entries of R328. Where it carries MAPVER and the expert R327 does not say: the bits that R328
leaves at 0 hold them in a layout that is free (log entry 8). -/
def manifestData (d : Dev) (as : List Arrival) : List Byte :=
  as.flatMap (fun a =>
    let more := rdLE (Config.layout 3 [d.mapver, a.expert]) 0 6
    leBytes (a.src + a.slot * 2 ^ 12 + a.rank * 2 ^ 24 + a.token * 2 ^ 32 + more % 2 ^ 16 * 2 ^ 48) 8 ++
    leBytes (a.weight + more / 2 ^ 16 * 2 ^ 32) 8)

/-- `RACE_DISPATCH` (R326, R327): vectors to every shard of every assigned choice, then a manifest to every host. A poisoned dispatch
row is the abort of its producer (R432). -/
def raceDispatch (d : Dev) (p l : Nat) : Dev :=
  match d.layerOf p l with
  | none => d
  | some (s, e) =>
    let x := d.race p l
    if !x.routed || x.sent || x.abandoned || (lLaunch e != 0 && !x.launched) then d
    else
      let src := d.sourceIndex s e
      let (d, bad) := x.choices.foldl (fun (acc : Dev × List Nat) c =>
        let da := ((x.tokens.find? (fun t => t.1 == c.token)).map (fun t => t.2.1)).getD 0
        (List.range c.shards).foldl (fun (acc : Dev × List Nat) h =>
          if !acc.2.isEmpty then acc
          else
            let (r, d) := Dev.raceRead acc.1 e da (512 * lDrows e)
            if r.poison.isEmpty then (d.dispatchOne l e x src c h r.data, []) else (d, r.poison)) acc) (d, [])
      if !bad.isEmpty then
        let g := sendGroup s (lLchan e)
        ((d.groupPoison g bad).abortGroup g .hardware).abandonSource p l s e x.step
      else
        let d := d.modRace p l (fun x => { x with sent := true })
        (d.hosts e).foldl (fun d host =>
          let as := (x.choices.filter (fun c => cPkg (d.expertEntry e c.expert) == host)).map (fun c =>
            ({ src, expert := c.expert, slot := c.slot, rank := c.rank - 1, token := c.token, weight := c.weight } : Arrival))
          if host = d.route.addr then d.takeManifest p l s e src d.mapver as
          else d.raceSend host 2 as.length l e x.step (manifestData d as)) d

/-- `DISPATCH` (R326): a dispatch vector of package `from_` for the step at `step` arrives. -/
def raceDispatchIn (d : Dev) (p l from_ step expert slot shard : Nat) (data : List Byte) : Dev :=
  d.raceArrive p l { step, kind := 1, src := from_, tag := expert % 2 ^ 12 + slot % 2 ^ 12 * 2 ^ 12 + shard % 4 * 2 ^ 24, data }

/-- `MANIFEST` (R328): the manifest of package `from_` arrives; `entries` are its expert, slot, rank − 1, token and weight. -/
def raceManifestIn (d : Dev) (p l from_ step mapver : Nat) (entries : List (Nat × Nat × Nat × Nat × Nat)) : Dev :=
  d.raceArrive p l
    { step, kind := 2, src := from_, mapver
      arrivals := entries.map (fun a => { src := 0, expert := a.1, slot := a.2.1, rank := a.2.2.1, token := a.2.2.2.1, weight := a.2.2.2.2 }) }

/-- `RETURN` (R329): on the done row of a shard of this package, the return vectors of its arrivals go to their sources; one from
another package (`recv`) is written into the gather area. -/
def raceReturn (d : Dev) (p l expert shard : Nat) (recv : Bool) (step token rank : Nat) (data : List Byte) : Dev :=
  if recv then
    (d.raceArrive p l { step, kind := 3, src := 0, tag := token % 2 ^ 16 + (rank + 7) % 8 * 2 ^ 16 + shard % 4 * 2 ^ 19, data }).settleRace p l
  else match d.layerOf p l with
    | none => d
    | some (s, e) =>
      let x := d.race p l
      let q := 4 * expert + shard
      if !x.done.contains q || x.returned.contains q then d
      else
        let c := d.expertEntry e expert
        let d := d.modRace p l (fun x => { x with returned := q :: x.returned })
        let as := x.mans.flatMap (fun m => m.2.filter (fun a => a.expert == expert))
        let d := as.foldl (fun d a =>
          let (r, d) := d.raceRead e (rxReturn e c shard a.src a.slot) (512 * lRrows e)
          let d := if r.poison.isEmpty then d
            else d.groupPoison (sendGroup s (cDchan c + shard)) r.poison
          let pkg := (lSources s e).getD a.src 0
          if pkg = d.route.addr then d.takeReturn p l e a.token (a.rank + 1) shard r.data
          else d.raceSend pkg 3 (a.token + a.rank * 2 ^ 16 + shard * 2 ^ 19) l e x.step r.data) d
        d.settleRace p l

/-- The row that completes a `RECV` on CCHAN (R330). -/
def combineRow (x : RaceInst) : List Byte :=
  padTo (leBytes x.tokens.length 4 ++ leBytes x.choices.length 4 ++ leBytes x.dropped 4 ++
    leBytes (x.choices.filter (fun c => c.refused)).length 4) 512

/-- F32 vectors added place by place, rounded NEAREST; `n` bounds the elements. -/
def addVec32 (acc : List Fl) (bs : List Byte) : List Fl := acc.zipIdx.map (fun q => add32 q.1 (of32 (rdLE bs (4 * q.2) 4)))

/-- The combined output of a token is written at CADDR. -/
def Dev.combineToken (d : Dev) (e : Nat) (x : RaceInst) (t : Nat × Nat × Nat) : Dev × List Nat :=
  let mine := sortBy (fun c : Choice => c.rank) (x.choices.filter (fun c => c.token == t.1 && !c.refused))
  let (acc, d, bad) := mine.foldl (fun (a : List Fl × Dev × List Nat) c =>
    (List.range c.shards).foldl (fun (a : List Fl × Dev × List Nat) h =>
      let (r, d) := Dev.raceRead a.2.1 e (gatherSlot e t.1 c.rank h) (512 * lRrows e)
      (addVec32 a.1 r.data, d, a.2.2 ++ r.poison)) a) (List.replicate (128 * lRrows e) fl0, d, [])
  let out := if lCout e = 1 then acc.flatMap (fun v => leBytes (flPack bf16 .nearest v).1 2) else acc.flatMap (fun v => leBytes (to32 v) 4)
  (d.raceWrite e t.2.2 out, bad)

/-- `RACE_COMBINE` (R330): with every return in or refused, the outputs are written and the consumers' `RECV`s complete. -/
def raceCombine (d : Dev) (p l : Nat) : Dev :=
  match d.layerOf p l with
  | none => d
  | some (s, e) =>
    let x := d.race p l
    let ready := x.choices.all (fun c => c.refused || (List.range c.shards).all (fun h => c.got.contains h))
    if !x.sent || x.combined || x.abandoned || !ready then d
    else
      let (d, bad) := x.tokens.foldl (fun (a : Dev × List Nat) t =>
        let (d, b) := Dev.combineToken a.1 e x t
        (d, a.2 ++ b)) (d, [])
      let d := if bad.isEmpty then d
        else d.groupPoison (sendGroup s (lLchan e)) bad
      let d := (d.modRace p l (fun x => { x with combined := true })).racePerf e 6 1
      let d := (d.recvsAt p (lCchan e) x.step).foldl (fun d q => d.recvInto q.1 q.2 (combineRow x)) d
      d.settleRace p l

/-- `REFUSE` (R332): package `from_` refuses the choices of `experts`. -/
def raceRefuseIn (d : Dev) (p l from_ step : Nat) (experts : List Nat) : Dev :=
  d.raceArrive p l
    { step, kind := 4, src := from_, arrivals := experts.map (fun x => { src := 0, expert := x, slot := 0, rank := 0, token := 0, weight := 0 }) }

/-- `ABANDON` (R333): package `from_` abandons the instance, as a source of it or, with `atSource`, as a destination, by a hardware
cause or another. -/
def raceAbandonIn (d : Dev) (p l from_ step : Nat) (atSource hw : Bool) : Dev :=
  (d.raceArrive p l { step, kind := 5, src := from_, tag := atSource.toNat, mapver := hw.toNat }).settleRace p l

end Sys2Proof.Machine
end

