-- ==== Sys2Proof/Machine/Xc.lean ====
section
/-! DEFINITION. XC, the exponent-coded form that the Baler and the Drover write (R226 to R236). -/

namespace Sys2Proof.Machine

open Sys2Proof

/-- The codes of each table as (length, bits), for the symbols Z, d0, d1, … in order (R229). -/
def xcTable (t : Nat) : List (Nat × Nat) :=
  if t = 0 then
    [(8, 254), (2, 1), (2, 0), (2, 2), (3, 6), (4, 14), (5, 30), (6, 62), (7, 126), (8, 255)]
  else if t = 1 then
    [(1, 0), (3, 4), (3, 5), (4, 12), (4, 13), (5, 28), (5, 29), (6, 60), (6, 61), (7, 124), (7, 125), (8, 252),
     (8, 253), (8, 254), (8, 255)]
  else if t = 2 then
    [(5, 28), (4, 0), (4, 1), (4, 2), (4, 3), (4, 4), (4, 5), (4, 6), (4, 7), (4, 8), (4, 9), (4, 10),
     (4, 11), (4, 12), (4, 13), (5, 29), (6, 60), (6, 61), (7, 124), (7, 125), (8, 252), (8, 253), (8, 254), (8, 255)]
  else
    [(5, 30), (1, 0), (2, 2), (3, 6), (4, 14), (6, 62), (7, 126), (8, 254), (8, 255)]

/-- Elements of a block. -/
def xcN : Nat := 64

/-- Bytes of a raw block of format `c` (R230). -/
def xcRaw (c : Nat) : Nat := 8 * fmtBits c

/-- Blocks in a chunk of 4 KiB of format `c` (R231). -/
def xcBlocks (c : Nat) : Nat := 4096 / xcRaw c

/-- The largest coded field of a format (R236). -/
def xcTop (c : Nat) : Nat := if c = cBF16 then 255 else if c = cF8A then 15 else if c = cF8B then 31 else if c = cI8 then 8 else 4

/-- Exponent width and mantissa width of a float format. -/
def xcFloat (c : Nat) : Nat × Nat := if c = cBF16 then (8, 7) else if c = cF8A then (4, 3) else (5, 2)

/-- A format whose elements are integers. -/
def xcInt (c : Nat) : Bool := c == cI8 || c == cI4

/-- The `n` bits of `v` from the highest down. -/
def bitsDown (v : Nat) : Nat → List Bool
  | 0 => []
  | n + 1 => bit v n :: bitsDown v n

/-- The number whose bits, from the highest down, are `l`. -/
def ofBitsDown (l : List Bool) : Nat := l.foldl (fun n b => 2 * n + b.toNat) 0

/-- Coded field and raw field of an element (R226). -/
def xcSplit (c v : Nat) : Nat × List Bool :=
  if xcInt c then
    let x := sInt (fmtBits c) v
    let w := if x = 0 then 0 else Nat.log2 x.natAbs + 1
    (w, decide (x < 0) :: bitsDown x.natAbs (w - 1))
  else
    let (eb, mb) := xcFloat c
    (fld v mb eb, bit v (mb + eb) :: bitsDown v mb)

/-- Bits fill each byte from bit 0 upwards; zeros end the last byte (R228). `n` bounds the bytes. -/
def packBits : Nat → List Bool → List Byte
  | 0, _ => []
  | n + 1, l =>
    if l.isEmpty then []
    else BitVec.ofNat 8 (((l.take 8).zipIdx).foldl (fun s p => s + p.1.toNat * 2 ^ p.2) 0) :: packBits n (l.drop 8)

/-- The bits of bytes, each from bit 0 upwards. -/
def unpackBits (bs : List Byte) : List Bool := bs.flatMap (fun b => (List.range 8).map (fun i => bit b.toNat i))

/-- One block of 64 elements encoded, and whether it is an escape block (R227 to R230). -/
def xcBlock (c : Nat) (es : List Nat) : List Byte × Bool :=
  let s := es.map (xcSplit c)
  let base := s.foldl (fun m p => max m p.1) 0
  let syms := s.map (fun p => if p.1 = 0 then 0 else 1 + (base - p.1))
  let raw := s.foldl (fun n p => n + p.2.length) 0
  let cost (t : Nat) : Option Nat := syms.foldl (fun n y => match n, (xcTable t)[y]? with
    | some m, some e => some (m + e.1)
    | _, _ => none) (some 0)
  let best := [0, 1, 2, 3].foldl (fun (b : Option (Nat × Nat)) t => match cost t, b with
    | some m, some (k, n) => if m < n then some (t, m) else some (k, n)
    | some m, none => some (t, m)
    | none, b => b) none
  let escape : List Byte × Bool := (leBytes 4 2 ++ packElems c es, true)
  match best with
  | none => escape
  | some (t, m) =>
    if xcRaw c < cdiv (m + raw) 8 then escape
    else
      let codes := syms.flatMap (fun y => match (xcTable t)[y]? with
        | some e => bitsDown e.2 e.1
        | none => [])
      let body := codes ++ s.flatMap (·.2)
      (leBytes (t + base * 8) 2 ++ packBits body.length body, false)

/-- The blocks of a chunk's elements: their bytes and the escapes among them; `n` bounds the blocks. -/
def xcChunk (c : Nat) : Nat → List Nat → List Byte × Nat
  | 0, _ => ([], 0)
  | n + 1, es =>
    if es.isEmpty then ([], 0)
    else
      let (b, e) := xcBlock c (es.take xcN)
      let (r, k) := xcChunk c n (es.drop xcN)
      (b ++ r, k + e.toNat)

/-- Chunks of elements; `n` bounds them. -/
def xcSplitChunks (c : Nat) : Nat → List Nat → List (List Nat)
  | 0, _ => []
  | n + 1, es => if es.isEmpty then [] else es.take (xcN * xcBlocks c) :: xcSplitChunks c n (es.drop (xcN * xcBlocks c))

/-- An XC tensor of whole chunks: its bytes, its blocks, and the escapes among them (R231, R232). -/
def xcEncode (c : Nat) (es : List Nat) : List Byte × Nat × Nat :=
  let chunks := (xcSplitChunks c es.length es).map (fun x =>
    let (b, k) := xcChunk c x.length x
    (padTo b (cdiv b.length 16 * 16), k))
  let n := chunks.length
  let start := cdiv (4 * n) 16
  let offs := chunks.foldl (fun (a : List Nat × Nat) x => (a.1 ++ [a.2 + x.1.length / 16 * 2 ^ 23], a.2 + x.1.length / 16)) ([], start)
  (padTo (offs.1.flatMap (fun e => leBytes e 4)) (16 * start) ++ chunks.flatMap (·.1), n * xcBlocks c,
    chunks.foldl (fun k x => k + x.2) 0)

/-- Decode one symbol of table `t` from bits: the symbol and the rest. -/
def xcSymbol (t : Nat) (l : List Bool) : Option (Nat × List Bool) :=
  ((xcTable t).zipIdx.find? (fun e => e.1.1 ≤ l.length && ofBitsDown (l.take e.1.1) == e.1.2)).map (fun e => (e.2, l.drop e.1.1))

/-- `n` symbols from bits. -/
def xcSymbols (t : Nat) : Nat → List Bool → Option (List Nat × List Bool)
  | 0, l => some ([], l)
  | n + 1, l => match xcSymbol t l with
    | none => none
    | some (y, l) => match xcSymbols t n l with
      | none => none
      | some (ys, l) => some (y :: ys, l)

/-- The element of a coded field and its raw bits. An integer that its format cannot hold, which R236 does not provide for, is a
free value numbered `i`. -/
def xcJoin (c e i : Nat) (raw : List Bool) : Nat :=
  let s := raw.headD false
  if xcInt c then
    let m := if e = 0 then 0 else 2 ^ (e - 1) + ofBitsDown (raw.drop 1)
    let w := fmtBits c
    if 2 ^ (w - 1) < m || (m = 2 ^ (w - 1) && !s) then Config.free i % 2 ^ w
    else uNat w (if s then -(m : Int) else (m : Int))
  else
    let (eb, mb) := xcFloat c
    ofBitsDown (raw.drop 1) + e * 2 ^ mb + s.toNat * 2 ^ (mb + eb)

/-- Raw bits of an element whose coded field is `e`. -/
def xcRawBits (c e : Nat) : Nat := if xcInt c then 1 + (e - 1) else 1 + (xcFloat c).2

/-- The raw fields of a block, element by element; none when the bits end early or an integer of width 0 has its sign set. -/
def xcRaws (c i : Nat) : List Nat → List Bool → Option (List Nat × List Bool)
  | [], l => some ([], l)
  | e :: es, l =>
    let n := xcRawBits c e
    if l.length < n || (xcInt c && e = 0 && l.headD false) then none
    else match xcRaws c (i + 1) es (l.drop n) with
      | none => none
      | some (vs, l') => some (xcJoin c e i (l.take n) :: vs, l')

/-- Decode one block at the start of bytes: its elements and the bytes after it; none for a format error (R227, R236). -/
def xcDecodeBlock (c i : Nat) (bs : List Byte) : Option (List Nat × List Byte) :=
  if bs.length < 2 then none
  else
    let h := rdLE bs 0 2
    let body := bs.drop 2
    if h / 2 ^ 11 ≠ 0 then none
    else if bit h 2 then
      if h ≠ 4 || body.length < xcRaw c then none
      else some ((List.range xcN).map (fun k => elemBits c body k), body.drop (xcRaw c))
    else
      let base := fld h 3 8
      if xcTop c < base then none
      else
        match xcSymbols (fld h 0 2) xcN (unpackBits (body.take 64)) with
        | none => none
        | some (ys, _) =>
          if ys.any (fun y => y ≠ 0 && base ≤ y - 1) then none
          else
            let codeBits := ys.foldl (fun n y => n + ((xcTable (fld h 0 2)).getD y (0, 0)).1) 0
            let fields := ys.map (fun y => if y = 0 then 0 else base - (y - 1))
            let total := codeBits + fields.foldl (fun n e => n + xcRawBits c e) 0
            if body.length < cdiv total 8 then none
            else match xcRaws c i fields ((unpackBits (body.take (cdiv total 8))).drop codeBits) with
              | none => none
              | some (vs, _) => some (vs, body.drop (cdiv total 8))

/-- Decode up to `n` blocks: the elements decoded, and whether a block failed. -/
def xcDecodeBlocks (c i : Nat) : Nat → List Byte → List Nat × Bool
  | 0, _ => ([], false)
  | n + 1, bs => match xcDecodeBlock c i bs with
    | none => ([], true)
    | some (es, rest) =>
      let (r, bad) := xcDecodeBlocks c (i + xcN) n rest
      (es ++ r, bad)

/-- Decode chunk `j` of a tensor of `n` chunks: its elements, zeros from a failing block on, whether it is a format error, and the
blocks decoded (R235, R236). A chunk that begins beyond the bytes given runs past its extent. -/
def xcDecodeChunk (c n i j : Nat) (bs : List Byte) : List Nat × Bool × Nat :=
  let e := rdLE bs (4 * j) 4
  let off := e % 2 ^ 23
  let body := (bs.drop (16 * off)).take (16 * (e / 2 ^ 23))
  let (es, bad) := if off < cdiv (4 * n) 16 || bs.length < 16 * off then ([], true) else xcDecodeBlocks c i (xcBlocks c) body
  (es ++ List.replicate (xcN * xcBlocks c - es.length) 0, bad, es.length / xcN)

/-- Decode `n` chunks: the elements of all, the chunks in error, and the blocks decoded. -/
def xcDecode (c n i : Nat) (bs : List Byte) : List Nat × Nat × Nat :=
  (List.range n).foldl (fun a j =>
    let (es, bad, k) := xcDecodeChunk c n (i + 8192 * j) j bs
    (a.1 ++ es, a.2.1 + bad.toNat, a.2.2 + k)) ([], 0, 0)

/-- The bytes that an XC tensor of `n` chunks spans by its chunk index, however far its chunks lie (R235). -/
def xcUsed (n : Nat) (bs : List Byte) : Nat :=
  (List.range n).foldl (fun m j => max m (16 * (rdLE bs (4 * j) 4 % 2 ^ 23 + rdLE bs (4 * j) 4 / 2 ^ 23))) (4 * n)

/-- The worst extent of an XC tensor of `n` chunks (R233). -/
def xcWorst (c n : Nat) : Nat := 16 * cdiv (4 * n) 16 + n * (xcBlocks c * (xcRaw c + 2))

end Sys2Proof.Machine
end

