-- ==== Sys2Proof/Machine/Units.lean ====
section
/-! DEFINITION. `ASTREAM`, `ROTATE`, `JUGGLE`, `BALE` and `UNBALE` (R87, R107, R118 to R123, R160, R226 to R236). -/

namespace Sys2Proof.Machine

open Sys2Proof

/-! `ASTREAM` (R66, R87, R156). -/

/-- The buffer's exponent and occupancy entries for `n` bytes at offset `z` are cleared: dense integers. -/
def Core.clearBuf (c : Core) (z n : Nat) : Core :=
  let g (k : Nat) : Bool := !(z / 16 ≤ k && k < (z + n) / 16)
  { c with bexp := Tab.filt c.bexp (fun k _ => g k), bocc := Tab.filt c.bocc (fun k _ => g k) }

/-- Bytes of the activation buffer are written. -/
def Dev.abWrite (d : Dev) (k z : Nat) (bs : List Byte) : Dev := { d with abuf := Mem.write d.abuf (abAddr k z) bs }

/-- `ASTREAM` of AS: each present block is written at its place, and the occupancy bitmap with it (R107, R156). -/
def Dev.streamAs (d : Dev) (k c x z rows : Nat) : Dev :=
  let bits := fmtBits c
  let elems := rows * 4096 / bits
  let segs := cdiv elems 1024
  let (bl, errs, used) := asDecode c segs (d.spRead k x (min (segs * 1072) (spSize k - x)))
  let blocks := (bl.flatMap id).take (cdiv elems 32)
  let w := 4 * bits
  let d := d.modCore k (fun t => t.clearBuf z (rows * 512))
  let d := blocks.zipIdx.foldl (fun d b =>
    let o := z + w * b.2
    let mark (v : Nat) (d : Dev) : Dev := d.modCore k (fun t =>
      { t with bocc := (List.range (w / 16)).foldl (fun m i => Tab.put m (o / 16 + i) v) t.bocc })
    match b.1 with
    | some es => mark 1 (d.abWrite k o (packElems c es))
    | none => mark 0 d) d
  (d.wideRows k (cdiv used 512)).coreErr k 6 errs

/-- `ASTREAM` of a BX format: the mantissas of the rows' blocks stand one after the other in the buffer, each with its exponent
(R66, R103). -/
def Dev.streamBx (d : Dev) (k : Nat) (four : Bool) (x z rows : Nat) : Dev :=
  let (n, o, w) := bxShape four
  let d := d.modCore k (fun t => t.clearBuf z (rows * 480))
  (List.range rows).foldl (fun d r =>
    let row := d.spRead k (x + 512 * r) 512
    (List.range n).foldl (fun d i =>
      let at_ := z + w * (n * r + i)
      let e := rdLE row i 1
      (d.abWrite k at_ (slice row (o + w * i) w)).modCore k (fun t =>
        { t with bexp := (List.range (w / 16)).foldl (fun m j => Tab.put m (at_ / 16 + j) e) t.bexp })) d) d

/-- `ASTREAM` runs (R87). -/
def Dev.doAstream (d : Dev) (k op : Nat) : Dev :=
  let rows := fld (opY op) 0 8 + 1
  let z := opZ op % 2 ^ 16
  let f := opIn op
  if f = cAS then d.streamAs k (opOut op) (opX op) z rows
  else if f = cBX4 || f = cBX8 then (d.wideRows k rows).streamBx k (f == cBX4) (opX op) z rows
  else ((d.wideRows k rows).modCore k (fun t => t.clearBuf z (rows * 512))).abWrite k z (d.spRead k (opX op) (rows * 512))

/-! `ROTATE` (R123). -/

/-- One stage of the transform over groups of 2·`h` elements; `n` bounds the groups. -/
def whStage (h : Nat) : Nat → List Fl → List Fl
  | 0, _ => []
  | n + 1, l =>
    if l.isEmpty then []
    else
      let a := l.take h
      let b := (l.drop h).take h
      List.zipWith add32 a b ++ List.zipWith sub32 a b ++ whStage h n (l.drop (2 * h))

/-- The stages `t`, `t` + 1, … of the transform; `n` of them. -/
def whRun : Nat → Nat → List Fl → List Fl
  | 0, _, l => l
  | n + 1, t, l => whRun n (t + 1) (whStage (2 ^ t) l.length l)

/-- `ROTATE` runs (R123). -/
def Dev.doRotate (d : Dev) (k op : Nat) : Dev :=
  let m := fld (opZ op) 0 4
  let n := 2 ^ m
  let sv := fld (opZ op) 4 23
  let y := fld (opY op) 0 23
  let vecs := fld (opY op) 23 9 + 1
  let f := opIn op
  let b := fmtBits f / 8
  let d := (List.range vecs).foldl (fun d v =>
    let xs := (List.range n).map (fun i =>
      let e := d.spElem k f (opX op + v * n * b) i
      if bit (d.spLE k (sv + i / 8) 1) (i % 8) then flNeg e else e)
    let out := whRun m 0 xs
    d.spWrite k (y + v * n * b) (match fmtOf (opOut op) with
      | some g => packElems (opOut op) (out.map (fun v => (flPack g .nearest v).1))
      | none => [])) d
  d.corePerf k gPREC 3 vecs

/-! `JUGGLE` (R118 to R120). -/

/-- C of R119. -/
def juggleC : List Nat :=
  [14, 41, 66, 91, 114, 135, 156, 175, 193, 210, 226, 241, 254, 267, 279, 290] ++
  [299, 308, 316, 324, 330, 336, 340, 344, 347, 350, 351, 352, 353, 352, 351, 349] ++
  [347, 344, 340, 336, 331, 325, 319, 313, 305, 298, 289, 281, 271, 262, 251, 240] ++
  [229, 218, 205, 193, 180, 166, 152, 138, 123, 108, 92, 77, 60, 43, 26, 9]

/-- The magnitudes of D of R119, whose values are negative. -/
def juggleD : List Nat :=
  [10, 29, 48, 66, 83, 101, 117, 133, 149, 164, 179, 193, 206, 219, 232, 243] ++
  [255, 265, 275, 285, 294, 302, 310, 317, 323, 329, 334, 339, 343, 346, 349, 351] ++
  [352, 353, 352, 352, 350, 348, 345, 341, 337, 332, 326, 319, 312, 303, 294, 285] ++
  [274, 263, 250, 237, 223, 209, 193, 176, 159, 141, 122, 102, 81, 59, 36, 12]

/-- The log2 of a non-zero finite magnitude in units of 2^−12: e + f + C (R118). -/
def juggleLog (m : Nat) (e : Int) : Int :=
  let p := Nat.log2 m
  let f := m * 2 ^ 12 / 2 ^ p - 2 ^ 12
  let c : Nat := juggleC.getD (f / 64) 0
  (e + p) * 4096 + f + c

/-- The product of two operands in the Juggler (R120). -/
def juggleMul (a b : Fl) : Fl :=
  let neg : Fl → Bool
    | .fin s _ _ => s
    | .inf s => s
    | .nan => false
  let s := neg a != neg b
  match a, b with
  | .nan, _ => .nan
  | _, .nan => .nan
  | .inf _, y => if y.isZero then .nan else .inf s
  | x, .inf _ => if x.isZero then .nan else .inf s
  | .fin _ m e, .fin _ n f =>
    if m = 0 || n = 0 then .fin s 0 0
    else
      let l := juggleLog m e + juggleLog n f
      let h := l % 4096
      let dd : Nat := juggleD.getD (h / 64).toNat 0
      let q := l / 4096
      let v : Fl := .fin s (4096 + h - dd).toNat (q - 12)
      if flCmp (flAbs v) (.fin false 1 (-126)) < 0 then .fin s 0 0
      else if flCmp (.fin false (2 ^ 24 - 1) 104) (flAbs v) < 0 then .inf s
      else v

/-- `JUGGLE` runs (R87, R120). DEDUCED (log 30): the layouts of the matrices and of the mask, whose set bits leave elements out. -/
def Dev.doJuggle (d : Dev) (k pc op : Nat) : Dev :=
  let z := opZ op
  let w (i : Nat) := d.spLE k (z + 8 * i) 8
  let m := fld (w 0) 0 16
  let n := fld (w 0) 16 16
  let kk := w 1
  let co := w 2
  let mo := w 3
  let f := opIn op
  let ib := fmtBits f / 8
  let ob := fmtBits (opOut op) / 8
  let maskRow := cdiv n 64 * 8
  let wrong := spSize k < opX op + m * kk * ib || spSize k < opY op + kk * n * ib || 2 ^ 23 ≤ co || spSize k < co + m * n * ob ||
    tableBad k mo (maskRow * m)
  if wrong then d.paramBounds k pc
  else
    let d0 := d
    let d := { d with draws := d.draws + m * n }
    (List.range m).foldl (fun d i =>
      (List.range n).foldl (fun d j =>
        let c0 := co + (i * n + j) * ob
        let masked := mo != 0 && bit (d0.spLE k (mo + i * maskRow + j / 8) 1) (j % 8)
        if masked then d.spWrite k c0 (leBytes (Config.free (d0.draws + i * n + j)) ob)
        else
          let start := if bit op 112 then d.spElem k (opOut op) c0 0 else .fin false 0 0
          let s := (List.range kk).foldl (fun s t =>
            add32 s (juggleMul (d0.spElem k f (opX op) (i * kk + t)) (d0.spElem k f (opY op) (t * n + j)))) start
          d.spWrite k c0 (match fmtOf (opOut op) with
            | some g => packElems (opOut op) [(flPack g .nearest s).1]
            | none => [])) d) d

/-! `BALE` and `UNBALE` (R160, R233 to R236). -/

/-- `BALE` runs. -/
def Dev.doBale (d : Dev) (k op : Nat) : Dev :=
  let rows := fld (opZ op) 0 16 + 1
  let f := opIn op
  let src := d.spRead k (opX op) (512 * rows)
  let n := rows * 4096 / fmtBits f
  let es := (List.range n).map (fun i => elemBits f src i)
  if opOut op = cAS then
    let blocks := (List.range (cdiv n 32)).filter (fun b => (asBlock f ((es.drop (32 * b)).take 32)).isSome)
    let out := asEncode f n es ++ List.replicate 8 0#8
    ((d.spWrite k (opY op) out).wideRows k (rows + cdiv out.length 512)).corePerf k gSPARSE 7 blocks.length
  else
    let (bs, b, e) := xcEncode f es
    let d := (d.spWrite k (opY op) bs).wideRows k (rows + cdiv bs.length 512)
    let d := d.corePerf k gXC 0 b
    let d := d.corePerf k gXC 1 e
    d.corePerf k gXC 2 bs.length

/-- `UNBALE` runs. -/
def Dev.doUnbale (d : Dev) (k op : Nat) : Dev :=
  let rows := fld (opZ op) 0 16 + 1
  let f := opOut op
  let n := rows * 4096 / fmtBits f
  let x := opX op
  if opIn op = cAS then
    let segs := cdiv n 1024
    let (bl, errs, used) := asDecode f segs (d.spRead k x (min (segs * 1072) (spSize k - x)))
    let d := d.wideRows k (rows + cdiv used 512)
    let es := (bl.flatMap id).flatMap (fun b => match b with
      | some es => es
      | none => List.replicate 32 0)
    (d.spWrite k (opY op) ((packElems f (es.take n)).take (512 * rows))).coreErr k 6 errs
  else
    let c := rows / 8
    let src := d.spRead k x (min (xcUsed c (d.spRead k x (4 * c))) (spSize k - x))
    let (es, errs, k2) := xcDecode f c d.draws src
    let d := { d with draws := d.draws + 8192 * c }
    let d := (d.spWrite k (opY op) (packElems f es)).wideRows k (rows + cdiv src.length 512)
    (d.corePerf k gXC 3 k2).coreErr k 18 errs

end Sys2Proof.Machine
end

