-- ==== Sys2Proof/Machine/Sequencer.lean ====
section
/-! DEFINITION. The sequencer and the units' queues: issue, waits, barriers, skips, the exchange port, and the end of an act (R81 to
R87, R115, R162, R166, R182, R250). Ops of a core run in one piece when their unit reaches them. -/

namespace Sys2Proof.Machine

open Sys2Proof

/-! The exchange port (R250). -/

/-- EXCHANGE entries of a show (R383). -/
def exchanges (s : Show) : List Nat := Tab.getD s.secs 7 []

/-- The EXCHANGE entry of channel `ch`. -/
def exchangeOf (s : Show) (ch : Nat) : Option Nat := (exchanges s).find? (fun x => fld x 0 12 == ch)

/-- Channel `ch` carries AS. -/
def chanAs (s : Show) (ch : Nat) : Bool := ((exchangeOf s ch).map (fun x => bit x 12)).getD false

/-- The reduction entry that satisfies `p`, with its index. -/
def redWhere (s : Show) (p : Nat → Bool) : Option (Nat × Nat) :=
  (redEntries s).zipIdx.find? (fun q => p q.1) |>.map (fun q => (q.2, q.1))

/-- The channel of a `SEND` or `RECV`. -/
def opChan (w : Nat) : Nat := fld w 0 12

/-- Start beat of the step that core `k` runs. -/
def Dev.runStart (d : Dev) (k : Nat) : Nat := ((d.core k).run.map Run.start).getD 0

/-- The result of instance `n` for the `RECV` of core `k`: read at DEST on this package, or sent by the package of the root; where the
instance is abandoned the act aborts at its next barrier (R181, R184, R185, R188). -/
def Dev.pollResult (d : Dev) (k p n : Nat) (s : Show) (g e : Nat) (q : QOp) : Dev :=
  let x := d.red p n
  let step := d.runStart k
  if (if step = x.step then x.abandoned else x.waits.any (fun w => w.step == step && w.lost)) then
    (d.qDone k 8 q.pc).abortGroup g ((d.group g).abort.getD .hardware)
  else if destHere s e then (if x.done && step = x.step then d.takeResult k q e else d)
  else match Tab.get? x.results step with
    | some bs => d.recvInto k q bs
    | none => d

/-- The `RECV` of core `k` on a channel that another package sends on: its ready message leaves once (R250, R273). -/
def Dev.recvReady (d : Dev) (k : Nat) (s : Show) (x : Nat) (q : QOp) : Dev :=
  if q.done ≠ 0 || fld x 40 12 ≠ s.position || fld x 16 12 = s.position || coreKey (fld x 52 6) (fld x 58 6) ≠ k then d
  else
    let d := d.modCore k (fun c => { c with queue := c.queue.map (fun y => if y.unit = 8 && y.pc = q.pc then { y with done := 1 } else y) })
    d.sendTo s (fld x 16 12) 1 (fld x 28 6) (fld x 34 6) (fld x 0 12) (d.runStart k) 0 []

/-- A `RECV` of core `k` takes what is ready for it: a result (R185, R188), a combined layer (R330) or a manifest (R328); where the
instance is abandoned the act aborts at its next barrier (R184, R333). -/
def Dev.pollRecv (d : Dev) (k p : Nat) (s : Show) (g : Nat) (q : QOp) : Dev :=
  let ch := opChan q.op
  match redWhere s (fun e => rRchan e == ch) with
  | some (n, e) => d.pollResult k p n s g e q
  | none =>
    match (layersOf s).zipIdx.find? (fun y => lCchan y.1 == ch) with
    | some (_, l) =>
      let x := d.race p l
      let late := x.waiting (d.runStart k)
      if (late.map RaceWait.lost).getD x.abandoned then (d.qDone k 8 q.pc).abortGroup g ((d.group g).abort.getD .hardware)
      else if late.isNone && x.combined then d.recvInto k q (combineRow x)
      else d
    | none => match exchangeOf s ch with
      | some x => d.recvReady k s x q
      | none => (layersOf s).zipIdx.foldl (fun d y => d.raceDeliver p y.2 y.1) d

/-- The exchange port of core `k` does what it can with the op at its head, one at a time (R82): a `RECV` whose data is there
completes, and a contribution leaves; `n` bounds the ops. -/
def Dev.runPort (d : Dev) (k : Nat) : Nat → Dev
  | 0 => d
  | n + 1 =>
    match (d.core k).run with
    | none => d
    | some r =>
      match d.showOf r.pasture with
      | none => d
      | some s =>
        match ((d.core k).queued 8).head? with
        | some q =>
          if opCode q.op = 0x13 then
            let e := d.pollRecv k r.pasture s r.group q
            if ((e.core k).queued 8).head?.map QOp.pc = some q.pc then e else Dev.runPort e k n
          else match redWhere s (fun e => rCchan e == opChan q.op) with
            | some (i, e) =>
              match indexWhere (fun t => t == (s.position, k / 64, k % 64)) (participants s e) with
              | some j => match d.contribute k r.pasture i s e j q.op with
                | some d => Dev.runPort (d.qDone k 8 q.pc) k n
                | none => d
              | none => d
            | none => d
        | none => d

/-! The units (R82). -/

/-- The op at the head of a unit's queue runs: `none` where it is complete, else how far it has come. The interlocks of R81 and
R115 hold an op back, and a due flush goes ahead of the queue of DMA engine 1 (R166). -/
def Dev.runHead (d : Dev) (k : Nat) (q : QOp) : Dev × Option Nat :=
  let c := d.core k
  let w := q.op
  let code := opCode w
  if q.unit = 0 then
    if c.abufBusy q.pc (opZ w % 2 ^ 16) (asBytes w) then (d, some 0) else (d.doAstream k w, none)
  else if q.unit = 1 then
    if code = 0x03 then (d.doScreen k q.pc w, none)
    else if code = 0x04 then (if c.waitsFor (selected w) q.pc then (d, some 0) else (d.doRequant k q.pc w, none))
    else if code = 0x05 then (d.doLrank k q.pc w, none)
    else if code = 0x08 then (d.doNorm k q.pc w, none)
    else if code = 0x09 then (d.doSoftmax k q.pc w, none)
    else (d.doAudit k q.pc w q.facts, none)
  else if q.unit = 2 then (d.doJuggle k q.pc w, none)
  else if q.unit = 3 then (d.doRotate k w, none)
  else if q.unit = 4 then
    if c.pound.flushDue then (d, some q.done)
    else if code = 0x0B then (d.doDrain k w, none)
    else
      let (d, n) := d.doPoundAdd k q.pc w q.done
      (d, if n < fld (opY w) 0 17 || (d.core k).pound.flushDue then some n else none)
  else if q.unit = 5 then (if code = 0x0C then d.doBale k w else d.doUnbale k w, none)
  else if q.unit = 7 && c.pound.flushDue then (d, some q.done)
  else (d.doDma k w (code == 0x10) q.errs, none)

/-- Unit `u` of core `k` runs the ops of its queue until one must wait; `n` bounds them. -/
def Dev.runUnit (d : Dev) (k u : Nat) : Nat → Dev
  | 0 => d
  | n + 1 =>
    match ((d.core k).queued u).head? with
    | none => d
    | some q =>
      match d.runHead k q with
      | (d, none) => Dev.runUnit (d.qDone k u q.pc) k u n
      | (d, some m) =>
        d.modCore k (fun c => { c with queue := c.queue.map (fun y => if y.unit = u && y.pc = q.pc then { y with done := m } else y) })

/-! The end of an act (R87, R140, R182, R320). -/

/-- A core's monitor statistics reach the width controller, which keeps cumulative copies (R140, R141). -/
def Dev.postMons (d : Dev) (k p : Nat) : Dev :=
  (d.core k).mons.foldl (fun d m =>
    { d with mons := Tab.mod d.mons (p * 1024 + m.1 % 1024) {} (fun x =>
      { x with step := x.step.add m.2, cum := [m.2.sat, m.2.zero, m.2.satBlocks, m.2.zeroBlocks, 0, 0].zipWith (fun b a => satAdd 32 a b) x.cum }) }) d

/-- The reductions and expert layers that the act owes and has not sent for take EMPTY and no records (R182, R320). -/
def Dev.settleOwed (d : Dev) (k : Nat) (r : Run) (a : Act) (s : Show) : Dev :=
  let d := (redEntries s).zipIdx.foldl (fun d q =>
    match indexWhere (fun t => t == (s.position, k / 64, k % 64)) (participants s q.1) with
    | some i => if actSends a (rCchan q.1) && !r.sent.contains (rCchan q.1) then (d.emptyContribution r.pasture q.2 s q.1 i).getD d else d
    | none => d) d
  (layersOf s).zipIdx.foldl (fun d q =>
    if actSends a (lLchan q.1) && !r.sent.contains (lLchan q.1) then d.raceHear r.pasture q.2 k r.start q.1 [] else d) d

/-- An EMPTY contribution that the act of core `k` owes waits for credit: `END` waits with it (R182, R183). -/
def Dev.emptyWaits (d : Dev) (k : Nat) : Bool :=
  match (d.core k).run with
  | none => false
  | some r => match d.actOf r, d.showOf r.pasture with
    | some a, some s => (redEntries s).zipIdx.any (fun q =>
        match indexWhere (fun t => t == (s.position, k / 64, k % 64)) (participants s q.1) with
        | some i => actSends a (rCchan q.1) && !r.sent.contains (rCchan q.1) && (d.emptyContribution r.pasture q.2 s q.1 i).isNone
        | none => false)
    | _, _ => false

/-- `END` completes: the act's part of the step is over. A group that an abort has reached aborts the act here instead (R424). -/
def Dev.finishEnd (d : Dev) (k : Nat) : Dev :=
  match (d.core k).run with
  | none => d
  | some r =>
    match (d.group r.group).abort with
    | some cls => d.coreAbort k cls
    | none =>
      let d := match d.actOf r, d.showOf r.pasture with
        | some a, some s => d.settleOwed k r a s
        | _, _ => d
      (d.postMons k r.pasture).actOver k

/-- The group of core `k`'s act has been reached by an abort. -/
def Dev.groupAbort (d : Dev) (k : Nat) : Option AbortClass := (d.core k).run.bind (fun r => (d.group r.group).abort)

/-- Every unit of core `k` does what it can, and an `END` that waits completes with the last of them, or
aborts with its group (R424). -/
def Dev.pump (d : Dev) (k : Nat) : Dev :=
  let d := (List.range 8).foldl (fun d u => d.runUnit k u 5) d
  let d := d.runPort k 5
  let c := d.core k
  if (c.run.map (fun r : Run => r.wait)) == some .fin && ((c.maskDone 0 && !d.emptyWaits k) || (d.groupAbort k).isSome) then d.finishEnd k else d

/-! Issue (R83, R84). -/

/-- Change what core `k` runs. -/
def Dev.modRun (d : Dev) (k : Nat) (f : Run → Run) : Dev := d.modCore k (fun c => { c with run := c.run.map f })

/-- The op word at the pc of core `k`. -/
def Dev.opAt (d : Dev) (k : Nat) : Option Nat := (d.core k).run.bind (fun r => (d.actOf r).bind (fun a => a.ops[r.pc]?))

/-- Wait states and idle. -/
def Dev.idleAt (d : Dev) (k : Nat) : Bool := (d.core k).run.map (fun r : Run => r.wait) == some .none_

/-- Op words issued are counted, with what the world adds to the op (R78, R80, R96). -/
def Dev.countIssue (d : Dev) (k : Nat) (x : OpFacts) : Dev :=
  let d := d.corePerf k gSEQ 0 1
  let d := d.corePerf k gSPAD 0 x.defers
  let d := d.corePerf k gSPAD 1 x.turns
  let d := x.lanes.foldl (fun d q => if q.1 < 32 then (d.stackPerf q.1 2 q.2.1).stackPerf q.1 3 q.2.2 else d) d
  d.corePerf k gSPAD 3 x.words

/-- The op word at the pc of core `k` issues when it is of opcode `code`, its W wait is over and its unit has room: `body` issues it
(R83, R84). -/
def Dev.issue (d : Dev) (die core code : Nat) (x : OpFacts) (body : Dev → Nat → Nat → Nat → Dev) : Dev :=
  let k := coreKey die core
  match d.opAt k, (d.core k).run with
  | some w, some r =>
    if r.wait ≠ .none_ || opCode w ≠ code then d
    else
      let c := d.core k
      if opW w && !c.maskDone 0 then d.modRun k (fun r => { r with wait := .w })
      else body ((d.countIssue k x).modRun k (fun r => { r with pc := r.pc + 1 })) k r.pc w
  | _, _ => d

/-- An op for a unit with a queue of four (R82): it joins the queue, or the sequencer stalls. -/
def Dev.issueUnit (d : Dev) (die core code : Nat) (x : OpFacts) : Dev :=
  let k := coreKey die core
  match d.opAt k with
  | some w =>
    if d.idleAt k && opCode w == code && !(opW w && !(d.core k).maskDone 0) && 4 ≤ ((d.core k).queued (unitOf w)).length then
      d.modRun k (fun r => { r with wait := .queue })
    else d.issue die core code x (fun d k pc w =>
      let q : QOp := { unit := unitOf w, pc, op := w, errs := x.errs, facts := x.blocks.map (fun b => b.1 * 2 ^ 64 + packBlock b.2.1 b.2.2.1 b.2.2.2) }
      let d := if unitOf w = 4 then d.modRun k (fun r => { r with pound := true }) else d
      let d := if unitOf w = 8 && opCode w = 0x12 then d.modRun k (fun r => { r with sent := opChan w :: r.sent }) else d
      (d.modCore k (fun c => { c with queue := c.queue ++ [q] })).pump k)
  | none => d

/-! Arrays: `WLOAD`, `SEED` and their FIFOs (R62, R86, R113, R115). -/

/-- The FIFOs of arrays `l` have room. -/
def Core.fifoRoom (c : Core) (l : List Nat) : Bool := l.all (fun a => (c.arr a).fifo.length < 4 || c.lostArrays.contains a)

/-- Push entries into FIFOs: an array that waits for a spare takes none (R72). -/
def Core.pushAll (c : Core) (l : List (Nat × ArrOp)) : Core :=
  l.foldl (fun c q => if c.lostArrays.contains q.1 then c else c.modArr q.1 (fun a => { a with fifo := a.fifo ++ [q.2] })) c

/-- An op for the FIFOs of arrays `l` issues, or the sequencer stalls. -/
def Dev.issueArrays (d : Dev) (die core code : Nat) (x : OpFacts) (sel : Nat → List Nat) (entry : Run → Nat → Nat → Nat → ArrOp) : Dev :=
  let k := coreKey die core
  match d.opAt k, (d.core k).run with
  | some w, some r =>
    if d.idleAt k && opCode w == code && !(opW w && !(d.core k).maskDone 0) && !(d.core k).fifoRoom (sel w) then
      d.modRun k (fun r => { r with wait := .queue })
    else d.issue die core code x (fun d k pc w =>
      d.modCore k (fun c => c.pushAll ((sel w).zipIdx.map (fun a => (a.1, entry r pc w a.2)))))
  | _, _ => d

/-- `WLOAD` (R86). -/
def wload (d : Dev) (die core : Nat) (x : OpFacts) : Dev :=
  d.issueArrays die core 0x01 x selected (fun r pc w i => .step pc w i (pc < r.repairTo))

/-- `SEED` (R113). -/
def seed (d : Dev) (die core : Nat) (x : OpFacts) : Dev :=
  d.issueArrays die core 0x1C x (fun w => [fld (opY w) 0 6]) (fun _ pc w _ => .seed pc (fld (opFlags w) 0 2) (opX w))

/-- `SEED_TAKE_EFFECT` (R115): the seed at the head of the FIFO sets its generator once every earlier `REQUANT` that reads the array
has completed. -/
def seedTakeEffect (d : Dev) (die core arr : Nat) : Dev :=
  let k := coreKey die core
  let c := d.core k
  match (c.arr arr).fifo with
  | .seed pc g s :: rest =>
    let busy := c.queue.any (fun q => q.unit == 1 && opCode q.op == 0x04 && q.pc < pc && (selected q.op).contains arr)
    if busy then d
    else (d.modCore k (fun c => c.modArr arr (fun a => { a with fifo := rest, gens := Tab.put a.gens g (s ^^^ seedK g) }))).pump k
  | _ => d

/-- `ARRAY_STEP_START` (R62): array `arr` takes its next step. -/
def arrayStepStart (d : Dev) (die core arr : Nat) (idle : Bool) (startWait stall : Nat) (parity : Option Nat) : Dev :=
  (d.arrayStep (coreKey die core) arr idle startWait stall parity).pump (coreKey die core)

/-! Ops that queue on a unit. -/

/-- `ASTREAM`. -/
def astream (d : Dev) (die core : Nat) (x : OpFacts) : Dev := d.issueUnit die core 0x02 x
/-- `SCREEN`. -/
def screen (d : Dev) (die core : Nat) (x : OpFacts) : Dev := d.issueUnit die core 0x03 x
/-- `REQUANT`. -/
def requant (d : Dev) (die core : Nat) (x : OpFacts) : Dev := d.issueUnit die core 0x04 x
/-- `LRANK`. -/
def lrank (d : Dev) (die core : Nat) (x : OpFacts) : Dev := d.issueUnit die core 0x05 x
/-- `ROTATE`. -/
def rotate (d : Dev) (die core : Nat) (x : OpFacts) : Dev := d.issueUnit die core 0x06 x
/-- `JUGGLE`. -/
def juggle (d : Dev) (die core : Nat) (x : OpFacts) : Dev := d.issueUnit die core 0x07 x
/-- `NORM`. -/
def norm (d : Dev) (die core : Nat) (x : OpFacts) : Dev := d.issueUnit die core 0x08 x
/-- `SOFTMAX`. -/
def softmax (d : Dev) (die core : Nat) (x : OpFacts) : Dev := d.issueUnit die core 0x09 x
/-- `POUND_ADD`. -/
def poundAdd (d : Dev) (die core : Nat) (x : OpFacts) : Dev := d.issueUnit die core 0x0A x
/-- `POUND_DRAIN`. -/
def poundDrain (d : Dev) (die core : Nat) (x : OpFacts) : Dev := d.issueUnit die core 0x0B x
/-- `BALE`. -/
def bale (d : Dev) (die core : Nat) (x : OpFacts) : Dev := d.issueUnit die core 0x0C x
/-- `UNBALE`. -/
def unbale (d : Dev) (die core : Nat) (x : OpFacts) : Dev := d.issueUnit die core 0x0D x
/-- `DMA_IN`. -/
def dmaIn (d : Dev) (die core : Nat) (x : OpFacts) : Dev := d.issueUnit die core 0x10 x
/-- `DMA_OUT`. -/
def dmaOut (d : Dev) (die core : Nat) (x : OpFacts) : Dev := d.issueUnit die core 0x11 x
/-- `SEND`. -/
def send (d : Dev) (die core : Nat) (x : OpFacts) : Dev := d.issueUnit die core 0x12 x
/-- `RECV`. -/
def recv (d : Dev) (die core : Nat) (x : OpFacts) : Dev := d.issueUnit die core 0x13 x
/-- `AUDIT`. -/
def audit (d : Dev) (die core : Nat) (x : OpFacts) : Dev := d.issueUnit die core 0x1A x

/-- `POUND_FLUSH` (R166): the full log leaves on DMA engine 1, after `stall` cycles. -/
def poundFlush (d : Dev) (die core stall : Nat) : Dev :=
  let k := coreKey die core
  if (d.core k).pound.flushDue then (d.doFlush k stall).pump k else d

/-! Ops of the sequencer itself (R87). -/

/-- `WAIT_BEAT`: the beat and tick that the op names, and whether they have passed at tick `t` of the present beat. DEDUCED (log
128): a point that is just reached has passed. -/
def waitPassed (d : Dev) (start beats tick t : Nat) : Bool :=
  let b := (start + beats) % 2 ^ 64
  if b = d.beat.now then tick ≤ t else beatGe d.beat.now b

/-- `WAIT_BEAT`. -/
def waitBeat (d : Dev) (die core : Nat) (x : OpFacts) : Dev :=
  d.issue die core 0x18 x (fun d k _ w =>
    let beats := fld (opX w) 0 24
    let tick := fld (opY w) 0 10
    let start := ((d.core k).run.map (fun r : Run => r.start)).getD 0
    if waitPassed d start beats tick x.tick then d.corePerf k gSEQ 3 1 else d.modRun k (fun r => { r with wait := .beat beats tick }))

/-- `WAIT_BEAT_RELEASE`: the named point has come. -/
def waitBeatRelease (d : Dev) (die core tick : Nat) : Dev :=
  let k := coreKey die core
  match (d.core k).run with
  | some r => match r.wait with
    | .beat b t => if waitPassed d r.start b t tick then d.modRun k (fun r => { r with wait := .none_ }) else d
    | _ => d
  | none => d

/-- `BARRIER`: the act aborts here where its group has been reached by an abort (R424), goes on where the selected units have
completed, and waits otherwise. -/
def barrier (d : Dev) (die core : Nat) (x : OpFacts) : Dev :=
  d.issue die core 0x19 x (fun d k _ w =>
    match d.groupAbort k with
    | some cls => d.coreAbort k cls
    | none =>
      let m := fld (opX w) 0 9
      if (d.core k).maskDone m then d else d.modRun k (fun r => { r with wait := .barrier m }))

/-- `BARRIER_PASS` (R62): the barrier's conditions hold after `cycles`. -/
def barrierPass (d : Dev) (die core cycles : Nat) : Dev :=
  let k := coreKey die core
  let d := d.pump k
  match (d.core k).run with
  | some r => match r.wait with
    | .barrier m =>
      match d.groupAbort k with
      | some cls => (d.corePerf k gSEQ 2 cycles).coreAbort k cls
      | none => if (d.core k).maskDone m then (d.corePerf k gSEQ 2 cycles).modRun k (fun r => { r with wait := .none_ }) else d
    | _ => d
  | none => d

/-- `SEQUENCER_RESUME` (R83): the op word that was held may issue: its queue has room, or what W and `SKIP_IF` wait for is complete,
after `cycles`. -/
def sequencerResume (d : Dev) (die core cycles : Nat) : Dev :=
  let k := coreKey die core
  let d := d.pump k
  match (d.core k).run, d.opAt k with
  | some r, some w =>
    let go (i : Nat) : Dev := (d.corePerf k gSEQ i cycles).modRun k (fun r => { r with wait := .none_ })
    match r.wait with
    | .queue =>
      let room := if opCode w = 0x01 then (d.core k).fifoRoom (selected w)
        else if opCode w = 0x1C then (d.core k).fifoRoom [fld (opY w) 0 6]
        else ((d.core k).queued (unitOf w)).length < 4
      if room then go 1 else d
    | .w => if (d.core k).maskDone 0 then go 2 else d
    | .skip => if (d.core k).maskDone 0 then go 2 else d
    | _ => d
  | _, _ => d

/-- `SKIP_IF` (R87, R174): it waits as if W were set, reads its word, and skips. -/
def skipIf (d : Dev) (die core : Nat) (x : OpFacts) : Dev :=
  let k := coreKey die core
  match d.opAt k with
  | none => d
  | some w =>
    if d.idleAt k && opCode w == 0x1B && !(d.core k).maskDone 0 then d.modRun k (fun r => { r with wait := .skip })
    else d.issue die core 0x1B x (fun d k pc w =>
      let y := opY w
      let v := d.spLE k y 8
      let n := fld (opX w) 0 16
      let d := d.corePerf k gSPAD 3 1
      let skip := if bit w 112 then v = 0 else v ≠ 0
      if skip then (d.corePerf k gSEQ 4 1).modRun k (fun r => { r with pc := r.pc + n })
      else if bit v 1 && y % 16 = 8 && d.spLE k (y - 8) 8 = 0 then d.modRun k (fun r => { r with repairTo := max r.repairTo (pc + 1 + n) })
      else d)

/-- `MARK`. -/
def mark (d : Dev) (die core : Nat) (x : OpFacts) : Dev :=
  d.issue die core 0x1D x (fun d k _ w =>
    let d := d.modCore k (fun c => { c with mark := opX w })
    if bit w 112 then d.emit (.message mNotify 0 die core (leBytes (opX w) 4 ++ leBytes d.beat.now 8)) else d)

/-- `END`: it waits for every unit. -/
def end_ (d : Dev) (die core : Nat) (x : OpFacts) : Dev :=
  d.issue die core 0x1F x (fun d k _ _ =>
    let d := d.pump k
    if ((d.core k).maskDone 0 && !d.emptyWaits k) || (d.groupAbort k).isSome then d.finishEnd k
    else d.modRun k (fun r => { r with pc := r.pc - 1, wait := .fin }))

/-! Resumption of what a row of another unit has made possible. -/

/-- Every running core does what it can. -/
def Dev.pumpAll (d : Dev) : Dev := (d.cores.filter (fun c => c.2.run.isSome)).foldl (fun d c => d.pump c.1) d

/-! `EXCHANGE_TRANSFER` (R162, R250). -/

/-- An AS channel's runs move up to their end marks: sender `k`'s descriptor `e` to receiver `j`'s descriptor `f`, runs from `i`,
`n` of them. -/
def Dev.moveAs (d : Dev) (k j e f : Nat) : Nat → Nat → Dev
  | 0, _ => d
  | n + 1, i =>
    let bs := d.spRead k (dLocal e + i * dLength e) (dLength e)
    let (rows, found) := asRows bs
    let d := (d.spWrite j (dLocal f + i * dLength f) ((bs.take (512 * rows)).take (dLength f))).countAs k rows (dLength e / 512) found
    let d := d.countAs j (min rows (dLength f / 512)) (dLength f / 512) found
    Dev.moveAs d k j e f n (i + 1)

/-- Runs of an AS tensor stream that arrives: for each run its rows up to the one with its end mark, and whether the mark is there;
`n` bounds the runs (R162). -/
def asRuns (len : Nat) : Nat → List Byte → List (List Byte × Bool)
  | 0, _ => []
  | n + 1, bs =>
    if bs.isEmpty then []
    else
      let (rows, found) := asRows (bs.take len)
      ((bs.take (512 * rows)), found) :: asRuns len n (bs.drop (512 * rows))

/-- The `RECV` of queue entry `q` of core `k` takes the data of a channel: in one piece, or run by run where the channel carries AS
(R162). -/
def Dev.recvData (d : Dev) (k : Nat) (q : QOp) (as_ : Bool) (data : List Byte) : Dev :=
  if !as_ then d.recvInto k q data
  else
    let f := d.descOf k (fld (opX q.op) 0 9)
    let d := ((asRuns (dLength f) (dRuns f) data).zipIdx).foldl (fun d r =>
      (d.spWrite k (dLocal f + r.2 * dLength f) r.1.1).countAs k (r.1.1.length / 512) (dLength f / 512) r.1.2) d
    d.qDone k 8 q.pc

/-- `RECV`s on channel `ch` of pasture `p` take `data` from a die agent. -/
def Dev.takeData (d : Dev) (p ch : Nat) (as_ : Bool) (data : List Byte) : Dev :=
  (d.recvsOn p ch).foldl (fun d q => (d.recvData q.1 q.2 as_ data).pump q.1) d

/-- The bytes that a `SEND` moves: its rows, or on an AS channel each run up to its end mark (R162), which counts them for core `k`. -/
def Dev.sendBytes (d : Dev) (k e : Nat) (as_ : Bool) : List Byte × Dev :=
  if !as_ then (d.spRead k (dLocal e) (dExtent e), d)
  else (List.range (dRuns e)).foldl (fun (a : List Byte × Dev) i =>
    let bs := Dev.spRead a.2 k (dLocal e + i * dLength e) (dLength e)
    let (rows, found) := asRows bs
    (a.1 ++ bs.take (512 * rows), Dev.countAs a.2 k rows (dLength e / 512) found)) ([], d)

/-- The `SEND` of queue entry `q` of core `k` on exchange entry `x`, which leaves the package: it sends once the ready message of the
`RECV` has come, and completes when its last flit has been delivered at the far end (R250, R273). -/
def Dev.sendOut (d : Dev) (k : Nat) (s : Show) (x : Nat) (q : QOp) : Dev :=
  if q.done ≠ 0 then (d.qDone k 8 q.pc).pump k
  else
    let step := d.runStart k
    let ready (m : StileMsg) : Bool := m.kind == 1 && m.chan == fld x 0 12 && coreKey m.die m.core == k && m.step == step &&
      m.src == s.addrOf (fld x 40 12)
    if !d.inbox.any ready then d
    else
      let (bs, d) := (d.dropMsgs ready).sendBytes k (d.descOf k (fld (opX q.op) 0 9)) (bit x 12)
      let d := d.modCore k (fun c => { c with queue := c.queue.map (fun y => if y.unit = 8 && y.pc = q.pc then { y with done := 1 } else y) })
      d.sendTo s (fld x 40 12) 0 (fld x 52 6) (fld x 58 6) (fld x 0 12) step 0 bs

/-- The `SEND` of core `k` on exchange entry `x` within the package: to the core that has issued its `RECV` in the same step, or to a
die agent (R250). -/
def Dev.sendIn (d : Dev) (p k : Nat) (x : Nat) (q : QOp) : Dev :=
  let e := d.descOf k (fld (opX q.op) 0 9)
  if fld x 58 6 = 63 then
    let (bs, d) := d.sendBytes k e (bit x 12)
    ((d.emit (.message mExchange 0 (fld x 52 6) (fld x 0 12) bs)).qDone k 8 q.pc).pump k
  else
    let j := coreKey (fld x 52 6) (fld x 58 6)
    match (d.recvsOn p (fld x 0 12)).find? (fun t => t.1 == j && d.runStart t.1 == d.runStart k) with
    | none => d
    | some (_, t) =>
      let f := d.descOf j (fld (opX t.op) 0 9)
      let d := if bit x 12 then (d.moveAs k j e f (min (dRuns e) (dRuns f)) 0).qDone j 8 t.pc
        else d.recvInto j t (d.spRead k (dLocal e) (dExtent e))
      ((d.qDone k 8 q.pc).pump k).pump j

/-- Rows of a local `SEND` at the head of its port reach what its channel names; on an exchange channel the core must be the bound
sender (R250). -/
def Dev.transferSend (d : Dev) (p ch k : Nat) (s : Show) (q : QOp) : Dev :=
  let e := d.descOf k (fld (opX q.op) 0 9)
  let rows := d.spRead k (dLocal e) (dExtent e)
  let fin (d : Dev) : Dev := (d.qDone k 8 q.pc).pump k
  match (layersOf s).zipIdx.find? (fun y => lLchan y.1 == ch) with
  | some (y, l) => if ((d.race p l).waiting (d.runStart k)).isSome then d else fin (d.raceHear p l k (d.runStart k) y rows)
  | none =>
    match (layersOf s).zipIdx.findSome? (fun y =>
        ((d.ownShards y.1).find? (fun h => cDchan (d.expertEntry y.1 (h / 4)) + h % 4 == ch)).map (fun h => (y.2, h))) with
    | some (l, h) => if ((d.race p l).waiting (d.runStart k)).isSome then d else fin (d.modRace p l (fun x => { x with done := h :: x.done.filter (· != h) }))
    | none =>
      match exchangeOf s ch with
      | none => d
      | some x =>
        if fld x 16 12 ≠ s.position || coreKey (fld x 28 6) (fld x 34 6) ≠ k then d
        else if fld x 40 12 = s.position then d.sendIn p k x q
        else d.sendOut k s x q

/-- The bound receiver of exchange entry `x` takes what another package has sent for its step, once the last message has come (R250,
R273). -/
def Dev.recvOut (d : Dev) (p : Nat) (s : Show) (x : Nat) : Dev :=
  let k := coreKey (fld x 52 6) (fld x 58 6)
  match (d.recvsOn p (fld x 0 12)).find? (fun t => t.1 == k) with
  | none => d
  | some (_, q) =>
    match d.transferIn (fun m => m.kind == 0 && m.chan == fld x 0 12 && coreKey m.die m.core == k && m.step == d.runStart k &&
        m.src == s.addrOf (fld x 16 12)) with
    | none => d
    | some (h, bs) => ((d.dropMsgs h.same).recvData k q (bit x 12) bs).pump k

/-- The result of entry `n` that the root's package has sent reaches the consumers of this package, for the step that it names (R185,
R188). -/
def Dev.resultIn (d : Dev) (p n : Nat) (s : Show) (e : Nat) : Dev :=
  let pos := ((redPart s e 0).map Prod.fst).getD 0
  match d.transferIn (fun m => m.kind == 3 && m.chan == n && m.src == s.addrOf pos) with
  | none => d
  | some (h, bs) => (d.dropMsgs h.same).modRed p n (fun x => { x with results := Tab.put x.results h.step bs })

/-- `EXCHANGE_TRANSFER`: channel `ch` of pasture `p` moves. Core (die, core) of this package is the sender where it has a `SEND` on
the channel at the head of its port, and the `RECV` has been issued; otherwise the channel's bound receiver takes what another package
has sent, or `data` of a die agent, and a result channel the result that another package has sent. -/
def exchangeTransfer (d : Dev) (p ch die core : Nat) (data : List Byte) : Dev :=
  match d.showOf p with
  | none => d
  | some s =>
    let k := coreKey die core
    if (redWhere s (fun e => rCchan e == ch)).isSome then d
    else
      let mine := (((d.core k).queued 8).head?).filter (fun q =>
        opCode q.op = 0x12 && opChan q.op = ch && (d.core k).run.map (fun r : Run => r.pasture) == some p)
      match mine with
      | some q => d.transferSend p ch k s q
      | none => match redWhere s (fun e => rRchan e == ch) with
        | some (n, e) => (d.resultIn p n s e).pumpAll
        | none => match exchangeOf s ch with
          | some x =>
            if fld x 40 12 ≠ s.position then d
            else if fld x 16 12 ≠ s.position then d.recvOut p s x
            else if fld x 34 6 = 63 then d.takeData p ch (bit x 12) data
            else d
          | none => d

/-- `TREE_TRANSFER_RECEIVE` (R185): the transfer, and the held contributions of an instance that it lets begin. -/
def treeTransferReceive (d : Dev) (p n i : Nat) : Dev := ((treeTransfer d p n i).enterHeld p n).pumpAll

/-- `ARRIVAL_TRANSFER` (R188): the transfer, and the held contributions of an instance that it lets begin. -/
def arrivalReceive (d : Dev) (p n i : Nat) : Dev := ((arrivalTransfer d p n i).enterHeld p n).pumpAll

end Sys2Proof.Machine
end

