-- ==== Sys2Proof/Machine/ShowParse.lean ====
section
/-! DEFINITION. A show container: header, directory, sections and acts (R93, R382, R383). -/

namespace Sys2Proof.Machine

open Sys2Proof

/-- A failed check of a show: status, check number, index of the item and kind of the item (R382). -/
structure ShowFail where
  /-- Status code -/
  status : Nat
  /-- RES0 -/
  check : Nat
  /-- RES1 -/
  idx : Nat
  /-- RES2 -/
  kind : Nat
  deriving DecidableEq, Repr

/-- The first failure of a list of checks. -/
def firstFail : List (Option ShowFail) → Option ShowFail
  | [] => none
  | some f :: _ => some f
  | none :: l => firstFail l

/-- The first item of a section of kind `kind` that fails `bad`, with its status and check. -/
def failAt {α : Type} (status check kind : Nat) (bad : Nat → α → Bool) (l : List α) : Option ShowFail :=
  (l.zipIdx.find? (fun q => bad q.2 q.1)).map (fun q => { status, check, idx := q.2, kind })

/-- Fail without an item: RES1 is `n`. -/
def failIf (c : Bool) (status check n kind : Nat) : Option ShowFail := if c then some { status, check, idx := n, kind } else none

/-! The header (R382, R383). -/

/-- `SUPPORT` names a setting of every mode it declares (R392). -/
def supportOk (v : Nat) : Bool :=
  fld v 0 2 != 0 && fld v 2 4 != 0 && fld v 6 3 != 0 && fld v 9 4 != 0 && fld v 13 2 != 0 && fld v 15 1 == 0

/-- The header passes (R382). -/
def headerOk (bs : List Byte) (len : Nat) : Bool :=
  rdLE bs 0 4 == 0x4853545A && rdLE bs 4 4 == 3 && rdLE bs 8 8 == len && bs.length == len && 256 ≤ len &&
  slice bs 16 48 == sha384 (bs.take 16 ++ List.replicate 48 0#8 ++ bs.drop 64) &&
  1 ≤ rdLE bs 64 2 && rdLE bs 64 2 ≤ 64 && 256 + 32 * rdLE bs 64 2 ≤ len &&
  rdLE bs 66 2 ≤ rdLE bs 68 2 && rdLE bs 66 2 < 4096 && 1 ≤ rdLE bs 70 2 && rdLE bs 70 2 ≤ 256 &&
  1 ≤ rdLE bs 72 4 && rdLE bs 72 4 ≤ 4096 && 1 ≤ rdLE bs 76 4 && rdLE bs 76 4 ≤ 65536 &&
  supportOk (rdLE bs 84 2) && allZero (slice bs 86 170)

/-! The directory (R383). -/

/-- A directory entry: kind, count, offset, bytes, and whether a reserved field is set. -/
structure DirEntry where
  /-- KIND -/
  kind : Nat
  /-- COUNT -/
  count : Nat
  /-- OFFSET -/
  off : Nat
  /-- BYTES -/
  bytes : Nat
  /-- A reserved field is not 0 -/
  rsv : Bool
  deriving DecidableEq, Repr

/-- Directory entry `i` of a container. -/
def dirEntry (bs : List Byte) (i : Nat) : DirEntry :=
  let e := slice bs (256 + 32 * i) 32
  { kind := rdLE e 0 2, count := rdLE e 4 4, off := rdLE e 8 8, bytes := rdLE e 16 8
    rsv := rdLE e 2 2 != 0 || rdLE e 24 8 != 0 }

/-- Entry size of a section kind; 0 where entries vary. -/
def entrySize (k : Nat) : Nat :=
  if k = 1 || k = 11 then 32 else if k = 3 then 48 else if k = 4 || k = 6 then 4 else if k = 5 then 64
  else if k = 7 || k = 9 || k = 10 then 16 else 0

/-- Entry `e`, at place `i` of directory `ds`, is refused (R383). -/
def dirBad (len n : Nat) (ds : List DirEntry) (i : Nat) (e : DirEntry) : Bool :=
  e.rsv || e.kind == 0 || 11 < e.kind || (ds.take i).any (fun x => x.kind == e.kind) || e.off % 64 != 0 ||
  len < e.off + e.bytes || (e.bytes != 0 && e.off < 256 + 32 * n) ||
  (ds.take i).any (fun x => overlaps x.off x.bytes e.off e.bytes) || e.bytes < entrySize e.kind * e.count

/-- The check of the directory (R383). -/
def dirCheck (len : Nat) (ds : List DirEntry) : Option ShowFail :=
  firstFail [failAt sInvalid 2 0xFFFF (dirBad len ds.length ds) ds,
    failIf (!(ds.any (fun e => e.kind == 1 && e.count != 0) && ds.any (fun e => e.kind == 2 && e.count != 0)))
      sInvalid 2 ds.length 0xFFFF]

/-- Entries of `size` bytes, as numbers; `n` of them. -/
def entriesOf (size : Nat) : Nat → List Byte → List Nat
  | 0, _ => []
  | n + 1, bs => leNat (bs.take size) :: entriesOf size n (bs.drop size)

/-- The WIDTH entries: header and core entries; `n` of them, `none` where one runs past the section. -/
def widthsOf : Nat → List Byte → List (Option (Nat × List Nat))
  | 0, _ => []
  | n + 1, bs =>
    let h := leNat (bs.take 32)
    let k := fld h 16 16
    if bs.length < 32 + 8 * k then [none]
    else some (h, entriesOf 8 k (bs.drop 32)) :: widthsOf n (bs.drop (32 + 8 * k))

/-! Acts (R92, R93). -/

/-- An act as it stands in the container: its header and itself. -/
structure RawAct where
  /-- Header, 512 bits -/
  hdr : Nat
  /-- The act -/
  act : Act
  deriving DecidableEq, Repr

/-- Bytes of an act by its header (R93). -/
def actBytes (h : Nat) : Nat := 64 + 16 * fld h 0 16 + 32 * fld h 16 10 + 32 * fld h 48 5

/-- The counts of an act header lie in their ranges (R93). -/
def actCounts (h : Nat) : Bool := 1 ≤ fld h 0 16 && fld h 0 16 ≤ 8192 && fld h 16 10 ≤ 512 && fld h 48 5 ≤ 16

/-- An act of bytes `bs`. -/
def parseAct (h : Nat) (bs : List Byte) : Act :=
  let o := fld h 0 16
  let s := fld h 16 10
  { die := fld h 32 6, core := fld h 38 6, group := fld h 26 4, place := fld h 44 2, tag := fld h 64 64
    ops := entriesOf 16 o (bs.drop 64), descs := entriesOf 32 s (bs.drop (64 + 16 * o))
    binds := entriesOf 32 (fld h 48 5) (bs.drop (64 + 16 * o + 32 * s)) }

/-- The acts of the ACT section, each 64-aligned, up to one that cannot be decoded (R382, R383); `n` of them. -/
def actsOf : Nat → List Byte → List (Option RawAct)
  | 0, _ => []
  | n + 1, bs =>
    let h := leNat (bs.take 64)
    if bs.length < 64 || !actCounts h || bs.length < actBytes h then [none]
    else some { hdr := h, act := parseAct h bs } :: actsOf n (bs.drop ((actBytes h + 63) / 64 * 64))

/-- A container whose header and directory have passed. -/
structure Container where
  /-- The show without its acts -/
  sh : Show
  /-- WIDTH entries, `none` for one that runs past its section -/
  widths : List (Option (Nat × List Nat))
  /-- Acts, `none` for one that cannot be decoded -/
  acts : List (Option RawAct)
  deriving DecidableEq, Repr

/-- The bytes of a section. -/
def sectionBytes (bs : List Byte) (e : DirEntry) : List Byte := slice bs e.off e.bytes

/-- Parse a container. -/
def parseContainer (bs : List Byte) (ds : List DirEntry) : Container :=
  let sec (k : Nat) : Option DirEntry := ds.find? (fun e => e.kind == k)
  let secs : Tab (List Nat) := ds.foldl (fun t e =>
    if entrySize e.kind = 0 then t else Tab.put t e.kind (entriesOf (entrySize e.kind) e.count (sectionBytes bs e))) []
  { sh := { position := rdLE bs 66 2, npos := rdLE bs 68 2, lgroups := rdLE bs 70 2, bmax := rdLE bs 72 4, rmax := rdLE bs 76 4
            stop := rdLE bs 80 4, support := rdLE bs 84 2, secs }
    widths := match sec 8 with
      | some e => widthsOf e.count (sectionBytes bs e)
      | none => []
    acts := match sec 2 with
      | some e => actsOf e.count (sectionBytes bs e)
      | none => [] }

/-! Section entries (R383): check 2. -/

/-- Core `c` is a core of compute die `d`. -/
def coreExists (d c : Nat) : Bool := c < coresOf d

/-- The bits of entry `v` outside the mask's fields, given as pairs of first bit and width, are 0. -/
def onlyFields (v : Nat) (fs : List (Nat × Nat)) : Bool := fs.foldl (fun v f => setFld v f.1 f.2 0) v == 0

/-- A GROUP entry is refused. -/
def groupBad (l : List Nat) (i e : Nat) : Bool :=
  !onlyFields e [(0, 33), (64, 64)] || fld e 4 2 == 3 || fld e 6 2 == 3 || fld e 8 24 == 0 ||
  (l.take i).any (fun x => fld x 0 4 == fld e 0 4)

/-- An EXCHANGE entry is refused. -/
def exchangeBad (_ e : Nat) : Bool := !onlyFields e [(0, 13), (16, 48)]

/-- A POUND entry is refused. -/
def poundBad (_ e : Nat) : Bool := !onlyFields e [(0, 16), (32, 23), (64, 8)]

/-- An AREA entry is refused. -/
def areaBad (l : List Nat) (i e : Nat) : Bool :=
  let k := fld e 0 4
  1 < k || !onlyFields e [(0, 20), (64, 64)] ||
  (if k = 0 then fld e 16 4 != 0 || !coreExists (fld e 4 6) (fld e 10 6) ||
      (l.take i).any (fun x => fld x 0 4 == 0 && fld x 4 12 == fld e 4 12)
   else fld e 4 12 != 0 || fld e 64 64 % 512 != 0 || (l.take i).any (fun x => fld x 0 4 == 1))

/-- A POOL entry is refused. -/
def poolBad (l : List Nat) (i e : Nat) : Bool :=
  !onlyFields e [(0, 4), (64, 128)] || fld e 64 64 % 2 ^ 15 != 0 || fld e 128 64 % 2 ^ 15 != 0 || fld e 128 64 == 0 ||
  (l.take i).any (fun x => fld x 0 4 == fld e 0 4)

/-- A WIDTH entry is refused: a reserved field, no permitted rung, or an initial rung that is not permitted (R138). -/
def widthBad (_ : Nat) (e : Option (Nat × List Nat)) : Bool :=
  match e with
  | none => true
  | some (h, cs) =>
    !onlyFields h [(0, 15), (16, 48)] || fld h 10 3 == 0 || !bit (fld h 10 3) (fld h 13 2) ||
    cs.any (fun c => !onlyFields c [(0, 18), (32, 23)] || !coreExists (fld c 0 6) (fld c 6 6))

/-- The check of every section entry, in ascending kind (R383). -/
def sectionCheck (x : Container) : Option ShowFail :=
  let l (k : Nat) := Tab.getD x.sh.secs k []
  firstFail [
    failAt sInvalid 2 1 (groupBad (l 1)) (l 1),
    failAt sInvalid 2 4 (fun _ e => !onlyFields e [(0, 6), (8, 6), (16, 12)]) (l 4),
    failAt sInvalid 2 6 (fun _ e => !onlyFields e [(0, 12)]) (l 6),
    failAt sInvalid 2 7 exchangeBad (l 7),
    failAt sInvalid 2 8 widthBad x.widths,
    failAt sInvalid 2 9 poundBad (l 9),
    failAt sInvalid 2 10 (areaBad (l 10)) (l 10),
    failAt sInvalid 2 11 (poolBad (l 11)) (l 11)]

end Sys2Proof.Machine
end

