-- ==== Sys2Proof/Machine/ShowCheck.lean ====
section
/-! DEFINITION. The checks of an act and of a show at `SHOW_LOAD` (R94), as R116, R138, R164, R180, R303, R319 and R392 extend
them. -/

namespace Sys2Proof.Machine

open Sys2Proof

/-! Check 2: fields of op words (R84, R85, R87, R107, R108). -/

/-- The fields an opcode uses: FLAGS bits, permitted formats, OCT, and the bits of X, Y and Z. -/
structure OpSpec where
  /-- FLAGS bits in use -/
  flags : Nat := 0
  /-- Permitted FMT_IN -/
  fin : List Nat := [0]
  /-- Permitted FMT_OUT -/
  fout : List Nat := [0]
  /-- OCT is in use -/
  oct : Bool := false
  /-- Bits of X in use -/
  x : Nat := 0
  /-- Bits of Y in use -/
  y : Nat := 0
  /-- Bits of Z in use -/
  z : Nat := 0
  deriving DecidableEq, Repr

/-- The opcode table of R85. -/
def opSpec (c : Nat) : Option OpSpec :=
  if c = 0x01 then some { flags := 15, fin := [cT2, cTSG], oct := true, x := 23, y := 22, z := 16 }
  else if c = 0x02 then some { fin := [cI4, cI8, cBX4, cBX8, cAS], fout := [cI4, cI8], x := 23, y := 8, z := 16 }
  else if c = 0x03 then some { oct := true, x := 23, y := 23, z := 23 }
  else if c = 0x04 then
    some { flags := 127, fout := [cI4, cI8, cBX4, cBX8, cF8A, cF8B, cBF16, cF32], oct := true, x := 23, y := 23, z := 3 }
  else if c = 0x05 then some { fin := [cBF16], fout := [cF32], x := 23, y := 23, z := 23 }
  else if c = 0x06 then some { fin := [cBF16, cF32], fout := [cBF16, cF32], x := 23, y := 32, z := 27 }
  else if c = 0x07 then some { flags := 1, fin := [cI8, cF8A, cBF16], fout := [cF32, cBF16], x := 23, y := 23, z := 23 }
  else if c = 0x08 then some { flags := 3, fin := [cBF16, cF32], fout := [cBF16, cF32], x := 23, y := 23, z := 23 }
  else if c = 0x09 then some { fin := [cBF16, cF32], fout := [cBF16, cF32, cF8A], x := 23, y := 23, z := 23 }
  else if c = 0x0A then some { flags := 1, x := 23, y := 17 }
  else if c = 0x0B then some { flags := 1, x := 23, y := 17, z := 23 }
  else if c = 0x0C then some { fin := [cI4, cI8, cF8A, cF8B, cBF16], fout := [cAS, cXC], x := 23, y := 23, z := 16 }
  else if c = 0x0D then some { fin := [cAS, cXC], fout := [cI4, cI8, cF8A, cF8B, cBF16], x := 23, y := 23, z := 16 }
  else if c = 0x10 || c = 0x11 then some { flags := 1, x := 9 }
  else if c = 0x12 || c = 0x13 then some { x := 9, z := 12 }
  else if c = 0x18 then some { x := 24, y := 10 }
  else if c = 0x19 then some { x := 9 }
  else if c = 0x1A then some { oct := true, x := 23 }
  else if c = 0x1B then some { flags := 1, x := 16, y := 23 }
  else if c = 0x1C then some { flags := 3, x := 32, y := 6 }
  else if c = 0x1D then some { flags := 1, x := 32 }
  else if c = 0x1F then some {}
  else none

/-- Formats that one op may not pair (R85, R87, R107). -/
def pairBad (w : Nat) : Bool :=
  let c := opCode w
  let i := opIn w
  let o := opOut w
  (c = 0x02 && ((i == cI4 || i == cBX4) && o != cI4 || (i == cI8 || i == cBX8) && o != cI8)) ||
  (c = 0x06 && i != o) || (c = 0x0C && i == cBF16 && o == cAS) || (c = 0x0D && o == cBF16 && i == cAS)

/-- An op word fails check 2. DEDUCED (log 127): the NORM KIND that the opcode table does not list, and a `POUND_ADD` pair count
outside its range, are refused here. -/
def opBad2 (w : Nat) : Bool :=
  match opSpec (opCode w) with
  | none => true
  | some s =>
    fld w 102 2 != 0 || (opFlags w &&& (127 - s.flags)) != 0 || !s.fin.contains (opIn w) || !s.fout.contains (opOut w) ||
    (!s.oct && opOct w != 0) || 2 ^ s.x ≤ opX w || 2 ^ s.y ≤ opY w || 2 ^ s.z ≤ opZ w || pairBad w ||
    (opCode w = 0x01 && wlSerial w && wlR w != 1) || (opCode w = 0x08 && fld (opFlags w) 0 2 == 3) ||
    (opCode w = 0x0A && (opY w == 0 || 65536 < opY w))

/-- A descriptor has a reserved bit, or an ATOMIC in a `DMA_IN` of the act (DEDUCED, log 127). -/
def descBad2 (a : Act) (i e : Nat) : Bool :=
  fld e 176 16 != 0 || fld e 201 55 != 0 || (dAtomic e != 0 && a.ops.any (fun w => opCode w == 0x10 && opX w == i))

/-! Base bindings (R93). -/

def bBase (b : Nat) : Nat := fld b 0 4
def bKind (b : Nat) : Nat := fld b 4 4
def bImage (b : Nat) : Nat := fld b 16 10
def bOwner (b : Nat) : Nat := fld b 26 5
def bPen (b : Nat) : Nat := fld b 32 4
def bDie (b : Nat) : Nat := fld b 36 6
def bCore (b : Nat) : Nat := fld b 42 6
def bOffset (b : Nat) : Nat := fld b 64 64
def bLimit (b : Nat) : Nat := fld b 128 64

/-- The image of a KIND 1 binding of pasture `p`: one of its own, or one granted to it. -/
def Dev.boundImage (d : Dev) (p b : Nat) : Option Image :=
  let owner := if bOwner b = 31 then p else bOwner b
  (d.image owner (bImage b)).filter (fun i => i.ready && !i.lost && (owner == p || bit i.grants p))

/-- Bits that a binding of KIND `k` may use. -/
def bindFields (k : Nat) : List (Nat × Nat) :=
  [(0, 8), (64, 64)] ++ (if k = 3 then [] else [(128, 64)]) ++ (if k = 1 then [(16, 15)] else []) ++ (if k = 3 then [(16, 16)] else []) ++
  (if k = 5 then [(16, 6)] else []) ++ (if k = 0 || k = 3 || k = 4 then [(32, 4)] else []) ++
  (if k = 2 || k = 5 then [(36, 6)] else []) ++ (if k = 2 then [(42, 6)] else [])

/-- A binding fails check 2 (R93). -/
def bindBad2 (d : Dev) (p : Nat) (l : List Nat) (i b : Nat) : Bool :=
  5 < bKind b || !onlyFields b (bindFields (bKind b)) || (l.take i).any (fun x => bBase x == bBase b) ||
  (bKind b = 1 && (match d.boundImage p b with
    | some im => im.fmt == cTP5 && (bOffset b % 2560 != 0 || bLimit b % 2560 != 0)
    | none => false))

/-- An act fails check 2. -/
def actBad2 (d : Dev) (p : Nat) (x : RawAct) : Bool :=
  bit x.hdr 31 || fld x.hdr 44 2 == 3 || fld x.hdr 46 2 != 0 || fld x.hdr 53 11 != 0 || fld x.hdr 128 384 != 0 ||
  x.act.ops.any opBad2 || x.act.descs.zipIdx.any (fun q => descBad2 x.act q.2 q.1) ||
  x.act.binds.zipIdx.any (fun q => bindBad2 d p x.act.binds q.2 q.1)

/-! Check 1. -/

/-- An act is compiled for the other die type, or for a core that the pasture does not hold. -/
def actBad1 (pens : Nat) (x : RawAct) : Bool :=
  bit x.hdr 30 != isShear x.act.die || !isCompute x.act.die || !bit pens (penOfDie x.act.die) || !coreExists x.act.die x.act.core

/-! Check 3: extents (R76, R81, R84, R86, R89, R126, R161, R233). -/

/-- The largest XC chunk of a format, in bytes (R232). -/
def xcLargest (c : Nat) : Nat := if c = cBF16 then 4160 else if c = cI4 then 4352 else 4224

/-- The worst-case extent of the AS or XC form of `rows` rows of format `c` (R161, R233). -/
def baleExtent (as_ : Bool) (c rows : Nat) : Nat :=
  if as_ then cdiv (rows * 4096 / fmtBits c) 1024 * (if c = cI4 then 560 else 1072) + 8
  else 16 * cdiv (4 * (rows / 8)) 16 + rows / 8 * xcLargest c

/-- Bytes of a `REQUANT` output of `n` elements in format `c`. -/
def requantBytes (c n : Nat) : Nat :=
  if c = cBX8 then 512 * cdiv n 480 else if c = cBX4 then 512 * cdiv n 960 else cdiv (n * fmtBits c) 8

/-- Rows that a `WLOAD` reads at least (R86, R101): TSG rows hold at most 50 blocks. -/
def wloadBytes (w n : Nat) : Nat :=
  if opIn w = cTSG then 512 * cdiv (cdiv (wlTiles w) 2 * n) 50 else 16 * wlTiles w * n

/-- A parameter block of `n` bytes at `o` is misaligned or leaves a scratchpad of `sp` bytes. -/
def blockBad (sp o n : Nat) : Bool := o % 8 != 0 || sp < o + n

/-- An op word fails check 3 in a scratchpad of `sp` bytes. An `ASTREAM` or `UNBALE` of AS has no worst case in the spec: the model
takes the rows of the dense form for the one and the end mark's 8 bytes for the other (DEDUCED, log 126). The extents that only a
parameter block gives are checked when the op runs (R131); here their first byte is. -/
def opBad3 (sp w : Nat) : Bool :=
  let c := opCode w
  let x := opX w
  let y := opY w
  let z := opZ w
  let n := (selected w).length
  if c = 0x01 then x % 512 != 0 || sp < x + wloadBytes w n || 65536 < z + wlBytes w
  else if c = 0x02 then x % 512 != 0 || sp < x + 512 * (y + 1) || z % 512 != 0 || 65536 < z + asBytes w
  else if c = 0x03 then sp < x + 64 * n || (y != 0 && (blockBad sp y 64 || sp < z + 16))
  else if c = 0x04 then
    let o := if opOut w = cBX4 || opOut w = cBX8 then x / 512 * 512 else x
    sp < o + requantBytes (opOut w) (8 * n * (fld (opFlags w) 4 3 + 1)) || blockBad sp y 64
  else if c = 0x05 then blockBad sp y 64 || sp ≤ x || sp ≤ z
  else if c = 0x06 then
    let b := 2 ^ fld z 0 4 * (fmtBits (opIn w) / 8) * (fld y 23 9 + 1)
    sp < x + b || sp < fld y 0 23 + b || sp < fld z 4 23 + cdiv (2 ^ fld z 0 4) 8
  else if c = 0x07 then blockBad sp z 32 || sp ≤ x || sp ≤ y
  else if c = 0x08 || c = 0x09 then blockBad sp z 32 || sp ≤ x || sp ≤ y
  else if c = 0x0A then sp < x + 16 * y
  else if c = 0x0B then sp < x + 16 * y || sp < z + 8
  else if c = 0x0C then
    let e := baleExtent (opOut w == cAS) (opIn w) (z + 1)
    x % 512 != 0 || y % 512 != 0 || sp < x + 512 * (z + 1) || sp < y + e ||
    (opOut w == cXC && overlaps x (512 * (z + 1)) y e)
  else if c = 0x0D then
    let e := if opIn w = cXC then baleExtent false (opOut w) (z + 1) else 8
    x % 512 != 0 || y % 512 != 0 || sp < y + 512 * (z + 1) || sp < x + e ||
    (opIn w == cXC && overlaps y (512 * (z + 1)) x e)
  else if c = 0x1A then blockBad sp x 32
  else if c = 0x1B then blockBad sp y 8
  else false

/-- A descriptor breaks a limit of R89, or leaves the scratchpad. -/
def descBad3 (sp e : Nat) : Bool :=
  dRemote e % 64 != 0 || dStride e % 64 != 0 || fld e 64 32 % 512 != 0 || 2 ^ 23 ≤ fld e 64 32 || dLength e % 512 != 0 ||
  dLength e < 512 || 2 ^ 24 < dLength e || 8 < dAtomic e || sp < dLocal e + dLength e * dRuns e

/-- An act fails check 3. -/
def actBad3 (x : RawAct) : Bool :=
  let sp := spadSize x.act.die
  x.act.ops.any (opBad3 sp) || x.act.descs.any (descBad3 sp)

/-! Check 4. -/

/-- An op word selects arrays that die `die` lacks, or none where it must. -/
def opBad4 (die w : Nat) : Bool :=
  2 ^ (arraysOf die / 8) ≤ opOct w || (opOct w == 0 && ((opSpec (opCode w)).map OpSpec.oct) == some true)

/-! Check 5: step limits and gates (R53, R54, R56, R65, R67, R101, R126, R233). -/

/-- A flow of values along every path through `SKIP_IF`: each op word that a path reaches, with the join of the values of the
paths that reach it. `t` holds the values at op words ahead. -/
def flow {α : Type} (join : α → α → α) (stepv : Nat → α → α) : List Nat → Nat → Tab α → List (Nat × α)
  | [], _, _ => []
  | w :: ws, i, t =>
    match Tab.get? t i with
    | none => flow join stepv ws (i + 1) t
    | some a =>
      let b := stepv w a
      let put (t : Tab α) (j : Nat) : Tab α := Tab.put t j (match Tab.get? t j with
        | some c => join c b
        | none => b)
      let t := Tab.del t i
      let t := if opCode w = 0x1F then t
        else if opCode w = 0x1B then put (put t (i + 1)) (i + 1 + fld (opX w) 0 16)
        else put t (i + 1)
      (w, a) :: flow join stepv ws (i + 1) t

/-- The mask of octet × 8 + slot for octets `o` and slots `s` to `s + n - 1`. -/
def octSlots (o s n : Nat) : Nat := maskOf ((maskList o 6).flatMap (fun i => (List.range n).map (fun j => 8 * i + s + j)))

/-- Octets and slots that a `WLOAD` writes. -/
def wlWrites (w : Nat) : Nat := octSlots (opOct w) (wlSlot w) (wlTokens w)

/-- A `REQUANT` with a gate outside the fixed-below class can read the slot of a screened step (R67). -/
def screenBad (ops : List Nat) : Bool :=
  (flow (fun a b => a ||| b)
    (fun w a =>
      if opCode w = 0x01 then (a &&& (2 ^ 64 - 1 - wlWrites w)) ||| (if wlScreen w then wlWrites w else 0) else a)
    ops 0 [(0, 0)]).any (fun q =>
      opCode q.1 = 0x04 && !(1 ≤ fld (opFlags q.1) 0 4 && fld (opFlags q.1) 0 4 ≤ 3) &&
      (q.2 &&& octSlots (opOct q.1) (fld (opZ q.1) 0 3) (fld (opFlags q.1) 4 3 + 1)) != 0)

/-- The elements added into each slot between clears, over every op word, whether or not it is skipped (R65, R87). -/
def kCounts (ops : List Nat) : Bool :=
  (ops.foldl (fun (q : Tab Nat × Bool) w =>
    if opCode w = 0x01 then
      (maskList (wlWrites w) 64).foldl (fun q i =>
        let n := if wlClear w then wlK w else Tab.getD q.1 i 0 + wlK w
        (Tab.put q.1 i n, q.2 || 2 ^ 32 < n)) q
    else q) ([], false)).2

/-- An op word fails check 5 in a group of period `per`. -/
def opBad5 (per w : Nat) : Bool :=
  let c := opCode w
  if c = 0x01 then
    (opIn w == cTSG && wlTiles w % 2 != 0) ||
    (if wlSerial w then wlTiles w % 8 != 0 || 512 < wlTiles w
     else wlScreen w || (wlA4 w && 4 < wlR w) || 8 < wlSlot w + wlTokens w)
  else if c = 0x04 then 5 < fld (opFlags w) 0 4 || 8 < fld (opZ w) 0 3 + fld (opFlags w) 4 3 + 1
  else if c = 0x06 then fld (opZ w) 0 4 < 5 || 14 < fld (opZ w) 0 4
  else if c = 0x0C then opOut w == cXC && (opZ w + 1) % 8 != 0
  else if c = 0x0D then opIn w == cXC && (opZ w + 1) % 8 != 0
  else if c = 0x18 then per ≤ opX w
  else false

/-- The GROUP entry of group `g` in a show. -/
def groupEntry (s : Show) (g : Nat) : Option Nat := (Tab.getD s.secs 1 []).find? (fun e => fld e 0 4 == g)

/-- The period of group `g`, 0 where the show does not define it. -/
def groupPeriod (s : Show) (g : Nat) : Nat := ((groupEntry s g).map (fun e => fld e 8 24)).getD 0

/-- An act fails check 5. -/
def actBad5 (s : Show) (x : RawAct) : Bool :=
  (groupEntry s x.act.group).isNone || x.act.ops.any (opBad5 (groupPeriod s x.act.group)) || screenBad x.act.ops || kCounts x.act.ops

/-! Check 6. -/

/-- The index of the last `END` of an act, against which the targets of `SKIP_IF` are judged (DEDUCED, log 125). -/
def lastEnd (ops : List Nat) : Option Nat :=
  ((ops.zipIdx.filter (fun q => opCode q.1 == 0x1F)).getLast?).map Prod.snd

/-- The POUND entry of an act's core, with a KIND 4 binding of the act for its base register (R164). -/
def poundSet? (s : Show) (a : Act) : Bool :=
  (Tab.getD s.secs 9 []).any (fun e => fld e 0 6 == a.die && fld e 6 6 == a.core &&
    a.binds.any (fun b => bKind b == 4 && bBase b == fld e 12 4))

/-- An act fails check 6 by its own words. -/
def actBad6 (s : Show) (x : RawAct) : Bool :=
  match lastEnd x.act.ops with
  | none => true
  | some n =>
    x.act.ops.zipIdx.any (fun q =>
      let c := opCode q.1
      (c = 0x1B && n < q.2 + 1 + fld (opX q.1) 0 16) ||
      ((c = 0x10 || c = 0x11 || c = 0x12 || c = 0x13) && x.act.descs.length ≤ fld (opX q.1) 0 9) ||
      (c = 0x1C && (opX q.1 = 0 || opX q.1 ^^^ seedK (fld (opFlags q.1) 0 2) = 0 || arraysOf x.act.die ≤ fld (opY q.1) 0 6)) ||
      (c = 0x0A && !poundSet? s x.act))

/-- A second act for one core, group and placement (R93). -/
def actTwice (l : List Act) (i : Nat) (a : Act) : Bool :=
  (l.take i).any (fun b => b.die == a.die && b.core == a.core && b.group == a.group &&
    (a.place == 0 || b.place == 0 || a.place == b.place))

/-- On some path an act issues more than one `SEND` on channel `ch`. -/
def sendsTwice (ch : Nat) (a : Act) : Bool :=
  let on (w : Nat) : Nat := if opCode w = 0x12 && fld w 0 12 = ch then 1 else 0
  (flow max (fun w n => n + on w) a.ops 0 [(0, 0)]).any (fun q => 1 < q.2 + on q.1)

/-- Rows of the descriptors of an act's ops of code `code` on channel `ch`. -/
def chanRows (code ch : Nat) (a : Act) : List Nat :=
  (a.ops.filter (fun w => opCode w == code && fld w 0 12 == ch)).map (fun w => dExtent ((a.descs[fld (opX w) 0 9]?).getD 0) / 512)

/-! Check 7 (R93, R353). -/

/-- A region of `n` bytes at offset `o` of pen `pen` lies in the pens of `pens`, and in no SHARED image, which no pasture writes
(R22, log 124). -/
def inPens (d : Dev) (pens pen o n : Nat) : Bool := bit pens pen && o + n ≤ 2 ^ 38 && !d.inShared pen o n

/-- A device address range of `n` bytes lies in pen memory of `pens`. -/
def inPenMemory (d : Dev) (pens a n : Nat) : Bool := fld a 60 4 == 1 && fld a 38 18 == 0 && inPens d pens (addrPen a) (fld a 0 38) n

/-- Core (die, core) lies in the pens of `pens`. -/
def inDies (pens die core : Nat) : Bool := isCompute die && bit pens (penOfDie die) && coreExists die core

/-- Bytes of a partner's scratchpad that a KIND 5 binding names: its TP5 form (R99, R311). -/
def partnerBytes (b : Nat) : Nat := cdiv (4 * bLimit b) 5

/-- A binding names a region outside the pasture's pens and grants. Under RESIDENT a partner region that does not fit is a matter of
check 8 (R310). -/
def bindBad7 (d : Dev) (p pens b : Nat) : Bool :=
  let k := bKind b
  if k = 0 || k = 4 then !inPens d pens (bPen b) (bOffset b) (bLimit b)
  else if k = 1 then match d.boundImage p b with
    | some i => (if i.fmt = cTP5 then i.len / 4 * 5 else i.len) < bOffset b + bLimit b
    | none => true
  else if k = 2 then !inDies pens (bDie b) (bCore b) || spadSize (bDie b) < bOffset b + bLimit b
  else if k = 3 then !bit pens (bPen b)
  else !inDies pens (bDie b) (fld b 16 6) || (d.pKey p kResidence != 1 && spadSize (bDie b) < bOffset b + partnerBytes b)

/-! Reductions (R116, R178 to R180). -/

/-- A reduction entry fails check 5 (R180). -/
def redBad5 (s : Show) (acts : List Act) (e : Nat) : Bool :=
  let ps := participants s e
  4 < rOp e || 4 < rType e || 2 < rMode e || rType e = 5 ||
  fld e 7 1 != 0 || fld e 10 6 != 0 || fld e 54 10 != 0 || fld e 88 8 != 0 || fld e 120 8 != 0 || fld e 144 16 != 0 ||
  fld e 198 26 != 0 || fld e 320 64 != 0 || fld e 16 16 == 0 ||
  ((rOp e = 1 || rOp e = 2 || rOp e = 3 || rOp e = 4) && rType e != 3) || (rOp e = 4 && rMode e = 2) ||
  ps.length != rCount e || (rMode e = 0 && ps.any (fun q => q.1 != (ps.headD (0, 0, 0)).1)) ||
  ps.zipIdx.any (fun q => (ps.take q.2).contains q.1) || ps.any (fun q => !coreExists q.2.1 q.2.2) ||
  groupPeriod s (redGroup { s with acts } e) ≤ rPhase0 e + (rLevels e - 1) * rSpace e ||
  rBuf e % 512 != 0 || rDest e % 512 != 0 ||
  acts.any (fun a => sendsTwice (rCchan e) a ||
    [rCchan e, rRchan e].any (fun ch => (chanRows 0x12 ch a ++ chanRows 0x13 ch a).any (fun n => n != rRows e)))

/-- A reduction entry fails check 7 (R180). -/
def redBad7 (d : Dev) (s : Show) (pens e : Nat) : Bool :=
  !inPenMemory d pens (rDest e) (512 * rRows e) ||
  (participants s e).any (fun q => q.1 == s.position && !inPens d pens (penOfDie q.2.1) (rBuf e) (1024 * rRows e))

/-- A `REQUANT` that feeds a reduction, as the show names it (R116): reduction, act, array, index of the op word. The entries of the
reduction table come first among the reductions, then the sets of `DMA_OUT` descriptors that add into one region and the key spaces of
Pounds, in the order in which the show names them (log 14). -/
abbrev Feed := Nat × Nat × Nat × Nat

/-- The seed registry's entries for the feeds of a show (R116). -/
def registryOf (acts : List Act) (feeds : List Feed) : List SeedReg :=
  let arrays := (feeds.map (fun f => (f.1, f.2.1, f.2.2.1))).eraseDups
  let seeded := arrays.flatMap (fun f => match acts[f.2.1]? with
    | none => []
    | some a => (a.ops.filter (fun w => opCode w == 0x1C && fld (opY w) 0 6 == f.2.2)).map (fun w =>
        ({ die := a.die, red := f.1, s := opX w, g := fld (opFlags w) 0 2, core := a.core, arr := f.2.2 } : SeedReg)))
  let resets := arrays.flatMap (fun f => match acts[f.2.1]? with
    | none => []
    | some a =>
      let first := ((feeds.filter (fun x => x.1 == f.1 && x.2.1 == f.2.1 && x.2.2.1 == f.2.2)).map (fun x => x.2.2.2)).foldl min (2 ^ 13)
      ((List.range 4).filter (fun g => !(a.ops.take first).any (fun w =>
          opCode w == 0x1C && fld (opY w) 0 6 == f.2.2 && fld (opFlags w) 0 2 == g))).map (fun g =>
        ({ die := a.die, red := f.1, s := 1 + (a.die * 2 ^ 14 + a.core * 2 ^ 8 + f.2.2 * 4 + g), g, core := a.core, arr := f.2.2 } : SeedReg)))
  seeded ++ resets.eraseDups

/-- Two entries of one reduction hold one pair. -/
def seedShared (l : List SeedReg) (red : Nat) : Bool :=
  let m := (l.filter (fun r => r.red == red)).map (fun r => (r.s, r.g))
  m.zipIdx.any (fun q => (m.take q.2).contains q.1)

/-! Expert layers (R319). -/

/-- An expert layer entry fails check 5. -/
def layerBad5 (d : Dev) (s : Show) (acts : List Act) (e : Nat) : Bool :=
  lGate e = 3 || fld e 21 11 != 0 || fld e 60 4 != 0 || fld e 152 8 != 0 || fld e 172 20 != 0 || fld e 248 8 != 0 || fld e 384 128 != 0 ||
  lCf e = 0 || lDrows e = 0 || lRrows e = 0 || lProd e = 0 || lExperts e < lK e || 65536 < lCat e + lExperts e ||
  ((lSources s e).filter (· == d.route.addr)).length != 1 ||
  (lLaunch e != 0 && groupPeriod s (sendGroup { s with acts } (lLchan e)) ≤ lLaunch e)

/-- An expert layer entry fails check 6. -/
def layerBad6 (d : Dev) (acts : List Act) (e : Nat) : Bool :=
  acts.any (fun a => sendsTwice (lLchan e) a ||
    (d.ownShards e).any (fun h => (chanRows 0x13 (cMchan (d.expertEntry e (h / 4)) + h % 4) a).any (fun n =>
      n < cdiv (64 + 16 * lNsrc e * lCapMax e) 512)))

/-- An expert layer entry fails check 7. -/
def layerBad7 (d : Dev) (pens e : Nat) : Bool :=
  !inPenMemory d pens (lGather e) ((lTmax e + 1) * lK e * 4 * lRrows e * 512) ||
  (lBias e != 0 && !inPenMemory d pens (lBias e) (4 * lExperts e))

/-- Expert layer entry `e` takes catalogue entries of another pasture's show. -/
def layerTaken (d : Dev) (p e : Nat) : Bool :=
  d.pastures.any (fun q => q.1 != p && (match q.2.sh with
    | some s => (layersOf s).any (fun f => overlaps (lCat f) (lExperts f) (lCat e) (lExperts e))
    | none => false))

end Sys2Proof.Machine
end

