-- ==== Sys2Proof/Machine/Shows.lean ====
section
/-! DEFINITION. Shows: loading, the checks in their order, placement, and unloading (R94, R310 to R312, R382 to R384, R392, R506). -/

namespace Sys2Proof.Machine

open Sys2Proof

/-- The work of a `SHOW_LOAD` that has not ended. -/
def Work.loadsShow : Work → Bool
  | .showLoad .. => true
  | .showCheck .. => true
  | _ => false

/-- Service of `SHOW_LOAD` (R382). -/
def svcShowLoad (d : Dev) (c : Door) : Svc := do
  checkHeader c 16 [(0, List.replicate 16 255)]
  notStopped d
  let p ← ownPasture d c
  aligned64 c 0
  inRange c 8 8 4096 (2 ^ 30)
  refuseIf ((d.showOf p).isSome || d.handles.any (fun h => hFunc h.1 == c.func && h.2.work.loadsShow)) sConflict 0xFFFF
  handleRoom d c.func
  let (h, d) := d.newHandle c.func c.tag (.showLoad p (dp c 8 8))
  pure ({ handle := h }, d.emit (.hostRead c.func (dp c 0 8) (dp c 8 8) h))

/-- Service of `SHOW_UNLOAD` (R384). -/
def svcShowUnload (d : Dev) (c : Door) : Svc := do
  checkHeader c 8 []
  notStopped d
  let p ← ownPasture d c
  refuseIf (d.showOf p).isNone sInvalid 0xFFFF
  refuseIf (d.openReqs p != 0 || (match Tab.get? d.pastures p with
    | some q => q.prefixes.any (fun x => x.2.count != 0)
    | none => false)) sConflict 0xFFFF
  handleRoom d c.func
  let gs := d.groupsOf p
  let (h, d) := d.newHandle c.func c.tag (.showUnload p gs)
  pure ({ handle := h }, gs.foldl (fun d g => d.modGroup g (fun x => { x with unloading := true })) d)

/-! What the world adds to a container (log entry 14): the container has no section for what R116 and R310 say the show names. -/

/-- Declarations of a show. -/
structure ShowFacts where
  /-- `REQUANT`s that feed reductions (R116). -/
  feeds : List Feed := []
  /-- Weights pinned under RESIDENT: act, base register, owner and image, offset of its first TP5 byte in the image (R310, R311). -/
  pins : List (Nat × Nat × Nat × Nat × Nat) := []
  /-- WIDTH entries whose producers or consumers lie on more than one package (R138). -/
  spread : List Nat := []
  /-- Bases that carry AS: act and base register (R162). -/
  sparse : List (Nat × Nat) := []
  /-- Package addresses of the positions of the step groups, by position (R179, R274). -/
  addrs : List Nat := []

/-! The checks in their order (R94, R382). -/

/-- Dies of a group's step start (R506). -/
def startDies (d : Dev) (p : Nat) (s : Show) (acts : List Act) (g : Nat) : List Nat :=
  let pens := ((Tab.get? d.pastures p).map (·.pens)).getD 0
  let l := (acts.filter (fun a => a.group == g)).map Act.die ++ (maskList pens 16).map grazeOf ++
    ((layersOf s).filter (fun e => sendGroup { s with acts } (lLchan e) == g)).map lRace
  (List.range 40).filter (fun x => l.contains x)

/-- Dies that hold a participant sending at level `l` of an entry (R187). -/
def phaseDies (s : Show) (e l : Nat) : List Nat :=
  let ds := ((participants s e).zipIdx.filter (fun q => q.1.1 == s.position && q.2 % 2 ^ (l + 1) == 2 ^ l)).map (fun q => q.1.2.1)
  (List.range 40).filter (fun x => ds.contains x)

/-- The first step's beat: without a START, `at_` itself is the first boundary; with START `b`, the first beat at or after `at_` on
its grid of period `p`, or START where it comes later (R382, R383; log entry 72). -/
def firstStart (b p at_ : Nat) : Nat :=
  if b = 0 then at_
  else if beatGe b at_ then b else (b + cdiv (beatAhead b at_) p * p) % 2 ^ 64

/-- The Calendar entries that a show places: step starts, tree phases and launches (R187, R326, R506). -/
def showEntries (d : Dev) (p : Nat) (s : Show) (acts : List Act) : List CalEntry :=
  let sa : Show := { s with acts }
  let starts := (Tab.getD s.secs 1 []).map (fun e =>
    ({ beat := firstStart (fld e 64 64) (fld e 8 24) ((d.beat.now + 16) % 2 ^ 64), tick := 0, action := 1, rel := false, group := fld e 0 4
       target := 0, arg := fld e 8 24, dies := startDies d p s acts (fld e 0 4) } : CalEntry))
  let phases := (redEntries s).zipIdx.flatMap (fun q =>
    if rMode q.1 = 2 then [] else
    ((List.range (rLevels q.1)).filter (fun l => !(phaseDies s q.1 l).isEmpty)).map (fun l =>
      ({ beat := rPhase0 q.1 + l * rSpace q.1, tick := 0, action := 6, rel := true, group := redGroup sa q.1, target := q.2, arg := l
         dies := phaseDies s q.1 l } : CalEntry)))
  let launches := (layersOf s).zipIdx.filterMap (fun q =>
    if lLaunch q.1 = 0 then none else
    some ({ beat := lLaunch q.1, tick := 0, action := 2, rel := true, group := sendGroup sa (lLchan q.1), target := q.2, arg := 0
            dies := [lRace q.1] } : CalEntry))
  starts ++ phases ++ launches

/-- The Calendars take every entry of the list (R43). -/
def Dev.calTakes (d : Dev) (l : List CalEntry) : Bool :=
  (List.range 40).all (fun x => d.calFill x + (l.filter (fun e => e.dies.contains x)).length ≤ 256)

/-- The settings in force that the show must support (R392). -/
def unsupported (d : Dev) (p support : Nat) : Bool :=
  [kPlacement, kScreen, kSpec, kSkip, kKvFill].any (fun k => !supports support k (d.pKey p k))

/-- Bytes of an accept area (R303). -/
def acceptBytes (s : Show) : Nat := 512 * cdiv s.bmax 128 + s.bmax * (512 + cdiv (64 * cdiv s.lgroups 8) 512 * 512)

/-- The lowest-numbered pen of a mask. -/
def lowestPen (pens : Nat) : Nat := (maskList pens 16).headD 16

/-- Act `i` overfills its core's act store or descriptor table, counted with the acts before it (R92). -/
def storeFull (l : List Act) (i : Nat) (a : Act) : Bool :=
  let same := (l.take (i + 1)).filter (fun b => b.die == a.die && b.core == a.core)
  8 < same.length || 8192 < same.foldl (fun n b => n + b.ops.length) 0 || 512 < same.foldl (fun n b => n + b.descs.length) 0

/-- Check 3 of the areas that a show names in scratchpads: aligned, and inside (R76, R138, R164, R393). -/
def areaCheck3 (x : Container) : Option ShowFail :=
  firstFail [
    failAt sInvalid 3 8 (fun _ e => match e with
      | none => true
      | some (_, cs) => cs.any (fun c => fld c 32 23 % 512 != 0 || spadSize (fld c 0 6) < fld c 32 23 + 24 * (fld c 12 6 + 1))) x.widths,
    failAt sInvalid 3 9 (fun _ e => fld e 32 23 % 512 != 0 || !coreExists (fld e 0 6) (fld e 6 6) ||
      spadSize (fld e 0 6) < fld e 32 23 + 512 * (fld e 64 8 + 1)) (Tab.getD x.sh.secs 9 []),
    failAt sInvalid 3 10 (fun _ e => fld e 0 4 == 0 && (fld e 64 64 % 512 != 0 || spadSize (fld e 4 6) < fld e 64 64 + 128))
      (Tab.getD x.sh.secs 10 [])]

/-- Check 5 of what is no act (R138, R180, R303, R319, R392). -/
def showCheck5 (d : Dev) (p pens : Nat) (x : Container) (acts : List Act) (spread : List Nat) : Option ShowFail :=
  let areas := Tab.getD x.sh.secs 10 []
  firstFail [
    failAt sInvalid 5 3 (fun _ e => redBad5 x.sh acts e) (redEntries x.sh),
    failAt sInvalid 5 5 (fun _ e => layerBad5 d x.sh acts e) (layersOf x.sh),
    failAt sInvalid 5 8 (fun i _ => spread.contains i) x.widths,
    failIf ((Tab.getD x.sh.secs 1 []).any (fun e => fld e 4 2 == 0) && !areas.any (fun e => fld e 0 4 == 1)) sInvalid 5 areas.length 10,
    failAt sInvalid 5 10 (fun _ e => fld e 0 4 == 1 && bit pens (fld e 16 4) && fld e 16 4 != lowestPen pens) areas,
    failIf (unsupported d p x.sh.support) sInvalid 5 0 0]

/-- Check 7 of what is no act (R180, R303, R319, R353). -/
def showCheck7 (d : Dev) (pens : Nat) (x : Container) : Option ShowFail :=
  firstFail [
    failAt sDenied 7 3 (fun _ e => redBad7 d x.sh pens e) (redEntries x.sh),
    failAt sDenied 7 5 (fun _ e => layerBad7 d pens e) (layersOf x.sh),
    failAt sDenied 7 8 (fun _ e => match e with
      | none => true
      | some (_, cs) => cs.any (fun c => !inDies pens (fld c 0 6) (fld c 6 6))) x.widths,
    failAt sDenied 7 9 (fun _ e => !inDies pens (fld e 0 6) (fld e 6 6)) (Tab.getD x.sh.secs 9 []),
    failAt sDenied 7 10 (fun _ e => if fld e 0 4 = 0 then !inDies pens (fld e 4 6) (fld e 10 6)
      else !inPens d pens (fld e 16 4) (fld e 64 64) (acceptBytes x.sh)) (Tab.getD x.sh.secs 10 []),
    failAt sDenied 7 11 (fun _ e => !inPens d pens (fld e 0 4) (fld e 64 64) (fld e 128 64)) (Tab.getD x.sh.secs 11 [])]

/-- A pinned weight does not fit its partner's scratchpad (R310, R311). -/
def pinBad (a : Act) : Bool :=
  a.binds.any (fun b => bKind b == 5 && spadSize (bDie b) < bOffset b + partnerBytes b)

/-- Check 8 (R43, R92, R116, R138, R310, R319). -/
def showCheck8 (d : Dev) (p : Nat) (x : Container) (acts : List Act) (reg : List SeedReg) : Option ShowFail :=
  let cores := x.widths.flatMap (fun e => match e with
    | some (_, cs) => cs.map (fun c => fld c 0 12)
    | none => [])
  let ents := showEntries d p x.sh acts
  let fits (e : CalEntry) : Bool := d.calTakes (ents.takeWhile (· != e) ++ [e])
  firstFail [
    failAt sNoSpace 8 2 (storeFull acts) acts,
    failIf (d.pKey p kResidence == 1 && acts.any pinBad) sNoSpace 8 ((indexWhere pinBad acts).getD 0) 2,
    failIf (1024 < x.widths.length) sNoSpace 8 1024 8,
    failIf (cores.any (fun c => 64 < cores.count c)) sNoSpace 8 x.widths.length 8,
    failIf (256 < (layersOf x.sh).length) sNoSpace 8 256 5,
    failIf (4096 < (redEntries x.sh).length) sNoSpace 8 4096 3,
    failIf ((List.range 40).any (fun v => 4096 < (reg.filter (fun r => r.die == v)).length)) sNoSpace 8 (redEntries x.sh).length 3,
    match ents.find? (fun e => !fits e) with
    | some e => some { status := sNoSpace, check := 8
                       idx := if e.action = 1 then (indexWhere (fun g => fld g 0 4 == e.group) (Tab.getD x.sh.secs 1 [])).getD 0 else e.target
                       kind := if e.action = 1 then 1 else if e.action = 6 then 3 else 5 }
    | none => none]

/-- The checks of the acts and the show, in the order of R94. -/
def showChecks (d : Dev) (p pens : Nat) (x : Container) (f : ShowFacts) : Option ShowFail :=
  let raws := x.acts.filterMap id
  let acts := raws.map RawAct.act
  let reg := registryOf acts f.feeds
  firstFail [
    sectionCheck x,
    failAt sInvalid 1 2 (fun _ a => actBad1 pens a) raws,
    failAt sInvalid 2 2 (fun _ a => match a with
      | some a => actBad2 d p a
      | none => true) x.acts,
    failAt sInvalid 3 2 (fun _ a => actBad3 a) raws,
    areaCheck3 x,
    failAt sInvalid 4 2 (fun _ a => a.act.ops.any (opBad4 a.act.die)) raws,
    failAt sInvalid 5 2 (fun _ a => actBad5 x.sh a) raws,
    showCheck5 d p pens x acts f.spread,
    failAt sInvalid 6 2 (fun i a => actBad6 x.sh a || actTwice acts i a.act) raws,
    failAt sInvalid 6 5 (fun _ e => layerBad6 d acts e) (layersOf x.sh),
    failAt sDenied 7 2 (fun _ a => a.act.binds.any (bindBad7 d p pens)) raws,
    showCheck7 d pens x,
    showCheck8 d p x acts reg,
    failAt sSeedShared 9 3 (fun i _ => seedShared reg i) (List.range ((reg.map (fun r => r.red + 1)).foldl max 0)),
    failAt sConflict 9 5 (fun _ e => layerTaken d p e) (layersOf x.sh)]

/-- Every check of a container of length `len` (R382). -/
def containerCheck (d : Dev) (p pens len : Nat) (bs : List Byte) (f : ShowFacts) : Except ShowFail Container :=
  if !headerOk bs len then .error { status := sInvalid, check := 0, idx := 0, kind := 0 }
  else
    let ds := (List.range (rdLE bs 64 2)).map (dirEntry bs)
    match dirCheck len ds with
    | some e => .error e
    | none =>
      let x := parseContainer bs ds
      match showChecks d p pens x f with
      | some e => .error e
      | none => .ok x

/-! Placement (R92, R296, R310, R382). -/

/-- TP5 bytes of the pinned weights reach the partners' scratchpads (R310, R311). -/
def Dev.pinWeights (d : Dev) (acts : List Act) (pins : List (Nat × Nat × Nat × Nat × Nat)) : Dev :=
  pins.foldl (fun d q =>
    match (acts[q.1]?).bind (fun a => a.binds.find? (fun b => bKind b == 5 && bBase b == q.2.1)), d.image q.2.2.1 q.2.2.2.1 with
    | some b, some i =>
      let n := min (partnerBytes b) (i.len - q.2.2.2.2)
      let k := coreKey (bDie b) (fld b 16 6)
      let (x, d) := d.access (bDie b) (fld b 16 6) i.pen 0 false [] (n / 256 + 2) (i.off + q.2.2.2.2) n none
      d.spWrite k (bOffset b) x.data
    | _, _ => d) d

/-- A group that the show defines, its first step at `first` (R44, R382). -/
def showGroup (p e first : Nat) : Group :=
  { exists_ := true, pasture := p, base := first, first, period := fld e 8 24, phase := fld e 4 2, place := fld e 6 2, spans := bit e 32 }

/-- What an earlier show of pasture `p` left is gone. -/
def Dev.clearShow (d : Dev) (p : Nat) : Dev :=
  { d with
    groups := Tab.filt d.groups (fun _ g => !(g.exists_ && g.pasture == p))
    cal := d.cal.filter (fun e => !((e.action == 1 || e.rel) && (d.group e.group).exists_ && (d.group e.group).pasture == p))
    inbox := d.inbox.filter (fun m => d.pastureOfDie m.die != p)
    reds := Tab.filt d.reds (fun k _ => k / 4096 != p)
    races := Tab.filt d.races (fun k _ => k / 256 != p)
    widths := Tab.filt d.widths (fun k _ => k / 1024 != p)
    mons := Tab.filt d.mons (fun k _ => k / 1024 != p)
    pastures := Tab.upd d.pastures p (fun q => { q with sh := none }) }

/-- The Pound contents of the cores of pasture `p` go (R384). -/
def Dev.emptyPounds (d : Dev) (pens : Nat) : Dev :=
  { d with cores := Tab.mapV d.cores (fun k c => if bit pens (penOfDie (k / 64)) && isCompute (k / 64) then { c with pound := {} } else c) }

/-- A container that has passed is placed. -/
def Dev.placeShow (d : Dev) (p : Nat) (x : Container) (f : ShowFacts) : Dev :=
  let acts := (x.acts.filterMap id).map RawAct.act
  let ws := x.widths.filterMap id
  let s : Show := { x.sh with acts, widths := ws, seeds := registryOf acts f.feeds, sparse := f.sparse, addrs := f.addrs
                              pins := if d.pKey p kResidence = 1 then f.pins else [] }
  let ents := showEntries d p x.sh acts
  let d := d.clearShow p
  let d := if d.pKey p kResidence = 1 then d.pinWeights acts f.pins else d
  let d := d.modPasture p (fun q => { q with sh := some s, loading := false })
  let d := (Tab.getD s.secs 1 []).foldl (fun d e =>
    match ents.find? (fun c => c.action == 1 && c.group == fld e 0 4) with
    | some c => { d with groups := Tab.put d.groups (fld e 0 4) (showGroup p e c.beat) }
    | none => d) d
  let d := { d with widths := ws.zipIdx.foldl (fun t w =>
    Tab.put t (p * 1024 + w.2) { rung := fld w.1.1 13 2, next := fld w.1.1 13 2 }) d.widths }
  ents.foldl Dev.calPlace d

/-- `SHOW_CONTAINER_READ`: the container of handle `h` has been read; it is checked and placed, or refused (R382). -/
def showContainerRead (d : Dev) (h : Nat) (feeds : List (Nat × Nat × Nat × Nat)) (pins : List (Nat × Nat × Nat × Nat × Nat))
    (spread : List Nat) (sparse : List (Nat × Nat)) (addrs : List Nat) : Dev :=
  match (Tab.get? d.handles h).map Handle.work with
  | some (.showCheck p bs) =>
    let pens := ((Tab.get? d.pastures p).map (·.pens)).getD 0
    let f : ShowFacts := { feeds, pins, spread, sparse, addrs }
    match containerCheck d p pens bs.length bs f with
    | .error e => (d.modPasture p (fun q => { q with loading := false })).finish h e.status [e.check, e.idx, e.kind]
    | .ok x => (d.placeShow p x f).finish h sOk []
  | _ => d

/-- The `SHOW_UNLOAD` of handle `h` has seen the boundary of group `g`: after the last group's, the show goes and the handle completes
(R384). -/
def Dev.unloadSees (d : Dev) (p g : Nat) (h : Nat) (w : Work) : Dev :=
  match w with
  | .showUnload q gs =>
    if q ≠ p then d
    else
      let rest := gs.filter (· != g)
      if rest.isEmpty then ((d.clearShow q).emptyPounds (((Tab.get? d.pastures q).map (·.pens)).getD 0)).finish h sOk []
      else d.setWork h (.showUnload q rest)
  | _ => d

/-- At a boundary of group `g`, an unloading show loses it (R384). -/
def Dev.unloadGroup (d : Dev) (g : Nat) : Dev :=
  let p := (d.group g).pasture
  let d := { d with groups := Tab.del d.groups g, cal := d.cal.filter (fun e => !((e.action == 1 || e.rel) && e.group == g)) }
  d.handles.foldl (fun d x => d.unloadSees p g x.1 x.2.work) d

/-- `SHOW_LOAD` at the device. -/
def showLoad (d : Dev) (c : Door) : Dev := d.serve c 0x0401 svcShowLoad
/-- `SHOW_UNLOAD` at the device. -/
def showUnload (d : Dev) (c : Door) : Dev := d.serve c 0x0402 svcShowUnload

end Sys2Proof.Machine
end

