-- ==== Sys2Proof/Machine/Recovery.lean ====
section
/-! DEFINITION. Fault reports and recoveries, tainted images and their reseeding (R420, R427 to R429, R432 to R436, R440). -/

namespace Sys2Proof.Machine

open Sys2Proof

/-! Reseeding (R433, R435, R436). -/

/-- The key of image `n` of pasture `owner`. -/
def imgKey (owner n : Nat) : Nat := owner * 1024 + n

/-- INFO of an image event (R421). -/
def imgInfo (owner n b src : Nat) : Nat := n % 2 ^ 10 + owner % 2 ^ 4 * 2 ^ 10 + b % 2 ^ 32 * 2 ^ 14 + src % 4 * 2 ^ 46

/-- SEQ of the latest `MEM_UE` in the 4 KiB at offset `o` of pen `pen`, 0 where there is none (R420). -/
def Dev.memUeBehind (d : Dev) (pen o : Nat) : Nat :=
  let infos := (List.range 16).map (fun i =>
    let b := o / 256 + i
    pen + hashQ b * 16 + hashL b * 2048)
  match (d.faults.log.reverse).find? (fun r => r.code == 0x0010 && infos.contains (r.info % 2 ^ 34)) with
  | some r => r.seq
  | none => 0

/-- A notice about block `b` of an image to every pasture whose loaded show binds it (R433, R435). -/
def Dev.tellUsers (d : Dev) (code owner n b src : Nat) : Dev :=
  let link := match d.image owner n with
    | some i => d.memUeBehind i.pen (i.off + 4096 * b)
    | none => 0
  (d.binders owner n).foldl (fun d u => d.record code 63 63 dNotice 0 u link (imgInfo owner n b src)) d

/-- The first source at or after `src` that can be asked: 0 tier 2, 1 a peer, 2 the host (R435). -/
def Dev.sourceFrom (d : Dev) (owner n src : Nat) : Nat :=
  let golden := match d.image owner n with
    | some i => i.golden.isSome
    | none => false
  if src = 0 && golden then 0
  else if src ≤ 1 && (d.groupsOf owner).any (fun g => (d.group g).spans) then 1
  else 2

/-- The firmware asks each package of the owner's step groups for block `b` of an image with its check value (R435; log entry 134). -/
def Dev.askPeers (d : Dev) (owner n b : Nat) : Dev :=
  let d := d.emit (.reseedPeers owner n b)
  match (d.groupsOf owner).find? (fun g => (d.group g).spans), d.image owner n with
  | some g, some i => d.tellGroup g reseedTag (leBytes b 4 ++ leBytes (i.crcs.getD b 0) 4)
  | _, _ => d

/-- The reseed of block `b` asks source `src` (R435). -/
def Dev.askSource (d : Dev) (owner n b src : Nat) : Dev :=
  let d := { d with faults := { d.faults with
    reseeds := d.faults.reseeds.map (fun x => if x.1 = imgKey owner n && x.2.1 = b then (x.1, b, src) else x) } }
  if src = 1 then d.askPeers owner n b
  else if src = 2 then
    let link := match d.image owner n with
      | some i => d.memUeBehind i.pen (i.off + 4096 * b)
      | none => 0
    d.record 0x0051 63 63 dNotice 0 owner link (imgInfo owner n b 0)
  else d

/-- Code of a source that has not been asked, since another block of the image is reseeded first. -/
def sourceWaits : Nat := 3

/-- The next waiting block of an image begins its reseed, unless one is under way (R435). -/
def Dev.nextReseed (d : Dev) (owner n : Nat) : Dev :=
  let l := d.faults.reseeds.filter (fun x => x.1 == imgKey owner n)
  match l.head? with
  | some x => if x.2.2 = sourceWaits then d.askSource owner n x.2.1 (d.sourceFrom owner n 0) else d
  | none => d

/-- Block `b` of an image holds poison: `IMAGE_TAINT` goes out and its reseed begins, once (R433, R435). -/
def Dev.taintBlock (d : Dev) (owner n b : Nat) : Dev :=
  match d.image owner n with
  | none => d
  | some i =>
    if i.lost || i.tainted.contains b then d
    else
      let d := d.modImage owner n (fun i => { i with tainted := i.tainted ++ [b] })
      let d := d.tellUsers 0x0050 owner n b 0
      ({ d with faults := { d.faults with reseeds := d.faults.reseeds ++ [(imgKey owner n, b, sourceWaits)] } }).nextReseed owner n

/-- The reseed of block `b` is over. -/
def Dev.dropReseed (d : Dev) (owner n b : Nat) : Dev :=
  { d with faults := { d.faults with reseeds := d.faults.reseeds.filter (fun x => !(x.1 == imgKey owner n && x.2.1 == b)) } }

/-- The check value that data for block `b` of an image must have matches (R381, R435). -/
def Image.matches (i : Image) (b : Nat) (data : List Byte) : Bool :=
  i.crcs[b]? == some (crc32 data) && data.length == min 4096 (i.len - 4096 * b)

/-- Block `b` is written with data that matches: its poison is cleared, the block is clean, and where it was tainted its users are
told the source (R433, R435). -/
def Dev.writeBlock (d : Dev) (owner n b src : Nat) (data : List Byte) : Dev :=
  match d.image owner n with
  | none => d
  | some i =>
    let d := d.agentWrite 18 i.pen (i.off + 4096 * b) data
    let d := if i.tainted.contains b then (d.tellUsers 0x0052 owner n b src).dropReseed owner n b else d
    (d.modImage owner n (fun i =>
      { i with tainted := i.tainted.filter (· != b), clean := Tab.put i.clean b d.beat.now })).nextReseed owner n

/-- The source under way has failed: the next is asked, and after the last the image is lost (R435, R436). -/
def Dev.sourceFailed (d : Dev) (owner n b src : Nat) : Dev :=
  if 2 ≤ src then
    let d := { d with faults := { d.faults with reseeds := d.faults.reseeds.filter (fun x => x.1 != imgKey owner n) } }
    let link := match d.image owner n with
      | some i => d.memUeBehind i.pen (i.off + 4096 * b)
      | none => 0
    d.imageLost owner n b link
  else d.askSource owner n b (d.sourceFrom owner n (src + 1))

/-- The source that the reseed of block `b` waits for. -/
def Dev.reseedSource (d : Dev) (owner n b : Nat) : Option Nat :=
  (d.faults.reseeds.find? (fun x => x.1 == imgKey owner n && x.2.1 == b && x.2.2 != sourceWaits)).map (fun x => x.2.2)

/-- `RESEED_SOURCE_DONE`: tier 2 supplies block `b` from the golden copy, or a peer supplies `data`; the host's data comes by
`IMAGE_RESEED` (R435). -/
def reseedSourceDone (d : Dev) (owner n b : Nat) (data : List Byte) : Dev :=
  match d.reseedSource owner n b, d.image owner n with
  | some src, some i =>
    let data := match src, i.golden with
      | 0, some bs => slice bs (4096 * b) 4096
      | _, _ => data
    if 2 ≤ src then d
    else if i.matches b data then d.writeBlock owner n b src data
    else (d.errAdd 18 64 9 1).sourceFailed owner n b src
  | _, _ => d

/-- `RESEED_TIMEOUT`: the peers within 100 ms, or the host within 1 s, have not answered; or tier 2 could not be read (R435). -/
def reseedTimeout (d : Dev) (owner n b : Nat) : Dev :=
  match d.reseedSource owner n b with
  | some src => d.sourceFailed owner n b src
  | none => d

/-- A step group may not start while an image that its show binds holds poison (R434). -/
def Dev.imageHeld (d : Dev) (p : Nat) : Bool :=
  d.pastures.any (fun q => q.2.images.any (fun i => !i.2.tainted.isEmpty && d.showBinds p q.1 i.1))

/-! Recoveries (R26, R427, R428). -/

/-- `FAULT_REPORT`: a unit's report reaches the Ringmaster, with the scratchpad words that its core has corrected since the last one
(R420 to R422). `item` is the recovery order of a failing fence-walk item. -/
def faultReport (d : Dev) (code die core info item corrected : Nat) : Dev :=
  let d := if core < coresOf die then d.errAdd die core 19 corrected else d
  if code = 0 || 40 ≤ die then d else d.raise code die core info item

/-- A spare core of die `die` that qualifies (R445). -/
def Dev.spareCore (d : Dev) (die : Nat) : Option Nat :=
  (List.range (if isShear die then 4 else 2)).find? (fun i => Tab.getD d.fence.spareCore (die * 4 + i) 0 == 1)

/-- The recovery of record `r` has ended: RECOVERED, where the record has not escalated (R420, R428; log entry 21). -/
def Dev.endRecovery (d : Dev) (r : FaultRec) : Dev :=
  let d := if r.escto = 0 then d.setDisp r.seq dRecovered 0 0 else d
  { d with faults := { d.faults with running := none } }

/-- The running recovery of record `r` escalates without a new fault: the next order's recovery starts at once, under the same record
(R428; log entry 21). -/
def Dev.escalate (d : Dev) (r : FaultRec) : Dev :=
  let e := escalatesTo (recOrder r)
  let d := d.setDisp r.seq dEscalated e 0
  ({ d with faults := { d.faults with running := none } }).runRecovery r.seq e

/-- A spare array takes index `a` of core `k` (R18, R72, R113). DESIGN CHOICE (log entry 71): the rules give only its generators; its
slots, thresholds and masks start at their reset values. -/
def Dev.mapArray (d : Dev) (k a : Nat) : Dev :=
  let d := { d with fence := { d.fence with spareArr := Tab.put d.fence.spareArr k 3 } }.softRepair (k / 64) 3 (k % 64 * 64 + a)
  d.modCore k (fun c => { c with arrs := Tab.del c.arrs a, lostArrays := c.lostArrays.filter (· != a) })

/-- A spare core takes the index of core `k`: its memories hold nothing yet but the weights pinned there (R18, R311, R428). -/
def Dev.mapCore (d : Dev) (k i : Nat) : Dev :=
  let die := k / 64
  let d := d.softRepair die 4 (k % 64 * 4 + i)
  let d := { d with
    fence := { d.fence with
      spareCore := Tab.put d.fence.spareCore (die * 4 + i) 3
      spareArr := Tab.put d.fence.spareArr k 1
      words := Tab.filt d.fence.words (fun j _ => j / 128 != k) }
    cores := Tab.put d.cores k {}
    spad := Mem.zero d.spad (spAddr k 0) (2 ^ 23)
    abuf := Mem.zero d.abuf (abAddr k 0) (2 ^ 16) }
  match d.showOf (d.pastureOfDie die) with
  | some s =>
    d.pinWeights s.acts (s.pins.filter (fun x =>
      match (s.acts[x.1]?).bind (fun a => a.binds.find? (fun b => bKind b == 5 && bBase b == x.2.1)) with
      | some b => coreKey (bDie b) (fld b 16 6) == k
      | none => false))
  | none => d

/-- The recovery of record `r` has done its work: a spare takes the failed unit's place, or none qualifies and the recovery escalates
(R428, R445). A pseudo-channel's ends with its copy, which maps the spare (R206). -/
def Dev.recoverUnit (d : Dev) (r : FaultRec) : Dev :=
  let k := coreKey r.die r.core
  if recOrder r = 1 then
    if (d.core k).run.isSome then d
    else if Tab.getD d.fence.spareArr k 0 = 1 then (d.mapArray k (recIndex r.code 1 r.info)).endRecovery r
    else d.escalate r
  else if recOrder r = 2 then
    if (d.core k).run.isSome then d
    else match d.spareCore r.die with
      | some i => (d.mapCore k i).endRecovery r
      | none => d.escalate r
  else if recOrder r = 4 then
    let s := 2 * penOfDie r.die + fld r.info 6 1
    if (Tab.getD (d.stack s).pcs (fld r.info 0 6) {}).spared then d.endRecovery r else d
  else d.endRecovery r

/-- The recovery that runs. -/
def Dev.runningRec (d : Dev) : Option FaultRec := d.faults.running.bind d.faultOf

/-- `FAULT_RECOVERY_DONE` (R428). -/
def faultRecoveryDone (d : Dev) : Dev :=
  match d.runningRec with
  | some r => d.recoverUnit r
  | none => d

/-- `RECOVERY_BUDGET_EXPIRED` (R428). -/
def recoveryBudgetExpired (d : Dev) : Dev :=
  match d.runningRec with
  | some r => d.escalate r
  | none => d

/-- `FAULT_RECOVERY_START`: the queue's oldest fault is taken when no recovery runs (R427). -/
def faultRecoveryStart (d : Dev) : Dev :=
  if d.faults.running.isSome then d
  else match d.faults.queue with
    | [] => d
    | q :: rest =>
      let d := { d with faults := { d.faults with queue := rest } }
      match d.faultOf q with
      | some r => d.beginRecovery q r.unit
      | none => d

end Sys2Proof.Machine
end

