-- ==== Sys2Proof/Machine/Drover.lean ====
section
/-! DEFINITION. Tier 2 and the Drover: pages of paused requests, golden copies and their loss (R217 to R220, R306, R308, R309,
R381, R459). -/

namespace Sys2Proof.Machine

open Sys2Proof

/-- The Tier die. -/
def tierDie : Nat := 20

/-- Tier-2 port `i`. -/
def Dev.tierPort (d : Dev) (i : Nat) : TierPort := d.tier.getD i {}

/-- Tier 2 is present (R381). -/
def Dev.tierPresent (d : Dev) : Bool := d.tier.any TierPort.up

/-- The format in which XC takes data of format `f`: its own where XC accepts it, else the bytes as I8 (R226; log entry 23). -/
def xcFmt (f : Nat) : Nat := if f = cI4 || f = cI8 || f = cF8A || f = cF8B || f = cBF16 then f else cI8

/-- The XC form of `bs` in format `f`, its last chunk filled with zeros (R231; log entry 23). -/
def xcBytes (f : Nat) (bs : List Byte) : List Byte :=
  let c := xcFmt f
  let src := padTo bs (cdiv bs.length 4096 * 4096)
  (xcEncode c ((List.range (src.length * 8 / fmtBits c)).map (fun i => elemBits c src i))).1

/-- The first `n` bytes of an XC form, and the chunks in error; `i` numbers the free values. -/
def xcPlain (f n i : Nat) (bs : List Byte) : List Byte × Nat :=
  let c := xcFmt f
  let (es, errs, _) := xcDecode c (cdiv n 4096) i bs
  ((packElems c es).take n, errs)

/-- Numbers and lengths of what the Drover holds on a port: pages of requests and golden copies. -/
def Dev.tierHeld (d : Dev) (port : Nat) : List (Nat × Nat) :=
  d.reqs.flatMap (fun r => (r.2.tier.filter (fun t => t.port == port)).map (fun t => (t.page, t.xc.length))) ++
  d.pastures.flatMap (fun q => q.2.images.filterMap (fun i => match i.2.golden with
    | some bs => if i.2.goldenPort = port then some (i.2.goldenPage, (xcBytes 0 bs).length) else none
    | none => none))

/-- Whole 256-byte transfers of `n` bytes (R219). -/
def wholeTransfers (n : Nat) : Nat := cdiv n 256 * 256

/-- A place for `n` bytes: the first port that is up and has room, and the lowest number not in use there. -/
def Dev.tierPlace (d : Dev) (n : Nat) : Option (Nat × Nat) :=
  (List.range 2).findSome? (fun p =>
    let held := d.tierHeld p
    if (d.tierPort p).up && (held.map (fun x => wholeTransfers x.2)).sum + wholeTransfers n ≤ (d.tierPort p).cap then
      ((List.range (held.length + 1)).find? (fun k => !(held.any (fun x => x.1 == k)))).map (fun k => (p, k))
    else none)

/-- The Drover may start a write to tier 2 (R459, R461). -/
def Dev.tierWrites (d : Dev) : Bool := d.power.st == .run || d.power.st == .starting

/-! Pausing (R306). -/

/-- The last page of a pausing request has been dealt with: it enters PAUSED and its handle completes (R306, R385). -/
def Dev.pauseDone (d : Dev) (h : Nat) : Dev :=
  match d.req h with
  | none => d
  | some r =>
    let d := d.modReq h (fun r => { r with st := .paused, pause := 0 })
    d.finish r.pause sOk [r.expiry % 2 ^ 32, r.expiry / 2 ^ 32, r.inStacks.toNat]

/-- The first page of a request that is still in the stacks: its list, its index there and its number (R306). -/
def Request.nextPage (r : Request) : Option (Nat × Nat × Nat) :=
  r.lists.findSome? (fun l => (l.2.zipIdx.find? (fun q => q.1 != movedPage)).map (fun q => (l.1, q.2, q.1)))

/-- Pen offset of page `n` (R292). -/
def pageOff (n : Nat) : Nat := n % 2 ^ 23 * 2 ^ 15

/-- Slots of a mask, ascending. -/
def slotsOf (m : Nat) : List Nat := maskList m 64

/-- Entry `i` of list `k` of request `h` becomes `n`. -/
def Dev.setPage (d : Dev) (h k i n : Nat) : Dev :=
  d.modReq h (fun r => { r with lists := Tab.upd r.lists k (fun l => modAt (fun _ => n) l i) })

/-- The Drover moves page `n`, entry `i` of list `k` of request `h` (R306). -/
def Dev.movePage (d : Dev) (h : Nat) (r : Request) (k i n : Nat) : Dev :=
  let x := Tab.getD d.pages n {}
  let pen := n / 2 ^ 23
  let (data, poison, d) := (slotsOf x.committed).foldl (fun (a : List Byte × List Nat × Dev) s =>
    let (r, d) := Dev.agentRead a.2.2 tierDie pen (pageOff n + 512 * s) 512
    (a.1 ++ r.data, a.2.1 ++ r.poison, d)) ([], [], d)
  if !poison.isEmpty then d.closeReq h sAborted sAborted
  else
    let xc := xcBytes x.fmt data
    match d.tierPlace xc.length with
    | none => (d.modReq h (fun r => { r with inStacks := true })).pauseDone h
    | some (port, page) =>
      let t : TierPage := { list := k, idx := i, page, port, xc, fmt := x.fmt, committed := x.committed, masked := x.masked }
      let d := (d.modReq h (fun r => { r with tier := r.tier ++ [t] })).setPage h k i movedPage
      let d := d.releasePage n
      let d := match d.funcOf r.pasture with
        | some f => d.srvAdd f 6 xc.length
        | none => d
      if ((d.req h).bind Request.nextPage).isNone then d.pauseDone h else d

/-- `DROVER_PAGE_MOVE`: the next page of a pausing request moves, or its close takes effect; in BRACE the write is held (R286, R306,
R459). -/
def droverPageMove (d : Dev) (h : Nat) : Dev :=
  match d.req h with
  | none => d
  | some r =>
    if r.st ≠ .pausing || !r.moving then d
    else if r.closing then d.closeReq h sOk sAborted
    else if !d.tierWrites then d
    else match r.nextPage with
      | none => d.pauseDone h
      | some (k, i, n) => d.movePage h r k i n

/-- The Drover begins at a boundary after the acceptance (R306): with no page to move the pause is over. -/
def Dev.handOff (d : Dev) (h : Nat) : Dev :=
  match d.req h with
  | none => d
  | some r =>
    let d := d.modReq h (fun r => { r with moving := true })
    if r.nextPage.isNone then d.pauseDone h else d

/-! Resuming (R308, R309). -/

/-- The lowest free page of the pool of pasture `p` in pen `pen` (R292). -/
def Dev.freePage (d : Dev) (p pen : Nat) : Option Nat :=
  match d.poolOf p pen with
  | some (o, n) => ((List.range (n / 2 ^ 15)).map (fun i => pen * 2 ^ 23 + o / 2 ^ 15 + i)).find? (fun x => (Tab.get? d.pages x).isNone)
  | none => none

/-- The bytes of a restored page: committed slots at their indices, zeros in the free ones (R308). -/
def restoredBytes (committed : Nat) (data : List Byte) : List Byte :=
  (List.range 64).flatMap (fun s =>
    if bit committed s then padTo (slice data (512 * popCount committed s) 512) 512 else List.replicate 512 0#8)

/-- Entry `t` of a resuming request is restored (R308), or is found in error (R309). -/
def Dev.restorePage (d : Dev) (h : Nat) (r : Request) (t : TierPage) (rest : List TierPage) : Dev :=
  let (data, errs) := xcPlain t.fmt (512 * popCount t.committed 64) d.draws t.xc
  let d := { d with draws := d.draws + 65536 }
  if errs ≠ 0 then (d.errAdd tierDie 64 8 errs).closeReq h sAborted sAborted
  else match d.freePage r.pasture (t.list % 16) with
    | none => d
    | some n =>
      let d := d.agentWrite tierDie (n / 2 ^ 23) (pageOff n) (restoredBytes t.committed data)
      let x : PageRec := { committed := t.committed, masked := t.masked, fmt := t.fmt, refs := 1, pasture := r.pasture }
      let d := { d with pages := Tab.put d.pages n x }
      let d := (d.modReq h (fun r => { r with tier := rest, restored := r.restored + 1 })).setPage h t.list t.idx n
      let d := match d.funcOf r.pasture with
        | some f => d.srvAdd f 7 t.xc.length
        | none => d
      if rest.isEmpty then
        ((d.modReq h (fun r => { r with resume := 0 })).nextState h).finish r.resume sOk [r.restored + 1]
      else d

/-- `DROVER_PAGE_RESTORE`: the next page of a resuming request comes back, or its close takes effect (R286, R308). -/
def droverPageRestore (d : Dev) (h : Nat) : Dev :=
  match d.req h with
  | none => d
  | some r =>
    if r.st ≠ .resuming || d.stopped then d
    else if r.closing then d.closeReq h sOk sAborted
    else match r.tier with
      | [] => d
      | t :: rest => d.restorePage h r t rest

/-! Golden copies (R381). -/

/-- The handle of the `IMAGE_LOAD` that waits for the golden copy of image `n` of pasture `p`. -/
def Dev.goldenHandle (d : Dev) (p n : Nat) : Option Nat :=
  (d.handles.find? (fun h => h.2.work == .imageLoad p n true)).map Prod.fst

/-- `DROVER_GOLDEN_COPY`: the golden copy of an image is in tier 2, and its load completes; in BRACE the write is held (R381,
R459). -/
def droverGoldenCopy (d : Dev) (p n : Nat) : Dev :=
  match d.image p n with
  | none => d
  | some i =>
    if !i.goldenDue || !i.ready || !d.tierWrites then d
    else
      let (x, d) := d.agentRead tierDie i.pen i.off i.len
      let bs := x.data
      let (d, res) := match d.tierPlace (xcBytes 0 bs).length with
        | some (port, page) =>
          (d.modImage p n (fun i => { i with goldenDue := false, golden := some bs, goldenPort := port, goldenPage := page }), 1)
        | none => (d.modImage p n (fun i => { i with goldenDue := false }), if d.tierPresent then 0 else 2)
      match d.goldenHandle p n with
      | some h => d.finish h sOk [res]
      | none => d

/-! Losses (R220, R309, R435). -/

/-- A lost golden copy stops being a source: a reseed that reads it asks the next one (R220). -/
def Dev.goldenLost (d : Dev) (p n : Nat) : Dev :=
  let d := d.modImage p n (fun i => { i with golden := none })
  match d.faults.reseeds.find? (fun x => x.1 == imgKey p n && x.2.2 == 0) with
  | some (_, b, _) => d.sourceFailed p n b 0
  | none => d

/-- `TIER2_LOST`: a port, or one page on it, is lost (R220, R309). -/
def tier2Lost (d : Dev) (port : Nat) (page : Option Nat) : Dev :=
  let hit (p k : Nat) : Bool := p == port && (page.isNone || page == some k)
  let d := d.notice 0x0038 tierDie 63 31 (port % 2 + (page.getD 0) % 2 ^ 63 * 2)
  let d := if page.isNone then { d with tier := modAt (fun t => { t with up := false }) d.tier port } else d
  let hs := (d.reqs.filter (fun r => r.2.tier.any (fun t => hit t.port t.page))).map Prod.fst
  let d := hs.foldl (fun d h => d.closeReq h sAborted sAborted) d
  let imgs := d.pastures.flatMap (fun q =>
    (q.2.images.filter (fun i => i.2.golden.isSome && hit i.2.goldenPort i.2.goldenPage)).map (fun i => (q.1, i.1)))
  imgs.foldl (fun d x => d.goldenLost x.1 x.2) d

end Sys2Proof.Machine
end

