-- ==== Sys2Proof/Machine/PageEngine.lean ====
section
/-! DEFINITION. The page engines and the end of a step: slots and page records, accept records, chunks, prefix builds, poison met,
aborted and tainted steps (R288, R293, R296, R301 to R305, R424, R425, R432 to R434). -/

namespace Sys2Proof.Machine

open Sys2Proof

/-! Slots: all page lists of a request use the same slot numbers, page-list index × 64 + slot (R292, R293). -/

/-- The pages of list `k` of a request. -/
def Request.list (r : Request) (k : Nat) : List Nat := Tab.getD r.lists k []

/-- Slot `s` of the pages `l` is FREE (R293). -/
def Dev.slotFree (d : Dev) (l : List Nat) (s : Nat) : Bool :=
  match l[s / 64]? with
  | some n => let x := Tab.getD d.pages n {}; !bit x.committed (s % 64) && !bit x.draft (s % 64)
  | none => false

/-- The FREE slots of the pages `l`, in page-list order. -/
def Dev.freeSlots (d : Dev) (l : List Nat) : List Nat := (List.range (64 * l.length)).filter (d.slotFree l)

/-- One page more in list `k` of request `h`, from the pool of the list's pen (R292, R302). -/
def Dev.growList (d : Dev) (h p fmt k : Nat) : Option Dev :=
  (d.freePage p (k % 16)).map (fun n =>
    let x : PageRec := { refs := 1, fmt := fmt % 16, pasture := p }
    { d with pages := Tab.put d.pages n x }.modReq h (fun r => { r with lists := Tab.put r.lists k (r.list k ++ [n]) }))

/-- One reserved page more in every list of request `h` (R295, R302); none where a pool is empty. -/
def Dev.growLists (d : Dev) (h p fmt : Nat) (ks : List Nat) : Option Dev :=
  (ks.foldl (fun (a : Option Dev) k => a.bind (fun d => d.growList h p fmt k)) (some d)).map (fun d =>
    d.modReq h (fun r => { r with resv := r.resv - 1 }))

/-- The first `n` FREE slots of a request, with reserved pages added as they are needed; `fuel` bounds them (R302). -/
def Dev.takeSlots (d : Dev) (h p fmt : Nat) (ks : List Nat) (n : Nat) : Nat → List Nat × Dev
  | 0 => ([], d)
  | fuel + 1 =>
    match d.req h, ks.head? with
    | some r, some k =>
      let free := d.freeSlots (r.list k)
      if n ≤ free.length then (free.take n, d)
      else match d.growLists h p fmt ks with
        | some d => Dev.takeSlots d h p fmt ks n fuel
        | none => (free, d)
    | some r, none => ((List.range n).map (fun i => r.committed + i), d)
    | none, _ => ([], d)

/-- The page records of slots `l` of request `h` change, in each list `k` of `ks`, by `f k slot` (R293). -/
def Dev.markSlots (d : Dev) (h : Nat) (ks l : List Nat) (f : Nat → Nat → PageRec → PageRec) : Dev :=
  match d.req h with
  | none => d
  | some r => ks.foldl (fun d k => l.foldl (fun d s =>
      match (r.list k)[s / 64]? with
      | some n => { d with pages := Tab.upd d.pages n (f k s) }
      | none => d) d) d

/-- The slots `l` of request `h` become committed, in order (R293, R304). -/
def Dev.commitSlots (d : Dev) (h lgroups : Nat) (ks l : List Nat) : Dev :=
  let d := d.markSlots h ks l (fun _ s x =>
    { x with committed := setBit x.committed (s % 64) true, draft := setBit x.draft (s % 64) false })
  d.modReq h (fun r =>
    { r with
      committed := r.committed + l.length
      posMap := (List.range lgroups).foldl (fun t g => Tab.put t g (Tab.getD t g [] ++ l)) r.posMap })

/-! Roles of a step group (R287, R290, R291; log entry 24). -/

/-- Some group of pasture `p` is of phase `f`. -/
def Dev.hasPhase (d : Dev) (p f : Nat) : Bool := (d.groupsOf p).any (fun g => (d.group g).phase == f)

/-- Group `g` runs the decode batch. -/
def Dev.takesDecode (d : Dev) (g : Nat) : Bool := (d.group g).phase == 0

/-- Group `g` runs prompts: the prefill group under SPLIT, the decode group under BLEND or in a show without a prefill group. -/
def Dev.takesPrompts (d : Dev) (g : Nat) : Bool :=
  let x := d.group g
  let blend := d.gKey g kPlacement == 1
  if x.phase = 0 then blend || !d.hasPhase x.pasture 1 else x.phase == 1 && !blend

/-- Group `g` runs the training acts of its pasture. -/
def Dev.takesTraining (d : Dev) (g : Nat) : Bool :=
  let x := d.group g
  if d.hasPhase x.pasture 2 then x.phase == 2 else x.phase == 0

/-! Accept records (R303, R304). -/

/-- The accept area of a show: pen and pen offset (R383 AREA). -/
def acceptArea (s : Show) : Option (Nat × Nat) :=
  ((Tab.getD s.secs 0x0A []).find? (fun e => fld e 0 4 == 1)).map (fun e => (fld e 16 4, fld e 64 64))

/-- Offset of record `b` in the accept area. -/
def recordOff (s : Show) (b : Nat) : Nat := 512 * cdiv s.bmax 128 + 512 * b

/-- Offset of the skip map of index `b` in the accept area. -/
def skipOff (s : Show) (b : Nat) : Nat := 512 * (cdiv s.bmax 128 + s.bmax) + b * (cdiv (64 * cdiv s.lgroups 8) 512 * 512)

/-- The parent of node `k` (R301). -/
def nodeParent (x : StepFacts) (spec h k : Nat) : Nat :=
  match x.trees.find? (fun t => t.1 == h) with
  | some t => if spec = 2 then t.2.getD k (k - 1) else k - 1
  | none => k - 1

/-- Each node of the path lies in the tree of `w` nodes, once, after its parent (R304); `acc` are the nodes accepted. -/
def pathOk (w : Nat) (parent : Nat → Nat) : List Nat → List Nat → Bool
  | _, [] => true
  | acc, k :: ks => k < w && !acc.contains k && (k == 0 || acc.contains (parent k)) && pathOk w parent (k :: acc) ks

/-- NACC of a record. -/
def recNacc (bs : List Byte) : Nat := rdLE bs 8 1

/-- PATH of a record. -/
def recPath (bs : List Byte) : List Nat := (List.range (recNacc bs)).map (fun i => rdLE bs (64 + i) 1)

/-- The tokens that a record commits: PTOK after PATH[0], then CHOSEN (R303). -/
def recTokens (bs : List Byte) : List Nat :=
  (List.range (recNacc bs - 1)).map (fun i => rdLE bs (132 + 4 * i) 4) ++ [rdLE bs 16 4]

/-- The record may be applied (R303, R304). -/
def recordOk (h epoch w : Nat) (parent : Nat → Nat) (bs : List Byte) : Bool :=
  bit (rdLE bs 9 1) 0 && rdLE bs 0 4 == h && rdLE bs 4 4 == epoch && 1 ≤ recNacc bs && recNacc bs ≤ 64 &&
  rdLE bs 64 1 == 0 && rdLE bs 9 1 < 4 && allZero (slice bs 10 6) && allZero (slice bs 20 44) && allZero (slice bs 384 128) &&
  pathOk w parent [] (recPath bs)

/-- Tokens of a record cut to `room` and after the stop token (R288). -/
def cutTokens (stop room : Nat) (toks : List Nat) : List Nat :=
  let l := toks.take room
  match indexWhere (fun t => t == stop) l with
  | some i => l.take (i + 1)
  | none => l

/-- MASKED bits of the accepted nodes, from the skip map of index `b` (R303, R314); their number counts as skipped (R315). -/
def Dev.applySkips (d : Dev) (h b : Nat) (s : Show) (pen off : Nat) (slots nodes : List Nat) (ks : List Nat) : Dev :=
  let w := cdiv s.lgroups 8
  let (x, d) := d.agentRead (grazeOf pen) pen (off + skipOff s b) (nodes.length * w)
  let marks := nodes.zipIdx.flatMap (fun q =>
    let v := rdLE x.data (q.2 * w) w
    (maskList v s.lgroups).map (fun g => (g, slots.getD q.1 0)))
  let d := marks.foldl (fun d m =>
    d.markSlots h (ks.filter (fun k => k / 16 == m.1)) [m.2] (fun _ t x => { x with masked := setBit x.masked (t % 64) true })) d
  d.srvAdd (hFunc h) 8 marks.length

/-- A generate writes `keep` to its buffer and the count word after it, and ends where `why` says so: 1 COUNT, 2 STOP_TOKEN, 0 it
goes on (R288, R341, R385). -/
def Dev.writeTokens (d : Dev) (h : Nat) (r : Request) (keep : List Nat) (why : Nat) (ok : Bool) : Dev :=
  let at_ := r.genBase + r.genDone
  let d := d.hostPut r.gen (r.genBuf + 8 + 4 * at_) (keep.flatMap (fun t => leBytes t 4)) ok
  if !ok then d.nextState h
  else
    let d := d.hostPut r.gen r.genBuf (leBytes (at_ + keep.length) 8) true
    let d := (d.modReq h (fun r => { r with genDone := r.genDone + keep.length })).srvAdd (hFunc h) 0 keep.length
    if why = 0 then d
    else (d.finish r.gen sOk [r.genDone + keep.length, r.committed - 1, why]).nextState h

/-- Layer-groups that the acts skipped under BACKFILL for the tokens of request `h` that step `x` committed (R313 to R315). -/
def backfilled (x : StepFacts) (h : Nat) : Nat := ((x.skips.filter (fun q => q.1 == h)).map Prod.snd).sum

/-- The accept record `bs` of index `b` of request `h`, which has draft slots, is applied, or is not (R288, R302 to R304, R315). -/
def Dev.applyDrafts (d : Dev) (g b h : Nat) (r : Request) (x : StepFacts) (s : Show) (pen off : Nat) (bs : List Byte) : Dev :=
  let f := hFunc h
  let ks := listKeys s
  let d := d.srvAdd f 2 r.draft.length
  if r.gen = 0 then d
  else if !recordOk h (d.group g).epoch r.draft.length (nodeParent x (d.gKey g kSpec) h) bs then d.srvAdd f 9 1
  else
    let toks := recTokens bs
    let keep := cutTokens s.stop (r.genMax - r.genDone) toks
    let why := if keep.contains s.stop then 2 else if keep.length = r.genMax - r.genDone then 1 else 0
    let nodes := (recPath bs).take (1 + min keep.length (recNacc bs - 1))
    let slots := nodes.map (fun k => r.draft.getD k 0)
    let d := (d.commitSlots h s.lgroups ks slots).srvAdd f 3 nodes.length
    let d :=
      if d.gKey g kSkip = 0 then d
      else if d.gKey g kKvFill ≠ 1 then d.srvAdd f 8 (backfilled x h)
      else if bit (rdLE bs 9 1) 1 then d.applySkips h b s pen off r.draft nodes ks
      else d
    match d.req h with
    | some r => d.writeTokens h r keep why (!x.failed.contains h)
    | none => d

/-- The record of index `b` of the accept area, whose batch list entry is `h`: its VALID is cleared, and it is applied where `h` has draft
slots. A valid record at an index that is unused, or whose request has closed or ran a prompt, names no node of a tree: it is not
applied, and counts against the pasture's function (R303, R304). -/
def Dev.applyRecord (d : Dev) (g b h : Nat) (x : StepFacts) (s : Show) (pen off : Nat) (bs : List Byte) : Dev :=
  let valid := bit (rdLE bs 9 1) 0
  let d := if valid then d.agentWrite (grazeOf pen) pen (off + recordOff s b + 9) (leBytes (rdLE bs 9 1 - 1) 1) else d
  match (d.req h).filter (fun r => !r.draft.isEmpty) with
  | some r => d.applyDrafts g b h r x s pen off bs
  | none => match d.funcOf (d.group g).pasture with
    | some f => if valid then d.srvAdd f 9 1 else d
    | none => d

/-! Chunks and prefix builds (R290, R298, R303, R385, R386). -/

/-- The results of a prefix's build, or of the training that rebuilds it: the pages, or the steps run and the loss, which is the show's acts'
own value (R386). -/
def Dev.prefixResults (d : Dev) (h pages : Nat) : List Nat × Dev := match d.workOf h with
  | some (.prefixTrain _ _ _ k _) =>
    let (loss, d) := d.draw (2 ^ 32)
    ([k, loss], d)
  | _ => ([pages], d)

/-- The build of prefix `n` has committed its last position: the pages go to the prefix (R298, R386). -/
def Dev.prefixDone (d : Dev) (h n : Nat) (r : Request) : Dev :=
  let pages := r.lists.flatMap (·.2)
  let d := { d with
    reqs := Tab.del d.reqs h
    pages := pages.foldl (fun t k => Tab.upd t k (fun x => { x with pfx := true })) d.pages }
  let d := d.modPrefix r.pasture n (fun x => { x with lists := r.lists, length := r.committed, built := true })
  let (res, d) := d.prefixResults h pages.length
  (d.leaveBatches h).finish h sOk res

/-- The last step of a `PREFIX_TRAIN` has run: the prefix's pages are given back, and a build of as many positions, from what the show's acts
have trained, makes them anew before the handle completes (R298; log entry 141). -/
def Dev.rebuildPrefix (d : Dev) (h p n : Nat) : Dev :=
  match d.prefixOf p n with
  | none => d.finish h sAborted []
  | some x =>
    let d := d.releasePages (x.lists.flatMap (·.2))
    let d := d.modPrefix p n (fun x => { x with lists := [], built := false })
    let r : Request := { pasture := p, st := .prefill, admitted := d.beat.now, append := h, prompt := x.length, tokensIn := true
                         resv := cdiv x.length 64, build := some n }
    { d with reqs := Tab.put d.reqs h r }

/-- The chunk of request `h` has run: its slots become committed, and after the last one the command ends (R291, R303). -/
def Dev.commitChunk (d : Dev) (h : Nat) (s : Show) : Dev :=
  match d.req h with
  | none => d
  | some r =>
    let n := r.chunk.length
    let d := (d.commitSlots h s.lgroups (listKeys s) r.chunk).srvAdd (hFunc h) 1 n
    let d := d.modReq h (fun r => { r with prompt := r.prompt - n, tokens := r.tokens.drop n, chunk := [] })
    match d.req h with
    | none => d
    | some r =>
      if r.prompt ≠ 0 then d
      else match r.build with
        | some k => d.prefixDone h k r
        | none => (d.finish r.append sOk [r.committed, r.committed - 1]).nextState h

/-! Training steps (R300, R386; log entry 25). -/

/-- Handles of trainings of pasture `p` whose block has been read, with their steps run and asked for. -/
def Dev.trainings (d : Dev) (p : Nat) : List (Nat × Work × Nat × Nat) :=
  d.handles.filterMap (fun h => match h.2.work with
    | .prefixTrain q _ steps done true => if q = p && done < steps then some (h.1, h.2.work, steps, done) else none
    | .adapterTrain q _ steps done true => if q = p then some (h.1, h.2.work, steps, done) else none
    | _ => none)

/-- A training has run `n` steps. -/
def Work.trained (w : Work) (n : Nat) : Work :=
  match w with
  | .prefixTrain p k steps _ b => .prefixTrain p k steps n b
  | .adapterTrain p k steps _ b => .adapterTrain p k steps n b
  | w => w

/-- A step of the training group has ended: each training has run one step more. After the last one an adapter's training completes, with
the loss that is the show's acts' own value, and a prefix's pages are rebuilt (R298). -/
def Dev.trainStep (d : Dev) (p : Nat) : Dev :=
  (d.trainings p).foldl (fun d t =>
    let n := t.2.2.2 + 1
    let d := d.setWork t.1 (t.2.1.trained n)
    if n < t.2.2.1 then d
    else match t.2.1 with
      | .prefixTrain q k .. => d.rebuildPrefix t.1 q k
      | _ =>
        let (loss, d) := d.draw (2 ^ 32)
        d.finish t.1 sOk [n, loss]) d

/-- The prefix trainings of pasture `p` end with an aborted step (R425). -/
def Dev.trainAborted (d : Dev) (p : Nat) : Dev :=
  (d.trainings p).foldl (fun d t => match t.2.1 with
    | .prefixTrain .. => d.finish t.1 sAborted []
    | _ => d) d

/-! Poison met by a step (R432, R433). -/

/-- The image that holds offset `o` of pen `pen`, and the block. -/
def Dev.imageAt (d : Dev) (pen o : Nat) : Option (Nat × Nat × Nat) :=
  d.pastures.findSome? (fun q => (q.2.images.find? (fun i => i.2.pen == pen && i.2.off ≤ o && o < i.2.off + i.2.len)).map
    (fun i => (q.1, i.1, (o - i.2.off) / 4096)))

/-- The page `n` belongs to prefixes of these pastures and numbers. -/
def Dev.prefixesOf (d : Dev) (n : Nat) : List (Nat × Nat) :=
  d.pastures.flatMap (fun q => (q.2.prefixes.filter (fun x => x.2.lists.any (fun l => l.2.contains n))).map (fun x => (q.1, x.1)))

/-- Offset `o` of pen `pen` lies in a page pool. -/
def Dev.inPool (d : Dev) (pen o : Nat) : Bool :=
  (Tab.keys d.pastures).any (fun p => match d.poolOf p pen with
    | some (a, n) => a ≤ o && o < a + n
    | none => false)

/-- A tainted image block met at beat `met` in the running step of group `g`: the block is reseeded unless it has been since, and
the step is tainted where it started after the block's last clean audit (R433; log entry 26). -/
def Dev.taintMet (d : Dev) (g owner n b met : Nat) : Dev :=
  match d.image owner n with
  | none => d
  | some i =>
    let x := d.group g
    let c := Tab.get? i.clean b
    let since := match c with
      | some c => c != met && beatGe c met
      | none => false
    let tainted := d.showBinds x.pasture owner n && (match c with
      | some c => since || (x.last != c && beatGe x.last c)
      | none => true)
    let d := if since then d else d.taintBlock owner n b
    if tainted then d.modGroup g (fun x => { x with tainted := true }) else d

/-- One poisoned device address that a step of group `g` met is resolved (R432). -/
def Dev.settleAddress (d : Dev) (g a met : Nat) : Dev :=
  let pen := addrPen a
  let o := fld a 0 38
  match d.imageAt pen o with
  | some (owner, n, b) => d.taintMet g owner n b met
  | none =>
    let page := pen * 2 ^ 23 + o / 2 ^ 15
    match Tab.get? d.pages page with
    | some x =>
      if x.pfx then
        (d.prefixesOf page).foldl (fun d q =>
          let d := d.dropPrefix q.1 q.2
          let hs := (d.reqs.filter (fun r => r.2.pfx == some (q.1 * 1024 + q.2))).map Prod.fst
          hs.foldl (fun d h => d.closeReq h sAborted sAborted) d) d
      else
        let hs := (d.reqs.filter (fun r => r.2.lists.any (fun l => l.2.contains page))).map Prod.fst
        hs.foldl (fun d h => d.closeReq h sAborted sAborted) d
    | none =>
      if d.inPool pen o then d.agentWrite 18 pen (o / 64 * 64) (List.replicate 64 0#8)
      else (d.agentWrite 18 pen (o / 4096 * 4096) (List.replicate 4096 0#8)).abortGroup g .hardware

/-- Every poisoned address of the step of group `g` is resolved (R432). -/
def Dev.settlePoison (d : Dev) (g : Nat) : Dev :=
  let l := (d.group g).poison
  (l.foldl (fun d q => d.settleAddress g q.1 q.2) d).modGroup g (fun x => { x with poison := [] })

/-! The end of a step (R296, R424, R425, R434). -/

/-- How a step has ended. -/
inductive StepEnd where
  /-- Its records and chunks are applied. -/
  | clean
  /-- Its batch runs again, and its generates give way to successors (R434). -/
  | tainted
  /-- Its batch runs again (R425). -/
  | rerun
  /-- Its requests' pending commands complete with `ABORTED` (R425). -/
  | aborted
  /-- Nothing of it is kept, and another rule decides about its requests. -/
  | lost
  deriving DecidableEq, Repr

/-- How the step of group `x` has ended (R425, R434). -/
def Group.ending (x : Group) : StepEnd :=
  match x.abort with
  | some .program => .aborted
  | some .hardware => if 1 ≤ x.aborts then .aborted else if x.tainted then .tainted else .rerun
  | some _ => .lost
  | none => if x.tainted then .tainted else .clean

/-- Pending commands of request `h` complete with `ABORTED` and it returns to IDLE; a prefix build ends (R425). -/
def Dev.abortCommands (d : Dev) (h : Nat) : Dev :=
  match d.req h with
  | none => d
  | some r =>
    if r.build.isSome then d.closeReq h sAborted sAborted
    else
      let cmds := sortBy hSeq ([r.append, r.gen, r.qAppend, r.qGen].filter (· != 0))
      let d := cmds.foldl (fun d c => d.finish c sAborted []) (d.clearDrafts h none)
      (d.modReq h (fun r =>
        { r.endCommand with st := .idle, qAppend := 0, qCount := 0, qTokens := [], qIn := false, qGen := 0, qMax := 0, qBuf := 0
                            resv := 0, qResvA := 0, qResvG := 0 })).trimPages h 0

/-- The generate `old` of request `h`, with `wrote` tokens written, completes with `TAINTED`, and its successor's handle is put in its place
by `put` (R434). -/
def Dev.successor (d : Dev) (h old wrote : Nat) (put : Nat → Request → Request) : Dev :=
  match d.req h with
  | none => d
  | some r =>
    if old = 0 then d
    else
      let tag := ((Tab.get? d.handles old).map (·.tag)).getD 0
      let (n, d) := d.newHandle (hFunc old) tag (.reqGenerate h)
      (d.finish old sTainted [wrote, r.committed - 1, n]).modReq h (put n)

/-- Each pending generate of request `h`, running or queued, completes with `TAINTED` and its successor goes on (R434). -/
def Dev.succeed (d : Dev) (h : Nat) : Dev :=
  match d.req h with
  | none => d
  | some r =>
    let d := d.successor h r.gen r.genDone (fun n r =>
      { r with gen := n, genMax := r.genMax - r.genDone, genBase := r.genBase + r.genDone, genDone := 0 })
    d.successor h r.qGen 0 (fun n r => { r with qGen := n })

/-- The chunk of the request at a batch index becomes committed, where it ran one (R291, R303). -/
def Dev.applyChunk (d : Dev) (h : Nat) (s : Show) : Dev := match d.req h with
  | some r => if r.chunk.isEmpty then d else d.commitChunk h s
  | none => d

/-- A show without an accept area gives the drafts of request `h` no record (R303). -/
def Dev.noRecord (d : Dev) (h : Nat) : Dev := match d.req h with
  | some r => if r.draft.isEmpty then d else d.srvAdd (hFunc h) 9 1
  | none => d

/-- By batch index, the chunk of a prompt becomes committed and the record of the accept area is applied (R296 step 1, R303). -/
def Dev.applyStep (d : Dev) (g : Nat) (x : StepFacts) (s : Show) : Dev :=
  let batch := (d.group g).batch
  match (acceptArea s).filter (fun _ => d.takesDecode g) with
  | some (pen, off) => (List.range (max s.bmax batch.length)).foldl (fun d b =>
      let h := batch.getD b 0
      let d := d.applyChunk h s
      if s.bmax ≤ b then d
      else
        let (y, d) := d.agentRead (grazeOf pen) pen (off + recordOff s b) 512
        d.applyRecord g b h x s pen off y.data) d
  | none => batch.foldl (fun d h => (d.applyChunk h s).noRecord h) d

/-- Requests of the pasture of group `g` whose draft slots no running step of another group uses. -/
def Dev.settledReqs (d : Dev) (g : Nat) : List Nat :=
  let away := (d.groups.filter (fun q => q.1 != g && q.2.exists_ && q.2.due)).flatMap (fun q => q.2.batch)
  (d.reqs.filter (fun r => r.2.pasture == (d.group g).pasture && !away.contains r.1)).map Prod.fst

/-- The work of the boundary that follows a step of group `g` (R296, R424, R425, R432 to R434). -/
def Dev.endStep (d : Dev) (g : Nat) (x : StepFacts) : Dev :=
  let d := d.settlePoison g
  let y := d.group g
  match d.showOf y.pasture with
  | none => d
  | some s =>
    let e := y.ending
    let hs := y.batch.filter (· != 0)
    let d := match e with
      | .clean =>
        let d := d.applyStep g x s
        if d.takesTraining g then d.trainStep y.pasture else d
      | .aborted =>
        let d := hs.foldl Dev.abortCommands d
        if d.takesTraining g then d.trainAborted y.pasture else d
      | .tainted => hs.foldl Dev.succeed d
      | .rerun => d
      | .lost => d
    let d := (d.settledReqs g).foldl (fun d h => d.clearDrafts h (some (((d.group g).epoch + 1) % 2 ^ 32))) d
    d.modGroup g (fun z =>
      { z with
        due := false, batch := [], chunks := [], abort := none, tainted := false, poison := []
        rerun := (e == .tainted || e == .rerun) && !hs.isEmpty
        aborts := if y.abort = some .hardware then min 3 (y.aborts + 1) else 0 })

end Sys2Proof.Machine
end

