-- ==== Sys2Proof/Machine/Steps.lean ====
section
/-! DEFINITION. Step groups at their boundaries: starts, batches, bases and areas, overruns, drops, leave and join notices, sweeps
and held entries (R37, R43 to R45, R88, R92, R93, R138, R139, R142, R143, R287, R290, R291, R296, R302, R303, R307, R393, R426). -/

namespace Sys2Proof.Machine

open Sys2Proof

/-! The batch (R287, R290, R291). -/

/-- Place of a request in admission order: beat, function, handle sequence (R287). -/
def Dev.admission (d : Dev) (h : Nat) : Nat :=
  let b := ((d.req h).map (·.admitted)).getD 0
  (2 ^ 64 - 1 - beatAhead b d.beat.now) * 2 ^ 32 + hFunc h * 2 ^ 24 + hSeq h

/-- Requests of pasture `p` in state `st` that may join a batch, in admission order; a prompt needs its tokens. -/
def Dev.waitingReqs (d : Dev) (p : Nat) (st : ReqState) : List Nat :=
  sortBy d.admission ((d.reqs.filter (fun r =>
    r.2.pasture == p && r.2.st == st && !r.2.closing && (st != .prefill || r.2.tokensIn))).map Prod.fst)

/-- Pages in each own list of request `h` once it holds `n` slots more. -/
def Dev.pagesWith (d : Dev) (h n : Nat) (ks : List Nat) : Nat :=
  match d.req h, ks.head? with
  | some r, some k => (r.list k).length + cdiv (n - (d.freeSlots (r.list k)).length) 64
  | _, _ => 0

/-- Pages of the prefix of request `h` in list `k`. -/
def Dev.prefixList (d : Dev) (h k : Nat) : List Nat :=
  match (d.req h).bind (·.pfx) with
  | some n => match d.prefixOf (n / 1024) (n % 1024) with
    | some x => Tab.getD x.lists k []
    | none => []
  | none => []

/-- List key of a KIND 3 binding: layer-group × 16 + pen (R93). -/
def bListKey (b : Nat) : Nat := fld b 16 8 * 16 + bPen b

/-- Batch index of a KIND 3 binding (R93). -/
def bIndex (b : Nat) : Nat := fld b 24 8

/-- The page lists that act `a` binds fit its core's store, for the batch `l` of requests and their new slots (R88). -/
def Dev.storeFits (d : Dev) (ks : List Nat) (l : List (Nat × Nat)) (a : Act) : Bool :=
  (((a.binds.filter (fun b => bKind b == 3 && ks.contains (bListKey b))).map (fun b => match l[bIndex b]? with
    | some (h, n) => (d.prefixList h (bListKey b)).length + d.pagesWith h n ks
    | none => 0)).sum) ≤ 4096

/-- A batch under construction: requests with their slots, the budget left for prompts, whether a request that does not fit has been
left out, and whether a prompt has received no chunk. -/
structure Filling where
  /-- Requests with their slots -/
  items : List (Nat × Nat) := []
  /-- Budget left for prompts -/
  left : Nat
  /-- A request has been left out, and the later ones with it -/
  full : Bool := false
  /-- A prompt has received no chunk, and the later ones receive none -/
  dry : Bool := false
  deriving DecidableEq, Repr

/-- Request `h` with `n` slots joins, unless it or one before it does not fit the show's maximum batch or a core's page-list store (R88,
R287). -/
def Dev.join (d : Dev) (s : Show) (acts : List Act) (x : Filling) (h n cost : Nat) : Filling :=
  let items := x.items ++ [(h, n)]
  if x.full || s.bmax ≤ x.items.length || !acts.all (d.storeFits (listKeys s) items) then { x with full := true }
  else { x with items, left := x.left - cost }

/-- Positions of the next chunk of request `h` with `left` of the budget, `none` for no chunk (R290, R291). -/
def Dev.chunkOf (d : Dev) (g h left : Nat) : Nat :=
  let rem := ((d.req h).map (·.prompt)).getD 0
  let chunk := d.gKey g kChunk
  if d.gKey g kPlacement = 0 then min chunk rem
  else
    let n := min (min chunk rem) left
    if n = rem then n else n / 64 * 64

/-- The batch of group `g`: its requests in one admission order, each with its slots. The budget goes to the decode positions first,
and the rest of it to chunks (R287, R290, R291). DEDUCED (log 129): decode requests that the budget cannot hold wait without holding
back prompts, and those that the maximum batch or a page-list store leaves out do not enlarge the chunks of that step. -/
def Dev.batchOf (d : Dev) (g : Nat) (s : Show) (acts : List Act) : List (Nat × Nat) :=
  let p := (d.group g).pasture
  let w := if d.gKey g kSpec = 0 then 1 else d.gKey g kSpecWidth
  let tokens := d.gKey g kStepTokens
  let dec := if d.takesDecode g then (d.waitingReqs p .decode).take (tokens / w) else []
  let pre := if d.takesPrompts g then d.waitingReqs p .prefill else []
  let add (x : Filling) (h : Nat) : Filling :=
    if dec.contains h then d.join s acts x h w 0
    else if x.dry then x
    else
      let n := d.chunkOf g h x.left
      if n = 0 then { x with dry := true } else d.join s acts x h n n
  ((sortBy d.admission (dec ++ pre)).foldl add { left := tokens - w * dec.length }).items

/-- The slots of one request of the batch: draft slots of the new epoch for a generate, or a chunk's (R302, R303). -/
def Dev.giveSlots (d : Dev) (g fmt : Nat) (s : Show) (q : Nat × Nat) : Dev :=
  match d.req q.1 with
  | none => d
  | some r =>
    let ks := listKeys s
    let (l, d) := d.takeSlots q.1 r.pasture fmt ks q.2 (cdiv q.2 64 + 1)
    if r.st = .decode then
      (d.markSlots q.1 ks l (fun _ t x => { x with draft := setBit x.draft (t % 64) true, epoch := (d.group g).epoch })).modReq q.1
        (fun r => { r with draft := l })
    else d.modReq q.1 (fun r => { r with chunk := l })

/-- The batch list in the accept area (R303). -/
def Dev.writeBatchList (d : Dev) (s : Show) (l : List Nat) : Dev :=
  match acceptArea s with
  | some (pen, off) => d.agentWrite 18 pen off ((List.range s.bmax).flatMap (fun b => leBytes (l.getD b 0) 4))
  | none => d

/-! What the cores get (R88, R92, R93, R99, R311). -/

/-- The acts of group `g` for the placement in force, with their indices (R93). -/
def Dev.selectActs (d : Dev) (g : Nat) (s : Show) : List (Nat × Act) :=
  let pl := d.gKey g kPlacement + 1
  (s.acts.zipIdx.filter (fun q => q.1.group == g && (q.1.place == 0 || q.1.place == pl))).map (fun q => (q.2, q.1))

/-- Device address of offset `o` in the scratchpad of a core (R90). -/
def spadDevAddr (die core o : Nat) : Nat := 2 * 2 ^ 60 + die % 2 ^ 6 * 2 ^ 54 + core % 2 ^ 6 * 2 ^ 48 + o % 2 ^ 23

/-- The show of pasture `p` declares base register `b` of act `i` as carrying AS (R162). -/
def Dev.baseSparse (d : Dev) (p i b : Nat) : Bool := ((d.showOf p).map (fun s => s.sparse.contains (i, b))).getD false

/-- The base register that binding `b` of act `i` of pasture `p` makes, for a batch (R88, R93, R99, R162). -/
def Dev.baseOf (d : Dev) (p i : Nat) (batch : List Nat) (b : Nat) : Option BaseReg :=
  let k := bKind b
  let as_ := d.baseSparse p i (bBase b)
  if k = 0 || k = 4 then some (.linear (devAddr (bPen b) (bOffset b)) (bLimit b) false false as_)
  else if k = 1 then (d.boundImage p b).map (fun i =>
    if i.fmt = 0 then .linear (devAddr i.pen (i.off + 4 * bOffset b / 5)) (bLimit b) true true false
    else .linear (devAddr i.pen (i.off + bOffset b)) (bLimit b) false true (i.fmt == cAS || as_))
  else if k = 2 then some (.linear (spadDevAddr (bDie b) (bCore b) (bOffset b)) (bLimit b) false false as_)
  else if k = 3 then
    let h := batch.getD (bIndex b) 0
    some (.paged (d.prefixList h (bListKey b) ++ ((d.req h).map (fun r => r.list (bListKey b))).getD []) as_)
  else if k = 5 then some (.linear (spadDevAddr (bDie b) (fld b 16 6) (bOffset b)) (bLimit b) true true false)
  else none

/-- Core `k` begins act `i` (R92). -/
def Dev.beginAct (d : Dev) (p g i beat : Nat) (a : Act) (batch : List Nat) : Dev :=
  let bases := a.binds.foldl (fun t b => match d.baseOf p i batch b with
    | some r => Tab.put t (bBase b) r
    | none => t) []
  let r : Run := { pasture := p, act := i, group := g, start := beat }
  d.modCore (coreKey a.die a.core) (fun c => { c with run := some r, bases, queue := [], drifted := [], poison := [] })

/-! Width areas and the width controller (R138, R139, R142, R143). -/

/-- Permitted rungs of a WIDTH header, ascending. -/
def permitted (h : Nat) : List Nat := maskList (fld h 10 3) 3

/-- The evaluation of one entry: its standing, and the widenings and narrowings (R142). -/
def widthEval (h : Nat) (c : Mon) (w : Width) : Width × Nat × Nat :=
  let wider := (permitted h).find? (fun r => w.rung < r)
  let narrower := ((permitted h).reverse).find? (fun r => r < w.rung)
  let q4 := of32 (fld h 32 32)
  if c.elems = 0 then ({ w with next := w.rung }, 0, 0)
  else match (if c.elems < c.sat * 1024 then wider else none) with
    | some r => ({ w with next := r, quiet := 0 }, 1, 0)
    | none =>
      match (if c.sat = 0 then narrower else none) with
      | some r =>
        if r ≠ 0 || flLt (mul32 (of32 c.maxabs) q4) (.fin false 15 (-1)) then
          if w.quiet + 1 = 16 then ({ w with next := r, quiet := 0 }, 0, 1) else ({ w with next := w.rung, quiet := w.quiet + 1 }, 0, 0)
        else ({ w with next := w.rung, quiet := 0 }, 0, 0)
      | none => ({ w with next := w.rung, quiet := 0 }, 0, 0)

/-- Entry `n` of the show at a step start: its rung enters the width areas, and it is evaluated (R139, R142, R143). -/
def Dev.widthStart (d : Dev) (p g n : Nat) (e : Nat × List Nat) : Dev :=
  let set_ := d.gKey g kActwidth
  let w := Tab.getD d.widths (p * 1024 + n) { rung := fld e.1 13 2, next := fld e.1 13 2 }
  let rung := if set_ = 0 then (permitted e.1).headD w.next else if set_ = 1 then (permitted e.1).getLastD w.next else w.next
  let d := e.2.foldl (fun d c =>
    let k := coreKey (fld c 0 6) (fld c 6 6)
    let at_ := fld c 32 23 + 24 * fld c 12 6
    d.spWrite k at_ ((List.range 3).flatMap (fun i => leBytes (if i = rung then 1 else 0) 8))) d
  let m := p * 1024 + fld e.1 0 10
  let mon := Tab.getD d.mons m {}
  let w := { w with rung }
  let (w, up, down) := if set_ = 2 then widthEval e.1 mon.step w else ({ w with next := rung, quiet := 0 }, 0, 0)
  let cum := mon.cum.zipWith (fun a b => satAdd 32 a b) [0, 0, 0, 0, up, down]
  { d with widths := Tab.put d.widths (p * 1024 + n) w, mons := Tab.put d.mons m { mon with cum } }

/-- Every entry with a core that runs an act of the group (log entry 27), each of whose rows takes a wide cycle of its core (R96, R139),
and then the counts of the step are cleared. -/
def Dev.widthStarts (d : Dev) (p g : Nat) (s : Show) (acts : List Act) : Dev :=
  let mine := s.widths.zipIdx.filter (fun e => e.1.2.any (fun c => acts.any (fun a => a.die == fld c 0 6 && a.core == fld c 6 6)))
  let d := mine.foldl (fun d e => d.widthStart p g e.2 e.1) d
  let rows := (mine.flatMap (fun e => e.1.2.flatMap (fun c =>
    let at_ := fld c 32 23 + 24 * fld c 12 6
    [(coreKey (fld c 0 6) (fld c 6 6), at_ / 512), (coreKey (fld c 0 6) (fld c 6 6), (at_ + 23) / 512)]))).eraseDups
  let d := rows.foldl (fun d r => d.wideRows r.1 1) d
  { d with mons := mine.foldl (fun t e => Tab.upd t (p * 1024 + fld e.1.1 0 10) (fun m => { m with step := {} })) d.mons }

/-- The sixteen words of a mode area (R393). -/
def Dev.modeWords (d : Dev) (g : Nat) : List Byte :=
  let on := [d.gKey g kScreen, 4 + d.gKey g kSpec, 7 + d.gKey g kSkip, 11 + d.gKey g kKvFill, 13 + d.gKey g kPlacement]
  (List.range 16).flatMap (fun i => leBytes (if on.contains i then 1 else 0) 8)

/-- The mode areas of the cores that run an act of the group (R393). -/
def Dev.modeAreas (d : Dev) (g : Nat) (s : Show) (acts : List Act) : Dev :=
  ((Tab.getD s.secs 0x0A []).filter (fun e => fld e 0 4 == 0 && acts.any (fun a => a.die == fld e 4 6 && a.core == fld e 10 6))).foldl
    (fun d e => (d.wideRows (coreKey (fld e 4 6) (fld e 10 6)) 1).spWrite (coreKey (fld e 4 6) (fld e 10 6)) (fld e 64 64) (d.modeWords g)) d

/-! The start of a step (R44, R92, R296). -/

/-- Instances of the group's reductions and expert layers begin (R183, R333). -/
def Dev.startInstances (d : Dev) (p g beat : Nat) (s : Show) : Dev :=
  let d := (redEntries s).zipIdx.foldl (fun d q =>
    if redGroup s q.1 = g then (d.startInst p q.2 s q.1 beat).enterHeld p q.2 else d) d
  (layersOf s).zipIdx.foldl (fun d q => if sendGroup s (lLchan q.1) = g then d.startRace p q.2 s q.1 beat else d) d

/-- The records of a group that starts a step at `beat` on cores `ks` with batch `l` (R44, R296, R497). -/
def Dev.markStart (d : Dev) (g beat : Nat) (ks batch : List Nat) (chunks : List (Nat × Nat)) : Dev :=
  d.modGroup g (fun x =>
    { x with
      running := !ks.isEmpty, stepNo := x.stepNo + 1, last := beat, lastShown := beat, passed := 0, waiting := ks, due := true, abort := none
      rerun := false, poison := [], tainted := false, batch, chunks })

/-! Self-test slices in the gaps of a step (R41, R47, R442 to R445, R506). -/

/-- The item exists in service on its die and core (R441). -/
def inServiceItem (die core item index : Nat) : Bool :=
  if item = 0x10 then isGraze die && index < 256
  else core < coresOf die &&
    (if item = 0x01 then index < arraysOf die
     else if item = 0x03 then index < 256
     else if item = 0x04 then index < 4
     else 0x02 ≤ item && item ≤ 0x0C && index == 0)

/-- Slice numbers of the in-service items of a core, ascending (R441, R442). -/
def coreSlices (die : Nat) : List Nat :=
  (List.range (arraysOf die)).map (0x100 + ·) ++ [0x200] ++ (List.range 256).map (0x300 + ·) ++ (List.range 4).map (0x400 + ·) ++
    (List.range 8).map (fun i => 0x500 + 0x100 * i)

/-- The item is the one that its core's walk has come to: the next one in ascending order, after the last the first again (R442). -/
def Dev.sliceInTurn (d : Dev) (die core item index : Nat) : Bool :=
  let l := coreSlices die
  item == 0x10 || some (0x100 * item + index) == (match Tab.get? d.fence.passed (coreKey die core) with
    | some n => (l.find? (fun m => decide (n < m))).orElse (fun _ => l.head?)
    | none => l.head?)

/-- Key of a core, or for ITEM 0x10 of a Fold, among the slices. -/
def sliceKey (die core item index : Nat) : Nat := if item = 0x10 then 2560 + 2 * penOfDie die + index / 128 else coreKey die core

/-- A slice of key `k` may begin at `beat`: 8,000 µs of the measured rate after the one before it (R47, R444, R445). -/
def Dev.sliceWindow (d : Dev) (k beat : Nat) : Bool := match Tab.get? d.fence.slices k with
  | some b => cdiv (8000 * d.beat.rate) 1000000 ≤ beatAhead b beat && beatGe beat b
  | none => true

/-- TARGET of a slice entry: its core, or the die agent (R442). -/
def sliceTarget (core item : Nat) : Nat := if item = 0x10 then 0xFF else core

/-- The firmware places slice `x` in the step of group `g` that starts at `beat`: in a die of the group's pasture, of at most 40 µs, in a
window with no other slice, in its walk's turn, ending before the group's next boundary at the measured rate, where the die's Calendar
has room (R43, R47, R442, R443). -/
def Dev.placeSlice (d : Dev) (g beat : Nat) (x : SlicePlan) : Dev :=
  let y := d.group g
  let k := sliceKey x.die x.core x.item x.index
  let at_ := (beat + x.beats) % 2 ^ 64
  if isCompute x.die && d.pastureOfDie x.die == y.pasture && inServiceItem x.die x.core x.item x.index && 1 ≤ x.len && x.len ≤ 40 &&
      x.tick < 1024 && d.sliceInTurn x.die x.core x.item x.index &&
      !d.cal.any (fun e => e.action == 4 && e.dies == [x.die] && e.target == sliceTarget x.core x.item &&
        e.arg % 2 ^ 16 == x.index + x.item * 2 ^ 8) && x.beats + (if x.tick = 0 then 0 else 1) + cdiv (x.len * d.beat.rate) 1000000 ≤ y.period && d.sliceWindow k at_ &&
      d.calRoom [x.die] 1 then
    ({ d with fence := { d.fence with slices := Tab.put d.fence.slices k at_ } }).calPlace
      { beat := x.beats, tick := x.tick, action := 4, rel := true, group := g, target := sliceTarget x.core x.item
        arg := x.index + x.item * 2 ^ 8 + x.len * 2 ^ 16, dies := [x.die] }
  else d

/-- A step of group `g` starts at boundary `beat` (R44, R92, R138, R296, R302, R303, R393), and the firmware places its slices (R47). -/
def Dev.startStep (d : Dev) (g beat fmt : Nat) (s : Show) (slices : List SlicePlan) : Dev :=
  let p := (d.group g).pasture
  let sel := d.selectActs g s
  let acts := sel.map Prod.snd
  let d := if (d.group g).rerun then d.errAdd 18 64 10 1 else d
  let d := d.modGroup g (fun x => { x with epoch := (x.epoch + 1) % 2 ^ 32 })
  let items := d.batchOf g s acts
  let batch := items.map Prod.fst
  let chunks := items.filter (fun q => ((d.req q.1).map (fun r : Request => r.st)) == some .prefill)
  let d := items.foldl (fun d q => d.giveSlots g fmt s q) d
  let d := if d.takesDecode g then d.writeBatchList s batch else d
  let d := d.markStart g beat (acts.map (fun a => coreKey a.die a.core)) batch chunks
  let d := d.widthStarts p g s acts
  let d := d.modeAreas g s acts
  let d := d.startInstances p g beat s
  slices.foldl (fun d x => d.placeSlice g beat x) (sel.foldl (fun d q => d.beginAct p g q.1 beat q.2 batch) d)

/-! Boundaries (R37, R44, R45, R384, R426). -/

/-- `STEP_OVERRUN` (R44). -/
def Dev.overrun (d : Dev) (g : Nat) : Dev :=
  (d.modGroup g (fun x => { x with overruns := satAdd 16 x.overruns 1 })).stepEvent (d.group g).pasture

/-- Every reduction and expert layer of the group is abandoned (R184, R333). -/
def Dev.abandonGroup (d : Dev) (g : Nat) : Dev :=
  let p := (d.group g).pasture
  match d.showOf p with
  | none => d
  | some s =>
    let d := (redEntries s).zipIdx.foldl (fun d q => if redGroup s q.1 = g then d.abandonAll p q.2 .withdrawal else d) d
    d.abandonLayers p g

/-- The requests that a withdrawal from group `g` closes: its batch, and in the decode group every request with a pending
`REQ_GENERATE` (R45, R285). -/
def Dev.droppedReqs (d : Dev) (g : Nat) : List Nat :=
  let x := d.group g
  (d.reqs.filter (fun r => x.batch.contains r.1 ||
    (d.takesDecode g && r.2.pasture == x.pasture && (r.2.gen != 0 || r.2.qGen != 0)))).map Prod.fst

/-- The package withdraws from group `g`: its acts abort, `STEP_DROPPED` is raised, a leave notice goes out and its requests close
(R45). -/
def Dev.dropGroup (d : Dev) (g : Nat) : Dev :=
  let p := (d.group g).pasture
  let d := (d.abortActs (fun _ r => r.group == g) .withdrawal).abandonGroup g
  let d := d.settlePoison g
  let hs := d.droppedReqs g
  let d := d.modGroup g (fun x =>
    { x with running := false, waiting := [], left := true, passed := 0, due := false, rerun := false, rejoin := none, abort := none
             tainted := false })
  let d := (d.stepEvent p).leaveNotice g
  (hs.foldl (fun d h => d.closeReq h sAborted sAborted) d).modGroup g (fun x => { x with batch := [], chunks := [] })

/-- A core that an act of group `g` needs runs an act of another group (R44, R92). -/
def Dev.coreBusy (d : Dev) (g : Nat) (acts : List Act) : Bool :=
  acts.any (fun a => match (d.core (coreKey a.die a.core)).run with
    | some r => r.group != g
    | none => false)

/-- Group `g` may start no step: a recovery is under way in a unit that it uses, a failed die that it uses waits for its recovery, or
an image that its show binds holds poison (R426, R434). -/
def Dev.startHeld (d : Dev) (g : Nat) (acts : List Act) : Bool :=
  let dies := d.groupDies g
  (match d.runningRec with
    | some r => (recOrder r == 4 && dies.contains r.die) ||
        ((recOrder r == 1 || recOrder r == 2) && acts.any (fun a => a.die == r.die && a.core == r.core)) || (r.code == 0x0030 && dies.contains r.die)
    | none => false) ||
  d.faults.queue.any (fun q => match d.faultOf q with
    | some r => r.code == 0x0030 && dies.contains r.die
    | none => false) ||
  d.faults.log.any (fun r => r.code == 0x0030 && dies.contains r.die && r.link ≠ 0 &&
    (d.faults.queue.contains r.link || d.faults.running == some r.link)) ||
  d.imageHeld (d.group g).pasture

/-- Closes and pause hand-offs that fall due at a boundary of group `g`; a request in the batch of another group's step waits for that
group's boundary (R286, R296 step 4, R306). -/
def Dev.handOffs (d : Dev) (g : Nat) : Dev :=
  let p := (d.group g).pasture
  let away := (d.groups.filter (fun q => q.1 != g && q.2.exists_ && q.2.due)).flatMap (fun q => q.2.batch)
  let rs := d.reqs.filter (fun r => r.2.pasture == p && !away.contains r.1)
  rs.foldl (fun d r =>
    if r.2.closing && r.2.st != .pausing && r.2.st != .resuming then d.closeReq r.1 sAborted sAborted
    else if r.2.st == .pausing && !r.2.moving then d.handOff r.1
    else d) d

/-- Leave and join notices take effect at a boundary at `beat`: a peer that has left raises `STEP_DROPPED`, and a required one takes
the package with it; a peer that rejoins counts again (R45). -/
def Dev.peerNotices (d : Dev) (g beat : Nat) : Dev × Bool :=
  let x := d.group g
  let back := (x.peersJoin.filter (fun j => beatGe beat j.2)).map Prod.fst
  let d := d.modGroup g (fun x =>
    { x with
      leaves := []
      peersJoin := x.peersJoin.filter (fun j => !beatGe beat j.2)
      peersLeft := (x.peersLeft ++ x.leaves.map Prod.fst).filter (fun a => !back.contains a) })
  (x.leaves.foldl (fun d _ => d.stepEvent x.pasture) d, x.leaves.any (fun l => l.2))

/-- The show of group `g` is unloading: the group stops at this boundary, and with the last of them the show goes; what still runs
for it ends (R384). -/
def Dev.stopGroup (d : Dev) (g : Nat) : Dev :=
  let p := (d.group g).pasture
  let d := (d.abortActs (fun _ r => r.group == g) .withdrawal).abandonGroup g
  let d := d.settlePoison g
  let d := (d.quiesce g false).unloadGroup g
  if (d.groupsOf p).isEmpty then
    let d := (d.trainings p).foldl (fun d t => d.finish t.1 sAborted []) d
    d.closeAll p sAborted
  else d

/-- A boundary at `beat` at which no step of group `g` runs: the page engines work, commits that wait for quiescence take effect,
and a step starts where nothing stands against it (R44, R296, R374, R426). -/
def Dev.freeBoundary (d : Dev) (g beat : Nat) (x : StepFacts) : Dev :=
  let d := if (d.group g).due then d.endStep g x else d
  let d := d.handOffs g
  let y := d.group g
  match d.showOf y.pasture with
  | none => d
  | some s =>
    if y.left then d.quiesce g false
    else if y.stopped || (d.power.st != .run && d.power.st != .brace) then d.quiesce g false
    else
      let acts := (d.selectActs g s).map Prod.snd
      if d.coreBusy g acts || d.startHeld g acts then d.overrun g
      else
        let d := d.quiesce g true
        if y.place ≠ 0 && y.place ≠ d.gKey g kPlacement + 1 then d else d.startStep g beat x.kvFmt s x.slices

/-- A boundary at `beat` during a step of group `g`: the third one in succession drops the group (R44, R45). -/
def Dev.busyBoundary (d : Dev) (g : Nat) : Dev :=
  let n := (d.group g).passed + 1
  if 3 ≤ n then d.dropGroup g else (d.modGroup g (fun x => { x with passed := n })).overrun g

/-- The step-start entry of group `g`, once its beat has come (R42, R44). -/
def Dev.startEntry (d : Dev) (g : Nat) : Option CalEntry :=
  d.cal.find? (fun e => e.action == 1 && e.group == g && beatGe d.beat.now e.beat)

/-- A tree of group `g` holds a participant of this package that has not sent its buffer: the step is not complete (R187). -/
def Dev.treeOwed (d : Dev) (g : Nat) : Bool :=
  let y := d.group g
  match d.showOf y.pasture with
  | none => false
  | some s => (redEntries s).zipIdx.any (fun q =>
      let x := d.red y.pasture q.2
      redGroup s q.1 == g && x.live && x.tree && !x.done && !x.abandoned &&
        (List.range (rCount q.1)).any (fun i => i != 0 && redLocal s q.1 i && !(d.part y.pasture q.2 i).gone))

/-- One boundary of group `g` (R37, R42, R44, R45, R343, R384). -/
def Dev.boundary (d : Dev) (g : Nat) (x : StepFacts) : Dev :=
  match d.startEntry g with
  | none => d
  | some e =>
    let b := e.beat
    let d := { d with cal := d.cal.map (fun c : CalEntry =>
      if c.action = 1 && c.group = g then { c with beat := (b + max 1 (e.arg % 2 ^ 24)) % 2 ^ 64 } else c) }
    let d := d.flrBoundary g
    let (d, lost) := d.peerNotices g b
    if (d.group g).unloading then d.stopGroup g
    else
      let d := if (d.group g).rejoin = some b then d.modGroup g (fun y => { y with left := false, rejoin := none }) else d
      let y := d.group g
      if !y.left && (lost || (y.spans && d.beat.st == .slipped)) then
        (if y.due && !y.running then d.endStep g x else d).dropGroup g
      else if y.running || d.treeOwed g then d.busyBoundary g
      else d.freeBoundary g b x

/-! The TTL sweep (R307). -/

/-- `TTL_SWEEP`: the sweep entry of pasture `p` fires, in its turn (R41), and every request that has expired closes. -/
def ttlSweep (d : Dev) (p : Nat) : Dev :=
  if !d.cal.any (fun e => e.action == 5 && e.target == p && d.entryDue e && d.mayFire e) then d
  else
    let hs := (d.reqs.filter (fun r =>
      r.2.pasture == p && (r.2.st == .pausing || r.2.st == .paused) && beatGe d.beat.now r.2.expiry)).map Prod.fst
    (hs.foldl (fun d h => (d.srvAdd (hFunc h) 5 1).closeReq h sExpired sAborted) d).resweep p

/-! Notices of peers (R45). -/

/-- `LEAVE_NOTICE_RECEIVE`: package `peer` has withdrawn from group `g`; the show marks it required, or does not. -/
def leaveNoticeReceive (d : Dev) (g peer : Nat) (required : Bool) : Dev :=
  if (d.group g).exists_ && (d.group g).spans then d.modGroup g (fun x => { x with leaves := x.leaves ++ [(peer, required)] }) else d

/-- `JOIN_NOTICE_RECEIVE`: package `peer` counts in group `g` again from boundary `b`, when the notice comes before it. -/
def joinNoticeReceive (d : Dev) (g peer b : Nat) : Dev :=
  if (d.group g).exists_ && (d.group g).spans && !beatGe d.beat.now b then
    d.modGroup g (fun x => { x with peersJoin := x.peersJoin.filter (fun j => j.1 != peer) ++ [(peer, b)] })
  else d

/-! Entries held by a recovery (R43). -/

/-- The step in which a step-relative entry was held is still the current one. -/
def Dev.stepCurrent (d : Dev) (e : CalEntry) : Bool := (d.group e.group).exists_ && e.fired == (d.group e.group).stepNo

/-- Die `die` has returned: its copy of entry `e` fires, or is discarded and counted. A commit is held whole, and is discarded on every
die (R43; log entry 63). -/
def Dev.releaseEntry (d : Dev) (die : Nat) (e : CalEntry) : Dev :=
  let p := (d.group e.group).pasture
  if e.rel then
    if !d.stepCurrent e then d.errAdd die 64 4 1
    else if e.action = 6 then
      let out (l : List (Nat × Nat)) : List (Nat × Nat) := l.filter (· != (e.arg, die))
      d.modRed p e.target (fun x =>
        { x with heldPhases := out x.heldPhases, waits := x.waits.map (fun w : RedWait => { w with heldPhases := out w.heldPhases }) })
    else { d with cal := d.cal.map (fun c => if c = { e with held := [] } then { c with fired := 0 } else c) }
  else match d.txns.find? (fun t => t.pending && !t.fired && commitOf t e) with
    | some t =>
      if 2 ≤ beatAhead e.beat d.beat.now then e.held.foldl (fun d v => d.errAdd v 64 4 1) (d.discardCommit t)
      else if e.held == [die] then d.fireCommit t else d
    | none => d

/-- `CAL_HELD_ENTRY_RELEASE`: die `die` returns from its recovery (R43). -/
def calHeldEntryRelease (d : Dev) (die : Nat) : Dev :=
  if d.inRecovery die then d
  else
    let now := d.cal.filter (fun e => e.held.contains die)
    let d := { d with cal := d.cal.map (fun e : CalEntry => { e with held := e.held.filter (· != die) }) }
    now.foldl (fun d e => d.releaseEntry die e) d

end Sys2Proof.Machine
end

