-- ==== Sys2Proof/Machine/Experts.lean ====
section
/-! DEFINITION. The expert catalogue: `EXPERT_MAP_SET`, its effect, and `EXPERT_MAP_GET` (R316, R317, R387). -/

namespace Sys2Proof.Machine

open Sys2Proof

/-- The layers of loaded shows that own catalogue entries of a range: pasture, show and layer (R317, R319). -/
def Dev.owners (d : Dev) (first n : Nat) : List (Nat × Show × Nat) :=
  d.pastures.flatMap (fun q => match q.2.sh with
    | some s => ((layersOf s).filter (fun e => overlaps (lCat e) (lExperts e) first n)).map (fun e => (q.1, s, e))
    | none => [])

/-- Catalogue index `i` lies in a range of the loaded show of pasture `p`. -/
def Dev.ownsIndex (d : Dev) (p i : Nat) : Bool := (d.owners i 1).any (fun o => o.1 == p)

/-- Waiting sets: handle, first index, count, MAPVER, beat and entries. -/
def Dev.mapSets (d : Dev) : List (Nat × Nat × Nat × Nat × Nat × List Nat) :=
  d.handles.filterMap (fun h => match h.2.work with
    | .expertMapSet first n ver b es => some (h.1, first, n, ver, b, es)
    | _ => none)

/-- A catalogue entry of index `i` is refused with `INVALID` (R316, R317). -/
def catInvalid (e : Nat) : Bool :=
  fld e 20 6 != 0 || fld e 88 40 != 0 || fld e 16 2 == 3 || 16 < cPen e + cShards e

/-- A catalogue entry of index `i` names a pen outside the pasture of the show that owns it (R317). -/
def Dev.catDenied (d : Dev) (i e : Nat) : Bool :=
  cPkg e == d.route.addr && (d.owners i 1).any (fun o =>
    let pens := ((Tab.get? d.pastures o.1).map (·.pens)).getD 0
    (List.range (cShards e)).any (fun h => !bit pens (cPen e + h)))

/-- Service of `EXPERT_MAP_SET` (R317, R341, R387): `bs` is what the firmware reads at the host address that the command names, before it
accepts the command. -/
def svcExpertMapSet (bs : List Byte) (d : Dev) (c : Door) : Svc := do
  checkHeader c 24 [(0, List.replicate 24 255)]
  notStopped d
  let first := dp c 0 2
  let n := dp c 2 2 + 1
  let beat := dp c 8 8
  let es := if c.hostOk then (List.range n).map (fun i => rdLE bs (16 * i) 16) else []
  if c.func ≠ 0 then
    match d.pastureOf c.func with
    | none => .error ⟨sInvalid, 0xFFFF⟩
    | some p => refuseIf ((List.range n).any (fun i => !d.ownsIndex p (first + i))) sDenied (pOff 0)
  else pure ()
  refuseIf (es.zipIdx.any (fun e => d.catDenied (first + e.2) e.1)) sDenied (pOff 16)
  inRange c 2 2 0 255
  refuseIf (65536 < first + n) sInvalid (pOff 0)
  refuseIf (beatAhead d.beat.now beat < 16 || 2 ^ 63 ≤ beatAhead d.beat.now beat) sInvalid (pOff 8)
  aligned64 c 16
  refuseIf (es.any catInvalid) sInvalid (pOff 16)
  refuseIf (d.mapSets.any (fun m => overlaps m.2.1 m.2.2.1 first n)) sBusy (pOff 0)
  handleRoom d c.func
  if c.hostOk then
    let (h, d) := d.newHandle c.func c.tag (.expertMapSet first n (dp c 4 4) beat es)
    pure ({ handle := h }, d.emit (.hostRead c.func (dp c 16 8) (16 * n) h))
  else
    let p := (d.pastureOf c.func).getD 31
    let d := d.notice 0x004A 63 63 p 0
    pure ({ status := some sAborted }, if p = 31 && c.func ≠ 0 then d.event c.func 1 1 else d)

/-- A staged set takes effect: its entries and MAPVER together (R317). -/
def Dev.applyMap (d : Dev) (m : Nat × Nat × Nat × Nat × Nat × List Nat) : Dev :=
  let d := { d with
    catalog := (m.2.2.2.2.2.zipIdx).foldl (fun (t : Tab Nat) (e : Nat × Nat) => Tab.put t (m.2.1 + Prod.snd e) (Prod.fst e)) d.catalog
    mapver := m.2.2.2.1 }
  d.finish m.1 sOk []

/-- Sets whose beat has come. -/
def Dev.dueSets (d : Dev) : List (Nat × Nat × Nat × Nat × Nat × List Nat) :=
  d.mapSets.filter (fun m => beatGe d.beat.now m.2.2.2.2.1 && d.isOpen m.1)

/-- At a boundary at `b` of group `g`, the sets of which its show owns an entry take effect (R317). -/
def Dev.mapBoundary (d : Dev) (g b : Nat) : Dev :=
  (d.dueSets.filter (fun m => beatGe b m.2.2.2.2.1 && (d.owners m.2.1 m.2.2.1).any (fun o =>
    o.1 == (d.group g).pasture && sendGroup o.2.1 (lLchan o.2.2) == g))).foldl Dev.applyMap d

/-- `EXPERT_MAP_EFFECT`: the set of handle `h` takes effect at its beat where no loaded show owns an entry of its range; where one does,
it takes effect at that show's boundary (R317). -/
def expertMapEffect (d : Dev) (h : Nat) : Dev :=
  (d.dueSets.filter (fun m => m.1 == h && (d.owners m.2.1 m.2.2.1).isEmpty)).foldl Dev.applyMap d

/-- Service of `EXPERT_MAP_GET` (R317, R341, R387). -/
def svcExpertMapGet (d : Dev) (c : Door) : Svc := do
  checkHeader c 16 [(0, [255, 255, 255, 255, 0, 0, 0, 0, 255, 255, 255, 255, 255, 255, 255, 255])]
  notStopped d
  let first := dp c 0 2
  let n := dp c 2 2 + 1
  inRange c 2 2 0 255
  refuseIf (65536 < first + n) sInvalid (pOff 0)
  aligned64 c 8
  let data := (List.range n).flatMap (fun i => leBytes (Tab.getD d.catalog (first + i) 0) 16)
  if c.hostOk then pure ({ res := [d.mapver] }, d.emit (.hostWrite c.func (dp c 8 8) data))
  else
    let p := (d.pastureOf c.func).getD 31
    let d := d.notice 0x004A 63 63 p 0
    pure ({ status := some sAborted }, if p = 31 && c.func ≠ 0 then d.event c.func 1 1 else d)

/-- `EXPERT_MAP_SET` at the device. -/
def expertMapSet (d : Dev) (c : Door) (entries : List Byte) : Dev := d.serve c 0x0701 (svcExpertMapSet entries)
/-- `EXPERT_MAP_GET` at the device. -/
def expertMapGet (d : Dev) (c : Door) : Dev := d.serve c 0x0702 svcExpertMapGet

/-- One boundary of group `g`: staged catalogue entries take effect after the commits of the boundary, and then the group's own work
is done (R317, R44). -/
def Dev.mapAndBoundary (d : Dev) (g : Nat) (x : StepFacts) : Dev :=
  match d.startEntry g with
  | some e => (d.mapBoundary g e.beat).boundary g x
  | none => d

/-- Groups whose step-start entries are due, the earlier beats first, and those of one beat in the order of the master Calendar (R41). -/
def Dev.dueStarts (d : Dev) : List Nat :=
  (sortBy (fun e => 2 ^ 64 - 1 - beatAhead e.beat d.beat.now) (d.cal.filter (fun e => e.action == 1 && beatGe d.beat.now e.beat))).map (·.group)

/-- `l` up to its first `g` and with it; nothing where `g` does not stand in it. -/
def upTo (g : Nat) (l : List Nat) : List Nat := match indexWhere (· == g) l with
  | some i => l.take (i + 1)
  | none => []

/-- `STEP_START`: at a boundary of group `g`, after the commits that are due and the boundaries that come before it (R41, R44, R92). -/
def stepStart (d : Dev) (g : Nat) (x : StepFacts) : Dev :=
  let d := d.commitsDue
  (upTo g d.dueStarts).foldl (fun d i => d.mapAndBoundary i x) d

end Sys2Proof.Machine
end

