-- ==== Sys2Proof/Machine/Lifecycle.lean ====
section
/-! DEFINITION. What ends later than its command: destroying a pasture, clearing pens, and host reads (R203, R341, R356, R380 to R382,
R385 to R387, R435). -/

namespace Sys2Proof.Machine

open Sys2Proof

/-! Clearing a pen (R203, R356). -/

/-- A core of a pen that joins a pasture: its Pound, accumulator slots and generators are cleared (R113, R356). -/
def Core.cleared (c : Core) : Core :=
  { c with
    arrs := Tab.mapV c.arrs (fun _ a => { a with slots := [], gens := [] })
    pound := {}
    bexp := []
    bocc := [] }

/-- The stacks, Fold lines, scratchpads, buffers, Pounds, accumulators and generators of pen `p` (R356). -/
def Dev.clearPen (d : Dev) (p : Nat) : Dev :=
  let a := grazeOf p
  let b := shearOf p
  { d with
    mem := Mem.zero d.mem (p * 2 ^ 38) (2 ^ 38)
    poison := d.poison.filter (fun w => w / 2 ^ 32 != p)
    stk := Tab.mapV d.stk (fun s x => if s / 2 = p then { x with fold := [] } else x)
    spad := Mem.zero (Mem.zero d.spad (a * 2 ^ 29) (2 ^ 29)) (b * 2 ^ 29) (2 ^ 29)
    abuf := Mem.zero (Mem.zero d.abuf (a * 2 ^ 22) (2 ^ 22)) (b * 2 ^ 22) (2 ^ 22)
    cores := Tab.mapV d.cores (fun k c => if k / 64 = a || k / 64 = b then c.cleared else c) }

/-- The pasture command of a handle waits for the clear of pen `p`. -/
def awaitsClear (p : Nat) (h : Nat × Handle) : Bool :=
  match h.2.work with
  | .pastureCreate _ left => bit left p
  | .pastureDestroy _ _ left => bit left p
  | _ => false

/-- `PEN_CLEAR_DONE`: the clear of pen `p` ends, and after the last pen the pasture command completes (R356, R380). -/
def penClearDone (d : Dev) (p : Nat) : Dev :=
  match d.handles.find? (awaitsClear p) with
  | none => d
  | some (h, x) =>
    let d := d.clearPen p
    match x.work with
    | .pastureCreate q left =>
      let left := setBit left p false
      if left = 0 then ((d.modPasture q (fun y => { y with ready := true })).remap).finish h sOk [q]
      else d.setWork h (.pastureCreate q left)
    | .pastureDestroy q pens left =>
      let left := setBit left p false
      if left = 0 then ({ d with pastures := Tab.del d.pastures q }.remap).finish h sOk [pens]
      else d.setWork h (.pastureDestroy q pens left)
    | _ => d

/-! `PASTURE_DESTROY` (R356, R380). -/

/-- Another pasture holds a grant to an image or prefix of pasture `p` (R356). -/
def Dev.grantsOut (d : Dev) (p : Nat) (q : Pasture) : Bool :=
  (Tab.keys d.pastures).any (fun u => u != p &&
    (q.images.any (fun i => bit i.2.grants u) || q.prefixes.any (fun x => bit x.2.grants u)))

/-- The pasture's transactions roll back (R380, step 1). -/
def Dev.destroyTxns (d : Dev) (p : Nat) : Dev :=
  (d.txns.filter (fun t => !t.package && t.pasture == p)).foldl (fun d t => d.rollBack t sRolledBack 0 0 0 true) d

/-- Every open handle of function `f` but `h` completes with `ABORTED`, request handles last (R380, step 2). -/
def Dev.destroyHandles (d : Dev) (p f h : Nat) : Dev :=
  let l := (d.heldOf f).filter (fun x => x != h)
  let isReq (x : Nat) : Bool := (d.req x).isSome
  let d := (l.filter (fun x => !isReq x)).foldl (fun d x => d.finishIn x sAborted []) d
  let d := { d with txns := d.txns.filter (fun t => hFunc t.handle != f) }
  (d.reqsOf p).foldl (fun d x => d.closeReq x sAborted sAborted) d

/-- The show, the prefixes and the images of pasture `p` are unloaded (R380, step 3). -/
def Dev.destroyContents (d : Dev) (p : Nat) : Dev :=
  let d := d.abortActs (fun _ r => r.pasture == p) .withdrawal
  let d := d.clearShow p
  let d := { d with
    pages := Tab.filt d.pages (fun _ x => x.pasture != p)
    faults := { d.faults with reseeds := d.faults.reseeds.filter (fun x => x.1 / 1024 != p) }
    pastures := Tab.mapV d.pastures (fun _ q =>
      { q with
        images := Tab.mapV q.images (fun _ i => { i with grants := setBit i.grants p false })
        prefixes := Tab.mapV q.prefixes (fun _ x => { x with grants := setBit x.grants p false }) }) }
  d.modPasture p (fun q => { q with images := [], prefixes := [], keys := [], loading := false, dying := true })

/-- Service of `PASTURE_DESTROY` (R356, R380). -/
def svcPastureDestroy (d : Dev) (c : Door) : Svc := do
  checkHeader c 8 [(0, [255])]
  pfOnly c
  notStopped d
  let p := dp c 0 1
  match d.pasture p with
  | none => .error ⟨sInvalid, pOff 0⟩
  | some q =>
    refuseIf (d.grantsOut p q) sConflict (pOff 0)
    handleRoom d c.func
    let (h, d) := d.newHandle c.func c.tag (.pastureDestroy p q.pens q.pens)
    let d := ((d.destroyTxns p).destroyHandles p q.func h).destroyContents p
    pure ({ handle := h }, d.remap)

/-- `PASTURE_DESTROY` at the device. -/
def pastureDestroy (d : Dev) (c : Door) : Dev := d.serve c 0x0202 svcPastureDestroy

/-! Host reads (R341). -/

/-- An image's bytes have come (R381). -/
def Dev.imageRead (d : Dev) (h p n : Nat) (i : Image) (bs : List Byte) : Dev :=
  let bs := padTo bs i.len
  let d := (d.agentWrite 18 i.pen i.off bs).modImage p n (fun i => { i with crcs := checkValues bs, ready := true })
  if !i.goldenDue then d.finish h sOk [0]
  else if d.tierPresent then d.setWork h (.imageLoad p n true)
  else (d.modImage p n (fun i => { i with goldenDue := false })).finish h sOk [2]

/-- The blocks of an `IMAGE_RESEED` from block `b` on are written up to the first that does not match (R381, R435). -/
def Dev.reseedBlocks (d : Dev) (h p n b : Nat) : List (List Byte) → Dev
  | [] => d.finish h sOk []
  | x :: xs =>
    match d.image p n with
    | none => d.finish h sAborted []
    | some i =>
      if i.matches b x then (d.writeBlock p n b 2 x).reseedBlocks h p n (b + 1) xs
      else (d.errAdd 18 64 9 1).finish h sInvalid [b]

/-- The tokens of an append or build have come (R385, R386). -/
def Dev.tokensRead (d : Dev) (h q : Nat) (bs : List Byte) : Dev :=
  d.modReq q (fun r =>
    let toks (n : Nat) : List Nat := (List.range n).map (fun i => rdLE bs (4 * i) 4)
    if r.append = h then { r with tokensIn := true, tokens := toks r.prompt }
    else if r.qAppend = h then { r with qIn := true, qTokens := toks r.qCount } else r)

/-- The host's data for the command of handle `h` has come, and the command goes on. -/
def Dev.readDone (d : Dev) (h : Nat) (w : Work) (bs : List Byte) : Dev :=
  match w with
  | .imageLoad p n false => match d.image p n with
    | some i => d.imageRead h p n i bs
    | none => d.finish h sAborted []
  | .imageReseed p n off len => d.reseedBlocks h p n (off / 4096) (blocksOf (padTo bs len) (cdiv len 4096))
  | .showLoad p len => (d.setWork h (.showCheck p (padTo bs len))).modPasture p (fun q => { q with loading := true })
  | .reqAppend q => d.tokensRead h q bs
  | .prefixBuild _ _ => d.tokensRead h h bs
  | .prefixTrain p n steps k _ => d.setWork h (.prefixTrain p n steps k true)
  | .adapterTrain p n steps k _ => d.setWork h (.adapterTrain p n steps k true)
  | .routeSet addr sizes wrap roles => d.routeApply h addr sizes wrap roles bs
  | _ => d

/-- An append whose tokens could not be read has ended (R341, R286). -/
def Dev.appendLost (d : Dev) (h q : Nat) : Dev :=
  match d.req q with
  | none => d
  | some r =>
    if r.append = h then d.nextState q
    else if r.qAppend = h then
      d.modReq q (fun r => ({ r with qAppend := 0, qCount := 0, qTokens := [], qIn := false }).reshare (d.draftWidth r.pasture))
    else d

/-- The command of handle `h` has ended with a failed read: what it had set up goes (R341). -/
def Dev.readLost (d : Dev) (h : Nat) (w : Work) : Dev :=
  match w with
  | .imageLoad p n _ => d.modPasture p (fun q => { q with images := Tab.del q.images n })
  | .showLoad p _ => d.modPasture p (fun q => { q with loading := false })
  | .reqAppend q => d.appendLost h q
  | .prefixBuild _ _ => d.closeReq h sAborted sAborted
  | _ => d

/-- The tokens of handle `h` for request `q` are still to be read. -/
def Dev.awaitsTokens (d : Dev) (h q : Nat) : Bool :=
  match d.req q with
  | some r => (r.append == h && !r.tokensIn) || (r.qAppend == h && !r.qIn)
  | none => false

/-- The command of handle `h` waits for a host read. -/
def Dev.reads (d : Dev) (h : Nat) : Work → Bool
  | .imageLoad _ _ written => !written
  | .imageReseed .. => true
  | .showLoad .. => true
  | .reqAppend q => d.awaitsTokens h q
  | .prefixBuild .. => d.awaitsTokens h h
  | .prefixTrain _ _ _ _ blockIn => !blockIn
  | .adapterTrain _ _ _ _ blockIn => !blockIn
  | .routeSet .. => true
  | _ => false

/-- `HOST_READ_COMPLETE`: the read of the command of handle `h` ends, with `data` or with a failure (R341). -/
def hostReadComplete (d : Dev) (h : Nat) (ok : Bool) (data : List Byte) : Dev :=
  match d.workOf h with
  | none => d
  | some w =>
    if !d.reads h w then d
    else if ok then d.readDone h w data
    else (d.hostError h).readLost h w

end Sys2Proof.Machine
end

