-- ==== Sys2Proof/Machine/StackRows.lean ====
section
/-! DEFINITION. Stacks at work: refresh and the Whistle, scrub, temperature, copies to spares, margining (R204 to R208, R221 to
R223). -/

namespace Sys2Proof.Machine

open Sys2Proof

/-! Refresh (R207, R208). -/

/-- Pseudo-channel `q` of stack `s`. -/
def Dev.pc (d : Dev) (s q : Nat) : PseudoChannel := Tab.getD (d.stack s).pcs q {}

/-- A stack and a pseudo-channel in use (R196). -/
def pcExists (s q : Nat) : Bool := s < 32 && q < 64

/-- One more obligation is owed: met at once, pending, or the Whistle's (R208). -/
def Dev.refreshOwed (d : Dev) (s q : Nat) (busy : Bool) : Dev :=
  if !busy then d.modPc s q (fun x => { x with owed := 0 })
  else if 8 ≤ (d.pc s q).owed then (d.modPc s q (fun x => { x with owed := 4 })).stackPerf s 5 1
  else d.modPc s q (fun x => { x with owed := x.owed + 1 })

/-- `REFRESH_DUE`: an obligation falls due; `idle` pending ones have been met since the last fell due, while no transfer was queued.
With no transfer queued every obligation is met; otherwise it stays pending, and a ninth becomes the Whistle, which revokes the transfer
in progress and leaves four (R208). -/
def refreshDue (d : Dev) (s q idle : Nat) (busy : Bool) : Dev :=
  let met := d.modPc s q (fun x => { x with owed := x.owed - idle })
  if d.power.inReset || !pcExists s q then d
  else met.refreshOwed s q busy

/-! Scrub (R204). -/

/-- `SCRUB`: the controller reads code word `cw` of pen `pen` and finds the bits of `pattern` inverted: a correctable word is rewritten
corrected, an uncorrectable one is poisoned, and a block dirty in the Fold is skipped (R204). -/
def scrub (d : Dev) (pen cw pattern : Nat) : Dev :=
  let s := stackOf pen (cw * 64)
  if d.power.inReset || 16 ≤ pen || 2 ^ 32 ≤ cw || (d.stack s).dirty (cw / 4) then d
  else
    let (words, d) := d.decodeWords pen [cw] [(cw, pattern)]
    words.foldl (fun d w => d.penWrite pen (w.1 * 64) w.2) d

/-- `ODECC_READ`: the on-die ECC count of stack `s` since the last read is added (R204). -/
def odeccRead (d : Dev) (s n : Nat) : Dev := if d.power.inReset || 32 ≤ s then d else d.stackErr s 3 n

/-! Temperature (R207). -/

/-- The band of a stack temperature: its refresh interval is 3.9 µs, 1.95 µs or 0.975 µs. -/
def bandOf (t : Int) : Nat := if t ≤ 85 then 0 else if t ≤ 95 then 1 else 2

/-- `STACK_TEMPERATURE_CHANGE`: stack `s` reads `t` °C; entering the band above 95 °C raises `STACK_HOT`. -/
def stackTemperatureChange (d : Dev) (s : Nat) (t : Int) : Dev :=
  if d.power.inReset || 32 ≤ s then d
  else
    let b := bandOf t
    let d' := d.modStack s (fun x => { x with band := b })
    if b = 2 && (d.stack s).band ≠ 2 then d'.notice 0x0013 (grazeOf (s / 2)) 63 (d.pastureOfPen (s / 2)) s else d'

/-! Sparing (R205, R206). -/

/-- The spare of its group takes index `q` of stack `s` (R197, R205, R206). -/
def Dev.mapSpare (d : Dev) (s q : Nat) : Dev :=
  let d := d.modPc s q (fun x => { x with ces := [], ues := [], sparing := false, spared := true })
  ((d.modStack s (fun x => { x with spares := Tab.put x.spares (q / 16) 1 })).stackErr s 5 1).softRepair (grazeOf (s / 2)) 6 (s * 64 + q)

/-- Record `r` is the running recovery that copies pseudo-channel `q` of stack `s`. -/
def copiesChannel (r : FaultRec) (s q : Nat) : Bool :=
  r.code == 0x0011 && recOrder r == 4 && r.die == grazeOf (s / 2) && fld r.info 0 8 == 64 * (s % 2) + q

/-- `PSEUDO_CHANNEL_COPY`: the copy of pseudo-channel `q` of stack `s` has ended, which its recovery made: the words that it found in
error (`errs`, by pen offset ÷ 64) are corrected, or poisoned on both sides, and the spare takes the index (R206, R428). -/
def pseudoChannelCopy (d : Dev) (s q : Nat) (errs : List (Nat × Nat)) : Dev :=
  match d.runningRec with
  | some r =>
    if copiesChannel r s q && (d.pc s q).sparing then
      let mine := errs.filter (fun e => e.1 < 2 ^ 32 && stackOf (s / 2) (e.1 * 64) == s && hashQ (e.1 / 4) % 64 == q)
      ((d.decodeWords (s / 2) (mine.map Prod.fst) mine).2.mapSpare s q).endRecovery r
    else d
  | none => d

/-! Margining (R221 to R223). -/

/-- A margin passes: timing sides at least 10 steps, voltage sides at least 12 (R223). -/
def marginPass (l : List Nat) : Bool := 10 ≤ l.getD 0 0 && 10 ≤ l.getD 1 0 && 12 ≤ l.getD 2 0 && 12 ≤ l.getD 3 0

/-- Every measured margin passes. -/
def marginsPass (m : Margins) (write : Bool) : Bool := marginPass m.rd && (!write || marginPass m.wr)

/-- The record of R222 for index `idx`. -/
def marginRecord (idx : Nat) (write : Bool) (m : Margins) : Nat :=
  let f (l : List Nat) (i : Nat) : Nat := min (l.getD i 0) 255
  let rd := (List.range 4).foldl (fun n i => n + f m.rd i * 2 ^ (8 * i)) 0
  let wr := (List.range 4).foldl (fun n i => n + f m.wr i * 2 ^ (32 + 8 * i)) 0
  rd + (if write then wr + m.wrWire % 2 ^ 6 * 2 ^ 70 + 2 ^ 77 else 0) + m.rdWire % 2 ^ 6 * 2 ^ 64 +
    (marginsPass m write).toNat * 2 ^ 76 + idx * 2 ^ 80

/-- The pseudo-channel of a pen that index `idx` names: itself, or the one that the spare serves (R221). -/
def Dev.marginTarget (d : Dev) (pen idx : Nat) : Option Nat :=
  if idx < 128 then some idx
  else
    let s := (idx - 128) / 4
    let g := (idx - 128) % 4
    ((List.range 16).find? (fun i => (d.pc (2 * pen + s) (16 * g + i)).spared)).map (fun i => 64 * s + 16 * g + i)

/-- Pseudo-channel `q` of pen `pen` is zero-filled, and the Fold lines of its blocks go (R203, R221). -/
def Dev.zeroChannel (d : Dev) (pen q : Nat) : Dev :=
  let s := 2 * pen + q / 64
  let d := { d with
    mem := d.mem.filter (fun c => !(c.1 / 2 ^ 38 == pen && hashQ (c.1 % 2 ^ 38 / 256) == q))
    poison := d.poison.filter (fun w => !(w / 2 ^ 32 == pen && hashQ (w % 2 ^ 32 / 4) == q)) }
  d.modStack s (fun x => { x with fold := Tab.mapV x.fold (fun _ l => l.filter (fun e => hashQ e.1 != q)) })

/-- Service of `DIAG_MARGIN` (R221, R388). -/
def svcDiagMargin (d : Dev) (c : Door) : Svc := do
  checkHeader c 16 [(0, [255, 255, 1]), (8, List.replicate 8 255)]
  pfOnly c
  notStopped d
  inRange c 0 1 0 15
  inRange c 1 1 0 135
  aligned64 c 8
  refuseIf (d.pastureOfPen (dp c 0 1) != 31) sConflict (pOff 0)
  handleRoom d c.func
  let (h, d) := d.newHandle c.func c.tag (.diagMargin (dp c 0 1) (dp c 1 1) (bit (dp c 2 1) 0) (dp c 8 8))
  pure ({ handle := h }, d)

/-- `DIAG_MARGIN` at the device. -/
def diagMargin (d : Dev) (c : Door) : Dev := d.serve c 0x0A02 svcDiagMargin

/-- A pseudo-channel of pen `pen` cannot be replaced in start-up: the pen goes offline (R205, R27). -/
def Dev.noSpareLeft (d : Dev) (pen info : Nat) : Dev :=
  (d.record 0x0012 (grazeOf pen) 63 dNotice 6 31 0 info).penOffline pen (nextSeq d.faults.lastSeq)

/-- The start-up margin of index `idx` of pen `pen`: the record is kept, a channel that fails is replaced at once, and a spare that
fails is not used: where it serves an index already, that channel has no spare left (R205, R223). -/
def Dev.startupMargin (d : Dev) (pen idx : Nat) (m : Margins) : Dev :=
  let d := { d with margins := Tab.put d.margins (pen * 136 + idx) (marginRecord idx true m) }
  if marginsPass m true then d
  else if idx < 128 then
    let s := 2 * pen + idx / 64
    let q := idx % 64
    let info := idx + 2 * 2 ^ 8
    if Tab.getD (d.stack s).spares (q / 16) 0 = 0 then (d.mapSpare s q).record 0x0011 (grazeOf pen) 63 dRecovered 4 31 0 info
    else d.noSpareLeft pen info
  else
    let s := 2 * pen + (idx - 128) / 4
    match d.marginTarget pen idx with
    | some q => d.noSpareLeft pen (q + 2 * 2 ^ 8)
    | none => d.modStack s (fun x => { x with spares := Tab.put x.spares ((idx - 128) % 4) 2 })

/-- The `DIAG_MARGIN` of an open handle measures index `idx` of pen `pen`. -/
def Dev.awaitsMargin (d : Dev) (pen idx : Nat) (h : Nat × Handle) : Bool :=
  match h.2.work with
  | .diagMargin p i _ _ => p == pen && i == idx && d.isOpen h.1
  | _ => false

/-- `MARGINING_DONE`: the margining of index `idx` of pen `pen` ends: at start-up, or for the `DIAG_MARGIN` that asked for it, whose
record goes to the host (R221 to R223, R388). -/
def marginingDone (d : Dev) (pen idx : Nat) (m : Margins) (hostOk : Bool) : Dev :=
  if 16 ≤ pen || 136 ≤ idx || d.power.inReset then d
  else if d.power.startingUp then (if d.power.step = 3 then d.startupMargin pen idx m else d)
  else match d.handles.find? (d.awaitsMargin pen idx) with
  | none => d
  | some (h, x) =>
    match x.work with
    | .diagMargin _ _ write buf =>
      let d := if write then match d.marginTarget pen idx with
          | some q => d.zeroChannel pen q
          | none => d
        else d
      (d.hostPut h buf (leBytes (marginRecord idx write m) 16) hostOk).finish h sOk [(marginsPass m write).toNat]
    | _ => d

end Sys2Proof.Machine
end

