-- ==== Sys2Proof/Machine/Tally.lean ====
section
/-! DEFINITION. The Tally die: measurement, the balance check, intervals, records and their signatures, the store, the metrology
port, legal parameters, events, pulse outputs and failure, and the mirror that the Ringmaster keeps (R400 to R418). -/

namespace Sys2Proof.Machine

open Sys2Proof

/-- `d` with the Tally changed by `f`. -/
def Dev.modTally (d : Dev) (f : Tally → Tally) : Dev := { d with tally := f d.tally }

/-- The Tally measures: it has AUX and is not FAILED (R415, R418). -/
def Tally.measures (t : Tally) : Bool := t.up && !t.failed

/-! Energy (R400 to R402, R410, R416). -/

/-- One unit of a legal energy register, 10 µWh, in nW × samples of 1/256,000 s. -/
def energyUnit : Nat := 9_216_000_000_000

/-- One kWh, in the same measure. -/
def kwh : Nat := 100_000_000 * energyUnit

/-- Starting current *I*_st of a domain, µA (R402). -/
def iStart (n : Nat) : Nat := if n < 16 then 20_000 else if n = 16 then 40_000 else 280_000

/-- Largest current *I*_max of a domain, µA (R402). -/
def iMax (n : Nat) : Nat := if n < 16 then 10_000_000 else if n = 16 then 20_000_000 else 140_000_000

/-- *I*_tr of the total, µA (R402). -/
def iTrTotal : Nat := 14_000_000

/-- Power that domain `n` registers at a current and voltage: nothing below its starting current (R401). -/
def registered (n : Nat) (amps : Int) (mv : Nat) : Nat := if amps.toNat < iStart n then 0 else amps.toNat * mv

/-- Domain `n` after one sample (R401, R410). -/
def Domain.sample (x : Domain) (n : Nat) (amps : Int) (mv : Nat) : Domain :=
  let e := registered n amps mv
  let t := x.rest + e
  { x with
    ereg := min (x.ereg + t / energyUnit) (2 ^ 64 - 1)
    rest := t % energyUnit
    overload := x.overload || decide (iMax n < amps.toNat)
    window := x.window + e
    live := x.live + amps.toNat * mv }

/-- A pulse output after one sample of its domain's energy `e` (R416). -/
def PulseOut.sample (o : PulseOut) (e : Nat) : PulseOut :=
  let a := o.acc + e * o.const
  { o with acc := a % kwh, wait := o.wait + a / kwh }

/-- A register is at its maximum, REG_FULL (R410). -/
def Domain.full (x : Domain) : Bool := x.ereg == 2 ^ 64 - 1

/-- The Tally after one sample. -/
def Tally.sample (t : Tally) (x : Sample) : Tally :=
  let amps n := (x.amps[n]?).getD 0
  { t with
    domains := t.domains.zipIdx.map (fun q => q.1.sample q.2 (amps q.2) x.mv)
    pulses := t.pulses.map (fun o => o.sample (registered o.domain (amps o.domain) x.mv))
    selfWindow := t.selfWindow + x.own
    windowAmps := t.windowAmps + (amps 17).toNat
    windowN := t.windowN + 1
    liveMv := t.liveMv + x.mv
    liveN := t.liveN + 1 }

/-- The Ringmaster raises a Tally event on the physical function, unless the package is in reset (R404, R410, R418, R421). -/
def Dev.tallyNotice (d : Dev) (code domain : Nat) : Dev := if d.power.inReset then d else d.notice code 19 63 31 domain

/-- `ENERGY_SAMPLE`: one sample of every domain (R401); a register that reaches its maximum raises `TL_REG_FULL` (R410). -/
def energySample (d : Dev) (x : Sample) : Dev :=
  if !d.tally.measures || x.amps.length ≠ 18 then d
  else
    let t := d.tally.sample x
    let new := (List.range 18).filter (fun n =>
      ((t.domains[n]?).map Domain.full).getD false && !((d.tally.domains[n]?).map Domain.full).getD false)
    new.foldl (fun d n => d.tallyNotice 0x0041 n) { d with tally := t }

/-! Records, events and the store (R407 to R409, R415). -/

/-- A signature by the Tally's key (R408). -/
def tallySign (body : List Byte) : List Byte := padTo (Config.ecdsa 1 body) 96

/-- The code that the model gives a kind of event. -/
def EventKind.code : EventKind → Nat
  | .supplyDip => 0
  | .mainLow => 1
  | .balance => 2
  | .seal => 3
  | .sync => 4
  | .auxReturn => 5
  | .selfFail => 6

/-- An event is recorded and signed; past 16,384 the oldest goes (R407, R415). -/
def Tally.event (t : Tally) (kind : EventKind) (domain : Option Nat) (v0 v1 : Nat) : Tally :=
  let sig := tallySign (Config.layout 0 [t.eventNext, t.clock, kind.code, domain.getD 31, v0, v1])
  let e : TallyEvent := { index := t.eventNext, time := t.clock, kind, domain, v0, v1, sig }
  { t with eventNext := t.eventNext + 1, events := (t.events ++ [e]).drop (t.events.length + 1 - 16384) }

/-- Domain `n`. -/
def Tally.domain (t : Tally) (n : Nat) : Domain := (t.domains[n]?).getD {}

/-- Calibration record number in use: the highest written (R403). -/
def Tally.calRec (t : Tally) : Nat := t.cals.length

/-- FLAGS of domain `n` for the interval in progress (R409). -/
def Tally.flags (t : Tally) (n : Nat) (early : Bool) : Nat :=
  (!t.clockSet).toNat + t.balance.toNat * 2 + t.sealSeen.toNat * 4 + early.toNat * 8 + (t.domain n).full.toNat * 16 +
    (t.domain n).overload.toNat * 32 + (t.auxMissing || (!t.auxCome && t.intervalSecs != 0)).toNat * 64

/-- Tokens or requests reported for domain `n`: a pen's own, and all pens' for domains 16 and 17 (R411). -/
def Tally.counts (t : Tally) (l : List Nat) (n : Nat) : Nat :=
  if !t.auxCome then 0 else if n < 16 then l.getD n 0 else l.foldl (· + ·) 0

/-- The 160 bytes of an energy record (R409). -/
def Tally.energyRecord (t : Tally) (type n flags seq tlen eint : Nat) (counts : Bool) : List Byte :=
  let c (v : Nat) : Nat := if counts then v else 0
  let body := leBytes type 1 ++ leBytes n 1 ++ leBytes flags 2 ++ leBytes seq 4 ++ leBytes t.clock 8 ++ leBytes tlen 4 ++
    leBytes t.auditCount 4 ++ leBytes (t.domain n).ereg 8 ++ leBytes eint 8 ++ leBytes (c (if t.auxCome then t.auxBeat else 0)) 8 ++
    leBytes (c (t.counts t.auxTokens n)) 8 ++ leBytes (c (t.counts t.auxRequests n)) 4 ++ leBytes t.calRec 2 ++ t.romId.take 2
  body ++ tallySign body

/-- A signed record of domain `n` enters the store, the mirror's next update, and the domain's numbering; of each domain the
latest 4,096 stay (R407, R409, R412). -/
def Tally.store (t : Tally) (n : Nat) (r : List Byte) : Tally :=
  let s := (t.domain n).seq
  { t with
    records := Tab.del (Tab.put t.records (n * 2 ^ 32 + s) r) (n * 2 ^ 32 + (s + (2 ^ 32 - 4096)) % 2 ^ 32)
    unsent := Tab.put t.unsent n r
    domains := modAt (fun x => { x with seq := (s + 1) % 2 ^ 32 }) t.domains n }

/-- Every register, its remainder and the clock are saved (R407). -/
def Tally.save (t : Tally) : Tally :=
  { t with
    savedClock := t.clock
    domains := t.domains.map (fun x => { x with saved := x.ereg, savedRest := x.rest }) }

/-! The balance check (R404). -/

/-- The energies of the window: the total's, and the sum of domains 0 to 16 and SELF. -/
def Tally.windowTotal (t : Tally) : Nat := (t.domain 17).window
def Tally.windowSum (t : Tally) : Nat := t.selfWindow + ((t.domains.take 17).map (·.window)).foldl (· + ·) 0

/-- The window's mean current reaches *I*_tr and it is a whole minute, so it is evaluated. -/
def Tally.windowCounts (t : Tally) : Bool := t.windowSecs == 60 && t.windowN != 0 && decide (iTrTotal * t.windowN ≤ t.windowAmps)

/-- |*E*_T − *E*_S| exceeds 0.003 × *E*_T. -/
def Tally.unbalanced (t : Tally) : Bool :=
  decide (3 * t.windowTotal < 1000 * (t.windowTotal - t.windowSum + (t.windowSum - t.windowTotal)))

/-- The next window begins. -/
def Tally.newWindow (t : Tally) : Tally :=
  { t with
    windowSecs := 0, windowN := 0, windowAmps := 0, selfWindow := 0
    domains := t.domains.map (fun x => { x with window := 0 }) }

/-- A 60 s window that ends now is checked (R404). -/
def Dev.windowEnd (d : Dev) : Dev :=
  let t := d.tally
  if !t.measures || t.clock % 60 ≠ 0 || t.windowSecs = 0 then d
  else if t.windowCounts && t.unbalanced then
    let t := t.event .balance none (t.windowTotal / energyUnit) (t.windowSum / energyUnit)
    { d with tally := { t with balance := true, balances := satAdd 16 t.balances 1 }.newWindow }.tallyNotice 0x0040 0
  else { d with tally := t.newWindow }

/-- `BALANCE_WINDOW_END` (R404). -/
def balanceWindowEnd (d : Dev) : Dev := d.windowEnd

/-! Intervals (R406, R409). -/

/-- The interval record of domain `n`, and the domain's next interval (R409). -/
def Tally.intervalRecord (t : Tally) (n : Nat) : Tally :=
  let x := t.domain n
  let early := t.intervalSecs != t.interval
  let t := t.store n (t.energyRecord 1 n (t.flags n early) x.seq t.intervalSecs (x.ereg - x.start) true)
  { t with domains := modAt (fun x => { x with start := x.ereg, overload := false }) t.domains n }

/-- An interval of the length in force, or of the length that waits, ends at the present clock time (R406). -/
def Tally.intervalDue (t : Tally) : Bool :=
  t.intervalSecs != 0 && (t.clock % t.interval == 0 || match t.intervalNext with
    | some n => t.clock % n == 0
    | none => false)

/-- The next interval begins, of the length that waits where its time has come (R406). -/
def Tally.newInterval (t : Tally) : Tally :=
  let take := match t.intervalNext with
    | some n => t.clock % n == 0
    | none => false
  { t with
    interval := if take then t.intervalNext.getD t.interval else t.interval
    intervalNext := if take then none else t.intervalNext
    intervalSecs := 0, balance := false, sealSeen := t.sealOpen, auxMissing := false, auxCome := false }

/-- `INTERVAL_END`: signed records of all 18 domains, a save, and the next interval (R404, R406, R407, R409). -/
def intervalEnd (d : Dev) : Dev :=
  if !d.tally.measures || !d.tally.intervalDue then d
  else d.windowEnd.modTally (fun t => ((List.range 18).foldl Tally.intervalRecord t).newInterval.save)

/-- `NV_SAVE`: the save of every 10 s (R407). -/
def nvSave (d : Dev) : Dev := if d.tally.up then d.modTally Tally.save else d

/-! The mirror (R412). -/

/-- The domains that function `f` sees (R412). -/
def Dev.sees (d : Dev) (f : Nat) : List Nat :=
  if f = 0 then List.range 18
  else match d.pastureOf f with
    | some p => ((Tab.get? d.pastures p).map (fun q => maskList q.pens 16)).getD []
    | none => []

/-- The audit log or its counter is full (R414). -/
def Tally.logFull (t : Tally) : Bool := t.auditCount == 2 ^ 32 - 1 || decide (65536 ≤ t.audits.length)

/-- `TL_M_STATUS` as an update brings it, with STATE `st` (R412). -/
def Tally.status (t : Tally) (variant st : Nat) : Nat :=
  st + variant % 16 * 2 ^ 4 + t.sealOpen.toNat * 2 ^ 8 + (!t.clockSet).toNat * 2 ^ 9 + t.balance.toNat * 2 ^ 10 +
    t.logFull.toNat * 2 ^ 11 + t.calRec * 2 ^ 16 + t.auditCount * 2 ^ 32

/-- `TL_M_POWER` of domain `n`: means over the mirror period, in mW and mV. -/
def Tally.livePower (t : Tally) (n : Nat) : Nat :=
  (t.domain n).live / t.liveN / 10 ^ 6 % 2 ^ 32 + t.liveMv / t.liveN % 2 ^ 32 * 2 ^ 32

/-- The mirror after an update with STATE `st`; `pw` gives each domain's power register (R412). -/
def Mirror.update (m : Mirror) (t : Tally) (variant st : Nat) (pw : Nat → Nat) : Mirror :=
  let tab (f : Nat → Nat) : Tab Nat := (List.range 18).map (fun n => (n, f n))
  { m with
    status := t.status variant st
    seq := (m.seq + 2) % 2 ^ 64
    time := t.clock
    id := leNat (t.romId.take 6) + t.romVersion * 2 ^ 48
    counts := t.dips + t.balances * 2 ^ 16 + t.rejects * 2 ^ 32
    energy := tab (fun n => (t.domain n).ereg)
    power := tab pw
    flags := tab (fun n => t.flags n false)
    slots := t.unsent.foldl (fun l q => Tab.put l q.1 q.2) m.slots }

/-- Domain `n` reads differently in `m` than in `o` (R412). -/
def Mirror.changed (m o : Mirror) (n : Nat) : Bool :=
  Tab.get? m.energy n != Tab.get? o.energy n || Tab.get? m.power n != Tab.get? o.power n ||
    Tab.get? m.flags n != Tab.get? o.flags n || Tab.get? m.slots n != Tab.get? o.slots n

/-- The Tally sends an update: the Ringmaster copies it and signals vector 3 of the functions whose domains change (R412). -/
def Dev.sendMirror (d : Dev) (st : Nat) (pw : Nat → Nat) : Dev :=
  let t := d.tally
  let sent := t.unsent
  let d := d.modTally (fun t =>
    { t with unsent := [], liveMv := 0, liveN := 0, domains := t.domains.map (fun x => { x with live := 0 }) })
  if d.power.inReset then d
  else
    let o := d.mirror
    let m := o.update t d.fuses.variant st pw
    let d := { d with mirror := m }
    ((Tab.keys d.funcs).filter (fun f => (d.func f).enabled &&
      (d.sees f).any (fun n => if o.irq then (Tab.get? sent n).isSome else m.changed o n))).foldl (fun d f => d.event f 6 3) d

/-- The mean powers of an update, free values where no sample has been taken since the last one (log entry 40). -/
def Dev.liveMeans (d : Dev) : (Nat → Nat) × Dev :=
  if d.tally.liveN = 0 then
    let (v, d) := d.draw (2 ^ 64)
    (fun _ => v, d)
  else (d.tally.livePower, d)

/-- `MIRROR_UPDATE` (R412). -/
def mirrorUpdate (d : Dev) : Dev :=
  if d.tally.measures then
    let q := d.liveMeans
    q.2.sendMirror 1 q.1
  else d

/-- `MIRROR_STALE`: three mirror periods without an update (R418). -/
def mirrorStale (d : Dev) : Dev :=
  if d.power.inReset || fld d.mirror.status 0 3 = 3 then d
  else { d with mirror := { d.mirror with status := setFld d.mirror.status 0 3 3 } }.tallyNotice 0x0043 0

/-! Inbound messages (R411). -/

/-- An inbound flit that is neither kind of message is discarded and counted. -/
def Tally.reject (t : Tally) : Tally := { t with rejects := satAdd 32 t.rejects 1 }

/-- `MIRROR_SET`: the mirror period, in ms. -/
def mirrorSet (d : Dev) (ms : Nat) : Dev :=
  if !d.tally.up then d
  else if [1, 10, 100, 1000].contains ms then d.modTally (fun t => { t with period := ms })
  else d.modTally Tally.reject

/-- `n` divided by pen within each pasture, in proportion to the pens' shares of its batch, equal ones where it has none; the parts of a
pasture add up to its count `n` (R411; log entry 145). -/
def Dev.byPen (d : Dev) (shares : List Nat) (n : Func → Nat) : List Nat :=
  (List.range 16).map (fun p =>
    match Tab.get? d.pastures (d.pastureOfPen p) with
    | none => 0
    | some q =>
      let pens := maskList q.pens 16
      let part (l : List Nat) : Nat := (l.map (fun i => shares.getD i 0)).sum
      let weight (l : List Nat) : Nat := if part pens = 0 then l.length else part l
      let upTo (l : List Nat) : Nat := n (d.func q.func) * weight l / weight pens
      upTo (pens.filter (· ≤ p)) - upTo (pens.filter (· < p)))

/-- `AUX_COUNTS`: the firmware sends the beat number, and the tokens written and requests opened since its last message by pen, for the
interval in progress; after the interval's timeout they are not taken. `shares` gives each pen's share of its pasture's batch (R411). -/
def auxCounts (d : Dev) (shares : List Nat) : Dev :=
  if !d.tally.up || d.tally.auxMissing || d.power.inReset || d.power.step < 2 then d
  else
    let tokens := d.byPen shares (fun f => Tab.getD f.srv 0 0 - f.auxTokens)
    let requests := d.byPen shares (fun f => Tab.getD f.srv 4 0 - f.auxRequests)
    { d.modTally (fun t => { t with auxBeat := d.beat.now, auxTokens := tokens, auxRequests := requests, auxCome := true }) with
      funcs := Tab.mapV d.funcs (fun _ f => { f with auxTokens := Tab.getD f.srv 0 0, auxRequests := Tab.getD f.srv 4 0 }) }

/-- `AUX_COUNTS_TIMEOUT`: none has come within 1 s of the interval end. -/
def auxCountsTimeout (d : Dev) : Dev :=
  if d.tally.up && !d.tally.auxCome then d.modTally (fun t => { t with auxMissing := true }) else d

/-! Power, the seal, supply events and failure (R405, R413, R415, R418). -/

/-- `TALLY_AUX_LOW_SAVE`: AUX falls below 3.0 V; the last save, and the Tally stops (R405, R407). -/
def tallyAuxLowSave (d : Dev) : Dev :=
  if d.tally.up then d.modTally (fun t => { t.save with up := false, dynAddr := none }) else d

/-- The Tally enters FAILED (R418). -/
def Dev.tallyFail (d : Dev) (code : Nat) (writable : Bool) : Dev :=
  let d := d.modTally (fun t => { (if writable then t.event .selfFail none code 0 else t) with failed := true })
  let q := d.liveMeans
  (q.2.sendMirror 2 q.1).tallyNotice 0x0042 0

/-- The gap record of domain `n` (R409). -/
def Tally.gapRecord (t : Tally) (n : Nat) : Tally :=
  t.store n (t.energyRecord 2 n (t.flags n false) (t.domain n).seq t.gap 0 false)

/-- The Tally as it powers up: the registers and the clock as saved, the clock UNSET, everything volatile at its start (R405,
R407). -/
def Tally.powerUp (t : Tally) : Tally :=
  { t with
    up := true, failed := false, clock := t.savedClock, clockSet := false
    domains := t.domains.map (fun x =>
      { x with ereg := x.saved, rest := x.savedRest, start := x.saved, overload := false, window := 0, live := 0 })
    selfWindow := 0, windowAmps := 0, windowN := 0, windowSecs := 0, liveMv := 0, liveN := 0
    intervalSecs := 0, balance := false, sealSeen := t.sealOpen, auxMissing := false, auxCome := false
    pulses := t.pulses.map (fun o => { o with acc := 0, wait := 0 })
    unsent := [], balances := 0, dips := 0 }

/-- `AUX_RETURN`: AUX is good again. The AUX domain starts afresh with its reset cause, `latch` telling whether the latch of the
AUX fail threshold has kept its state (R12, R465, R495); the Tally checks its ROM, and measurement resumes with gap records
(R405, R409, R415, R418). -/
def auxReturn (d : Dev) (latch romOk : Bool) : Dev :=
  let d := if d.power.auxGood then d
    else { d with
      aux := { ({} : Aux) with causes := 2 + (latch && d.aux.auxFailLatch).toNat * 2 ^ 6 }
      power := { d.power with auxGood := true, st := .standby }
      tap := {} }
  if d.tally.up then d
  else
    let d := d.modTally Tally.powerUp
    if romOk then
      d.modTally (fun t => { ((List.range 18).foldl Tally.gapRecord t).event .auxReturn none t.clock 0 with gap := 0 })
    else d.tallyFail 0 true

/-- `SEAL_CHANGE`: a debounced change of `TL_SEAL_N` (R413, R415). -/
def sealChange (d : Dev) (isOpen : Bool) : Dev :=
  if !d.tally.up || d.tally.sealOpen = isOpen then d
  else d.modTally (fun t => { t.event .seal none isOpen.toNat 0 with sealOpen := isOpen, sealSeen := t.sealSeen || isOpen })

/-- `TALLY_SUPPLY_DIP`: the supply rises above 43.0 V after falling below 42.0 V (R415). -/
def tallySupplyDip (d : Dev) (minMv durUs : Nat) : Dev :=
  if d.tally.measures then d.modTally (fun t => { t.event .supplyDip none minMv durUs with dips := satAdd 16 t.dips 1 }) else d

/-- `MAIN_LOW`: the supply returns above 38.0 V after `us` µs below it (R415). -/
def mainLow (d : Dev) (us : Nat) : Dev := if d.tally.measures then d.modTally (fun t => t.event .mainLow none us 0) else d

/-- One second of the Tally's clock (R405; log entry 41). -/
def Tally.second (t : Tally) : Tally :=
  { t with
    clock := (t.clock + 1) % 2 ^ 64
    syncWait := t.syncWait - 1
    intervalSecs := if t.failed then t.intervalSecs else t.intervalSecs + 1
    windowSecs := if t.failed then t.windowSecs else t.windowSecs + 1
    gap := if t.failed then t.gap + 1 else t.gap }

/-- `TALLY_SELF_CHECK`: the check of every second, with code 0 where it passes (R418). -/
def tallySelfCheck (d : Dev) (code : Nat) (writable : Bool) : Dev :=
  if !d.tally.up then d
  else
    let d := d.modTally Tally.second
    if code = 0 || d.tally.failed then d else d.tallyFail code writable

/-- `PULSE_EMIT`: an impulse that waits leaves on output `o` (R416). -/
def pulseEmit (d : Dev) (o : Nat) : Dev :=
  match d.tally.pulses[o]? with
  | some x =>
    if d.tally.measures && x.wait != 0 then
      (d.modTally (fun t => { t with pulses := modAt (fun y => { y with wait := y.wait - 1 }) t.pulses o })).emit (.pulse o)
    else d
  | none => d

/-! The metrology port (R413). -/

/-- Status bytes of R413. -/
def mOk : Nat := 0
def mSealClosed : Nat := 1
def mRange : Nat := 2
def mLocked : Nat := 3
def mLogFull : Nat := 4
def mNotFound : Nat := 5
def mBusy : Nat := 6

/-- The port answers: with BUSY while a record is being signed, a FAILED Tally only to READ_ID and READ_EVENT (R413, R418). -/
def Dev.metrology (d : Dev) (always busy : Bool) (f : Dev → Dev) : Dev :=
  if !d.tally.up || d.tally.failed && !always then d
  else if busy then d.emit (.metrology mBusy [] [])
  else f d

/-- `READ_ID`: variant, ROM version, CALREC, certificate length, AUDIT; and the ROM identity. -/
def readId (d : Dev) (busy : Bool) : Dev :=
  d.metrology true busy (fun d =>
    d.emit (.metrology mOk [d.fuses.variant, d.tally.romVersion, d.tally.calRec, d.tally.cert.length, d.tally.auditCount] d.tally.romId))

/-- The live record of domain `n` (R409). -/
def Tally.liveRecord (t : Tally) (n : Nat) : List Byte :=
  t.energyRecord 3 n (t.flags n false) 0xFFFF_FFFF t.intervalSecs ((t.domain n).ereg - (t.domain n).start) true

/-- `READ_LIVE`. -/
def readLive (d : Dev) (n : Nat) (busy : Bool) : Dev :=
  d.metrology false busy (fun d =>
    d.emit (if n < 18 then .metrology mOk [] (d.tally.liveRecord n) else .metrology mRange [] []))

/-- An answer with a record that may not be there. -/
def answer (r : Option (List Byte)) : Out :=
  match r with
  | some b => .metrology mOk [] b
  | none => .metrology mNotFound [] []

/-- `READ_INTERVAL`. -/
def readInterval (d : Dev) (n seq : Nat) (busy : Bool) : Dev :=
  d.metrology false busy (fun d =>
    d.emit (if n < 18 then answer (if seq < 2 ^ 32 then Tab.get? d.tally.records (n * 2 ^ 32 + seq) else none) else .metrology mRange [] []))

/-- `READ_AUDIT`. -/
def readAudit (d : Dev) (event : Nat) (busy : Bool) : Dev :=
  d.metrology false busy (fun d => d.emit (answer (Tab.get? d.tally.audits event)))

/-- `READ_EVENT`. -/
def readEvent (d : Dev) (index : Nat) (busy : Bool) : Dev :=
  d.metrology true busy (fun d => d.emit (match d.tally.events.find? (fun e => e.index == index) with
    | some e => .metrology mOk [e.index, e.time, e.kind.code, e.domain.getD 31, e.v0, e.v1] e.sig
    | none => .metrology mNotFound [] []))

/-- `READ_CERT`: at most 256 bytes from an offset. -/
def readCert (d : Dev) (off len : Nat) (busy : Bool) : Dev :=
  d.metrology false busy (fun d =>
    d.emit (if len ≤ 256 then .metrology mOk [] (slice d.tally.cert off len) else .metrology mRange [] []))

/-! Legal parameters (R414). -/

/-- An accepted change: the counter advances and its audit record is stored (R414). -/
def Tally.audit (t : Tally) (param old new : Nat) : Tally :=
  let n := t.auditCount + 1
  let body := leBytes n 4 ++ leBytes t.clock 8 ++ leBytes param 1 ++ leBytes (!t.clockSet).toNat 1 ++ leBytes 0 2 ++
    leBytes old 8 ++ leBytes new 8
  { t with auditCount := n, audits := Tab.put t.audits n (body ++ tallySign body) }

/-- A pulse output takes a parameter: its accumulator is cleared (R416). -/
def Tally.setPulse (t : Tally) (o : Nat) (f : PulseOut → PulseOut) : Tally :=
  { t with pulses := modAt (fun x => { f x with acc := 0 }) t.pulses o }

/-- Pulse output `o`. -/
def Tally.pulse (t : Tally) (o : Nat) : PulseOut := (t.pulses[o]?).getD ⟨0, 1, 0, 0⟩

/-- The clock takes a new time: a balance window that was running is no whole minute any more (R404, R414). -/
def Tally.setClock (t : Tally) (time : Nat) : Tally := { t.newWindow with clock := time, clockSet := true }

/-- SET_TIME under the table of R414: status and Tally. -/
def Tally.setTime (t : Tally) (time : Nat) : Nat × Tally :=
  if t.logFull then (mLogFull, t)
  else if 2 ^ 64 ≤ time then (mRange, t)
  else if !t.clockSet || t.sealOpen then (mOk, (t.audit 0x09 t.clock time).setClock time)
  else if time - t.clock + (t.clock - time) ≤ 2 && t.syncWait = 0 then
    (mOk, { (t.event .sync none t.clock time).setClock time with syncWait := 86400 })
  else (mSealClosed, t)

/-- SET_PARAM: status and Tally. `data` is the record of coefficients of a CAL (R403, R414). -/
def Tally.setParam (t : Tally) (variant param value : Nat) (data : List Byte) : Nat × Tally :=
  if param = 0x09 then t.setTime value
  else if t.logFull then (mLogFull, t)
  else if !t.sealOpen then (mSealClosed, t)
  else if param = 0x01 then
    if variant = 2 || 15 ≤ t.calRec then (mLocked, t)
    else (mOk, { t.audit 1 t.calRec (t.calRec + 1) with cals := t.cals ++ [data] })
  else if param = 0x02 then
    if [60, 300, 900, 3600].contains value then
      (mOk, { t.audit 2 (t.intervalNext.getD t.interval) value with intervalNext := some value })
    else (mRange, t)
  else if 3 ≤ param && param ≤ 5 then
    if value ≤ 17 then (mOk, (t.audit param (t.pulse (param - 3)).domain value).setPulse (param - 3) (fun x => { x with domain := value }))
    else (mRange, t)
  else if 6 ≤ param && param ≤ 8 then
    if 1 ≤ value && value ≤ 100000 then
      (mOk, (t.audit param (t.pulse (param - 6)).const value).setPulse (param - 6) (fun x => { x with const := value }))
    else (mRange, t)
  else (mRange, t)

/-- `SET_PARAM` (R414). -/
def setParam (d : Dev) (param value : Nat) (data : List Byte) (busy : Bool) : Dev :=
  d.metrology false busy (fun d =>
    let q := d.tally.setParam d.fuses.variant param value data
    { d with tally := q.2 }.emit (.metrology q.1 [] []))

/-- `SET_TIME` (R414). -/
def setTime (d : Dev) (time : Nat) (busy : Bool) : Dev :=
  d.metrology false busy (fun d =>
    let q := d.tally.setTime time
    { d with tally := q.2 }.emit (.metrology q.1 [] []))

end Sys2Proof.Machine
end

