-- ==== Sys2Proof/Machine/Ledger.lean ====
section
/-! DEFINITION. The Ledger, interrupts, counter snapshots and the writes of BAR0 (R12, R342, R358, R359, R367 to R369, R438, R471,
R492 to R505). -/

namespace Sys2Proof.Machine

open Sys2Proof

/-! The Ledger (R341, R367 to R369, R498). -/

/-- The 32 bytes of a Ledger entry (R368). -/
def ledgerEntry (c : Completion) (phase : Nat) : List Byte :=
  leBytes c.handle 4 ++ leBytes c.status 2 ++ leBytes (c.detail % 2 ^ 15 + phase % 2 * 2 ^ 15) 2 ++ leBytes c.beat 8 ++
    leBytes c.tag 4 ++ leBytes c.r0 4 ++ leBytes c.r1 4 ++ leBytes c.r2 4

/-- The waiting completions that have not been counted are counted in `RM_LEDGER_WAITS` (R369). -/
def Func.countWaits (x : Func) : Func :=
  { x with
    ledWaits := satAdd 32 x.ledWaits (x.waiting.filter (fun c => !c.waited)).length
    waiting := x.waiting.map (fun c => { c with waited := true }) }

/-- The producer advances past the entry just written (R367, R368). -/
def Func.advance (x : Func) : Func :=
  let t := (x.ledTail + 1) % x.ledSize
  { x with waiting := x.waiting.drop 1, ledTail := t, ledPhase := if t = 0 then 1 - x.ledPhase else x.ledPhase }

/-- `LEDGER_POST`: the function's first waiting completion goes into its Ledger where there is room; `ok` tells whether the write
succeeds (R341, R369). -/
def ledgerPost (d : Dev) (f : Nat) (ok : Bool) : Dev :=
  let x := d.func f
  match x.waiting with
  | [] => d
  | c :: _ =>
    if !d.power.portUp || !x.enabled || x.flr || x.room = 0 then d.modFunc f Func.countWaits
    else if ok then
      let d := d.emit (.hostWrite f (x.ledBase + 32 * x.ledTail) (ledgerEntry c x.ledPhase))
      let d := { d with handles := Tab.del d.handles c.handle }
      (d.modFunc f Func.advance).event f 0 0
    else
      let d := d.modFunc f (fun x => { x with ledLost := true })
      match d.pastureOf f with
      | some p => d.notice 0x004B 63 63 p 0
      | none =>
        let d := d.notice 0x004B 63 63 31 0
        if f = 0 then d else d.event f 1 1

/-- A write of LEDGER_ENABLE (R367, R498). -/
def Func.enable (x : Func) (on : Bool) : Func :=
  if !on then { x with ledOn := false, ledCfgErr := false }
  else if x.ledOn then x
  else if (List.range 11).any (fun i => x.ledSize == 2 ^ (i + 6)) then
    { x with ledOn := true, ledCfgErr := false, ledLost := false, ledTail := 0, ledHead := 0, ledPhase := 1 }
  else { x with ledCfgErr := true }

/-- A write of LEDGER_HEAD (R367, R498). -/
def Func.writeHead (x : Func) (v : Nat) : Func :=
  let n := x.ledSize
  let v := v % 2 ^ 16
  if !x.ledOn then x
  else if v < n && (x.ledTail + n - v) % n ≤ (x.ledTail + n - x.ledHead) % n then { x with ledHead := v }
  else { x with badHead := satAdd 32 x.badHead 1 }

/-! Which registers a function reaches (R338, R339, R471, R492, R493, R500). -/

/-- BAR0 of function `f` is decoded at offset `off` (R338, R339, R340, R471, R493). -/
def Dev.decoded (d : Dev) (f off : Nat) : Bool :=
  d.power.portUp && !d.power.inReset && (d.func f).enabled && !(d.func f).d3hot &&
    (if f = 0 then off < 2 ^ 25 else off < 2 ^ 20) &&
    (d.serving || off < 0x2000 || (f == 0 && 0x180_0000 ≤ off && d.power.window))

/-- Function `f` sees the block of die `die` (R340, R500). -/
def Dev.seesDie (d : Dev) (f die : Nat) : Bool :=
  die < 40 && die != 19 && (f == 0 || (isCompute die && match d.pastureOf f with
    | some p => d.pastureOfPen (penOfDie die) == p
    | none => false))

/-- Die `die` has performance group `g` (R500). -/
def dieGroup (die g : Nat) : Bool :=
  if g = 8 then die != 19
  else if g ≤ 11 then isGraze die
  else if g ≤ 13 then isGate die
  else g == 14 && isRace die

/-- The counter group exists and function `f` sees it (R500, R502). -/
def Dev.seesGroup (d : Dev) (f : Nat) : GroupAddr → Bool
  | .core die core g => d.seesDie f die && core < coresOf die && g < 8
  | .die die g => d.seesDie f die && 8 ≤ g && dieGroup die g
  | .srv => true

/-! Snapshots (R438, R501, R505). -/

/-- A performance group is changed by `p`. -/
def Dev.modPerf (d : Dev) (die core g : Nat) (p : Perf → Perf) : Dev :=
  { d with perf := Tab.put d.perf (perfKey die core g) (p (d.perfOf die core g)) }

/-- The SRV group's bank takes its counters (R315, R505). -/
def Func.snapSrv (x : Func) : Func := { x with srvSnap := x.srv, srvSnapSat := x.srvSat, srvValid := true }

/-- The group that `a` names takes a snapshot action of function `f`; the SRV group's is the same for both (R501, R505). -/
def Dev.snapGroup (d : Dev) (f : Nat) (a : GroupAddr) (p : Perf → Perf) : Dev :=
  match a with
  | .core die core g => d.modPerf die core g p
  | .die die g => d.modPerf die 63 g p
  | .srv => d.modFunc f Func.snapSrv

/-- BAR0 offset at which a function writes the group's control: the PF in the die blocks, a VF in its window (R500, R501). -/
def groupOff (f : Nat) : GroupAddr → Nat
  | .srv => 0x40F8
  | _ => if f = 0 then 0x40_0000 else 0x8_0000

/-- `SNAP` (R438). -/
def snap (d : Dev) (f : Nat) (a : GroupAddr) : Dev :=
  if d.decoded f (groupOff f a) && d.seesGroup f a then d.snapGroup f a (perfSnap d.beat.now) else d

/-- `SNAPCLR`; `wraps` gives the registers that wrap in the same cycle (R10, R438). -/
def snapclr (d : Dev) (f : Nat) (a : GroupAddr) (wraps : Nat) : Dev :=
  if d.decoded f (groupOff f a) && d.seesGroup f a then d.snapGroup f a (perfSnapClr d.beat.now (wraps % 2 ^ 8)) else d

/-! Interrupts (R342, R496, R499). -/

/-- A W1C write of `RM_EVENT`: bits of `clear` go, but those that an event sets in the same cycle stay (R10, R496). -/
def Func.clearEvents (x : Func) (clear same : Nat) : Func := { x with event := (x.event &&& (127 - clear % 128)) ||| same % 128 }

/-- Vector `v` of function `f` is unmasked: with its pending bit set, one message goes out (R342). -/
def Dev.unmask (d : Dev) (f v : Nat) : Dev :=
  match (d.func f).vecs[v]? with
  | none => d
  | some e =>
    let send := e.pend && (d.func f).msixOn && !(d.func f).flr
    let d := d.modFunc f (fun x => { x with vecs := modAt (fun y => { y with mask := false, pend := y.pend && !send }) x.vecs v })
    if send then d.emit (.msix f v) else d

/-- `MSIX_UNMASK`: the driver unmasks vector `v`; `on` tells that its driver has enabled MSI-X in configuration space first (log
entry 42). -/
def msixUnmask (d : Dev) (f v : Nat) (on : Bool) : Dev :=
  if d.decoded f 0x3000 then
    let d := if on then d.modFunc f (fun x => { x with msixOn := true }) else d
    d.unmask f v
  else d

/-! Register writes (R9, R11, R492). -/

/-- `old` with the bits of `mask` taken from `v`; of both, the bits `rw` that the register has (R11). -/
def merge (old v mask rw : Nat) : Nat := ((old &&& (2 ^ 64 - 1 - mask)) ||| (v &&& mask)) &&& rw

/-- A write of the MSI-X table: entry `e`, its second half when `hi` (R499). -/
def Dev.writeVector (d : Dev) (f e : Nat) (hi : Bool) (v mask : Nat) : Dev :=
  if !hi then
    d.modFunc f (fun x => { x with vecs := modAt (fun y => { y with addr := merge y.addr v mask (2 ^ 64 - 1) }) x.vecs e })
  else
    let d := d.modFunc f (fun x => { x with vecs := modAt (fun y => { y with data := merge y.data v mask (2 ^ 32 - 1) }) x.vecs e })
    if mask < 2 ^ 32 then d
    else if bit v 32 then d.modFunc f (fun x => { x with vecs := modAt (fun y => { y with mask := true }) x.vecs e })
    else d.unmask f e

/-- A write of a performance group's `SNAP_CTL` (R501). -/
def Dev.writeSnapCtl (d : Dev) (f : Nat) (a : GroupAddr) (v : Nat) : Dev :=
  if !d.seesGroup f a then d
  else
    let d := d.snapGroup f a (fun p => { p with irqEn := bit v 8 })
    if bit v 1 then d.snapGroup f a (perfSnapClr d.beat.now 0)
    else if bit v 0 then d.snapGroup f a (perfSnap d.beat.now)
    else d

/-- A write within the block of die `die` (R500 to R502). -/
def Dev.writeDie (d : Dev) (f die off v mask : Nat) : Dev :=
  if mask % 2 ^ 32 = 0 then d
  else if 0x1000 ≤ off && off < 0x1800 && off % 0x100 = 0x80 then d.writeSnapCtl f (.die die (8 + (off - 0x1000) / 0x100)) v
  else if 0x4_0000 ≤ off then
    let o := (off - 0x4_0000) % 0x1000
    if 0x800 ≤ o && o % 0x100 = 0x80 then d.writeSnapCtl f (.core die ((off - 0x4_0000) / 0x1000) ((o - 0x800) / 0x100)) v else d
  else d

/-- RATE of `TL_M_CTL` as a mirror period (R412). -/
def ratePeriod (r : Nat) : Nat := if r = 0 then 1 else if r = 1 then 10 else if r = 2 then 100 else 1000

/-- A write of `TL_M_CTL` by the physical function: the policy, and MIRROR_SET to the Tally (R412). -/
def Dev.writeTlCtl (d : Dev) (v : Nat) : Dev :=
  mirrorSet { d with mirror := { d.mirror with irq := bit v 2, rate := v % 4 } } (ratePeriod (v % 4))

/-- A write of the 64-bit register at `base`, of the bits in `mask`, which is one of its halves or both (R492). `same` gives the event
bits that set in the same cycle. -/
def Dev.writeReg (d : Dev) (f base v mask same : Nat) : Dev :=
  let low := mask % 2 ^ 32 != 0
  if base = 0x2000 then d.modFunc f (fun x => x.clearEvents (v &&& mask) same)
  else if base = 0x2400 then
    d.modFunc f (fun x => if x.ledOn then x else { x with ledBase := merge x.ledBase v mask (2 ^ 64 - 2 ^ 12) })
  else if base = 0x2408 then
    d.modFunc f (fun x => if x.ledOn then x else { x with ledSize := merge x.ledSize v mask (2 ^ 17 - 1) })
  else if base = 0x2410 then if low then d.modFunc f (fun x => x.enable (bit v 0)) else d
  else if base = 0x2420 then if low then d.modFunc f (fun x => x.writeHead v) else d
  else if base = 0x2800 then if low then d.modFunc f (fun x => { x with winDie := v % 64 }) else d
  else if 0x3000 ≤ base && base < 0x3040 then d.writeVector f ((base - 0x3000) / 16) (base % 16 == 8) v mask
  else if base = 0x40F8 then if low && v % 4 != 0 then d.modFunc f Func.snapSrv else d
  else if base = 0x5018 then if low && f == 0 then d.writeTlCtl v else d
  else if 0x8_0000 ≤ base && base < 0x10_0000 then d.writeDie f (d.func f).winDie (base - 0x8_0000) v mask
  else if 0x40_0000 ≤ base && base < 0x180_0000 then d.writeDie f ((base - 0x40_0000) / 0x8_0000) ((base - 0x40_0000) % 0x8_0000) v mask
  else if 0x180_0000 ≤ base && base < 0x200_0000 && d.power.window then
    let old := Mem.readLE d.power.windowMem (base - 0x180_0000) 8
    let m := Mem.writeLE d.power.windowMem (base - 0x180_0000) 8 (merge old v mask (2 ^ 64 - 1))
    { d with power := { d.power with windowMem := m } }
  else d

/-- The bits of the 8 bytes at `base` that a write covers by whole aligned 32-bit words (R492). -/
def writeMask (w : RegWrite) (base : Nat) : Nat :=
  let word (a : Nat) : Bool := w.off ≤ a && a + 4 ≤ w.off + w.size && (List.range 4).all (fun i => bit w.be (a - w.off + i))
  (if word base then 2 ^ 32 - 1 else 0) + (if word (base + 4) then (2 ^ 32 - 1) * 2 ^ 32 else 0)

/-- The value that a write brings to the 8 bytes at `base`. -/
def writeValue (w : RegWrite) (base : Nat) : Nat :=
  if w.off ≤ base then w.value / 2 ^ (8 * (base - w.off)) % 2 ^ 64 else w.value * 2 ^ (8 * (w.off - base)) % 2 ^ 64

/-- A write of a command slot: every enabled byte (R358, R492). -/
def Dev.writeSlot (d : Dev) (w : RegWrite) : Dev :=
  (List.range w.size).foldl (fun d i =>
    let a := w.off + i - 0x6000
    if bit w.be i && a % 512 < 256 && a / 512 < mailboxes w.func then
      d.modMailbox w.func (a / 512) (fun b => { b with slot := b.slot.set (a % 512) (BitVec.ofNat 8 (w.value / 2 ^ (8 * i))) })
    else d) d

/-- The doorbells that a write rings: whole words at a DOORBELL with the value 1 (R358, R492). -/
def writeDoorbells (w : RegWrite) : List Nat :=
  (List.range 16).filter (fun m =>
    let b := 0x6000 + 512 * m + 320
    writeMask w b % 2 ^ 32 != 0 && writeValue w b % 2 ^ 32 == 1)

/-- `REGISTER_WRITE`: a write of BAR0 (R492). -/
def registerWrite (d : Dev) (w : RegWrite) : Dev :=
  if !d.decoded w.func w.off || w.size = 0 then d
  else if 0x6000 ≤ w.off && w.off < 0x8000 then
    (writeDoorbells w).foldl (fun d m => d.ring w.func m) (d.writeSlot w)
  else
    let first := w.off / 8 * 8
    (List.range (w.size / 8 + 2)).foldl (fun d i =>
      let base := first + 8 * i
      let m := writeMask w base
      if m = 0 then d else d.writeReg w.func base (writeValue w base) m w.events) d

/-- `LEDGER_HEAD_WRITE` (R367). -/
def ledgerHeadWrite (d : Dev) (f v : Nat) : Dev := if d.decoded f 0x2420 then d.modFunc f (fun x => x.writeHead v) else d

/-- `LEDGER_ENABLE_WRITE` (R367). -/
def ledgerEnableWrite (d : Dev) (f v : Nat) : Dev := if d.decoded f 0x2410 then d.modFunc f (fun x => x.enable (bit v 0)) else d

/-- `RM_EVENT_CLEAR` (R496). -/
def rmEventClear (d : Dev) (f clear same : Nat) : Dev := if d.decoded f 0x2000 then d.modFunc f (fun x => x.clearEvents clear same) else d

/-- `TL_M_CTL_WRITE`: a virtual function's write is ignored (R412). -/
def tlMCtlWrite (d : Dev) (f v : Nat) : Dev := if d.decoded f 0x5018 && f == 0 then d.writeTlCtl v else d

/-- `BEAT_NOW_READ`: the read latches the tick of the same instant (R497). -/
def beatNowRead (d : Dev) (f tick : Nat) : Dev :=
  if d.decoded f 0x2010 then d.modFunc f (fun x => { x with tickNow := tick % 2 ^ 10 }) else d

end Sys2Proof.Machine
end

