-- ==== Sys2Proof/Machine/Startup.lean ====
section
/-! DEFINITION. The fence walk, package resets, reset release, start-up and the orderly halt (R347 to R350, R441 to R453, R456 to
R471). -/

namespace Sys2Proof.Machine

open Sys2Proof

/-! Result records (R452). -/

/-- A result record for item `f` in phase `phase`, with its RESULT and REPAIR (R452). -/
def resultRecord (f : ItemFail) (phase result repair beat slice : Nat) : Nat :=
  f.die % 64 + f.core % 64 * 2 ^ 6 + phase * 2 ^ 12 + f.item % 256 * 2 ^ 16 + f.index % 256 * 2 ^ 24 + f.addr % 2 ^ 32 * 2 ^ 32 +
    f.bit % 256 * 2 ^ 64 + result * 2 ^ 72 + repair * 2 ^ 74 + beat % 2 ^ 64 * 2 ^ 80 + slice % 2 ^ 16 * 2 ^ 144 + f.sig % 2 ^ 32 * 2 ^ 160

/-- The firmware keeps a record: of 4,096, the oldest in-service one goes first (R452). -/
def Dev.keepRecord (d : Dev) (r : Nat) : Dev :=
  let l := d.fence.recs
  let inService (x : Nat) : Bool := fld x 12 4 == 1
  let l := if l.length < 4096 then l else if l.any inService then dropFirst inService l else l.drop 1
  { d with fence := { d.fence with recs := l ++ [r] } }

/-- The slice number of an item (R442). -/
def sliceOf (f : ItemFail) : Nat := f.item % 256 * 256 + f.index % 256

/-- A record of item `f` enters the results. -/
def Dev.result (d : Dev) (f : ItemFail) (phase result repair : Nat) : Dev :=
  d.keepRecord (resultRecord f phase result repair d.beat.now (sliceOf f))

/-! Repairs (R447, R450). -/

/-- A word of bank `b` of core `k`, or of buffer quarter `b - 64`, moves to a spare word where one of the eight remains (R447). -/
def Dev.spareWord (d : Dev) (k b : Nat) : Nat × Dev :=
  let n := Tab.getD d.fence.words (k * 128 + b) 0
  if 8 ≤ n then (6, d)
  else
    let d := { d with fence := { d.fence with words := Tab.put d.fence.words (k * 128 + b) (n + 1) } }
    (1, (d.errAdd (k / 64) (k % 64) 22 1).softRepair (k / 64) 1 (k % 64 * 128 + b))

/-- A way of a Fold slice is disabled where fewer than four are (R447). `index` is that of ITEM 0x10. -/
def Dev.offWay (d : Dev) (die index : Nat) : Nat × Dev :=
  let s := 2 * penOfDie die + index / 128
  let sl := fld index 4 3
  if 4 ≤ Tab.getD (d.stack s).waysOff sl 0 then (6, d)
  else
    let d := d.modStack s (fun x => { x with waysOff := Tab.mod x.waysOff sl 0 (· + 1) })
    (2, (d.errAdd die 64 11 1).softRepair die 2 (index / 16))

/-- The spare array of core `k` failed its test, or a spare core did: it is not usable, unless it is in use already (R445, R447). -/
def Dev.spoilArray (d : Dev) (k : Nat) : Dev :=
  if Tab.getD d.fence.spareArr k 0 = 3 then d else { d with fence := { d.fence with spareArr := Tab.put d.fence.spareArr k 2 } }
def Dev.spoilCore (d : Dev) (die i : Nat) : Dev :=
  if Tab.getD d.fence.spareCore (die * 4 + i) 0 = 3 then d
  else { d with fence := { d.fence with spareCore := Tab.put d.fence.spareCore (die * 4 + i) 2 } }

/-- A spare core takes the place of core `k` (R18, R450). -/
def Dev.repairCore (d : Dev) (k : Nat) : Nat × Dev :=
  match d.spareCore (k / 64) with
  | some i => (4, d.mapCore k i)
  | none => (6, d)

/-- A failure of a destructive test is repaired where a spare covers it: REPAIR, and the package after it (R450). -/
def Dev.repairItem (d : Dev) (f : ItemFail) : Nat × Dev :=
  let k := coreKey f.die f.core
  if f.item = 0x01 then
    if Tab.getD d.fence.spareArr k 0 = 1 then (3, d.mapArray k f.index) else d.repairCore k
  else if f.item = 0x02 then (0, d.spoilArray k)
  else if f.item = 0x03 then
    let q := d.spareWord k (f.index / 4)
    if q.1 = 6 then d.repairCore k else q
  else if f.item = 0x04 then
    let q := d.spareWord k (64 + f.index)
    if q.1 = 6 then d.repairCore k else q
  else if f.item < 0x0D then d.repairCore k
  else if f.item = 0x0D then (0, d.spoilCore f.die f.index)
  else if f.item = 0x10 then d.offWay f.die f.index
  else (6, d)

/-- A die's item that no spare covers: a compute die's pen goes offline, and a service die's loss withdraws the package at the end of
start-up (R450). -/
def Dev.beyondRepair (d : Dev) (die : Nat) : Dev :=
  if isCompute die then d.penOffline (penOfDie die) 0 else { d with power := { d.power with lostInStartup := true } }

/-! Slices in service (R443 to R447). -/

/-- The slice is SKIPPED: its core runs an act, or its Pound holds entries (R443). -/
def Dev.sliceSkips (d : Dev) (k item : Nat) : Bool :=
  item != 0x10 && ((d.core k).run.isSome || (item == 0x08 && (d.core k).pound != {}))

/-- Key of an item among the retests. -/
def retestKey (k : Nat) (f : ItemFail) : Nat := k * 65536 + sliceOf f

/-- A confirmed failure in service (R446, R447): REPAIR, and the package after the repair or the `FENCE_FAIL`. -/
def Dev.confirmed (d : Dev) (f : ItemFail) : Dev :=
  let k := coreKey f.die f.core
  let d := if f.item = 0x10 then d else d.errAdd f.die f.core 20 1
  let (rep, d) :=
    if f.item = 0x02 then (0, d.spoilArray k)
    else if f.item = 0x03 then d.spareWord k (f.index / 4)
    else if f.item = 0x04 then d.spareWord k (64 + f.index)
    else if f.item = 0x10 then d.offWay f.die f.index
    else (0, d)
  let r := resultRecord f 1 1 rep d.beat.now (sliceOf f)
  let d := d.keepRecord r
  let order := if f.item = 0x01 then 1 else if f.item = 0x10 then 6 else 2
  if f.item = 0x02 || rep = 1 || rep = 2 then d
  else d.raise 0x0031 f.die (if f.item = 0x10 then 63 else f.core) (r % 2 ^ 80) order

/-- A failure of item `f` in service: the first waits for a retest, and the second at the same place is confirmed (R446). -/
def Dev.itemFails (d : Dev) (f : ItemFail) : Dev :=
  let key := retestKey (coreKey f.die f.core) f
  let again := match Tab.get? d.fence.retests key with
    | some t => !(f.item == 0x03 || f.item == 0x04 || f.item == 0x10) || (t.addr == f.addr && t.bit == f.bit)
    | none => false
  if again then { d with fence := { d.fence with retests := Tab.del d.fence.retests key } }.confirmed f
  else
    let d := d.result f 1 1 0
    let d := if f.item = 0x02 then d.spoilArray (coreKey f.die f.core) else d
    { d with fence := { d.fence with retests := Tab.put d.fence.retests key ⟨f.addr, f.bit⟩ } }

/-- Item `f` passes: a failure that waited for this retest was transient, and a spare array qualifies (R445, R446). -/
def Dev.itemPasses (d : Dev) (f : ItemFail) : Dev :=
  let k := coreKey f.die f.core
  let key := retestKey k f
  let d := match Tab.get? d.fence.retests key with
    | some _ =>
      let d := { d with fence := { d.fence with retests := Tab.del d.fence.retests key } }
      if f.item = 0x10 then d else d.errAdd f.die f.core 21 1
    | none => d
  if f.item = 0x02 && Tab.getD d.fence.spareArr k 0 ≠ 3 then { d with fence := { d.fence with spareArr := Tab.put d.fence.spareArr k 1 } }
  else d

/-- The lines of the tested way leave the Fold, written back (R445). -/
def Dev.flushWay (d : Dev) (die index : Nat) (blocks : List Nat) : Dev :=
  d.modStack (2 * penOfDie die + index / 128) (fun s =>
    { s with fold := Tab.mapV s.fold (fun key l => if key / 512 = fld index 4 3 then l.filter (fun e => !blocks.contains e.1) else l) })

/-- The slice entry of (die, core) for an item, once it is due (R41, R442). -/
def Dev.sliceEntry (d : Dev) (die core item index : Nat) : Option CalEntry :=
  d.cal.find? (fun e => e.action == 4 && e.dies == [die] && e.target == sliceTarget core item && e.arg % 2 ^ 16 == index + item * 2 ^ 8 &&
    d.entryDue e)

/-- The walk of a core goes on to its next item, unless the one just tested waits for its retest; after its last item the walk is
complete (R442, R444, R446). -/
def Dev.slicePassed (d : Dev) (die core item index : Nat) : Dev :=
  let k := coreKey die core
  if item = 0x10 || (Tab.get? d.fence.retests (retestKey k { die, core, item, index, addr := 0, bit := 0, sig := 0 })).isSome then d
  else { d with fence := { d.fence with
    passed := Tab.put d.fence.passed k (0x100 * item + index)
    walks := if item = 0x0C then Tab.put d.fence.walks k d.beat.now else d.fence.walks } }

/-- The slice of an item runs: SKIPPED, ABORTED, or tested (R443, R445 to R447). -/
def Dev.runSlice (d : Dev) (die core item index : Nat) (x : SliceFacts) : Dev :=
  let k := coreKey die core
  let f : ItemFail := { die, core, item, index, addr := x.addr, bit := x.bit, sig := x.sig }
  if d.sliceSkips k item then
    let d := d.result { f with addr := 0xFFFF_FFFF, bit := 0xFF, sig := 0 } 1 2 0
    if (d.core k).run.isSome then d else d.slicePassed die core item index
  else if x.cut && item ≠ 0x10 then d.result { f with addr := 0xFFFF_FFFF, bit := 0xFF, sig := 0 } 1 3 0
  else
    let d := if item = 0x10 then d.flushWay die index x.blocks else d
    let d := if item = 0x03 then x.bad.foldl (fun d a => d.raise 0x0002 die core (a % 2 ^ 23) 0) d else d
    let d := if x.fails then d.itemFails f else d.itemPasses f
    d.slicePassed die core item index

/-- The item is placed again: the slice was cut, or its core runs an act (R443). -/
def Dev.sliceAgain (d : Dev) (k item : Nat) (x : SliceFacts) : Bool := item != 0x10 && ((d.core k).run.isSome || x.cut)

/-- `SELF_TEST_SLICE`: the slice entry of (die, core) for an item fires, in its turn (R41, R443 to R447). An item that is to be placed again
keeps its entry for the group's next step; any other one's entry goes (R47; log entry 43). In a pen that no step group uses there is no
step for an entry to be relative to, and the firmware runs the item in its window (R21; log entry 43). -/
def selfTestSlice (d : Dev) (die core item index : Nat) (x : SliceFacts) : Dev :=
  let core := if item = 0x10 then 63 else core
  if d.power.st ≠ .run || !inServiceItem die core item index || bit d.faults.offline (penOfDie die) then d
  else match d.sliceEntry die core item index with
    | some e =>
      if !d.mayFire e then d
      else if d.inRecovery die then d.fireEntry e [die]
      else
        let d := if d.sliceAgain (coreKey die core) item x then d.fireEntry e [] else d.calDrop (· == e)
        d.runSlice die core item index x
    | none =>
      let k := sliceKey die core item index
      if (d.groupsOf (d.pastureOfDie die)).isEmpty && d.sliceWindow k d.beat.now && d.sliceInTurn die core item index then
        ({ d with fence := { d.fence with slices := Tab.put d.fence.slices k d.beat.now } }).runSlice die core item index x
      else d

/-- Spare cores of a die (R18). -/
def sparesOf (die : Nat) : Nat := if isShear die then 4 else if isGraze die then 2 else 0

/-- `SPARE_CORE_WALK`: a spare core that is not in use is tested (R445). -/
def spareCoreWalk (d : Dev) (die i : Nat) (x : SliceFacts) : Dev :=
  if (d.power.st ≠ .run && d.power.st ≠ .brace) || sparesOf die ≤ i || bit d.faults.offline (penOfDie die) ||
    Tab.getD d.fence.spareCore (die * 4 + i) 0 = 3 then d
  else if x.fails then
    (d.spoilCore die i).result { die, core := 63, item := 0x0D, index := i, addr := x.addr, bit := x.bit, sig := x.sig } 1 1 0
  else { d with fence := { d.fence with spareCore := Tab.put d.fence.spareCore (die * 4 + i) 1 } }

/-! Destructive tests (R448 to R451). -/

/-- Dies of start-up test group `g` (R448). -/
def groupDies (g : Nat) : List Nat :=
  if g = 0 then [16, 22, 23, 20]
  else if g = 1 then [17, 21]
  else
    let p := 2 * (g - 2)
    [grazeOf p, shearOf p, grazeOf (p + 1), shearOf (p + 1)]

/-- Increment of dies under test: test draw less idle draw of each, in W (R449). -/
def testIncrement (dies : List Nat) : Nat := (dies.map (fun v =>
  if isShear v then 156 else if isGraze v then 95 else if isGate v then 151 else if isRace v then 57 else 82)).sum

/-- The spares of compute die `die` that are not in use have passed their test (R445). -/
def Dev.passSpares (d : Dev) (die : Nat) : Dev :=
  let arr := (List.range (coresOf die)).foldl (fun t c =>
    if Tab.getD t (coreKey die c) 0 = 3 then t else Tab.put t (coreKey die c) 1) d.fence.spareArr
  let cor := (List.range (sparesOf die)).foldl (fun t i =>
    if Tab.getD t (die * 4 + i) 0 = 3 then t else Tab.put t (die * 4 + i) 1) d.fence.spareCore
  { d with fence := { d.fence with spareArr := arr, spareCore := cor } }

/-- The cores of compute die `die` are cleared, and on a Graze die the Fold lines of its stacks are invalidated (R448). -/
def Dev.clearDie (d : Dev) (die : Nat) : Dev :=
  if !isCompute die then d
  else
    let d := { d with
      spad := Mem.zero d.spad (die * 2 ^ 29) (2 ^ 29)
      abuf := Mem.zero d.abuf (die * 64 * 2 ^ 16) (64 * 2 ^ 16)
      cores := Tab.mapV d.cores (fun k c => if k / 64 = die then c.cleared else c) }
    if isGraze die then
      (d.modStack (2 * penOfDie die) (fun s => { s with fold := [] })).modStack (2 * penOfDie die + 1) (fun s => { s with fold := [] })
    else d

/-- One failure of a destructive test: its record, and whether no spare covers it. Spares that failed come first (R450). -/
def Dev.destructive (d : Dev) (phase : Nat) (fails : List ItemFail) : List (Nat × Nat) × Dev :=
  let isSpare (f : ItemFail) : Bool := f.item == 0x02 || f.item == 0x0D
  let l := fails.filter isSpare ++ fails.filter (fun f => !isSpare f)
  l.foldl (fun (a : List (Nat × Nat) × Dev) f =>
    let (rep, d) := a.2.repairItem f
    let r := resultRecord f phase 1 rep d.beat.now (sliceOf f)
    (a.1 ++ [(r, if rep = 6 then f.die else 40)], d)) ([], d)

/-- `STARTUP_TEST_GROUP`: the next group runs where the power allows; `avg` is the last millisecond's average input power, and
`fails` what the tests of its dies find (R448 to R450, R459). -/
def startupTestGroup (d : Dev) (avg : Nat) (fails : List ItemFail) : Dev :=
  let g := d.fence.group
  if d.power.st ≠ .starting || d.power.step ≠ 5 || 10 ≤ g || 2760 < avg + testIncrement (groupDies g) then d
  else
    let dies := groupDies g
    let d := dies.foldl (fun d x => (Dev.clearDie d x).passSpares x) d
    let (rs, d) := d.destructive 0 (fails.filter (fun f => dies.contains f.die))
    let d := rs.foldl (fun d r => Dev.keepRecord d r.1) d
    let d := ((rs.map Prod.snd).filter (· < 40)).eraseDups.foldl Dev.beyondRepair d
    { d with fence := { d.fence with group := g + 1 } }

/-! Fuses (R453). -/

/-- A fused repair of die `die` takes effect (R453). -/
def Dev.applyFuse (d : Dev) (die code : Nat) : Dev :=
  let kind := code / 2 ^ 32
  let u := code % 2 ^ 32
  if kind = 1 then { d with fence := { d.fence with words := Tab.mod d.fence.words (die * 64 * 128 + u) 0 (· + 1) } }
  else if kind = 2 then
    (d.modStack (2 * penOfDie die + u / 8) (fun x => { x with waysOff := Tab.mod x.waysOff (u % 8) 0 (· + 1) })).errAdd die 64 11 1
  else if kind = 3 then { d with fence := { d.fence with spareArr := Tab.put d.fence.spareArr (coreKey die (u / 64)) 3 } }
  else if kind = 4 then { d with fence := { d.fence with spareCore := Tab.put d.fence.spareCore (die * 4 + u % 4) 3 } }
  else if kind = 5 then
    d.modPort die (u % 8) (fun x => if bit u 3 then { x with inBad := x.inBad ++ [u / 16] } else { x with outBad := x.outBad ++ [u / 16] })
  else
    (d.modPc (u / 64) (u % 64) (fun x => { x with spared := true })).modStack (u / 64) (fun x => { x with spares := Tab.put x.spares (u % 64 / 16) 1 })

/-- Every fused repair takes effect, before the walk (R453, R469). -/
def Dev.applyFuses (d : Dev) : Dev := d.fuses.repairs.foldl (fun d q => q.2.foldl (fun d c => Dev.applyFuse d q.1 c) d) d

/-- Entries are burned for the soft repairs in force on the dies of mask `m`, in ascending die order, as far as 512 entries a die
reach: entries burned, repairs left, and the package (R453). -/
def Dev.burn (d : Dev) (m : Nat) : Nat × Nat × Dev :=
  (maskList m 40).foldl (fun (a : Nat × Nat × Dev) die =>
    let d := a.2.2
    let have_ := (Tab.getD d.fuses.repairs die []).length
    let soft := d.fence.repairs.filter (fun r => r.1 == die)
    let take := soft.take (512 - have_)
    let rest := soft.drop (512 - have_)
    let d := { d with
      fuses := { d.fuses with repairs := if take.isEmpty then d.fuses.repairs else Tab.mod d.fuses.repairs die [] (· ++ take.map Prod.snd) }
      fence := { d.fence with repairs := d.fence.repairs.filter (fun r => r.1 != die) ++ rest } }
    (a.1 + take.length, a.2.1 + rest.length, d)) (0, 0, d)

/-! Package resets (R457, R464 to R466). -/

/-- A package reset with cause code `cause`: the AUX domain, the Tally, the fuses and the test access port are kept, and everything
else is as it was before reset release (R12, R465, R466). The flags that hold the reset are kept with it. -/
def Dev.packageReset (d : Dev) (cause : Nat) : Dev :=
  { ({} : Dev) with
    draws := d.draws, out := d.out, fuses := { d.fuses with updating := false }, tally := d.tally, tap := d.tap
    aux := { d.aux with causes := 2 ^ cause }
    power := { ({} : Power) with
      st := if d.power.auxGood then .standby else .off
      inReset := true, auxGood := d.power.auxGood, tripHeld := d.power.tripHeld, ovHeld := d.power.ovHeld } }

/-- A cause of package reset arises: a package already in reset stays there. -/
def Dev.resetBy (d : Dev) (cause : Nat) : Dev := if d.power.inReset then d else d.packageReset cause

/-- `UV_RESET`: the main supply falls below 38.0 V (R457, R462, R485). -/
def uvReset (d : Dev) : Dev := { d with tap := d.tap.drop true }.resetBy 3

/-- `OV_RESET`: the main supply rises above 63.0 V, and the reset is held until it falls below 60.0 V (R457). -/
def ovReset (d : Dev) : Dev := { d with power := { d.power with ovHeld := true } }.resetBy 4

/-- `AUX_FAIL`: AUX falls below 3.00 V; the Tally saves its state (R457, R495). -/
def auxFail (d : Dev) : Dev :=
  if !d.power.auxGood then d
  else
    let d := tallyAuxLowSave { d with power := { d.power with auxGood := false }, aux := { d.aux with auxFailLatch := true } }
    let d := d.resetBy 6
    { d with power := { d.power with st := .off } }

/-- `ZT_RESET_N` has been low for `ns` ns: from 10 µs it resets, below 1 µs it does not, and between the two either may happen
(R465). -/
def ztResetN (d : Dev) (ns : Nat) : Dev :=
  if ns < 1000 then d
  else if 10000 ≤ ns then d.resetBy 2
  else
    let (v, d) := d.draw 2
    if v = 1 then d.resetBy 2 else d

/-- `THERMAL_TRIP`: a junction has been at or above 115 °C for 1 ms; the reset is held (R464). -/
def thermalTrip (d : Dev) : Dev := { d with power := { d.power with tripHeld := true } }.resetBy 5

/-- `RESET_RELEASE`: the four conditions hold; the straps are sampled and start-up begins (R467 to R469). -/
def resetRelease (d : Dev) (boot beat met : Bool) (i3c : Nat) : Dev :=
  if !d.power.inReset || !d.power.auxGood then d
  else { d with
    power := {}
    tap := (d.tap.drop false).powered
    aux := { d.aux with strapBoot := boot, strapBeat := beat, strapMet := met, strapI3c := i3c % 4 } }

/-- `REFCLK_DETECTED` (R482). -/
def refclkDetected (d : Dev) : Dev := if d.power.inReset then d else { d with power := { d.power with refclk := true } }

/-! Images (R347 to R350). -/

/-- The check of an image: 0, or the code of the first failure (R348, R494). -/
def bootCheck (f : Fuses) (img : FwImage) : Nat :=
  if f.keyHashes[img.key]? ≠ some img.keyHash then 1
  else if bit f.revoked img.key then 2
  else if !img.sigOk then 3
  else if img.digest ≠ img.actual then 4
  else if img.svn < f.minSvn then 5
  else if 2 ^ 23 < img.len then 6
  else 0

/-- Bexper starts from an accepted image, of source 0 or 1 for a flash slot and 2 for host push: step 2 begins, `RM_FW_ISSUE` is
filled, the MCTP endpoint answers, fused repairs apply, and the Tally is sent its mirror period (R345, R412, R453, R469, R494). -/
def Dev.startImage (d : Dev) (img : FwImage) (source : Nat) (tried : Bool) : Dev :=
  let d := { d with
    power := { d.power with
      step := 2, code := 0x00, window := false, windowMem := [], portUp := true, mctpUp := true
      fwMinor := 4, fwMajor := 2, fwBuild := img.build % 2 ^ 16, fwSource := source, fwDigest := img.digest, tried := tried }
    fuses := { d.fuses with ranSlot := source, runSvn := img.svn, commitSvn := img.commitSvn, trySlot := 2 } }
  mirrorSet d.applyFuses (ratePeriod d.mirror.rate)

/-- The first image of `slots` that the boot ROM accepts starts; where none is, start-up halts (R348, R470). A slot that holds no
image names no failing check. -/
def Dev.bootFlash (d : Dev) (flash : List (Option FwImage)) (mark : Nat) : List Nat → Dev
  | [] => { d with power := { d.power with code := 0x10, portUp := true }, fuses := { d.fuses with trySlot := 2 } }
  | s :: rest =>
    match (flash[s]?).join with
    | none => d.bootFlash flash mark rest
    | some img =>
      let r := bootCheck d.fuses img
      if r = 0 then d.startImage img s (s == mark)
      else ({ d with power := { d.power with reject := r } } : Dev).bootFlash flash mark rest

/-- `BOOT_DOORBELL`: the image in the boot window is checked (R349, R494). `img` is what the boot ROM reads in its header. -/
def bootDoorbell (d : Dev) (v : Nat) (img : FwImage) : Dev :=
  if !d.decoded 0 0x020 || !d.power.window || v % 2 ^ 32 ≠ 1 then d
  else
    let r := bootCheck d.fuses img
    if r = 0 then d.startImage img 2 false else { d with power := { d.power with reject := r } }

/-! Start-up (R469, R470). -/

/-- Step 7: ready, or withdrawn where a service die or port was lost; the new slot becomes active, and a committed SVN is burned
(R347, R350, R450, R470). -/
def Dev.ready (d : Dev) : Dev :=
  let (v, d) := d.draw (d.power.ceiling - 5)
  let d := { d with
    power := { d.power with
      step := 7, ready := true, freq := 6 + v, code := 0x01
      st := if d.power.st = PkgState.brace then PkgState.brace else PkgState.run
      braceFrom := .run }
    fuses := { d.fuses with
      slot := if d.power.tried then d.fuses.ranSlot else d.fuses.slot
      minSvn := if d.fuses.commitSvn then max d.fuses.minSvn (min d.fuses.runSvn 32) else d.fuses.minSvn } }
  if d.power.lostInStartup then
    let d := d.withdraw d.power.lostSeq
    { d with power := { d.power with code := 0x14 } }
  else d

/-- Step 1 ends: the images of the flash are tried, or the host push is awaited (R348, R349, R441). -/
def Dev.step1 (d : Dev) (x : StartFacts) : Dev :=
  let d := x.rmBad.foldl (fun d b =>
    Dev.result d { die := 18, core := 63, item := 0x30, index := b, addr := 0xFFFF_FFFF, bit := 0xFF } 0 1 6) d
  let d := if x.rmBad.isEmpty then d else { d with power := { d.power with lostInStartup := true } }
  if d.aux.strapBoot then { d with power := { d.power with code := 0x11, window := true, portUp := true } }
  else
    let mark := d.fuses.trySlot
    d.bootFlash x.flash mark (if mark < 2 then [mark, 1 - mark] else [d.fuses.slot, 1 - d.fuses.slot])

/-- Decoded ranges of a port's devices, one each, as far as 8 TiB reach (R218). -/
def tierRanges : List Nat → Nat → List Nat
  | [], _ => []
  | n :: rest, room => min n room :: tierRanges rest (room - min n room)

/-- Tier-2 port `i` has trained and been enumerated (R217, R218): a width or rate that is not supported leaves it down, and capacity
beyond 8 TiB is left unused. -/
def Dev.tierTrained (d : Dev) (i : Nat) (x : TierFacts) : Dev :=
  if !x.trained then d
  else if !(x.width == 16 || x.width == 8) || !(x.rate == 64 || x.rate == 32) then d.notice 0x0039 20 63 31 i
  else
    let rs := tierRanges (x.devices.take 8) (2 ^ 43)
    let d := { d with tier := modAt (fun _ => { up := true, width := x.width, rate := x.rate, ranges := rs, cap := rs.sum }) d.tier i }
    if 2 ^ 43 < (x.devices.take 8).sum then d.notice 0x003A 20 63 31 i else d

/-- `STARTUP_STEP_DONE`: the running step ends, and the next begins or start-up stops (R469, R470). -/
def startupStepDone (d : Dev) (x : StartFacts) : Dev :=
  let p := d.power
  let next (d : Dev) : Dev := { d with power := { d.power with step := d.power.step + 1 } }
  if !p.startingUp || p.inReset || p.code ≠ 0 then d
  else if p.step = 1 then if p.refclk then d.step1 x else d
  else if p.step = 2 then
    if d.aux.strapMet && d.fuses.variant == 1 then { d with power := { p with code := 0x12 } } else next d
  else if p.step = 3 then
    next ((x.stacksBad.filter (· < 32)).foldl (fun d s => Dev.penOffline d (s / 2) 0) { d with mem := [], poison := [] })
  else if p.step = 4 then next (d.midwayTrained x.midway)
  else if p.step = 5 then if d.fence.group = 10 then next d else d
  else if p.step = 6 then
    ([0, 1].foldl (fun d i => Dev.tierTrained d i (x.tier.getD i {})) { d with tier := [{}, {}] }).ready
  else d

/-! The orderly halt (R461). -/

/-- `ORDERLY_HALT`: the tick 0 after the dip timer's 10 ms (R461, R470). -/
def orderlyHalt (d : Dev) : Dev :=
  if d.power.st ≠ .brace || !d.power.haltDue then d
  else
    let d := d.abortActs (fun _ _ => true) .withdrawal
    let d := (d.groups.filter (fun q => q.2.exists_ && q.2.spans && !q.2.left)).foldl (fun d q => d.leaveNotice q.1) d
    let d := (Tab.keys d.handles).foldl (fun d h => d.finish h sHalted []) d
    { d with
      reqs := [], txns := [], cal := []
      pastures := Tab.mapV d.pastures (fun _ p => { p with images := Tab.mapV p.images (fun _ i => { i with goldenDue := false }) })
      groups := Tab.mapV d.groups (fun _ g => { g with stopped := true, running := false, waiting := [], due := false, left := g.left || g.spans })
      power := { d.power with st := .halted, code := 0x13, ready := false, freq := 0, dip := false, haltDue := false } }

end Sys2Proof.Machine
end

