-- ==== Sys2Proof/Machine/Diag.lean ====
section
/-! DEFINITION. Diagnostic, metering and fault commands, and an unknown opcode (R361, R388, R412, R420, R423, R444, R451, R452). -/

namespace Sys2Proof.Machine

open Sys2Proof

/-- Parameter bytes of the commands that name a host buffer at P[15:8] and its length at P[19:16], after the bytes `l`. -/
def bufUsed (l : List Nat) : Used := [(0, l), (8, List.replicate 12 255)]

/-- A command that ends at once: its data leaves for the host buffer, and the handle completes with `OK` and `res`. -/
def Dev.answerBuf (d : Dev) (c : Door) (data : List Byte) (res : List Nat) : Svc := do
  handleRoom d c.func
  let (h, d) := d.newHandle c.func c.tag .immediate
  pure ({ handle := h }, ((if data.isEmpty then d else d.hostPut h (dp c 8 8) data c.hostOk).finish h sOk res))

/-- The items that fit in `n` bytes, one after another. -/
def fitting (n : Nat) : List (List Byte) → List (List Byte)
  | [] => []
  | x :: xs => if x.length ≤ n then x :: fitting (n - x.length) xs else []

/-- Items for a host buffer of the command's length: a buffer too short for the first is refused (R388). -/
def Dev.answerItems (d : Dev) (c : Door) (l : List (List Byte)) (bytes : Bool) : Svc := do
  let n := dp c 16 4
  refuseIf (match l.head? with
    | some x => n < x.length
    | none => false) sInvalid (pOff 16)
  let out := fitting n l
  d.answerBuf c out.flatten [if bytes then out.flatten.length else out.length]

/-! The Calendar (R40, R388). -/

/-- Service of `CAL_QUERY`. -/
def svcCalQuery (d : Dev) (c : Door) : Svc := do
  checkHeader c 16 [(0, [255, 255, 255, 255]), (8, List.replicate 8 255)]
  pfOnly c
  inRange c 0 1 0 39
  inRange c 2 2 1 256
  refuseIf (256 < dp c 1 1 + dp c 2 2) sInvalid (pOff 2)
  aligned64 c 8
  let l := (((d.dieCal (dp c 0 1)).map CalEntry.bits).drop (dp c 1 1)).take (dp c 2 2)
  let l := l ++ List.replicate (dp c 2 2 - l.length) 0
  d.answerBuf c (l.flatMap (fun e => leBytes e 16)) [(l.filter (· != 0)).length]

/-- `CAL_QUERY` at the device. -/
def calQuery (d : Dev) (c : Door) : Dev := d.serve c 0x0902 svcCalQuery

/-! `DIAG_BIST` (R451). -/

/-- Service of `DIAG_BIST`. -/
def svcDiagBist (d : Dev) (c : Door) : Svc := do
  checkHeader c 24 (bufUsed [255, 255, 255, 255, 255, 255])
  pfOnly c
  notStopped d
  let m := dp c 0 5
  refuseIf ((maskList m 40).any (fun x => !isCompute x)) sInvalid (pOff 0)
  inRange c 5 1 0 2
  aligned64 c 8
  refuseIf ((maskList m 40).any (fun x => d.pastureOfDie x != 31)) sConflict (pOff 0)
  handleRoom d c.func
  let (h, d) := d.newHandle c.func c.tag (.diagBist m (dp c 5 1) (dp c 8 8) (dp c 16 4))
  pure ({ handle := h }, d)

/-- `DIAG_BIST` at the device. -/
def diagBist (d : Dev) (c : Door) : Dev := d.serve c 0x0A01 svcDiagBist

/-- Items that a level tests on a compute die (R441, R451): its in-service items, and at FULL the start-up items too. -/
def itemsTested (die level : Nat) : Nat :=
  let cores := if isShear die then 64 * 317 + 4 else 32 * 293 + 2 + 256
  if level = 1 then cores + (if isShear die then 1 else 3) else cores

/-- The bit of RES2 for a compute die (R451). -/
def bistBit (die : Nat) : Nat := if isGraze die then penOfDie die else 16 + penOfDie die

/-- The tests of a `DIAG_BIST` end with the failures `fails`: repairs, records, cleared dies, pens offline, and the completion
(R450, R451). -/
def Dev.bistEnd (d : Dev) (h m level buf len : Nat) (fails : List ItemFail) (ok : Bool) : Dev :=
  let dies := maskList m 40
  let fails := fails.filter (fun f => dies.contains f.die)
  let bad := (fails.map (·.die)).eraseDups
  let d := dies.foldl (fun d x => Dev.passSpares d x) d
  let (rs, d) := d.destructive 2 fails
  let d := if level = 1 then dies.foldl Dev.clearDie d else d
  let lost := ((rs.map Prod.snd).filter (· < 40)).eraseDups
  let d := lost.foldl Dev.beyondRepair d
  let recs := dies.flatMap (fun x =>
    let s : ItemFail := { die := x, core := 63, item := 0xFF, index := 0, addr := itemsTested x level, bit := 0xFF }
    resultRecord s 2 (bad.contains x).toNat 0 d.beat.now 0 :: (rs.map Prod.fst).filter (fun r => fld r 0 6 == x))
  let out := recs.take (len / 32)
  let d := if out.isEmpty then d else d.hostPut h buf (out.flatMap (fun r => leBytes r 32)) ok
  d.finish h sOk [out.length, recs.length - out.length, maskOf (lost.map bistBit)]

/-- Every group of the dies of mask `m` may start with the input power averaging `avg` W at most, and not in BRACE (R449, R451, R459). -/
def Dev.bistFits (d : Dev) (m avg : Nat) : Bool :=
  d.power.st != .brace && (List.range 10).all (fun g =>
    let l := (Sys2Proof.Machine.groupDies g).filter (bit m)
    l.isEmpty || decide (8 * (avg + testIncrement l) ≤ d.power.cap))

/-- `BIST_DONE`: what the `DIAG_BIST` of handle `h` was to do has ended; `avg` is the largest millisecond's average with which one of its
groups has started, and the command goes on while a group waits (R449, R451, R453). -/
def bistDone (d : Dev) (h avg : Nat) (fails : List ItemFail) (ok : Bool) : Dev :=
  match d.workOf h with
  | some (.diagBist m level buf len) =>
    if level = 2 then
      let q := d.burn m
      q.2.2.finish h sOk [q.1, q.2.1]
    else if level = 1 && !d.bistFits m avg then d
    else d.bistEnd h m level buf len fails ok
  | _ => d

/-! `DIAG_DUMP` (R141, R223, R423, R444, R452). -/

/-- The 32 bytes of a fault record (R420). -/
def FaultRec.bytes (r : FaultRec) : List Byte :=
  leBytes (r.seq % 2 ^ 32 + r.code % 2 ^ 16 * 2 ^ 32 + r.die % 64 * 2 ^ 48 + r.core % 64 * 2 ^ 54 + r.disp % 16 * 2 ^ 60 +
    r.unit % 8 * 2 ^ 64 + r.escto % 8 * 2 ^ 67 + r.pasture % 32 * 2 ^ 70 + r.acked.toNat * 2 ^ 75 + r.beat % 2 ^ 64 * 2 ^ 80 +
    r.link % 2 ^ 32 * 2 ^ 144 + r.info % 2 ^ 80 * 2 ^ 176) 32

/-- The beat at which each core's last walk completed, by die and core, all ones where none has (R444; log entry 44). -/
def Dev.walkAges (d : Dev) : List (List Byte) :=
  (List.range 40).flatMap (fun die => (List.range (coresOf die)).map (fun c =>
    leBytes (Tab.getD d.fence.walks (coreKey die c) (2 ^ 64 - 1)) 8))

/-- The monitors of pasture `p`: number and cumulative counts (R141; log entry 44). -/
def Dev.monitorItems (d : Dev) (p : Nat) : List (List Byte) :=
  (d.mons.filter (fun q => q.1 / 1024 == p)).map (fun q => leBytes (q.1 % 1024) 4 ++ q.2.cum.flatMap (fun n => leBytes n 4) ++ leBytes 0 4)

/-- What a `DIAG_DUMP` of `kind` writes. -/
def Dev.dumpItems (d : Dev) (kind p : Nat) : List (List Byte) :=
  if kind = 0 then d.margins.map (fun q => leBytes q.2 16)
  else if kind = 1 then d.monitorItems p
  else if kind = 2 then d.faults.log.map FaultRec.bytes
  else d.fence.recs.map (fun r => leBytes r 32) ++ d.walkAges

/-- Service of `DIAG_DUMP`. -/
def svcDiagDump (d : Dev) (c : Door) : Svc := do
  checkHeader c 24 (bufUsed [255])
  refuseIf (dp c 0 1 != 1 && c.func != 0) sDenied (pOff 0)
  let p ← if dp c 0 1 = 1 then ownPasture d c else .ok 31
  inRange c 0 1 0 3
  aligned64 c 8
  d.answerItems c (d.dumpItems (dp c 0 1) p) true

/-- `DIAG_DUMP` at the device. -/
def diagDump (d : Dev) (c : Door) : Dev := d.serve c 0x0A03 svcDiagDump

/-! The Tally (R412). -/

/-- The 192 bytes of a domain: its block and its record slot (R412). -/
def Mirror.domainBytes (m : Mirror) (n : Nat) : List Byte :=
  leBytes (Tab.getD m.energy n 0) 8 ++ leBytes (Tab.getD m.power n 0) 8 ++ leBytes (Tab.getD m.flags n 0) 8 ++ leBytes 0 8 ++
    padTo (Tab.getD m.slots n []) 160

/-- Service of `TALLY_READ`. -/
def svcTallyRead (d : Dev) (c : Door) : Svc := do
  checkHeader c 24 (bufUsed [])
  aligned64 c 8
  let m := d.mirror
  let data := leBytes m.status 8 ++ leBytes m.seq 8 ++ leBytes m.time 8 ++ leBytes m.id 8 ++ leBytes 0 32 ++
    (d.sees c.func).flatMap m.domainBytes
  refuseIf (dp c 16 4 < data.length) sInvalid (pOff 16)
  d.answerBuf c data []

/-- `TALLY_READ` at the device. -/
def tallyRead (d : Dev) (c : Door) : Dev := d.serve c 0x0B01 svcTallyRead

/-- Service of `TALLY_LOG_READ`. -/
def svcTallyLogRead (d : Dev) (c : Door) : Svc := do
  checkHeader c 24 (bufUsed (List.replicate 8 255))
  pfOnly c
  aligned64 c 8
  d.answerItems c ((d.tally.audits.filter (fun q => dp c 0 8 ≤ q.1)).map Prod.snd) false

/-- `TALLY_LOG_READ` at the device. -/
def tallyLogRead (d : Dev) (c : Door) : Dev := d.serve c 0x0B02 svcTallyLogRead

/-! The fault log (R388, R423). -/

/-- Function `f` sees record `r`: every record for the PF, and its pasture's for a VF (R423). -/
def Dev.seesFault (d : Dev) (f : Nat) (r : FaultRec) : Bool := f == 0 || d.pastureOf f == some r.pasture

/-- Service of `FAULT_QUERY`. -/
def svcFaultQuery (d : Dev) (c : Door) : Svc := do
  checkHeader c 24 (bufUsed (List.replicate 4 255))
  aligned64 c 8
  d.answerItems c ((d.faults.log.filter (fun r => dp c 0 4 ≤ r.seq && d.seesFault c.func r)).map FaultRec.bytes) false

/-- `FAULT_QUERY` at the device. -/
def faultQuery (d : Dev) (c : Door) : Dev := d.serve c 0x0C01 svcFaultQuery

/-- Service of `FAULT_ACK`: a record that has been overwritten leaves nothing to mark. -/
def svcFaultAck (d : Dev) (c : Door) : Svc := do
  checkHeader c 8 [(0, List.replicate 4 255)]
  let q := dp c 0 4
  refuseIf (q == 0 || d.faults.lastSeq < q) sInvalid (pOff 0)
  refuseIf (match d.faultOf q with
    | some r => !d.seesFault c.func r
    | none => false) sInvalid (pOff 0)
  pure ({}, d.modFault q (fun r => { r with acked := true }))

/-- `FAULT_ACK` at the device. -/
def faultAck (d : Dev) (c : Door) : Dev := d.serve c 0x0C02 svcFaultAck

/-! An unknown opcode (R4, R361). -/

/-- The opcodes of Bexper 2.4 (R378). -/
def knownOpcodes : List Nat :=
  [0x0101, 0x0102, 0x0103, 0x0104, 0x0105, 0x0201, 0x0202, 0x0203, 0x0301, 0x0302, 0x0303, 0x0304, 0x0401, 0x0402, 0x0501, 0x0502,
   0x0503, 0x0504, 0x0505, 0x0506, 0x0507] ++
  [0x0601, 0x0602, 0x0603, 0x0604, 0x0701, 0x0702, 0x0801, 0x0802, 0x0803, 0x0901, 0x0902, 0x0A01, 0x0A02, 0x0A03, 0x0B01, 0x0B02,
   0x0C01, 0x0C02]

/-- Service of a slot whose opcode is unknown. -/
def svcUnknown (_ : Dev) (_ : Door) : Svc := .error ⟨sInvalid, 0⟩

/-- `UNKNOWN_OPCODE`: the doorbell of a slot with opcode `op`. -/
def unknownOpcode (d : Dev) (c : Door) (op : Nat) : Dev :=
  if knownOpcodes.contains (op % 2 ^ 16) then d else d.serve c op svcUnknown

end Sys2Proof.Machine
end

