-- ==== Sys2Proof/Machine/Mgmt.lean ====
section
/-! DEFINITION. Management over MCTP: endpoint identifiers, PLDM sensors and firmware update, SPDM; dynamic addresses; and the test
access port (R345 to R347, R351, R413, R485). -/

namespace Sys2Proof.Machine

open Sys2Proof

/-! MCTP (R345). -/

/-- The endpoint answers on binding `b`, 0 I3C and 1 PCIe VDM. -/
def Dev.mctpOn (d : Dev) (b : Nat) : Bool := d.power.mctpUp && !d.power.inReset && (b == 0 || (b == 1 && d.power.portUp))

/-- An answer of the endpoint. -/
def Dev.reply (d : Dev) (b type cmd : Nat) (fields : List Nat) (data : List Byte) : Dev :=
  if d.mctpOn b then d.emit (.mctp b type cmd fields data) else d

/-- `SET_ENDPOINT_ID`: a binding takes its identifier; completion code 2 refuses a value that MCTP does not let it be (PRESUMED, log
entry 45). -/
def setEndpointId (d : Dev) (b eid : Nat) : Dev :=
  if !d.mctpOn b then d
  else if eid < 8 || 254 < eid then d.reply b 0 1 [2] []
  else ({ d with mgmt := { d.mgmt with eids := d.mgmt.eids.set b eid } } : Dev).reply b 0 1 [0, eid] []

/-- `DYNAMIC_ADDRESS`: the Tally's or the Ringmaster's I3C target takes an address (R345, R413). -/
def dynamicAddress (d : Dev) (tally : Bool) (a : Nat) : Dev :=
  if tally then if d.tally.up then d.modTally (fun t => { t with dynAddr := some (a % 2 ^ 7) }) else d
  else if d.mctpOn 0 then { d with mgmt := { d.mgmt with dynAddr := some (a % 2 ^ 7) } }
  else d

/-! PLDM sensors (R346). -/

/-- `SET_EVENT_RECEIVER`. -/
def setEventReceiver (d : Dev) (b eid : Nat) : Dev :=
  if d.mctpOn b then ({ d with mgmt := { d.mgmt with receiver := some (eid % 2 ^ 8) } } : Dev).reply b 1 4 [0] [] else d

/-- A numeric sensor exists. -/
def numericSensor (n : Nat) : Bool := (1 ≤ n && n ≤ 4) || (16 ≤ n && n ≤ 47) || (64 ≤ n && n ≤ 79)

/-- Thresholds of a numeric sensor: °C of a junction (R464), mV of the main supply (R457), °C of a stack (R207, R464); log entry 46. -/
def sensorThresholds (n : Nat) : List Int :=
  if n = 1 then [100, 105, 115]
  else if n = 2 then [38000, 42000, 63000]
  else if 16 ≤ n && n ≤ 47 then [85, 95]
  else []

/-- Codes of the state sensors, in the order that R346 lists their states. -/
def Dev.stateSensors (d : Dev) : List (Nat × Int) :=
  let pkg : Int := match d.power.st with
    | .run => 0
    | .brace => 1
    | _ => 2
  let beat : Int := match d.beat.st with
    | .free => 0
    | .locked => 1
    | .holdover => 2
    | .slewing => 3
    | .slipped => 4
  let pen (p : Nat) : Int := if bit d.faults.offline p then 2 else if d.pastureOfPen p = 31 then 0 else 1
  let lnk (l : Nat) : Int := match (d.link l).st with
    | .down => 0
    | .training => 1
    | .up => if (d.link l).txWidth < d.key (kLinkWidth + l) || (d.link l).rxWidth < d.key (kLinkWidth + l) then 3 else 2
  [(96, pkg), (97, beat)] ++ (List.range 16).map (fun p => (98 + p, pen p)) ++ (List.range 6).map (fun l => (114 + l, lnk l))

/-- Sensor `n` takes reading `v`: a state change or a threshold crossed since the last refresh is sent to the receiver. -/
def Dev.sense (d : Dev) (n : Nat) (v : Int) : Dev :=
  let moved := match Tab.get? d.mgmt.sensors n with
    | none => false
    | some o => if numericSensor n then (sensorThresholds n).any (fun t => decide (t ≤ o) != decide (t ≤ v)) else o != v
  let d := { d with mgmt := { d.mgmt with sensors := Tab.put d.mgmt.sensors n v } }
  match moved, d.mgmt.receiver with
  | true, some r => d.emit (.platformEvent r n v)
  | _, _ => d

/-- `SENSOR_REFRESH`: the readings of the numeric sensors, and the states of the others (R346). -/
def sensorRefresh (d : Dev) (readings : List (Nat × Int)) : Dev :=
  if !d.power.mctpUp || d.power.inReset then d
  else (readings.filter (fun q => numericSensor q.1) ++ d.stateSensors).foldl (fun d q => Dev.sense d q.1 q.2) d

/-! Firmware update (R347). -/

/-- `REQUEST_UPDATE`: the inactive slot is written, unless the boot strap selects host push. The completion codes are PLDM's (PRESUMED,
log entry 45): 0x8A UNABLE_TO_INITIATE_UPDATE, 0x81 an update is under way. -/
def requestUpdate (d : Dev) (b : Nat) : Dev :=
  if !d.mctpOn b then d
  else if d.aux.strapBoot then d.reply b 1 0x10 [0x8A] []
  else if d.fuses.updating then d.reply b 1 0x10 [0x81] []
  else (({ d with fuses := { d.fuses with updating := true } } : Dev).emit (.flashWrite (1 - d.fuses.slot))).reply b 1 0x10 [0] []

/-- `ACTIVATE_FIRMWARE`: the written slot is marked to be tried at the next package reset; self-contained activation is refused with
0x8C, and 0x80 where no update is under way (PRESUMED, log entry 45). -/
def activateFirmware (d : Dev) (b : Nat) (selfContained : Bool) : Dev :=
  if !d.mctpOn b then d
  else if selfContained then d.reply b 1 0x1A [0x8C] []
  else if !d.fuses.updating then d.reply b 1 0x1A [0x80] []
  else ({ d with fuses := { d.fuses with updating := false, trySlot := 1 - d.fuses.slot } } : Dev).reply b 1 0x1A [0] []

/-! SPDM (R351). -/

/-- A signature by the device identity key. -/
def deviceSign (m : List Byte) : List Byte := padTo (Config.ecdsa 2 m) 96

/-- `GET_VERSION`: SPDM 1.2. -/
def getVersion (d : Dev) (b : Nat) : Dev := d.reply b 5 0x84 [0x12] []

/-- `GET_CAPABILITIES`: CERT, CHAL and MEAS with signatures; nothing of key exchange, pre-shared keys or sessions. -/
def getCapabilities (d : Dev) (b : Nat) : Dev := d.reply b 5 0xE1 [1, 1, 2, 0, 0, 0] []

/-- `NEGOTIATE_ALGORITHMS`: ECDSA P-384 and SHA-384, where the requester offers them. -/
def negotiateAlgorithms (d : Dev) (b : Nat) (ecdsaP384 sha384 : Bool) : Dev := d.reply b 5 0xE3 [ecdsaP384.toNat, sha384.toNat] []

/-- `GET_DIGESTS`: slot 0 alone holds a chain; its digest. -/
def getDigests (d : Dev) (b : Nat) : Dev := d.reply b 5 0x81 [1] (sha384 d.fuses.devCert)

/-- `GET_CERTIFICATE`: bytes of slot 0's chain from an offset, with what remains after them; slots 1 to 7 are empty. -/
def getCertificate (d : Dev) (b slot off len : Nat) : Dev :=
  if slot ≠ 0 then d.reply b 5 0x7F [1] []
  else
    let part := slice d.fuses.devCert off len
    d.reply b 5 0x82 [slot, part.length, d.fuses.devCert.length - off - part.length] part

/-- `CHALLENGE`: a signature over the requester's nonce by the key of slot 0. -/
def challenge (d : Dev) (b slot nonce : Nat) : Dev :=
  if slot ≠ 0 then d.reply b 5 0x7F [1] []
  else
    let h := sha384 d.fuses.devCert
    d.reply b 5 0x83 [slot, nonce] (h ++ deviceSign (Config.layout 1 [slot, nonce, leNat h]))

/-- What measurement block `i` measures (R351). -/
def Dev.measurement (d : Dev) (i : Nat) : List Nat :=
  if i = 1 then [1, d.fuses.bootRom]
  else if i = 2 then [2, d.power.fwDigest, d.fuses.runSvn, d.fuses.ranSlot]
  else if i = 3 then
    [3, d.aux.strapBoot.toNat, d.aux.strapBeat.toNat, d.aux.strapI3c, d.aux.strapMet.toNat, d.fuses.variant, d.fuses.revoked,
     d.fuses.minSvn] ++ d.fuses.keyHashes
  else [4, fld d.mirror.id 0 48, fld d.mirror.status 16 8]

/-- `GET_MEASUREMENTS`: index 0 asks for their number, 1 to 4 for one block, 0xFF for all; signed where the requester asks for it. -/
def getMeasurements (d : Dev) (b index nonce : Nat) (signed : Bool) : Dev :=
  let sig (f : List Nat) : List Byte := if signed then deviceSign (Config.layout 2 (nonce :: f)) else []
  if index = 0 then d.reply b 5 0x60 [4] (sig [4])
  else if index = 0xFF then
    let f := [1, 2, 3, 4].flatMap d.measurement
    d.reply b 5 0x60 f (sig f)
  else if index ≤ 4 then d.reply b 5 0x60 (d.measurement index) (sig (d.measurement index))
  else d.reply b 5 0x7F [1] []

/-! The test access port (R485). -/

/-- The TAP loads opcode `op`: it executes where its condition holds, and as BYPASS otherwise. `captured` is what its data register
then captures, and BYPASS captures 0. -/
def Dev.tapLoad (d : Dev) (op : Nat) (holds : Bool) (cells captured : Nat) : Dev :=
  if !d.power.auxGood then d
  else
    ({ d with tap := { ir := op, runs := if holds then op else 0xFF, cells := if holds then cells else d.tap.cells } } : Dev).emit
      (.tap (if holds then captured else 0))

/-- `IDCODE`: version 0x1, part 0x4032, manufacturer 0x5A3. -/
def idcode (d : Dev) : Dev := d.tapLoad 0x01 true d.tap.cells 0x1403_2B47

/-- `BYPASS`: 0xFF, and every value that is no other instruction. -/
def bypass (d : Dev) (op : Nat) : Dev := if op % 256 ≤ 6 then d else d.tapLoad (op % 256) false 0 0

/-- `SAMPLE_PRELOAD`: the lands' levels are captured, and the cells loaded. -/
def samplePreload (d : Dev) (p : TapPins) (lands cells : Nat) : Dev := d.tapLoad 0x02 p.mainUp cells lands

/-- An instruction that needs `ZT_RESET_N` low and the main supply. -/
def TapPins.boundary (p : TapPins) : Bool := p.resetLow && p.mainUp

/-- `EXTEST`: the cells drive the lands, and the lands' levels are captured. -/
def extest (d : Dev) (p : TapPins) (lands cells : Nat) : Dev := d.tapLoad 0x00 (TapPins.boundary p) cells lands

/-- `EXTEST_PULSE` (IEEE 1149.6). -/
def extestPulse (d : Dev) (p : TapPins) (lands cells : Nat) : Dev := d.tapLoad 0x03 (TapPins.boundary p) cells lands

/-- `EXTEST_TRAIN` (IEEE 1149.6). -/
def extestTrain (d : Dev) (p : TapPins) (lands cells : Nat) : Dev := d.tapLoad 0x04 (TapPins.boundary p) cells lands

/-- `CLAMP`: the cells hold the outputs, and the bypass register is selected. -/
def clamp (d : Dev) (p : TapPins) : Dev := d.tapLoad 0x05 (TapPins.boundary p) d.tap.cells 0

/-- `HIGHZ`: the outputs are at high impedance, and the bypass register is selected. -/
def highz (d : Dev) (p : TapPins) : Dev := d.tapLoad 0x06 (TapPins.boundary p) d.tap.cells 0

end Sys2Proof.Machine
end

