-- ==== Sys2Proof/Machine/ReqCmds.lean ====
section
/-! DEFINITION. Request, prefix and adapter commands (R285 to R288, R298 to R300, R306 to R309, R385, R386). -/

namespace Sys2Proof.Machine

open Sys2Proof

/-- Service of `REQ_OPEN` (R285, R298, R385). -/
def svcReqOpen (d : Dev) (c : Door) : Svc := do
  checkHeader c 8 [(0, [255, 255, 255])]
  notStopped d
  let p ← ownPasture d c
  let n := dp c 0 2
  let owner := if dp c 2 1 = 0xFF then p else dp c 2 1
  match d.showOf p with
  | none => .error ⟨sInvalid, 0xFFFF⟩
  | some s =>
    let pfx ← if n = 0xFFFF then pure none else
      match d.prefixOf owner n with
      | none => .error ⟨sInvalid, pOff 0⟩
      | some x => do
        refuseIf (x.dropped || !x.built || (owner != p && !bit x.grants p)) sInvalid (pOff 0)
        refuseIf (2 ^ 32 - 1 ≤ x.count) sBusy (pOff 0)
        pure (some (owner * 1024 + n))
    handleRoom d c.func
    refuseIf (s.rmax ≤ d.openReqs p) sNoSpace 0xFFFF
    let (h, d) := d.newHandle c.func c.tag .request
    let d := { d with reqs := Tab.put d.reqs h { pasture := p, pfx } }
    let d := match pfx with
      | some k => d.modPrefix (k / 1024) (k % 1024) (fun x => { x with count := x.count + 1 })
      | none => d
    pure ({ handle := h }, d.srvAdd c.func 4 1)

/-- The request that a command names at P[3:0] (R285, R365), from a function that is bound to a pasture or, where the command may name
another function's handle, from the PF (R361, check 3). -/
def namedReq (d : Dev) (c : Door) (foreign : Bool) : Except Refuse (Nat × Request) := do
  let _ ← if foreign && c.func = 0 then .ok 0 else ownPasture d c
  let h ← namedHandle d c foreign
  match d.req h with
  | some r => pure (h, r)
  | none => .error ⟨sInvalid, pOff 0⟩

/-- Result of the state table of R286: refused with a status, queued, or accepted now. -/
inductive Admit where
  | refuse (status : Nat)
  | queue
  | accept
  deriving DecidableEq, Repr

/-- `REQ_APPEND` by state (R286). -/
def admitAppend (r : Request) : Admit :=
  match r.st with
  | .idle => .accept
  | .prefill | .decode | .resuming => if r.qAppend = 0 then .queue else .refuse sBusy
  | .pausing | .paused => .refuse sConflict

/-- `REQ_GENERATE` by state (R286). -/
def admitGen (r : Request) : Admit :=
  match r.st with
  | .idle => .accept
  | .prefill | .resuming => if r.qGen = 0 then .queue else .refuse sBusy
  | .decode => .refuse sBusy
  | .pausing | .paused => .refuse sConflict

/-- `REQ_PAUSE` by state (R286). -/
def admitPause (r : Request) : Admit :=
  match r.st with
  | .idle => .accept
  | .prefill | .decode => .refuse sBusy
  | .pausing | .paused | .resuming => .refuse sConflict

/-- Refuse as the state table says. -/
def admitted (a : Admit) : Except Refuse Bool :=
  match a with
  | .refuse s => .error ⟨s, pOff 0⟩
  | .queue => .ok true
  | .accept => .ok false

/-- Pages can be reserved: the pool has them and the request's lists fit each core's store (R88, R295). -/
def reserveOk (d : Dev) (r : Request) (need : Nat) : Except Refuse Unit := do
  refuseIf (!d.canReserve r.pasture need) sNoSpace 0xFFFF
  refuseIf (match d.showOf r.pasture with
    | some s => !listsFit s (r.pagesHeld + need)
    | none => true) sNoSpace 0xFFFF

/-- Service of `REQ_APPEND` (R286, R295, R385). -/
def svcReqAppend (d : Dev) (c : Door) : Svc := do
  checkHeader c 16 [(0, List.replicate 16 255)]
  notStopped d
  let (h, r) ← namedReq d c false
  let n := dp c 4 4
  inRange c 4 4 1 (2 ^ 20)
  refuseIf (262144 < r.committed + n) sInvalid (pOff 4)
  aligned64 c 8
  let queued ← admitted (admitAppend r)
  handleRoom d c.func
  let need := r.need n 0
  reserveOk d r need
  let (a, d) := d.newHandle c.func c.tag (.reqAppend h)
  let d := d.modReq h (fun r =>
    if queued then { r with qAppend := a, qBeatA := d.beat.now, qCount := n, qIn := false, qTokens := [], qResvA := need, qGenFirst := r.qGen != 0 }
    else { r with st := .prefill, admitted := d.beat.now, append := a, prompt := n, tokensIn := false, tokens := [], resv := need })
  pure ({ handle := a }, d.emit (.hostRead c.func (dp c 8 8) (4 * n) a))

/-- Service of `REQ_GENERATE` (R286, R288, R295, R385). -/
def svcReqGenerate (d : Dev) (c : Door) : Svc := do
  checkHeader c 24 [(0, List.replicate 20 255)]
  notStopped d
  let (h, r) ← namedReq d c false
  let n := dp c 4 4
  inRange c 4 4 1 (2 ^ 20)
  refuseIf (262144 < r.committed + n) sInvalid (pOff 4)
  aligned64 c 8
  refuseIf (dp c 16 4 < 8 + 4 * n) sInvalid (pOff 16)
  let queued ← admitted (admitGen r)
  handleRoom d c.func
  let need := r.need n (d.draftWidth r.pasture)
  reserveOk d r need
  let (g, d) := d.newHandle c.func c.tag (.reqGenerate h)
  let buf := dp c 8 8
  let d := d.modReq h (fun r =>
    if queued then { r with qGen := g, qBeatG := d.beat.now, qMax := n, qBuf := buf, qResvG := need, qGenFirst := r.qAppend == 0 }
    else { r with st := .decode, admitted := d.beat.now, gen := g, genMax := n, genDone := 0, genBuf := buf, genBase := 0, resv := need })
  pure ({ handle := g }, d)

/-- Service of `REQ_PAUSE` (R306, R307, R385). -/
def svcReqPause (d : Dev) (c : Door) : Svc := do
  checkHeader c 8 [(0, List.replicate 8 255)]
  notStopped d
  let (h, r) ← namedReq d c false
  let ttl := dp c 4 4
  inRange c 4 4 1 2592000
  let _ ← admitted (admitPause r)
  handleRoom d c.func
  let (q, d) := d.newHandle c.func c.tag (.reqPause h)
  let expiry := (d.beat.now + ttl * d.beat.rate) % 2 ^ 64
  let d := d.modReq h (fun r => { r with st := .pausing, pause := q, expiry, moving := false, inStacks := false, tier := [] })
  pure ({ handle := q }, d.resweep r.pasture)

/-- Service of `REQ_RESUME` (R295, R308, R309, R385). -/
def svcReqResume (d : Dev) (c : Door) : Svc := do
  checkHeader c 8 [(0, List.replicate 4 255)]
  notStopped d
  let (h, r) ← namedReq d c false
  refuseIf (r.st == .paused && beatGe d.beat.now r.expiry) sInvalid (pOff 0)
  refuseIf (r.st != .paused) sConflict (pOff 0)
  handleRoom d c.func
  refuseIf (!d.canRestore r) sNoSpace 0xFFFF
  let (q, d) := d.newHandle c.func c.tag (.reqResume h)
  let d := d.modReq h (fun r => { r with st := .resuming, resume := q, restored := 0 })
  let d := d.resweep r.pasture
  let d := if r.tier.isEmpty then
      (d.modReq h (fun r => { r with resume := 0 })).nextState h |>.finish q sOk [0]
    else d
  pure ({ handle := q }, d)

/-- Service of `REQ_CLOSE` (R286, R385): at once, or at the point that the state allows. -/
def svcReqClose (d : Dev) (c : Door) : Svc := do
  checkHeader c 8 [(0, List.replicate 4 255)]
  notStopped d
  let (h, r) ← namedReq d c true
  refuseIf r.closing sConflict (pOff 0)
  handleRoom d (hFunc h)
  let (q, d) := d.newHandle (hFunc h) c.tag (.reqClose h)
  let d := d.modReq h (fun r => { r with close := q, closing := true })
  let now := match r.st with
    | .idle | .paused => true
    | .pausing => !r.moving
    | .resuming => r.tier.isEmpty
    | .prefill | .decode => false
  pure ({ handle := q }, if now then d.closeReq h sOk sAborted else d)

/-- State codes of `REQ_QUERY` (R385). -/
def reqCode : ReqState → Nat
  | .idle => 0
  | .prefill => 1
  | .decode => 2
  | .pausing => 3
  | .paused => 4
  | .resuming => 5

/-- Service of `REQ_QUERY` (R286, R385). -/
def svcReqQuery (d : Dev) (c : Door) : Svc := do
  checkHeader c 8 [(0, List.replicate 4 255)]
  let (_, r) ← namedReq d c true
  pure ({ res := [reqCode r.st, r.committed, r.lists.foldl (fun n l => n + l.2.length) 0] }, d)

/-! Prefixes and adapters (R298, R300, R386). -/

/-- Service of `PREFIX_BUILD` (R298, R300, R386). -/
def svcPrefixBuild (d : Dev) (c : Door) : Svc := do
  checkHeader c 16 [(0, [255, 255, 0, 0, 255, 255, 255, 255, 255, 255, 255, 255, 255, 255, 255, 255])]
  notStopped d
  let p ← ownPasture d c
  let n := dp c 0 2
  let count := dp c 4 4
  inRange c 0 2 0 1023
  inRange c 4 4 1 (2 ^ 20)
  aligned64 c 8
  match d.showOf p with
  | none => .error ⟨sInvalid, 0xFFFF⟩
  | some s =>
    refuseIf (match d.prefixOf p n with
      | some x => x.count != 0 || !x.built
      | none => false) sConflict (pOff 0)
    handleRoom d c.func
    let old := match d.prefixOf p n with
      | some x => x.lists.flatMap (·.2)
      | none => []
    let free := d.releasePages old
    refuseIf ((sharePens s).any (fun pen => free.poolFree p pen s.lgroups < cdiv count 64 * s.lgroups)) sNoSpace 0xFFFF
    let d := free.modPasture p (fun q => { q with prefixes := Tab.put q.prefixes n {} })
    let (h, d) := d.newHandle c.func c.tag (.prefixBuild p n)
    let r : Request := { pasture := p, st := .prefill, admitted := d.beat.now, append := h, prompt := count, resv := cdiv count 64, build := some n }
    let d := { d with reqs := Tab.put d.reqs h r }
    pure ({ handle := h }, d.emit (.hostRead c.func (dp c 8 8) (4 * count) h))

/-- Service of `PREFIX_TRAIN` (R300, R386). -/
def svcPrefixTrain (d : Dev) (c : Door) : Svc := do
  checkHeader c 24 [(0, [255, 255, 0, 0]), (4, List.replicate 20 255)]
  notStopped d
  let p ← ownPasture d c
  let n := dp c 0 2
  match d.prefixOf p n with
  | none => .error ⟨sInvalid, pOff 0⟩
  | some x =>
    refuseIf (!x.built) sInvalid (pOff 0)
    inRange c 4 4 1 (2 ^ 20)
    aligned64 c 8
    inRange c 16 8 0 (2 ^ 32)
    refuseIf (x.count != 0) sConflict (pOff 0)
    handleRoom d c.func
    let (h, d) := d.newHandle c.func c.tag (.prefixTrain p n (dp c 4 4) 0 false)
    pure ({ handle := h }, d.emit (.hostRead c.func (dp c 8 8) (dp c 16 8) h))

/-- Service of `PREFIX_DROP` (R300, R386). -/
def svcPrefixDrop (d : Dev) (c : Door) : Svc := do
  checkHeader c 8 [(0, [255, 255])]
  notStopped d
  let p ← ownPasture d c
  let n := dp c 0 2
  match d.prefixOf p n with
  | none => .error ⟨sInvalid, pOff 0⟩
  | some x =>
    refuseIf (x.dropped || !x.built) sInvalid (pOff 0)
    handleRoom d c.func
    let (h, d) := d.newHandle c.func c.tag (.prefixDrop p n)
    let d := d.modPrefix p n (fun x => { x with dropped := true, dropHandle := h, dropCount := x.count })
    pure ({ handle := h }, d.settlePrefix p n)

/-- Service of `ADAPTER_TRAIN` (R386). -/
def svcAdapterTrain (d : Dev) (c : Door) : Svc := do
  checkHeader c 24 [(0, [255, 255, 0, 0]), (4, List.replicate 20 255)]
  notStopped d
  let p ← ownPasture d c
  refuseIf (d.showOf p).isNone sInvalid 0xFFFF
  inRange c 4 4 1 (2 ^ 20)
  aligned64 c 8
  inRange c 16 8 0 (2 ^ 32)
  refuseIf (d.reqs.any (fun r => r.2.pasture == p && (r.2.st == .prefill || r.2.st == .decode))) sConflict 0xFFFF
  handleRoom d c.func
  let (h, d) := d.newHandle c.func c.tag (.adapterTrain p (dp c 0 2) (dp c 4 4) 0 false)
  pure ({ handle := h }, d.emit (.hostRead c.func (dp c 8 8) (dp c 16 8) h))

/-- `REQ_OPEN` at the device. -/
def reqOpen (d : Dev) (c : Door) : Dev := d.serve c 0x0501 svcReqOpen
/-- `REQ_APPEND` at the device. -/
def reqAppend (d : Dev) (c : Door) : Dev := d.serve c 0x0502 svcReqAppend
/-- `REQ_GENERATE` at the device. -/
def reqGenerate (d : Dev) (c : Door) : Dev := d.serve c 0x0503 svcReqGenerate
/-- `REQ_PAUSE` at the device. -/
def reqPause (d : Dev) (c : Door) : Dev := d.serve c 0x0504 svcReqPause
/-- `REQ_RESUME` at the device. -/
def reqResume (d : Dev) (c : Door) : Dev := d.serve c 0x0505 svcReqResume
/-- `REQ_CLOSE` at the device. -/
def reqClose (d : Dev) (c : Door) : Dev := d.serve c 0x0506 svcReqClose
/-- `REQ_QUERY` at the device. -/
def reqQuery (d : Dev) (c : Door) : Dev := d.serve c 0x0507 svcReqQuery
/-- `PREFIX_BUILD` at the device. -/
def prefixBuild (d : Dev) (c : Door) : Dev := d.serve c 0x0601 svcPrefixBuild
/-- `PREFIX_TRAIN` at the device. -/
def prefixTrain (d : Dev) (c : Door) : Dev := d.serve c 0x0602 svcPrefixTrain
/-- `PREFIX_DROP` at the device. -/
def prefixDrop (d : Dev) (c : Door) : Dev := d.serve c 0x0603 svcPrefixDrop
/-- `ADAPTER_TRAIN` at the device. -/
def adapterTrain (d : Dev) (c : Door) : Dev := d.serve c 0x0604 svcAdapterTrain

end Sys2Proof.Machine
end

