-- ==== Sys2Proof/Machine/Meanings.lean ====
section
/-! DEFINITION. The meanings: one definition for each command, over the operations of the units. -/

namespace Sys2Proof.Machine

open Sys2Proof

/-- What a meaning answers. -/
abbrev Answer := Host.Outcome State Fault Refusal

/-- Opens a configuration transaction of PASTURE or PACKAGE scope and returns its handle (R371). -/
def execCfgBegin (c : Door) (s : State) : Answer := .next { s with dev := cfgBegin s.dev c }

/-- Stages up to 14 key values in an open transaction (R372). -/
def execCfgSet (c : Door) (s : State) : Answer := .next { s with dev := cfgSet s.dev c }

/-- Returns staged or in-force values of up to 6 keys (R372). -/
def execCfgGet (c : Door) (s : State) : Answer := .next { s with dev := cfgGet s.dev c }

/-- Validates a transaction against a commit beat and makes it pending, or rolls it back (R373). -/
def execCfgCommit (c : Door) (s : State) : Answer := .next { s with dev := cfgCommit s.dev c }

/-- Discards an open or pending transaction before its final validation (R375). -/
def execCfgRollback (c : Door) (s : State) : Answer := .next { s with dev := cfgRollback s.dev c }

/-- Creates a pasture of whole pens bound to one function (R20). -/
def execPastureCreate (c : Door) (s : State) : Answer := .next { s with dev := pastureCreate s.dev c }

/-- Rolls back transactions, aborts handles, unloads and clears a pasture's pens (R380). -/
def execPastureDestroy (c : Door) (s : State) : Answer := .next { s with dev := pastureDestroy s.dev c }

/-- Returns a pasture's pens, function, offline pens and open counts (R380). -/
def execPastureQuery (c : Door) (s : State) : Answer := .next { s with dev := pastureQuery s.dev c }

/-- Writes a weight image into a pen, records its check values and optionally a golden copy (R381). -/
def execImageLoad (c : Door) (s : State) : Answer := .next { s with dev := imageLoad s.dev c }

/-- Replaces the grant mask of a shared image or prefix and updates the access maps (R381). -/
def execImageShare (c : Door) (s : State) : Answer := .next { s with dev := imageShare s.dev c }

/-- Rewrites image blocks from host data only where each 4 KiB matches its CRC (R381). -/
def execImageReseed (c : Door) (s : State) : Answer := .next { s with dev := imageReseed s.dev c }

/-- Frees an image's stack region and golden copy (R381). -/
def execImageUnload (c : Door) (s : State) : Answer := .next { s with dev := imageUnload s.dev c }

/-- Accepts a show container for checking and placement in the pasture (R382). -/
def execShowLoad (c : Door) (s : State) : Answer := .next { s with dev := showLoad s.dev c }

/-- Once the container is read, checks header, sections and acts, then places acts or refuses (R382). -/
def execShowContainerRead (h : Nat) (feeds : List (Nat × Nat × Nat × Nat)) (pins : List (Nat × Nat × Nat × Nat × Nat)) (spread : List Nat) (sparse : List (Nat × Nat)) (addrs : List Nat) (s : State) : Answer :=
  .next { s with dev := showContainerRead s.dev h feeds pins spread sparse addrs }

/-- Stops the show's groups at their next boundaries and removes acts and registries (R384). -/
def execShowUnload (c : Door) (s : State) : Answer := .next { s with dev := showUnload s.dev c }

/-- Creates a request, optionally naming a prefix, and returns its request handle (R285). -/
def execReqOpen (c : Door) (s : State) : Answer := .next { s with dev := reqOpen s.dev c }

/-- Reserves pages and queues or starts prefill of prompt tokens (R286). -/
def execReqAppend (c : Door) (s : State) : Answer := .next { s with dev := reqAppend s.dev c }

/-- Reserves pages and queues or starts decoding up to a token count into a host buffer (R288). -/
def execReqGenerate (c : Door) (s : State) : Answer := .next { s with dev := reqGenerate s.dev c }

/-- Moves an idle request to PAUSING with a time to live (R306). -/
def execReqPause (c : Door) (s : State) : Answer := .next { s with dev := reqPause s.dev c }

/-- Reserves pages and starts restoring a paused request (R308). -/
def execReqResume (c : Door) (s : State) : Answer := .next { s with dev := reqResume s.dev c }

/-- Closes a request at once or at the point its state allows (R286). -/
def execReqClose (c : Door) (s : State) : Answer := .next { s with dev := reqClose s.dev c }

/-- Returns a request's state, committed positions and page count (R286). -/
def execReqQuery (c : Door) (s : State) : Answer := .next { s with dev := reqQuery s.dev c }

/-- Runs tokens through the show and stores their KV as a read-only prefix (R298). -/
def execPrefixBuild (c : Door) (s : State) : Answer := .next { s with dev := prefixBuild s.dev c }

/-- Trains a learned prefix on the device and rebuilds its pages (R386). -/
def execPrefixTrain (c : Door) (s : State) : Answer := .next { s with dev := prefixTrain s.dev c }

/-- Drops a prefix; pages are released and the handle completes when its count reaches 0 (R300). -/
def execPrefixDrop (c : Door) (s : State) : Answer := .next { s with dev := prefixDrop s.dev c }

/-- Trains a declared adapter set of low-rank factors (R386). -/
def execAdapterTrain (c : Door) (s : State) : Answer := .next { s with dev := adapterTrain s.dev c }

/-- Stages catalogue entries and a new MAPVER for an effective beat (R317). -/
def execExpertMapSet (c : Door) (entries : List Byte) (s : State) : Answer :=
  .next { s with dev := expertMapSet s.dev c entries }

/-- Writes catalogue entries to a host buffer and returns MAPVER (R317). -/
def execExpertMapGet (c : Door) (s : State) : Answer := .next { s with dev := expertMapGet s.dev c }

/-- Starts training both directions of a Stile link (R279). -/
def execLinkTrain (c : Door) (s : State) : Answer := .next { s with dev := linkTrain s.dev c }

/-- Returns a link's state, widths, reach, FEC and lane map (R387). -/
def execLinkQuery (c : Door) (s : State) : Answer := .next { s with dev := linkQuery s.dev c }

/-- Loads the package address, paddock shape, link roles and range table (R274). -/
def execRouteSet (c : Door) (s : State) : Answer := .next { s with dev := routeSet s.dev c }

/-- Schedules a beat-number load or relock at load beat L (R38). -/
def execBeatSync (c : Door) (s : State) : Answer := .next { s with dev := beatSync s.dev c }

/-- Writes Calendar entries of one die to a host buffer (R388). -/
def execCalQuery (c : Door) (s : State) : Answer := .next { s with dev := calQuery s.dev c }

/-- Tests, fully tests or fuses repairs of compute dies of unassigned pens (R451). -/
def execDiagBist (c : Door) (s : State) : Answer := .next { s with dev := diagBist s.dev c }

/-- Measures read and optionally write eyes of one pseudo-channel (R221). -/
def execDiagMargin (c : Door) (s : State) : Answer := .next { s with dev := diagMargin s.dev c }

/-- Writes margin records, width counts, the fault log or self-test results to a buffer (R388). -/
def execDiagDump (c : Door) (s : State) : Answer := .next { s with dev := diagDump s.dev c }

/-- Writes a mirror snapshot of the issuer's domains to a host buffer (R412). -/
def execTallyRead (c : Door) (s : State) : Answer := .next { s with dev := tallyRead s.dev c }

/-- Writes Tally audit records from a named event number (R388). -/
def execTallyLogRead (c : Door) (s : State) : Answer := .next { s with dev := tallyLogRead s.dev c }

/-- Writes fault records visible to the issuer to a host buffer (R388). -/
def execFaultQuery (c : Door) (s : State) : Answer := .next { s with dev := faultQuery s.dev c }

/-- Sets ACKED in a fault record (R388). -/
def execFaultAck (c : Door) (s : State) : Answer := .next { s with dev := faultAck s.dev c }

/-- A host memory read issued for a command completes and the command continues or ends (R341). -/
def execHostReadComplete (h : Nat) (ok : Bool) (data : List Byte) (s : State) : Answer :=
  .next { s with dev := hostReadComplete s.dev h ok data }

/-- Posts a waiting completion into the function's Ledger when room and enable allow (R369). -/
def execLedgerPost (f : Nat) (ok : Bool) (s : State) : Answer := .next { s with dev := ledgerPost s.dev f ok }

/-- A consumer-index write returns entries or is ignored and counted (R367). -/
def execLedgerHeadWrite (f v : Nat) (s : State) : Answer := .next { s with dev := ledgerHeadWrite s.dev f v }

/-- Setting ENABLE resets indices and phase, or sets CFG_ERR for a bad size (R367). -/
def execLedgerEnableWrite (f v : Nat) (s : State) : Answer := .next { s with dev := ledgerEnableWrite s.dev f v }

/-- A write to a BAR0 register with no behaviour of its own sets RW fields or is ignored (R492). -/
def execRegisterWrite (w : RegWrite) (s : State) : Answer := .next { s with dev := registerWrite s.dev w }

/-- Starts the check of a host-pushed firmware image (R349). -/
def execBootDoorbell (v : Nat) (img : FwImage) (s : State) : Answer := .next { s with dev := bootDoorbell s.dev v img }

/-- W1C write clears event class bits unless set in the same cycle (R496). -/
def execRmEventClear (f clear same : Nat) (s : State) : Answer := .next { s with dev := rmEventClear s.dev f clear same }

/-- Unmasking a vector with its pending bit set sends one message (R342). -/
def execMsixUnmask (f v : Nat) (on : Bool) (s : State) : Answer := .next { s with dev := msixUnmask s.dev f v on }

/-- Copies a counter group into its snapshot bank atomically (R438). -/
def execSnap (f : Nat) (a : GroupAddr) (s : State) : Answer := .next { s with dev := snap s.dev f a }

/-- Copies a counter group into its bank and clears its OVF bits (R438). -/
def execSnapclr (f : Nat) (a : GroupAddr) (wraps : Nat) (s : State) : Answer := .next { s with dev := snapclr s.dev f a wraps }

/-- Reading the beat number latches the tick of the same instant (R497). -/
def execBeatNowRead (f tick : Nat) (s : State) : Answer := .next { s with dev := beatNowRead s.dev f tick }

/-- A PF write sets the mirror interrupt policy and sends MIRROR_SET to the Tally (R412). -/
def execTlMCtlWrite (f v : Nat) (s : State) : Answer := .next { s with dev := tlMCtlWrite s.dev f v }

/-- Clears a function's mailboxes, rolls back its transaction and closes its requests at the next boundary (R343). -/
def execFunctionLevelReset (f : Nat) (s : State) : Answer := .next { s with dev := functionLevelReset s.dev f }

/-- Applies function-level reset to the PF and every VF and rolls back the PACKAGE transaction (R344). -/
def execPfFunctionLevelReset (s : State) : Answer := .next { s with dev := pfFunctionLevelReset s.dev }

/-- A hot reset or link-down acts as a function-level reset of the PF (R344). -/
def execHotReset (s : State) : Answer := .next { s with dev := hotReset s.dev }

/-- PERST# acts as a PF function-level reset and retrains the link on release (R344). -/
def execPerstAssert (released : Bool) (s : State) : Answer := .next { s with dev := perstAssert s.dev released }

/-- With no boundary within 90 ms of the reset, the groups' steps are aborted and resources freed (R343). -/
def execFlrBoundaryTimeout (f : Nat) (s : State) : Answer := .next { s with dev := flrBoundaryTimeout s.dev f }

/-- Pushes one array step with its tiles and activations to every selected array (R86). -/
def execWload (die core : Nat) (x : OpFacts) (s : State) : Answer := .next { s with dev := wload s.dev die core x }

/-- Copies rows into the activation buffer and exponent table (R87). -/
def execAstream (die core : Nat) (x : OpFacts) (s : State) : Answer := .next { s with dev := astream s.dev die core x }

/-- Loads thresholds and, under LEARNED settings, runs the predictor and sampling (R172). -/
def execScreen (die core : Nat) (x : OpFacts) (s : State) : Answer := .next { s with dev := screen s.dev die core x }

/-- Reads slots or vectors, applies scale, correction, bias, gate and rounding, and writes output (R128). -/
def execRequant (die core : Nat) (x : OpFacts) (s : State) : Answer := .next { s with dev := requant s.dev die core x }

/-- Computes the low-rank correction, its gradients or its update (R133). -/
def execLrank (die core : Nat) (x : OpFacts) (s : State) : Answer := .next { s with dev := lrank s.dev die core x }

/-- Applies signs and a Walsh-Hadamard transform to each vector (R123). -/
def execRotate (die core : Nat) (x : OpFacts) (s : State) : Answer := .next { s with dev := rotate s.dev die core x }

/-- Forms log-domain products and F32 sums for C = A·B (R120). -/
def execJuggle (die core : Nat) (x : OpFacts) (s : State) : Answer := .next { s with dev := juggle s.dev die core x }

/-- Normalises rows or writes row moments (R137). -/
def execNorm (die core : Nat) (x : OpFacts) (s : State) : Answer := .next { s with dev := norm s.dev die core x }

/-- Computes a masked row softmax (R137). -/
def execSoftmax (die core : Nat) (x : OpFacts) (s : State) : Answer := .next { s with dev := softmax s.dev die core x }

/-- Adds key-value pairs into the Pound or its spill log (R165). -/
def execPoundAdd (die core : Nat) (x : OpFacts) (s : State) : Answer := .next { s with dev := poundAdd s.dev die core x }

/-- Writes the full spill log to the overflow region on DMA engine 1 (R166). -/
def execPoundFlush (die core stall : Nat) (s : State) : Answer := .next { s with dev := poundFlush s.dev die core stall }

/-- Writes combined pairs in key order and optionally empties them (R167). -/
def execPoundDrain (die core : Nat) (x : OpFacts) (s : State) : Answer := .next { s with dev := poundDrain s.dev die core x }

/-- Encodes input to AS or XC (R230). -/
def execBale (die core : Nat) (x : OpFacts) (s : State) : Answer := .next { s with dev := bale s.dev die core x }

/-- Decodes AS or XC to a dense format (R235). -/
def execUnbale (die core : Nat) (x : OpFacts) (s : State) : Answer := .next { s with dev := unbale s.dev die core x }

/-- Runs a descriptor reading remote data into the scratchpad (R91). -/
def execDmaIn (die core : Nat) (x : OpFacts) (s : State) : Answer := .next { s with dev := dmaIn s.dev die core x }

/-- Runs a descriptor writing or applying atomics remotely (R91). -/
def execDmaOut (die core : Nat) (x : OpFacts) (s : State) : Answer := .next { s with dev := dmaOut s.dev die core x }

/-- Queues the descriptor's rows to send on an exchange channel (R250). -/
def execSend (die core : Nat) (x : OpFacts) (s : State) : Answer := .next { s with dev := send s.dev die core x }

/-- Posts rows to receive the channel's next data (R250). -/
def execRecv (die core : Nat) (x : OpFacts) (s : State) : Answer := .next { s with dev := recv s.dev die core x }

/-- Once the matching RECV is issued, the SEND's rows move and both complete (R250). -/
def execExchangeTransfer (p chan die core : Nat) (data : List Byte) (s : State) : Answer :=
  .next { s with dev := exchangeTransfer s.dev p chan die core data }

/-- Holds the sequencer until a point after step start, or counts a late wait (R87). -/
def execWaitBeat (die core : Nat) (x : OpFacts) (s : State) : Answer := .next { s with dev := waitBeat s.dev die core x }

/-- The named point arrives and the sequencer resumes (R87). -/
def execWaitBeatRelease (die core tick : Nat) (s : State) : Answer :=
  .next { s with dev := waitBeatRelease s.dev die core tick }

/-- Holds the sequencer until earlier ops of selected units complete (R87). -/
def execBarrier (die core : Nat) (x : OpFacts) (s : State) : Answer := .next { s with dev := barrier s.dev die core x }

/-- The barrier conditions hold and the sequencer continues (R62). -/
def execBarrierPass (die core cycles : Nat) (s : State) : Answer := .next { s with dev := barrierPass s.dev die core cycles }

/-- A stalled op word issues once its queue has room or its W wait ends (R83). -/
def execSequencerResume (die core cycles : Nat) (s : State) : Answer :=
  .next { s with dev := sequencerResume s.dev die core cycles }

/-- Recomputes selected tiles in F32 and records drift (R146). -/
def execAudit (die core : Nat) (x : OpFacts) (s : State) : Answer := .next { s with dev := audit s.dev die core x }

/-- Reads a condition word and skips the next op words (R87). -/
def execSkipIf (die core : Nat) (x : OpFacts) (s : State) : Answer := .next { s with dev := skipIf s.dev die core x }

/-- Queues a seed for an array generator in the array FIFO (R113). -/
def execSeed (die core : Nat) (x : OpFacts) (s : State) : Answer := .next { s with dev := seed s.dev die core x }

/-- The seed sets the generator state once earlier REQUANTs complete (R115). -/
def execSeedTakeEffect (die core arr : Nat) (s : State) : Answer := .next { s with dev := seedTakeEffect s.dev die core arr }

/-- Writes CORE_MARK and optionally notifies the firmware (R87). -/
def execMark (die core : Nat) (x : OpFacts) (s : State) : Answer := .next { s with dev := mark s.dev die core x }

/-- Waits for all units and reports the core's part of the step complete (R87). -/
def execEndAct (die core : Nat) (x : OpFacts) (s : State) : Answer := .next { s with dev := end_ s.dev die core x }

/-- An array takes its next step from its FIFO and runs it to final slot values (R62). -/
def execArrayStepStart (die core arr : Nat) (idle : Bool) (startWait stall : Nat) (parity : Option Nat) (s : State) : Answer :=
  .next { s with dev := arrayStepStart s.dev die core arr idle startWait stall parity }

/-- A power-cap Calendar entry fires and the governor applies the new cap (R41). -/
def execPowerCapChange (cap : Nat) (s : State) : Answer := .next { s with dev := powerCapChange s.dev cap }

/-- A commit entry fires and non-quiescence items take effect (R374). -/
def execConfigurationCommit (s : State) : Answer := .next { s with dev := configurationCommit s.dev }

/-- Four beats before the commit beat the transaction is revalidated or removed (R46). -/
def execFinalValidation (h : Nat) (s : State) : Answer := .next { s with dev := finalValidation s.dev h }

/-- An idle open transaction rolls back after 2^24 beats with TIMEOUT (R372). -/
def execCfgTransactionTimeout (h : Nat) (s : State) : Answer := .next { s with dev := cfgTimeout s.dev h }

/-- A step-group boundary arrives and a step starts or overruns (R44). -/
def execStepStart (g : Nat) (x : StepFacts) (s : State) : Answer := .next { s with dev := stepStart s.dev g x }

/-- A slice entry fires and tests one item of an idle core, or is skipped (R443). -/
def execSelfTestSlice (die core item index : Nat) (x : SliceFacts) (s : State) : Answer :=
  .next { s with dev := selfTestSlice s.dev die core item index x }

/-- A tree-phase entry paces a participant's send at its level (R187). -/
def execReductionTreePhase (p entry level : Nat) (s : State) : Answer := .next { s with dev := treePhase s.dev p entry level }

/-- A receiver's Fold combines a tree buffer, and the root writes and sends the result (R185). -/
def execTreeTransferReceive (p entry part : Nat) (s : State) : Answer :=
  .next { s with dev := treeTransferReceive s.dev p entry part }

/-- The Fold at DEST stores or applies a contribution and completes the instance when all are counted (R188). -/
def execArrivalTransfer (p entry part : Nat) (s : State) : Answer := .next { s with dev := arrivalReceive s.dev p entry part }

/-- An exchange-launch entry allows the Race die to begin dispatch (R326). -/
def execExchangeLaunch (p layer : Nat) (s : State) : Answer := .next { s with dev := exchangeLaunch s.dev p layer }

/-- Expires paused requests whose expiry beat has come and places the next sweep (R307). -/
def execTtlSweep (p : Nat) (s : State) : Answer := .next { s with dev := ttlSweep s.dev p }

/-- Entries held during a die's recovery fire or are discarded when it returns (R43). -/
def execCalHeldEntryRelease (die : Nat) (s : State) : Answer := .next { s with dev := calHeldEntryRelease s.dev die }

/-- The package's own tick 0 advances the beat number (R34). -/
def execBeatTick0 (launch : List Nat) (s : State) : Answer := .next { s with dev := beatTick0 s.dev launch }

/-- A Beat input edge is judged present or missing and drives the beat state (R34). -/
def execBeatEdge (phase : Int) (hz : Nat) (s : State) : Answer := .next { s with dev := beatEdge s.dev phase hz }

/-- A received marker is compensated and judged, possibly locking or slipping (R31). -/
def execBeatMarkerReceive (l : Nat) (arrival : Int) (launch beat hop hz : Nat) (s : State) : Answer :=
  .next { s with dev := beatMarkerReceive s.dev l arrival launch beat hop hz }

/-- An expected edge or marker fails to arrive; eight enter HOLDOVER (R33). -/
def execBeatMissing (s : State) : Answer := .next { s with dev := beatMissing s.dev }

/-- At beat L the beat number is loaded or the package relocks and rebases the Calendar (R38). -/
def execBeatSyncLoad (s : State) : Answer := .next { s with dev := beatSyncLoad s.dev }

/-- No edge or marker within 8 beats of L completes the handle ABORTED (R38). -/
def execBeatSyncTimeout (s : State) : Answer := .next { s with dev := beatSyncTimeout s.dev }

/-- A peer's leave notice raises STEP_DROPPED and may withdraw a required peer (R45). -/
def execLeaveNoticeReceive (g peer : Nat) (required : Bool) (s : State) : Answer :=
  .next { s with dev := leaveNoticeReceive s.dev g peer required }

/-- A peer counts a rejoining package from the named boundary (R45). -/
def execJoinNoticeReceive (g peer b : Nat) (s : State) : Answer := .next { s with dev := joinNoticeReceive s.dev g peer b }

/-- A granted transfer is served at its Fold slice (R213). -/
def execStackTransfer (stk lane cycle : Nat) (drained : List (Nat × Nat)) (reqs : List StackReq) (s : State) : Answer :=
  .next { s with dev := stackTransfer s.dev stk lane cycle drained reqs }

/-- A refresh obligation falls due on a pseudo-channel (R207). -/
def execRefreshDue (st q idle : Nat) (busy : Bool) (s : State) : Answer :=
  .next { s with dev := refreshDue s.dev st q idle busy }

/-- The controller reads a code word and rewrites or poisons it (R204). -/
def execScrub (pen cw pattern : Nat) (s : State) : Answer := .next { s with dev := scrub s.dev pen cw pattern }

/-- Every 2^20 beats the stacks' on-die ECC counts are read (R204). -/
def execOdeccRead (st n : Nat) (s : State) : Answer := .next { s with dev := odeccRead s.dev st n }

/-- A stack temperature band change sets the refresh interval and may raise STACK_HOT (R207). -/
def execStackTemperatureChange (st : Nat) (t : Int) (s : State) : Answer :=
  .next { s with dev := stackTemperatureChange s.dev st t }

/-- The copy to a spare pseudo-channel ends and the spare takes the index (R206). -/
def execPseudoChannelCopy (st q : Nat) (errs : List (Nat × Nat)) (s : State) : Answer :=
  .next { s with dev := pseudoChannelCopy s.dev st q errs }

/-- A tier-2 link loss, timeout or poison report loses pages (R220). -/
def execTier2Lost (port : Nat) (page : Option Nat) (s : State) : Answer := .next { s with dev := tier2Lost s.dev port page }

/-- The Drover encodes and writes one page to tier 2 and releases it (R306). -/
def execDroverPageMove (h : Nat) (s : State) : Answer := .next { s with dev := droverPageMove s.dev h }

/-- The Drover restores one page from tier 2 into a new stack page (R308). -/
def execDroverPageRestore (h : Nat) (s : State) : Answer := .next { s with dev := droverPageRestore s.dev h }

/-- The Drover completes writing an image's golden copy to tier 2 (R381). -/
def execDroverGoldenCopy (p n : Nat) (s : State) : Answer := .next { s with dev := droverGoldenCopy s.dev p n }

/-- A router receives, checks and forwards or discards a flit (R241). -/
def execMidwayFlitReceive (die q h data errs : Nat) (pair : Bool) (s : State) : Answer :=
  .next { s with dev := midwayFlitReceive s.dev die q h data errs pair }

/-- An unacknowledged flit waits 256 slots and the sender replays (R241). -/
def execMidwayReplayTimeout (die q slot : Nat) (s : State) : Answer :=
  .next { s with dev := midwayReplayTimeout s.dev die q slot }

/-- A port with repeated replays retrains and maps spare wires (R252). -/
def execMidwayRetrain (die q : Nat) (outM inM : List WireMargin) (s : State) : Answer :=
  .next { s with dev := midwayRetrain s.dev die q outM inM }

/-- An uncorrectable router fault withdraws the package (R253). -/
def execMwRouterFail (die q dir : Nat) (s : State) : Answer := .next { s with dev := mwRouterFail s.dev die q dir }

/-- A link receiver checks a flit, delivers in sequence or NAKs (R268). -/
def execStileFlitReceive (l : Nat) (f : List Byte) (x : StileFacts) (s : State) : Answer :=
  .next { s with dev := stileFlitReceive s.dev l f x }

/-- An unanswered NAK is resent as FROM (R268). -/
def execStileNakTimeout (l : Nat) (s : State) : Answer := .next { s with dev := stileNakTimeout s.dev l }

/-- An unacknowledged held flit triggers repetition from it (R268). -/
def execStileRetransmitTimeout (l : Nat) (s : State) : Answer := .next { s with dev := stileRetransmitTimeout s.dev l }

/-- A control flit falls due after 1,024 slots (R266). -/
def execStileControlDue (l idle : Nat) (s : State) : Answer := .next { s with dev := stileControlDue s.dev l idle }

/-- A lane loses lock or corrects too many symbols and a repair pause is requested (R280). -/
def execLaneFailure (l lane : Nat) (s : State) : Answer := .next { s with dev := laneFailure s.dev l lane }

/-- ALIGN completes with the new lane map, sparing or narrowing, and traffic resumes (R281). -/
def execRepairPauseEnd (l : Nat) (tx : Bool) (lanes : List Nat) (far slices : Nat) (s : State) : Answer :=
  .next { s with dev := repairPauseEnd s.dev l tx lanes far slices }

/-- A direction that cannot resume in 50 µs takes the link down (R282). -/
def execLinkDown (l : Nat) (s : State) : Answer := .next { s with dev := linkDown s.dev l }

/-- Training phases end, the link comes up or the handle aborts (R279). -/
def execLinkTrainingDone (l : Nat) (x : LinkFacts) (s : State) : Answer := .next { s with dev := linkTrainingDone s.dev l x }

/-- The far end does not arrive within 2 s and training completes TIMEOUT (R279). -/
def execLinkTrainTimeout (l : Nat) (s : State) : Answer := .next { s with dev := linkTrainTimeout s.dev l }

/-- With all producers heard, the Race die ranks and assigns tokens (R320). -/
def execRaceInstanceStart (p layer : Nat) (s : State) : Answer := .next { s with dev := raceInstanceStart s.dev p layer }

/-- The Race die sends dispatch vectors and manifests (R326). -/
def execRaceDispatch (p layer : Nat) (s : State) : Answer := .next { s with dev := raceDispatch s.dev p layer }

/-- A destination Race die writes a received dispatch vector into its slot (R326). -/
def execDispatch (p layer sender step expert slot shard : Nat) (data : List Byte) (s : State) : Answer :=
  .next { s with dev := raceDispatchIn s.dev p layer sender step expert slot shard data }

/-- A manifest arrives; with all sources in, the expert's RECV completes (R328). -/
def execManifest (p layer sender step mapver : Nat) (entries : List (Nat × Nat × Nat × Nat × Nat)) (s : State) : Answer :=
  .next { s with dev := raceManifestIn s.dev p layer sender step mapver entries }

/-- On an expert's done row, return vectors are sent to their sources (R329). -/
def execReturnVector (p layer expert shard : Nat) (recv : Bool) (step token rank : Nat) (data : List Byte) (s : State) : Answer :=
  .next { s with dev := raceReturn s.dev p layer expert shard recv step token rank data }

/-- A source writes combined outputs once every return is in (R330). -/
def execRaceCombine (p layer : Nat) (s : State) : Answer := .next { s with dev := raceCombine s.dev p layer }

/-- A source counts refused choices as contributing nothing (R332). -/
def execRefuse (p layer sender step : Nat) (experts : List Nat) (s : State) : Answer :=
  .next { s with dev := raceRefuseIn s.dev p layer sender step experts }

/-- An ABANDON message abandons the instance on its receiver (R333). -/
def execAbandon (p layer sender step : Nat) (atSource hw : Bool) (s : State) : Answer :=
  .next { s with dev := raceAbandonIn s.dev p layer sender step atSource hw }

/-- Staged catalogue entries and MAPVER take effect together (R317). -/
def execExpertMapEffect (h : Nat) (s : State) : Answer := .next { s with dev := expertMapEffect s.dev h }

/-- A unit's fault report is logged, its act aborted and recovery queued (R420). -/
def execFaultReport (code die core info item corrected : Nat) (s : State) : Answer :=
  .next { s with dev := faultReport s.dev code die core info item corrected }

/-- The next queued fault's recovery begins (R427). -/
def execFaultRecoveryStart (s : State) : Answer := .next { s with dev := faultRecoveryStart s.dev }

/-- A recovery completes and its record becomes RECOVERED (R428). -/
def execFaultRecoveryDone (s : State) : Answer := .next { s with dev := faultRecoveryDone s.dev }

/-- A recovery exceeds its budget and escalates (R428). -/
def execRecoveryBudgetExpired (s : State) : Answer := .next { s with dev := recoveryBudgetExpired s.dev }

/-- A reseed source supplies a block; matching data is written, else the next source is tried (R435). -/
def execReseedSourceDone (owner n b : Nat) (data : List Byte) (s : State) : Answer :=
  .next { s with dev := reseedSourceDone s.dev owner n b data }

/-- A peer or host source fails to answer in time (R435). -/
def execReseedTimeout (owner n b : Nat) (s : State) : Answer := .next { s with dev := reseedTimeout s.dev owner n b }

/-- The firmware tests a spare core destructively outside slices (R445). -/
def execSpareCoreWalk (die idx : Nat) (x : SliceFacts) (s : State) : Answer :=
  .next { s with dev := spareCoreWalk s.dev die idx x }

/-- A start-up test group starts once power headroom allows (R449). -/
def execStartupTestGroup (avg : Nat) (fails : List ItemFail) (s : State) : Answer :=
  .next { s with dev := startupTestGroup s.dev avg fails }

/-- Clearing of a pen's memories ends and the pasture command completes (R356). -/
def execPenClearDone (p : Nat) (s : State) : Answer := .next { s with dev := penClearDone s.dev p }

/-- The main supply falls below 42.0 V and the package enters BRACE (R458). -/
def execUvWarn (mv : Nat) (s : State) : Answer := .next { s with dev := uvWarn s.dev mv }

/-- The supply rises above 43.0 V and BRACE ends with SUPPLY_DIP (R460). -/
def execUvWarnClear (minMv durUs : Nat) (s : State) : Answer := .next { s with dev := uvWarnClear s.dev minMv durUs }

/-- The dip timer reaches 10 ms and an orderly halt is scheduled (R461). -/
def execDipTimerExpire (s : State) : Answer := .next { s with dev := dipTimerExpire s.dev }

/-- At the next tick 0 acts abort and handles complete HALTED_SUPPLY (R461). -/
def execOrderlyHalt (s : State) : Answer := .next { s with dev := orderlyHalt s.dev }

/-- The main supply falls below 38.0 V and the package resets (R465). -/
def execUvReset (s : State) : Answer := .next { s with dev := uvReset s.dev }

/-- The main supply exceeds 63.0 V and the package resets (R465). -/
def execOvReset (s : State) : Answer := .next { s with dev := ovReset s.dev }

/-- AUX falls below 3.00 V and the package resets (R465). -/
def execAuxFail (s : State) : Answer := .next { s with dev := auxFail s.dev }

/-- A reset input held low resets the package (R465). -/
def execZtResetN (ns : Nat) (s : State) : Answer := .next { s with dev := ztResetN s.dev ns }

/-- A junction at 115 °C for 1 ms resets and holds the package (R464). -/
def execThermalTrip (s : State) : Answer := .next { s with dev := thermalTrip s.dev }

/-- Each millisecond temperatures are read and thermal responses applied or released (R464). -/
def execThermalRead (dies stk : List Nat) (s : State) : Answer := .next { s with dev := thermalRead s.dev dies stk }

/-- Every 1 ms the governor adjusts the core frequency against the cap (R395). -/
def execGovernorEvaluation (watts vinCv : Nat) (s : State) : Answer :=
  .next { s with dev := governorEvaluation s.dev watts vinCv }

/-- With supplies, reset pin and thermal conditions met, start-up begins (R468). -/
def execResetRelease (boot beat met : Bool) (i3c : Nat) (s : State) : Answer :=
  .next { s with dev := resetRelease s.dev boot beat met i3c }

/-- A start-up step ends and the next begins, or start-up stops with a boot status (R469). -/
def execStartupStepDone (x : StartFacts) (s : State) : Answer := .next { s with dev := startupStepDone s.dev x }

/-- MCTP control assigns the endpoint identifier of a binding (R345). -/
def execSetEndpointId (b eid : Nat) (s : State) : Answer := .next { s with dev := setEndpointId s.dev b eid }

/-- PLDM names the receiver of platform event messages (R346). -/
def execSetEventReceiver (b eid : Nat) (s : State) : Answer := .next { s with dev := setEventReceiver s.dev b eid }

/-- Every 10 ms sensors refresh and crossings send PlatformEventMessage (R346). -/
def execSensorRefresh (readings : List (Nat × Int)) (s : State) : Answer := .next { s with dev := sensorRefresh s.dev readings }

/-- PLDM firmware update begins writing the inactive slot, or is refused under host push (R347). -/
def execRequestUpdate (b : Nat) (s : State) : Answer := .next { s with dev := requestUpdate s.dev b }

/-- Marks the new slot to be tried at the next package reset (R347). -/
def execActivateFirmware (b : Nat) (selfContained : Bool) (s : State) : Answer :=
  .next { s with dev := activateFirmware s.dev b selfContained }

/-- SPDM version request (R351). -/
def execGetVersion (b : Nat) (s : State) : Answer := .next { s with dev := getVersion s.dev b }

/-- SPDM capabilities request (R351). -/
def execGetCapabilities (b : Nat) (s : State) : Answer := .next { s with dev := getCapabilities s.dev b }

/-- SPDM algorithm negotiation (R351). -/
def execNegotiateAlgorithms (b : Nat) (ecdsaP384 sha384 : Bool) (s : State) : Answer :=
  .next { s with dev := negotiateAlgorithms s.dev b ecdsaP384 sha384 }

/-- SPDM certificate digests request (R351). -/
def execGetDigests (b : Nat) (s : State) : Answer := .next { s with dev := getDigests s.dev b }

/-- SPDM certificate chain request (R351). -/
def execGetCertificate (b slot off len : Nat) (s : State) : Answer :=
  .next { s with dev := getCertificate s.dev b slot off len }

/-- SPDM challenge signed with the device identity key (R351). -/
def execChallenge (b slot nonce : Nat) (s : State) : Answer := .next { s with dev := challenge s.dev b slot nonce }

/-- SPDM signed measurement blocks (R351). -/
def execGetMeasurements (b index nonce : Nat) (signed : Bool) (s : State) : Answer :=
  .next { s with dev := getMeasurements s.dev b index nonce signed }

/-- Metrology port returns variant, ROM identity, CALREC and audit counter (R413). -/
def execReadId (busy : Bool) (s : State) : Answer := .next { s with dev := readId s.dev busy }

/-- Returns a signed live record of a domain (R413). -/
def execReadLive (n : Nat) (busy : Bool) (s : State) : Answer := .next { s with dev := readLive s.dev n busy }

/-- Returns an interval or gap record by SEQ (R413). -/
def execReadInterval (n seq : Nat) (busy : Bool) (s : State) : Answer := .next { s with dev := readInterval s.dev n seq busy }

/-- Returns an audit record by event number (R413). -/
def execReadAudit (event : Nat) (busy : Bool) (s : State) : Answer := .next { s with dev := readAudit s.dev event busy }

/-- Returns an event record by index (R413). -/
def execReadEvent (index : Nat) (busy : Bool) (s : State) : Answer := .next { s with dev := readEvent s.dev index busy }

/-- Returns certificate bytes (R413). -/
def execReadCert (off len : Nat) (busy : Bool) (s : State) : Answer := .next { s with dev := readCert s.dev off len busy }

/-- Changes a legal parameter while the seal is open, with an audit record (R414). -/
def execSetParam (param value : Nat) (data : List Byte) (busy : Bool) (s : State) : Answer :=
  .next { s with dev := setParam s.dev param value data busy }

/-- Sets or synchronises the Tally clock under the seal rules (R414). -/
def execSetTime (time : Nat) (busy : Bool) (s : State) : Answer := .next { s with dev := setTime s.dev time busy }

/-- A 60 s window ends and the balance check may record BALANCE (R404). -/
def execBalanceWindowEnd (s : State) : Answer := .next { s with dev := balanceWindowEnd s.dev }

/-- An interval ends and signed interval records are written for 18 domains (R406). -/
def execIntervalEnd (s : State) : Answer := .next { s with dev := intervalEnd s.dev }

/-- Every 10 s registers and the clock are saved (R407). -/
def execNvSave (s : State) : Answer := .next { s with dev := nvSave s.dev }

/-- AUX below 3.0 V triggers a final save from hold-up (R407). -/
def execTallyAuxLowSave (s : State) : Answer := .next { s with dev := tallyAuxLowSave s.dev }

/-- Measurement resumes after AUX loss with gap records and UNSET clock (R409). -/
def execAuxReturn (latch romOk : Bool) (s : State) : Answer := .next { s with dev := auxReturn s.dev latch romOk }

/-- A debounced change of TL_SEAL_N is recorded as an event (R413). -/
def execSealChange (isOpen : Bool) (s : State) : Answer := .next { s with dev := sealChange s.dev isOpen }

/-- Each mirror period the Tally sends readings and new records to the mirror (R412). -/
def execMirrorUpdate (s : State) : Answer := .next { s with dev := mirrorUpdate s.dev }

/-- An inbound message sets the mirror period (R411). -/
def execMirrorSet (ms : Nat) (s : State) : Answer := .next { s with dev := mirrorSet s.dev ms }

/-- An inbound message stores token, request and beat annotations (R411). -/
def execAuxCounts (shares : List Nat) (s : State) : Answer := .next { s with dev := auxCounts s.dev shares }

/-- No counts within 1 s of interval end sets AUX_MISSING (R411). -/
def execAuxCountsTimeout (s : State) : Answer := .next { s with dev := auxCountsTimeout s.dev }

/-- A due impulse is driven on a pulse output (R416). -/
def execPulseEmit (o : Nat) (s : State) : Answer := .next { s with dev := pulseEmit s.dev o }

/-- The per-second converter check enters FAILED on failure (R418). -/
def execTallySelfCheck (code : Nat) (writable : Bool) (s : State) : Answer :=
  .next { s with dev := tallySelfCheck s.dev code writable }

/-- Three missed mirror periods set STALE and raise TL_MIRROR_STALE (R418). -/
def execMirrorStale (s : State) : Answer := .next { s with dev := mirrorStale s.dev }

/-- The Tally records a supply dip on its own channel (R415). -/
def execTallySupplyDip (minMv durUs : Nat) (s : State) : Answer := .next { s with dev := tallySupplyDip s.dev minMv durUs }

/-- The Tally records time below the reset threshold (R415). -/
def execMainLow (us : Nat) (s : State) : Answer := .next { s with dev := mainLow s.dev us }

/-- TAP instruction selecting the identification register (R485). -/
def execIdcode (s : State) : Answer := .next { s with dev := idcode s.dev }

/-- TAP bypass instruction (R485). -/
def execBypass (op : Nat) (s : State) : Answer := .next { s with dev := bypass s.dev op }

/-- TAP instruction sampling or preloading boundary cells (R485). -/
def execSamplePreload (p : TapPins) (lands cells : Nat) (s : State) : Answer :=
  .next { s with dev := samplePreload s.dev p lands cells }

/-- TAP boundary test driving lands while in reset (R485). -/
def execExtest (p : TapPins) (lands cells : Nat) (s : State) : Answer := .next { s with dev := extest s.dev p lands cells }

/-- IEEE 1149.6 AC test pulse instruction (R485). -/
def execExtestPulse (p : TapPins) (lands cells : Nat) (s : State) : Answer :=
  .next { s with dev := extestPulse s.dev p lands cells }

/-- IEEE 1149.6 AC test train instruction (R485). -/
def execExtestTrain (p : TapPins) (lands cells : Nat) (s : State) : Answer :=
  .next { s with dev := extestTrain s.dev p lands cells }

/-- TAP clamp instruction (R485). -/
def execClamp (p : TapPins) (s : State) : Answer := .next { s with dev := clamp s.dev p }

/-- TAP instruction placing outputs at high impedance (R485). -/
def execHighz (p : TapPins) (s : State) : Answer := .next { s with dev := highz s.dev p }

/-- A doorbell whose command slot holds an opcode unknown to Bexper 2.4 is refused with INVALID (R361). -/
def execUnknownOpcode (c : Door) (op : Nat) (s : State) : Answer := .next { s with dev := unknownOpcode s.dev c op }

/-- At each 256 kS/s sample the Tally integrates each domain's power and advances its energy registers and pulse accumulators (R401). -/
def execEnergySample (x : Sample) (s : State) : Answer := .next { s with dev := energySample s.dev x }

/-- A pseudo-channel's margining ends after about 4 ms or up to 80 ms and writes its record, and the handle completes (R221). -/
def execMarginingDone (pen idx : Nat) (m : Margins) (hostOk : Bool) (s : State) : Answer :=
  .next { s with dev := marginingDone s.dev pen idx m hostOk }

/-- The tests of a DIAG_BIST finish, records are written, failed pens go offline and the handle completes OK (R451). -/
def execBistDone (h avg : Nat) (fails : List ItemFail) (ok : Bool) (s : State) : Answer :=
  .next { s with dev := bistDone s.dev h avg fails ok }

/-- A write of VF Enable or NumVFs in the PF's SR-IOV capability creates or removes virtual functions, while bound pastures remain (R339). -/
def execVfEnable (on : Bool) (n : Nat) (s : State) : Answer := .next { s with dev := vfEnable s.dev on n }

/-- A power-state write moves a function between D0 and D3hot, which stops or restores decoding of its BAR0 while the package's work goes on (R338). -/
def execD3hot (f : Nat) (hot : Bool) (s : State) : Answer := .next { s with dev := d3hot s.dev f hot }

/-- ZT_REFCLK has been present for 1 ms, and step 1 of start-up may begin (R482). -/
def execRefclkDetected (s : State) : Answer := .next { s with dev := refclkDetected s.dev }

/-- An I3C controller assigns a dynamic address to the Ringmaster's or the Tally's target by SETDASA or ENTDAA (R345). -/
def execDynamicAddress (tally : Bool) (a : Nat) (s : State) : Answer := .next { s with dev := dynamicAddress s.dev tally a }

end Sys2Proof.Machine
end

