-- ==== Sys2Proof/Machine/Dispatch.lean ====
section
/-! DEFINITION. The dispatcher: one arm for each command, calling its meaning. -/

namespace Sys2Proof.Machine

open Sys2Proof

/-- The effect of a command on everything but the queue of commands. -/
def exec (i : Instr) (s : State) : Host.Outcome State Fault Refusal :=
  match i with
  | .cfgBegin c => Sys2Proof.Machine.execCfgBegin c s
  | .cfgSet c => Sys2Proof.Machine.execCfgSet c s
  | .cfgGet c => Sys2Proof.Machine.execCfgGet c s
  | .cfgCommit c => Sys2Proof.Machine.execCfgCommit c s
  | .cfgRollback c => Sys2Proof.Machine.execCfgRollback c s
  | .pastureCreate c => Sys2Proof.Machine.execPastureCreate c s
  | .pastureDestroy c => Sys2Proof.Machine.execPastureDestroy c s
  | .pastureQuery c => Sys2Proof.Machine.execPastureQuery c s
  | .imageLoad c => Sys2Proof.Machine.execImageLoad c s
  | .imageShare c => Sys2Proof.Machine.execImageShare c s
  | .imageReseed c => Sys2Proof.Machine.execImageReseed c s
  | .imageUnload c => Sys2Proof.Machine.execImageUnload c s
  | .showLoad c => Sys2Proof.Machine.execShowLoad c s
  | .showContainerRead h feeds pins spread sparse addrs => Sys2Proof.Machine.execShowContainerRead h feeds pins spread sparse addrs s
  | .showUnload c => Sys2Proof.Machine.execShowUnload c s
  | .reqOpen c => Sys2Proof.Machine.execReqOpen c s
  | .reqAppend c => Sys2Proof.Machine.execReqAppend c s
  | .reqGenerate c => Sys2Proof.Machine.execReqGenerate c s
  | .reqPause c => Sys2Proof.Machine.execReqPause c s
  | .reqResume c => Sys2Proof.Machine.execReqResume c s
  | .reqClose c => Sys2Proof.Machine.execReqClose c s
  | .reqQuery c => Sys2Proof.Machine.execReqQuery c s
  | .prefixBuild c => Sys2Proof.Machine.execPrefixBuild c s
  | .prefixTrain c => Sys2Proof.Machine.execPrefixTrain c s
  | .prefixDrop c => Sys2Proof.Machine.execPrefixDrop c s
  | .adapterTrain c => Sys2Proof.Machine.execAdapterTrain c s
  | .expertMapSet c entries => Sys2Proof.Machine.execExpertMapSet c entries s
  | .expertMapGet c => Sys2Proof.Machine.execExpertMapGet c s
  | .linkTrain c => Sys2Proof.Machine.execLinkTrain c s
  | .linkQuery c => Sys2Proof.Machine.execLinkQuery c s
  | .routeSet c => Sys2Proof.Machine.execRouteSet c s
  | .beatSync c => Sys2Proof.Machine.execBeatSync c s
  | .calQuery c => Sys2Proof.Machine.execCalQuery c s
  | .diagBist c => Sys2Proof.Machine.execDiagBist c s
  | .diagMargin c => Sys2Proof.Machine.execDiagMargin c s
  | .diagDump c => Sys2Proof.Machine.execDiagDump c s
  | .tallyRead c => Sys2Proof.Machine.execTallyRead c s
  | .tallyLogRead c => Sys2Proof.Machine.execTallyLogRead c s
  | .faultQuery c => Sys2Proof.Machine.execFaultQuery c s
  | .faultAck c => Sys2Proof.Machine.execFaultAck c s
  | .hostReadComplete h ok data => Sys2Proof.Machine.execHostReadComplete h ok data s
  | .ledgerPost f ok => Sys2Proof.Machine.execLedgerPost f ok s
  | .ledgerHeadWrite f v => Sys2Proof.Machine.execLedgerHeadWrite f v s
  | .ledgerEnableWrite f v => Sys2Proof.Machine.execLedgerEnableWrite f v s
  | .registerWrite w => Sys2Proof.Machine.execRegisterWrite w s
  | .bootDoorbell v img => Sys2Proof.Machine.execBootDoorbell v img s
  | .rmEventClear f clear same => Sys2Proof.Machine.execRmEventClear f clear same s
  | .msixUnmask f v on => Sys2Proof.Machine.execMsixUnmask f v on s
  | .snap f a => Sys2Proof.Machine.execSnap f a s
  | .snapclr f a wraps => Sys2Proof.Machine.execSnapclr f a wraps s
  | .beatNowRead f tick => Sys2Proof.Machine.execBeatNowRead f tick s
  | .tlMCtlWrite f v => Sys2Proof.Machine.execTlMCtlWrite f v s
  | .functionLevelReset f => Sys2Proof.Machine.execFunctionLevelReset f s
  | .pfFunctionLevelReset => Sys2Proof.Machine.execPfFunctionLevelReset s
  | .hotReset => Sys2Proof.Machine.execHotReset s
  | .perstAssert released => Sys2Proof.Machine.execPerstAssert released s
  | .flrBoundaryTimeout f => Sys2Proof.Machine.execFlrBoundaryTimeout f s
  | .wload die core x => Sys2Proof.Machine.execWload die core x s
  | .astream die core x => Sys2Proof.Machine.execAstream die core x s
  | .screen die core x => Sys2Proof.Machine.execScreen die core x s
  | .requant die core x => Sys2Proof.Machine.execRequant die core x s
  | .lrank die core x => Sys2Proof.Machine.execLrank die core x s
  | .rotate die core x => Sys2Proof.Machine.execRotate die core x s
  | .juggle die core x => Sys2Proof.Machine.execJuggle die core x s
  | .norm die core x => Sys2Proof.Machine.execNorm die core x s
  | .softmax die core x => Sys2Proof.Machine.execSoftmax die core x s
  | .poundAdd die core x => Sys2Proof.Machine.execPoundAdd die core x s
  | .poundFlush die core stall => Sys2Proof.Machine.execPoundFlush die core stall s
  | .poundDrain die core x => Sys2Proof.Machine.execPoundDrain die core x s
  | .bale die core x => Sys2Proof.Machine.execBale die core x s
  | .unbale die core x => Sys2Proof.Machine.execUnbale die core x s
  | .dmaIn die core x => Sys2Proof.Machine.execDmaIn die core x s
  | .dmaOut die core x => Sys2Proof.Machine.execDmaOut die core x s
  | .send die core x => Sys2Proof.Machine.execSend die core x s
  | .recv die core x => Sys2Proof.Machine.execRecv die core x s
  | .exchangeTransfer p chan die core data => Sys2Proof.Machine.execExchangeTransfer p chan die core data s
  | .waitBeat die core x => Sys2Proof.Machine.execWaitBeat die core x s
  | .waitBeatRelease die core tick => Sys2Proof.Machine.execWaitBeatRelease die core tick s
  | .barrier die core x => Sys2Proof.Machine.execBarrier die core x s
  | .barrierPass die core cycles => Sys2Proof.Machine.execBarrierPass die core cycles s
  | .sequencerResume die core cycles => Sys2Proof.Machine.execSequencerResume die core cycles s
  | .audit die core x => Sys2Proof.Machine.execAudit die core x s
  | .skipIf die core x => Sys2Proof.Machine.execSkipIf die core x s
  | .seed die core x => Sys2Proof.Machine.execSeed die core x s
  | .seedTakeEffect die core arr => Sys2Proof.Machine.execSeedTakeEffect die core arr s
  | .mark die core x => Sys2Proof.Machine.execMark die core x s
  | .endAct die core x => Sys2Proof.Machine.execEndAct die core x s
  | .arrayStepStart die core arr idle startWait stall parity => Sys2Proof.Machine.execArrayStepStart die core arr idle startWait stall parity s
  | .powerCapChange cap => Sys2Proof.Machine.execPowerCapChange cap s
  | .configurationCommit => Sys2Proof.Machine.execConfigurationCommit s
  | .finalValidation h => Sys2Proof.Machine.execFinalValidation h s
  | .cfgTransactionTimeout h => Sys2Proof.Machine.execCfgTransactionTimeout h s
  | .stepStart g x => Sys2Proof.Machine.execStepStart g x s
  | .selfTestSlice die core item index x => Sys2Proof.Machine.execSelfTestSlice die core item index x s
  | .reductionTreePhase p entry level => Sys2Proof.Machine.execReductionTreePhase p entry level s
  | .treeTransferReceive p entry part => Sys2Proof.Machine.execTreeTransferReceive p entry part s
  | .arrivalTransfer p entry part => Sys2Proof.Machine.execArrivalTransfer p entry part s
  | .exchangeLaunch p layer => Sys2Proof.Machine.execExchangeLaunch p layer s
  | .ttlSweep p => Sys2Proof.Machine.execTtlSweep p s
  | .calHeldEntryRelease die => Sys2Proof.Machine.execCalHeldEntryRelease die s
  | .beatTick0 launch => Sys2Proof.Machine.execBeatTick0 launch s
  | .beatEdge phase hz => Sys2Proof.Machine.execBeatEdge phase hz s
  | .beatMarkerReceive l arrival launch beat hop hz => Sys2Proof.Machine.execBeatMarkerReceive l arrival launch beat hop hz s
  | .beatMissing => Sys2Proof.Machine.execBeatMissing s
  | .beatSyncLoad => Sys2Proof.Machine.execBeatSyncLoad s
  | .beatSyncTimeout => Sys2Proof.Machine.execBeatSyncTimeout s
  | .leaveNoticeReceive g peer required => Sys2Proof.Machine.execLeaveNoticeReceive g peer required s
  | .joinNoticeReceive g peer b => Sys2Proof.Machine.execJoinNoticeReceive g peer b s
  | .stackTransfer stk lane cycle drained reqs => Sys2Proof.Machine.execStackTransfer stk lane cycle drained reqs s
  | .refreshDue st q idle busy => Sys2Proof.Machine.execRefreshDue st q idle busy s
  | .scrub pen cw pattern => Sys2Proof.Machine.execScrub pen cw pattern s
  | .odeccRead st n => Sys2Proof.Machine.execOdeccRead st n s
  | .stackTemperatureChange st t => Sys2Proof.Machine.execStackTemperatureChange st t s
  | .pseudoChannelCopy st q errs => Sys2Proof.Machine.execPseudoChannelCopy st q errs s
  | .tier2Lost port page => Sys2Proof.Machine.execTier2Lost port page s
  | .droverPageMove h => Sys2Proof.Machine.execDroverPageMove h s
  | .droverPageRestore h => Sys2Proof.Machine.execDroverPageRestore h s
  | .droverGoldenCopy p n => Sys2Proof.Machine.execDroverGoldenCopy p n s
  | .midwayFlitReceive die q h data errs pair => Sys2Proof.Machine.execMidwayFlitReceive die q h data errs pair s
  | .midwayReplayTimeout die q slot => Sys2Proof.Machine.execMidwayReplayTimeout die q slot s
  | .midwayRetrain die q outM inM => Sys2Proof.Machine.execMidwayRetrain die q outM inM s
  | .mwRouterFail die q dir => Sys2Proof.Machine.execMwRouterFail die q dir s
  | .stileFlitReceive l f x => Sys2Proof.Machine.execStileFlitReceive l f x s
  | .stileNakTimeout l => Sys2Proof.Machine.execStileNakTimeout l s
  | .stileRetransmitTimeout l => Sys2Proof.Machine.execStileRetransmitTimeout l s
  | .stileControlDue l idle => Sys2Proof.Machine.execStileControlDue l idle s
  | .laneFailure l lane => Sys2Proof.Machine.execLaneFailure l lane s
  | .repairPauseEnd l tx lanes far slices => Sys2Proof.Machine.execRepairPauseEnd l tx lanes far slices s
  | .linkDown l => Sys2Proof.Machine.execLinkDown l s
  | .linkTrainingDone l x => Sys2Proof.Machine.execLinkTrainingDone l x s
  | .linkTrainTimeout l => Sys2Proof.Machine.execLinkTrainTimeout l s
  | .raceInstanceStart p layer => Sys2Proof.Machine.execRaceInstanceStart p layer s
  | .raceDispatch p layer => Sys2Proof.Machine.execRaceDispatch p layer s
  | .dispatch p layer sender step expert slot shard data => Sys2Proof.Machine.execDispatch p layer sender step expert slot shard data s
  | .manifest p layer sender step mapver entries => Sys2Proof.Machine.execManifest p layer sender step mapver entries s
  | .returnVector p layer expert shard recv step token rank data => Sys2Proof.Machine.execReturnVector p layer expert shard recv step token rank data s
  | .raceCombine p layer => Sys2Proof.Machine.execRaceCombine p layer s
  | .refuse p layer sender step experts => Sys2Proof.Machine.execRefuse p layer sender step experts s
  | .abandon p layer sender step atSource hw => Sys2Proof.Machine.execAbandon p layer sender step atSource hw s
  | .expertMapEffect h => Sys2Proof.Machine.execExpertMapEffect h s
  | .faultReport code die core info item corrected => Sys2Proof.Machine.execFaultReport code die core info item corrected s
  | .faultRecoveryStart => Sys2Proof.Machine.execFaultRecoveryStart s
  | .faultRecoveryDone => Sys2Proof.Machine.execFaultRecoveryDone s
  | .recoveryBudgetExpired => Sys2Proof.Machine.execRecoveryBudgetExpired s
  | .reseedSourceDone owner n b data => Sys2Proof.Machine.execReseedSourceDone owner n b data s
  | .reseedTimeout owner n b => Sys2Proof.Machine.execReseedTimeout owner n b s
  | .spareCoreWalk die idx x => Sys2Proof.Machine.execSpareCoreWalk die idx x s
  | .startupTestGroup avg fails => Sys2Proof.Machine.execStartupTestGroup avg fails s
  | .penClearDone p => Sys2Proof.Machine.execPenClearDone p s
  | .uvWarn mv => Sys2Proof.Machine.execUvWarn mv s
  | .uvWarnClear minMv durUs => Sys2Proof.Machine.execUvWarnClear minMv durUs s
  | .dipTimerExpire => Sys2Proof.Machine.execDipTimerExpire s
  | .orderlyHalt => Sys2Proof.Machine.execOrderlyHalt s
  | .uvReset => Sys2Proof.Machine.execUvReset s
  | .ovReset => Sys2Proof.Machine.execOvReset s
  | .auxFail => Sys2Proof.Machine.execAuxFail s
  | .ztResetN ns => Sys2Proof.Machine.execZtResetN ns s
  | .thermalTrip => Sys2Proof.Machine.execThermalTrip s
  | .thermalRead dies stk => Sys2Proof.Machine.execThermalRead dies stk s
  | .governorEvaluation watts vinCv => Sys2Proof.Machine.execGovernorEvaluation watts vinCv s
  | .resetRelease boot beat met i3c => Sys2Proof.Machine.execResetRelease boot beat met i3c s
  | .startupStepDone x => Sys2Proof.Machine.execStartupStepDone x s
  | .setEndpointId b eid => Sys2Proof.Machine.execSetEndpointId b eid s
  | .setEventReceiver b eid => Sys2Proof.Machine.execSetEventReceiver b eid s
  | .sensorRefresh readings => Sys2Proof.Machine.execSensorRefresh readings s
  | .requestUpdate b => Sys2Proof.Machine.execRequestUpdate b s
  | .activateFirmware b selfContained => Sys2Proof.Machine.execActivateFirmware b selfContained s
  | .getVersion b => Sys2Proof.Machine.execGetVersion b s
  | .getCapabilities b => Sys2Proof.Machine.execGetCapabilities b s
  | .negotiateAlgorithms b ecdsaP384 sha384 => Sys2Proof.Machine.execNegotiateAlgorithms b ecdsaP384 sha384 s
  | .getDigests b => Sys2Proof.Machine.execGetDigests b s
  | .getCertificate b slot off len => Sys2Proof.Machine.execGetCertificate b slot off len s
  | .challenge b slot nonce => Sys2Proof.Machine.execChallenge b slot nonce s
  | .getMeasurements b index nonce signed => Sys2Proof.Machine.execGetMeasurements b index nonce signed s
  | .readId busy => Sys2Proof.Machine.execReadId busy s
  | .readLive n busy => Sys2Proof.Machine.execReadLive n busy s
  | .readInterval n seq busy => Sys2Proof.Machine.execReadInterval n seq busy s
  | .readAudit event busy => Sys2Proof.Machine.execReadAudit event busy s
  | .readEvent index busy => Sys2Proof.Machine.execReadEvent index busy s
  | .readCert off len busy => Sys2Proof.Machine.execReadCert off len busy s
  | .setParam param value data busy => Sys2Proof.Machine.execSetParam param value data busy s
  | .setTime time busy => Sys2Proof.Machine.execSetTime time busy s
  | .balanceWindowEnd => Sys2Proof.Machine.execBalanceWindowEnd s
  | .intervalEnd => Sys2Proof.Machine.execIntervalEnd s
  | .nvSave => Sys2Proof.Machine.execNvSave s
  | .tallyAuxLowSave => Sys2Proof.Machine.execTallyAuxLowSave s
  | .auxReturn latch romOk => Sys2Proof.Machine.execAuxReturn latch romOk s
  | .sealChange isOpen => Sys2Proof.Machine.execSealChange isOpen s
  | .mirrorUpdate => Sys2Proof.Machine.execMirrorUpdate s
  | .mirrorSet ms => Sys2Proof.Machine.execMirrorSet ms s
  | .auxCounts shares => Sys2Proof.Machine.execAuxCounts shares s
  | .auxCountsTimeout => Sys2Proof.Machine.execAuxCountsTimeout s
  | .pulseEmit o => Sys2Proof.Machine.execPulseEmit o s
  | .tallySelfCheck code writable => Sys2Proof.Machine.execTallySelfCheck code writable s
  | .mirrorStale => Sys2Proof.Machine.execMirrorStale s
  | .tallySupplyDip minMv durUs => Sys2Proof.Machine.execTallySupplyDip minMv durUs s
  | .mainLow us => Sys2Proof.Machine.execMainLow us s
  | .idcode => Sys2Proof.Machine.execIdcode s
  | .bypass op => Sys2Proof.Machine.execBypass op s
  | .samplePreload p lands cells => Sys2Proof.Machine.execSamplePreload p lands cells s
  | .extest p lands cells => Sys2Proof.Machine.execExtest p lands cells s
  | .extestPulse p lands cells => Sys2Proof.Machine.execExtestPulse p lands cells s
  | .extestTrain p lands cells => Sys2Proof.Machine.execExtestTrain p lands cells s
  | .clamp p => Sys2Proof.Machine.execClamp p s
  | .highz p => Sys2Proof.Machine.execHighz p s
  | .unknownOpcode c op => Sys2Proof.Machine.execUnknownOpcode c op s
  | .energySample x => Sys2Proof.Machine.execEnergySample x s
  | .marginingDone pen idx m hostOk => Sys2Proof.Machine.execMarginingDone pen idx m hostOk s
  | .bistDone h avg fails ok => Sys2Proof.Machine.execBistDone h avg fails ok s
  | .vfEnable on n => Sys2Proof.Machine.execVfEnable on n s
  | .d3hot f hot => Sys2Proof.Machine.execD3hot f hot s
  | .refclkDetected => Sys2Proof.Machine.execRefclkDetected s
  | .dynamicAddress tally a => Sys2Proof.Machine.execDynamicAddress tally a s

end Sys2Proof.Machine
end

