-- ==== Sys2Proof/Safety.lean ====
section
/-! DEFINITION. What a safe run is: each step answers a next state, never a fault and never a refusal. -/

namespace Sys2Proof

open Sys2Proof.Machine

/-- The step from `s` answers a next state. -/
def Safe (s : State) : Prop := ∃ t, step s = .next t

/-- The step from `s` answers `t`. -/
def Steps (s t : State) : Prop := step s = .next t

/-- `t` is reached from `s` by steps. -/
inductive Reaches : State → State → Prop where
  /-- No step. -/
  | refl (s : State) : Reaches s s
  /-- One step more. -/
  | tail {s t u : State} : Reaches s t → Steps t u → Reaches s u

end Sys2Proof
end

