-- ==== Sys2Proof/Certificates/Slice0/Terms.lean ====
section
/-! DEFINITION. Words that the statements use: a mailbox that hears its doorbell, the handle that comes next, the reply areas, and the
service of each mailbox command. -/

namespace Sys2Proof.Machine

open Sys2Proof

/-- The machine with package `d`; the queue of commands stays. -/
def State.on (s : State) (d : Dev) : State := { s with dev := d }

/-- The doorbell of command `c` reaches the firmware and finds its mailbox idle (R358, R359). -/
def Dev.hears (d : Dev) (c : Door) : Bool := d.doorOpen c.func c.mbx && (d.mailbox c.func c.mbx).held.isNone

/-- The handle that a command of function `f` takes (R364). -/
def Dev.nextHandle (d : Dev) (f : Nat) : Nat := (d.newHandle f 0 .immediate).1

/-- `d` with that handle open for `w` (R364). -/
def Dev.opened (d : Dev) (f tag : Nat) (w : Work) : Dev := (d.newHandle f tag w).2

/-- The reply of an accepted command of handle `h` (R360). -/
def Dev.replyAccepted (d : Dev) (c : Door) (h : Nat) : Dev := d.putReply c (replyBytes sAccepted 0 h c.tag [])

/-- The reply of an IMMEDIATE command with results `res` (R360). -/
def Dev.replyOk (d : Dev) (c : Door) (res : List Nat) : Dev := d.putReply c (replyBytes sOk 0 0 c.tag res)

/-- What an accepted command of opcode `op` leaves: the mailbox takes its slot, a handle opens for `w`, `eff` is done, and the reply
names the handle (R359, R360, R364). -/
def Dev.accepts (d : Dev) (c : Door) (op : Nat) (w : Work) (eff : Dev → Dev) : Dev :=
  (eff ((d.took c op).opened c.func c.tag w)).replyAccepted c (d.nextHandle c.func)

/-- What an IMMEDIATE command of opcode `op` leaves: the mailbox takes its slot, `eff` is done, and the reply holds `res` (R360). -/
def Dev.answers (d : Dev) (c : Door) (op : Nat) (res : List Nat) (eff : Dev → Dev) : Dev := (eff (d.took c op)).replyOk c res

/-- What a command leaves that writes `data` to its host buffer and ends at once: a handle that completes with `OK` and `res`. -/
def Dev.acceptsData (d : Dev) (c : Door) (op : Nat) (data : List Byte) (res : List Nat) : Dev :=
  d.accepts c op .immediate (fun e =>
    (if data.isEmpty then e else e.hostPut (d.nextHandle c.func) (dp c 8 8) data c.hostOk).finish (d.nextHandle c.func) sOk res)

/-- Check 8 of R361 passes for function `f`. -/
def Dev.handlesLeft (d : Dev) (f : Nat) : Bool := d.heldCount f < 1024

/-- The mailbox commands: slot, opcode and service (R378). -/
def mailboxService : Instr → Option (Door × Nat × (Dev → Door → Svc))
  | .cfgBegin c => some (c, 0x0101, svcCfgBegin)
  | .cfgSet c => some (c, 0x0102, svcCfgSet)
  | .cfgGet c => some (c, 0x0103, svcCfgGet)
  | .cfgCommit c => some (c, 0x0104, svcCfgCommit)
  | .cfgRollback c => some (c, 0x0105, svcCfgRollback)
  | .pastureCreate c => some (c, 0x0201, svcPastureCreate)
  | .pastureDestroy c => some (c, 0x0202, svcPastureDestroy)
  | .pastureQuery c => some (c, 0x0203, svcPastureQuery)
  | .imageLoad c => some (c, 0x0301, svcImageLoad)
  | .imageShare c => some (c, 0x0302, svcImageShare)
  | .imageReseed c => some (c, 0x0303, svcImageReseed)
  | .imageUnload c => some (c, 0x0304, svcImageUnload)
  | .showLoad c => some (c, 0x0401, svcShowLoad)
  | .showUnload c => some (c, 0x0402, svcShowUnload)
  | .reqOpen c => some (c, 0x0501, svcReqOpen)
  | .reqAppend c => some (c, 0x0502, svcReqAppend)
  | .reqGenerate c => some (c, 0x0503, svcReqGenerate)
  | .reqPause c => some (c, 0x0504, svcReqPause)
  | .reqResume c => some (c, 0x0505, svcReqResume)
  | .reqClose c => some (c, 0x0506, svcReqClose)
  | .reqQuery c => some (c, 0x0507, svcReqQuery)
  | .prefixBuild c => some (c, 0x0601, svcPrefixBuild)
  | .prefixTrain c => some (c, 0x0602, svcPrefixTrain)
  | .prefixDrop c => some (c, 0x0603, svcPrefixDrop)
  | .adapterTrain c => some (c, 0x0604, svcAdapterTrain)
  | .expertMapSet c bs => some (c, 0x0701, svcExpertMapSet bs)
  | .expertMapGet c => some (c, 0x0702, svcExpertMapGet)
  | .linkTrain c => some (c, 0x0801, svcLinkTrain)
  | .linkQuery c => some (c, 0x0802, svcLinkQuery)
  | .routeSet c => some (c, 0x0803, svcRouteSet)
  | .beatSync c => some (c, 0x0901, svcBeatSync)
  | .calQuery c => some (c, 0x0902, svcCalQuery)
  | .diagBist c => some (c, 0x0A01, svcDiagBist)
  | .diagMargin c => some (c, 0x0A02, svcDiagMargin)
  | .diagDump c => some (c, 0x0A03, svcDiagDump)
  | .tallyRead c => some (c, 0x0B01, svcTallyRead)
  | .tallyLogRead c => some (c, 0x0B02, svcTallyLogRead)
  | .faultQuery c => some (c, 0x0C01, svcFaultQuery)
  | .faultAck c => some (c, 0x0C02, svcFaultAck)
  | _ => none

/-- The op word `w`, of opcode `code`, stands at the pc of core `k`, whose run `r` waits for nothing; its W wait, if it asks for one, is
over (R83, R84). -/
def Dev.mayIssue (d : Dev) (k code w : Nat) (r : Run) : Prop :=
  d.opAt k = some w ∧ (d.core k).run = some r ∧ r.wait = .none_ ∧ opCode w = code ∧ (opW w = true → (d.core k).maskDone 0 = true)

/-- The op word at the pc of core `k` has issued: it is counted with what the world adds, and the pc advances (R83, R96). -/
def Dev.issued (d : Dev) (k : Nat) (x : OpFacts) : Dev := (d.countIssue k x).modRun k (fun r => { r with pc := r.pc + 1 })

/-- The sequencer of core `k` waits for `w` (R83, R87). -/
def Dev.waits (d : Dev) (k : Nat) (w : SeqWait) : Dev := d.modRun k (fun r => { r with wait := w })

/-- What an op word `w` at index `pc` changes in its core's run beside the pc: the act has used the Pound, or has sent (R163, R182). -/
def Dev.runNotes (d : Dev) (k w : Nat) : Dev :=
  let d := if unitOf w = 4 then d.modRun k (fun r => { r with pound := true }) else d
  if unitOf w = 8 && opCode w = 0x12 then d.modRun k (fun r => { r with sent := opChan w :: r.sent }) else d

/-- The queue entry of op word `w` at index `pc` with the facts `x`. -/
def queueEntry (w pc : Nat) (x : OpFacts) : QOp :=
  { unit := unitOf w, pc, op := w, errs := x.errs, facts := x.blocks.map (fun b => b.1 * 2 ^ 64 + packBlock b.2.1 b.2.2.1 b.2.2.2) }

/-- The op at the head of the exchange port of core `k` is the `SEND` `q` on channel `ch` of pasture `p`, which EXCHANGE entry `x` of
its show `sh` binds to that core (R250). -/
def Dev.sendsOn (d : Dev) (p ch k : Nat) (sh : Show) (q : QOp) (x : Nat) : Prop :=
  d.showOf p = some sh ∧ redWhere sh (fun e => rCchan e == ch) = none ∧ ((d.core k).queued 8).head? = some q ∧ opCode q.op = 0x12 ∧
  opChan q.op = ch ∧ (d.core k).run.map Run.pasture = some p ∧ (layersOf sh).zipIdx.find? (fun y => lLchan y.1 == ch) = none ∧
  (layersOf sh).zipIdx.findSome? (fun y =>
    ((d.ownShards y.1).find? (fun h => cDchan (d.expertEntry y.1 (h / 4)) + h % 4 == ch)).map (fun h => (y.2, h))) = none ∧
  exchangeOf sh ch = some x ∧ fld x 16 12 = sh.position ∧ coreKey (fld x 28 6) (fld x 34 6) = k

/-- Core `k` has no `SEND` on channel `ch` of pasture `p` at the head of its exchange port; EXCHANGE entry `x` of show `sh` binds the
channel to a receiver on this package (R250). -/
def Dev.takesOn (d : Dev) (p ch k : Nat) (sh : Show) (x : Nat) : Prop :=
  d.showOf p = some sh ∧ redWhere sh (fun e => rCchan e == ch) = none ∧ redWhere sh (fun e => rRchan e == ch) = none ∧
  (d.core k).queued 8 = [] ∧ exchangeOf sh ch = some x ∧ fld x 40 12 = sh.position

/-- The commands that issue an op for a unit's queue: die, core, facts and opcode (R85). -/
def unitOp : Instr → Option (Nat × Nat × OpFacts × Nat)
  | .astream die core x => some (die, core, x, 0x02)
  | .screen die core x => some (die, core, x, 0x03)
  | .requant die core x => some (die, core, x, 0x04)
  | .lrank die core x => some (die, core, x, 0x05)
  | .rotate die core x => some (die, core, x, 0x06)
  | .juggle die core x => some (die, core, x, 0x07)
  | .norm die core x => some (die, core, x, 0x08)
  | .softmax die core x => some (die, core, x, 0x09)
  | .poundAdd die core x => some (die, core, x, 0x0A)
  | .poundDrain die core x => some (die, core, x, 0x0B)
  | .bale die core x => some (die, core, x, 0x0C)
  | .unbale die core x => some (die, core, x, 0x0D)
  | .dmaIn die core x => some (die, core, x, 0x10)
  | .dmaOut die core x => some (die, core, x, 0x11)
  | .send die core x => some (die, core, x, 0x12)
  | .recv die core x => some (die, core, x, 0x13)
  | .audit die core x => some (die, core, x, 0x1A)
  | _ => none

/-- The memories of the package have their canonical form: the stacks, the scratchpads, the activation buffers and the boot window. -/
def Dev.memoriesCanonical (d : Dev) : Bool := Mem.wf d.mem && Mem.wf d.spad && Mem.wf d.abuf && Mem.wf d.power.windowMem

/-- A flit from `src` to `dst` that is at die `at_` reaches `dst` within `n` hops, each by a mesh port (R245, R246). -/
def flitArrives (src dst : Nat) : Nat → Nat → Bool
  | 0, at_ => at_ == dst
  | n + 1, at_ => match outPort src dst at_ with
    | none => at_ == dst
    | some q => meshPort at_ q && match neighbour at_ q with
      | some next => flitArrives src dst n next
      | none => false

/-- The message that a command brings to layer `l` of pasture `p` (R327 to R333). -/
def raceMessage : Instr → Option (Nat × Nat × RaceMsg)
  | .dispatch p l from_ step expert slot shard data =>
    some (p, l, { step, kind := 1, src := from_, tag := expert % 2 ^ 12 + slot % 2 ^ 12 * 2 ^ 12 + shard % 4 * 2 ^ 24, data })
  | .manifest p l from_ step mapver es =>
    some (p, l, { step, kind := 2, src := from_, mapver, arrivals := es.map (fun a =>
      { src := 0, expert := a.1, slot := a.2.1, rank := a.2.2.1, token := a.2.2.2.1, weight := a.2.2.2.2 }) })
  | .returnVector p l _ shard true step token rank data =>
    some (p, l, { step, kind := 3, src := 0, tag := token % 2 ^ 16 + (rank + 7) % 8 * 2 ^ 16 + shard % 4 * 2 ^ 19, data })
  | .refuse p l from_ step experts =>
    some (p, l, { step, kind := 4, src := from_, arrivals := experts.map (fun x =>
      { src := 0, expert := x, slot := 0, rank := 0, token := 0, weight := 0 }) })
  | .abandon p l from_ step atSource hw =>
    some (p, l, { step, kind := 5, src := from_, tag := atSource.toNat, mapver := hw.toNat })
  | _ => none

end Sys2Proof.Machine
end

