-- ==== Sys2Proof/Certificates/Slice0/Obligations.lean ====
section
/-! DEFINITION. What is claimed of the machine, one definition for each statement. -/

open Sys2Proof Sys2Proof.Machine

/-- For every command c, every queue rest and every state s: the step at s with c :: rest waiting answers what c's meaning
answers at s with rest waiting; and with nothing waiting the step answers s itself. That an empty queue idles is the model's
choice (log entry 1). -/
def Obligations.StepRunsFrontCommand : Prop :=
  (∀ (c : Instr) (rest : List Instr) (s : State), step { s with pending := c :: rest } = exec c { s with pending := rest }) ∧
  (∀ s : State, s.pending = [] → step s = .next s)

/-- For every command and every state the meaning answers a next state, never a fault and never a refusal, and the commands that
wait are as before. -/
def Obligations.EveryCommandAnswersAndKeepsTheQueue : Prop :=
  ∀ (c : Instr) (s : State), ∃ d, exec c s = .next (s.on d)

/-- After reset release no command waits; the package is in STARTING in start-up step 1, no command is served, the beat is FREE,
the Calendar, the fault log and the handles are empty, no pasture and no step group exists, every error counter reads 0, every
function's sequence counter is 0, and the PF is the one function that exists. The memories have their canonical form and list
nothing (what an unlisted byte reads as is the model's choice, log entry 3). -/
def Obligations.ResetHoldsWhatTheRulesGive : Prop :=
  let d := State.reset.dev
  State.reset.pending = [] ∧ d.power.st = .starting ∧ d.power.step = 1 ∧ d.serving = false ∧ d.beat.st = .free ∧ d.cal = [] ∧ d.faults.log = [] ∧
  d.handles = [] ∧ d.pastures = [] ∧ d.groups = [] ∧ (∀ die core i : Nat, d.err die core i = 0) ∧
  (∀ f : Nat, (d.func f).seq = 0) ∧ (∀ f : Nat, (d.func f).enabled = true ↔ f = 0) ∧
  d.mem = [] ∧ d.spad = [] ∧ d.abuf = [] ∧ d.power.windowMem = [] ∧ d.memoriesCanonical = true

/-- For each of the 39 mailbox commands: where its doorbell reaches an idle mailbox and its checks refuse it, the next state
differs from the old one in that mailbox alone, which holds the slot and a reply area with the refusal's STATUS, its DETAIL,
HANDLE 0, the HOST_TAG and no result words. A doorbell at a mailbox that holds another command's slot advances the function's
RM_MBX_IGNORED (saturating) and changes nothing else; one at a function that is not decoded, not enabled or under function-level
reset, or before start-up has ended, changes nothing. -/
def Obligations.RefusedCommandLeavesNothingBehind : Prop :=
  (∀ (i : Instr) (c : Door) (op : Nat) (svc : Dev → Door → Svc) (r : Refuse) (s : State),
    mailboxService i = some (c, op, svc) → s.dev.hears c = true → svc (s.dev.took c op) c = .error r →
    exec i s = .next (s.on ((s.dev.took c op).putReply c (replyBytes r.status r.detail 0 c.tag [])))) ∧
  (∀ (i : Instr) (c : Door) (op : Nat) (svc : Dev → Door → Svc) (s : State), mailboxService i = some (c, op, svc) →
    (∀ other, s.dev.doorOpen c.func c.mbx = true → (s.dev.mailbox c.func c.mbx).held = some other → other ≠ doorSlot c op →
      exec i s = .next (s.on (s.dev.modFunc c.func (fun x => { x with mbxIgnored := satAdd 32 x.mbxIgnored 1 })))) ∧
    (s.dev.doorOpen c.func c.mbx = false → exec i s = .next s))

/-- CFG_BEGIN of either scope opens a transaction, empty and last in order, under a new handle that the reply names. CFG_SET
stages its items in order, a key staged again replaced in its place, and answers the number of items staged. CFG_GET answers the
staged value of each key named, else the value in force. Each holds in every state in which the checks of the command pass,
stated one by one, and nothing else of the package changes. -/
def Obligations.ConfigurationTransactionsOpenStageAndRead : Prop :=
  (∀ (s : State) (c : Door) (p : Nat), s.dev.hears c = true → checkHeader c 8 [(0, [255, 255])] = .ok () → dp c 0 1 = 0 →
    s.dev.stopped = false → namedPasture s.dev c 1 = .ok p →
    (∀ t ∈ s.dev.txns, t.pending = false → t.package = false → t.pasture ≠ p) → s.dev.handlesLeft c.func = true →
    exec (.cfgBegin c) s = .next (s.on (s.dev.accepts c 0x0101 .txn (fun d =>
      { d with txns := d.txns ++ [{ handle := s.dev.nextHandle c.func, package := false, pasture := p, touched := d.beat.now }] })))) ∧
  (∀ (s : State) (c : Door), s.dev.hears c = true → checkHeader c 8 [(0, [255, 255])] = .ok () → dp c 0 1 = 1 → c.func = 0 →
    s.dev.stopped = false → dp c 1 1 = 0 → (∀ t ∈ s.dev.txns, t.pending = false → t.package = false) → s.dev.handlesLeft 0 = true →
    exec (.cfgBegin c) s = .next (s.on (s.dev.accepts c 0x0101 .txn (fun d =>
      { d with txns := d.txns ++ [{ handle := s.dev.nextHandle 0, package := true, pasture := 0, touched := d.beat.now }] })))) ∧
  (∀ (s : State) (c : Door) (h n : Nat) (t : Txn), s.dev.hears c = true → n = dp c 4 2 → 1 ≤ n → n ≤ 14 → cfgSetHeader c n = .ok () →
    s.dev.stopped = false → namedHandle s.dev c false = .ok h → s.dev.txnOf h = some t → t.pending = false →
    (∀ i < n, (if t.package then isPackageKey else isPastureKey) (setItem c i).1 = true) →
    ∀ staged, staged = ((List.range n).map (setItem c)).foldl (fun l i => stage l i.1 i.2) t.items → staged.length ≤ 512 →
    exec (.cfgSet c) s = .next (s.on (s.dev.answers c 0x0102 [staged.length] (fun d =>
      d.modTxn h (fun t => { t with items := staged, touched := d.beat.now }))))) ∧
  (∀ (s : State) (c : Door) (h n p : Nat) (t : Txn), s.dev.hears c = true → n = dp c 4 2 → 1 ≤ n → n ≤ 6 → cfgGetHeader c n = .ok () →
    dp c 0 4 ≠ 0 → namedHandle s.dev c false = .ok h → s.dev.txnOf h = some t →
    (∀ i < n, isPastureKey (dp c (8 + 2 * i) 2) = true → (if t.package then s.dev.pastureOf c.func else some t.pasture) = some p) →
    (∀ i < n, isPastureKey (dp c (8 + 2 * i) 2) = true ∨ isPackageKey (dp c (8 + 2 * i) 2) = true) →
    exec (.cfgGet c) s = .next (s.on (s.dev.answers c 0x0103
      ((List.range n).map (fun i =>
        let k := dp c (8 + 2 * i) 2
        match t.items.find? (fun e => e.1 == k) with
        | some e => e.2
        | none => if isPastureKey k then s.dev.pKey p k else s.dev.key k))
      (fun d => d.modTxn h (fun t => if t.pending then t else { t with touched := d.beat.now }))))) ∧
  (∀ (s : State) (c : Door) (n p : Nat), s.dev.hears c = true → n = dp c 4 2 → 1 ≤ n → n ≤ 6 → cfgGetHeader c n = .ok () →
    dp c 0 4 = 0 → (∀ i < n, isPastureKey (dp c (8 + 2 * i) 2) = true → s.dev.pastureOf c.func = some p) →
    (∀ i < n, isPastureKey (dp c (8 + 2 * i) 2) = true ∨ isPackageKey (dp c (8 + 2 * i) 2) = true) →
    exec (.cfgGet c) s = .next (s.on (s.dev.answers c 0x0103
      ((List.range n).map (fun i =>
        let k := dp c (8 + 2 * i) 2
        if isPastureKey k then s.dev.pKey p k else s.dev.key k)) id)))

/-- A CFG_COMMIT whose checks pass and whose items validate makes the transaction pending at its commit beat, in order of
acceptance, and places its power-cap and commit entries; one whose item fails rolls the transaction back at once with the
failing key, its index and the reason. CFG_ROLLBACK rolls back with key 0 and reason 0 and itself answers OK. Four beats before
the commit beat a pending transaction is marked validated, or rolled back with reason 4. An open transaction left alone for 2^24
beats completes TIMEOUT with the number of items staged. Nothing else of the package changes. -/
def Obligations.ConfigurationTransactionsCommitAndRollBack : Prop :=
  (∀ (s : State) (c : Door) (h : Nat) (t : Txn), s.dev.hears c = true →
    checkHeader c 16 [(0, List.replicate 4 255), (8, List.replicate 8 255)] = .ok () → s.dev.stopped = false →
    namedHandle s.dev c false = .ok h → s.dev.txnOf h = some t → t.pending = false →
    16 ≤ beatAhead s.dev.beat.now (dp c 8 8) → beatAhead s.dev.beat.now (dp c 8 8) ≤ 2 ^ 24 →
    ∀ u : Txn, u = { t with pending := true, commit := dp c 8 8, order := s.dev.commits } →
    s.dev.calRoom (commitEntry s.dev u).dies 1 = true →
    (s.dev.validate t (dp c 8 8) s.dev.commits = none →
      exec (.cfgCommit c) s = .next (s.on (((capEntries u ++ [commitEntry s.dev u]).foldl Dev.calPlace
        ((s.dev.took c 0x0104).countCommit.modTxn h (fun _ => u))).replyAccepted c h))) ∧
    (∀ i k r, s.dev.validate t (dp c 8 8) s.dev.commits = some (i, k, r) →
      exec (.cfgCommit c) s = .next (s.on (((s.dev.took c 0x0104).countCommit.rollBack t sRolledBack k r i false).replyAccepted c h)))) ∧
  (∀ (s : State) (c : Door) (h : Nat) (t : Txn), s.dev.hears c = true → checkHeader c 8 [(0, List.replicate 4 255)] = .ok () →
    s.dev.stopped = false → namedHandle s.dev c true = .ok h → s.dev.txnOf h = some t → t.validated = false → t.fired = false →
    exec (.cfgRollback c) s = .next (s.on (s.dev.answers c 0x0105 [] (fun d => d.rollBack t sRolledBack 0 0 0 false)))) ∧
  (∀ (s : State) (h : Nat) (t : Txn), s.dev.txnOf h = some t → t.pending = true → t.validated = false →
    (s.dev.beat.now + 4) % 2 ^ 64 = t.commit →
    exec (.finalValidation h) s = .next (s.on (match s.dev.validate t t.commit t.order with
      | some (i, k, _) => s.dev.rollBack t sRolledBack k 4 i false
      | none => s.dev.modTxn h (fun t => { t with validated := true })))) ∧
  (∀ (s : State) (h : Nat) (t : Txn), s.dev.txnOf h = some t → t.pending = false → 2 ^ 24 ≤ beatAhead t.touched s.dev.beat.now →
    exec (.cfgTransactionTimeout h) s = .next (s.on ((s.dev.dropTxn h).finish h sTimeout [t.items.length])))

/-- Completing an open handle of its function's current generation, outside a function-level reset, adds to that function's
waiting completions one completion with the handle, the status, the beat, the HOST_TAG of the command and its three result
words, and nothing to any other function; completing a handle that is not open changes nothing; and once a handle has completed
it is not open, so that completing it again changes nothing. -/
def Obligations.HandleCompletesOnce : Prop :=
  (∀ (d : Dev) (h st beat : Nat) (res : List Nat) (ruled : Bool) (x : Handle), Tab.get? d.handles h = some x → d.isOpen h = true →
    (d.func (hFunc h)).flr = false → hGen h = (d.func (hFunc h)).gen →
    ∀ e, e = d.finishAt h st beat res ruled →
    (∃ q ∈ (e.func (hFunc h)).waiting, q.handle = h ∧ q.status = st ∧ q.beat = beat ∧ q.tag = x.tag ∧ q.r0 = res.getD 0 0 % 2 ^ 32 ∧
      q.r1 = res.getD 1 0 % 2 ^ 32 ∧ q.r2 = res.getD 2 0 % 2 ^ 32) ∧
    (e.func (hFunc h)).waiting.length = (d.func (hFunc h)).waiting.length + 1 ∧
    (∀ f, f ≠ hFunc h → e.func f = d.func f) ∧ e.isOpen h = false ∧ (∀ st' beat' res' r', e.finishAt h st' beat' res' r' = e)) ∧
  (∀ (d : Dev) (h st beat : Nat) (res : List Nat) (ruled : Bool), d.isOpen h = false → d.finishAt h st beat res ruled = d)

/-- PASTURE_CREATE takes the lowest free pasture number for free pens and an enabled function bound to none; PASTURE_DESTROY
rolls back the pasture's transactions, aborts its function's handles, unloads its contents and withdraws its map entries;
PASTURE_QUERY answers pens, function, show, offline pens and the open counts. The last pen's clear makes a created pasture ready
and completes OK with its number, or removes a destroyed one and completes OK with its pens; an earlier clear clears that pen
alone. -/
def Obligations.PastureCommandsActAsAccepted : Prop :=
  (∀ (s : State) (c : Door) (p : Nat), s.dev.hears c = true → checkHeader c 8 [(0, [255, 255, 255])] = .ok () → c.func = 0 →
    s.dev.stopped = false → dp c 0 2 ≠ 0 → dp c 2 1 ≤ 16 → (s.dev.func (dp c 2 1)).enabled = true →
    (∀ pen < 16, bit (dp c 0 2) pen = true → s.dev.pastureOfPen pen = 31 ∧ bit s.dev.faults.offline pen = false) →
    (∀ q ∈ s.dev.pastures, q.2.func ≠ dp c 2 1) → s.dev.handlesLeft 0 = true →
    (List.range 16).find? (fun n => (Tab.get? s.dev.pastures n).isNone) = some p →
    exec (.pastureCreate c) s = .next (s.on (s.dev.accepts c 0x0201 (.pastureCreate p (dp c 0 2)) (fun d =>
      { d with pastures := Tab.put d.pastures p { pens := dp c 0 2, func := dp c 2 1 } })))) ∧
  (∀ (s : State) (c : Door) (q : Pasture), s.dev.hears c = true → checkHeader c 8 [(0, [255])] = .ok () → c.func = 0 →
    s.dev.stopped = false → s.dev.pasture (dp c 0 1) = some q → s.dev.grantsOut (dp c 0 1) q = false → s.dev.handlesLeft 0 = true →
    exec (.pastureDestroy c) s = .next (s.on (s.dev.accepts c 0x0202 (.pastureDestroy (dp c 0 1) q.pens q.pens) (fun d =>
      (((d.destroyTxns (dp c 0 1)).destroyHandles (dp c 0 1) q.func (s.dev.nextHandle 0)).destroyContents (dp c 0 1)).remap)))) ∧
  (∀ (s : State) (c : Door) (p : Nat) (q : Pasture), s.dev.hears c = true → checkHeader c 8 [(0, [255])] = .ok () →
    namedPasture s.dev c 0 = .ok p → s.dev.pasture p = some q →
    exec (.pastureQuery c) s = .next (s.on (s.dev.answers c 0x0203
      [q.pens + q.func * 2 ^ 16 + (if q.sh.isSome then 2 ^ 21 else 0), q.pens &&& s.dev.faults.offline,
        (s.dev.reqs.filter (fun r => r.2.pasture == p && r.2.build.isNone)).length, ((s.dev.heldOf q.func).filter (fun h => hGen h == (s.dev.func q.func).gen)).length] id))) ∧
  (∀ (s : State) (p q h left : Nat) (x : Handle), s.dev.handles.find? (awaitsClear p) = some (h, x) →
    (x.work = .pastureCreate q left →
      exec (.penClearDone p) s = .next (s.on (if setBit left p false = 0
        then (((s.dev.clearPen p).modPasture q (fun y => { y with ready := true })).remap).finish h sOk [q]
        else (s.dev.clearPen p).setWork h (.pastureCreate q (setBit left p false))))) ∧
    (∀ pens, x.work = .pastureDestroy q pens left →
      exec (.penClearDone p) s = .next (s.on (if setBit left p false = 0
        then (({ (s.dev.clearPen p) with pastures := Tab.del s.dev.pastures q } : Dev).remap).finish h sOk [pens]
        else (s.dev.clearPen p).setWork h (.pastureDestroy q pens (setBit left p false))))))

/-- IMAGE_LOAD of a free image number into a free region of an own pen records the image and asks the host for its bytes.
IMAGE_SHARE replaces the grant mask of an image loaded under SHARED, or of a prefix, writes the access maps and completes OK.
IMAGE_RESEED asks the host for the bytes of the range that it names. IMAGE_UNLOAD of an image that no show binds and no other
pasture is granted removes it, writes the access maps and completes OK. -/
def Obligations.ImageCommandsActAsAccepted : Prop :=
  (∀ (s : State) (c : Door) (p : Nat) (q : Pasture), s.dev.hears c = true →
    checkHeader c 32 [(0, [255, 255, 255, 255, 1]), (8, List.replicate 24 255)] = .ok () → s.dev.stopped = false →
    s.dev.pastureOf c.func = some p → s.dev.pasture p = some q → dp c 2 1 ≤ 15 → bit q.pens (dp c 2 1) = true → dp c 0 2 ≤ 1023 →
    dp c 3 1 ≤ 14 → (dp c 3 1 = 0 → dp c 8 8 % 2048 = 0) → dp c 16 8 ≠ 0 → dp c 16 8 % 64 = 0 → dp c 8 8 + dp c 16 8 ≤ 2 ^ 38 →
    dp c 24 8 % 64 = 0 → Tab.get? q.images (dp c 0 2) = none →
    (∀ r ∈ s.dev.pastures, ∀ i ∈ r.2.images, i.2.pen = dp c 2 1 → overlaps i.2.off i.2.len (dp c 8 8) (dp c 16 8) = false) →
    (∀ o n, s.dev.poolOf p (dp c 2 1) = some (o, n) → overlaps o n (dp c 8 8) (dp c 16 8) = false) → s.dev.handlesLeft c.func = true →
    exec (.imageLoad c) s = .next (s.on (s.dev.accepts c 0x0301 (.imageLoad p (dp c 0 2) false) (fun d =>
      let i : Image := { pen := dp c 2 1, off := dp c 8 8, len := dp c 16 8, fmt := dp c 3 1, shared := s.dev.pKey p kSharing == 1,
                         goldenDue := bit (dp c 4 1) 0 }
      (d.modPasture p (fun q => { q with images := Tab.put q.images (dp c 0 2) i })).emit (.hostRead c.func (dp c 24 8) (dp c 16 8) (s.dev.nextHandle c.func)))))) ∧
  (∀ (s : State) (c : Door) (p : Nat) (i : Image), s.dev.hears c = true → checkHeader c 8 [(0, List.replicate 6 255)] = .ok () →
    c.func = 0 → s.dev.stopped = false → namedPasture s.dev c 1 = .ok p → dp c 0 1 = 0 → dp c 2 2 ≤ 1023 →
    s.dev.image p (dp c 2 2) = some i → i.shared = true →
    (∀ u < 16, u ≠ p → bit i.grants u = true → bit (dp c 4 2) u = false → s.dev.showBinds u p (dp c 2 2) = false) →
    s.dev.handlesLeft 0 = true →
    ((s.dev.took c 0x0302).modImage p (dp c 2 2) (fun i => { i with grants := dp c 4 2 })).windowsFit = true →
    exec (.imageShare c) s = .next (s.on ((((((s.dev.took c 0x0302).modImage p (dp c 2 2) (fun i => { i with grants := dp c 4 2 })).remap).opened
      0 c.tag .immediate).finish (s.dev.nextHandle 0) sOk []).replyAccepted c (s.dev.nextHandle 0)))) ∧
  (∀ (s : State) (c : Door) (p : Nat) (x : Prefix), s.dev.hears c = true → checkHeader c 8 [(0, List.replicate 6 255)] = .ok () →
    c.func = 0 → s.dev.stopped = false → namedPasture s.dev c 1 = .ok p → dp c 0 1 = 1 → dp c 2 2 ≤ 1023 →
    s.dev.prefixOf p (dp c 2 2) = some x →
    (∀ r ∈ s.dev.reqs, r.2.pasture ≠ p → r.2.pfx = some (p * 1024 + dp c 2 2) → bit x.grants r.2.pasture = true →
      bit (dp c 4 2) r.2.pasture = true) →
    s.dev.handlesLeft 0 = true →
    ((s.dev.took c 0x0302).modPrefix p (dp c 2 2) (fun x => { x with grants := dp c 4 2 })).windowsFit = true →
    exec (.imageShare c) s = .next (s.on ((((((s.dev.took c 0x0302).modPrefix p (dp c 2 2) (fun x => { x with grants := dp c 4 2 })).remap).opened
      0 c.tag .immediate).finish (s.dev.nextHandle 0) sOk []).replyAccepted c (s.dev.nextHandle 0)))) ∧
  (∀ (s : State) (c : Door) (p : Nat) (i : Image), s.dev.hears c = true →
    checkHeader c 32 [(0, [255, 255, 255]), (8, List.replicate 24 255)] = .ok () → s.dev.stopped = false → namedPasture s.dev c 2 = .ok p →
    dp c 0 2 ≤ 1023 → s.dev.image p (dp c 0 2) = some i → dp c 8 8 % 4096 = 0 → dp c 8 8 < i.len → dp c 16 8 ≠ 0 →
    dp c 8 8 + dp c 16 8 ≤ i.len → (dp c 16 8 % 4096 = 0 ∨ dp c 8 8 + dp c 16 8 = i.len) → dp c 24 8 % 64 = 0 →
    s.dev.handlesLeft c.func = true →
    exec (.imageReseed c) s = .next (s.on (s.dev.accepts c 0x0303 (.imageReseed p (dp c 0 2) (dp c 8 8) (dp c 16 8)) (fun d =>
      d.emit (.hostRead c.func (dp c 24 8) (dp c 16 8) (s.dev.nextHandle c.func)))))) ∧
  (∀ (s : State) (c : Door) (p : Nat) (i : Image), s.dev.hears c = true → checkHeader c 8 [(0, [255, 255])] = .ok () →
    s.dev.stopped = false → s.dev.pastureOf c.func = some p → dp c 0 2 ≤ 1023 → s.dev.image p (dp c 0 2) = some i →
    s.dev.binders p (dp c 0 2) = [] → i.grants % 2 ^ 16 = i.grants &&& 2 ^ p → s.dev.handlesLeft c.func = true →
    exec (.imageUnload c) s = .next (s.on (s.dev.accepts c 0x0304 .immediate (fun d =>
      (d.modPasture p (fun q => { q with images := Tab.del q.images (dp c 0 2) })).remap.finish (s.dev.nextHandle c.func) sOk []))))

/-- SHOW_LOAD of a pasture without a show asks the host for the container. Once the container is read, one that passes every
check is placed and the handle completes OK; one that fails completes with the failure's status and its check, index and kind in
RES0 to RES2, and no act is loaded. SHOW_UNLOAD of a pasture without open requests and held prefixes marks each of its groups to
stop at its next boundary. -/
def Obligations.ShowCommandsActAsAccepted : Prop :=
  (∀ (s : State) (c : Door) (p : Nat), s.dev.hears c = true → checkHeader c 16 [(0, List.replicate 16 255)] = .ok () →
    s.dev.stopped = false → s.dev.pastureOf c.func = some p → dp c 0 8 % 64 = 0 → 4096 ≤ dp c 8 8 → dp c 8 8 ≤ 2 ^ 30 →
    s.dev.showOf p = none → (∀ h ∈ s.dev.handles, hFunc h.1 = c.func → h.2.work.loadsShow = false) → s.dev.handlesLeft c.func = true →
    exec (.showLoad c) s = .next (s.on (s.dev.accepts c 0x0401 (.showLoad p (dp c 8 8)) (fun d =>
      d.emit (.hostRead c.func (dp c 0 8) (dp c 8 8) (s.dev.nextHandle c.func)))))) ∧
  (∀ (s : State) (h p pens : Nat) (bs : List Byte) (feeds pins spread sparse addrs) (f : ShowFacts) (x : Handle),
    Tab.get? s.dev.handles h = some x → x.work = .showCheck p bs → pens = ((Tab.get? s.dev.pastures p).map (·.pens)).getD 0 →
    f = { feeds, pins, spread, sparse, addrs } →
    (∀ k : Container, containerCheck s.dev p pens bs.length bs f = .ok k →
      exec (.showContainerRead h feeds pins spread sparse addrs) s = .next (s.on ((s.dev.placeShow p k f).finish h sOk []))) ∧
    (∀ e : ShowFail, containerCheck s.dev p pens bs.length bs f = .error e →
      exec (.showContainerRead h feeds pins spread sparse addrs) s = .next (s.on
        ((s.dev.modPasture p (fun q => { q with loading := false })).finish h e.status [e.check, e.idx, e.kind])))) ∧
  (∀ (s : State) (c : Door) (p : Nat) (w : Show), s.dev.hears c = true → checkHeader c 8 [] = .ok () → s.dev.stopped = false →
    s.dev.pastureOf c.func = some p → s.dev.showOf p = some w → s.dev.openReqs p = 0 →
    (∀ q, Tab.get? s.dev.pastures p = some q → ∀ x ∈ q.prefixes, x.2.count = 0) → s.dev.handlesLeft c.func = true →
    exec (.showUnload c) s = .next (s.on (s.dev.accepts c 0x0402 (.showUnload p (s.dev.groupsOf p)) (fun d =>
      (s.dev.groupsOf p).foldl (fun d g => d.modGroup g (fun x => { x with unloading := true })) d))))

/-- REQ_OPEN creates an IDLE request of the issuer's pasture, with or without a prefix, whose count then advances, and counts
it. REQ_APPEND and REQ_GENERATE accepted in IDLE start at once, and accepted in a state that queues them wait in the request's
queue; each reserves the pages of R295. No other request and nothing else of the package changes. -/
def Obligations.RequestsOpenAppendAndGenerate : Prop :=
  (∀ (s : State) (c : Door) (p : Nat) (w : Show), s.dev.hears c = true → checkHeader c 8 [(0, [255, 255, 255])] = .ok () →
    s.dev.stopped = false → s.dev.pastureOf c.func = some p → s.dev.showOf p = some w → s.dev.handlesLeft c.func = true →
    s.dev.openReqs p < w.rmax →
    (dp c 0 2 = 0xFFFF →
      exec (.reqOpen c) s = .next (s.on (s.dev.accepts c 0x0501 .request (fun d =>
        ({ d with reqs := Tab.put d.reqs (s.dev.nextHandle c.func) { pasture := p } } : Dev).srvAdd c.func 4 1)))) ∧
    (∀ (owner : Nat) (x : Prefix), dp c 0 2 ≠ 0xFFFF → owner = (if dp c 2 1 = 0xFF then p else dp c 2 1) →
      s.dev.prefixOf owner (dp c 0 2) = some x → x.dropped = false → x.built = true → (owner = p ∨ bit x.grants p = true) →
      x.count < 2 ^ 32 - 1 → dp c 0 2 < 1024 →
      exec (.reqOpen c) s = .next (s.on (s.dev.accepts c 0x0501 .request (fun d =>
        (({ d with reqs := Tab.put d.reqs (s.dev.nextHandle c.func) { pasture := p, pfx := some (owner * 1024 + dp c 0 2) } } : Dev).modPrefix
          owner (dp c 0 2) (fun x => { x with count := x.count + 1 })).srvAdd c.func 4 1))))) ∧
  (∀ (s : State) (c : Door) (h p : Nat) (r : Request), s.dev.hears c = true → checkHeader c 16 [(0, List.replicate 16 255)] = .ok () →
    s.dev.stopped = false → s.dev.pastureOf c.func = some p → namedHandle s.dev c false = .ok h → s.dev.req h = some r → 1 ≤ dp c 4 4 → dp c 4 4 ≤ 2 ^ 20 →
    r.committed + dp c 4 4 ≤ 262144 → dp c 8 8 % 64 = 0 → s.dev.handlesLeft c.func = true →
    reserveOk s.dev r (r.need (dp c 4 4) 0) = .ok () →
    (admitAppend r = .accept →
      exec (.reqAppend c) s = .next (s.on (s.dev.accepts c 0x0502 (.reqAppend h) (fun d =>
        (d.modReq h (fun y =>
          { y with
            st := .prefill, admitted := d.beat.now, append := s.dev.nextHandle c.func, prompt := dp c 4 4, tokensIn := false, tokens := []
            resv := r.need (dp c 4 4) 0 })).emit (.hostRead c.func (dp c 8 8) (4 * dp c 4 4) (s.dev.nextHandle c.func)))))) ∧
    (admitAppend r = .queue →
      exec (.reqAppend c) s = .next (s.on (s.dev.accepts c 0x0502 (.reqAppend h) (fun d =>
        (d.modReq h (fun y =>
          { y with
            qAppend := s.dev.nextHandle c.func, qBeatA := d.beat.now, qCount := dp c 4 4, qIn := false, qTokens := []
            qResvA := r.need (dp c 4 4) 0, qGenFirst := y.qGen != 0 })).emit
          (.hostRead c.func (dp c 8 8) (4 * dp c 4 4) (s.dev.nextHandle c.func))))))) ∧
  (∀ (s : State) (c : Door) (h n p : Nat) (r : Request), s.dev.hears c = true → checkHeader c 24 [(0, List.replicate 20 255)] = .ok () →
    s.dev.stopped = false → s.dev.pastureOf c.func = some p → namedHandle s.dev c false = .ok h → s.dev.req h = some r → 1 ≤ dp c 4 4 → dp c 4 4 ≤ 2 ^ 20 →
    r.committed + dp c 4 4 ≤ 262144 → dp c 8 8 % 64 = 0 → 8 + 4 * dp c 4 4 ≤ dp c 16 4 → s.dev.handlesLeft c.func = true →
    n = r.need (dp c 4 4) (s.dev.draftWidth r.pasture) → reserveOk s.dev r n = .ok () →
    (admitGen r = .accept →
      exec (.reqGenerate c) s = .next (s.on (s.dev.accepts c 0x0503 (.reqGenerate h) (fun d =>
        d.modReq h (fun y =>
          { y with
            st := .decode, admitted := d.beat.now, gen := s.dev.nextHandle c.func, genMax := dp c 4 4, genDone := 0, genBuf := dp c 8 8
            genBase := 0, resv := n }))))) ∧
    (admitGen r = .queue →
      exec (.reqGenerate c) s = .next (s.on (s.dev.accepts c 0x0503 (.reqGenerate h) (fun d =>
        d.modReq h (fun y =>
          { y with
            qGen := s.dev.nextHandle c.func, qBeatG := d.beat.now, qMax := dp c 4 4, qBuf := dp c 8 8, qResvG := n
            qGenFirst := y.qAppend == 0 }))))))

/-- An append is accepted in IDLE, queued once in PREFILL, DECODE and RESUMING and BUSY when one is queued, and a CONFLICT in
PAUSING and PAUSED; a generate is accepted in IDLE, queued once in PREFILL and RESUMING and BUSY when one is queued, BUSY in
DECODE, and a CONFLICT in PAUSING and PAUSED; a pause is accepted in IDLE, BUSY in PREFILL and DECODE, and a CONFLICT in
PAUSING, PAUSED and RESUMING. -/
def Obligations.RequestStateTable : Prop :=
  ∀ r : Request,
    (r.st = .idle → admitAppend r = .accept ∧ admitGen r = .accept ∧ admitPause r = .accept) ∧
    (r.st = .prefill → admitAppend r = (if r.qAppend = 0 then .queue else .refuse sBusy) ∧
      admitGen r = (if r.qGen = 0 then .queue else .refuse sBusy) ∧ admitPause r = .refuse sBusy) ∧
    (r.st = .decode → admitAppend r = (if r.qAppend = 0 then .queue else .refuse sBusy) ∧
      admitGen r = .refuse sBusy ∧ admitPause r = .refuse sBusy) ∧
    (r.st = .resuming → admitAppend r = (if r.qAppend = 0 then .queue else .refuse sBusy) ∧
      admitGen r = (if r.qGen = 0 then .queue else .refuse sBusy) ∧ admitPause r = .refuse sConflict) ∧
    ((r.st = .pausing ∨ r.st = .paused) → admitAppend r = .refuse sConflict ∧ admitGen r = .refuse sConflict ∧
      admitPause r = .refuse sConflict)

/-- REQ_PAUSE of an IDLE request moves it to PAUSING with its expiry, TTL seconds of beats at the Beat rate ahead, and places
the sweep entry anew. REQ_RESUME of a PAUSED request before its expiry, whose pages the pools can take again, moves it to
RESUMING; one that moved none goes on at once and completes OK. REQ_CLOSE closes at once an IDLE or PAUSED request, or a PAUSING
one whose pages do not move, and otherwise marks it to close. REQ_QUERY answers the state code, the committed positions and the
pages. The rate before a first measurement is the model's choice (log entry 112). -/
def Obligations.RequestsPauseResumeCloseAndReport : Prop :=
  (∀ (s : State) (c : Door) (h p : Nat) (r : Request), s.dev.hears c = true → checkHeader c 8 [(0, List.replicate 8 255)] = .ok () →
    s.dev.stopped = false → s.dev.pastureOf c.func = some p → namedHandle s.dev c false = .ok h → s.dev.req h = some r →
    1 ≤ dp c 4 4 → dp c 4 4 ≤ 2592000 → r.st = .idle → s.dev.handlesLeft c.func = true →
    exec (.reqPause c) s = .next (s.on (s.dev.accepts c 0x0504 (.reqPause h) (fun d =>
      (d.modReq h (fun y =>
        { y with
          st := .pausing, pause := s.dev.nextHandle c.func, expiry := (d.beat.now + dp c 4 4 * d.beat.rate) % 2 ^ 64, moving := false
          inStacks := false, tier := [] })).resweep r.pasture)))) ∧
  (∀ (s : State) (c : Door) (h p : Nat) (r : Request), s.dev.hears c = true → checkHeader c 8 [(0, List.replicate 4 255)] = .ok () →
    s.dev.stopped = false → s.dev.pastureOf c.func = some p → namedHandle s.dev c false = .ok h → s.dev.req h = some r →
    r.st = .paused → beatGe s.dev.beat.now r.expiry = false → s.dev.handlesLeft c.func = true → s.dev.canRestore r = true →
    exec (.reqResume c) s = .next (s.on (s.dev.accepts c 0x0505 (.reqResume h) (fun d =>
      let q := s.dev.nextHandle c.func
      let e := (d.modReq h (fun y => { y with st := .resuming, resume := q, restored := 0 })).resweep r.pasture
      if r.tier.isEmpty then ((e.modReq h (fun y => { y with resume := 0 })).nextState h).finish q sOk [0] else e)))) ∧
  (∀ (s : State) (c : Door) (h : Nat) (r : Request), s.dev.hears c = true → checkHeader c 8 [(0, List.replicate 4 255)] = .ok () →
    s.dev.stopped = false → (c.func ≠ 0 → ∃ p, s.dev.pastureOf c.func = some p) → namedHandle s.dev c true = .ok h →
    s.dev.req h = some r → r.closing = false → s.dev.handlesLeft (hFunc h) = true → ∀ q, q = s.dev.nextHandle (hFunc h) →
    ∀ e, e = ((s.dev.took c 0x0506).opened (hFunc h) c.tag (.reqClose h)).modReq h (fun y => { y with close := q, closing := true }) →
    ((r.st = .idle ∨ r.st = .paused ∨ (r.st = .pausing ∧ r.moving = false) ∨ (r.st = .resuming ∧ r.tier = [])) →
      exec (.reqClose c) s = .next (s.on ((e.closeReq h sOk sAborted).replyAccepted c q))) ∧
    ((r.st = .prefill ∨ r.st = .decode ∨ (r.st = .pausing ∧ r.moving = true) ∨ (r.st = .resuming ∧ r.tier ≠ [])) →
      exec (.reqClose c) s = .next (s.on (e.replyAccepted c q)))) ∧
  (∀ (s : State) (c : Door) (h : Nat) (r : Request), s.dev.hears c = true → checkHeader c 8 [(0, List.replicate 4 255)] = .ok () →
    (c.func ≠ 0 → ∃ p, s.dev.pastureOf c.func = some p) → namedHandle s.dev c true = .ok h → s.dev.req h = some r →
    exec (.reqQuery c) s = .next (s.on (s.dev.answers c 0x0507
      [reqCode r.st, r.committed, r.lists.foldl (fun n l => n + l.2.length) 0] id)))

/-- PREFIX_BUILD starts a prefill of the prefix's own and asks the host for its tokens, an older prefix of the number giving its
pages back; PREFIX_TRAIN of a built prefix that no request holds and ADAPTER_TRAIN of a pasture without a running request ask
the host for the training block; PREFIX_DROP marks the prefix dropped, and settles it at once when no request holds it. -/
def Obligations.PrefixAndAdapterCommandsActAsAccepted : Prop :=
  (∀ (s : State) (c : Door) (p : Nat) (w : Show) (old : List Nat), s.dev.hears c = true →
    checkHeader c 16 [(0, [255, 255, 0, 0, 255, 255, 255, 255, 255, 255, 255, 255, 255, 255, 255, 255])] = .ok () →
    s.dev.stopped = false → s.dev.pastureOf c.func = some p → dp c 0 2 ≤ 1023 → 1 ≤ dp c 4 4 → dp c 4 4 ≤ 2 ^ 20 → dp c 8 8 % 64 = 0 →
    s.dev.showOf p = some w → (∀ x, s.dev.prefixOf p (dp c 0 2) = some x → x.count = 0 ∧ x.built = true) →
    old = (match s.dev.prefixOf p (dp c 0 2) with
      | some x => x.lists.flatMap (·.2)
      | none => []) →
    (∀ pen ∈ sharePens w, cdiv (dp c 4 4) 64 * w.lgroups ≤ ((s.dev.took c 0x0601).releasePages old).poolFree p pen w.lgroups) →
    s.dev.handlesLeft c.func = true → ∀ h, h = s.dev.nextHandle c.func →
    exec (.prefixBuild c) s = .next (s.on ((
      let d := (((s.dev.took c 0x0601).releasePages old).modPasture p (fun q => { q with prefixes := Tab.put q.prefixes (dp c 0 2) {} })).opened
        c.func c.tag (.prefixBuild p (dp c 0 2))
      let r : Request := { pasture := p, st := .prefill, admitted := d.beat.now, append := h, prompt := dp c 4 4,
                           resv := cdiv (dp c 4 4) 64, build := some (dp c 0 2) }
      ({ d with reqs := Tab.put d.reqs h r } : Dev).emit (.hostRead c.func (dp c 8 8) (4 * dp c 4 4) h)).replyAccepted c h))) ∧
  (∀ (s : State) (c : Door) (p : Nat) (x : Prefix), s.dev.hears c = true →
    checkHeader c 24 [(0, [255, 255, 0, 0]), (4, List.replicate 20 255)] = .ok () → s.dev.stopped = false →
    s.dev.pastureOf c.func = some p → s.dev.prefixOf p (dp c 0 2) = some x → x.built = true → x.count = 0 →
    1 ≤ dp c 4 4 → dp c 4 4 ≤ 2 ^ 20 → dp c 8 8 % 64 = 0 → dp c 16 8 ≤ 2 ^ 32 → s.dev.handlesLeft c.func = true →
    exec (.prefixTrain c) s = .next (s.on (s.dev.accepts c 0x0602 (.prefixTrain p (dp c 0 2) (dp c 4 4) 0 false) (fun d =>
      d.emit (.hostRead c.func (dp c 8 8) (dp c 16 8) (s.dev.nextHandle c.func)))))) ∧
  (∀ (s : State) (c : Door) (p : Nat) (x : Prefix), s.dev.hears c = true → checkHeader c 8 [(0, [255, 255])] = .ok () →
    s.dev.stopped = false → s.dev.pastureOf c.func = some p → s.dev.prefixOf p (dp c 0 2) = some x → x.dropped = false →
    x.built = true → s.dev.handlesLeft c.func = true →
    exec (.prefixDrop c) s = .next (s.on (s.dev.accepts c 0x0603 (.prefixDrop p (dp c 0 2)) (fun d =>
      (d.modPrefix p (dp c 0 2) (fun x => { x with dropped := true, dropHandle := s.dev.nextHandle c.func, dropCount := x.count })).settlePrefix
        p (dp c 0 2))))) ∧
  (∀ (s : State) (c : Door) (p : Nat) (w : Show), s.dev.hears c = true →
    checkHeader c 24 [(0, [255, 255, 0, 0]), (4, List.replicate 20 255)] = .ok () → s.dev.stopped = false →
    s.dev.pastureOf c.func = some p → s.dev.showOf p = some w → 1 ≤ dp c 4 4 → dp c 4 4 ≤ 2 ^ 20 → dp c 8 8 % 64 = 0 →
    dp c 16 8 ≤ 2 ^ 32 → (∀ r ∈ s.dev.reqs, r.2.pasture = p → r.2.st ≠ .prefill ∧ r.2.st ≠ .decode) → s.dev.handlesLeft c.func = true →
    exec (.adapterTrain c) s = .next (s.on (s.dev.accepts c 0x0604 (.adapterTrain p (dp c 0 2) (dp c 4 4) 0 false) (fun d =>
      d.emit (.hostRead c.func (dp c 8 8) (dp c 16 8) (s.dev.nextHandle c.func))))))

/-- EXPERT_MAP_SET whose entries, as the host holds them, are well-formed and name the issuer's own pens asks the host for them
and stages them; where the host read fails it replies ABORTED and records HOST_ERROR. Where no loaded show owns an entry of its
range, a staged set whose beat has come writes every one of its entries and MAPVER together, leaves every other catalogue entry,
and completes OK. EXPERT_MAP_GET writes the entries to the host buffer and answers MAPVER; where the host write fails it replies
ABORTED and records HOST_ERROR. -/
def Obligations.ExpertMapCommandsActAsAccepted : Prop :=
  (∀ (s : State) (c : Door) (bs : List Byte) (es : List Nat), s.dev.hears c = true →
    checkHeader c 24 [(0, List.replicate 24 255)] = .ok () → s.dev.stopped = false →
    (c.func ≠ 0 → ∃ p, s.dev.pastureOf c.func = some p ∧ ∀ i < dp c 2 2 + 1, s.dev.ownsIndex p (dp c 0 2 + i) = true) →
    dp c 2 2 ≤ 255 → dp c 0 2 + (dp c 2 2 + 1) ≤ 65536 → 16 ≤ beatAhead s.dev.beat.now (dp c 8 8) →
    beatAhead s.dev.beat.now (dp c 8 8) < 2 ^ 63 → dp c 16 8 % 64 = 0 →
    (∀ m ∈ s.dev.mapSets, overlaps m.2.1 m.2.2.1 (dp c 0 2) (dp c 2 2 + 1) = false) → s.dev.handlesLeft c.func = true →
    (c.hostOk = true → es = (List.range (dp c 2 2 + 1)).map (fun i => rdLE bs (16 * i) 16) →
      (∀ i v, es[i]? = some v → s.dev.catDenied (dp c 0 2 + i) v = false ∧ catInvalid v = false) →
      exec (.expertMapSet c bs) s = .next (s.on (s.dev.accepts c 0x0701 (.expertMapSet (dp c 0 2) (dp c 2 2 + 1) (dp c 4 4) (dp c 8 8) es)
        (fun d => d.emit (.hostRead c.func (dp c 16 8) (16 * (dp c 2 2 + 1)) (s.dev.nextHandle c.func)))))) ∧
    (∀ p, c.hostOk = false → s.dev.pastureOf c.func = some p → p ≠ 31 →
      exec (.expertMapSet c bs) s = .next (s.on (((s.dev.took c 0x0701).notice 0x004A 63 63 p 0).putReply c
        (replyBytes sAborted 0 0 c.tag []))))) ∧
  (∀ (s : State) (h first n ver b : Nat) (es : List Nat),
    s.dev.dueSets.filter (fun m => m.1 == h && (s.dev.owners m.2.1 m.2.2.1).isEmpty) = [(h, first, n, ver, b, es)] →
    ∃ e : Dev, exec (.expertMapEffect h) s = .next (s.on (e.finish h sOk [])) ∧ e = { s.dev with catalog := e.catalog, mapver := ver } ∧
      (∀ i v, es[i]? = some v → Tab.getD e.catalog (first + i) 0 = v) ∧
      (∀ k, (k < first ∨ first + es.length ≤ k) → Tab.getD e.catalog k 0 = Tab.getD s.dev.catalog k 0)) ∧
  (∀ (s : State) (c : Door) (data : List Byte), s.dev.hears c = true →
    checkHeader c 16 [(0, [255, 255, 255, 255, 0, 0, 0, 0, 255, 255, 255, 255, 255, 255, 255, 255])] = .ok () →
    s.dev.stopped = false → dp c 2 2 ≤ 255 → dp c 0 2 + (dp c 2 2 + 1) ≤ 65536 → dp c 8 8 % 64 = 0 →
    data = (List.range (dp c 2 2 + 1)).flatMap (fun i => leBytes (Tab.getD s.dev.catalog (dp c 0 2 + i) 0) 16) →
    (c.hostOk = true →
      exec (.expertMapGet c) s = .next (s.on (s.dev.answers c 0x0702 [s.dev.mapver] (fun d =>
        d.emit (.hostWrite c.func (dp c 8 8) data))))) ∧
    (∀ p, c.hostOk = false → s.dev.pastureOf c.func = some p → p ≠ 31 →
      exec (.expertMapGet c) s = .next (s.on (((s.dev.took c 0x0702).notice 0x004A 63 63 p 0).putReply c
        (replyBytes sAborted 0 0 c.tag [])))))

/-- LINK_TRAIN takes the link down and begins its training under a new handle with the REACH in force; LINK_QUERY answers state,
widths, reach, FEC bypass, round trip and lane map; ROUTE_SET that fits the paddock shape asks the host for the range table;
BEAT_SYNC adds a load or relock at a beat at least 4 ahead. -/
def Obligations.LinkRouteAndSyncCommandsActAsAccepted : Prop :=
  (∀ (s : State) (c : Door), s.dev.hears c = true → checkHeader c 8 [(0, [255, 1])] = .ok () → c.func = 0 → s.dev.stopped = false →
    dp c 0 1 ≤ 5 → (s.dev.link (dp c 0 1)).st ≠ .training → s.dev.handlesLeft 0 = true →
    ∀ e, e = (s.dev.took c 0x0801).goDown (dp c 0 1) → ∀ h, h = e.nextHandle 0 →
    exec (.linkTrain c) s = .next (s.on (((e.opened 0 c.tag (.linkTrain (dp c 0 1))).modLink (dp c 0 1) (fun x =>
      { x with st := .training, handle := h, ask := dp c 1 1 == 1, bypass := false, reach := e.key (kReach + dp c 0 1) })).replyAccepted c h))) ∧
  (∀ (s : State) (c : Door) (x : Link), s.dev.hears c = true → checkHeader c 8 [(0, [255])] = .ok () → dp c 0 1 ≤ 5 →
    x = s.dev.link (dp c 0 1) →
    exec (.linkQuery c) s = .next (s.on (s.dev.answers c 0x0802
      [(match x.st with
        | .down => 0
        | .training => 1
        | .up => if x.txWidth < s.dev.key (kLinkWidth + dp c 0 1) || x.rxWidth < s.dev.key (kLinkWidth + dp c 0 1) then 3 else 2) +
        x.txWidth * 2 ^ 8 + x.rxWidth * 2 ^ 16 + x.reach % 4 * 2 ^ 24 + x.bypass.toNat * 2 ^ 26, x.rtt, x.rxOut % 2 ^ 64, fld x.rxOut 64 2] id))) ∧
  (∀ (s : State) (c : Door), s.dev.hears c = true → checkHeader c 16 [(0, [255, 15, 63, 7, 255, 15]), (8, List.replicate 8 255)] = .ok () →
    c.func = 0 → s.dev.stopped = false → (∀ i < 3, coord (dp c 0 2) i ≤ fld (dp c 2 1) (2 * i) 2) →
    (∀ i < 6, fld (dp c 4 2) (2 * i) 2 ≠ 3) → dp c 8 8 % 64 = 0 →
    (∀ g ∈ s.dev.groups, g.2.exists_ = true → g.2.spans = true → g.2.left = true ∨ g.2.stopped = true) → s.dev.handlesLeft 0 = true →
    exec (.routeSet c) s = .next (s.on (s.dev.accepts c 0x0803 (.routeSet (dp c 0 2) (dp c 2 1) (dp c 3 1) (dp c 4 2)) (fun d =>
      d.emit (.hostRead 0 (dp c 8 8) 256 (s.dev.nextHandle 0)))))) ∧
  (∀ (s : State) (c : Door), s.dev.hears c = true → checkHeader c 24 [(0, List.replicate 16 255 ++ [1])] = .ok () → c.func = 0 →
    s.dev.stopped = false → s.dev.handlesLeft 0 = true → beatGe (dp c 0 8) s.dev.beat.now = true → 4 ≤ beatAhead s.dev.beat.now (dp c 0 8) →
    (s.dev.aux.strapBeat = true → dp c 16 1 = 1 ∧ dp c 8 8 = 0) → (dp c 16 1 ≠ 1 → s.dev.beat.st ≠ .slipped) →
    exec (.beatSync c) s = .next (s.on (s.dev.accepts c 0x0901 .beatSync (fun d =>
      { d with beat := { d.beat with syncs := d.beat.syncs ++
        [{ handle := s.dev.nextHandle 0, load := dp c 0 8, value := dp c 8 8, relock := dp c 16 1 == 1 }] } }))))

/-- CAL_QUERY writes the entries of one die's Calendar that it names, 16 bytes each and zeros beyond the last, and counts those
that are not zero. DIAG_BIST and DIAG_MARGIN open a handle for the test or measurement of unassigned pens. DIAG_DUMP writes
whole items that fit and answers their bytes. The end of a BIST burns the repairs at level FUSE, and otherwise repairs, records
and completes; at level FULL it waits while a group may not start, in BRACE or above the cap; the end of a DIAG_MARGIN writes
its record and completes with PASS, after zero-filling a channel whose write eye was measured. -/
def Obligations.DiagnosticCommandsActAsAccepted : Prop :=
  (∀ (s : State) (c : Door) (l : List Nat), s.dev.hears c = true →
    checkHeader c 16 [(0, [255, 255, 255, 255]), (8, List.replicate 8 255)] = .ok () → c.func = 0 → dp c 0 1 ≤ 39 → 1 ≤ dp c 2 2 →
    dp c 2 2 ≤ 256 → dp c 1 1 + dp c 2 2 ≤ 256 → dp c 8 8 % 64 = 0 → s.dev.handlesLeft 0 = true →
    l = (((s.dev.dieCal (dp c 0 1)).map CalEntry.bits).drop (dp c 1 1)).take (dp c 2 2) →
    exec (.calQuery c) s = .next (s.on (s.dev.acceptsData c 0x0902
      ((l ++ List.replicate (dp c 2 2 - l.length) 0).flatMap (fun e => leBytes e 16)) [(l.filter (· != 0)).length]))) ∧
  (∀ (s : State) (c : Door), s.dev.hears c = true → checkHeader c 24 (bufUsed [255, 255, 255, 255, 255, 255]) = .ok () → c.func = 0 →
    s.dev.stopped = false → (∀ x ∈ maskList (dp c 0 5) 40, isCompute x = true ∧ s.dev.pastureOfDie x = 31) → dp c 5 1 ≤ 2 →
    dp c 8 8 % 64 = 0 → s.dev.handlesLeft 0 = true →
    exec (.diagBist c) s = .next (s.on (s.dev.accepts c 0x0A01 (.diagBist (dp c 0 5) (dp c 5 1) (dp c 8 8) (dp c 16 4)) id))) ∧
  (∀ (s : State) (c : Door), s.dev.hears c = true → checkHeader c 16 [(0, [255, 255, 1]), (8, List.replicate 8 255)] = .ok () →
    c.func = 0 → s.dev.stopped = false → dp c 0 1 ≤ 15 → dp c 1 1 ≤ 135 → dp c 8 8 % 64 = 0 → s.dev.pastureOfPen (dp c 0 1) = 31 →
    s.dev.handlesLeft 0 = true →
    exec (.diagMargin c) s = .next (s.on (s.dev.accepts c 0x0A02
      (.diagMargin (dp c 0 1) (dp c 1 1) (bit (dp c 2 1) 0) (dp c 8 8)) id))) ∧
  (∀ (s : State) (c : Door) (p : Nat) (l : List (List Byte)), s.dev.hears c = true → checkHeader c 24 (bufUsed [255]) = .ok () →
    dp c 0 1 ≤ 3 → (dp c 0 1 ≠ 1 → c.func = 0 ∧ p = 31) → (dp c 0 1 = 1 → s.dev.pastureOf c.func = some p) → dp c 8 8 % 64 = 0 →
    l = s.dev.dumpItems (dp c 0 1) p → (∀ x, l.head? = some x → x.length ≤ dp c 16 4) → s.dev.handlesLeft c.func = true →
    exec (.diagDump c) s = .next (s.on (s.dev.acceptsData c 0x0A03 (fitting (dp c 16 4) l).flatten [(fitting (dp c 16 4) l).flatten.length]))) ∧
  (∀ (s : State) (h m level buf len avg : Nat) (fails : List ItemFail) (ok : Bool), s.dev.workOf h = some (.diagBist m level buf len) →
    (level = 2 → exec (.bistDone h avg fails ok) s = .next (s.on ((s.dev.burn m).2.2.finish h sOk [(s.dev.burn m).1, (s.dev.burn m).2.1]))) ∧
    (level ≠ 2 → (level = 1 → s.dev.bistFits m avg = true) →
      exec (.bistDone h avg fails ok) s = .next (s.on (s.dev.bistEnd h m level buf len fails ok))) ∧
    (level = 1 → s.dev.bistFits m avg = false → exec (.bistDone h avg fails ok) s = .next s)) ∧
  (∀ (s : State) (pen idx h buf : Nat) (write : Bool) (x : Handle) (m : Margins) (ok : Bool), pen < 16 → idx < 136 →
    s.dev.power.inReset = false → s.dev.power.startingUp = false → s.dev.handles.find? (s.dev.awaitsMargin pen idx) = some (h, x) →
    x.work = .diagMargin pen idx write buf →
    exec (.marginingDone pen idx m ok) s = .next (s.on (
      ((match write, s.dev.marginTarget pen idx with
        | true, some q => s.dev.zeroChannel pen q
        | _, _ => s.dev).hostPut h buf (leBytes (marginRecord idx write m) 16) ok).finish h sOk [(marginsPass m write).toNat])))

/-- TALLY_READ writes the mirror's header and the domains that the issuer sees; TALLY_LOG_READ writes the audit records from an
event number on that fit, and FAULT_QUERY the fault records from a SEQ on that the issuer sees and that fit, and each answers
their number. FAULT_ACK marks the record of its SEQ and nothing else. An unknown opcode is refused INVALID at slot byte 0. -/
def Obligations.MeteringAndFaultCommandsActAsAccepted : Prop :=
  (∀ (s : State) (c : Door) (data : List Byte), s.dev.hears c = true → checkHeader c 24 (bufUsed []) = .ok () → dp c 8 8 % 64 = 0 →
    data = leBytes s.dev.mirror.status 8 ++ leBytes s.dev.mirror.seq 8 ++ leBytes s.dev.mirror.time 8 ++ leBytes s.dev.mirror.id 8 ++
      leBytes 0 32 ++ (s.dev.sees c.func).flatMap s.dev.mirror.domainBytes → data.length ≤ dp c 16 4 → s.dev.handlesLeft c.func = true →
    exec (.tallyRead c) s = .next (s.on (s.dev.acceptsData c 0x0B01 data []))) ∧
  (∀ (s : State) (c : Door) (l : List (List Byte)), s.dev.hears c = true → checkHeader c 24 (bufUsed (List.replicate 8 255)) = .ok () →
    c.func = 0 → dp c 8 8 % 64 = 0 → l = (s.dev.tally.audits.filter (fun q => dp c 0 8 ≤ q.1)).map Prod.snd →
    (∀ x, l.head? = some x → x.length ≤ dp c 16 4) → s.dev.handlesLeft 0 = true →
    exec (.tallyLogRead c) s = .next (s.on (s.dev.acceptsData c 0x0B02 (fitting (dp c 16 4) l).flatten [(fitting (dp c 16 4) l).length]))) ∧
  (∀ (s : State) (c : Door) (l : List (List Byte)), s.dev.hears c = true → checkHeader c 24 (bufUsed (List.replicate 4 255)) = .ok () →
    dp c 8 8 % 64 = 0 → l = (s.dev.faults.log.filter (fun r => dp c 0 4 ≤ r.seq && s.dev.seesFault c.func r)).map FaultRec.bytes →
    (∀ x, l.head? = some x → x.length ≤ dp c 16 4) → s.dev.handlesLeft c.func = true →
    exec (.faultQuery c) s = .next (s.on (s.dev.acceptsData c 0x0C01 (fitting (dp c 16 4) l).flatten [(fitting (dp c 16 4) l).length]))) ∧
  (∀ (s : State) (c : Door), s.dev.hears c = true → checkHeader c 8 [(0, List.replicate 4 255)] = .ok () → dp c 0 4 ≠ 0 →
    dp c 0 4 ≤ s.dev.faults.lastSeq → (∀ r, s.dev.faultOf (dp c 0 4) = some r → s.dev.seesFault c.func r = true) →
    exec (.faultAck c) s = .next (s.on (s.dev.answers c 0x0C02 [] (fun d => d.modFault (dp c 0 4) (fun r => { r with acked := true }))))) ∧
  (∀ (s : State) (c : Door) (op : Nat), s.dev.hears c = true → op % 2 ^ 16 ∉ knownOpcodes →
    exec (.unknownOpcode c op) s = .next (s.on ((s.dev.took c op).putReply c (replyBytes sInvalid 0 0 c.tag []))))

/-- For an open handle that waits for a host read: a failed read completes the handle ABORTED with HOST_ERROR recorded, and what
the command had set up goes; a read that succeeds gives its bytes to the command. The bytes of an IMAGE_LOAD without a golden
copy go to the pen's stacks by their controllers, the image takes their check values and the handle completes OK with RES0 0;
those of a SHOW_LOAD wait for the check; those of an append or a generate's prompt are its tokens. -/
def Obligations.HostReadsContinueOrEndTheirCommand : Prop :=
  (∀ (s : State) (h : Nat) (w : Work) (data : List Byte), s.dev.workOf h = some w → s.dev.reads h w = true →
    exec (.hostReadComplete h false data) s = .next (s.on ((s.dev.hostError h).readLost h w)) ∧
    exec (.hostReadComplete h true data) s = .next (s.on (s.dev.readDone h w data))) ∧
  (∀ (s : State) (h p n : Nat) (i : Image) (data : List Byte), s.dev.workOf h = some (.imageLoad p n false) → s.dev.image p n = some i →
    i.goldenDue = false →
    exec (.hostReadComplete h true data) s = .next (s.on (((s.dev.agentWrite 18 i.pen i.off (padTo data i.len)).modImage p n (fun x =>
      { x with crcs := checkValues (padTo data i.len), ready := true })).finish h sOk [0]))) ∧
  (∀ (s : State) (h p len : Nat) (data : List Byte), s.dev.workOf h = some (.showLoad p len) →
    exec (.hostReadComplete h true data) s = .next (s.on
      ((s.dev.setWork h (.showCheck p (padTo data len))).modPasture p (fun q => { q with loading := true })))) ∧
  (∀ (s : State) (h q : Nat) (r : Request) (data : List Byte), s.dev.workOf h = some (.reqAppend q) → s.dev.req q = some r →
    r.append = h → r.tokensIn = false →
    exec (.hostReadComplete h true data) s = .next (s.on (s.dev.tokensRead h q data)))

/-- With room, the first waiting completion leaves as 32 bytes at LEDGER_BASE + 32 × TAIL with the phase in force, its handle
ends, TAIL advances (the phase turns where it wraps) and event LEDGER occurs on vector 0. Without room, or while the function
cannot post, nothing is posted and each waiting completion is counted once in RM_LEDGER_WAITS. A write that fails sets LOST and
records LEDGER_LOST. A write of LEDGER_HEAD is taken where it returns entries, else counted and ignored. ENABLE with a good size
starts with indices 0 and phase 1, with a bad size sets CFG_ERR; cleared, it clears both. Nothing else changes. -/
def Obligations.LedgerPostsCompletionsAndKeepsItsIndices : Prop :=
  (∀ (s : State) (f : Nat) (c : Completion) (rest : List Completion), (s.dev.func f).waiting = c :: rest → s.dev.power.portUp = true →
    (s.dev.func f).enabled = true → (s.dev.func f).flr = false → (s.dev.func f).room ≠ 0 → ∀ x, x = s.dev.func f →
    exec (.ledgerPost f true) s = .next (s.on
      ((({ s.dev.emit (.hostWrite f (x.ledBase + 32 * x.ledTail) (ledgerEntry c x.ledPhase)) with
          handles := Tab.del s.dev.handles c.handle }).modFunc f (fun y =>
        { y with
          waiting := rest
          ledTail := (y.ledTail + 1) % y.ledSize
          ledPhase := if (y.ledTail + 1) % y.ledSize = 0 then 1 - y.ledPhase else y.ledPhase })).event f 0 0)) ∧
    (∀ p, s.dev.pastureOf f = some p →
      exec (.ledgerPost f false) s = .next (s.on ((s.dev.modFunc f (fun y => { y with ledLost := true })).notice 0x004B 63 63 p 0)))) ∧
  (∀ (s : State) (f : Nat) (ok : Bool), (s.dev.func f).waiting ≠ [] →
    (s.dev.power.portUp = false ∨ (s.dev.func f).enabled = false ∨ (s.dev.func f).flr = true ∨ (s.dev.func f).room = 0) →
    exec (.ledgerPost f ok) s = .next (s.on (s.dev.modFunc f (fun y =>
      { y with
        ledWaits := satAdd 32 y.ledWaits (y.waiting.filter (fun c => !c.waited)).length
        waiting := y.waiting.map (fun c => { c with waited := true }) })))) ∧
  (∀ (s : State) (f v : Nat), s.dev.decoded f 0x2420 = true → (s.dev.func f).ledOn = true → ∀ x, x = s.dev.func f →
    (v % 2 ^ 16 < x.ledSize ∧ (x.ledTail + x.ledSize - v % 2 ^ 16) % x.ledSize ≤ (x.ledTail + x.ledSize - x.ledHead) % x.ledSize →
      exec (.ledgerHeadWrite f v) s = .next (s.on (s.dev.modFunc f (fun y => { y with ledHead := v % 2 ^ 16 })))) ∧
    (¬ (v % 2 ^ 16 < x.ledSize ∧ (x.ledTail + x.ledSize - v % 2 ^ 16) % x.ledSize ≤ (x.ledTail + x.ledSize - x.ledHead) % x.ledSize) →
      exec (.ledgerHeadWrite f v) s = .next (s.on (s.dev.modFunc f (fun y => { y with badHead := satAdd 32 y.badHead 1 }))))) ∧
  (∀ (s : State) (f v : Nat), s.dev.decoded f 0x2410 = true →
    (v % 2 = 1 → (s.dev.func f).ledOn = false → (∃ i, 6 ≤ i ∧ i ≤ 16 ∧ (s.dev.func f).ledSize = 2 ^ i) →
      exec (.ledgerEnableWrite f v) s = .next (s.on (s.dev.modFunc f (fun y =>
        { y with ledOn := true, ledCfgErr := false, ledLost := false, ledTail := 0, ledHead := 0, ledPhase := 1 })))) ∧
    (v % 2 = 1 → (s.dev.func f).ledOn = false → (∀ i, 6 ≤ i → i ≤ 16 → (s.dev.func f).ledSize ≠ 2 ^ i) →
      exec (.ledgerEnableWrite f v) s = .next (s.on (s.dev.modFunc f (fun y => { y with ledCfgErr := true })))) ∧
    (v % 2 = 0 → exec (.ledgerEnableWrite f v) s = .next (s.on (s.dev.modFunc f (fun y => { y with ledOn := false, ledCfgErr := false })))))

/-- Of an access that is decoded: every byte written within a command slot stands there, and the slot's other bytes stay; the
value 1 at a DOORBELL rings that mailbox and no other value does; a whole 64-bit write or 32-bit half reaches the register at
its offset with the mask of what it covers; LEDGER_BASE takes bits 63:12 and LEDGER_SIZE bits 16:0 while the Ledger is off, and
neither while it is on; RM_WIN_DIE takes 6 bits; a write below 0x2000 changes nothing; a write that covers no whole 32-bit word
changes nothing outside the slots. Every decoded write completes, and none of any size changes a memory, a core, the beat, the
Calendar, a pasture, a request, a transaction, a handle or the fault log. Where nothing is decoded, nothing changes. -/
def Obligations.RegisterWritesReachTheirRegisters : Prop :=
  (∀ (s : State) (w : RegWrite), s.dev.decoded w.func w.off = false → exec (.registerWrite w) s = .next s) ∧
  (∀ (s : State) (f m a v : Nat), s.dev.decoded f (0x6000 + 512 * m + a) = true → m < mailboxes f → a < 256 →
    exec (.registerWrite { func := f, off := 0x6000 + 512 * m + a, size := 1, value := v, be := 1 }) s =
      .next (s.on (s.dev.modMailbox f m (fun b => { b with slot := b.slot.set a (BitVec.ofNat 8 v) })))) ∧
  (∀ (s : State) (f m v : Nat), s.dev.decoded f (0x6000 + 512 * m + 320) = true → m < 16 → v < 2 ^ 32 →
    exec (.registerWrite { func := f, off := 0x6000 + 512 * m + 320, size := 4, value := v, be := 15 }) s =
      .next (s.on (if v = 1 then s.dev.ring f m else s.dev))) ∧
  (∀ (s : State) (f off v e : Nat), s.dev.decoded f off = true → off % 8 = 0 → (off < 0x6000 ∨ 0x8000 ≤ off) → v < 2 ^ 64 →
    exec (.registerWrite { func := f, off, size := 8, value := v, be := 255, events := e }) s =
      .next (s.on (s.dev.writeReg f off v (2 ^ 64 - 1) e)) ∧
    (off < 0x2000 → s.dev.writeReg f off v (2 ^ 64 - 1) e = s.dev) ∧
    (off = 0x2400 → s.dev.writeReg f off v (2 ^ 64 - 1) e =
      s.dev.modFunc f (fun x => if x.ledOn then x else { x with ledBase := v / 2 ^ 12 * 2 ^ 12 })) ∧
    (off = 0x2408 → s.dev.writeReg f off v (2 ^ 64 - 1) e = s.dev.modFunc f (fun x => if x.ledOn then x else { x with ledSize := v % 2 ^ 17 })) ∧
    (off = 0x2800 → s.dev.writeReg f off v (2 ^ 64 - 1) e = s.dev.modFunc f (fun x => { x with winDie := v % 64 }))) ∧
  (∀ (s : State) (f off v : Nat), s.dev.decoded f off = true → off % 8 = 4 → (off < 0x6000 ∨ 0x8000 ≤ off) → v < 2 ^ 32 →
    exec (.registerWrite { func := f, off, size := 4, value := v, be := 15 }) s =
      .next (s.on (s.dev.writeReg f (off - 4) (v * 2 ^ 32) ((2 ^ 32 - 1) * 2 ^ 32) 0))) ∧
  (∀ (s : State) (f off v be : Nat), s.dev.decoded f off = true → off % 4 = 0 → (off < 0x6000 ∨ 0x8000 ≤ off) → be < 15 →
    exec (.registerWrite { func := f, off, size := 4, value := v, be }) s = .next s) ∧
  (∀ (s : State) (w : RegWrite), s.dev.decoded w.func w.off = true → w.off % 8 = 0 → 0 < w.size → w.size ≤ 8 →
    (w.off < 0x6000 ∨ 0x8000 ≤ w.off) → exec (.registerWrite w) s = .next (s.on (if writeMask w w.off = 0 then s.dev
      else s.dev.writeReg w.func w.off (writeValue w w.off) (writeMask w w.off) w.events))) ∧
  (∀ (s : State) (w : RegWrite) (m a : Nat), s.dev.decoded w.func w.off = true → m < mailboxes w.func → w.off = 0x6000 + 512 * m + a →
    0 < w.size → a + w.size ≤ 256 → (s.dev.mailbox w.func m).slot.length = 256 → (∀ i < w.size, bit w.be i = true) →
    ∃ d, exec (.registerWrite w) s = .next (s.on d) ∧
      (∀ i < w.size, (d.mailbox w.func m).slot[a + i]? = some (BitVec.ofNat 8 (w.value / 2 ^ (8 * i)))) ∧
      ∀ j < 256, j < a ∨ a + w.size ≤ j → (d.mailbox w.func m).slot[j]? = (s.dev.mailbox w.func m).slot[j]?) ∧
  (∀ (s : State) (w : RegWrite), s.dev.decoded w.func w.off = true → ∃ d, exec (.registerWrite w) s = .next (s.on d) ∧
    d.mem = s.dev.mem ∧ d.spad = s.dev.spad ∧ d.abuf = s.dev.abuf ∧ d.cores = s.dev.cores ∧ d.beat = s.dev.beat ∧ d.cal = s.dev.cal ∧
    d.pastures = s.dev.pastures ∧ d.reqs = s.dev.reqs ∧ d.txns = s.dev.txns ∧ d.handles = s.dev.handles ∧ d.faults = s.dev.faults)

/-- A W1C write of RM_EVENT leaves of each event bit what an event sets in the same cycle, or what was set and is not cleared.
Unmasking a vector with its pending bit set sends one message and clears the bit; without it, only the mask clears. Reading
RM_BEAT_NOW latches the tick. A write of TL_M_CTL by the PF sets IRQ and RATE and gives the Tally the period of RATE; one by a
VF is ignored. -/
def Obligations.EventAndStatusRegistersAct : Prop :=
  (∀ (s : State) (f clear same : Nat), s.dev.decoded f 0x2000 = true →
    ∃ v, exec (.rmEventClear f clear same) s = .next (s.on (s.dev.modFunc f (fun x => { x with event := v }))) ∧
      ∀ i < 7, bit v i = (bit same i || (bit (s.dev.func f).event i && !bit clear i))) ∧
  (∀ (s : State) (f v : Nat) (e : Machine.Vector), s.dev.decoded f 0x3000 = true → (s.dev.func f).vecs[v]? = some e →
    (e.pend = true → (s.dev.func f).msixOn = true → (s.dev.func f).flr = false →
      exec (.msixUnmask f v false) s = .next (s.on ((s.dev.modFunc f (fun x =>
        { x with vecs := modAt (fun y => { y with mask := false, pend := false }) x.vecs v })).emit (.msix f v)))) ∧
    (e.pend = false → exec (.msixUnmask f v false) s = .next (s.on (s.dev.modFunc f (fun x =>
        { x with vecs := modAt (fun y => { y with mask := false, pend := y.pend }) x.vecs v }))))) ∧
  (∀ (s : State) (f tick : Nat), s.dev.decoded f 0x2010 = true → tick < 1024 →
    exec (.beatNowRead f tick) s = .next (s.on (s.dev.modFunc f (fun x => { x with tickNow := tick })))) ∧
  (∀ (s : State) (f v : Nat), s.dev.decoded f 0x5018 = true →
    (f ≠ 0 → exec (.tlMCtlWrite f v) s = .next s) ∧
    (f = 0 → s.dev.tally.up = true →
      exec (.tlMCtlWrite f v) s = .next (s.on { s.dev with
        mirror := { s.dev.mirror with irq := bit v 2, rate := v % 4 }
        tally := { s.dev.tally with period := [1, 10, 100, 1000].getD (v % 4) 0 } })))

/-- SNAP of a core's or die's group copies COUNT and OVF of every register into the bank with the beat and sets VALID; SNAPCLR
does the same and leaves of the live OVF bits those that wrap in the same cycle; the SRV group's counters and SAT go into their
bank. A group that the function does not see does not change. No other group and nothing else changes. -/
def Obligations.SnapshotsCopyAndClearTheGroup : Prop :=
  (∀ (s : State) (f die core g : Nat) (p : Perf), s.dev.decoded f (groupOff f (.core die core g)) = true →
    s.dev.seesGroup f (.core die core g) = true → p = s.dev.perfOf die core g →
    exec (.snap f (.core die core g)) s = .next (s.on { s.dev with
      perf := Tab.put s.dev.perf (perfKey die core g) { p with snap := p.live, snapOvf := p.ovf, valid := true, beat := s.dev.beat.now } }) ∧
    ∀ wraps < 256, exec (.snapclr f (.core die core g) wraps) s = .next (s.on { s.dev with
      perf := Tab.put s.dev.perf (perfKey die core g)
        { p with
          snap := p.live, snapOvf := p.ovf, valid := true, beat := s.dev.beat.now, ovf := wraps
          wrapped := if wraps = 0 then false else p.wrapped } })) ∧
  (∀ (s : State) (f die g : Nat) (p : Perf), s.dev.decoded f (groupOff f (.die die g)) = true → s.dev.seesGroup f (.die die g) = true →
    p = s.dev.perfOf die 63 g →
    exec (.snap f (.die die g)) s = .next (s.on { s.dev with
      perf := Tab.put s.dev.perf (perfKey die 63 g) { p with snap := p.live, snapOvf := p.ovf, valid := true, beat := s.dev.beat.now } })) ∧
  (∀ (s : State) (f wraps : Nat), s.dev.decoded f 0x40F8 = true →
    exec (.snap f .srv) s = .next (s.on (s.dev.modFunc f (fun x => { x with srvSnap := x.srv, srvSnapSat := x.srvSat, srvValid := true }))) ∧
    exec (.snapclr f .srv wraps) s = exec (.snap f .srv) s) ∧
  (∀ (s : State) (f wraps : Nat) (a : GroupAddr), s.dev.seesGroup f a = false →
    exec (.snap f a) s = .next s ∧ exec (.snapclr f a wraps) s = .next s)

/-- With the window open and the value 1: an image of at most 8 MiB whose key hash matches its slot, whose slot is not revoked,
whose signature verifies, whose digest matches and whose SVN is at or above the fused minimum starts Bexper at step 2, fills
RM_FW_ISSUE with source 2 and closes the window; any other image changes REJECT alone, to a code from 1 to 6, and the window
stays open. With the window closed nothing changes. -/
def Obligations.BootDoorbellChecksTheHeader : Prop :=
  (∀ (s : State) (img : FwImage), s.dev.decoded 0 0x020 = true → s.dev.power.window = true → ∀ good : Prop,
    (good ↔ (s.dev.fuses.keyHashes[img.key]? = some img.keyHash ∧ bit s.dev.fuses.revoked img.key = false ∧ img.sigOk = true ∧
      img.digest = img.actual ∧ s.dev.fuses.minSvn ≤ img.svn ∧ img.len ≤ 2 ^ 23)) →
    (good → exec (.bootDoorbell 1 img) s = .next (s.on (mirrorSet (({ s.dev with
      power := { s.dev.power with
        step := 2, code := 0x00, window := false, windowMem := [], portUp := true, mctpUp := true
        fwMinor := 4, fwMajor := 2, fwBuild := img.build % 2 ^ 16, fwSource := 2, fwDigest := img.digest, tried := false }
      fuses := { s.dev.fuses with ranSlot := 2, runSvn := img.svn, commitSvn := img.commitSvn, trySlot := 2 } } : Dev).applyFuses)
        (ratePeriod s.dev.mirror.rate)))) ∧
    (¬ good → ∃ r, 1 ≤ r ∧ r ≤ 6 ∧
      exec (.bootDoorbell 1 img) s = .next (s.on { s.dev with power := { s.dev.power with reject := r } }))) ∧
  (∀ (s : State) (v : Nat) (img : FwImage), s.dev.power.window = false → exec (.bootDoorbell v img) s = .next s)

/-- A function-level reset of a VF clears its mailboxes, stops its messages, rolls back its PASTURE transaction, and ends at
once where its pasture has no step group, else at the last of their boundaries or after 90 ms without one, when their running
steps are aborted; every request of the pasture closes, and the reset ends with the FUNCTION registers at reset, the step
registers of the pasture's groups at 0, the generation one higher modulo 8 and the sequence counter and the latched tick kept. A
reset of the PF, a hot reset and PERST# do the same to every function, disable every VF, and leave the power state, the beat,
the PACKAGE keys, the fault log, the stacks, the cores, the links and the Tally (PERST# also takes the port down, and its
release brings it up). VF Enable makes VFs 1 to n exist, and D3hot moves that function alone. -/
def Obligations.FunctionResetsClearTheFunctionAlone : Prop :=
  (∀ (s : State) (f : Nat), s.dev.power.portUp = true → 1 ≤ f → f ≤ 16 → (s.dev.func f).enabled = true → (s.dev.func f).flr = false →
    ∀ (gs : List Nat), gs = ((s.dev.pastureOf f).map s.dev.groupsOf).getD [] → ∀ e : Dev,
    e = (s.dev.modFunc f (fun x => { x with flr := true, mbx := [], flrWait := gs })).flrTxns f (fun t => !t.package) →
    (gs ≠ [] → exec (.functionLevelReset f) s = .next (s.on e)) ∧
    (gs = [] → exec (.functionLevelReset f) s = .next (s.on ((e.flrClose f []).flrFinish f)))) ∧
  (∀ (s : State) (f : Nat) (d : Dev), (s.dev.func f).flr = true → (s.dev.func f).flrWait ≠ [] →
    d = s.dev.abortActs (fun _ r => (s.dev.func f).flrWait.contains r.group) .withdrawal →
    exec (.flrBoundaryTimeout f) s = .next (s.on ((d.flrClose f []).flrFinish f))) ∧
  (∀ (d : Dev) (f p : Nat), d.pastureOf f = some p →
    d.flrClose f [] = (d.reqsOf p).foldl (fun d h => d.closeReq h sAborted sAborted) d) ∧
  (∀ (d : Dev) (f : Nat), ∃ (fs : Tab Func) (hs : Tab Handle) (gs : Tab Group) (e : Dev),
    e = { d with funcs := fs, handles := hs, groups := gs } ∧ d.flrFinish f = e ∧
    e.func f = { ({} : Func) with
      enabled := (d.func f).enabled, d3hot := (d.func f).d3hot, gen := ((d.func f).gen + 1) % 8, seq := (d.func f).seq
      tickNow := (d.func f).tickNow } ∧
    (∀ k, k ≠ f → e.func k = d.func k) ∧
    (∀ h, Tab.get? hs h = if ((d.func f).waiting.map (·.handle)).contains h then none else Tab.get? d.handles h) ∧
    (∀ g, e.group g = if (((d.pastureOf f).map d.groupsOf).getD []).contains g then { d.group g with lastShown := 0, overruns := 0 } else d.group g)) ∧
  (∀ (s : State), s.dev.power.portUp = true → ∃ d : Dev,
    exec .pfFunctionLevelReset s = .next (s.on d) ∧ exec .hotReset s = .next (s.on d) ∧
    exec (.perstAssert false) s = .next (s.on { d with power := { d.power with portUp := false } }) ∧
    (∀ f, f ≠ 0 → (d.func f).enabled = false) ∧ (∀ t ∈ d.txns, t ∈ s.dev.txns) ∧
    (∀ f ≤ 16, (s.dev.func f).enabled = true → (s.dev.func f).flr = false →
      (d.func f).mbx = [] ∧ ((d.func f).flr = true ∨ (d.func f).gen = ((s.dev.func f).gen + 1) % 8)) ∧
    d.power = s.dev.power ∧ d.beat = s.dev.beat ∧ d.keys = s.dev.keys ∧ d.faults = s.dev.faults ∧ d.mem = s.dev.mem ∧ d.stk = s.dev.stk ∧
    d.cores = s.dev.cores ∧ d.links = s.dev.links ∧ d.tally = s.dev.tally) ∧
  (∀ (s : State), s.dev.power.inReset = false →
    exec (.perstAssert true) s = .next (s.on { s.dev with power := { s.dev.power with portUp := true } })) ∧
  (∀ (s : State) (on : Bool) (n : Nat), s.dev.power.portUp = true → n ≤ 16 → ∃ fs d, d = { s.dev with funcs := fs } ∧
    exec (.vfEnable on n) s = .next (s.on d) ∧ d.func 0 = s.dev.func 0 ∧
    ∀ f, 1 ≤ f → f ≤ 16 → d.func f = { s.dev.func f with enabled := on && decide (f ≤ n) }) ∧
  (∀ (s : State) (f : Nat) (hot : Bool), s.dev.power.portUp = true → (s.dev.func f).enabled = true →
    exec (.d3hot f hot) s = .next (s.on (s.dev.modFunc f (fun x => { x with d3hot := hot }))))

/-- For each of ASTREAM, SCREEN, REQUANT, LRANK, ROTATE, JUGGLE, NORM, SOFTMAX, POUND_ADD, POUND_DRAIN, BALE, UNBALE, DMA_IN,
DMA_OUT, SEND, RECV and AUDIT: where its op word stands at the pc of a sequencer that waits for nothing, its W wait is over and
its unit holds fewer than four ops, it is counted, the pc advances, it joins the end of its unit's queue, and the core's units
then do what they can. With W set and a unit not complete the sequencer waits; with a full queue it stalls; with another opcode
at the pc, or a sequencer that waits, nothing changes. -/
def Obligations.UnitOpsIssueAndJoinTheirUnit : Prop :=
  ∀ (i : Instr) (die core code k : Nat) (x : OpFacts), unitOp i = some (die, core, x, code) → k = coreKey die core →
  (∀ (s : State) (w : Nat) (r : Run), s.dev.mayIssue k code w r → ((s.dev.core k).queued (unitOf w)).length < 4 →
    exec i s = .next (s.on ((((s.dev.issued k x).runNotes k w).modCore k (fun c =>
      { c with queue := c.queue ++ [queueEntry w r.pc x] })).pump k))) ∧
  (∀ (s : State) (w : Nat) (r : Run), s.dev.mayIssue k code w r → 4 ≤ ((s.dev.core k).queued (unitOf w)).length →
    exec i s = .next (s.on (s.dev.waits k .queue))) ∧
  (∀ (s : State) (w : Nat) (r : Run), s.dev.opAt k = some w → (s.dev.core k).run = some r → r.wait = .none_ → opCode w = code →
    opW w = true → (s.dev.core k).maskDone 0 = false → exec i s = .next (s.on (s.dev.waits k .w))) ∧
  (∀ (s : State) (w : Nat) (r : Run), s.dev.opAt k = some w → (s.dev.core k).run = some r → (r.wait ≠ .none_ ∨ opCode w ≠ code) →
    exec i s = .next s) ∧
  (∀ (s : State), (s.dev.core k).run = none → exec i s = .next s)

/-- The op at the head of a unit's queue that no interlock holds has its effect and leaves the queue, and the next is tried. An
ASTREAM waits while an earlier step still reads its bytes of the activation buffer, a REQUANT while an array that it reads has
an earlier step or seed, and a Pound op or an op of DMA engine 1 while the log is to be flushed: the flush goes ahead of the
queue. -/
def Obligations.UnitsRunTheirOpsInOrder : Prop :=
  ∀ (d : Dev) (k : Nat) (q : QOp),
  (∀ n, ((d.core k).queued q.unit).head? = some q → ∀ e, d.runHead k q = (e, none) →
    d.runUnit k q.unit (n + 1) = Dev.runUnit (e.qDone k q.unit q.pc) k q.unit n) ∧
  (q.unit = 0 → d.runHead k q =
    if (d.core k).abufBusy q.pc (opZ q.op % 2 ^ 16) (asBytes q.op) then (d, some 0) else (d.doAstream k q.op, none)) ∧
  (q.unit = 1 → opCode q.op = 0x03 → d.runHead k q = (d.doScreen k q.pc q.op, none)) ∧
  (q.unit = 1 → opCode q.op = 0x04 → d.runHead k q =
    if (d.core k).waitsFor (selected q.op) q.pc then (d, some 0) else (d.doRequant k q.pc q.op, none)) ∧
  (q.unit = 1 → opCode q.op = 0x05 → d.runHead k q = (d.doLrank k q.pc q.op, none)) ∧
  (q.unit = 1 → opCode q.op = 0x08 → d.runHead k q = (d.doNorm k q.pc q.op, none)) ∧
  (q.unit = 1 → opCode q.op = 0x09 → d.runHead k q = (d.doSoftmax k q.pc q.op, none)) ∧
  (q.unit = 1 → opCode q.op = 0x1A → d.runHead k q = (d.doAudit k q.pc q.op q.facts, none)) ∧
  (q.unit = 2 → d.runHead k q = (d.doJuggle k q.pc q.op, none)) ∧
  (q.unit = 3 → d.runHead k q = (d.doRotate k q.op, none)) ∧
  (q.unit = 4 → (d.core k).pound.flushDue = true → d.runHead k q = (d, some q.done)) ∧
  (q.unit = 4 → (d.core k).pound.flushDue = false → opCode q.op = 0x0B → d.runHead k q = (d.doDrain k q.op, none)) ∧
  (q.unit = 5 → opCode q.op = 0x0C → d.runHead k q = (d.doBale k q.op, none)) ∧
  (q.unit = 5 → opCode q.op = 0x0D → d.runHead k q = (d.doUnbale k q.op, none)) ∧
  (q.unit = 7 → (d.core k).pound.flushDue = true → d.runHead k q = (d, some q.done)) ∧
  (q.unit = 6 ∨ q.unit = 7 ∧ (d.core k).pound.flushDue = false → d.runHead k q = (d.doDma k q.op (opCode q.op == 0x10) q.errs, none))

/-- ASTREAM of a dense format copies rows × 512 bytes of the scratchpad from X to buffer offset Z, clears the exponents and
occupancy of the granules it writes, and changes no other byte of the activation buffer and nothing of the scratchpad, the
stacks or another core. -/
def Obligations.AstreamOfDenseIntegersCopiesItsRows : Prop :=
  ∀ (d : Dev) (k op rows z : Nat), rows = fld (opY op) 0 8 + 1 → z = opZ op % 2 ^ 16 → opIn op ≠ cAS → opIn op ≠ cBX4 → opIn op ≠ cBX8 →
  z + rows * 512 ≤ 2 ^ 16 → ∀ e, e = d.doAstream k op →
  (∀ i < rows * 512, (Mem.get e.abuf (abAddr k (z + i))) = (d.spRead k (opX op) (rows * 512)).getD i 0#8) ∧
  (∀ a, (∀ i < rows * 512, a ≠ abAddr k (z + i)) → Mem.get e.abuf a = Mem.get d.abuf a) ∧
  e.spad = d.spad ∧ e.mem = d.mem ∧ (∀ j, j ≠ k → e.core j = d.core j) ∧
  (∀ g, z / 16 ≤ g → g < (z + rows * 512) / 16 → ∀ v, (g, v) ∉ (e.core k).bexp ∧ (g, v) ∉ (e.core k).bocc)

/-- Over tiles and their activations, eight to a tile, column c sums the products of element 8j + l with the weight of cell (l,
c) of tile j, which is the T2 code in bits [16l + 2c + 1 : 16l + 2c] of the tile: 01 is +1, 11 is −1, and 00 and 10 are 0. The
slot of each token of a parallel step takes those sums, on top of what it holds unless CLEAR starts it from zero. -/
def Obligations.ColumnsAddTheProductsOfTheirTiles : Prop :=
  (∀ (tiles : List Nat) (xs : List Int) (c : Nat), c < 8 → xs.length = 8 * tiles.length →
    (colSums tiles xs).getD c 0 =
      (((List.range (8 * tiles.length)).map (fun e => tileWeight (tiles.getD (e / 8) 0) (e % 8) c * xs.getD e 0)).sum)) ∧
  (∀ (d : Dev) (k a pc op idx : Nat) (bank : List SliceEntry) (t : Nat), wlSerial op = false → t < wlTokens op →
    (wlSlot op + t, addV (if wlClear op then List.replicate 8 0
        else (List.range 8).map (fun c => Tab.getD ((d.core k).arr a).slots ((wlSlot op + t) * 8 + c) 0))
      (colSums ((stepTiles d k op idx).map Prod.fst) (stepActs d k a pc op t))) ∈ (runStep d k a pc op idx bank).slots) ∧
  (∀ (tile l c : Nat), tileWeight tile l c =
    if tile.testBit (16 * l + 2 * c) then (if tile.testBit (16 * l + 2 * c + 1) then -1 else 1) else 0)

/-- Each column's count of a tile is the number of lanes whose weight is not zero, from 0 to 8; S_abs of the column is the sum
of the counts over the tiles that are loaded, every tile of a step with dense activations; a step that ends leaves it in its
array; and the exact screen compares with it. -/
def Obligations.SabsCountsTheNonZeroWeights : Prop :=
  (∀ (tile c : Nat), colCount tile c = ((List.range 8).filter (fun l => tileWeight tile l c != 0)).length ∧ colCount tile c ≤ 8) ∧
  (∀ (tiles : List Nat) (c : Nat), c < 8 → (sabsOf tiles).getD c 0 = (tiles.map (fun t => colCount t c)).sum) ∧
  (∀ (d : Dev) (k a sw st pc op idx : Nat) (idle rep : Bool) (rest : List ArrOp),
    ((d.core k).arr a).fifo = .step pc op idx rep :: rest → ((d.core k).arr a).stopped = false → a ∉ (d.core k).lostArrays →
    (((d.arrayStep k a idle sw st none).core k).arr a).sabs = sabsOf ((usedTiles d k op idx).map Prod.fst)) ∧
  (∀ (d : Dev) (k op idx : Nat), sparseSetting d k op = 0 → usedTiles d k op idx = stepTiles d k op idx) ∧
  (∀ (sabs : List Nat) (theta : List Int) (k c : Nat) (s : Serial), c < 8 → s.inact.getD c false = false → s.act.getD c false = false →
    ((screenCompare sabs theta k s).inact.getD c false = true ↔ s.p.getD c 0 + sabs.getD c 0 * (2 ^ k - 1) < theta.getD c 0) ∧
    ((screenCompare sabs theta k s).act.getD c false = true ↔ theta.getD c 0 ≤ s.p.getD c 0 - sabs.getD c 0 * (2 ^ k - 1)))

/-- WLOAD pushes a step to the FIFO of each array that OCT selects, and SEED a seed to its array's, where all have room; else
the sequencer stalls. A seed at the head of its FIFO with no earlier REQUANT of the array open sets its generator and leaves. A
step that starts leaves the FIFO, and its array keeps the step's mode; no other array, the scratchpad, the buffer and the stacks
do not change; the units then go on. A parity error stops the array, empties its FIFO, counts, and raises a fault. A stopped
array takes no step. -/
def Obligations.ArrayOpsPassThroughTheirFifos : Prop :=
  (∀ (s : State) (die core k w : Nat) (x : OpFacts) (r : Run), k = coreKey die core → s.dev.mayIssue k 0x01 w r →
    ((s.dev.core k).fifoRoom (selected w) = true → exec (.wload die core x) s = .next (s.on ((s.dev.issued k x).modCore k (fun c =>
      c.pushAll ((selected w).zipIdx.map (fun a => (a.1, .step r.pc w a.2 (decide (r.pc < r.repairTo))))))))) ∧
    ((s.dev.core k).fifoRoom (selected w) = false → exec (.wload die core x) s = .next (s.on (s.dev.waits k .queue)))) ∧
  (∀ (s : State) (die core k w : Nat) (x : OpFacts) (r : Run), k = coreKey die core → s.dev.mayIssue k 0x1C w r →
    ((s.dev.core k).fifoRoom [fld (opY w) 0 6] = true → exec (.seed die core x) s = .next (s.on ((s.dev.issued k x).modCore k (fun c =>
      c.pushAll [(fld (opY w) 0 6, .seed r.pc (fld (opFlags w) 0 2) (opX w))])))) ∧
    ((s.dev.core k).fifoRoom [fld (opY w) 0 6] = false → exec (.seed die core x) s = .next (s.on (s.dev.waits k .queue)))) ∧
  (∀ (s : State) (die core arr k pc g v : Nat) (rest : List ArrOp), k = coreKey die core →
    ((s.dev.core k).arr arr).fifo = .seed pc g v :: rest →
    (∀ q ∈ (s.dev.core k).queue, q.unit = 1 → opCode q.op = 0x04 → q.pc < pc → arr ∉ selected q.op) →
    exec (.seedTakeEffect die core arr) s = .next (s.on ((s.dev.modCore k (fun c => c.modArr arr (fun a =>
      { a with fifo := rest, gens := Tab.put a.gens g (v ^^^ seedK g) }))).pump k))) ∧
  (∀ (s : State) (die core arr k sw st : Nat) (par : Option Nat) (pc op idx : Nat) (idle rep : Bool) (rest : List ArrOp),
    k = coreKey die core → ((s.dev.core k).arr arr).fifo = .step pc op idx rep :: rest → arr ∉ (s.dev.core k).lostArrays →
    (((s.dev.core k).arr arr).stopped = true → exec (.arrayStepStart die core arr idle sw st par) s = .next (s.on (s.dev.pump k))) ∧
    (∀ v, ((s.dev.core k).arr arr).stopped = false → par = some v → ∃ (n last : Nat),
      exec (.arrayStepStart die core arr idle sw st par) s = .next (s.on ((((((s.dev.corePerf k gARRAY 2 n).modCore k (fun c =>
        c.modArr arr (fun a => { a with fifo := [], loaded := none, stopped := true, last := some last }))).modCore k (fun c =>
        { c with lostArrays := arr :: c.lostArrays.filter (· != arr) })).coreErr k 1 1).coreRaise k 0x0001 (arr + v % 4 * 64)).pump k))) ∧
    (((s.dev.core k).arr arr).stopped = false → par = none → ∃ e : Dev,
      exec (.arrayStepStart die core arr idle sw st par) s = .next (s.on (e.pump k)) ∧
      ((e.core k).arr arr).fifo = rest ∧
      ((e.core k).arr arr).last = some ((if wlSerial op then 1 else 0) + 2 * (if wlA4 op then 1 else 0) + 4 * wlR op) ∧
      ((e.core k).arr arr).stopped = false ∧ (∀ b, b ≠ arr → (e.core k).arr b = (s.dev.core k).arr b) ∧
      (e.core k).run = (s.dev.core k).run ∧ (e.core k).queue = (s.dev.core k).queue ∧ (∀ j, j ≠ k → e.core j = s.dev.core j) ∧
      e.spad = s.dev.spad ∧ e.abuf = s.dev.abuf ∧ e.mem = s.dev.mem))

/-- WAIT_BEAT goes on where its point has passed, else waits, and is released when it comes. BARRIER goes on where its units are
complete, else waits; where an abort has reached its group, the act aborts; it passes when they are. A sequencer that waited for
a queue's room or for W goes on once it may. SKIP_IF waits until every unit is complete, then skips its count of op words where
its word compares as its flag asks; else, where its word is the second of a RED_T record with its REPAIR bit and a first word of
zero, it marks them as a repair. MARK writes CORE_MARK and notifies where asked. END ends the act where every unit is complete
and no EMPTY contribution waits for credit, or an abort has reached the group; else it waits with its own op word. -/
def Obligations.SequencerOpsWaitSkipAndMark : Prop :=
  (∀ (s : State) (die core k w : Nat) (x : OpFacts) (r : Run) (b t : Nat), k = coreKey die core → s.dev.mayIssue k 0x18 w r →
    b = fld (opX w) 0 24 → t = fld (opY w) 0 10 → ∀ p, p = waitPassed s.dev r.start b t x.tick →
    (p = false → exec (.waitBeat die core x) s = .next (s.on ((s.dev.issued k x).waits k (.beat b t)))) ∧
    (p = true → exec (.waitBeat die core x) s = .next (s.on ((s.dev.issued k x).corePerf k gSEQ 3 1)))) ∧
  (∀ (s : State) (die core k tick : Nat) (r : Run) (b t : Nat), k = coreKey die core → (s.dev.core k).run = some r → r.wait = .beat b t →
    waitPassed s.dev r.start b t tick = true → exec (.waitBeatRelease die core tick) s = .next (s.on (s.dev.waits k .none_))) ∧
  (∀ (s : State) (die core k w : Nat) (x : OpFacts) (r : Run) (m : Nat), k = coreKey die core → s.dev.mayIssue k 0x19 w r →
    m = fld (opX w) 0 9 →
    (∀ cls, (s.dev.group r.group).abort = some cls →
      exec (.barrier die core x) s = .next (s.on ((s.dev.issued k x).coreAbort k cls))) ∧
    ((s.dev.group r.group).abort = none → (s.dev.core k).maskDone m = true → exec (.barrier die core x) s = .next (s.on (s.dev.issued k x))) ∧
    ((s.dev.group r.group).abort = none → (s.dev.core k).maskDone m = false →
      exec (.barrier die core x) s = .next (s.on ((s.dev.issued k x).waits k (.barrier m))))) ∧
  (∀ (s : State) (die core k cycles : Nat) (e : Dev) (r : Run) (m : Nat), k = coreKey die core → e = s.dev.pump k →
    (e.core k).run = some r → r.wait = .barrier m → (e.group r.group).abort = none → (e.core k).maskDone m = true →
    exec (.barrierPass die core cycles) s = .next (s.on ((e.corePerf k gSEQ 2 cycles).waits k .none_))) ∧
  (∀ (s : State) (die core k cycles w : Nat) (e : Dev) (r : Run), k = coreKey die core → e = s.dev.pump k → e.opAt k = some w →
    (e.core k).run = some r →
    (r.wait = .queue → opCode w ≠ 0x01 → opCode w ≠ 0x1C → ((e.core k).queued (unitOf w)).length < 4 →
      exec (.sequencerResume die core cycles) s = .next (s.on ((e.corePerf k gSEQ 1 cycles).waits k .none_))) ∧
    (r.wait = .w → (e.core k).maskDone 0 = true →
      exec (.sequencerResume die core cycles) s = .next (s.on ((e.corePerf k gSEQ 2 cycles).waits k .none_)))) ∧
  (∀ (s : State) (die core k w : Nat) (x : OpFacts) (r : Run), k = coreKey die core → s.dev.opAt k = some w →
    (s.dev.core k).run = some r → r.wait = .none_ → opCode w = 0x1B → (s.dev.core k).maskDone 0 = false →
    exec (.skipIf die core x) s = .next (s.on (s.dev.waits k .skip))) ∧
  (∀ (s : State) (die core k w v n : Nat) (x : OpFacts) (r : Run) (e : Dev), k = coreKey die core → s.dev.mayIssue k 0x1B w r →
    (s.dev.core k).maskDone 0 = true → e = (s.dev.issued k x).corePerf k gSPAD 3 1 → v = (s.dev.issued k x).spLE k (opY w) 8 →
    n = fld (opX w) 0 16 →
    ((v = 0 ↔ bit w 112 = true) → exec (.skipIf die core x) s = .next (s.on
      ((e.corePerf k gSEQ 4 1).modRun k (fun r => { r with pc := r.pc + n })))) ∧
    (¬ (v = 0 ↔ bit w 112 = true) → bit v 1 = true → opY w % 16 = 8 → e.spLE k (opY w - 8) 8 = 0 →
      exec (.skipIf die core x) s = .next (s.on (e.modRun k (fun q => { q with repairTo := max q.repairTo (r.pc + 1 + n) })))) ∧
    (¬ (v = 0 ↔ bit w 112 = true) → (bit v 1 = false ∨ opY w % 16 ≠ 8 ∨ e.spLE k (opY w - 8) 8 ≠ 0) →
      exec (.skipIf die core x) s = .next (s.on e))) ∧
  (∀ (s : State) (die core k w : Nat) (x : OpFacts) (r : Run), k = coreKey die core → s.dev.mayIssue k 0x1D w r → ∀ e,
    e = (s.dev.issued k x).modCore k (fun c => { c with mark := opX w }) →
    exec (.mark die core x) s = .next (s.on (if bit w 112 then
      e.emit (.message mNotify 0 die core (leBytes (opX w) 4 ++ leBytes e.beat.now 8)) else e))) ∧
  (∀ (s : State) (die core k w : Nat) (x : OpFacts) (r : Run) (e : Dev), k = coreKey die core → s.dev.mayIssue k 0x1F w r →
    e = (s.dev.issued k x).pump k →
    ((e.core k).maskDone 0 = true → e.emptyWaits k = false → exec (.endAct die core x) s = .next (s.on (e.finishEnd k))) ∧
    (∀ cls, e.groupAbort k = some cls → exec (.endAct die core x) s = .next (s.on (e.finishEnd k))) ∧
    (((e.core k).maskDone 0 = false ∨ e.emptyWaits k = true) → e.groupAbort k = none →
      exec (.endAct die core x) s = .next (s.on (e.modRun k (fun r => { r with pc := r.pc - 1, wait := .fin })))))

/-- Where a SEND at the head of the bound sender's port and the RECV of the bound receiver of the package stand on one channel
in the same step, the sender's rows are the receiver's, on an AS channel run by run, and both ops complete; without the RECV
nothing changes. Where the receiver is on another package, the SEND waits for its ready message, sends its rows in messages, and
completes once they are delivered. A RECV of this package takes what another package has sent once the last message has come,
and what a die agent sends at once. A Pound whose log is full writes the whole log to the overflow region, keeps what it has
flushed in order, and starts an empty log. -/
def Obligations.ExchangesMoveRowsAndTheLogFlushes : Prop :=
  (∀ (s : State) (p ch die core k j : Nat) (data : List Byte) (sh : Show) (q t : QOp) (x e : Nat), k = coreKey die core →
    s.dev.sendsOn p ch k sh q x → fld x 40 12 = sh.position → fld x 58 6 ≠ 63 → j = coreKey (fld x 52 6) (fld x 58 6) →
    e = s.dev.descOf k (fld (opX q.op) 0 9) →
    ((s.dev.recvsOn p ch).find? (fun t => t.1 == j && s.dev.runStart t.1 == s.dev.runStart k) = none →
      exec (.exchangeTransfer p ch die core data) s = .next s) ∧
    ((s.dev.recvsOn p ch).find? (fun t => t.1 == j && s.dev.runStart t.1 == s.dev.runStart k) = some (j, t) →
      (bit x 12 = false → exec (.exchangeTransfer p ch die core data) s =
        .next (s.on ((((s.dev.recvInto j t (s.dev.spRead k (dLocal e) (dExtent e))).qDone k 8 q.pc).pump k).pump j))) ∧
      (bit x 12 = true → exec (.exchangeTransfer p ch die core data) s =
        .next (s.on (((((s.dev.moveAs k j e (s.dev.descOf j (fld (opX t.op) 0 9))
          (min (dRuns e) (dRuns (s.dev.descOf j (fld (opX t.op) 0 9)))) 0).qDone j 8 t.pc).qDone k 8 q.pc).pump k).pump j))))) ∧
  (∀ (s : State) (p ch die core k : Nat) (data : List Byte) (sh : Show) (q : QOp) (x : Nat) (ready : StileMsg → Bool), k = coreKey die core →
    s.dev.sendsOn p ch k sh q x → fld x 40 12 ≠ sh.position →
    (∀ m, ready m = (m.kind == 1 && m.chan == fld x 0 12 && coreKey m.die m.core == k && m.step == s.dev.runStart k &&
      m.src == sh.addrOf (fld x 40 12))) →
    (q.done ≠ 0 → exec (.exchangeTransfer p ch die core data) s = .next (s.on ((s.dev.qDone k 8 q.pc).pump k))) ∧
    (q.done = 0 → s.dev.inbox.any ready = false → exec (.exchangeTransfer p ch die core data) s = .next s) ∧
    (q.done = 0 → s.dev.inbox.any ready = true → bit x 12 = false → exec (.exchangeTransfer p ch die core data) s = .next (s.on
      (((s.dev.dropMsgs ready).modCore k (fun c => { c with
        queue := c.queue.map (fun y => if y.unit = 8 ∧ y.pc = q.pc then { y with done := 1 } else y) })).sendTo sh (fld x 40 12) 0
        (fld x 52 6) (fld x 58 6) (fld x 0 12) (s.dev.runStart k) 0
        (s.dev.spRead k (dLocal (s.dev.descOf k (fld (opX q.op) 0 9))) (dExtent (s.dev.descOf k (fld (opX q.op) 0 9)))))))) ∧
  (∀ (s : State) (p ch die core x : Nat) (data : List Byte) (sh : Show), s.dev.takesOn p ch (coreKey die core) sh x →
    (fld x 16 12 ≠ sh.position → exec (.exchangeTransfer p ch die core data) s = .next (s.on (s.dev.recvOut p sh x))) ∧
    (fld x 16 12 = sh.position → fld x 34 6 = 63 →
      exec (.exchangeTransfer p ch die core data) s = .next (s.on (s.dev.takeData p ch (bit x 12) data)))) ∧
  (∀ (d : Dev) (p k x : Nat) (sh : Show) (q : QOp) (h : StileMsg) (bs : List Byte), k = coreKey (fld x 52 6) (fld x 58 6) →
    (d.recvsOn p (fld x 0 12)).find? (fun t => t.1 == k) = some (k, q) →
    d.transferIn (fun m => m.kind == 0 && m.chan == fld x 0 12 && coreKey m.die m.core == k && m.step == d.runStart k &&
      m.src == sh.addrOf (fld x 16 12)) = some (h, bs) →
    d.recvOut p sh x = ((d.dropMsgs h.same).recvData k q (bit x 12) bs).pump k) ∧
  (∀ (s : State) (die core k stall e addr lim : Nat) (ex ro as_ : Bool) (x : StackReply) (d : Dev), k = coreKey die core →
    (s.dev.core k).pound.flushDue = true → s.dev.poundEntry k = some e → Tab.get? (s.dev.core k).bases (fld e 12 4) = some (.linear addr lim ex ro as_) →
    s.dev.remoteWrite k (addr + (s.dev.core k).pound.ovBytes) 0 false [] (s.dev.spRead k (logOff e) (512 * logRows e)) = (x, d) →
    ∃ f : Dev, exec (.poundFlush die core stall) s = .next (s.on (f.pump k)) ∧ f.mem = d.mem ∧ (f.core k).pound =
      { (d.core k).pound with
        log := [], flushed := (d.core k).pound.flushed ++ (d.core k).pound.log, flushDue := false
        ovBytes := (d.core k).pound.ovBytes + 512 * logRows e })

/-- At tick 0 the beat number of a package out of reset, with no jump waiting, becomes one more modulo 2^64; on the change to 0,
RM_EVENT.WRAP is set in every enabled function. A time compares as at or after another exactly when their difference modulo 2^64
is below 2^63. A step's grid passes through the wrap: a step-start entry fires again one period later modulo 2^64. -/
def Obligations.BeatNumberWrapsModulo64Bits : Prop :=
  (∀ (s : State) (launch : List Nat), s.dev.power.inReset = false → s.dev.beat.jump = none → ∃ d,
    exec (.beatTick0 launch) s = .next (s.on d) ∧ d.beat.now = (s.dev.beat.now + 1) % 2 ^ 64 ∧
    ((s.dev.beat.now + 1) % 2 ^ 64 = 0 → ∀ f, (s.dev.func f).enabled = true → bit (d.func f).event 5 = true)) ∧
  (∀ a b : Nat, beatGe b a = true ↔ ((b : Int) - a) % 2 ^ 64 < 2 ^ 63) ∧
  (∀ (d : Dev) (g : Nat) (x : StepFacts) (e : CalEntry), d.startEntry g = some e → (d.group g).running = true →
    (d.group g).unloading = false → (d.group g).rejoin = none → (d.group g).leaves = [] → (d.group g).spans = false →
    (∀ q ∈ d.funcs, q.2.flr = false) → ∀ c ∈ d.cal, c.action = 1 → c.group = g →
    (d.group g).passed < 2 → { c with beat := (e.beat + max 1 (e.arg % 2 ^ 24)) % 2 ^ 64 } ∈ (d.boundary g x).cal)

/-- On pins, with no lock under way and no relock waiting: in FREE an edge counts one more, and the eighth locks; in LOCKED an
edge within 32 ticks is followed, and in SLEWING one within 32 ticks of the remaining error, which locks once it is within 1
tick; one outside counts as missing, and the eighth in succession (log entry 119) enters HOLDOVER; in HOLDOVER an edge within 64
ticks returns by SLEWING, or at once within 1 tick, one outside enters SLIPPED; in SLIPPED only the measured phase changes. A
missing edge breaks a run in FREE, counts in LOCKED and SLEWING, and the eighth in succession enters HOLDOVER; in HOLDOVER and
SLIPPED it changes nothing. A change of state sets RM_EVENT.BEAT in every enabled function. Where the package is in reset or
follows a link, an edge changes nothing. -/
def Obligations.BeatStateFollowsEdges : Prop :=
  (∀ (s : State) (phase : Int) (hz : Nat), s.dev.power.inReset = false → s.dev.aux.strapBeat = false → s.dev.beat.lockDue = false →
    (∀ y ∈ s.dev.beat.syncs, y.armed = false) → ∀ b : Beat, b = s.dev.beat →
    (b.st = .free → b.valid < 7 → exec (.beatEdge phase hz) s = .next (s.on { s.dev with beat := { b with valid := b.valid + 1 } })) ∧
    (b.st = .free → b.valid = 7 → ∃ d, exec (.beatEdge phase hz) s = .next (s.on { d with
        beat := { b with st := .locked, valid := 0, missing := 0, lockedOnce := true, hop := 0, hz := hz, phase := 0, lockDue := true, jump := none } }) ∧
      d = { s.dev with beat := { b with st := .locked, missing := 0, valid := 0 } }.eventAll 3 2) ∧
    (b.st = .locked → phase.natAbs ≤ 32 →
      exec (.beatEdge phase hz) s = .next (s.on { s.dev with beat := { b with missing := 0, phase := phase, hop := 0, hz := hz } })) ∧
    (b.st = .slewing → (phase - b.phase).natAbs ≤ 32 → 1 < phase.natAbs →
      exec (.beatEdge phase hz) s = .next (s.on { s.dev with beat := { b with missing := 0, phase := phase, hop := 0, hz := hz } })) ∧
    (b.st = .slewing → (phase - b.phase).natAbs ≤ 32 → phase.natAbs ≤ 1 → exec (.beatEdge phase hz) s = .next (s.on
      { s.dev with beat := { b with missing := 0, phase := phase, hop := 0, hz := hz } }.lock)) ∧
    ((b.st = .locked ∧ 32 < phase.natAbs ∨ b.st = .slewing ∧ 32 < (phase - b.phase).natAbs) → b.missing < 7 →
      exec (.beatEdge phase hz) s = .next (s.on { s.dev with beat := { b with missing := b.missing + 1 } })) ∧
    ((b.st = .locked ∧ 32 < phase.natAbs ∨ b.st = .slewing ∧ 32 < (phase - b.phase).natAbs) → 7 ≤ b.missing →
      exec (.beatEdge phase hz) s = .next (s.on ({ s.dev with beat := { b with st := .holdover, missing := 0, valid := 0 } }.eventAll 3 2))) ∧
    (b.st = .holdover → phase.natAbs ≤ 1 → exec (.beatEdge phase hz) s = .next (s.on
      ({ s.dev with beat := { b with st := .slewing, missing := 0, valid := 0, phase := phase, hop := 0, hz := hz } }.eventAll 3 2).lock)) ∧
    (b.st = .holdover → 1 < phase.natAbs → phase.natAbs ≤ 64 → exec (.beatEdge phase hz) s = .next (s.on
      ({ s.dev with beat := { b with st := .slewing, missing := 0, valid := 0, phase := phase, hop := 0, hz := hz } }.eventAll 3 2))) ∧
    (b.st = .holdover → 64 < phase.natAbs → exec (.beatEdge phase hz) s = .next (s.on
      ({ s.dev with beat := { b with st := .slipped, missing := 0, valid := 0, phase := phase } }.eventAll 3 2))) ∧
    (b.st = .slipped → exec (.beatEdge phase hz) s = .next (s.on { s.dev with beat := { b with phase := phase } }))) ∧
  (∀ (s : State) (phase : Int) (hz : Nat), (s.dev.power.inReset = true ∨ s.dev.aux.strapBeat = true) →
    exec (.beatEdge phase hz) s = .next s) ∧
  (∀ (s : State), s.dev.power.inReset = false → ∀ b : Beat, b = s.dev.beat →
    (b.st = .free → exec .beatMissing s = .next (s.on { s.dev with beat := { b with valid := 0 } })) ∧
    ((b.st = .locked ∨ b.st = .slewing) → b.missing < 7 →
      exec .beatMissing s = .next (s.on { s.dev with beat := { b with missing := b.missing + 1 } })) ∧
    ((b.st = .locked ∨ b.st = .slewing) → 7 ≤ b.missing →
      exec .beatMissing s = .next (s.on ({ s.dev with beat := { b with st := .holdover, missing := 0, valid := 0 } }.eventAll 3 2))) ∧
    ((b.st = .holdover ∨ b.st = .slipped) → exec .beatMissing s = .next s))

/-- A marker on the link that BEAT_LINK names, in a package strapped to a link, with no lock under way and no BEAT_SYNC armed,
is judged after LAUNCH and the one-way delay are taken off, in sixteenths of a tick against the tick 0 nearest to its
compensated time: in LOCKED, one in the window with that tick 0's number is followed with its hop count plus one; one in the
window with another number slips the package; one outside the window, or with hop count 15, counts as missing. In HOLDOVER one
in the wider window with the right number returns by SLEWING, another enters SLIPPED. In FREE the eighth locks, and the number
it carries, moved on to the next boundary, is taken there. In SLIPPED the phase is measured only. On another link, or with the
strap at the pins, the marker is counted in the link's performance group and changes nothing else. -/
def Obligations.BeatStateFollowsMarkers : Prop :=
  (∀ (s : State) (l launch beat hop hz : Nat) (arrival at_ phase : Int) (own : Nat) (e : Dev) (b : Beat), s.dev.power.inReset = false →
    (s.dev.link l).st = .up → e = s.dev.linkPerf l 7 1 → b = e.beat → at_ = arrival - (launch : Int) - (e.oneWay l : Int) →
    phase = at_ - 16384 * ((at_ + 8192) / 16384) →
    own = (((b.now : Int) + (if arrival < 0 then 1 else 0) + (at_ + 8192) / 16384) % 2 ^ 64).toNat →
    (e.aux.strapBeat = false ∨ l ≠ e.key kBeatLink → exec (.beatMarkerReceive l arrival launch beat hop hz) s = .next (s.on e)) ∧
    (e.aux.strapBeat = true → l = e.key kBeatLink → b.lockDue = false → (∀ y ∈ b.syncs, y.armed = false) → hop < 16 → beat < 2 ^ 64 →
      (b.st = .locked → hop ≠ 15 → phase.natAbs ≤ 32 * 16 → beat = own →
        exec (.beatMarkerReceive l arrival launch beat hop hz) s =
          .next (s.on { e with beat := { b with missing := 0, phase := (phase + 8) / 16, hop := hop + 1, hz := hz } })) ∧
      (b.st = .locked → hop ≠ 15 → phase.natAbs ≤ 32 * 16 → beat ≠ own →
        exec (.beatMarkerReceive l arrival launch beat hop hz) s =
          .next (s.on ({ e with beat := { b with st := .slipped, missing := 0, valid := 0 } }.eventAll 3 2))) ∧
      (b.st = .locked → (hop = 15 ∨ 32 * 16 < phase.natAbs) → b.missing < 7 →
        exec (.beatMarkerReceive l arrival launch beat hop hz) s = .next (s.on { e with beat := { b with missing := b.missing + 1 } })) ∧
      (b.st = .holdover → hop ≠ 15 → phase.natAbs ≤ 64 * 16 → beat = own → 1 < ((phase + 8) / 16).natAbs →
        exec (.beatMarkerReceive l arrival launch beat hop hz) s = .next (s.on
          ({ e with beat := { b with
            st := .slewing, missing := 0, valid := 0, phase := (phase + 8) / 16, hop := hop + 1, hz := hz } }.eventAll 3 2))) ∧
      (b.st = .holdover → hop ≠ 15 → (64 * 16 < phase.natAbs ∨ beat ≠ own) →
        exec (.beatMarkerReceive l arrival launch beat hop hz) s = .next (s.on
          ({ e with beat := { b with st := .slipped, missing := 0, valid := 0, phase := (phase + 8) / 16 } }.eventAll 3 2))) ∧
      (b.st = .slipped → hop ≠ 15 → exec (.beatMarkerReceive l arrival launch beat hop hz) s =
        .next (s.on { e with beat := { b with phase := (phase + 8) / 16 } })) ∧
      (b.st = .free → hop ≠ 15 → b.valid = 7 → ∃ d,
        exec (.beatMarkerReceive l arrival launch beat hop hz) s = .next (s.on { d with beat :=
          { b with
            st := .locked, valid := 0, missing := 0, lockedOnce := true, hop := hop + 1, hz := hz, phase := 0, lockDue := true
            jump := some ((beat + beatAhead own (b.now + 1)) % 2 ^ 64) } }) ∧
        d = { e with beat := { b with st := .locked, missing := 0, valid := 0 } }.eventAll 3 2)))

/-- At its load beat an accepted load makes the number the given one, moves what is scheduled by the same offset, and completes
OK with the offset; a relock begins to wait, and the next edge ends it: the state is LOCKED with no phase error, under the new
number. Eight beats later without an edge or marker it completes ABORTED and the numbering stays. A renumbering by a non-zero
offset moves every absolute Calendar entry, every pending commit beat and the beat of every BEAT_SYNC that waits by it, and no
step-relative entry. -/
def Obligations.BeatSyncLoadsRelocksAndExpires : Prop :=
  (∀ (s : State) (y : BeatSync), s.dev.beat.syncs.find? (fun z => !z.armed && z.load == s.dev.beat.now) = some y →
    s.dev.power.inReset = false →
    (y.relock = false → s.dev.aux.strapBeat = false → exec .beatSyncLoad s = .next (s.on
      (((s.dev.dropSync y.handle).renumber y.load y.value).syncDone y.handle (y.value % 2 ^ 64) (beatAhead y.load y.value)))) ∧
    ((y.relock = true ∨ s.dev.aux.strapBeat = true) → exec .beatSyncLoad s = .next (s.on { s.dev with
      beat := { s.dev.beat with syncs := s.dev.beat.syncs.map (fun z => if z.handle = y.handle then { z with armed := true } else z) } }))) ∧
  (∀ (s : State) (y : BeatSync),
    s.dev.beat.syncs.find? (fun z => z.armed && beatGe s.dev.beat.now z.load && 8 ≤ beatAhead z.load s.dev.beat.now) = some y →
    exec .beatSyncTimeout s = .next (s.on ({ s.dev with
      beat := { s.dev.beat with syncs := s.dev.beat.syncs.filter (fun z => z.handle != y.handle) } }.finish y.handle sAborted []))) ∧
  (∀ (s : State) (phase : Int) (hz : Nat) (y : BeatSync), s.dev.beat.syncs.find? (fun z => z.armed && z.relock) = some y →
    s.dev.power.inReset = false → s.dev.aux.strapBeat = false → s.dev.beat.lockDue = false →
    exec (.beatEdge phase hz) s = .next (s.on (s.dev.relock y.handle s.dev.beat.now y.value 0 0 hz))) ∧
  (∀ (d : Dev) (h own n after hop hz : Nat) (e : Dev), e = d.relock h own n after hop hz →
    e.beat.now = (n + after) % 2 ^ 64 ∧ e.beat.st = .locked ∧ e.beat.phase = 0 ∧ e.beat.hop = hop ∧ (∀ y ∈ e.beat.syncs, y.handle ≠ h)) ∧
  (∀ (d : Dev) (own n o : Nat), o = beatAhead own n → o ≠ 0 →
    (d.renumber own n).beat.now = n % 2 ^ 64 ∧
    (d.renumber own n).cal = d.cal.map (fun e =>
      if e.rel then e else { e with beat := (e.beat + o) % 2 ^ 64, heldAt := (e.heldAt + o) % 2 ^ 64 }) ∧
    (d.renumber own n).txns = d.txns.map (fun t => if t.pending then { t with commit := (t.commit + o) % 2 ^ 64 } else t) ∧
    (d.renumber own n).beat.syncs = d.beat.syncs.map (fun y => { y with load := (y.load + o) % 2 ^ 64 }) ∧
    (d.renumber own n).reqs = d.reqs ∧ (d.renumber own n).mem = d.mem ∧ (d.renumber own n).funcs = d.funcs)

/-- Where one validated transaction is due and no die of its entry is being recovered, its items take effect in staging order
and its entry leaves; without an item that needs quiescence, or with no group that can start, it completes OK with the number of
items; else it waits for its groups. With none due, nothing changes. A power-cap entry at its beat leaves the Calendar and puts
the cap in force, but for BRACE, which keeps its own. -/
def Obligations.CommitsAndPowerCapsTakeEffect : Prop :=
  (∀ (s : State), s.dev.dueTxns = [] → exec .configurationCommit s = .next s) ∧
  (∀ (s : State) (t : Txn) (e : Dev), s.dev.dueTxns = [t] → s.dev.entryHeld (commitOf t) = false → t.validated = true →
    e = (s.dev.calDrop (commitOf t)).commitItems t →
    ((∀ i ∈ t.items, keyEffect i.1 ≠ .quiescence) →
      exec .configurationCommit s = .next (s.on ((e.dropTxn t.handle).finish t.handle sOk [t.items.length, 0]))) ∧
    ((∃ i ∈ t.items, keyEffect i.1 = .quiescence) → e.startableGroups t.pasture ≠ [] →
      exec .configurationCommit s = .next (s.on (e.modTxn t.handle (fun x => { x with fired := true, waits := e.startableGroups t.pasture }))))) ∧
  (∀ (s : State) (cap : Nat) (c : CalEntry), s.dev.cal.find? (fun e => e.action == 7 && e.beat == s.dev.beat.now && e.arg == cap) = some c →
    ∀ e, e = s.dev.calDrop (fun e => e.action == 7 && e.beat == s.dev.beat.now && e.arg == cap) →
    (s.dev.power.st = .brace → exec (.powerCapChange cap) s = .next (s.on e)) ∧
    (s.dev.power.st ≠ .brace → exec (.powerCapChange cap) s = .next (s.on { e with
      power := s.dev.power.change (fun p => { p with capInForce := cap, clockInForce := s.dev.power.clockInForce }) })))

/-- STEP_START serves the commits that are due, then the groups whose step-start entries have come, the earlier beats first and
those of one beat in the order of the master Calendar, up to its own group: its staged map sets take effect and its boundary
follows. A boundary moves the entry on by the period. During a running step it counts as passed and raises STEP_OVERRUN; the
third in succession withdraws the package from the group instead. A group with no entry due does not change. A step that starts
takes the next epoch, the boundary as its start beat, its batch within B_MAX, and begins the act of every selected act's core at
op word 0. -/
def Obligations.StepsStartOverrunAndDrop : Prop :=
  (∀ (s : State) (g : Nat) (x : StepFacts) (e : Dev) (before after : List Nat), e = s.dev.commitsDue → e.dueStarts = before ++ g :: after →
    g ∉ before → exec (.stepStart g x) s = .next (s.on ((before.foldl (fun d i => d.mapAndBoundary i x) e).mapAndBoundary g x))) ∧
  (∀ (s : State) (g : Nat) (x : StepFacts), g ∉ s.dev.commitsDue.dueStarts → exec (.stepStart g x) s = .next (s.on s.dev.commitsDue)) ∧
  (∀ (d : Dev), d.dueStarts.Perm ((d.cal.filter (fun e => e.action == 1 && beatGe d.beat.now e.beat)).map (fun e => e.group))) ∧
  (∀ (d : Dev) (g : Nat) (x : StepFacts), d.startEntry g = none → d.mapAndBoundary g x = d) ∧
  (∀ (d : Dev) (g : Nat) (x : StepFacts) (e : CalEntry) (f : Dev), d.startEntry g = some e →
    f = { d with cal := d.cal.map (fun c : CalEntry =>
      if c.action = 1 && c.group = g then { c with beat := (e.beat + max 1 (e.arg % 2 ^ 24)) % 2 ^ 64 } else c) } →
    (∀ q ∈ d.funcs, q.2.flr = false) → (d.group g).leaves = [] → (d.group g).peersJoin = [] → (d.group g).unloading = false →
    (d.group g).rejoin = none → (d.group g).spans = false → (d.group g).running = true →
    ∀ h : Dev, h = f.modGroup g id →
      d.boundary g x = (if (d.group g).passed + 1 < 3 then (h.modGroup g (fun y => { y with passed := (d.group g).passed + 1 })).overrun g
        else h.dropGroup g)) ∧
  (∀ (d : Dev) (g : Nat), d.overrun g = (d.modGroup g (fun x => { x with overruns := satAdd 16 x.overruns 1 })).stepEvent (d.group g).pasture) ∧
  (∀ (d : Dev) (g beat fmt : Nat) (sh : Show) (sl : List SlicePlan) (i : Nat) (a : Act), ((d.selectActs g sh).map (fun q => coreKey q.2.die q.2.core)).Nodup →
    (i, a) ∈ d.selectActs g sh → ∃ r, ((d.startStep g beat fmt sh sl).core (coreKey a.die a.core)).run = some r ∧ r.act = i ∧ r.pc = 0 ∧
      r.wait = .none_ ∧ r.group = g ∧ r.start = beat ∧ r.pasture = (d.group g).pasture)

/-- A leave notice joins those of a group that spans packages; a join notice whose boundary has not come replaces that peer's.
The sweep entry of a pasture, once its beat has come, closes every pausing or paused request that has expired with EXPIRED,
counts it, and is placed anew. A tree-phase or exchange-launch entry that comes due in its step fires once in it and marks its
instance, or the latest step that waits; a die that is being recovered holds its copy of a tree phase. Where no such entry is
due, or another entry of its Calendar goes first, nothing changes. A die that returns from recovery gives up what it held: its
copy of a phase fires where the step is still current, and else is discarded and counted. -/
def Obligations.NoticesSweepsAndStepEntriesAct : Prop :=
  (∀ (s : State) (g peer : Nat) (req : Bool), (s.dev.group g).exists_ = true → (s.dev.group g).spans = true →
    exec (.leaveNoticeReceive g peer req) s = .next (s.on (s.dev.modGroup g (fun x => { x with leaves := x.leaves ++ [(peer, req)] })))) ∧
  (∀ (s : State) (g peer b : Nat), (s.dev.group g).exists_ = true → (s.dev.group g).spans = true → beatGe s.dev.beat.now b = false →
    exec (.joinNoticeReceive g peer b) s =
      .next (s.on (s.dev.modGroup g (fun x => { x with peersJoin := x.peersJoin.filter (fun j => j.1 != peer) ++ [(peer, b)] })))) ∧
  (∀ (s : State) (p : Nat) (e : CalEntry), e ∈ s.dev.cal → e.action = 5 → e.target = p → e.rel = false → e.held = [] →
    beatGe s.dev.beat.now e.beat = true → s.dev.mayFire e = true →
    exec (.ttlSweep p) s = .next (s.on ((((s.dev.reqs.filter (fun r => r.2.pasture == p && (r.2.st == .pausing || r.2.st == .paused) &&
      beatGe s.dev.beat.now r.2.expiry)).map Prod.fst).foldl
        (fun d h => (d.srvAdd (hFunc h) 5 1).closeReq h sExpired sAborted) s.dev).resweep p))) ∧
  (∀ (s : State) (p n l : Nat) (sh : Show) (e : Nat) (c : CalEntry) (held : List (Nat × Nat)), s.dev.showOf p = some sh →
    (redEntries sh)[n]? = some e →
    s.dev.cal.find? (fun c => c.action == 6 && c.target == n && c.arg == l && (s.dev.group c.group).pasture == p && s.dev.entryDue c) = some c →
    held = (c.dies.filter s.dev.inRecovery).map (fun v => (l, v)) →
    (s.dev.mayFire c = false → exec (.reductionTreePhase p n l) s = .next s) ∧
    (s.dev.mayFire c = true → (s.dev.red p n).waits = [] → exec (.reductionTreePhase p n l) s = .next (s.on
      ((s.dev.fireEntry c (c.dies.filter s.dev.inRecovery)).modRed p n (fun x =>
        { x with phases := l :: x.phases.filter (· != l), heldPhases := x.heldPhases ++ held })))) ∧
    (∀ ws w, s.dev.mayFire c = true → (s.dev.red p n).waits = ws ++ [w] → exec (.reductionTreePhase p n l) s = .next (s.on
      ((s.dev.fireEntry c (c.dies.filter s.dev.inRecovery)).modRed p n (fun x => { x with
        waits := ws ++ [{ w with phases := l :: w.phases.filter (· != l), heldPhases := w.heldPhases ++ held }] }))))) ∧
  (∀ (s : State) (p l : Nat) (c : CalEntry),
    s.dev.cal.find? (fun c => c.action == 2 && c.target == l && (s.dev.group c.group).pasture == p && s.dev.entryDue c) = some c →
    (s.dev.mayFire c = false → exec (.exchangeLaunch p l) s = .next s) ∧
    (s.dev.mayFire c = true → (s.dev.race p l).waiting (s.dev.group c.group).last = none →
      exec (.exchangeLaunch p l) s = .next (s.on ((s.dev.fireEntry c []).modRace p l (fun x => { x with launched := true })))) ∧
    (∀ w, s.dev.mayFire c = true → (s.dev.race p l).waiting (s.dev.group c.group).last = some w →
      exec (.exchangeLaunch p l) s = .next (s.on ((s.dev.fireEntry c []).modRace p l (fun x =>
        x.modWait w.step (fun w => { w with launched := true })))))) ∧
  (∀ (s : State) (p n l : Nat),
    ((∀ c ∈ s.dev.cal, ¬ (c.action = 5 ∧ c.target = p ∧ s.dev.entryDue c = true)) → exec (.ttlSweep p) s = .next s) ∧
    ((∀ c ∈ s.dev.cal, ¬ (c.action = 6 ∧ c.target = n ∧ c.arg = l ∧ s.dev.entryDue c = true)) → exec (.reductionTreePhase p n l) s = .next s) ∧
    ((∀ c ∈ s.dev.cal, ¬ (c.action = 2 ∧ c.target = l ∧ s.dev.entryDue c = true)) → exec (.exchangeLaunch p l) s = .next s)) ∧
  (∀ (s : State) (die : Nat), s.dev.inRecovery die = false →
    ((∀ e ∈ s.dev.cal, die ∉ e.held) → exec (.calHeldEntryRelease die) s = .next s) ∧
    (∀ (c : CalEntry), s.dev.cal = [c] → c.held = [die] → c.rel = true →
      (s.dev.stepCurrent c = false →
        exec (.calHeldEntryRelease die) s = .next (s.on ({ s.dev with cal := [{ c with held := [] }] }.errAdd die 64 4 1))) ∧
      (s.dev.stepCurrent c = true → c.action = 6 → ∃ f : Inst → Inst,
        exec (.calHeldEntryRelease die) s = .next (s.on
          ({ s.dev with cal := [{ c with held := [] }] }.modRed (s.dev.group c.group).pasture c.target f)) ∧
        ∀ x, (f x).phases = x.phases ∧ (f x).heldPhases = x.heldPhases.filter (· != (c.arg, die))))) ∧
  (∀ (s : State) (die : Nat), s.dev.inRecovery die = true → exec (.calHeldEntryRelease die) s = .next s)

/-- In a live TREE instance, participant i of this package that has reached its sending level at a phase that has come, its
die's copy not held, gives up its buffer: to a receiver i − 2^L of this package at the same level, which combines it, or in
messages to the receiver's package; where the receiver is not ready nothing is sent. The transfer of a participant of another
package, held or come whole by message for this step, is combined by a receiver that is ready. A combine changes the level for
an EMPTY, takes the data for an EMPTY receiver, and else writes the combination of the two buffers. In a live ARRIVAL instance
the contribution at the head of its core's port, and one that has come by message, is applied and counted; the first waits while
a Fold it meets has no free instance counter. A transfer to an instance that is over changes only what then can go on. -/
def Obligations.TreeTransfersCombineAtTheReceiver : Prop :=
  (∀ (s : State) (p n i l j die core : Nat) (sh : Show) (e : Nat) (bs : List Byte) (ps : List Nat) (d : Dev), s.dev.showOf p = some sh →
    (redEntries sh)[n]? = some e → (s.dev.red p n).tree = true → 0 < i → i < rCount e → (s.dev.red p n).done = false →
    (s.dev.red p n).abandoned = false → (s.dev.red p n).live = true → i % 2 ^ (l + 1) = 2 ^ l → l < rLevels e → j = i - 2 ^ l →
    redPart sh e i = some (sh.position, die, core) → (s.dev.part p n i).st ≠ 0 → (s.dev.part p n i).gone = false →
    (s.dev.part p n i).level = l → l ∈ (s.dev.red p n).phases → (l, die) ∉ (s.dev.red p n).heldPhases →
    (bs, ps, d) = (if (s.dev.part p n i).st = 2 then ([], [], s.dev) else s.dev.treeRead sh e i) →
    (redLocal sh e j = true → (s.dev.part p n j).st ≠ 0 → (s.dev.part p n j).level = l →
      exec (.treeTransferReceive p n i) s = .next (s.on
        ((((d.modPart p n i (fun y => { y with gone := true })).treeCombine p n sh e j (s.dev.part p n i).st bs).enterHeld p n).pumpAll))) ∧
    (redLocal sh e j = true → ((s.dev.part p n j).st = 0 ∨ (s.dev.part p n j).level ≠ l) →
      exec (.treeTransferReceive p n i) s = .next (s.on ((s.dev.enterHeld p n).pumpAll))) ∧
    (redLocal sh e j = false →
      exec (.treeTransferReceive p n i) s = .next (s.on
        (((((d.modPart p n i (fun y => { y with gone := true })).sendTo sh (((redPart sh e j).map Prod.fst).getD 0) 2 (homeGraze sh e i) 63 n
          (s.dev.red p n).step (redTag i (s.dev.part p n i).st false) bs).treeGone p n sh e).enterHeld p n).pumpAll)))) ∧
  (∀ (s : State) (p n i l j kind : Nat) (sh : Show) (e : Nat) (bs : List Byte), s.dev.showOf p = some sh →
    (redEntries sh)[n]? = some e → (s.dev.red p n).tree = true → 0 < i → i < rCount e → (s.dev.red p n).done = false →
    (s.dev.red p n).abandoned = false → (s.dev.red p n).live = true → i % 2 ^ (l + 1) = 2 ^ l → l < rLevels e → j = i - 2 ^ l →
    redLocal sh e i = false → redLocal sh e j = true → (s.dev.part p n j).st ≠ 0 → (s.dev.part p n j).level = l →
    (s.dev.part p n i).gone = false →
    (s.dev.heldNow p n i = some (kind, bs) →
      exec (.treeTransferReceive p n i) s = .next (s.on ((((s.dev.modPart p n i (fun y => { y with held := none, gone := true })).treeCombine
        p n sh e j kind (bs.take (rBytes e))).enterHeld p n).pumpAll))) ∧
    (∀ h, s.dev.heldNow p n i = none → s.dev.redIn sh e n i = some (h, bs) → h.what ≠ 3 → h.step = (s.dev.red p n).step →
      exec (.treeTransferReceive p n i) s = .next (s.on (((((s.dev.dropMsgs h.same).modPart p n i (fun y =>
        { y with held := none, gone := true })).treeCombine p n sh e j h.what (bs.take (rBytes e))).enterHeld p n).pumpAll)))) ∧
  (∀ (d : Dev) (p n j kind : Nat) (sh : Show) (e : Nat) (data : List Byte), j ≠ 0 →
    ∀ f h : Dev, f = d.treeCombine p n sh e j kind data → h = d.modPart p n j (fun x =>
      { x with st := if kind = 2 then x.st else 1, level := passLevels (rCount e) j (rLevels e) ((d.part p n j).level + 1) }) →
    (kind = 2 → f = h) ∧
    (kind = 1 → (d.part p n j).st = 2 → f = h.treeWrite sh e j data []) ∧
    (∀ own poison g, kind = 1 → (d.part p n j).st ≠ 2 → (own, poison, g) = h.treeRead sh e j → f =
      (((g.treeWrite sh e j (redCombine e own data).1 poison).perfAdd (homeGraze sh e j) 63 9 1 (cdiv (rBytes e) 256)).errAdd
        (homeGraze sh e j) 64 8 (redCombine e own data).2.1).errAdd (homeGraze sh e j) 64 9 (redCombine e own data).2.2)) ∧
  (∀ (s : State) (p n i die core k : Nat) (sh : Show) (e : Nat) (q : QOp),
    s.dev.showOf p = some sh → (redEntries sh)[n]? = some e → redPart sh e i = some (sh.position, die, core) → k = coreKey die core →
    (s.dev.red p n).tree = false → (s.dev.red p n).done = false → (s.dev.red p n).abandoned = false → (s.dev.red p n).live = true →
    (s.dev.part p n i).st = 0 → ((s.dev.core k).queued 8).head? = some q → (s.dev.core k).run.map Run.pasture = some p →
    opCode q.op = 0x12 → fld q.op 0 12 = rCchan e →
    (destHere sh e = true → s.dev.counterFree e (s.dev.red p n) = false →
      exec (.arrivalTransfer p n i) s = .next (s.on ((s.dev.enterHeld p n).pumpAll))) ∧
    (∀ d met, (destHere sh e = false ∨ s.dev.counterFree e (s.dev.red p n) = true) →
      s.dev.arriveLocal p n sh e i 1 (s.dev.spRead k (dLocal (s.dev.descOf k (fld (opX q.op) 0 9))) (512 * rRows e)) = (d, met) →
      exec (.arrivalTransfer p n i) s = .next (s.on ((((d.metPoison k met).qDone k 8 q.pc).enterHeld p n).pumpAll)))) ∧
  (∀ (s : State) (p n i pos die core : Nat) (sh : Show) (e : Nat) (h : StileMsg) (bs : List Byte),
    s.dev.showOf p = some sh → (redEntries sh)[n]? = some e → redPart sh e i = some (pos, die, core) → pos ≠ sh.position →
    (s.dev.red p n).tree = false → (s.dev.red p n).done = false → (s.dev.red p n).abandoned = false → (s.dev.red p n).live = true →
    (s.dev.part p n i).st = 0 → destHere sh e = true → s.dev.heldNow p n i = none → s.dev.redIn sh e n i = some (h, bs) →
    h.what ≠ 3 → h.step = (s.dev.red p n).step → (h.what ≠ 1 ∨ s.dev.counterFree e (s.dev.red p n) = true) →
    exec (.arrivalTransfer p n i) s = .next (s.on (((((s.dev.dropMsgs h.same).modPart p n i (fun y => { y with held := none })).arrive
      p n sh e i h.what h.gate 63 bs).1.enterHeld p n).pumpAll))) ∧
  (∀ (s : State) (p n i : Nat) (sh : Show) (e : Nat), s.dev.showOf p = some sh → (redEntries sh)[n]? = some e →
    ((s.dev.red p n).live = false ∨ redLocal sh e i = true ∧ ((s.dev.red p n).done = true ∨ (s.dev.red p n).abandoned = true)) →
    exec (.treeTransferReceive p n i) s = .next (s.on ((s.dev.enterHeld p n).pumpAll)) ∧
    exec (.arrivalTransfer p n i) s = .next (s.on ((s.dev.enterHeld p n).pumpAll)))

/-- Where no code word is poisoned and the stack's read finds no error: a write leaves each of its bytes as given, every other
byte of the stacks as it was, and answers neither denial nor poison; a read answers the bytes that stand there and changes no
byte. Where the access map denies it, no byte changes, a read answers zeros, and the answer is denied. In every case scratchpads
and activation buffers do not change. -/
def Obligations.TransfersReadWhatWasWrittenAndTouchNothingElse : Prop :=
  (∀ (d e : Dev) (x : StackReq) (r : StackReply), d.mapAllows x.pen x.die x.off x.data.length true = true → x.kind = 1 → x.errs = [] →
    x.foldUe = [] → d.poison = [] → 0 < x.data.length → x.off + x.data.length ≤ 2 ^ 38 → d.transfer x = (r, e) →
    r.denied = false ∧ r.poison = [] ∧
    (∀ i < x.data.length, Mem.get e.mem (penAddr x.pen x.off + i) = x.data.getD i 0#8) ∧
    (∀ a, (a < penAddr x.pen x.off ∨ penAddr x.pen x.off + x.data.length ≤ a) → Mem.get e.mem a = Mem.get d.mem a) ∧
    e.spad = d.spad ∧ e.abuf = d.abuf) ∧
  (∀ (d e : Dev) (x : StackReq) (r : StackReply), d.mapAllows x.pen x.die x.off x.size false = true → x.kind = 0 → x.errs = [] →
    x.foldUe = [] → d.poison = [] → x.off + x.size ≤ 2 ^ 38 → d.transfer x = (r, e) →
    r.denied = false ∧ r.poison = [] ∧ r.data = (List.range x.size).map (fun i => Mem.get d.mem (penAddr x.pen x.off + i)) ∧
    e.mem = d.mem ∧ e.poison = [] ∧ e.spad = d.spad ∧ e.abuf = d.abuf) ∧
  (∀ (d e : Dev) (x : StackReq) (r : StackReply),
    d.mapAllows x.pen x.die x.off (if x.kind = 0 then x.size else x.data.length) (x.kind != 0) = false → d.transfer x = (r, e) →
    r.denied = true ∧ r.data = List.replicate (if x.kind = 0 then x.size else 0) 0#8 ∧ e.mem = d.mem ∧ e.spad = d.spad ∧ e.abuf = d.abuf)

/-- Of the requests at one lane that R199 allows, whose pseudo-channel's queue has room and that are not backing off, the one
that R211 picks is served and its poison reported: its standing clears, every other candidate advances its back-off, but for
HIGH ones once the quota of the window is spent, the lane's records change, and no other lane of the stack and no other stack
does. Where no request may be granted, only the lane's window moves on. -/
def Obligations.OneRequestPerLaneAndCycleIsGranted : Prop :=
  (∀ (s : State) (stk lane cycle : Nat) (drained : List (Nat × Nat)) (reqs cands pool : List StackReq) (l : Lane) (cls : Bool) (c : Dev),
    c = s.dev.pcDrained stk drained →
    l = (if (Tab.getD (c.stack stk).lanes lane {}).window = cycle / 64 then Tab.getD (c.stack stk).lanes lane {}
      else { Tab.getD (c.stack stk).lanes lane {} with window := cycle / 64, used := 0 }) →
    cands = reqs.filter (fun x => x.requester < 43 && x.pen < 16 && stackOf x.pen x.off == stk && hashQ (x.off / 256) % 8 == lane &&
      reqFits x && (Tab.getD (c.stack stk).pcs (hashQ (x.off / 256) % 64) {}).queued < 32 &&
      (Tab.getD l.backoff x.requester {}).next ≤ cycle) →
    cls = (l.used < 24 && cands.any reqClass) → pool = cands.filter (fun x => reqClass x == cls) →
    (pool = [] → exec (.stackTransfer stk lane cycle drained reqs) s =
      .next (s.on (c.modStack stk (fun t => { t with lanes := Tab.put t.lanes lane l })))) ∧
    (∀ g, pickRequest l (if cls then l.lastHigh else l.lastNormal) pool = some g → ∃ (d e : Dev) (r : StackReply),
      exec (.stackTransfer stk lane cycle drained reqs) s = .next (s.on (e.stackReply g r)) ∧ d.transfer g = (r, e) ∧ g ∈ pool ∧
      d.mem = s.dev.mem ∧ d.poison = s.dev.poison ∧ (Tab.get? (Tab.getD (d.stack stk).lanes lane {}).backoff g.requester = some {}) ∧
      (∀ x ∈ cands, x.requester ≠ g.requester → (cands.filter (fun y => y.requester == x.requester)).length = 1 →
        (l.used < 24 ∨ reqClass x = false) →
        Tab.getD (Tab.getD (d.stack stk).lanes lane {}).backoff x.requester {} = (Tab.getD l.backoff x.requester {}).lose cycle) ∧
      (∀ k, k ≠ lane → Tab.getD (d.stack stk).lanes k {} = Tab.getD (s.dev.stack stk).lanes k {}) ∧
      (∀ n, n ≠ stk → d.stack n = s.dev.stack n)))

/-- Obligations of refresh met while nothing was queued are owed no more. One that falls due with nothing queued clears all that
are owed; with transfers queued one more is owed, and with eight owed the Whistle leaves four. A scrub rewrites a word that the
code corrects and poisons one that it does not; a word without error or in a dirty block is passed over. An on-die count is
added. A stack's temperature sets its band, and the hottest band raises STACK_HOT once on entry. A copy that its running
recovery has made corrects or poisons the words in error, gives the index to the spare of its group, clears the channel's error
records, and ends the recovery; with no such recovery nothing changes. -/
def Obligations.StacksRefreshScrubAndSpare : Prop :=
  (∀ (s : State) (st q idle : Nat) (e : Dev), s.dev.power.inReset = false → st < 32 → q < 64 →
    e = s.dev.modPc st q (fun x => { x with owed := x.owed - idle }) →
    exec (.refreshDue st q idle false) s = .next (s.on (e.modPc st q (fun x => { x with owed := 0 }))) ∧
    ((s.dev.pc st q).owed - idle < 8 →
      exec (.refreshDue st q idle true) s = .next (s.on (e.modPc st q (fun x => { x with owed := x.owed + 1 })))) ∧
    (8 ≤ (s.dev.pc st q).owed - idle →
      exec (.refreshDue st q idle true) s = .next (s.on ((e.modPc st q (fun x => { x with owed := 4 })).stackPerf st 5 1)))) ∧
  (∀ (s : State) (pen cw pattern st : Nat), s.dev.power.inReset = false → pen < 16 → cw < 2 ^ 32 → st = stackOf pen (cw * 64) →
    (pattern = 0 ∨ (s.dev.stack st).dirty (cw / 4) = true → exec (.scrub pen cw pattern) s = .next s) ∧
    ((s.dev.stack st).dirty (cw / 4) = false → pattern % 2 ^ 576 ≠ 0 →
      (∀ ws, stackCode.decode (disturbed (s.dev.storedWord pen cw) pattern) = some ws → exec (.scrub pen cw pattern) s =
        .next (s.on ((s.dev.corrected st (hashQ (cw / 4) % 64)).penWrite pen (cw * 64) (wordBytes ws)))) ∧
      (stackCode.decode (disturbed (s.dev.storedWord pen cw) pattern) = none →
        exec (.scrub pen cw pattern) s = .next (s.on (s.dev.poisonWord pen cw false)) ∧
        penAddr pen (cw * 64) / 64 ∈ (s.dev.poisonWord pen cw false).poison))) ∧
  (∀ (s : State) (st n : Nat), s.dev.power.inReset = false → st < 32 → exec (.odeccRead st n) s = .next (s.on (s.dev.stackErr st 3 n))) ∧
  (∀ (s : State) (st : Nat) (t : Int) (b : Nat) (d : Dev), s.dev.power.inReset = false → st < 32 →
    b = (if t ≤ 85 then 0 else if t ≤ 95 then 1 else 2) → d = s.dev.modStack st (fun x => { x with band := b }) →
    exec (.stackTemperatureChange st t) s = .next (s.on (if b = 2 ∧ (s.dev.stack st).band ≠ 2 then
      d.notice 0x0013 (grazeOf (st / 2)) 63 (s.dev.pastureOfPen (st / 2)) st else d))) ∧
  (∀ (s : State) (st q : Nat) (errs mine : List (Nat × Nat)),
    mine = errs.filter (fun e => e.1 < 2 ^ 32 && stackOf (st / 2) (e.1 * 64) == st && hashQ (e.1 / 4) % 64 == q) →
    (∀ r, s.dev.runningRec = some r → copiesChannel r st q = true → (s.dev.pc st q).sparing = true →
      exec (.pseudoChannelCopy st q errs) s =
        .next (s.on (((s.dev.decodeWords (st / 2) (mine.map Prod.fst) mine).2.mapSpare st q).endRecovery r))) ∧
    (s.dev.runningRec = none ∨ (s.dev.pc st q).sparing = false → exec (.pseudoChannelCopy st q errs) s = .next s)) ∧
  (∀ (d e : Dev) (st q : Nat), e = d.mapSpare st q →
    (e.pc st q).spared = true ∧ (e.pc st q).sparing = false ∧ (e.pc st q).ces = [] ∧ (e.pc st q).ues = [] ∧
    (∀ p, p ≠ q → e.pc st p = d.pc st p) ∧ Tab.getD (e.stack st).spares (q / 16) 0 = 1 ∧ e.mem = d.mem ∧ e.poison = d.poison)

/-- A pausing request whose hand-off has come, with tier 2 writable: its next page moves, or with none left the pause is over; a
closing one closes instead; while tier 2 may not be written nothing changes. A resuming request's next page is restored, or a
closing one closes. A golden copy that is due is kept with the port and page that take it and the load completes with RES0 1;
where tier 2 has no room, RES0 0, and where there is none, RES0 2. A loss is recorded and takes its port down, closes the
requests with a page there and drops the copies there. -/
def Obligations.TheDroverMovesRestoresAndCopies : Prop :=
  (∀ (s : State) (h : Nat) (r : Request), s.dev.req h = some r → r.st = .pausing → r.moving = true →
    (r.closing = true → exec (.droverPageMove h) s = .next (s.on (s.dev.closeReq h sOk sAborted))) ∧
    (r.closing = false → s.dev.power.st ≠ .run → s.dev.power.st ≠ .starting → exec (.droverPageMove h) s = .next s) ∧
    (r.closing = false → s.dev.power.st = .run →
      (r.nextPage = none → exec (.droverPageMove h) s = .next (s.on
        ((s.dev.modReq h (fun r => { r with st := .paused, pause := 0 })).finish r.pause sOk
          [r.expiry % 2 ^ 32, r.expiry / 2 ^ 32, r.inStacks.toNat]))) ∧
      (∀ k i n, r.nextPage = some (k, i, n) → exec (.droverPageMove h) s = .next (s.on (s.dev.movePage h r k i n))))) ∧
  (∀ (s : State) (h : Nat) (r : Request), s.dev.req h = some r → r.st = .resuming → s.dev.stopped = false →
    (r.closing = true → exec (.droverPageRestore h) s = .next (s.on (s.dev.closeReq h sOk sAborted))) ∧
    (∀ t rest, r.closing = false → r.tier = t :: rest →
      exec (.droverPageRestore h) s = .next (s.on (s.dev.restorePage h r t rest)))) ∧
  (∀ (s : State) (p n h : Nat) (i : Image) (x : StackReply) (e : Dev), s.dev.image p n = some i → i.goldenDue = true → i.ready = true →
    s.dev.power.st = .run → s.dev.agentRead tierDie i.pen i.off i.len = (x, e) → e.goldenHandle p n = some h →
    (∀ port page, e.tierPlace (xcBytes 0 x.data).length = some (port, page) →
      exec (.droverGoldenCopy p n) s = .next (s.on ((e.modImage p n (fun i =>
        { i with goldenDue := false, golden := some x.data, goldenPort := port, goldenPage := page })).finish h sOk [1]))) ∧
    (e.tierPlace (xcBytes 0 x.data).length = none → ∀ f, f = e.modImage p n (fun i => { i with goldenDue := false }) →
      exec (.droverGoldenCopy p n) s = .next (s.on (f.finish h sOk [if f.tierPresent then 0 else 2])))) ∧
  (∀ (s : State) (port : Nat), port < 2 → (∀ q ∈ s.dev.reqs, ∀ t ∈ q.2.tier, t.port ≠ port) →
    (∀ q ∈ s.dev.pastures, ∀ i ∈ q.2.images, i.2.golden.isSome → i.2.goldenPort ≠ port) →
    exec (.tier2Lost port none) s = .next (s.on
      { s.dev.notice 0x0038 20 63 31 port with tier := modAt (fun t => { t with up := false }) (s.dev.notice 0x0038 20 63 31 port).tier port }))

/-- At a mesh port, a flit that disagrees with its CRC or has an unexpected number is discarded and changes nothing but the
discarding mark; no inverted bit alone passes the CRC. One with the expected number advances it, owes an acknowledgement, gives
back what it carries, and, but for an idle flit, takes a place in the buffer of its channel, whose room it needs; then the
router sends what it can, and at a Gate die flits that turn may follow. A unit of the die hands over a flit, or the two of a
256-byte transfer, of its own die and of a class for its KIND. The leaf port lets in only the mirror's flits. A reserved KIND is
counted and gives its credit back. A timeout sends every unacknowledged flit again in order and counts; the sixteenth within
2^20 slots begins a retrain. A retrain that ends takes account of the wires that fail their margins and resumes traffic. A
router's failure is raised, in start-up recorded. -/
def Obligations.MidwayFlitsAreCheckedRoutedAndReplayed : Prop :=
  (∀ (s : State) (die q h data errs h' data' : Nat) (pair : Bool) (e : Dev), meshPort die q = true →
    h' = (h % 2 ^ 128) ^^^ (errs % 2 ^ 128) → data' = (data % 2 ^ 1024) ^^^ (errs / 2 ^ 128 % 2 ^ 1024) →
    e = (s.dev.modPort die q (fun x => { x with rxSeq := (x.rxSeq + 1) % 256, discarding := false, ackDue := true })).takeReturns die q h' →
    (mwCrcOk errs = false ∨ fhSeq h' ≠ (s.dev.port die q).rxSeq →
      exec (.midwayFlitReceive die q h data errs pair) s =
        .next (s.on ((s.dev.modPort die q (fun x => { x with discarding := true })).moveTurns die))) ∧
    (mwCrcOk errs = true → fhSeq h' = (s.dev.port die q).rxSeq →
      (fhKind h' = 0 → exec (.midwayFlitReceive die q h data errs pair) s = .next (s.on ((e.runRouter die).moveTurns die))) ∧
      (fhKind h' ≠ 0 → s.dev.mwRoom die q (fhVc h') 1 = true →
        exec (.midwayFlitReceive die q h data errs pair) s = .next (s.on (((e.mwTake die q h' data').runRouter die).moveTurns die))) ∧
      (fhKind h' ≠ 0 → s.dev.mwRoom die q (fhVc h') 1 = false → exec (.midwayFlitReceive die q h data errs pair) s =
        .next (s.on (s.dev.moveTurns die))))) ∧
  (mwCrcOk 0 = true ∧ ∀ k < 1152, mwCrcOk (2 ^ k) = false) ∧
  (∀ (s : State) (die h data errs h' : Nat), h' = setBit h 51 false →
    (die < 40 → die ≠ 19 → fhSrc h' = die → kindInClass h' = true →
      (s.dev.mwRoom die 4 (fhVc h') 1 = true → exec (.midwayFlitReceive die 4 h data errs false) s =
        .next (s.on (((s.dev.mwTake die 4 h' (data % 2 ^ 1024)).runRouter die).moveTurns die))) ∧
      (s.dev.mwRoom die 4 (fhVc h') 2 = true → exec (.midwayFlitReceive die 4 h data errs true) s = .next (s.on
        ((((s.dev.mwTake die 4 (halfOf h' false) (data % 2 ^ 1024)).mwTake die 4 (halfOf h' true) (data / 2 ^ 1024 % 2 ^ 1024)).runRouter
          die).moveTurns die)))) ∧
    (die = 19 ∨ fhSrc h' ≠ die ∨ kindInClass h' = false →
      exec (.midwayFlitReceive die 4 h data errs false) s = .next (s.on (s.dev.moveTurns die)) ∧
      exec (.midwayFlitReceive die 4 h data errs true) s = .next (s.on (s.dev.moveTurns die)))) ∧
  (∀ (d : Dev) (die : Nat), isGate die = false → d.moveTurns die = d) ∧
  (∀ (s : State) (h data errs h' : Nat) (pair : Bool), h' = (h % 2 ^ 128) ^^^ (errs % 2 ^ 128) →
    (mwCrcOk errs = true → fhSrc h' = 19 → fhDst h' = 18 → fhClass h' = 0 → fhKind h' = 6 →
      exec (.midwayFlitReceive 18 1 h data errs pair) s = .next (s.on ((s.dev.mwPerf 18 1 1).emit
        (.midwayLocal 18 (mwFlit h' ((data % 2 ^ 1024) ^^^ (errs / 2 ^ 128 % 2 ^ 1024))))))) ∧
    (mwCrcOk errs = false ∨ fhSrc h' ≠ 19 ∨ fhDst h' ≠ 18 ∨ fhClass h' ≠ 0 ∨ fhKind h' ≠ 6 →
      exec (.midwayFlitReceive 18 1 h data errs pair) s = .next (s.on (s.dev.errAdd 18 64 1 1)))) ∧
  (∀ (d : Dev) (die inn h data : Nat),
    (8 ≤ fhKind h → d.mwTake die inn h data = (d.errAdd die 64 1 1).mwGiveBack die inn (fhVc h)) ∧
    (fhKind h < 8 → (die ≠ 18 ∨ fhDst h ≠ 19) → (outOf die h = 4 ∨ meshPort die (outOf die h) = true) → d.mwTake die inn h data =
      d.modPort die inn (fun y => { y with buf := Tab.mod y.buf (fhVc h) [] (fun l => l ++ [(h, data)]) }))) ∧
  (∀ (s : State) (die q slot : Nat) (rs : List Nat), meshPort die q = true → (s.dev.port die q).store ≠ [] →
    (s.dev.port die q).training = false →
    rs = (s.dev.port die q).replays.filter (fun t => t ≤ slot && slot - t < 2 ^ 20) ++ [slot] →
    exec (.midwayReplayTimeout die q slot) s = .next (s.on
      (((s.dev.port die q).store.foldl (fun d f => d.emit (.midway die q (mwFlit f.2.1 f.2.2))) (s.dev.errAdd die 64 0 1)).modPort die q
        (fun x => { x with replays := if 16 ≤ rs.length then [] else rs, training := decide (16 ≤ rs.length) })))) ∧
  (∀ (s : State) (die q : Nat) (o i : List WireMargin),
    (meshPort die q = true → (s.dev.port die q).training = true →
      exec (.midwayRetrain die q o i) s = .next (s.on (((s.dev.portTrained die q o i).runRouter die).moveTurns die))) ∧
    ((s.dev.port die q).training = false → exec (.midwayRetrain die q o i) s = .next (s.on (s.dev.moveTurns die)))) ∧
  (∀ (d : Dev) (die q : Nat) (o i : List WireMargin) (x : Port), x = (d.portTrained die q o i).port die q →
    x.training = false ∧
    (∀ w, w ∈ x.outBad ↔ w ∈ (d.port die q).outBad ∨ ∃ m ∈ o, m.wire = w ∧ w < 640 ∧ (m.time < 8 ∨ m.volts < 10)) ∧
    (∀ w, w ∈ x.inBad ↔ w ∈ (d.port die q).inBad ∨ ∃ m ∈ i, m.wire = w ∧ w < 640 ∧ (m.time < 8 ∨ m.volts < 10)) ∧
    (x.outHalf = true ↔ 64 < x.outBad.length) ∧ (x.inHalf = true ↔ 64 < x.inBad.length)) ∧
  (∀ (s : State) (die q dir info : Nat), die < 40 → die ≠ 19 → info = q % 4 + dir % 2 * 8 →
    (s.dev.power.startingUp = false → exec (.mwRouterFail die q dir) s = .next (s.on (s.dev.raise 0x0022 die 63 info 0))) ∧
    (s.dev.power.startingUp = true → ∃ d, exec (.mwRouterFail die q dir) s = .next (s.on d) ∧ d.power.lostInStartup = true ∧
      d.faults = (s.dev.record 0x0022 die 63 dNotice 7 (s.dev.pastureOfDie die) 0 info).faults))

/-- Between any two dies other than the Tally, the ports by which a flit leaves each die on its way lead it, within 12 hops, to
the destination through mesh ports alone, none of which belongs to or ends at the Tally. Left out are flits whose north-south
leg in column 3 would cross the Tally, for which the rules give no way (log entry 116). -/
def Obligations.RoutesAreDimensionOrderedAndAvoidTheTally : Prop :=
  ∀ src < 40, ∀ dst < 40, src ≠ 19 → dst ≠ 19 → ¬ (dst % 8 = 3 ∧ ((src / 8 < 2 ∧ 2 < dst / 8) ∨ (2 < src / 8 ∧ dst / 8 < 2))) →
    flitArrives src dst 12 src = true

/-- On a link that is up with FEC in use and without errors: a flit of another length or with a wrong CRC is counted and changes
no link. A good flit of a reserved type is counted as discarded. A good data flit with the expected number advances the number;
a body flit of a message for this package joins it and frees its entry, one of no message is discarded; a flit with the number
after the expected, with nothing held and no NAK outstanding, is held and a NAK SINGLE or FROM is due. A good control flit that
shows no gap and holds no NAK drops the acknowledged flits. A NAK without an answer falls due again as FROM; a retransmit
timeout repeats every held flit in order; idle flits are counted. A slot goes to a marker, then to a NAK, a repeated flit, a
control flit that is due, and a data flit with credit. On a link that is not up nothing changes. -/
def Obligations.StileFramesAreCheckedTakenAndRepeated : Prop :=
  (∀ (s : State) (l : Nat) (f : List Byte) (slot e n v : Nat) (y : Link) (c : Dev), y = s.dev.link l → y.st = .up → y.bypass = false →
    y.rxErrs = [] → e = y.rxSeq → n = (e + (rdLE f 257 1 + 256 - e % 256) % 256) % 2 ^ 24 → v = rdLE f 256 1 % 16 →
    c = s.dev.modLink l (fun x => x) →
    (f.length ≠ 262 ∨ rdLE f 258 4 ≠ flitCrc n (f.take 258) →
      exec (.stileFlitReceive l f { slot := slot }) s = .next (s.on (c.linkErr l 1 1))) ∧
    (f.length = 262 → rdLE f 258 4 = flitCrc n (f.take 258) →
      (6 ≤ rdLE f 256 1 / 16 → exec (.stileFlitReceive l f { slot := slot }) s = .next (s.on (c.linkErr l 3 1))) ∧
      (rdLE f 256 1 / 16 = 1 ∨ rdLE f 256 1 / 16 = 2 → n = e → y.replay = [] → y.nak = none →
        ∃ d, exec (.stileFlitReceive l f { slot := slot }) s = .next (s.on d) ∧ (d.link l).rxSeq = (e + 1) % 2 ^ 24 ∧
          (d.link l).nak = none ∧ (d.link l).replay = [] ∧
          (rdLE f 256 1 / 16 = 2 → Tab.get? y.parts v = none → Tab.getD (d.link l).freed v 0 = (Tab.getD y.freed v 0 + 1) % 2 ^ 32) ∧
          (∀ m, rdLE f 256 1 / 16 = 2 → Tab.get? y.parts v = some m → m.goes = 6 → 1 < m.left →
            Tab.getD (d.link l).freed v 0 = (Tab.getD y.freed v 0 + 1) % 2 ^ 32 ∧
            Tab.get? (d.link l).parts v = some { m with left := m.left - 1, bytes := m.bytes ++ f.take 256 })) ∧
      (rdLE f 256 1 / 16 = 1 ∨ rdLE f 256 1 / 16 = 2 → n = (e + 1) % 2 ^ 24 → e < 2 ^ 24 → y.replay = [] → y.nak = none →
        exec (.stileFlitReceive l f { slot := slot }) s = .next (s.on
          ((c.modLink l (fun x => { x with replay := [(n, f)] })).sendNak l y.from_))) ∧
      (rdLE f 256 1 / 16 = 3 → n = e → bit (rdLE f 6 1) 0 = false → ∃ d more, exec (.stileFlitReceive l f { slot := slot }) s =
        .next (s.on d) ∧ (d.link l).store = y.store.filter (fun q => !seqGe (rdLE f 0 3) q.1) ++ more))) ∧
  (∀ (s : State) (l idle : Nat) (f : List Byte) (x : StileFacts), (s.dev.link l).st ≠ .up →
    exec (.stileFlitReceive l f x) s = .next s ∧ exec (.stileNakTimeout l) s = .next s ∧
    exec (.stileRetransmitTimeout l) s = .next s ∧ exec (.stileControlDue l idle) s = .next s) ∧
  (∀ (s : State) (l idle : Nat), (s.dev.link l).st = .up →
    ((s.dev.link l).nak.isSome = true → exec (.stileNakTimeout l) s = .next (s.on
      ((s.dev.modLink l (fun x => { x with nak := some true, from_ := false, nakDue := true })).pumpLink l))) ∧
    ((s.dev.link l).nak = none → exec (.stileNakTimeout l) s = .next s) ∧
    exec (.stileRetransmitTimeout l) s = .next (s.on
      ((s.dev.modLink l (fun x => { x with again := x.store.map Prod.fst })).pumpLink l)) ∧
    ((s.dev.link l).txPause = false → exec (.stileControlDue l idle) s = .next (s.on ((s.dev.sendIdles l idle).pumpLink l))) ∧
    ((s.dev.link l).txPause = true → exec (.stileControlDue l idle) s = .next s)) ∧
  (∀ (d : Dev) (l : Nat) (x : Link), x = d.link l → x.st = .up → x.txPause = false →
    (∀ b, x.markerDue = some b →
      d.linkSlot l = ((d.modLink l (fun y => { y with markerDue := none })).sendFlit l (mkFlit x.txSeq 0 4 b), true)) ∧
    (x.markerDue = none → x.nakDue = true → x.nak.isSome = true →
      d.linkSlot l = (((d.modLink l (fun y => { y with nakDue := false })).linkErr l 2 1).sendCtl l x.nak, true)) ∧
    (∀ n rest f, x.markerDue = none → x.nakDue = false → x.again = n :: rest → x.store.find? (fun q => q.1 == n) = some (n, f) →
      d.linkSlot l = (((d.modLink l (fun y => { y with again := rest })).sendFlit l f).linkPerf l 2 1, true)) ∧
    (x.markerDue = none → x.nakDue = false → x.again = [] → (x.ctlDue = true ∨ 1024 ≤ x.sinceCtl) →
      d.linkSlot l = (d.sendCtl l none, true)) ∧
    (∀ v, x.markerDue = none → x.nakDue = false → x.again = [] → x.ctlDue = false → x.sinceCtl < 1024 → x.store.length < 98304 →
      x.pick = some v → d.linkSlot l =
        ((d.linkPerf l 3 ((List.range 16).any (fun v => x.ready v && !x.hasCredit v)).toNat).sendData l v, true)))

/-- Training that fails, that leaves no width, or whose far end does not come takes the link down and completes the handle with
the phase; one that succeeds brings the link up with fresh sequence numbers and stores, the widths and lanes of its good lanes,
settings within the ranges of its reach, the slice tables, and FEC bypassed only as R263 allows, and completes the handle with
the widths. A lane in use that fails on an up link asks for the repair pause where 16 working lanes are left, and takes the link
down where not. At the end of the pause the failed lanes stay out, the width is that of the good lanes, and a receiver asks for
what was in flight. A link that goes down drops what its stores hold. -/
def Obligations.StileLinksTrainNarrowAndGoDown : Prop :=
  (∀ (s : State) (l : Nat) (t : LinkFacts) (x : Link) (txOut rxOut tw rw : Nat), x = s.dev.link l → x.st = .training →
    txOut = maskOf ((t.txBad ++ berBad t.txBer).filter (· < 66)) → rxOut = maskOf ((t.rxBad ++ berBad t.rxBer).filter (· < 66)) →
    tw = s.dev.widthOf l txOut t.txFar → rw = s.dev.widthOf l rxOut t.rxFar →
    (0 < t.phase → t.phase < 8 → exec (.linkTrainingDone l t) s = .next (s.on
      ((s.dev.modLink l (fun x => { x with st := .down, handle := 0 })).finish x.handle sAborted [t.phase, 0]))) ∧
    (t.phase = 0 → tw = 0 ∨ rw = 0 → exec (.linkTrainingDone l t) s = .next (s.on
      ((s.dev.modLink l (fun x => { x with st := .down, handle := 0 })).finish x.handle sAborted [4, 0]))) ∧
    (t.phase = 0 → tw ≠ 0 → rw ≠ 0 → ∃ d : Dev, exec (.linkTrainingDone l t) s =
      .next (s.on (d.finish x.handle sOk [0, tw + rw * 256])) ∧ (d.link l).st = .up ∧ (d.link l).txSeq = 0 ∧ (d.link l).rxSeq = 0 ∧
      (d.link l).store = [] ∧ (d.link l).replay = [] ∧ (d.link l).txWidth = tw ∧ (d.link l).rxWidth = rw ∧
      (d.link l).txLanes = lanesOf txOut tw ∧ (d.link l).rxLanes = lanesOf rxOut rw ∧ (d.link l).rtt = t.rtt ∧
      (d.link l).txEq = t.txEq.map (TxEq.within x.reach) ∧ (d.link l).rxEq = t.rxEq.map (RxEq.within x.reach) ∧
      (d.link l).slices = s.dev.sliceKeys l ∧ (d.link l).farSlices = t.farSlices ∧
      ((d.link l).bypass = true ↔ x.reach = 0 ∧ x.ask = true ∧ x.forced = false ∧ berClean txOut t.txBer = true ∧
        berClean rxOut t.rxBer = true) ∧ (∀ k, k ≠ l → d.link k = s.dev.link k)) ∧
    exec (.linkTrainTimeout l) s = .next (s.on
      ((s.dev.modLink l (fun x => { x with st := .down, handle := 0 })).finish x.handle sTimeout [1, 0]))) ∧
  (∀ (s : State) (l : Nat) (t : LinkFacts), (s.dev.link l).st ≠ .training →
    exec (.linkTrainingDone l t) s = .next s ∧ exec (.linkTrainTimeout l) s = .next s) ∧
  (∀ (out w : Nat), w ≤ 66 - popCount out 66 → (lanesOf out w).length = w ∧ (lanesOf out w).Pairwise (· < ·) ∧
    ∀ n ∈ lanesOf out w, n < 66 ∧ bit out n = false) ∧
  (∀ (reach : Nat) (e : TxEq) (r : RxEq), 0 ≤ (TxEq.within reach e).pre2 ∧ (TxEq.within reach e).pre2 ≤ (txRange reach).1 ∧
    (TxEq.within reach e).pre1 ≤ 0 ∧ -((txRange reach).2.1 : Int) ≤ (TxEq.within reach e).pre1 ∧ (TxEq.within reach e).post1 ≤ 0 ∧
    -((txRange reach).2.2 : Int) ≤ (TxEq.within reach e).post1 ∧ 600 ≤ (TxEq.within reach e).swing ∧ (TxEq.within reach e).swing ≤ 1000 ∧
    (ctleRange reach).1 ≤ (RxEq.within reach r).ctle ∧ (RxEq.within reach r).ctle ≤ (ctleRange reach).2 ∧
    (RxEq.within reach r).ffe.length = ffeTaps reach ∧ (RxEq.within reach r).dfe.length ≤ dfeTaps reach) ∧
  (∀ (s : State) (l lane : Nat), (s.dev.link l).st = .up → (s.dev.link l).rxFail = [] →
    (lane ∉ (s.dev.link l).rxLanes → exec (.laneFailure l lane) s = .next s) ∧
    (lane ∈ (s.dev.link l).rxLanes → popCount (s.dev.link l).rxOut 66 ≤ 49 → exec (.laneFailure l lane) s = .next (s.on
      ((s.dev.modLink l (fun x => { x with rxFail := x.rxFail ++ [lane], rxPause := true, ctlDue := true })).pumpLink l))) ∧
    (lane ∈ (s.dev.link l).rxLanes → 49 < popCount (s.dev.link l).rxOut 66 → ∃ d, exec (.laneFailure l lane) s = .next (s.on d) ∧
      (d.link l).st = .down)) ∧
  (∀ (s : State) (l lane far slices w : Nat), (s.dev.link l).st = .up → (s.dev.link l).rxPause = true → (s.dev.link l).rxFail = [lane] →
    bit (s.dev.link l).rxOut lane = false → w = s.dev.widthOf l ((s.dev.link l).rxOut ||| 2 ^ lane) far →
    (w = 0 → ∃ d, exec (.repairPauseEnd l false [] far slices) s = .next (s.on d) ∧ (d.link l).st = .down) ∧
    (w ≠ 0 → ∃ d, exec (.repairPauseEnd l false [] far slices) s = .next (s.on d) ∧ (d.link l).st = .up ∧
      (d.link l).rxOut = (s.dev.link l).rxOut ||| 2 ^ lane ∧ (d.link l).rxWidth = w ∧
      (d.link l).rxLanes = lanesOf ((s.dev.link l).rxOut ||| 2 ^ lane) w ∧ (d.link l).rxPause = false ∧ (d.link l).rxFail = [] ∧
      (d.link l).nak = some true ∧ (d.link l).txOut = (s.dev.link l).txOut ∧ (d.link l).txWidth = (s.dev.link l).txWidth)) ∧
  (∀ (s : State) (l far slices out w : Nat) (lanes : List Nat), (s.dev.link l).st = .up → (s.dev.link l).txPause = true →
    out = (s.dev.link l).txOut ||| maskOf ((lanes.filter (· < 66)).filter (fun n => !bit (s.dev.link l).txOut n)) →
    w = s.dev.widthOf l out far → w ≠ 0 → ∃ d, exec (.repairPauseEnd l true lanes far slices) s = .next (s.on d) ∧
      (d.link l).st = .up ∧ (d.link l).txOut = out ∧ (d.link l).txWidth = w ∧ (d.link l).txLanes = lanesOf out w ∧
      (d.link l).txPause = false ∧ (d.link l).farSlices = slices ∧ (d.link l).rxOut = (s.dev.link l).rxOut ∧
      (d.link l).rxWidth = (s.dev.link l).rxWidth) ∧
  (∀ (s : State) (l : Nat), l < 6 → (s.dev.link l).st = .up → ∃ d, exec (.linkDown l) s = .next (s.on d) ∧ (d.link l).st = .down ∧
    (d.link l).store = [] ∧ (d.link l).queue = [] ∧ (d.link l).replay = [] ∧ (d.link l).txWidth = 0 ∧ (d.link l).rxWidth = 0 ∧
    (∀ k, k ≠ l → (d.link k).st = (s.dev.link k).st ∧ (d.link k).store = (s.dev.link k).store ∧
      (d.link k).txSeq = (s.dev.link k).txSeq ∧ (d.link k).rxSeq = (s.dev.link k).rxSeq) ∧ d.mem = s.dev.mem) ∧
  (∀ (s : State) (l : Nat), (s.dev.link l).st ≠ .up → exec (.linkDown l) s = .next s)

/-- With every producer heard, and no bias vector, the live instance of a layer that has not been routed nor abandoned is
routed: every assigned choice goes to an expert that is live in a slot below the capacity, no expert's slot is given twice, and
no expert takes more choices than its capacity. Routed and launched, it dispatches: it is sent, or abandoned where poison is
met. Sent, and with every return of every choice that is not refused in, it is combined. In any other standing nothing changes.
-/
def Obligations.RaceRanksAssignsDispatchesAndCombines : Prop :=
  (∀ (s : State) (p l e cap : Nat) (w : Show) (x : RaceInst), s.dev.layerOf p l = some (w, e) → x = s.dev.race p l →
    (x.live = true → x.routed = false → x.abandoned = false → lProd e ≤ x.heard.length → lBias e = 0 →
      cap = min (capTerm e ((acceptRecords e x.recs).1.length)) (lCapMax e) →
      ∃ d, exec (.raceInstanceStart p l) s = .next (s.on d) ∧ (d.race p l).routed = true ∧
        (∀ c ∈ (d.race p l).choices, c.slot < cap ∧ cLive (s.dev.expertEntry e c.expert) = true) ∧
        ((d.race p l).choices.map (fun c => (c.expert, c.slot))).Nodup ∧
        (∀ n, ((d.race p l).choices.filter (fun c => c.expert == n)).length ≤ cap) ∧
        (d.race p l).sent = x.sent ∧ (d.race p l).mans = x.mans ∧ d.mem = s.dev.mem) ∧
    (x.live = false ∨ x.routed = true ∨ x.abandoned = true ∨ x.heard.length < lProd e → exec (.raceInstanceStart p l) s = .next s)) ∧
  (∀ (s : State) (p l e : Nat) (w : Show) (x : RaceInst), s.dev.layerOf p l = some (w, e) → x = s.dev.race p l →
    (x.routed = true → x.sent = false → x.abandoned = false → x.combined = false → (∀ y ∈ x.waits, y.step ≠ x.step) →
      (lLaunch e = 0 ∨ x.launched = true) →
      ∃ d, exec (.raceDispatch p l) s = .next (s.on d) ∧ ((d.race p l).sent = true ∨ (d.race p l).abandoned = true)) ∧
    (x.routed = false ∨ x.sent = true ∨ x.abandoned = true ∨ (lLaunch e ≠ 0 ∧ x.launched = false) →
      exec (.raceDispatch p l) s = .next s)) ∧
  (∀ (s : State) (p l e : Nat) (w : Show) (x : RaceInst), s.dev.layerOf p l = some (w, e) → x = s.dev.race p l →
    (x.sent = true → x.combined = false → x.abandoned = false → x.waits = [] →
      (∀ c ∈ x.choices, c.refused = true ∨ ∀ h < c.shards, h ∈ c.got) →
      ∃ d, exec (.raceCombine p l) s = .next (s.on d) ∧ (d.race p l).combined = true ∧ (d.race p l).choices = x.choices) ∧
    (x.sent = false ∨ x.combined = true ∨ x.abandoned = true ∨ (∃ c ∈ x.choices, c.refused = false ∧ ∃ h < c.shards, h ∉ c.got) →
      exec (.raceCombine p l) s = .next s)) ∧
  (∀ (s : State) (p l : Nat), s.dev.layerOf p l = none →
    exec (.raceInstanceStart p l) s = .next s ∧ exec (.raceDispatch p l) s = .next s ∧ exec (.raceCombine p l) s = .next s)

/-- A Race message for a later step than the live instance's is held, and one for an earlier step is counted as stale. In its
own step: a dispatch vector of a source is written in the slot of its expert, shard and source; a manifest that matches the map
is kept; a return vector marks the choice it answers; a refusal marks the choices of its experts; an abandonment by a source
stands for its manifest, and one by a destination abandons the source instance. A shard of this package that is done sends its
returns. -/
def Obligations.RaceMessagesTakeEffectInTheirStep : Prop :=
  (∀ (i : Instr) (s : State) (p l e : Nat) (w : Show) (m : RaceMsg) (x : RaceInst), raceMessage i = some (p, l, m) →
    s.dev.layerOf p l = some (w, e) → x = s.dev.race p l → x.live = true → x.waits = [] → m.step ≠ x.step →
    (beatGe m.step x.step = true →
      exec i s = .next (s.on ((s.dev.modRace p l (fun x => { x with held := x.held ++ [m] })).racePerf e 7 1))) ∧
    (beatGe m.step x.step = false → exec i s = .next (s.on (s.dev.raceErr e 4 1)))) ∧
  (∀ (s : State) (p l e from_ i : Nat) (w : Show) (x : RaceInst), s.dev.layerOf p l = some (w, e) → x = s.dev.race p l → x.live = true →
    x.waits = [] → indexWhere (fun a => a == from_) (lSources w e) = some i →
    (∀ (n slot h c : Nat) (data : List Byte), n < 4096 → slot < 4096 → h < 4 → c = s.dev.expertEntry e n → bit c 19 = true →
      cPkg c = s.dev.route.addr → 4 * n + h ∉ x.lost → 4 * n + h ∉ x.done →
      exec (.dispatch p l from_ x.step n slot h data) s =
        .next (s.on (s.dev.raceWrite e (rxSlot e c h i slot) (data.take (512 * lDrows e))))) ∧
    (∀ (es : List (Nat × Nat × Nat × Nat × Nat)), Tab.get? x.mans i = none →
      (∀ a ∈ es, cLive (s.dev.expertEntry e a.1) = true ∧
        ∀ h < cShards (s.dev.expertEntry e a.1), bit s.dev.faults.offline (cPen (s.dev.expertEntry e a.1) + h) = false) →
      ∃ d, exec (.manifest p l from_ x.step s.dev.mapver es) s = .next (s.on d) ∧ Tab.get? (d.race p l).mans i =
        some (es.map (fun a => { src := i, expert := a.1, slot := a.2.1, rank := a.2.2.1, token := a.2.2.2.1, weight := a.2.2.2.2 }))) ∧
    (∀ hw, Tab.get? x.mans i = none → ∃ d, exec (.abandon p l from_ x.step false hw) s = .next (s.on d) ∧
      Tab.get? (d.race p l).mans i = some [])) ∧
  (∀ (s : State) (p l e from_ : Nat) (w : Show) (x : RaceInst), s.dev.layerOf p l = some (w, e) → x = s.dev.race p l → x.live = true →
    x.waits = [] → x.combined = false → x.abandoned = false →
    (∀ (experts : List Nat), ∃ d, exec (.refuse p l from_ x.step experts) s = .next (s.on d) ∧
      (d.race p l).choices = x.choices.map (fun c =>
        { c with refused := c.refused || (experts.contains c.expert && cPkg (s.dev.expertEntry e c.expert) == from_) })) ∧
    (∀ (t r h n : Nat) (data : List Byte), t < 2 ^ 16 → 1 ≤ r → r ≤ 8 → h < 4 → n < 2 ^ 20 →
      ∃ d, exec (.returnVector p l n h true x.step t r data) s = .next (s.on d) ∧
        ∀ c ∈ (d.race p l).choices, c.token = t → c.rank = r → h < c.shards → h ∈ c.got) ∧
    (∀ hw, ∃ d, exec (.abandon p l from_ x.step true hw) s = .next (s.on d) ∧ (d.race p l).abandoned = true)) ∧
  (∀ (s : State) (p l e n h step t r : Nat) (w : Show) (x : RaceInst) (data : List Byte), s.dev.layerOf p l = some (w, e) →
    x = s.dev.race p l → x.waits = [] →
    (4 * n + h ∈ x.done → 4 * n + h ∉ x.returned → ∃ d, exec (.returnVector p l n h false step t r data) s = .next (s.on d) ∧
      4 * n + h ∈ (d.race p l).returned) ∧
    (4 * n + h ∉ x.done ∨ 4 * n + h ∈ x.returned → exec (.returnVector p l n h false step t r data) s = .next s))

/-- A report without a fault only counts corrected words. An array fault of a usable die with nothing queued is recorded and its
recovery runs. The oldest queued fault is taken when no recovery runs, and not before. An array recovery that ends on an idle
core maps the spare array in and is RECOVERED; without a spare, or when its budget expires, it escalates to the core and goes on
under the same record. A core recovery takes a spare core and sweeps the core's queued array faults when it starts; a
pseudo-channel's ends once its spare is mapped. A failed Tally stops nothing. With nothing running, nothing ends. -/
def Obligations.FaultsAreRecordedAndRecoveredInOrder : Prop :=
  (∀ (s : State) (die core info item n : Nat), exec (.faultReport 0 die core info item n) s =
    .next (s.on (if core < coresOf die then s.dev.errAdd die core 19 n else s.dev))) ∧
  (∀ (s : State) (die core info item q : Nat), q = nextSeq s.dev.faults.lastSeq → die < 40 → isCompute die = true → core < coresOf die →
    bit s.dev.faults.offline (penOfDie die) = false → s.dev.power.st ≠ .withdrawn → s.dev.faults.running = none → s.dev.faults.queue = [] →
    (∀ r ∈ s.dev.faults.log, r.seq ≠ q) →
    ∃ d r, exec (.faultReport 1 die core info item 0) s = .next (s.on d) ∧ d.faults.running = some q ∧ d.faultOf q = some r ∧
      r.code = 1 ∧ r.die = die ∧ r.core = core ∧ r.unit = 1 ∧ r.disp = dRecovering ∧ r.info = info % 2 ^ 80 ∧ d.faults.queue = []) ∧
  (∀ s : State, s.dev.faults.running.isSome = true ∨ s.dev.faults.queue = [] → exec .faultRecoveryStart s = .next s) ∧
  (∀ (s : State) (q : Nat) (rest : List Nat) (r : FaultRec), s.dev.faults.running = none → s.dev.faults.queue = q :: rest →
    s.dev.faultOf q = some r → r.unit < 6 → ∃ d, exec .faultRecoveryStart s = .next (s.on d) ∧ d.faults.running = some q ∧
      d.faults.queue = rest.filter (fun n => match s.dev.faultOf n with
        | some x => !(r.unit == 2 && n != q && x.die == r.die && x.core == r.core && recOrder x == 1)
        | none => true) ∧
      d.faultOf q = some { r with disp := dRecovering, escto := 0 }) ∧
  (∀ s : State, s.dev.faults.running = none → exec .faultRecoveryDone s = .next s ∧ exec .recoveryBudgetExpired s = .next s) ∧
  (∀ (s : State) (q k : Nat) (r : FaultRec), s.dev.faults.running = some q → s.dev.faultOf q = some r → r.escto = 0 → r.unit = 1 →
    k = coreKey r.die r.core →
    ((s.dev.core k).run.isSome = true → exec .faultRecoveryDone s = .next s) ∧
    ((s.dev.core k).run = none →
      (Tab.getD s.dev.fence.spareArr k 0 = 1 → ∃ d, exec .faultRecoveryDone s = .next (s.on d) ∧ d.faults.running = none ∧
        d.faultOf q = some { r with disp := dRecovered } ∧ Tab.getD d.fence.spareArr k 0 = 3 ∧
        Tab.get? (d.core k).arrs (recIndex r.code 1 r.info) = none) ∧
      (Tab.getD s.dev.fence.spareArr k 0 ≠ 1 → ∃ d, exec .faultRecoveryDone s = .next (s.on d) ∧ d.faults.running = some q ∧
        d.faultOf q = some { r with disp := dEscalated, escto := 2 })) ∧
    ∃ d, exec .recoveryBudgetExpired s = .next (s.on d) ∧ d.faults.running = some q ∧
      d.faultOf q = some { r with disp := dEscalated, escto := 2 }) ∧
  (∀ (s : State) (q k i : Nat) (r : FaultRec), s.dev.faults.running = some q → s.dev.faultOf q = some r → r.escto = 0 → r.unit = 2 →
    k = coreKey r.die r.core → r.core < 64 → (s.dev.core k).run = none → s.dev.spareCore r.die = some i →
    s.dev.showOf (s.dev.pastureOfDie r.die) = none →
    ∃ d, exec .faultRecoveryDone s = .next (s.on d) ∧ d.faults.running = none ∧ d.faultOf q = some { r with disp := dRecovered } ∧
      Tab.getD d.fence.spareCore (r.die * 4 + i) 0 = 3 ∧ d.core k = {}) ∧
  (∀ (s : State) (q : Nat) (r : FaultRec), s.dev.faults.running = some q → s.dev.faultOf q = some r → r.escto = 0 → r.unit = 4 →
    ((Tab.getD (s.dev.stack (2 * penOfDie r.die + fld r.info 6 1)).pcs (fld r.info 0 6) {}).spared = true →
      ∃ d, exec .faultRecoveryDone s = .next (s.on d) ∧ d.faults.running = none ∧ d.faultOf q = some { r with disp := dRecovered }) ∧
    ((Tab.getD (s.dev.stack (2 * penOfDie r.die + fld r.info 6 1)).pcs (fld r.info 0 6) {}).spared = false →
      exec .faultRecoveryDone s = .next s)) ∧
  (∀ (s : State) (core info item : Nat), ∃ d, exec (.faultReport 0x0030 19 core info item 0) s = .next (s.on d) ∧
    d.power.st = s.dev.power.st ∧ d.faults.running = s.dev.faults.running ∧ d.faults.queue = s.dev.faults.queue)

/-- Data from tier 2 or a peer that has the block's check value is written to the block, which is tainted no longer; other data
is counted as rejected and the next source is asked. A source that does not answer in time gives way to the next, and after the
host the image is lost. A block that waits for no source changes nothing. -/
def Obligations.TaintedImagesAreReseededInOrder : Prop :=
  (∀ (s : State) (p n b : Nat) (i : Image) (data bs : List Byte) (src : Nat), s.dev.image p n = some i → s.dev.reseedSource p n b = some src →
    src < 2 → bs = (match src, i.golden with
      | 0, some g => slice g (4096 * b) 4096
      | _, _ => data) →
    (i.matches b bs = true → ∃ d j, exec (.reseedSourceDone p n b data) s = .next (s.on d) ∧ d.mem = (s.dev.agentWrite 18 i.pen (i.off + 4096 * b) bs).mem ∧
      d.image p n = some j ∧ b ∉ j.tainted ∧ (∀ c, c ≠ b → (c ∈ j.tainted ↔ c ∈ i.tainted)) ∧ j.lost = i.lost) ∧
    (i.matches b bs = false → exec (.reseedSourceDone p n b data) s = .next (s.on ((s.dev.errAdd 18 64 9 1).sourceFailed p n b src)))) ∧
  (∀ (s : State) (p n b : Nat) (data : List Byte), s.dev.reseedSource p n b = none →
    exec (.reseedSourceDone p n b data) s = .next s ∧ exec (.reseedTimeout p n b) s = .next s) ∧
  (∀ (s : State) (p n b : Nat), n < 1024 → s.dev.reseedSource p n b = some 1 → ∃ d, exec (.reseedTimeout p n b) s = .next (s.on d) ∧
    d.reseedSource p n b = some 2) ∧
  (∀ (s : State) (p n b : Nat), n < 1024 → s.dev.reseedSource p n b = some 2 → ∃ d, exec (.reseedTimeout p n b) s = .next (s.on d) ∧
    d.reseedSource p n b = none ∧ (∀ j, d.image p n = some j → j.lost = true))

/-- A slice runs from its due Calendar entry. On a core that runs an act it is recorded SKIPPED, one that is cut ABORTED, and
its entry stays for the next step. A first failure is recorded and waits for a retest; a pass clears it and counts it as
transient. A spare core that passes qualifies and one that fails does not. A test group runs only within its power, clears the
memories of its compute dies and, where nothing fails, qualifies their spares; the next group comes after it. -/
def Obligations.SelfTestsRecordRetestAndQualify : Prop :=
  (∀ (s : State) (die core item index : Nat) (x : SliceFacts) (f : ItemFail) (k key : Nat) (e : CalEntry), s.dev.power.st = .run →
    item ≠ 0x10 → inServiceItem die core item index = true → bit s.dev.faults.offline (penOfDie die) = false → k = coreKey die core →
    f = { die, core, item, index, addr := x.addr, bit := x.bit, sig := x.sig } → key = k * 65536 + (item % 256 * 256 + index % 256) →
    s.dev.sliceEntry die core item index = some e →
    (s.dev.mayFire e = false → exec (.selfTestSlice die core item index x) s = .next s) ∧
    (s.dev.mayFire e = true → s.dev.inRecovery die = true →
      exec (.selfTestSlice die core item index x) s = .next (s.on (s.dev.fireEntry e [die]))) ∧
    (s.dev.mayFire e = true → s.dev.inRecovery die = false → (s.dev.core k).run.isSome = true →
      exec (.selfTestSlice die core item index x) s = .next (s.on ((s.dev.fireEntry e []).keepRecord
        (resultRecord { f with addr := 0xFFFF_FFFF, bit := 0xFF, sig := 0 } 1 2 0 s.dev.beat.now (item % 256 * 256 + index % 256))))) ∧
    (s.dev.mayFire e = true → s.dev.inRecovery die = false → (s.dev.core k).run = none → x.cut = true → item ≠ 0x08 →
      exec (.selfTestSlice die core item index x) s = .next (s.on ((s.dev.fireEntry e []).keepRecord
        (resultRecord { f with addr := 0xFFFF_FFFF, bit := 0xFF, sig := 0 } 1 3 0 s.dev.beat.now (item % 256 * 256 + index % 256))))) ∧
    (s.dev.mayFire e = true → s.dev.inRecovery die = false → (s.dev.core k).run = none → x.cut = false → item ≠ 0x03 → item ≠ 0x08 →
      (x.fails = true → Tab.get? s.dev.fence.retests key = none → ∃ d, exec (.selfTestSlice die core item index x) s = .next (s.on d) ∧
        (Tab.get? d.fence.retests key).isSome = true ∧ d.cal = s.dev.cal.filter (fun c => !(c == e)) ∧
        d.fence.recs.getLast? = some (resultRecord f 1 1 0 s.dev.beat.now (item % 256 * 256 + index % 256)) ∧
        d.faults = s.dev.faults ∧ (item ≠ 0x02 → d.fence.spareArr = s.dev.fence.spareArr) ∧ d.fence.words = s.dev.fence.words) ∧
      (x.fails = false → (Tab.get? s.dev.fence.retests key).isSome = true → ∃ d,
        exec (.selfTestSlice die core item index x) s = .next (s.on d) ∧ Tab.get? d.fence.retests key = none ∧
        Tab.get? d.fence.passed k = some (0x100 * item + index) ∧ d.cal = s.dev.cal.filter (fun c => !(c == e)) ∧
        d.err die core 21 = satAdd 32 (s.dev.err die core 21) 1))) ∧
  (∀ (s : State) (die core item index : Nat) (x : SliceFacts), item ≠ 0x10 → s.dev.sliceEntry die core item index = none →
    (s.dev.groupsOf (s.dev.pastureOfDie die)).isEmpty = false → exec (.selfTestSlice die core item index x) s = .next s) ∧
  (∀ (s : State) (die i : Nat) (x : SliceFacts), s.dev.power.st = .run ∨ s.dev.power.st = .brace → i < sparesOf die →
    bit s.dev.faults.offline (penOfDie die) = false → Tab.getD s.dev.fence.spareCore (die * 4 + i) 0 ≠ 3 →
    ∃ d, exec (.spareCoreWalk die i x) s = .next (s.on d) ∧ Tab.getD d.fence.spareCore (die * 4 + i) 0 = (if x.fails then 2 else 1) ∧
      (∀ j, j ≠ die * 4 + i → Tab.getD d.fence.spareCore j 0 = Tab.getD s.dev.fence.spareCore j 0)) ∧
  (∀ (s : State) (avg g : Nat), g = s.dev.fence.group → s.dev.power.st = .starting → s.dev.power.step = 5 → g < 10 →
    (2760 < avg + testIncrement (groupDies g) → ∀ fails, exec (.startupTestGroup avg fails) s = .next s) ∧
    (avg + testIncrement (groupDies g) ≤ 2760 → ∃ d, exec (.startupTestGroup avg []) s = .next (s.on d) ∧ d.fence.group = g + 1 ∧
      d.fence.recs = s.dev.fence.recs ∧ d.mem = s.dev.mem ∧
      ∀ die ∈ groupDies g, isCompute die = true →
        (∀ a, die * 2 ^ 29 ≤ a → a < (die + 1) * 2 ^ 29 → Mem.get d.spad a = 0#8) ∧
        (∀ c < coresOf die, Tab.getD s.dev.fence.spareArr (coreKey die c) 0 ≠ 3 → Tab.getD d.fence.spareArr (coreKey die c) 0 = 1)))

/-- In STARTING and RUN a falling supply enters BRACE, with half the cap, at most 1.1 GHz and the dip timer running; in BRACE it
only lowers the recorded minimum; elsewhere only the test access port sees it. BRACE ends with SUPPLY_DIP and its records when
the supply returns in time; a dip of 10 ms makes the halt due, which ends every request, transaction and Calendar entry. Each
cause of a package reset resets it with that cause, keeping the Tally (which AUX_FAIL alone stops), the test access port and the
fuses, and a package in reset stays there; a pulse below 1 us does nothing and one below 10 us may reset. Release begins
start-up with the straps sampled. The governor steps down above the cap, and the tenth evaluation at the lowest frequency raises
POWER_CAP_UNMET. The hottest junctions and stacks set the responses. -/
def Obligations.SupplyHeatAndResetsMoveThePackage : Prop :=
  (∀ (s : State) (mv : Nat),
    (s.dev.power.st = .starting ∨ s.dev.power.st = .run → ∃ p, exec (.uvWarn mv) s =
      .next (s.on { s.dev with tap := s.dev.tap.drop true, power := p }) ∧
      p.st = .brace ∧ p.braceFrom = s.dev.power.st ∧ p.dip = true ∧ p.haltDue = false ∧ p.dipMin = mv ∧ p.cap ≤ s.dev.power.cap / 2 ∧
      p.ceiling ≤ 11 ∧ (s.dev.power.freq ≤ s.dev.power.ceiling → p.freq ≤ 11)) ∧
    (s.dev.power.st = .brace → exec (.uvWarn mv) s =
      .next (s.on { s.dev with
        tap := s.dev.tap.drop true, power := { s.dev.power with dipMin := min s.dev.power.dipMin mv } })) ∧
    (s.dev.power.st ≠ .starting → s.dev.power.st ≠ .run → s.dev.power.st ≠ .brace → exec (.uvWarn mv) s =
      .next (s.on { s.dev with tap := s.dev.tap.drop true }))) ∧
  (∀ (s : State) (mv us : Nat), s.dev.power.st = .brace → s.dev.power.dip = true →
    (s.dev.power.haltDue = false → ∃ p, exec (.uvWarnClear mv us) s = .next (s.on ({ s.dev with tap := s.dev.tap.powered, power := p }.event 0 2 1)) ∧
      p.st = s.dev.power.braceFrom ∧ p.dip = false ∧ p.dipCount = satAdd 16 s.dev.power.dipCount 1 ∧
      p.dipMinMv = min s.dev.power.dipMin mv % 2 ^ 16 ∧ p.dipDurUs = us % 2 ^ 32 ∧ p.capInForce = s.dev.key kPowerCap ∧
      p.clockInForce = s.dev.key kClock) ∧
    exec .dipTimerExpire s = .next (s.on { s.dev with power := { s.dev.power with haltDue := true } }) ∧
    (s.dev.power.haltDue = true → (∃ p, exec (.uvWarnClear mv us) s =
        .next (s.on { s.dev with tap := s.dev.tap.powered, power := p }) ∧ p.st = .brace ∧ p.haltDue = true) ∧
      ∃ d, exec .orderlyHalt s = .next (s.on d) ∧ d.power.st = .halted ∧ d.power.code = 0x13 ∧ d.power.ready = false ∧ d.reqs = [] ∧
        d.txns = [] ∧ d.cal = [] ∧ d.mem = s.dev.mem) ∧
    (s.dev.power.haltDue = false → exec .orderlyHalt s = .next s)) ∧
  (∀ s : State, s.dev.power.st ≠ .brace → exec .dipTimerExpire s = .next s ∧ exec .orderlyHalt s = .next s) ∧
  (∀ (s : State) (ns : Nat), s.dev.power.inReset = false →
    exec .uvReset s = .next (s.on ({ s.dev with tap := s.dev.tap.drop true }.packageReset 3)) ∧
    exec .ovReset s = .next (s.on ({ s.dev with power := { s.dev.power with ovHeld := true } }.packageReset 4)) ∧
    exec .thermalTrip s = .next (s.on ({ s.dev with power := { s.dev.power with tripHeld := true } }.packageReset 5)) ∧
    (10000 ≤ ns → exec (.ztResetN ns) s = .next (s.on (s.dev.packageReset 2))) ∧
    (1000 ≤ ns → ns < 10000 → exec (.ztResetN ns) s = .next (s.on { s.dev with draws := s.dev.draws + 1 }) ∨
      exec (.ztResetN ns) s = .next (s.on ({ s.dev with draws := s.dev.draws + 1 }.packageReset 2))) ∧
    (ns < 1000 → exec (.ztResetN ns) s = .next s) ∧
    (s.dev.power.auxGood = true → ∃ d, exec .auxFail s = .next (s.on d) ∧ d.power.inReset = true ∧ d.power.auxGood = false ∧
      d.power.st = .off ∧ d.aux.causes = 2 ^ 6 ∧ d.tally.up = false ∧ d.fuses = { s.dev.fuses with updating := false } ∧ d.mem = []) ∧
    exec .refclkDetected s = .next (s.on { s.dev with power := { s.dev.power with refclk := true } })) ∧
  (∀ (d : Dev) (c : Nat), (d.packageReset c).power.inReset = true ∧ (d.packageReset c).aux.causes = 2 ^ c ∧
    (d.packageReset c).tally = d.tally ∧ (d.packageReset c).tap = d.tap ∧
    (d.packageReset c).fuses = { d.fuses with updating := false } ∧ (d.packageReset c).mem = [] ∧
    (d.packageReset c).handles = [] ∧ (d.packageReset c).pastures = [] ∧ (d.packageReset c).faults.log = [] ∧
    (d.packageReset c).beat.st = .free ∧ (d.packageReset c).beat.now = 0) ∧
  (∀ (s : State) (boot beat met : Bool) (i3c : Nat), s.dev.power.inReset = true →
    exec .refclkDetected s = .next s ∧
    exec .uvReset s = .next (s.on { s.dev with tap := s.dev.tap.drop true }) ∧
    (s.dev.power.auxGood = false → exec .auxFail s = .next s ∧ exec (.resetRelease boot beat met i3c) s = .next s) ∧
    (s.dev.power.auxGood = true → ∃ d, exec (.resetRelease boot beat met i3c) s = .next (s.on d) ∧ d.power.inReset = false ∧
      d.power.st = .starting ∧ d.power.step = 1 ∧ d.aux.strapBoot = boot ∧ d.aux.strapBeat = beat ∧ d.aux.strapMet = met ∧
      d.aux.strapI3c = i3c % 4 ∧ d.aux.causes = s.dev.aux.causes)) ∧
  (∀ (s : State) (w cv : Nat), s.dev.power.st = .run ∨ s.dev.power.st = .brace ∧ s.dev.power.braceFrom = .run → s.dev.power.cap < 8 * w →
    (6 < s.dev.power.freq → ∃ p, exec (.governorEvaluation w cv) s = .next (s.on { s.dev with power := p }) ∧
      p.freq = s.dev.power.freq - 1 ∧ p.govCount = 0 ∧ p.overCount = 0 ∧ p.avg = w) ∧
    (s.dev.power.freq = 6 → s.dev.power.overCount = 9 → s.dev.power.unmet = false → ∃ p, exec (.governorEvaluation w cv) s =
      .next (s.on ({ s.dev with power := p }.notice 0x004C 63 63 31 (s.dev.power.cap / 8))) ∧ p.freq = 6 ∧ p.unmet = true)) ∧
  (∀ (s : State) (w cv : Nat), s.dev.power.st = .run ∨ s.dev.power.st = .brace ∧ s.dev.power.braceFrom = .run → 800 * w < 95 * s.dev.power.cap →
    s.dev.power.freq < s.dev.power.ceiling → ∃ p, exec (.governorEvaluation w cv) s = .next (s.on { s.dev with power := p }) ∧
      (p.freq, p.govCount) = (if s.dev.power.govCount = 9 then (s.dev.power.freq + 1, 0) else (s.dev.power.freq, s.dev.power.govCount + 1))) ∧
  (∀ (s : State) (w cv : Nat), s.dev.power.st ≠ .run → s.dev.power.st ≠ .brace ∨ s.dev.power.braceFrom ≠ .run → exec (.governorEvaluation w cv) s = .next s) ∧
  (∀ (s : State) (dies stk : List Nat), ∃ p, exec (.thermalRead dies stk) s = .next (s.on { s.dev with power := p }) ∧
    ((∃ t ∈ stk, 95 < t) → p.hotCap = true ∧ p.cap ≤ s.dev.power.baseCap * 3 / 4) ∧
    ((∃ t ∈ dies, 105 ≤ t) → p.hot105 = true ∧ p.ceiling ≤ 6) ∧ ((∀ t ∈ dies, t < 100) → p.hot105 = false) ∧
    ((∃ t ∈ dies, 100 ≤ t) → p.hot100 = true) ∧ ((∀ t ∈ dies, t < 95) → p.hot100 = false))

/-- A step ends only in start-up that has not stopped. Step 1 waits for the clock, and under host push it waits for the boot
doorbell with the window open and WAIT_PUSH; with no image in either slot it stops with NO_IMAGE. Step 2 stops on a variant
mismatch and goes on otherwise. Step 3 leaves the stacks zero. Step 4 takes the margins of the Midway's wires. Step 5 ends when
every group has been tested. Step 6 makes the package ready in RUN, at a frequency between 0.6 GHz and the ceiling. -/
def Obligations.StartupGoesStepByStep : Prop :=
  (∀ (s : State) (x : StartFacts), s.dev.power.inReset = true ∨ s.dev.power.code ≠ 0 ∨ s.dev.power.startingUp = false ∨
    6 < s.dev.power.step → exec (.startupStepDone x) s = .next s) ∧
  (∀ (s : State) (x : StartFacts), s.dev.power.inReset = false → s.dev.power.code = 0 → s.dev.power.st = .starting →
    (s.dev.power.step = 1 → (s.dev.power.refclk = false → exec (.startupStepDone x) s = .next s) ∧
      (s.dev.power.refclk = true → x.rmBad = [] →
        (s.dev.aux.strapBoot = true → exec (.startupStepDone x) s =
          .next (s.on { s.dev with power := { s.dev.power with code := 0x11, window := true, portUp := true } })) ∧
        (s.dev.aux.strapBoot = false → (∀ i ∈ x.flash, i = none) → ∃ d, exec (.startupStepDone x) s = .next (s.on d) ∧
          d.power.code = 0x10 ∧ d.power.step = 1 ∧ d.power.st = .starting))) ∧
    (s.dev.power.step = 2 → exec (.startupStepDone x) s = .next (s.on { s.dev with power :=
      (if s.dev.aux.strapMet = true ∧ s.dev.fuses.variant = 1 then { s.dev.power with code := 0x12 } else { s.dev.power with step := 3 }) })) ∧
    (s.dev.power.step = 3 → x.stacksBad = [] → exec (.startupStepDone x) s =
      .next (s.on { s.dev with mem := [], poison := [], power := { s.dev.power with step := 4 } })) ∧
    (s.dev.power.step = 4 → exec (.startupStepDone x) s = .next (s.on { s.dev.midwayTrained x.midway with
      power := { (s.dev.midwayTrained x.midway).power with step := (s.dev.midwayTrained x.midway).power.step + 1 } }) ∧
      (s.dev.midwayTrained x.midway).power.step = 4) ∧
    (s.dev.power.step = 5 → exec (.startupStepDone x) s =
      .next (s.on (if s.dev.fence.group = 10 then { s.dev with power := { s.dev.power with step := 6 } } else s.dev))) ∧
    (s.dev.power.step = 6 → s.dev.power.lostInStartup = false → ∃ d, exec (.startupStepDone x) s = .next (s.on d) ∧
      d.power.step = 7 ∧ d.power.ready = true ∧ d.power.code = 1 ∧ d.power.st = .run ∧ 6 ≤ d.power.freq ∧
      d.power.freq ≤ d.power.ceiling ∧ d.serving = true))

/-- A binding whose endpoint answers takes a lawful endpoint identifier and an event receiver, starts one firmware update, and
marks the written slot to be tried; a self-contained activation, an update under host push and an activation without an update
are refused. It gives its version, capabilities, algorithms, digest, certificate, signed challenge and measurements, and slots 1
to 7 are errors. A binding that does not answer changes nothing. A refresh stores every reading, and a state that changed is
sent to the receiver. A test instruction executes where its condition holds, and as BYPASS otherwise. Completion codes and the
SPDM layouts are the model's choice (log entry 45). -/
def Obligations.ManagementAndTestPortAnswer : Prop :=
  (∀ (s : State) (b : Nat), s.dev.mctpOn b = true →
    (∀ eid, 8 ≤ eid → eid ≤ 254 → exec (.setEndpointId b eid) s =
      .next (s.on ({ s.dev with mgmt := { s.dev.mgmt with eids := s.dev.mgmt.eids.set b eid } }.emit (.mctp b 0 1 [0, eid] [])))) ∧
    (∀ eid, eid < 8 ∨ 254 < eid → exec (.setEndpointId b eid) s = .next (s.on (s.dev.emit (.mctp b 0 1 [2] [])))) ∧
    (∀ eid, exec (.setEventReceiver b eid) s =
      .next (s.on ({ s.dev with mgmt := { s.dev.mgmt with receiver := some (eid % 256) } }.emit (.mctp b 1 4 [0] [])))) ∧
    exec (.requestUpdate b) s = .next (s.on (if s.dev.aux.strapBoot = true then s.dev.emit (.mctp b 1 0x10 [0x8A] [])
      else if s.dev.fuses.updating = true then s.dev.emit (.mctp b 1 0x10 [0x81] [])
      else ({ s.dev with fuses := { s.dev.fuses with updating := true } }.emit (.flashWrite (1 - s.dev.fuses.slot))).emit
        (.mctp b 1 0x10 [0] []))) ∧
    exec (.activateFirmware b true) s = .next (s.on (s.dev.emit (.mctp b 1 0x1A [0x8C] []))) ∧
    exec (.activateFirmware b false) s = .next (s.on (if s.dev.fuses.updating = false then s.dev.emit (.mctp b 1 0x1A [0x80] [])
      else { s.dev with fuses := { s.dev.fuses with updating := false, trySlot := 1 - s.dev.fuses.slot } }.emit (.mctp b 1 0x1A [0] []))) ∧
    exec (.getVersion b) s = .next (s.on (s.dev.emit (.mctp b 5 0x84 [0x12] []))) ∧
    exec (.getCapabilities b) s = .next (s.on (s.dev.emit (.mctp b 5 0xE1 [1, 1, 2, 0, 0, 0] []))) ∧
    (∀ e h, exec (.negotiateAlgorithms b e h) s = .next (s.on (s.dev.emit (.mctp b 5 0xE3 [e.toNat, h.toNat] [])))) ∧
    exec (.getDigests b) s = .next (s.on (s.dev.emit (.mctp b 5 0x81 [1] (sha384 s.dev.fuses.devCert)))) ∧
    (∀ off len, off + len ≤ s.dev.fuses.devCert.length → exec (.getCertificate b 0 off len) s = .next (s.on (s.dev.emit
      (.mctp b 5 0x82 [0, len, s.dev.fuses.devCert.length - off - len] ((s.dev.fuses.devCert.drop off).take len))))) ∧
    (∀ slot off len nonce, slot ≠ 0 → exec (.getCertificate b slot off len) s = .next (s.on (s.dev.emit (.mctp b 5 0x7F [1] []))) ∧
      exec (.challenge b slot nonce) s = .next (s.on (s.dev.emit (.mctp b 5 0x7F [1] [])))) ∧
    (∀ nonce, ∃ sig, sig.length = 96 ∧ exec (.challenge b 0 nonce) s = .next (s.on (s.dev.emit
      (.mctp b 5 0x83 [0, nonce] (sha384 s.dev.fuses.devCert ++ sig))))) ∧
    (∀ index nonce, exec (.getMeasurements b index nonce false) s = .next (s.on (s.dev.emit (if index = 0 then .mctp b 5 0x60 [4] []
      else if index = 0xFF then .mctp b 5 0x60 (s.dev.measurement 1 ++ s.dev.measurement 2 ++ s.dev.measurement 3 ++ s.dev.measurement 4) []
      else if index ≤ 4 then .mctp b 5 0x60 (s.dev.measurement index) [] else .mctp b 5 0x7F [1] []))))) ∧
  (∀ (s : State) (b x y z : Nat) (u v : Bool), s.dev.mctpOn b = false →
    exec (.setEndpointId b x) s = .next s ∧ exec (.setEventReceiver b x) s = .next s ∧ exec (.requestUpdate b) s = .next s ∧
    exec (.activateFirmware b u) s = .next s ∧ exec (.getVersion b) s = .next s ∧ exec (.getCapabilities b) s = .next s ∧
    exec (.negotiateAlgorithms b u v) s = .next s ∧ exec (.getDigests b) s = .next s ∧ exec (.getCertificate b x y z) s = .next s ∧
    exec (.challenge b x y) s = .next s ∧ exec (.getMeasurements b x y u) s = .next s) ∧
  (∀ (s : State) (a : Nat),
    (s.dev.tally.up = true → exec (.dynamicAddress true a) s = .next (s.on { s.dev with tally := { s.dev.tally with dynAddr := some (a % 128) } })) ∧
    (s.dev.mctpOn 0 = true → exec (.dynamicAddress false a) s = .next (s.on { s.dev with mgmt := { s.dev.mgmt with dynAddr := some (a % 128) } }))) ∧
  (∀ (s : State) (l : List (Nat × Int)), s.dev.power.mctpUp = true → s.dev.power.inReset = false → (l.map Prod.fst).Nodup →
    ∃ d, exec (.sensorRefresh l) s = .next (s.on d) ∧ (∀ q ∈ s.dev.stateSensors, Tab.get? d.mgmt.sensors q.1 = some q.2) ∧
      (∀ q ∈ l, numericSensor q.1 = true → Tab.get? d.mgmt.sensors q.1 = some q.2) ∧
      (s.dev.mgmt.receiver = none → d.out = s.dev.out) ∧
      (∀ r q v, s.dev.mgmt.receiver = some r → q ∈ s.dev.stateSensors → Tab.get? s.dev.mgmt.sensors q.1 = some v → v ≠ q.2 →
        Out.platformEvent r q.1 q.2 ∈ d.out)) ∧
  (∀ (s : State) (p : TapPins) (lands cells op : Nat) (ok : Bool), s.dev.power.auxGood = true → ok = (p.resetLow && p.mainUp) →
    exec .idcode s = .next (s.on ({ s.dev with tap := { s.dev.tap with ir := 1, runs := 1 } }.emit (.tap 0x14032B47))) ∧
    (6 < op → op < 256 → exec (.bypass op) s =
      .next (s.on ({ s.dev with tap := { s.dev.tap with ir := op, runs := 0xFF } }.emit (.tap 0)))) ∧
    (p.mainUp = true → exec (.samplePreload p lands cells) s =
      .next (s.on ({ s.dev with tap := { ir := 2, runs := 2, cells } }.emit (.tap lands)))) ∧
    (ok = true →
      exec (.extest p lands cells) s = .next (s.on ({ s.dev with tap := { ir := 0, runs := 0, cells } }.emit (.tap lands))) ∧
      exec (.extestPulse p lands cells) s = .next (s.on ({ s.dev with tap := { ir := 3, runs := 3, cells } }.emit (.tap lands))) ∧
      exec (.extestTrain p lands cells) s = .next (s.on ({ s.dev with tap := { ir := 4, runs := 4, cells } }.emit (.tap lands))) ∧
      exec (.clamp p) s = .next (s.on ({ s.dev with tap := { s.dev.tap with ir := 5, runs := 5 } }.emit (.tap 0))) ∧
      exec (.highz p) s = .next (s.on ({ s.dev with tap := { s.dev.tap with ir := 6, runs := 6 } }.emit (.tap 0)))) ∧
    (ok = false →
      exec (.extest p lands cells) s = .next (s.on ({ s.dev with tap := { s.dev.tap with ir := 0, runs := 0xFF } }.emit (.tap 0))) ∧
      exec (.extestPulse p lands cells) s = .next (s.on ({ s.dev with tap := { s.dev.tap with ir := 3, runs := 0xFF } }.emit (.tap 0))) ∧
      exec (.extestTrain p lands cells) s = .next (s.on ({ s.dev with tap := { s.dev.tap with ir := 4, runs := 0xFF } }.emit (.tap 0))) ∧
      exec (.clamp p) s = .next (s.on ({ s.dev with tap := { s.dev.tap with ir := 5, runs := 0xFF } }.emit (.tap 0))) ∧
      exec (.highz p) s = .next (s.on ({ s.dev with tap := { s.dev.tap with ir := 6, runs := 0xFF } }.emit (.tap 0)))))

/-- A Tally that runs and is not FAILED answers each read with OK and its record, or NOT_FOUND or RANGE; an energy record is 160
bytes with its type, domain, SEQ, clock and register in their places. With the seal closed no parameter but the clock changes.
With the seal open and the log not full, each parameter takes a value of its range and not another, the audit counter advances
by one and the audit record of 128 bytes is stored. A clock that is SET takes, with the seal closed, only a synchronisation of
at most 2 s, at most once a day. A Tally that signs answers BUSY and changes nothing; a FAILED one answers READ_ID and
READ_EVENT alone. -/
def Obligations.MetrologyPortReadsAndSetsUnderTheSeal : Prop :=
  (∀ (s : State) (n seq a : Nat), s.dev.tally.up = true → s.dev.tally.failed = false →
    exec (.readId false) s = .next (s.on (s.dev.emit (.metrology mOk [s.dev.fuses.variant, s.dev.tally.romVersion, s.dev.tally.calRec,
      s.dev.tally.cert.length, s.dev.tally.auditCount] s.dev.tally.romId))) ∧
    (n < 18 → exec (.readLive n false) s = .next (s.on (s.dev.emit (.metrology mOk [] (s.dev.tally.liveRecord n))))) ∧
    (18 ≤ n → exec (.readLive n false) s = .next (s.on (s.dev.emit (.metrology mRange [] []))) ∧
      exec (.readInterval n seq false) s = .next (s.on (s.dev.emit (.metrology mRange [] [])))) ∧
    (n < 18 → seq < 2 ^ 32 → exec (.readInterval n seq false) s = .next (s.on (s.dev.emit
      (match Tab.get? s.dev.tally.records (n * 2 ^ 32 + seq) with
        | some r => .metrology mOk [] r
        | none => .metrology mNotFound [] [])))) ∧
    exec (.readAudit a false) s = .next (s.on (s.dev.emit (match Tab.get? s.dev.tally.audits a with
      | some r => .metrology mOk [] r
      | none => .metrology mNotFound [] []))) ∧
    exec (.readEvent a false) s = .next (s.on (s.dev.emit (match s.dev.tally.events.find? (fun e => e.index == a) with
      | some e => .metrology mOk [e.index, e.time, e.kind.code, e.domain.getD 31, e.v0, e.v1] e.sig
      | none => .metrology mNotFound [] []))) ∧
    (a ≤ 256 → exec (.readCert n a false) s = .next (s.on (s.dev.emit (.metrology mOk [] ((s.dev.tally.cert.drop n).take a))))) ∧
    (256 < a → exec (.readCert n a false) s = .next (s.on (s.dev.emit (.metrology mRange [] []))))) ∧
  (∀ (t : Tally) (n : Nat), 2 ≤ t.romId.length → n < 18 → t.clock < 2 ^ 64 → (t.domain n).ereg < 2 ^ 64 →
    (t.liveRecord n).length = 160 ∧ rdLE (t.liveRecord n) 0 1 = 3 ∧ rdLE (t.liveRecord n) 1 1 = n ∧
    rdLE (t.liveRecord n) 4 4 = 0xFFFFFFFF ∧ rdLE (t.liveRecord n) 8 8 = t.clock ∧ rdLE (t.liveRecord n) 24 8 = (t.domain n).ereg) ∧
  (∀ (s : State) (p v : Nat) (data : List Byte), s.dev.tally.up = true → s.dev.tally.failed = false → s.dev.tally.logFull = false →
    p ≠ 0x09 →
    (s.dev.tally.sealOpen = false → exec (.setParam p v data false) s = .next (s.on (s.dev.emit (.metrology mSealClosed [] [])))) ∧
    (s.dev.tally.sealOpen = true →
      ((p = 1 ∧ s.dev.fuses.variant ≠ 2 ∧ s.dev.tally.calRec < 15) ∨ (p = 2 ∧ v ∈ [60, 300, 900, 3600]) ∨
        (3 ≤ p ∧ p ≤ 5 ∧ v ≤ 17) ∨ (6 ≤ p ∧ p ≤ 8 ∧ 1 ≤ v ∧ v ≤ 100000) →
        ∃ (t : Tally) (r : List Byte), exec (.setParam p v data false) s =
          .next (s.on ({ s.dev with tally := t }.emit (.metrology mOk [] []))) ∧
        t.auditCount = s.dev.tally.auditCount + 1 ∧ Tab.get? t.audits t.auditCount = some r ∧ r.length = 128 ∧
        t.domains = s.dev.tally.domains ∧ t.records = s.dev.tally.records ∧ t.clock = s.dev.tally.clock ∧
        (p = 1 → t.cals = s.dev.tally.cals ++ [data]) ∧ (p = 2 → t.intervalNext = some v ∧ t.interval = s.dev.tally.interval)) ∧
      (p = 2 ∧ v ∉ [60, 300, 900, 3600] ∨ (3 ≤ p ∧ p ≤ 5 ∧ 17 < v) ∨ (6 ≤ p ∧ p ≤ 8 ∧ (v = 0 ∨ 100000 < v)) ∨ p = 0 ∨ 9 < p →
        exec (.setParam p v data false) s = .next (s.on (s.dev.emit (.metrology mRange [] [])))) ∧
      (p = 1 → (s.dev.fuses.variant = 2 ∨ 15 ≤ s.dev.tally.calRec) →
        exec (.setParam p v data false) s = .next (s.on (s.dev.emit (.metrology mLocked [] [])))))) ∧
  (∀ (s : State) (p v time : Nat) (data : List Byte), s.dev.tally.up = true → s.dev.tally.failed = false → s.dev.tally.logFull = true →
    exec (.setParam p v data false) s = .next (s.on (s.dev.emit (.metrology mLogFull [] []))) ∧
    exec (.setTime time false) s = .next (s.on (s.dev.emit (.metrology mLogFull [] [])))) ∧
  (∀ (s : State) (time : Nat), s.dev.tally.up = true → s.dev.tally.failed = false → s.dev.tally.logFull = false → time < 2 ^ 64 →
    (s.dev.tally.clockSet = false ∨ s.dev.tally.sealOpen = true → ∃ t : Tally, exec (.setTime time false) s =
      .next (s.on ({ s.dev with tally := t }.emit (.metrology mOk [] []))) ∧ t.clock = time ∧ t.clockSet = true ∧
      t.auditCount = s.dev.tally.auditCount + 1 ∧ (Tab.get? t.audits t.auditCount).isSome = true) ∧
    (s.dev.tally.clockSet = true → s.dev.tally.sealOpen = false →
      (time ≤ s.dev.tally.clock + 2 → s.dev.tally.clock ≤ time + 2 → s.dev.tally.syncWait = 0 → ∃ t : Tally,
        exec (.setTime time false) s = .next (s.on ({ s.dev with tally := t }.emit (.metrology mOk [] []))) ∧ t.clock = time ∧
        t.syncWait = 86400 ∧ t.auditCount = s.dev.tally.auditCount ∧ t.eventNext = s.dev.tally.eventNext + 1) ∧
      (s.dev.tally.clock + 2 < time ∨ time + 2 < s.dev.tally.clock ∨ s.dev.tally.syncWait ≠ 0 →
        exec (.setTime time false) s = .next (s.on (s.dev.emit (.metrology mSealClosed [] [])))))) ∧
  (∀ (s : State) (n a time : Nat) (data : List Byte), s.dev.tally.up = true → s.dev.tally.failed = false →
    ∀ i ∈ [Instr.readId true, .readLive n true, .readInterval n a true, .readAudit a true, .readEvent a true, .readCert n a true,
      .setParam n a data true, .setTime time true], exec i s = .next (s.on (s.dev.emit (.metrology mBusy [] [])))) ∧
  (∀ (s : State) (n a time : Nat) (data : List Byte) (b : Bool), s.dev.tally.up = false ∨ s.dev.tally.failed = true →
    ∀ i ∈ [Instr.readLive n b, .readInterval n a b, .readAudit a b, .readCert n a b, .setParam n a data b, .setTime time b],
      exec i s = .next s)

/-- A sample adds to each register exactly the energy that the domain registers, whole units to the register and the rest kept
below one unit. A whole minute out of balance sets BALANCE, records an event and raises TL_BALANCE; every window starts afresh.
An interval's end gives each of the 18 domains a record of its SEQ and the next SEQ, and saves the registers and the clock. A
save or AUX failure keeps them, and after AUX returns measurement goes on from the saved registers, clock UNSET, with a gap
record of each domain. A change of the seal is recorded once. A mirror update copies the registers and the new records, once.
Counts are taken until their timeout; a failing check enters FAILED. Nothing of this happens to a Tally that does not run. -/
def Obligations.TallyMeasuresRecordsAndSaves : Prop :=
  (∀ (s : State) (x : Sample) (n : Nat) (a : Int), s.dev.tally.measures = true → x.amps.length = 18 → s.dev.tally.domains.length = 18 →
    n < 18 → x.amps[n]? = some a → (s.dev.tally.domain n).ereg + ((s.dev.tally.domain n).rest + registered n a x.mv) / energyUnit < 2 ^ 64 - 1 →
    ∃ d, exec (.energySample x) s = .next (s.on d) ∧ (d.tally.domain n).rest < energyUnit ∧
      (d.tally.domain n).ereg * energyUnit + (d.tally.domain n).rest =
        (s.dev.tally.domain n).ereg * energyUnit + (s.dev.tally.domain n).rest + registered n a x.mv ∧
      ((d.tally.domain n).overload = true ↔ (s.dev.tally.domain n).overload = true ∨ iMax n < a.toNat) ∧
      d.tally.clock = s.dev.tally.clock ∧ d.tally.records = s.dev.tally.records ∧ d.mem = s.dev.mem) ∧
  (∀ (s : State) (x : Sample), s.dev.tally.measures = false ∨ x.amps.length ≠ 18 → exec (.energySample x) s = .next s) ∧
  (∀ s : State, s.dev.tally.measures = true → s.dev.tally.clock % 60 = 0 → s.dev.tally.windowSecs ≠ 0 → ∃ d,
    exec .balanceWindowEnd s = .next (s.on d) ∧ d.tally.windowSecs = 0 ∧ d.tally.windowN = 0 ∧ d.tally.selfWindow = 0 ∧
      (s.dev.tally.windowCounts = true ∧ s.dev.tally.unbalanced = true → d.tally.balance = true ∧
        d.tally.eventNext = s.dev.tally.eventNext + 1 ∧ d.tally.balances = satAdd 16 s.dev.tally.balances 1) ∧
      (s.dev.tally.windowCounts = false ∨ s.dev.tally.unbalanced = false → d.tally.balance = s.dev.tally.balance ∧
        d.tally.events = s.dev.tally.events)) ∧
  (∀ s : State, s.dev.tally.measures = true → s.dev.tally.intervalDue = true → s.dev.tally.domains.length = 18 → ∃ d,
    exec .intervalEnd s = .next (s.on d) ∧ d.tally.intervalSecs = 0 ∧ d.tally.savedClock = s.dev.tally.clock ∧
      ∀ n < 18, (d.tally.domain n).ereg = (s.dev.tally.domain n).ereg ∧ (d.tally.domain n).saved = (s.dev.tally.domain n).ereg ∧
        (d.tally.domain n).start = (s.dev.tally.domain n).ereg ∧ (d.tally.domain n).seq = ((s.dev.tally.domain n).seq + 1) % 2 ^ 32 ∧
        ((s.dev.tally.domain n).seq < 2 ^ 32 → ∃ r, Tab.get? d.tally.records (n * 2 ^ 32 + (s.dev.tally.domain n).seq) = some r ∧
          rdLE r 0 1 = 1 ∧ rdLE r 1 1 = n ∧ rdLE r 4 4 = (s.dev.tally.domain n).seq)) ∧
  (∀ s : State, s.dev.tally.measures = false ∨ s.dev.tally.intervalDue = false → exec .intervalEnd s = .next s) ∧
  (∀ s : State, s.dev.tally.up = true →
    (∀ i ∈ [Instr.nvSave, .tallyAuxLowSave], ∃ t : Tally, exec i s = .next (s.on { s.dev with tally := t }) ∧
      t.savedClock = s.dev.tally.clock ∧ t.domains = s.dev.tally.domains.map (fun x => { x with saved := x.ereg, savedRest := x.rest }) ∧
      t.records = s.dev.tally.records ∧ t.up = decide (i = .nvSave))) ∧
  (∀ s : State, s.dev.tally.up = false → s.dev.power.auxGood = true → s.dev.tally.domains.length = 18 → ∃ t : Tally,
    exec (.auxReturn false true) s = .next (s.on { s.dev with tally := t }) ∧ t.up = true ∧ t.failed = false ∧ t.clockSet = false ∧
      t.clock = s.dev.tally.savedClock ∧ t.gap = 0 ∧
      ∀ n < 18, (t.domain n).ereg = (s.dev.tally.domain n).saved ∧ (t.domain n).rest = (s.dev.tally.domain n).savedRest ∧
        (t.domain n).seq = ((s.dev.tally.domain n).seq + 1) % 2 ^ 32) ∧
  (∀ (s : State) (o : Bool), s.dev.tally.up = true →
    (s.dev.tally.sealOpen = o → exec (.sealChange o) s = .next s) ∧
    (s.dev.tally.sealOpen ≠ o → ∃ t : Tally, exec (.sealChange o) s = .next (s.on { s.dev with tally := t }) ∧ t.sealOpen = o ∧
      t.eventNext = s.dev.tally.eventNext + 1 ∧ t.domains = s.dev.tally.domains)) ∧
  (∀ s : State, s.dev.tally.measures = true → s.dev.power.inReset = false → s.dev.tally.liveN ≠ 0 → ∃ d,
    exec .mirrorUpdate s = .next (s.on d) ∧ d.mirror.seq = (s.dev.mirror.seq + 2) % 2 ^ 64 ∧ d.mirror.time = s.dev.tally.clock ∧
      (∀ n < 18, Tab.get? d.mirror.energy n = some (s.dev.tally.domain n).ereg) ∧ d.tally.unsent = [] ∧ d.tally.liveN = 0 ∧
      fld d.mirror.status 0 3 = 1) ∧
  (∀ s : State, s.dev.power.inReset = false → fld s.dev.mirror.status 0 3 ≠ 3 → ∃ d, exec .mirrorStale s = .next (s.on d) ∧
    fld d.mirror.status 0 3 = 3 ∧ d.mirror.energy = s.dev.mirror.energy ∧ d.tally = s.dev.tally) ∧
  (∀ (s : State) (ms : Nat) (shares : List Nat), s.dev.tally.up = true →
    exec (.mirrorSet ms) s = .next (s.on { s.dev with tally :=
      (if ms ∈ [1, 10, 100, 1000] then { s.dev.tally with period := ms } else s.dev.tally.reject) }) ∧
    (s.dev.tally.auxMissing = false → s.dev.power.inReset = false → 2 ≤ s.dev.power.step → exec (.auxCounts shares) s =
      .next (s.on { s.dev with
        tally := { s.dev.tally with
          auxBeat := s.dev.beat.now, auxCome := true
          auxTokens := s.dev.byPen shares (fun f => Tab.getD f.srv 0 0 - f.auxTokens)
          auxRequests := s.dev.byPen shares (fun f => Tab.getD f.srv 4 0 - f.auxRequests) }
        funcs := Tab.mapV s.dev.funcs (fun _ f => { f with auxTokens := Tab.getD f.srv 0 0, auxRequests := Tab.getD f.srv 4 0 }) })) ∧
    (s.dev.tally.auxMissing = true ∨ s.dev.power.inReset = true ∨ s.dev.power.step < 2 → exec (.auxCounts shares) s = .next s) ∧
    (s.dev.tally.auxCome = false → exec .auxCountsTimeout s = .next (s.on { s.dev with tally := { s.dev.tally with auxMissing := true } })) ∧
    (s.dev.tally.auxCome = true → exec .auxCountsTimeout s = .next s)) ∧
  (∀ (s : State) (o : Nat) (x : PulseOut), s.dev.tally.measures = true → s.dev.tally.pulses[o]? = some x →
    (x.wait = 0 → exec (.pulseEmit o) s = .next s) ∧
    (x.wait ≠ 0 → ∃ t : Tally, exec (.pulseEmit o) s = .next (s.on ({ s.dev with tally := t }.emit (.pulse o))) ∧
      t.pulses[o]? = some { x with wait := x.wait - 1 })) ∧
  (∀ (s : State) (code : Nat) (w : Bool), s.dev.tally.up = true →
    (∃ t : Tally, exec (.tallySelfCheck 0 w) s = .next (s.on { s.dev with tally := t }) ∧ t.clock = (s.dev.tally.clock + 1) % 2 ^ 64 ∧
      t.failed = s.dev.tally.failed) ∧
    (code ≠ 0 → ∃ d, exec (.tallySelfCheck code w) s = .next (s.on d) ∧ d.tally.failed = true ∧
      d.tally.clock = (s.dev.tally.clock + 1) % 2 ^ 64)) ∧
  (∀ (s : State) (mv us : Nat), s.dev.tally.measures = true →
    (∃ t : Tally, exec (.tallySupplyDip mv us) s = .next (s.on { s.dev with tally := t }) ∧ t.dips = satAdd 16 s.dev.tally.dips 1 ∧
      t.eventNext = s.dev.tally.eventNext + 1 ∧ t.domains = s.dev.tally.domains) ∧
    (∃ t : Tally, exec (.mainLow us) s = .next (s.on { s.dev with tally := t }) ∧ t.eventNext = s.dev.tally.eventNext + 1 ∧
      t.domains = s.dev.tally.domains))

/-- In every state, reached by a run or not, in which the stacks, the scratchpads, the activation buffers and the boot window
have their canonical form (addresses strictly rising, and no byte listed that an unlisted address reads as anyway), every step
that answers a next state leaves them in it, whatever command stands at the front. So two memories that read alike are one
memory, and no command makes a byte readable in two ways. That an unlisted byte reads 0 is the model's choice outside the stacks
(log entry 3). -/
def Obligations.EveryStepKeepsTheMemoriesCanonical : Prop :=
  ∀ s t : State, s.dev.memoriesCanonical = true → step s = .next t → t.dev.memoriesCanonical = true
end

