-- ==== Sys2Proof/Laws/Tables.lean ====
section
/-! SUPPORT. Laws of tables and memories: what a read gives after a write, and that every operation keeps the canonical form. -/

namespace Sys2Proof.Machine

theorem Tab.get?_put_same {α : Type} (t : Tab α) (k : Nat) (v : α) : Tab.get? (Tab.put t k v) k = some v := by
  induction t with
  | nil => simp [Tab.put, Tab.get?]
  | cons p t ih =>
    obtain ⟨j, w⟩ := p
    simp only [Tab.put]
    split
    · simp [Tab.get?]
    · split
      · simp [Tab.get?]
      · rename_i h1 h2
        simp [Tab.get?, h1, h2, ih]

theorem Tab.get?_put_ne {α : Type} (t : Tab α) {k j : Nat} (v : α) (h : j ≠ k) : Tab.get? (Tab.put t k v) j = Tab.get? t j := by
  induction t with
  | nil =>
    simp only [Tab.put, Tab.get?, if_neg h]
    split <;> rfl
  | cons p t ih =>
    obtain ⟨i, w⟩ := p
    simp only [Tab.put]
    split
    · rename_i hk
      simp only [Tab.get?, if_neg h]
      split
      · rename_i hj
        have : j ≠ i := by omega
        have : j < i := by omega
        simp [*]
      · rfl
    · split
      · rename_i h1 h2
        subst h2
        simp [Tab.get?, h]
      · simp only [Tab.get?, ih]

@[simp] theorem Tab.getD_put_same {α : Type} (t : Tab α) (k : Nat) (v d : α) : Tab.getD (Tab.put t k v) k d = v := by
  simp [Tab.getD, Tab.get?_put_same]

theorem Tab.getD_put_ne {α : Type} (t : Tab α) {k j : Nat} (v d : α) (h : j ≠ k) :
    Tab.getD (Tab.put t k v) j d = Tab.getD t j d := by
  simp [Tab.getD, Tab.get?_put_ne t v h]

/-- A write at a key reads back, and leaves every other key. -/
theorem Tab.getD_put {α : Type} (t : Tab α) (k j : Nat) (v d : α) :
    Tab.getD (Tab.put t k v) j d = if j = k then v else Tab.getD t j d := by
  split
  · subst_vars; simp
  · exact Tab.getD_put_ne t v d ‹_›

/-! The canonical form. -/

/-- A table is canonical when its head's key is below every later key and its tail is canonical. -/
theorem Tab.wf_cons {α : Type} (p : Nat × α) (t : Tab α) : Tab.wf (p :: t) = true ↔ (∀ q ∈ t, p.1 < q.1) ∧ Tab.wf t = true := by
  induction t generalizing p with
  | nil => simp [Tab.wf]
  | cons q t ih =>
    simp only [Tab.wf, Bool.and_eq_true, decide_eq_true_eq, ih q, List.mem_cons, forall_eq_or_imp]
    constructor
    · rintro ⟨h, h1, h2⟩; exact ⟨⟨h, fun x hx => h.trans (h1 x hx)⟩, h1, h2⟩
    · rintro ⟨⟨h, _⟩, h1, h2⟩; exact ⟨h, h1, h2⟩

@[simp] theorem Tab.wf_nil {α : Type} : Tab.wf ([] : Tab α) = true := rfl

/-- An entry of a table after `put` is the new one or an old one. -/
theorem Tab.mem_put {α : Type} (t : Tab α) (k : Nat) (v : α) (q : Nat × α) (h : q ∈ Tab.put t k v) : q = (k, v) ∨ q ∈ t := by
  induction t with
  | nil => simp [Tab.put] at h; simp [h]
  | cons p t ih =>
    simp only [Tab.put] at h
    split at h
    · simpa using h
    · split at h
      · rcases List.mem_cons.1 h with h | h <;> simp [h]
      · rcases List.mem_cons.1 h with h | h
        · simp [h]
        · rcases ih h with h | h <;> simp [h]

theorem Tab.mem_del {α : Type} (t : Tab α) (k : Nat) (q : Nat × α) (h : q ∈ Tab.del t k) : q ∈ t := by
  induction t with
  | nil => simp [Tab.del] at h
  | cons p t ih =>
    simp only [Tab.del] at h
    split at h
    · exact h
    · split at h
      · simp [h]
      · rcases List.mem_cons.1 h with h | h
        · simp [h]
        · simp [ih h]

theorem Tab.wf_put {α : Type} (t : Tab α) (k : Nat) (v : α) (h : Tab.wf t = true) : Tab.wf (Tab.put t k v) = true := by
  induction t with
  | nil => rfl
  | cons p t ih =>
    obtain ⟨h1, h2⟩ := (Tab.wf_cons p t).1 h
    simp only [Tab.put]
    split
    · rename_i hk
      refine (Tab.wf_cons _ _).2 ⟨?_, h⟩
      rintro q (_ | ⟨_, hq⟩)
      · exact hk
      · exact hk.trans (h1 q hq)
    · split
      · rename_i hk
        exact (Tab.wf_cons _ _).2 ⟨fun q hq => by subst hk; exact h1 q hq, h2⟩
      · refine (Tab.wf_cons _ _).2 ⟨fun q hq => ?_, ih h2⟩
        rcases Tab.mem_put t k v q hq with rfl | hq
        · simp only; omega
        · exact h1 q hq

theorem Tab.wf_del {α : Type} (t : Tab α) (k : Nat) (h : Tab.wf t = true) : Tab.wf (Tab.del t k) = true := by
  induction t with
  | nil => rfl
  | cons p t ih =>
    obtain ⟨h1, h2⟩ := (Tab.wf_cons p t).1 h
    simp only [Tab.del]
    split
    · exact h
    · split
      · exact h2
      · exact (Tab.wf_cons _ _).2 ⟨fun q hq => h1 q (Tab.mem_del t k q hq), ih h2⟩

theorem Tab.wf_filter {α : Type} (t : Tab α) (f : Nat × α → Bool) (h : Tab.wf t = true) : Tab.wf (t.filter f) = true := by
  induction t with
  | nil => rfl
  | cons p t ih =>
    obtain ⟨h1, h2⟩ := (Tab.wf_cons p t).1 h
    simp only [List.filter]
    split
    · exact (Tab.wf_cons _ _).2 ⟨fun q hq => h1 q (List.mem_filter.1 hq).1, ih h2⟩
    · exact ih h2

/-! Reading after deleting. -/

theorem Tab.get?_none_of_lt {α : Type} (t : Tab α) (k : Nat) (h : ∀ q ∈ t, k < q.1) : Tab.get? t k = none := by
  cases t with
  | nil => rfl
  | cons p t =>
    have := h p (by simp)
    simp only [Tab.get?]
    rw [if_neg (by omega), if_pos this]

theorem Tab.get?_del {α : Type} (t : Tab α) (k j : Nat) (h : Tab.wf t = true) :
    Tab.get? (Tab.del t k) j = if j = k then none else Tab.get? t j := by
  induction t with
  | nil => simp [Tab.del, Tab.get?]
  | cons p t ih =>
    obtain ⟨h1, h2⟩ := (Tab.wf_cons p t).1 h
    obtain ⟨i, w⟩ := p
    simp only [Tab.del]
    split
    · split
      · subst_vars
        simp only [Tab.get?]
        rw [if_neg (by omega), if_pos (by assumption)]
      · rfl
    · split
      · rename_i h3 h4
        subst h4
        split
        · rename_i h5; subst h5; exact Tab.get?_none_of_lt t _ h1
        · rename_i h5
          simp only [Tab.get?, if_neg h5]
          split
          · exact Tab.get?_none_of_lt t j (fun q hq => by have := h1 q hq; simp only at this; omega)
          · rfl
      · rename_i h3 h4
        simp only [Tab.get?, ih h2]
        by_cases h5 : j = k
        · subst h5
          rw [if_neg (by omega), if_neg (by omega)]; simp
        · simp [h5]

/-! Memories. -/

theorem Mem.wf_iff (m : Mem) : Mem.wf m = true ↔ Tab.wf m = true ∧ ∀ c ∈ m, c.2 ≠ Mem.unlisted := by
  simp [Mem.wf]

@[simp] theorem Mem.wf_nil : Mem.wf [] = true := rfl

/-- A write of a byte keeps the canonical form. -/
theorem Mem.wf_set (m : Mem) (a : Nat) (b : Byte) (h : Mem.wf m = true) : Mem.wf (Mem.set m a b) = true := by
  obtain ⟨h1, h2⟩ := (Mem.wf_iff m).1 h
  unfold Mem.set
  split
  · exact (Mem.wf_iff _).2 ⟨Tab.wf_del m a h1, fun c hc => h2 c (Tab.mem_del m a c hc)⟩
  · refine (Mem.wf_iff _).2 ⟨Tab.wf_put m a b h1, fun c hc => ?_⟩
    rcases Tab.mem_put m a b c hc with rfl | hc
    · assumption
    · exact h2 c hc

/-- A write of bytes keeps the canonical form. -/
theorem Mem.wf_write (bs : List Byte) (m : Mem) (a : Nat) (h : Mem.wf m = true) : Mem.wf (Mem.write m a bs) = true := by
  induction bs generalizing m a with
  | nil => exact h
  | cons b bs ih => exact ih _ _ (Mem.wf_set m a b h)

theorem Mem.wf_writeLE (m : Mem) (a n v : Nat) (h : Mem.wf m = true) : Mem.wf (Mem.writeLE m a n v) = true := Mem.wf_write _ m a h

theorem Mem.wf_filter (m : Mem) (f : Host.Cell → Bool) (h : Mem.wf m = true) : Mem.wf (m.filter f) = true := by
  obtain ⟨h1, h2⟩ := (Mem.wf_iff m).1 h
  exact (Mem.wf_iff _).2 ⟨Tab.wf_filter m f h1, fun c hc => h2 c (List.mem_filter.1 hc).1⟩

/-- Clearing a range keeps the canonical form. -/
theorem Mem.wf_zero (m : Mem) (a n : Nat) (h : Mem.wf m = true) : Mem.wf (Mem.zero m a n) = true := Mem.wf_filter m _ h

/-- A byte written reads back, and every other address reads as before. -/
theorem Mem.get_set (m : Mem) (a x : Nat) (b : Byte) (h : Mem.wf m = true) :
    Mem.get (Mem.set m a b) x = if x = a then b else Mem.get m x := by
  obtain ⟨h1, _⟩ := (Mem.wf_iff m).1 h
  unfold Mem.set
  split
  · rename_i hb
    simp only [Mem.get, Tab.getD, Tab.get?_del m a x h1]
    split <;> simp [hb]
  · simp only [Mem.get, Tab.getD_put]

/-- Bytes written read back, and every address outside them reads as before. -/
theorem Mem.get_write (bs : List Byte) (m : Mem) (a x : Nat) (h : Mem.wf m = true) :
    Mem.get (Mem.write m a bs) x = if a ≤ x ∧ x < a + bs.length then bs.getD (x - a) 0#8 else Mem.get m x := by
  induction bs generalizing m a with
  | nil => simp [Mem.write]
  | cons b bs ih =>
    simp only [Mem.write, ih _ _ (Mem.wf_set m a b h), Mem.get_set m a x b h, List.length_cons]
    by_cases h1 : x = a
    · subst h1; simp
    · by_cases h2 : a + 1 ≤ x ∧ x < a + 1 + bs.length
      · have h3 : x - a = x - (a + 1) + 1 := by omega
        rw [if_pos h2, if_pos (by omega), h3]; simp
      · rw [if_neg h2, if_neg h1, if_neg (by omega)]

theorem Tab.get?_filter {α : Type} (t : Tab α) (f : Nat → Bool) (j : Nat) (h : Tab.wf t = true) :
    Tab.get? (t.filter (fun q => f q.1)) j = if f j then Tab.get? t j else none := by
  induction t with
  | nil => simp [Tab.get?]
  | cons p t ih =>
    obtain ⟨h1, h2⟩ := (Tab.wf_cons p t).1 h
    obtain ⟨i, w⟩ := p
    simp only [List.filter]
    by_cases hj : j = i
    · subst hj
      split
      · rename_i hf; simp [hf, Tab.get?]
      · rename_i hf
        simp only [ih h2, hf, Tab.get?]; simp
    · split
      · simp only [Tab.get?, if_neg hj, ih h2]
        split
        · split <;> rfl
        · rfl
      · simp only [ih h2, Tab.get?, if_neg hj]
        split
        · split
          · exact Tab.get?_none_of_lt t j (fun q hq => by have := h1 q hq; simp only at this; omega)
          · rfl
        · rfl

/-- A cleared range reads 0, and every address outside it as before. -/
theorem Mem.get_zero (m : Mem) (a n x : Nat) (h : Mem.wf m = true) :
    Mem.get (Mem.zero m a n) x = if a ≤ x ∧ x < a + n then 0#8 else Mem.get m x := by
  obtain ⟨h1, _⟩ := (Mem.wf_iff m).1 h
  have := Tab.get?_filter m (fun k => decide (k < a) || decide (a + n ≤ k)) x h1
  simp only [Mem.get, Tab.getD, Mem.zero, this]
  by_cases hx : a ≤ x ∧ x < a + n
  · have h3 : ¬ (x < a) := by omega
    have h4 : ¬ (a + n ≤ x) := by omega
    simp [hx, h3, h4, Mem.unlisted]
  · have : x < a ∨ a + n ≤ x := by omega
    rw [if_neg hx]
    rcases this with h5 | h5 <;> simp [h5]

/-- `Tab.mod` at a key gives the changed value there, and leaves every other key. -/
theorem Tab.getD_mod {α : Type} (t : Tab α) (k j : Nat) (v : α) (f : α → α) :
    Tab.getD (Tab.mod t k v f) j v = if j = k then f (Tab.getD t k v) else Tab.getD t j v := by
  simp only [Tab.mod, Tab.getD_put]

theorem Tab.get?_upd {α : Type} (t : Tab α) (k j : Nat) (f : α → α) :
    Tab.get? (Tab.upd t k f) j = if j = k then (Tab.get? t j).map f else Tab.get? t j := by
  induction t with
  | nil => simp [Tab.upd, Tab.get?]
  | cons p t ih =>
    obtain ⟨i, w⟩ := p
    simp only [Tab.upd, List.map_cons] at ih ⊢
    by_cases hi : i = k
    · subst hi
      simp only [Tab.get?, ↓reduceIte]
      by_cases hj : j = i
      · simp [hj]
      · simp only [if_neg hj] at ih ⊢
        split
        · rfl
        · exact ih
    · simp only [if_neg hi, Tab.get?]
      by_cases hj : j = i
      · subst hj; simp [hi]
      · simp only [if_neg hj]
        split
        · simp
        · exact ih

theorem Tab.get?_mapV {α : Type} (t : Tab α) (f : Nat → α → α) (j : Nat) :
    Tab.get? (Tab.mapV t f) j = (Tab.get? t j).map (f j) := by
  induction t with
  | nil => rfl
  | cons p t ih =>
    obtain ⟨i, w⟩ := p
    simp only [Tab.mapV, List.map_cons, Tab.get?] at ih ⊢
    split
    · subst_vars; rfl
    · split
      · rfl
      · exact ih

end Sys2Proof.Machine
end

