-- ==== Sys2Proof/Laws/Canonical.lean ====
section
/-! SUPPORT. Canonical memories: how an operation that keeps them is put together from operations that do. The files
Canonical<Group>.lean say it of every operation on the package, one lemma `<operation>_canon` for each. -/

namespace Sys2Proof.Machine

open Sys2Proof

/-- Four memories in canonical form. -/
def Canon4 (a b c e : Mem) : Prop := Mem.wf a = true ∧ Mem.wf b = true ∧ Mem.wf c = true ∧ Mem.wf e = true

/-- The memories of `d` have their canonical form. -/
def Dev.Canon (d : Dev) : Prop := Canon4 d.mem d.spad d.abuf d.power.windowMem

/-- What a service leaves has canonical memories. -/
def Svc.Canon (x : Svc) : Prop := ∀ r d, x = .ok (r, d) → d.Canon

theorem canon_iff (d : Dev) : d.Canon ↔ d.memoriesCanonical = true := by
  simp [Dev.Canon, Canon4, Dev.memoriesCanonical, and_assoc]

theorem canon4_of {d : Dev} (h : d.Canon) : Canon4 d.mem d.spad d.abuf d.power.windowMem := h

theorem canon_ite {c : Prop} [Decidable c] {a b : Dev} (ha : a.Canon) (hb : b.Canon) : (if c then a else b).Canon := by
  split <;> assumption

theorem canon_foldl {α : Type} {f : Dev → α → Dev} {l : List α} {d : Dev} (hf : ∀ d x, d.Canon → (f d x).Canon) (h : d.Canon) :
    (l.foldl f d).Canon := by
  induction l generalizing d with
  | nil => exact h
  | cons x l ih => exact ih (hf d x h)

theorem canon_snd {α : Type} {e : α × Dev} {r : α} {d : Dev} (h : e = (r, d)) (hc : e.2.Canon) : d.Canon := by rw [h] at hc; exact hc

theorem canon_fst {α : Type} {e : Dev × α} {r : α} {d : Dev} (h : e = (d, r)) (hc : e.1.Canon) : d.Canon := by rw [h] at hc; exact hc

theorem svc_ok {r : Reply} {d : Dev} (h : d.Canon) : Svc.Canon (.ok (r, d)) := by
  intro _ _ h'
  cases h'
  exact h

theorem svc_pure {r : Reply} {d : Dev} (h : d.Canon) : Svc.Canon (pure (r, d)) := svc_ok h

theorem svc_error {e : Refuse} : Svc.Canon (.error e) := by
  intro _ _ h
  cases h

theorem svc_bind {α : Type} {x : Except Refuse α} {f : α → Svc} (h : ∀ a, x = .ok a → Svc.Canon (f a)) : Svc.Canon (x >>= f) := by
  intro r d hr
  cases x with
  | error e => cases hr
  | ok a => exact h a rfl r d hr


/-- What a check that changes the package leaves has canonical memories. -/
def Chk.Canon (x : Except Refuse Dev) : Prop := ∀ d, x = .ok d → d.Canon

theorem chk_ok {d : Dev} (h : d.Canon) : Chk.Canon (.ok d) := by
  intro _ h'
  cases h'
  exact h

theorem chk_pure {d : Dev} (h : d.Canon) : Chk.Canon (pure d) := chk_ok h

theorem chk_error {e : Refuse} : Chk.Canon (.error e) := by
  intro _ h
  cases h

theorem chk_bind {α : Type} {x : Except Refuse α} {f : α → Except Refuse Dev} (h : ∀ a, x = .ok a → Chk.Canon (f a)) :
    Chk.Canon (x >>= f) := by
  intro d hr
  cases x with
  | error e => cases hr
  | ok a => exact h a rfl d hr

theorem svc_bind_dev {x : Except Refuse Dev} {f : Dev → Svc} (hx : Chk.Canon x) (h : ∀ a, a.Canon → Svc.Canon (f a)) :
    Svc.Canon (x >>= f) := svc_bind (fun a ha => h a (hx a ha))

theorem canon4_mem {a b c e a' : Mem} (h : Canon4 a b c e) (hm : Mem.wf a = true → Mem.wf a' = true) : Canon4 a' b c e :=
  ⟨hm h.1, h.2⟩

theorem canon4_spad {a b c e b' : Mem} (h : Canon4 a b c e) (hm : Mem.wf b = true → Mem.wf b' = true) : Canon4 a b' c e :=
  ⟨h.1, hm h.2.1, h.2.2⟩

theorem canon4_abuf {a b c e c' : Mem} (h : Canon4 a b c e) (hm : Mem.wf c = true → Mem.wf c' = true) : Canon4 a b c' e :=
  ⟨h.1, h.2.1, hm h.2.2.1, h.2.2.2⟩

theorem canon4_window {a b c e e' : Mem} (h : Canon4 a b c e) (hm : Mem.wf e = true → Mem.wf e' = true) : Canon4 a b c e' :=
  ⟨h.1, h.2.1, h.2.2.1, hm h.2.2.2⟩

theorem Power.evaluate_window (p : Power) (w : Nat) : (p.evaluate w).windowMem = p.windowMem := by
  unfold Power.evaluate
  dsimp only
  repeat' split
  all_goals rfl

theorem Power.change_window (p : Power) (f : Power → Power) (h : (f p).windowMem = p.windowMem) : (p.change f).windowMem = p.windowMem := by
  rw [← h]
  unfold Power.change
  dsimp only
  repeat' split
  all_goals rfl

theorem canon_ite_snd {α : Type} {c : Prop} [Decidable c] {a b : α × Dev} (ha : a.2.Canon) (hb : b.2.Canon) :
    (if c then a else b).2.Canon := by
  split <;> assumption

theorem canon_ite_fst {α : Type} {c : Prop} [Decidable c] {a b : Dev × α} (ha : a.1.Canon) (hb : b.1.Canon) :
    (if c then a else b).1.Canon := by
  split <;> assumption

theorem canon_foldl_snd {α β : Type} {f : β × Dev → α → β × Dev} {l : List α} {d : β × Dev}
    (hf : ∀ d x, d.2.Canon → (f d x).2.Canon) (h : d.2.Canon) : (l.foldl f d).2.Canon := by
  induction l generalizing d with
  | nil => exact h
  | cons x l ih => exact ih (hf d x h)

theorem canon_foldl_fst {α β : Type} {f : Dev × β → α → Dev × β} {l : List α} {d : Dev × β}
    (hf : ∀ d x, d.1.Canon → (f d x).1.Canon) (h : d.1.Canon) : (l.foldl f d).1.Canon := by
  induction l generalizing d with
  | nil => exact h
  | cons x l ih => exact ih (hf d x h)

theorem canon_foldl_mid {α β γ : Type} {f : β × Dev × γ → α → β × Dev × γ} {l : List α} {d : β × Dev × γ}
    (hf : ∀ d x, d.2.1.Canon → (f d x).2.1.Canon) (h : d.2.1.Canon) : (l.foldl f d).2.1.Canon := by
  induction l generalizing d with
  | nil => exact h
  | cons x l ih => exact ih (hf d x h)

/-- What an operation that may not happen leaves has canonical memories. -/
def Opt.Canon (x : Option Dev) : Prop := ∀ d, x = some d → d.Canon

theorem opt_some {d : Dev} (h : d.Canon) : Opt.Canon (some d) := by
  intro _ h'
  cases h'
  exact h

theorem opt_none : Opt.Canon none := by
  intro _ h
  cases h

theorem opt_of {x : Option Dev} {d : Dev} (h : x = some d) (hx : Opt.Canon x) : d.Canon := hx d h

theorem canon_getD {x : Option Dev} {d : Dev} (hx : Opt.Canon x) (hd : d.Canon) : (x.getD d).Canon := by
  cases x with
  | none => exact hd
  | some e => exact hx e rfl

theorem opt_map {α : Type} {x : Option α} {f : α → Dev} (h : ∀ a, (f a).Canon) : Opt.Canon (x.map f) := by
  intro d hd
  cases x with
  | none => cases hd
  | some a => cases hd; exact h a

theorem opt_bind {x : Option Dev} {f : Dev → Option Dev} (hx : Opt.Canon x) (h : ∀ d, d.Canon → Opt.Canon (f d)) : Opt.Canon (x.bind f) := by
  intro d hd
  cases x with
  | none => cases hd
  | some a => exact h a (hx a rfl) d hd

theorem opt_map_dev {x : Option Dev} {f : Dev → Dev} (hx : Opt.Canon x) (h : ∀ d, d.Canon → (f d).Canon) : Opt.Canon (x.map f) := by
  intro d hd
  cases x with
  | none => cases hd
  | some a => cases hd; exact h a (hx a rfl)

theorem opt_foldl {α : Type} {f : Option Dev → α → Option Dev} {l : List α} {d : Option Dev}
    (hf : ∀ d x, Opt.Canon d → Opt.Canon (f d x)) (h : Opt.Canon d) : Opt.Canon (l.foldl f d) := by
  induction l generalizing d with
  | nil => exact h
  | cons x l ih => exact ih (hf d x h)

theorem canon_foldl_last {α β γ : Type} {f : β × γ × Dev → α → β × γ × Dev} {l : List α} {d : β × γ × Dev}
    (hf : ∀ d x, d.2.2.Canon → (f d x).2.2.Canon) (h : d.2.2.Canon) : (l.foldl f d).2.2.Canon := by
  induction l generalizing d with
  | nil => exact h
  | cons x l ih => exact ih (hf d x h)

end Sys2Proof.Machine
end

