-- ==== Sys2Proof/Laws/CanonicalHost.lean ====
section
/-! SUPPORT. Canonical memories are kept by mailboxes, services, faults and links as the host meets them. -/

namespace Sys2Proof.Machine

open Sys2Proof

theorem Dev.modBeat_canon (d : Dev) (f : Beat → Beat) (hd : Dev.Canon d) : Dev.Canon (Dev.modBeat d f) := by
  unfold Dev.modBeat
  repeat' (first | with_reducible assumption | (unfold Dev.Canon; dsimp only; with_reducible apply canon4_of))

theorem Dev.modFunc_canon (d : Dev) (f : Nat) (g : Func → Func) (hd : Dev.Canon d) : Dev.Canon (Dev.modFunc d f g) := by
  unfold Dev.modFunc
  try dsimp only
  repeat' (first | with_reducible assumption | (unfold Dev.Canon; dsimp only; with_reducible apply canon4_of))

theorem Dev.modPasture_canon (d : Dev) (p : Nat) (g : Pasture → Pasture) (hd : Dev.Canon d) : Dev.Canon (Dev.modPasture d p g) := by
  unfold Dev.modPasture
  repeat' (first | with_reducible assumption | (unfold Dev.Canon; dsimp only; with_reducible apply canon4_of))

theorem Dev.emit_canon (d : Dev) (o : Out) (hd : Dev.Canon d) : Dev.Canon (Dev.emit d o) := by
  unfold Dev.emit
  repeat' (first | with_reducible assumption | (unfold Dev.Canon; dsimp only; with_reducible apply canon4_of))

theorem Dev.vector_canon (d : Dev) (f v : Nat) (hd : Dev.Canon d) : Dev.Canon (Dev.vector d f v) := by
  unfold Dev.vector
  try dsimp only
  repeat' (first
      | with_reducible assumption | with_reducible apply Dev.emit_canon | with_reducible apply Dev.modFunc_canon
      | with_reducible apply canon_ite | split)

theorem Dev.event_canon (d : Dev) (f b v : Nat) (hd : Dev.Canon d) : Dev.Canon (Dev.event d f b v) := by
  unfold Dev.event
  try dsimp only
  repeat' (first | with_reducible assumption | with_reducible apply Dev.vector_canon | with_reducible apply Dev.modFunc_canon)

theorem Dev.eventAll_canon (d : Dev) (b v : Nat) (hd : Dev.Canon d) : Dev.Canon (Dev.eventAll d b v) := by
  unfold Dev.eventAll
  try dsimp only
  repeat' (first | with_reducible assumption | with_reducible apply Dev.event_canon | (with_reducible apply canon_foldl; intro _ _ _))

theorem Dev.stepEvent_canon (d : Dev) (p : Nat) (hd : Dev.Canon d) : Dev.Canon (Dev.stepEvent d p) := by
  unfold Dev.stepEvent
  try dsimp only
  repeat' (first | with_reducible assumption | with_reducible apply Dev.event_canon | split)

theorem Dev.errAdd_canon (d : Dev) (die core i n : Nat) (hd : Dev.Canon d) : Dev.Canon (Dev.errAdd d die core i n) := by
  unfold Dev.errAdd
  try dsimp only
  repeat' (first
      | with_reducible assumption | with_reducible apply canon_ite | split | (unfold Dev.Canon; dsimp only; with_reducible apply canon4_of))

theorem Dev.srvAdd_canon (d : Dev) (f i n : Nat) (hd : Dev.Canon d) : Dev.Canon (Dev.srvAdd d f i n) := by
  unfold Dev.srvAdd
  try dsimp only
  repeat' (first | with_reducible assumption | with_reducible apply Dev.modFunc_canon | with_reducible apply canon_ite)

theorem Dev.modGroup_canon (d : Dev) (g : Nat) (f : Group → Group) (hd : Dev.Canon d) : Dev.Canon (Dev.modGroup d g f) := by
  unfold Dev.modGroup
  repeat' (first | with_reducible assumption | (unfold Dev.Canon; dsimp only; with_reducible apply canon4_of))

theorem Dev.draw_canon (d : Dev) (n : Nat) (hd : Dev.Canon d) : Dev.Canon (Dev.draw d n).2 := by
  unfold Dev.draw
  repeat' (first | with_reducible assumption | dsimp only | (unfold Dev.Canon; dsimp only; with_reducible apply canon4_of))

theorem Dev.signalFault_canon (d : Dev) (p : Nat) (hd : Dev.Canon d) : Dev.Canon (Dev.signalFault d p) := by
  unfold Dev.signalFault
  try dsimp only
  repeat' (first | with_reducible assumption | with_reducible apply Dev.event_canon | with_reducible apply canon_ite | split)

theorem Dev.faultRoom_canon (d : Dev) (hd : Dev.Canon d) : Dev.Canon (Dev.faultRoom d) := by
  unfold Dev.faultRoom
  try dsimp only
  repeat' (first
      | with_reducible assumption | with_reducible apply Dev.errAdd_canon | with_reducible apply canon_ite | split
      | (unfold Dev.Canon; dsimp only; with_reducible apply canon4_of))

theorem Dev.record_canon (d : Dev) (code die core disp unit pasture link info : Nat) (hd : Dev.Canon d) : Dev.Canon (Dev.record d code die core disp unit pasture link info) := by
  unfold Dev.record
  try dsimp only
  repeat' (first
      | with_reducible assumption | with_reducible apply Dev.signalFault_canon | with_reducible apply Dev.faultRoom_canon
      | (unfold Dev.Canon; dsimp only; with_reducible apply canon4_of))

theorem Dev.notice_canon (d : Dev) (code die core pasture info : Nat) (hd : Dev.Canon d) : Dev.Canon (Dev.notice d code die core pasture info) := by
  unfold Dev.notice
  repeat' (first | with_reducible assumption | with_reducible apply Dev.record_canon)

theorem Dev.modFault_canon (d : Dev) (q : Nat) (f : FaultRec → FaultRec) (hd : Dev.Canon d) : Dev.Canon (Dev.modFault d q f) := by
  unfold Dev.modFault
  try dsimp only
  repeat' (first
      | with_reducible assumption | with_reducible apply canon_ite | with_reducible intro _ | split
      | (unfold Dev.Canon; dsimp only; with_reducible apply canon4_of))

theorem Dev.setDisp_canon (d : Dev) (q disp escto link : Nat) (hd : Dev.Canon d) : Dev.Canon (Dev.setDisp d q disp escto link) := by
  unfold Dev.setDisp
  try dsimp only
  repeat' (first
      | with_reducible assumption | with_reducible apply Dev.modFault_canon | with_reducible apply Dev.signalFault_canon
      | with_reducible apply canon_ite | split)

theorem Dev.perfAdd_canon (d : Dev) (die core g i n : Nat) (hd : Dev.Canon d) : Dev.Canon (Dev.perfAdd d die core g i n) := by
  unfold Dev.perfAdd
  try dsimp only
  repeat' (first
      | with_reducible assumption | with_reducible apply Dev.notice_canon | with_reducible apply canon_ite | split
      | (unfold Dev.Canon; dsimp only; with_reducible apply canon4_of))

theorem Dev.newHandle_canon (d : Dev) (f tag : Nat) (w : Work) (hd : Dev.Canon d) : Dev.Canon (Dev.newHandle d f tag w).2 := by
  unfold Dev.newHandle
  try dsimp only
  repeat' (first
      | with_reducible assumption | with_reducible apply Dev.modFunc_canon | with_reducible intro _ | dsimp only
      | (unfold Dev.Canon; dsimp only; with_reducible apply canon4_of))

theorem Dev.setWork_canon (d : Dev) (h : Nat) (w : Work) (hd : Dev.Canon d) : Dev.Canon (Dev.setWork d h w) := by
  unfold Dev.setWork
  try dsimp only
  repeat' (first | with_reducible assumption | (unfold Dev.Canon; dsimp only; with_reducible apply canon4_of))

theorem Dev.finishAt_canon (d : Dev) (h status beat : Nat) (res : List Nat) (ruled : Bool) (hd : Dev.Canon d) : Dev.Canon (Dev.finishAt d h status beat res ruled) := by
  unfold Dev.finishAt
  try dsimp only
  repeat' (first
      | with_reducible assumption | with_reducible apply Dev.setWork_canon | with_reducible apply Dev.modFunc_canon
      | with_reducible apply canon_ite | with_reducible intro _ | split | (unfold Dev.Canon; dsimp only; with_reducible apply canon4_of))

theorem Dev.finish_canon (d : Dev) (h status : Nat) (res : List Nat) (hd : Dev.Canon d) : Dev.Canon (Dev.finish d h status res) := by
  unfold Dev.finish
  repeat' (first | with_reducible assumption | with_reducible apply Dev.finishAt_canon)

theorem Dev.finishIn_canon (d : Dev) (h status : Nat) (res : List Nat) (hd : Dev.Canon d) : Dev.Canon (Dev.finishIn d h status res) := by
  unfold Dev.finishIn
  repeat' (first | with_reducible assumption | with_reducible apply Dev.finishAt_canon)

theorem Dev.hostError_canon (d : Dev) (h : Nat) (hd : Dev.Canon d) : Dev.Canon (Dev.hostError d h) := by
  unfold Dev.hostError
  try dsimp only
  repeat' (first
      | with_reducible assumption | with_reducible apply Dev.event_canon | with_reducible apply Dev.notice_canon
      | with_reducible apply Dev.finish_canon | with_reducible apply canon_ite | split)

theorem Dev.hostPut_canon (d : Dev) (h addr : Nat) (data : List Byte) (ok : Bool) (hd : Dev.Canon d) : Dev.Canon (Dev.hostPut d h addr data ok) := by
  unfold Dev.hostPut
  repeat' (first
      | with_reducible assumption | with_reducible apply Dev.hostError_canon | with_reducible apply Dev.emit_canon
      | with_reducible apply canon_ite)

theorem Dev.calPlace_canon (d : Dev) (e : CalEntry) (hd : Dev.Canon d) : Dev.Canon (Dev.calPlace d e) := by
  unfold Dev.calPlace
  repeat' (first | with_reducible assumption | (unfold Dev.Canon; dsimp only; with_reducible apply canon4_of))

theorem Dev.calDrop_canon (d : Dev) (p : CalEntry → Bool) (hd : Dev.Canon d) : Dev.Canon (Dev.calDrop d p) := by
  unfold Dev.calDrop
  try dsimp only
  repeat' (first | with_reducible assumption | (unfold Dev.Canon; dsimp only; with_reducible apply canon4_of))

theorem Dev.softRepair_canon (d : Dev) (die kind u : Nat) (hd : Dev.Canon d) : Dev.Canon (Dev.softRepair d die kind u) := by
  unfold Dev.softRepair
  repeat' (first | with_reducible assumption | (unfold Dev.Canon; dsimp only; with_reducible apply canon4_of))

theorem Dev.modMailbox_canon (d : Dev) (f m : Nat) (g : Mailbox → Mailbox) (hd : Dev.Canon d) : Dev.Canon (Dev.modMailbox d f m g) := by
  unfold Dev.modMailbox
  try dsimp only
  repeat' (first | with_reducible assumption | with_reducible apply Dev.modFunc_canon)

theorem Dev.ring_canon (d : Dev) (f m : Nat) (hd : Dev.Canon d) : Dev.Canon (Dev.ring d f m) := by
  unfold Dev.ring
  try dsimp only
  repeat' (first
      | with_reducible assumption | with_reducible apply Dev.reply_canon | with_reducible apply Dev.modMailbox_canon
      | with_reducible apply Dev.modFunc_canon | with_reducible apply canon_ite | split)

theorem Dev.took_canon (d : Dev) (c : Door) (opcode : Nat) (hd : Dev.Canon d) : Dev.Canon (Dev.took d c opcode) := by
  unfold Dev.took
  try dsimp only
  repeat' (first | with_reducible assumption | with_reducible apply Dev.modMailbox_canon | with_reducible apply canon_ite)

theorem Dev.putReply_canon (d : Dev) (c : Door) (r : List Byte) (hd : Dev.Canon d) : Dev.Canon (Dev.putReply d c r) := by
  unfold Dev.putReply
  try dsimp only
  repeat' (first | with_reducible assumption | with_reducible apply Dev.reply_canon | with_reducible apply Dev.modMailbox_canon)

theorem Dev.endService_canon (d : Dev) (c : Door) (x : Svc) (hd : d.Canon) (hx : x.Canon) : (d.endService c x).Canon := by
  unfold Dev.endService
  split
  · exact Dev.putReply_canon _ _ _ hd
  · exact Dev.putReply_canon _ _ _ (hx _ _ rfl)

theorem Dev.serve_canon (d : Dev) (c : Door) (opcode : Nat) (svc : Dev → Door → Svc) (hd : d.Canon)
    (hs : ∀ e : Dev, e.Canon → (svc e c).Canon) : (d.serve c opcode svc).Canon := by
  unfold Dev.serve
  dsimp only
  repeat' with_reducible apply canon_ite
  · exact hd
  · exact Dev.ring_canon _ _ _ hd
  · exact Dev.endService_canon _ _ _ (Dev.took_canon _ _ _ hd) (hs _ (Dev.took_canon _ _ _ hd))

theorem Dev.modTxn_canon (d : Dev) (h : Nat) (f : Txn → Txn) (hd : Dev.Canon d) : Dev.Canon (Dev.modTxn d h f) := by
  unfold Dev.modTxn
  try dsimp only
  repeat' (first
      | with_reducible assumption | with_reducible apply canon_ite | with_reducible intro _ | split
      | (unfold Dev.Canon; dsimp only; with_reducible apply canon4_of))

theorem Dev.dropTxn_canon (d : Dev) (h : Nat) (hd : Dev.Canon d) : Dev.Canon (Dev.dropTxn d h) := by
  unfold Dev.dropTxn
  try dsimp only
  repeat' (first | with_reducible assumption | (unfold Dev.Canon; dsimp only; with_reducible apply canon4_of))

theorem Dev.rollBack_canon (d : Dev) (t : Txn) (status key reason index : Nat) (ruled : Bool) (hd : Dev.Canon d) : Dev.Canon (Dev.rollBack d t status key reason index ruled) := by
  unfold Dev.rollBack
  try dsimp only
  repeat' (first
      | with_reducible assumption | with_reducible apply Dev.finishAt_canon | with_reducible apply Dev.calDrop_canon
      | with_reducible apply Dev.dropTxn_canon | with_reducible apply canon_ite)

theorem svcCfgBegin_canon (d : Dev) (c : Door) (hd : Dev.Canon d) : Svc.Canon (svcCfgBegin d c) := by
  unfold svcCfgBegin
  try dsimp only
  repeat' (first
      | with_reducible assumption | with_reducible apply Dev.newHandle_canon | with_reducible apply svc_ok | with_reducible apply svc_pure
      | with_reducible apply svc_error | with_reducible apply svc_bind_dev | (with_reducible apply svc_bind; intro _ _)
      | with_reducible apply chk_ok | with_reducible apply chk_pure | with_reducible apply chk_error
      | (refine canon_snd (by with_reducible assumption) ?_) | (refine canon_fst (by with_reducible assumption) ?_)
      | with_reducible intro _ | dsimp only | split | (unfold Dev.Canon; dsimp only; with_reducible apply canon4_of))

theorem svcCfgSet_canon (d : Dev) (c : Door) (hd : Dev.Canon d) : Svc.Canon (svcCfgSet d c) := by
  unfold svcCfgSet
  try dsimp only
  repeat' (first
      | with_reducible assumption | with_reducible apply Dev.modTxn_canon | with_reducible apply canon_ite_snd
      | with_reducible apply canon_ite_fst | with_reducible apply svc_ok | with_reducible apply svc_pure | with_reducible apply svc_error
      | with_reducible apply svc_bind_dev | (with_reducible apply svc_bind; intro _ _) | with_reducible apply chk_ok
      | with_reducible apply chk_pure | with_reducible apply chk_error | (refine canon_snd (by with_reducible assumption) ?_)
      | (refine canon_fst (by with_reducible assumption) ?_) | with_reducible intro _ | dsimp only | split)

theorem svcCfgGet_canon (d : Dev) (c : Door) (hd : Dev.Canon d) : Svc.Canon (svcCfgGet d c) := by
  unfold svcCfgGet
  try dsimp only
  repeat' (first
      | with_reducible assumption | with_reducible apply Dev.modTxn_canon | with_reducible apply svc_ok | with_reducible apply svc_pure
      | with_reducible apply svc_error | with_reducible apply svc_bind_dev | (with_reducible apply svc_bind; intro _ _)
      | with_reducible apply chk_ok | with_reducible apply chk_pure | with_reducible apply chk_error | with_reducible intro _ | split)

theorem Dev.countCommit_canon (d : Dev) (hd : Dev.Canon d) : Dev.Canon (Dev.countCommit d) := by
  unfold Dev.countCommit
  repeat' (first | with_reducible assumption | (unfold Dev.Canon; dsimp only; with_reducible apply canon4_of))

theorem svcCfgCommit_canon (d : Dev) (c : Door) (hd : Dev.Canon d) : Svc.Canon (svcCfgCommit d c) := by
  unfold svcCfgCommit
  try dsimp only
  repeat' (first
      | with_reducible assumption | with_reducible apply Dev.rollBack_canon | with_reducible apply Dev.calPlace_canon
      | with_reducible apply Dev.countCommit_canon | with_reducible apply Dev.modTxn_canon
      | (with_reducible apply canon_foldl; intro _ _ _) | with_reducible apply svc_ok | with_reducible apply svc_pure
      | with_reducible apply svc_error | with_reducible apply svc_bind_dev | (with_reducible apply svc_bind; intro _ _)
      | with_reducible apply chk_ok | with_reducible apply chk_pure | with_reducible apply chk_error
      | (refine canon_snd (by with_reducible assumption) ?_) | (refine canon_fst (by with_reducible assumption) ?_)
      | with_reducible intro _ | dsimp only | split)

theorem svcCfgRollback_canon (d : Dev) (c : Door) (hd : Dev.Canon d) : Svc.Canon (svcCfgRollback d c) := by
  unfold svcCfgRollback
  try dsimp only
  repeat' (first
      | with_reducible assumption | with_reducible apply Dev.rollBack_canon | with_reducible apply svc_ok | with_reducible apply svc_pure
      | with_reducible apply svc_error | with_reducible apply svc_bind_dev | (with_reducible apply svc_bind; intro _ _))

theorem cfgBegin_canon (d : Dev) (c : Door) (hd : Dev.Canon d) : Dev.Canon (cfgBegin d c) := by
  unfold cfgBegin
  repeat' (first
      | with_reducible assumption | with_reducible apply Dev.serve_canon | with_reducible apply svcCfgBegin_canon | with_reducible intro _)

theorem cfgSet_canon (d : Dev) (c : Door) (hd : Dev.Canon d) : Dev.Canon (cfgSet d c) := by
  unfold cfgSet
  repeat' (first
      | with_reducible assumption | with_reducible apply svcCfgSet_canon | with_reducible apply Dev.serve_canon | with_reducible intro _)

theorem cfgGet_canon (d : Dev) (c : Door) (hd : Dev.Canon d) : Dev.Canon (cfgGet d c) := by
  unfold cfgGet
  repeat' (first
      | with_reducible assumption | with_reducible apply Dev.serve_canon | with_reducible apply svcCfgGet_canon | with_reducible intro _)

theorem cfgCommit_canon (d : Dev) (c : Door) (hd : Dev.Canon d) : Dev.Canon (cfgCommit d c) := by
  unfold cfgCommit
  repeat' (first
      | with_reducible assumption | with_reducible apply Dev.serve_canon | with_reducible apply svcCfgCommit_canon | with_reducible intro _)

theorem cfgRollback_canon (d : Dev) (c : Door) (hd : Dev.Canon d) : Dev.Canon (cfgRollback d c) := by
  unfold cfgRollback
  repeat' (first
      | with_reducible assumption | with_reducible apply Dev.serve_canon | with_reducible apply svcCfgRollback_canon
      | with_reducible intro _)

theorem finalValidation_canon (d : Dev) (h : Nat) (hd : Dev.Canon d) : Dev.Canon (finalValidation d h) := by
  unfold finalValidation
  try dsimp only
  repeat' (first
      | with_reducible assumption | with_reducible apply Dev.rollBack_canon | with_reducible apply Dev.modTxn_canon
      | with_reducible apply canon_ite | split)

theorem cfgTimeout_canon (d : Dev) (h : Nat) (hd : Dev.Canon d) : Dev.Canon (cfgTimeout d h) := by
  unfold cfgTimeout
  repeat' (first
      | with_reducible assumption | with_reducible apply Dev.dropTxn_canon | with_reducible apply Dev.finish_canon
      | with_reducible apply canon_ite | split)

theorem Dev.penWrite_canon (d : Dev) (p o : Nat) (bs : List Byte) (hd : d.Canon) : (d.penWrite p o bs).Canon :=
  canon4_mem hd (Mem.wf_write _ _ _)

theorem Dev.remap_canon (d : Dev) (hd : Dev.Canon d) : Dev.Canon (Dev.remap d) := by
  unfold Dev.remap
  try dsimp only
  repeat' (first
      | with_reducible assumption | with_reducible apply canon_ite | with_reducible intro _ | split
      | (unfold Dev.Canon; dsimp only; with_reducible apply canon4_of))

theorem svcPastureCreate_canon (d : Dev) (c : Door) (hd : Dev.Canon d) : Svc.Canon (svcPastureCreate d c) := by
  unfold svcPastureCreate
  try dsimp only
  repeat' (first
      | with_reducible assumption | with_reducible apply Dev.newHandle_canon | with_reducible apply pastureCreate_canon
      | with_reducible apply svc_ok | with_reducible apply svc_pure | with_reducible apply svc_error | with_reducible apply svc_bind_dev
      | (with_reducible apply svc_bind; intro _ _) | with_reducible apply chk_ok | with_reducible apply chk_pure
      | with_reducible apply chk_error | (refine canon_snd (by with_reducible assumption) ?_)
      | (refine canon_fst (by with_reducible assumption) ?_) | with_reducible intro _ | dsimp only | split
      | (unfold Dev.Canon; dsimp only; with_reducible apply canon4_of))

theorem svcPastureQuery_canon (d : Dev) (c : Door) (hd : Dev.Canon d) : Svc.Canon (svcPastureQuery d c) := by
  unfold svcPastureQuery
  try dsimp only
  repeat' (first
      | with_reducible assumption | with_reducible apply svc_ok | with_reducible apply svc_pure | with_reducible apply svc_error
      | with_reducible apply svc_bind_dev | (with_reducible apply svc_bind; intro _ _) | with_reducible apply chk_ok
      | with_reducible apply chk_pure | with_reducible apply chk_error | with_reducible intro _ | split)

theorem svcImageLoad_canon (d : Dev) (c : Door) (hd : Dev.Canon d) : Svc.Canon (svcImageLoad d c) := by
  unfold svcImageLoad
  try dsimp only
  repeat' (first
      | with_reducible assumption | with_reducible apply Dev.emit_canon | with_reducible apply imageLoad_canon
      | with_reducible apply Dev.newHandle_canon | with_reducible apply Dev.modPasture_canon | with_reducible apply svc_ok
      | with_reducible apply svc_pure | with_reducible apply svc_error | with_reducible apply svc_bind_dev
      | (with_reducible apply svc_bind; intro _ _) | with_reducible apply chk_ok | with_reducible apply chk_pure
      | with_reducible apply chk_error | (refine canon_snd (by with_reducible assumption) ?_)
      | (refine canon_fst (by with_reducible assumption) ?_) | with_reducible intro _ | dsimp only | split)

theorem Dev.modImage_canon (d : Dev) (p n : Nat) (f : Image → Image) (hd : Dev.Canon d) : Dev.Canon (Dev.modImage d p n f) := by
  unfold Dev.modImage
  try dsimp only
  repeat' (first | with_reducible assumption | with_reducible apply Dev.modPasture_canon)

theorem Dev.modPrefix_canon (d : Dev) (p n : Nat) (f : Prefix → Prefix) (hd : Dev.Canon d) : Dev.Canon (Dev.modPrefix d p n f) := by
  unfold Dev.modPrefix
  try dsimp only
  repeat' (first | with_reducible assumption | with_reducible apply Dev.modPasture_canon)

theorem svcImageShare_canon (d : Dev) (c : Door) (hd : Dev.Canon d) : Svc.Canon (svcImageShare d c) := by
  unfold svcImageShare
  try dsimp only
  repeat' (first
      | with_reducible assumption | with_reducible apply Dev.modImage_canon | with_reducible apply Dev.modPrefix_canon
      | with_reducible apply Dev.newHandle_canon | with_reducible apply Dev.remap_canon | with_reducible apply Dev.finish_canon
      | with_reducible apply svc_ok | with_reducible apply svc_pure | with_reducible apply svc_error | with_reducible apply svc_bind_dev
      | (with_reducible apply svc_bind; intro _ _) | with_reducible apply chk_ok | with_reducible apply chk_pure
      | with_reducible apply chk_error | (refine canon_snd (by with_reducible assumption) ?_)
      | (refine canon_fst (by with_reducible assumption) ?_) | with_reducible intro _ | dsimp only | split)

theorem svcImageReseed_canon (d : Dev) (c : Door) (hd : Dev.Canon d) : Svc.Canon (svcImageReseed d c) := by
  unfold svcImageReseed
  try dsimp only
  repeat' (first
      | with_reducible assumption | with_reducible apply Dev.emit_canon | with_reducible apply Dev.newHandle_canon
      | with_reducible apply imageReseed_canon | with_reducible apply svc_ok | with_reducible apply svc_pure
      | with_reducible apply svc_error | with_reducible apply svc_bind_dev | (with_reducible apply svc_bind; intro _ _)
      | with_reducible apply chk_ok | with_reducible apply chk_pure | with_reducible apply chk_error
      | (refine canon_snd (by with_reducible assumption) ?_) | (refine canon_fst (by with_reducible assumption) ?_)
      | with_reducible intro _ | dsimp only | split)

theorem svcImageUnload_canon (d : Dev) (c : Door) (hd : Dev.Canon d) : Svc.Canon (svcImageUnload d c) := by
  unfold svcImageUnload
  try dsimp only
  repeat' (first
      | with_reducible assumption | with_reducible apply Dev.newHandle_canon | with_reducible apply Dev.remap_canon
      | with_reducible apply Dev.finish_canon | with_reducible apply Dev.modPasture_canon | with_reducible apply svc_ok
      | with_reducible apply svc_pure | with_reducible apply svc_error | with_reducible apply svc_bind_dev
      | (with_reducible apply svc_bind; intro _ _) | with_reducible apply chk_ok | with_reducible apply chk_pure
      | with_reducible apply chk_error | (refine canon_snd (by with_reducible assumption) ?_)
      | (refine canon_fst (by with_reducible assumption) ?_) | with_reducible intro _ | dsimp only | split)

theorem pastureCreate_canon (d : Dev) (c : Door) (hd : Dev.Canon d) : Dev.Canon (pastureCreate d c) := by
  unfold pastureCreate
  repeat' (first
      | with_reducible assumption | with_reducible apply Dev.serve_canon | with_reducible apply svcPastureCreate_canon
      | with_reducible intro _)

theorem pastureQuery_canon (d : Dev) (c : Door) (hd : Dev.Canon d) : Dev.Canon (pastureQuery d c) := by
  unfold pastureQuery
  repeat' (first
      | with_reducible assumption | with_reducible apply svcPastureQuery_canon | with_reducible apply Dev.serve_canon
      | with_reducible intro _)

theorem imageLoad_canon (d : Dev) (c : Door) (hd : Dev.Canon d) : Dev.Canon (imageLoad d c) := by
  unfold imageLoad
  repeat' (first
      | with_reducible assumption | with_reducible apply svcImageLoad_canon | with_reducible apply Dev.serve_canon | with_reducible intro _)

theorem imageShare_canon (d : Dev) (c : Door) (hd : Dev.Canon d) : Dev.Canon (imageShare d c) := by
  unfold imageShare
  repeat' (first
      | with_reducible assumption | with_reducible apply Dev.serve_canon | with_reducible apply svcImageShare_canon
      | with_reducible intro _)

theorem imageReseed_canon (d : Dev) (c : Door) (hd : Dev.Canon d) : Dev.Canon (imageReseed d c) := by
  unfold imageReseed
  repeat' (first
      | with_reducible assumption | with_reducible apply Dev.serve_canon | with_reducible apply svcImageReseed_canon
      | with_reducible intro _)

theorem imageUnload_canon (d : Dev) (c : Door) (hd : Dev.Canon d) : Dev.Canon (imageUnload d c) := by
  unfold imageUnload
  repeat' (first
      | with_reducible assumption | with_reducible apply Dev.serve_canon | with_reducible apply svcImageUnload_canon
      | with_reducible intro _)

theorem Dev.modReq_canon (d : Dev) (h : Nat) (f : Request → Request) (hd : Dev.Canon d) : Dev.Canon (Dev.modReq d h f) := by
  unfold Dev.modReq
  repeat' (first | with_reducible assumption | (unfold Dev.Canon; dsimp only; with_reducible apply canon4_of))

theorem Dev.releasePage_canon (d : Dev) (n : Nat) (hd : Dev.Canon d) : Dev.Canon (Dev.releasePage d n) := by
  unfold Dev.releasePage
  repeat' (first
      | with_reducible assumption | with_reducible apply canon_ite | split | (unfold Dev.Canon; dsimp only; with_reducible apply canon4_of))

theorem Dev.releasePages_canon (d : Dev) (l : List Nat) (hd : Dev.Canon d) : Dev.Canon (Dev.releasePages d l) := by
  unfold Dev.releasePages
  repeat' (first | with_reducible assumption | with_reducible apply Dev.releasePage_canon | (with_reducible apply canon_foldl; intro _ _ _))

theorem Dev.settlePrefix_canon (d : Dev) (p n : Nat) (hd : Dev.Canon d) : Dev.Canon (Dev.settlePrefix d p n) := by
  unfold Dev.settlePrefix
  try dsimp only
  repeat' (first
      | with_reducible assumption | with_reducible apply Dev.releasePages_canon | with_reducible apply Dev.remap_canon
      | with_reducible apply Dev.finish_canon | with_reducible apply Dev.modPasture_canon | with_reducible apply canon_ite
      | with_reducible intro _ | split)

theorem Dev.unholdPrefix_canon (d : Dev) (pfx : Option Nat) (hd : Dev.Canon d) : Dev.Canon (Dev.unholdPrefix d pfx) := by
  unfold Dev.unholdPrefix
  try dsimp only
  repeat' (first
      | with_reducible assumption | with_reducible apply Dev.modPrefix_canon | with_reducible apply Dev.settlePrefix_canon | split)

theorem Dev.resweep_canon (d : Dev) (p : Nat) (hd : Dev.Canon d) : Dev.Canon (Dev.resweep d p) := by
  unfold Dev.resweep
  try dsimp only
  repeat' (first | with_reducible assumption | with_reducible apply Dev.calDrop_canon | with_reducible apply Dev.calPlace_canon | split)

theorem Dev.leaveBatches_canon (d : Dev) (h : Nat) (hd : Dev.Canon d) : Dev.Canon (Dev.leaveBatches d h) := by
  unfold Dev.leaveBatches
  try dsimp only
  repeat' (first
      | with_reducible assumption | with_reducible apply canon_ite | with_reducible intro _ | split
      | (unfold Dev.Canon; dsimp only; with_reducible apply canon4_of))

theorem Dev.closeReq_canon (d : Dev) (h status cmds : Nat) (hd : Dev.Canon d) : Dev.Canon (Dev.closeReq d h status cmds) := by
  unfold Dev.closeReq
  try dsimp only
  repeat' (first
      | with_reducible assumption | with_reducible apply Dev.leaveBatches_canon | with_reducible apply Dev.unholdPrefix_canon
      | with_reducible apply Dev.resweep_canon | with_reducible apply Dev.finishIn_canon | with_reducible apply Dev.releasePages_canon
      | with_reducible apply Dev.modPasture_canon | with_reducible apply canon_ite | with_reducible apply canon_ite_snd
      | with_reducible apply canon_ite_fst | (with_reducible apply canon_foldl; intro _ _ _)
      | (refine canon_snd (by with_reducible assumption) ?_) | (refine canon_fst (by with_reducible assumption) ?_)
      | with_reducible intro _ | dsimp only | split | (unfold Dev.Canon; dsimp only; with_reducible apply canon4_of))

theorem Dev.closeAll_canon (d : Dev) (p status : Nat) (hd : Dev.Canon d) : Dev.Canon (Dev.closeAll d p status) := by
  unfold Dev.closeAll
  try dsimp only
  repeat' (first | with_reducible assumption | with_reducible apply Dev.closeReq_canon | (with_reducible apply canon_foldl; intro _ _ _))

theorem Dev.clearDrafts_canon (d : Dev) (h : Nat) (epoch : Option Nat) (hd : Dev.Canon d) : Dev.Canon (Dev.clearDrafts d h epoch) := by
  unfold Dev.clearDrafts
  try dsimp only
  repeat' (first
      | with_reducible assumption | with_reducible apply Dev.modReq_canon | with_reducible apply canon_ite
      | with_reducible apply canon_ite_snd | with_reducible apply canon_ite_fst | (refine canon_snd (by with_reducible assumption) ?_)
      | (refine canon_fst (by with_reducible assumption) ?_) | with_reducible intro _ | dsimp only | split
      | (unfold Dev.Canon; dsimp only; with_reducible apply canon4_of))

theorem Dev.trimPages_canon (d : Dev) (h w : Nat) (hd : Dev.Canon d) : Dev.Canon (Dev.trimPages d h w) := by
  unfold Dev.trimPages
  try dsimp only
  repeat' (first
      | with_reducible assumption | with_reducible apply Dev.releasePage_canon | with_reducible apply Dev.modReq_canon
      | with_reducible apply canon_ite | with_reducible apply canon_ite_snd | with_reducible apply canon_ite_fst
      | (with_reducible apply canon_foldl; intro _ _ _) | (refine canon_snd (by with_reducible assumption) ?_)
      | (refine canon_fst (by with_reducible assumption) ?_) | with_reducible intro _ | dsimp only | split)

theorem Dev.nextState_canon (d : Dev) (h : Nat) (hd : Dev.Canon d) : Dev.Canon (Dev.nextState d h) := by
  unfold Dev.nextState
  try dsimp only
  repeat' (first
      | with_reducible assumption | with_reducible apply Dev.clearDrafts_canon | with_reducible apply Dev.trimPages_canon
      | with_reducible apply Dev.modReq_canon | split)

theorem Dev.modLink_canon (d : Dev) (l : Nat) (f : Link → Link) (hd : Dev.Canon d) : Dev.Canon (Dev.modLink d l f) := by
  unfold Dev.modLink
  repeat' (first | with_reducible assumption | (unfold Dev.Canon; dsimp only; with_reducible apply canon4_of))

theorem Dev.linkPerf_canon (d : Dev) (l i n : Nat) (hd : Dev.Canon d) : Dev.Canon (Dev.linkPerf d l i n) := by
  unfold Dev.linkPerf
  repeat' (first | with_reducible assumption | with_reducible apply Dev.perfAdd_canon)

theorem Dev.linkErr_canon (d : Dev) (l i n : Nat) (hd : Dev.Canon d) : Dev.Canon (Dev.linkErr d l i n) := by
  unfold Dev.linkErr
  repeat' (first | with_reducible assumption | with_reducible apply Dev.errAdd_canon)

theorem Dev.freeEntry_canon (d : Dev) (inn : Option (Nat × Nat)) (hd : Dev.Canon d) : Dev.Canon (Dev.freeEntry d inn) := by
  unfold Dev.freeEntry
  try dsimp only
  repeat' (first | with_reducible assumption | with_reducible apply Dev.modLink_canon | split)

theorem Dev.putStream_canon (d : Dev) (l : Nat) (f : List Byte) (hd : Dev.Canon d) : Dev.Canon (Dev.putStream d l f) := by
  unfold Dev.putStream
  try dsimp only
  repeat' (first
      | with_reducible assumption | with_reducible apply Dev.emit_canon | with_reducible apply Dev.modLink_canon
      | with_reducible apply bypass_canon | (with_reducible apply canon_foldl; intro _ _ _)
      | (refine canon_snd (by with_reducible assumption) ?_) | (refine canon_fst (by with_reducible assumption) ?_)
      | with_reducible intro _ | dsimp only | split)

theorem Dev.sendFlit_canon (d : Dev) (l : Nat) (f : List Byte) (hd : Dev.Canon d) : Dev.Canon (Dev.sendFlit d l f) := by
  unfold Dev.sendFlit
  try dsimp only
  repeat' (first
      | with_reducible assumption | with_reducible apply Dev.modLink_canon | with_reducible apply Dev.putStream_canon
      | with_reducible apply Dev.emit_canon)

theorem Dev.sendCtl_canon (d : Dev) (l : Nat) (nak : Option Bool) (hd : Dev.Canon d) : Dev.Canon (Dev.sendCtl d l nak) := by
  unfold Dev.sendCtl
  try dsimp only
  repeat' (first | with_reducible assumption | with_reducible apply Dev.sendFlit_canon | with_reducible apply Dev.modLink_canon)

theorem Dev.sendData_canon (d : Dev) (l v : Nat) (hd : Dev.Canon d) : Dev.Canon (Dev.sendData d l v) := by
  unfold Dev.sendData
  try dsimp only
  repeat' (first
      | with_reducible assumption | with_reducible apply Dev.linkPerf_canon | with_reducible apply Dev.freeEntry_canon
      | with_reducible apply Dev.sendFlit_canon | with_reducible apply Dev.modLink_canon | with_reducible apply canon_ite | split)

theorem Dev.linkSlot_canon (d : Dev) (l : Nat) (hd : Dev.Canon d) : Dev.Canon (Dev.linkSlot d l).1 := by
  unfold Dev.linkSlot
  try dsimp only
  repeat' (first
      | with_reducible assumption | with_reducible apply Dev.linkPerf_canon | with_reducible apply Dev.sendData_canon
      | with_reducible apply Dev.ready_canon | with_reducible apply Dev.sendFlit_canon | with_reducible apply Dev.modLink_canon
      | with_reducible apply Dev.linkErr_canon | with_reducible apply Dev.sendCtl_canon | with_reducible apply canon_ite
      | with_reducible apply canon_ite_fst | dsimp only | split)

theorem Dev.linkPump_canon (d : Dev) (l : Nat) (n0 : Nat) (hd : Dev.Canon d) : Dev.Canon (Dev.linkPump d l n0) := by
  induction n0 generalizing d l with
  | zero =>
    unfold Dev.linkPump
    try dsimp only
    repeat' with_reducible assumption
  | succ _ ih =>
    unfold Dev.linkPump
    try dsimp only
    repeat' (first
        | with_reducible assumption | with_reducible apply ih | with_reducible apply Dev.linkSlot_canon | with_reducible apply canon_ite)

theorem Dev.pumpLink_canon (d : Dev) (l : Nat) (hd : Dev.Canon d) : Dev.Canon (Dev.pumpLink d l) := by
  unfold Dev.pumpLink
  repeat' (first | with_reducible assumption | with_reducible apply Dev.linkPump_canon)

theorem Dev.sendIdles_canon (d : Dev) (l n : Nat) (hd : Dev.Canon d) : Dev.Canon (Dev.sendIdles d l n) := by
  unfold Dev.sendIdles
  try dsimp only
  repeat' (first
      | with_reducible assumption | with_reducible apply Dev.linkPerf_canon | with_reducible apply Dev.sendFlit_canon
      | (with_reducible apply canon_foldl; intro _ _ _))

theorem Dev.pauseTx_canon (d : Dev) (l : Nat) (hd : Dev.Canon d) : Dev.Canon (Dev.pauseTx d l) := by
  unfold Dev.pauseTx
  try dsimp only
  repeat' (first
      | with_reducible assumption | with_reducible apply Dev.modLink_canon | with_reducible apply Dev.sendFlit_canon
      | with_reducible apply canon_ite)

theorem Dev.queueFlit_canon (d : Dev) (k v : Nat) (inn : Nat × Nat) (ft : Nat) (body : List Byte) (last : Bool) (hd : Dev.Canon d) : Dev.Canon (Dev.queueFlit d k v inn ft body last) := by
  unfold Dev.queueFlit
  try dsimp only
  repeat' (first
      | with_reducible assumption | with_reducible apply Dev.freeEntry_canon | with_reducible apply Dev.pumpLink_canon
      | with_reducible apply Dev.modLink_canon | with_reducible apply canon_ite)

theorem Dev.unroutable_canon (d : Dev) (l dst : Nat) (loaded : Bool) (hd : Dev.Canon d) : Dev.Canon (Dev.unroutable d l dst loaded) := by
  unfold Dev.unroutable
  try dsimp only
  repeat' (first
      | with_reducible assumption | with_reducible apply Dev.linkErr_canon | with_reducible apply Dev.notice_canon
      | with_reducible apply canon_ite)

theorem Dev.forward_canon (d : Dev) (dst mkind : Nat) (bs : List Byte) (hd : Dev.Canon d) : Dev.Canon (Dev.forward d dst mkind bs) := by
  unfold Dev.forward
  try dsimp only
  repeat' (first
      | with_reducible assumption | with_reducible apply Dev.unroutable_canon | with_reducible apply Dev.pumpLink_canon
      | with_reducible apply Dev.modLink_canon | with_reducible apply canon_ite | with_reducible intro _ | split)

theorem Dev.sendMsg_canon (d : Dev) (dst mkind die core chan step tag last : Nat) (n0 : Nat) (n1 : List Byte) (hd : Dev.Canon d) : Dev.Canon (Dev.sendMsg d dst mkind die core chan step tag last n0 n1) := by
  induction n0 generalizing d dst mkind die core chan step tag last n1 with
  | zero =>
    unfold Dev.sendMsg
    try dsimp only
    repeat' with_reducible assumption
  | succ _ ih =>
    unfold Dev.sendMsg
    try dsimp only
    repeat' (first
        | with_reducible assumption | with_reducible apply ih | with_reducible apply Dev.forward_canon | with_reducible apply canon_ite)

theorem Dev.modCore_canon (d : Dev) (k : Nat) (f : Core → Core) (hd : Dev.Canon d) : Dev.Canon (Dev.modCore d k f) := by
  unfold Dev.modCore
  repeat' (first | with_reducible assumption | (unfold Dev.Canon; dsimp only; with_reducible apply canon4_of))

theorem Dev.modRed_canon (d : Dev) (p i : Nat) (f : Inst → Inst) (hd : Dev.Canon d) : Dev.Canon (Dev.modRed d p i f) := by
  unfold Dev.modRed
  repeat' (first | with_reducible assumption | (unfold Dev.Canon; dsimp only; with_reducible apply canon4_of))

theorem Dev.abortGroup_canon (d : Dev) (g : Nat) (c : AbortClass) (hd : Dev.Canon d) : Dev.Canon (Dev.abortGroup d g c) := by
  unfold Dev.abortGroup
  try dsimp only
  repeat' (first | with_reducible assumption | with_reducible apply Dev.modGroup_canon)

theorem Dev.groupPoison_canon (d : Dev) (g : Nat) (l : List Nat) (hd : Dev.Canon d) : Dev.Canon (Dev.groupPoison d g l) := by
  unfold Dev.groupPoison
  try dsimp only
  repeat' (first | with_reducible assumption | with_reducible apply Dev.modGroup_canon)

theorem Dev.sendTo_canon (d : Dev) (s : Show) (pos mkind die core chan step tag : Nat) (data : List Byte) (hd : Dev.Canon d) : Dev.Canon (Dev.sendTo d s pos mkind die core chan step tag data) := by
  unfold Dev.sendTo
  repeat' (first | with_reducible assumption | with_reducible apply Dev.sendMsg_canon)

theorem Dev.tellGroup_canon (d : Dev) (g tag : Nat) (data : List Byte) (hd : Dev.Canon d) : Dev.Canon (Dev.tellGroup d g tag data) := by
  unfold Dev.tellGroup
  try dsimp only
  repeat' (first
      | with_reducible assumption | with_reducible apply Dev.sendTo_canon | (with_reducible apply canon_foldl; intro _ _ _)
      | (refine canon_snd (by with_reducible assumption) ?_) | (refine canon_fst (by with_reducible assumption) ?_)
      | with_reducible intro _ | dsimp only | split)

theorem Dev.leaveNotice_canon (d : Dev) (g : Nat) (hd : Dev.Canon d) : Dev.Canon (Dev.leaveNotice d g) := by
  unfold Dev.leaveNotice
  repeat' (first
      | with_reducible assumption | with_reducible apply Dev.tellGroup_canon | with_reducible apply Dev.emit_canon
      | with_reducible apply canon_ite)

theorem Dev.joinNotice_canon (d : Dev) (g boundary : Nat) (hd : Dev.Canon d) : Dev.Canon (Dev.joinNotice d g boundary) := by
  unfold Dev.joinNotice
  repeat' (first
      | with_reducible assumption | with_reducible apply Dev.boundary_canon | with_reducible apply Dev.tellGroup_canon
      | with_reducible apply Dev.emit_canon)

theorem Dev.dropMsgs_canon (d : Dev) (p : StileMsg → Bool) (hd : Dev.Canon d) : Dev.Canon (Dev.dropMsgs d p) := by
  unfold Dev.dropMsgs
  try dsimp only
  repeat' (first | with_reducible assumption | (unfold Dev.Canon; dsimp only; with_reducible apply canon4_of))

theorem Dev.loseRed_canon (d : Dev) (p i step : Nat) (s : Show) (e : Nat) (hd : Dev.Canon d) : Dev.Canon (Dev.loseRed d p i step s e) := by
  unfold Dev.loseRed
  try dsimp only
  repeat' (first
      | with_reducible assumption | with_reducible apply Dev.modRed_canon | with_reducible apply Dev.errAdd_canon
      | with_reducible apply canon_ite | with_reducible intro _ | split | (unfold Dev.Canon; dsimp only; with_reducible apply canon4_of))

theorem Dev.abandonRed_canon (d : Dev) (p i step : Nat) (cls : AbortClass) (hd : Dev.Canon d) : Dev.Canon (Dev.abandonRed d p i step cls) := by
  unfold Dev.abandonRed
  try dsimp only
  repeat' (first
      | with_reducible assumption | with_reducible apply Dev.loseRed_canon | with_reducible apply Dev.sendTo_canon
      | with_reducible apply canon_ite | with_reducible apply canon_ite_snd | with_reducible apply canon_ite_fst
      | (with_reducible apply canon_foldl; intro _ _ _) | (refine canon_snd (by with_reducible assumption) ?_)
      | (refine canon_fst (by with_reducible assumption) ?_) | with_reducible intro _ | dsimp only | split)

theorem Dev.abandonAll_canon (d : Dev) (p i : Nat) (cls : AbortClass) (hd : Dev.Canon d) : Dev.Canon (Dev.abandonAll d p i cls) := by
  unfold Dev.abandonAll
  try dsimp only
  repeat' (first
      | with_reducible assumption | with_reducible apply Dev.abandonRed_canon | with_reducible apply canon_ite
      | with_reducible apply canon_ite_snd | with_reducible apply canon_ite_fst | (with_reducible apply canon_foldl; intro _ _ _))

theorem Dev.abandonOf_canon (d : Dev) (p die core : Nat) (cls : AbortClass) (hd : Dev.Canon d) : Dev.Canon (Dev.abandonOf d p die core cls) := by
  unfold Dev.abandonOf
  try dsimp only
  repeat' (first
      | with_reducible assumption | with_reducible apply Dev.abandonRed_canon | with_reducible apply canon_ite
      | with_reducible apply canon_ite_snd | with_reducible apply canon_ite_fst | (with_reducible apply canon_foldl; intro _ _ _)
      | (refine canon_snd (by with_reducible assumption) ?_) | (refine canon_fst (by with_reducible assumption) ?_)
      | with_reducible intro _ | dsimp only | split)

theorem Dev.modRace_canon (d : Dev) (p l : Nat) (f : RaceInst → RaceInst) (hd : Dev.Canon d) : Dev.Canon (Dev.modRace d p l f) := by
  unfold Dev.modRace
  repeat' (first | with_reducible assumption | (unfold Dev.Canon; dsimp only; with_reducible apply canon4_of))

theorem Dev.raceErr_canon (d : Dev) (e i n : Nat) (hd : Dev.Canon d) : Dev.Canon (Dev.raceErr d e i n) := by
  unfold Dev.raceErr
  repeat' (first | with_reducible assumption | with_reducible apply Dev.errAdd_canon)

theorem Dev.raceSend_canon (d : Dev) (dst kind tag l e step : Nat) (data : List Byte) (hd : Dev.Canon d) : Dev.Canon (Dev.raceSend d dst kind tag l e step data) := by
  unfold Dev.raceSend
  try dsimp only
  repeat' (first | with_reducible assumption | with_reducible apply Dev.sendMsg_canon)

theorem Dev.abandonSource_canon (d : Dev) (p l : Nat) (s : Show) (e step : Nat) (hd : Dev.Canon d) : Dev.Canon (Dev.abandonSource d p l s e step) := by
  unfold Dev.abandonSource
  try dsimp only
  repeat' (first
      | with_reducible assumption | with_reducible apply Dev.modRace_canon | with_reducible apply Dev.raceSend_canon
      | with_reducible apply Dev.raceErr_canon | with_reducible apply canon_ite | with_reducible apply canon_ite_snd
      | with_reducible apply canon_ite_fst | (with_reducible apply canon_foldl; intro _ _ _))

theorem Dev.sourceGone_canon (d : Dev) (p l : Nat) (s : Show) (e step : Nat) (hd : Dev.Canon d) : Dev.Canon (Dev.sourceGone d p l s e step) := by
  unfold Dev.sourceGone
  try dsimp only
  repeat' (first
      | with_reducible assumption | with_reducible apply Dev.abandonSource_canon | with_reducible apply Dev.modRace_canon
      | with_reducible apply Dev.raceErr_canon | with_reducible apply canon_ite)

theorem Dev.abandonShard_canon (d : Dev) (p l : Nat) (s : Show) (e q step : Nat) (hd : Dev.Canon d) : Dev.Canon (Dev.abandonShard d p l s e q step) := by
  unfold Dev.abandonShard
  try dsimp only
  repeat' (first
      | with_reducible assumption | with_reducible apply Dev.modRace_canon | with_reducible apply Dev.raceSend_canon
      | with_reducible apply Dev.sourceGone_canon | with_reducible apply Dev.raceErr_canon | with_reducible apply canon_ite
      | with_reducible apply canon_ite_snd | with_reducible apply canon_ite_fst | (with_reducible apply canon_foldl; intro _ _ _))

theorem Dev.abandonRaces_canon (d : Dev) (r : Run) (a : Act) (hd : Dev.Canon d) : Dev.Canon (Dev.abandonRaces d r a) := by
  unfold Dev.abandonRaces
  try dsimp only
  repeat' (first
      | with_reducible assumption | with_reducible apply Dev.abandonSource_canon | with_reducible apply Dev.abandonShard_canon
      | with_reducible apply canon_ite | with_reducible apply canon_ite_snd | with_reducible apply canon_ite_fst
      | (with_reducible apply canon_foldl; intro _ _ _) | (refine canon_snd (by with_reducible assumption) ?_)
      | (refine canon_fst (by with_reducible assumption) ?_) | with_reducible intro _ | dsimp only | split)

theorem Dev.abandonLayers_canon (d : Dev) (p g : Nat) (hd : Dev.Canon d) : Dev.Canon (Dev.abandonLayers d p g) := by
  unfold Dev.abandonLayers
  try dsimp only
  repeat' (first
      | with_reducible assumption | with_reducible apply Dev.abandonSource_canon | with_reducible apply Dev.abandonShard_canon
      | with_reducible apply canon_ite | with_reducible apply canon_ite_snd | with_reducible apply canon_ite_fst
      | (with_reducible apply canon_foldl; intro _ _ _) | (refine canon_snd (by with_reducible assumption) ?_)
      | (refine canon_fst (by with_reducible assumption) ?_) | with_reducible intro _ | dsimp only | split)

theorem Dev.actOver_canon (d : Dev) (k : Nat) (hd : Dev.Canon d) : Dev.Canon (Dev.actOver d k) := by
  unfold Dev.actOver
  try dsimp only
  repeat' (first
      | with_reducible assumption | with_reducible apply Dev.modCore_canon | with_reducible apply Dev.modGroup_canon
      | with_reducible intro _ | split)

theorem Dev.coreAbort_canon (d : Dev) (k : Nat) (cls : AbortClass) (hd : Dev.Canon d) : Dev.Canon (Dev.coreAbort d k cls) := by
  unfold Dev.coreAbort
  try dsimp only
  repeat' (first
      | with_reducible assumption | with_reducible apply Dev.abortGroup_canon | with_reducible apply Dev.abandonRaces_canon
      | with_reducible apply Dev.modCore_canon | with_reducible apply Dev.actOver_canon | with_reducible apply Dev.abandonOf_canon
      | with_reducible apply canon_ite | split)

theorem Dev.abortActs_canon (d : Dev) (p : Nat → Run → Bool) (cls : AbortClass) (hd : Dev.Canon d) : Dev.Canon (Dev.abortActs d p cls) := by
  unfold Dev.abortActs
  try dsimp only
  repeat' (first | with_reducible assumption | with_reducible apply Dev.coreAbort_canon | (with_reducible apply canon_foldl; intro _ _ _))

theorem Dev.fireEntry_canon (d : Dev) (e : CalEntry) (held : List Nat) (hd : Dev.Canon d) : Dev.Canon (Dev.fireEntry d e held) := by
  unfold Dev.fireEntry
  try dsimp only
  repeat' (first
      | with_reducible assumption | with_reducible apply canon_ite | with_reducible intro _ | split
      | (unfold Dev.Canon; dsimp only; with_reducible apply canon4_of))

theorem Dev.holdEntries_canon (d : Dev) (p : CalEntry → Bool) (hd : Dev.Canon d) : Dev.Canon (Dev.holdEntries d p) := by
  unfold Dev.holdEntries
  try dsimp only
  repeat' (first
      | with_reducible assumption | with_reducible apply canon_ite | with_reducible intro _ | split
      | (unfold Dev.Canon; dsimp only; with_reducible apply canon4_of))

theorem Dev.imageLost_canon (d : Dev) (owner n b link : Nat) (hd : Dev.Canon d) : Dev.Canon (Dev.imageLost d owner n b link) := by
  unfold Dev.imageLost
  try dsimp only
  repeat' (first
      | with_reducible assumption | with_reducible apply Dev.modImage_canon | with_reducible apply Dev.modGroup_canon
      | with_reducible apply Dev.record_canon | with_reducible apply Dev.closeAll_canon | (with_reducible apply canon_foldl; intro _ _ _))

theorem Dev.sweepQueue_canon (d : Dev) (p : FaultRec → Bool) (o seq : Nat) (hd : Dev.Canon d) : Dev.Canon (Dev.sweepQueue d p o seq) := by
  unfold Dev.sweepQueue
  try dsimp only
  repeat' (first
      | with_reducible assumption | with_reducible apply Dev.setDisp_canon | with_reducible apply canon_ite
      | with_reducible apply canon_ite_snd | with_reducible apply canon_ite_fst | (with_reducible apply canon_foldl; intro _ _ _)
      | (refine canon_snd (by with_reducible assumption) ?_) | (refine canon_fst (by with_reducible assumption) ?_)
      | with_reducible intro _ | dsimp only | split | (unfold Dev.Canon; dsimp only; with_reducible apply canon4_of))

theorem Dev.dropPrefix_canon (d : Dev) (p n : Nat) (hd : Dev.Canon d) : Dev.Canon (Dev.dropPrefix d p n) := by
  unfold Dev.dropPrefix
  try dsimp only
  repeat' (first | with_reducible assumption | with_reducible apply Dev.modPrefix_canon | with_reducible apply Dev.settlePrefix_canon)

theorem Dev.penOffline_canon (d : Dev) (pen cause : Nat) (hd : Dev.Canon d) : Dev.Canon (Dev.penOffline d pen cause) := by
  unfold Dev.penOffline
  try dsimp only
  repeat' (first
      | with_reducible assumption | with_reducible apply Dev.abandonLayers_canon | with_reducible apply Dev.imageLost_canon
      | with_reducible apply Dev.modGroup_canon | with_reducible apply Dev.record_canon | with_reducible apply Dev.abortActs_canon
      | with_reducible apply Dev.closeAll_canon | with_reducible apply Dev.remap_canon | with_reducible apply Dev.sweepQueue_canon
      | with_reducible apply Dev.dropPrefix_canon | with_reducible apply Dev.abandonAll_canon | with_reducible apply canon_ite
      | with_reducible apply canon_ite_snd | with_reducible apply canon_ite_fst | (with_reducible apply canon_foldl; intro _ _ _)
      | (refine canon_snd (by with_reducible assumption) ?_) | (refine canon_fst (by with_reducible assumption) ?_)
      | with_reducible intro _ | dsimp only | split | (unfold Dev.Canon; dsimp only; with_reducible apply canon4_of))

theorem Dev.withdraw_canon (d : Dev) (cause : Nat) (hd : Dev.Canon d) : Dev.Canon (Dev.withdraw d cause) := by
  unfold Dev.withdraw
  try dsimp only
  repeat' (first
      | with_reducible assumption | with_reducible apply Dev.leaveNotice_canon | with_reducible apply Dev.record_canon
      | with_reducible apply Dev.abortActs_canon | with_reducible apply Dev.sweepQueue_canon | with_reducible apply Dev.finish_canon
      | with_reducible apply canon_ite | with_reducible apply canon_ite_snd | with_reducible apply canon_ite_fst
      | (with_reducible apply canon_foldl; intro _ _ _) | (refine canon_snd (by with_reducible assumption) ?_)
      | (refine canon_fst (by with_reducible assumption) ?_) | with_reducible intro _ | dsimp only | split
      | (unfold Dev.Canon; dsimp only; with_reducible apply canon4_of))

theorem Dev.runRecovery_canon (d : Dev) (q o : Nat) (hd : Dev.Canon d) : Dev.Canon (Dev.runRecovery d q o) := by
  unfold Dev.runRecovery
  try dsimp only
  repeat' (first
      | with_reducible assumption | with_reducible apply Dev.withdraw_canon | with_reducible apply Dev.penOffline_canon
      | with_reducible apply Dev.sweepQueue_canon | with_reducible apply canon_ite | split
      | (unfold Dev.Canon; dsimp only; with_reducible apply canon4_of))

theorem Dev.beginRecovery_canon (d : Dev) (q o : Nat) (hd : Dev.Canon d) : Dev.Canon (Dev.beginRecovery d q o) := by
  unfold Dev.beginRecovery
  repeat' (first | with_reducible assumption | with_reducible apply Dev.setDisp_canon | with_reducible apply Dev.runRecovery_canon)

theorem Dev.enqueue_canon (d : Dev) (code die core o info : Nat) (hd : Dev.Canon d) : Dev.Canon (Dev.enqueue d code die core o info) := by
  unfold Dev.enqueue
  try dsimp only
  repeat' (first
      | with_reducible assumption | with_reducible apply Dev.record_canon | with_reducible apply Dev.withdraw_canon
      | with_reducible apply Dev.setDisp_canon | with_reducible apply Dev.penOffline_canon | with_reducible apply canon_ite | split
      | (unfold Dev.Canon; dsimp only; with_reducible apply canon4_of))

theorem Dev.queueFault_canon (d : Dev) (code die core o info : Nat) (hd : Dev.Canon d) : Dev.Canon (Dev.queueFault d code die core o info) := by
  unfold Dev.queueFault
  try dsimp only
  repeat' (first
      | with_reducible assumption | with_reducible apply Dev.beginRecovery_canon | with_reducible apply Dev.record_canon
      | with_reducible apply Dev.enqueue_canon | with_reducible apply Dev.withdraw_canon | with_reducible apply Dev.setDisp_canon
      | with_reducible apply canon_ite | with_reducible intro _ | split | (unfold Dev.Canon; dsimp only; with_reducible apply canon4_of))

theorem Dev.raise_canon (d : Dev) (code die core info item : Nat) (hd : Dev.Canon d) : Dev.Canon (Dev.raise d code die core info item) := by
  unfold Dev.raise
  try dsimp only
  repeat' (first
      | with_reducible assumption | with_reducible apply Dev.abortGroup_canon | with_reducible apply Dev.modCore_canon
      | with_reducible apply Dev.record_canon | with_reducible apply Dev.abortActs_canon | with_reducible apply Dev.withdraw_canon
      | with_reducible apply Dev.queueFault_canon | with_reducible apply Dev.coreAbort_canon | with_reducible apply canon_ite | split
      | (unfold Dev.Canon; dsimp only; with_reducible apply canon4_of))

end Sys2Proof.Machine
end

