-- ==== Sys2Proof/Laws/CanonicalCores.lean ====
section
/-! SUPPORT. Canonical memories are kept by cores, arrays, the Beat, links, power, commits, stacks, DMA and the vector unit. -/

namespace Sys2Proof.Machine

open Sys2Proof

theorem Dev.spWrite_canon (d : Dev) (k o : Nat) (bs : List Byte) (hd : Dev.Canon d) : Dev.Canon (Dev.spWrite d k o bs) := by
  unfold Dev.spWrite
  try dsimp only
  repeat' (first
      | with_reducible assumption | (unfold Dev.Canon; dsimp only; refine canon4_spad (canon4_of ?_) (Mem.wf_write _ _ _))
      | with_reducible apply Dev.modCore_canon | with_reducible apply canon_ite)

theorem Dev.corePerf_canon (d : Dev) (k g i n : Nat) (hd : Dev.Canon d) : Dev.Canon (Dev.corePerf d k g i n) := by
  unfold Dev.corePerf
  repeat' (first | with_reducible assumption | with_reducible apply Dev.perfAdd_canon)

theorem Dev.coreErr_canon (d : Dev) (k i n : Nat) (hd : Dev.Canon d) : Dev.Canon (Dev.coreErr d k i n) := by
  unfold Dev.coreErr
  repeat' (first | with_reducible assumption | with_reducible apply Dev.errAdd_canon)

theorem Dev.wideRows_canon (d : Dev) (k n : Nat) (hd : Dev.Canon d) : Dev.Canon (Dev.wideRows d k n) := by
  unfold Dev.wideRows
  repeat' (first | with_reducible assumption | with_reducible apply Dev.corePerf_canon)

theorem Dev.coreRaise_canon (d : Dev) (k code info : Nat) (hd : Dev.Canon d) : Dev.Canon (Dev.coreRaise d k code info) := by
  unfold Dev.coreRaise
  repeat' (first | with_reducible assumption | with_reducible apply Dev.raise_canon)

theorem Dev.paramBounds_canon (d : Dev) (k pc : Nat) (hd : Dev.Canon d) : Dev.Canon (Dev.paramBounds d k pc) := by
  unfold Dev.paramBounds
  repeat' (first | with_reducible assumption | with_reducible apply Dev.coreRaise_canon | with_reducible apply Dev.coreErr_canon)

theorem Dev.loadNext_canon (d : Dev) (k a cycles : Nat) (hd : Dev.Canon d) : Dev.Canon (Dev.loadNext d k a cycles) := by
  unfold Dev.loadNext
  try dsimp only
  repeat' (first
      | with_reducible assumption | with_reducible apply Dev.modCore_canon | with_reducible apply seed_canon
      | with_reducible apply canon_ite | with_reducible intro _ | split)

theorem Dev.countStep_canon (d : Dev) (k op idx wait : Nat) (repair : Bool) (r : StepResult) (hd : Dev.Canon d) : Dev.Canon (Dev.countStep d k op idx wait repair r) := by
  unfold Dev.countStep
  try dsimp only
  repeat' (first
      | with_reducible assumption | with_reducible apply Dev.corePerf_canon | with_reducible apply Dev.coreErr_canon
      | with_reducible apply canon_ite)

theorem Dev.arrayStep_canon (d : Dev) (k a : Nat) (idle : Bool) (startWait stall : Nat) (parity : Option Nat) (hd : Dev.Canon d) : Dev.Canon (Dev.arrayStep d k a idle startWait stall parity) := by
  unfold Dev.arrayStep
  try dsimp only
  repeat' (first
      | with_reducible assumption | with_reducible apply Dev.countStep_canon | with_reducible apply Dev.coreErr_canon
      | with_reducible apply Dev.loadNext_canon | with_reducible apply Dev.modCore_canon | with_reducible apply Dev.coreRaise_canon
      | with_reducible apply Dev.corePerf_canon | with_reducible apply canon_ite | with_reducible apply canon_ite_snd
      | with_reducible apply canon_ite_fst | (refine canon_snd (by with_reducible assumption) ?_)
      | (refine canon_fst (by with_reducible assumption) ?_) | with_reducible intro _ | dsimp only | split
      | (unfold Dev.Canon; dsimp only; with_reducible apply canon4_of))

theorem Dev.rebaseSteps_canon (d : Dev) (o : Nat) (hd : Dev.Canon d) : Dev.Canon (Dev.rebaseSteps d o) := by
  unfold Dev.rebaseSteps
  try dsimp only
  repeat' (first
      | with_reducible assumption | with_reducible apply Dev.rebase_canon | with_reducible intro _
      | (unfold Dev.Canon; dsimp only; with_reducible apply canon4_of))

theorem Dev.rebase_canon (d : Dev) (o : Nat) (hd : Dev.Canon d) : Dev.Canon (Dev.rebase d o) := by
  unfold Dev.rebase
  try dsimp only
  repeat' (first
      | with_reducible assumption | with_reducible apply Dev.rebaseSteps_canon | with_reducible apply canon_ite | with_reducible intro _
      | split | (unfold Dev.Canon; dsimp only; with_reducible apply canon4_of))

theorem Dev.renumber_canon (d : Dev) (own n : Nat) (hd : Dev.Canon d) : Dev.Canon (Dev.renumber d own n) := by
  unfold Dev.renumber
  try dsimp only
  repeat' (first | with_reducible assumption | with_reducible apply Dev.modBeat_canon | with_reducible apply Dev.rebase_canon)

theorem Dev.beatState_canon (d : Dev) (s : BeatState) (hd : Dev.Canon d) : Dev.Canon (Dev.beatState d s) := by
  unfold Dev.beatState
  repeat' (first
      | with_reducible assumption | with_reducible apply Dev.eventAll_canon | with_reducible apply canon_ite | split
      | (unfold Dev.Canon; dsimp only; with_reducible apply canon4_of))

theorem Dev.lock_canon (d : Dev) (hd : Dev.Canon d) : Dev.Canon (Dev.lock d) := by
  unfold Dev.lock
  try dsimp only
  repeat' (first
      | with_reducible assumption | with_reducible apply Dev.beatState_canon
      | (unfold Dev.Canon; dsimp only; with_reducible apply canon4_of))

theorem Dev.settleSlew_canon (d : Dev) (hd : Dev.Canon d) : Dev.Canon (Dev.settleSlew d) := by
  unfold Dev.settleSlew
  repeat' (first | with_reducible assumption | with_reducible apply Dev.lock_canon | with_reducible apply canon_ite)

theorem Dev.countMissing_canon (d : Dev) (hd : Dev.Canon d) : Dev.Canon (Dev.countMissing d) := by
  unfold Dev.countMissing
  try dsimp only
  repeat' (first
      | with_reducible assumption | with_reducible apply Dev.beatState_canon | with_reducible apply canon_ite | split
      | (unfold Dev.Canon; dsimp only; with_reducible apply canon4_of))

theorem Dev.present_canon (d : Dev) (phase : Int) (hop hz : Nat) (hd : Dev.Canon d) : Dev.Canon (Dev.present d phase hop hz) := by
  unfold Dev.present
  try dsimp only
  repeat' (first
      | with_reducible assumption | with_reducible apply Dev.beatState_canon | with_reducible apply Dev.settleSlew_canon
      | with_reducible apply canon_ite | split | (unfold Dev.Canon; dsimp only; with_reducible apply canon4_of))

theorem Dev.freeValid_canon (d : Dev) (hop hz : Nat) (jump : Option Nat) (hd : Dev.Canon d) : Dev.Canon (Dev.freeValid d hop hz jump) := by
  unfold Dev.freeValid
  try dsimp only
  repeat' (first
      | with_reducible assumption | with_reducible apply Dev.lock_canon | with_reducible apply canon_ite | split
      | (unfold Dev.Canon; dsimp only; with_reducible apply canon4_of))

theorem Dev.dropSync_canon (d : Dev) (h : Nat) (hd : Dev.Canon d) : Dev.Canon (Dev.dropSync d h) := by
  unfold Dev.dropSync
  try dsimp only
  repeat' (first | with_reducible assumption | (unfold Dev.Canon; dsimp only; with_reducible apply canon4_of))

theorem Dev.syncDone_canon (d : Dev) (h n o : Nat) (hd : Dev.Canon d) : Dev.Canon (Dev.syncDone d h n o) := by
  unfold Dev.syncDone
  repeat' (first | with_reducible assumption | with_reducible apply Dev.dropSync_canon | with_reducible apply Dev.finishAt_canon)

theorem Dev.relock_canon (d : Dev) (h own n after hop hz : Nat) (hd : Dev.Canon d) : Dev.Canon (Dev.relock d h own n after hop hz) := by
  unfold Dev.relock
  try dsimp only
  repeat' (first
      | with_reducible assumption | with_reducible apply Dev.lock_canon | with_reducible apply Dev.modBeat_canon
      | with_reducible apply Dev.renumber_canon | with_reducible apply Dev.syncDone_canon
      | (unfold Dev.Canon; dsimp only; with_reducible apply canon4_of))

theorem Dev.sendMarker_canon (d : Dev) (l launch : Nat) (hd : Dev.Canon d) : Dev.Canon (Dev.sendMarker d l launch) := by
  unfold Dev.sendMarker
  try dsimp only
  repeat' (first
      | with_reducible assumption | with_reducible apply Dev.launch_canon | with_reducible apply Dev.pumpLink_canon
      | with_reducible apply Dev.modLink_canon | with_reducible apply canon_ite)

theorem beatTick0_canon (d : Dev) (launch : List Nat) (hd : Dev.Canon d) : Dev.Canon (beatTick0 d launch) := by
  unfold beatTick0
  try dsimp only
  repeat' (first
      | with_reducible assumption | with_reducible apply Dev.launch_canon | with_reducible apply Dev.sendMarker_canon
      | with_reducible apply Dev.emit_canon | with_reducible apply Dev.settleSlew_canon | with_reducible apply Dev.modBeat_canon
      | with_reducible apply Dev.eventAll_canon | with_reducible apply Dev.renumber_canon | with_reducible apply canon_ite
      | with_reducible apply canon_ite_snd | with_reducible apply canon_ite_fst | (with_reducible apply canon_foldl; intro _ _ _)
      | (refine canon_snd (by with_reducible assumption) ?_) | (refine canon_fst (by with_reducible assumption) ?_)
      | with_reducible intro _ | dsimp only | split)

theorem Dev.seePhase_canon (d : Dev) (phase : Int) (hd : Dev.Canon d) : Dev.Canon (Dev.seePhase d phase) := by
  unfold Dev.seePhase
  repeat' (first | with_reducible assumption | (unfold Dev.Canon; dsimp only; with_reducible apply canon4_of))

theorem Dev.judgeEdge_canon (d : Dev) (phase : Int) (hz : Nat) (hd : Dev.Canon d) : Dev.Canon (Dev.judgeEdge d phase hz) := by
  unfold Dev.judgeEdge
  repeat' (first
      | with_reducible assumption | with_reducible apply Dev.countMissing_canon | with_reducible apply Dev.seePhase_canon
      | with_reducible apply Dev.beatState_canon | with_reducible apply Dev.freeValid_canon | with_reducible apply Dev.present_canon
      | with_reducible apply canon_ite | split)

theorem beatEdge_canon (d : Dev) (phase : Int) (hz : Nat) (hd : Dev.Canon d) : Dev.Canon (beatEdge d phase hz) := by
  unfold beatEdge
  try dsimp only
  repeat' (first
      | with_reducible assumption | with_reducible apply Dev.relock_canon | with_reducible apply Dev.judgeEdge_canon
      | with_reducible apply canon_ite | split)

theorem Dev.judgeMarker_canon (d : Dev) (phase : Int) (own beat hop hz : Nat) (hd : Dev.Canon d) : Dev.Canon (Dev.judgeMarker d phase own beat hop hz) := by
  unfold Dev.judgeMarker
  try dsimp only
  repeat' (first
      | with_reducible assumption | with_reducible apply Dev.countMissing_canon | with_reducible apply Dev.seePhase_canon
      | with_reducible apply Dev.beatState_canon | with_reducible apply Dev.freeValid_canon | with_reducible apply Dev.present_canon
      | with_reducible apply canon_ite | split)

theorem beatMarkerReceive_canon (d : Dev) (l : Nat) (arrival : Int) (launch beat hop hz : Nat) (hd : Dev.Canon d) : Dev.Canon (beatMarkerReceive d l arrival launch beat hop hz) := by
  unfold beatMarkerReceive
  try dsimp only
  repeat' (first
      | with_reducible assumption | with_reducible apply Dev.linkPerf_canon | with_reducible apply Dev.launch_canon
      | with_reducible apply Dev.relock_canon | with_reducible apply Dev.judgeMarker_canon | with_reducible apply canon_ite | split)

theorem beatMissing_canon (d : Dev) (hd : Dev.Canon d) : Dev.Canon (beatMissing d) := by
  unfold beatMissing
  repeat' (first | with_reducible assumption | with_reducible apply Dev.countMissing_canon | with_reducible apply canon_ite)

theorem svcBeatSync_canon (d : Dev) (c : Door) (hd : Dev.Canon d) : Svc.Canon (svcBeatSync d c) := by
  unfold svcBeatSync
  try dsimp only
  repeat' (first
      | with_reducible assumption | with_reducible apply beatSync_canon | with_reducible apply Dev.relock_canon
      | with_reducible apply Dev.newHandle_canon | with_reducible apply svc_ok | with_reducible apply svc_pure
      | with_reducible apply svc_error | with_reducible apply svc_bind_dev | (with_reducible apply svc_bind; intro _ _)
      | with_reducible apply chk_ok | with_reducible apply chk_pure | with_reducible apply chk_error
      | (refine canon_snd (by with_reducible assumption) ?_) | (refine canon_fst (by with_reducible assumption) ?_)
      | with_reducible intro _ | dsimp only | split | (unfold Dev.Canon; dsimp only; with_reducible apply canon4_of))

theorem beatSync_canon (d : Dev) (c : Door) (hd : Dev.Canon d) : Dev.Canon (beatSync d c) := by
  unfold beatSync
  repeat' (first
      | with_reducible assumption | with_reducible apply Dev.serve_canon | with_reducible apply svcBeatSync_canon | with_reducible intro _)

theorem beatSyncLoad_canon (d : Dev) (hd : Dev.Canon d) : Dev.Canon (beatSyncLoad d) := by
  unfold beatSyncLoad
  try dsimp only
  repeat' (first
      | with_reducible assumption | with_reducible apply Dev.dropSync_canon | with_reducible apply Dev.syncDone_canon
      | with_reducible apply Dev.relock_canon | with_reducible apply Dev.renumber_canon | with_reducible apply canon_ite
      | with_reducible intro _ | split | (unfold Dev.Canon; dsimp only; with_reducible apply canon4_of))

theorem beatSyncTimeout_canon (d : Dev) (hd : Dev.Canon d) : Dev.Canon (beatSyncTimeout d) := by
  unfold beatSyncTimeout
  try dsimp only
  repeat' (first | with_reducible assumption | with_reducible apply Dev.dropSync_canon | with_reducible apply Dev.finish_canon | split)

theorem Dev.beatLost_canon (d : Dev) (l : Nat) (hd : Dev.Canon d) : Dev.Canon (Dev.beatLost d l) := by
  unfold Dev.beatLost
  repeat' (first | with_reducible assumption | with_reducible apply Dev.beatState_canon | with_reducible apply canon_ite)

theorem Dev.modPort_canon (d : Dev) (die q : Nat) (f : Port → Port) (hd : Dev.Canon d) : Dev.Canon (Dev.modPort d die q f) := by
  unfold Dev.modPort
  repeat' (first | with_reducible assumption | (unfold Dev.Canon; dsimp only; with_reducible apply canon4_of))

theorem Dev.mwPerf_canon (d : Dev) (die i n : Nat) (hd : Dev.Canon d) : Dev.Canon (Dev.mwPerf d die i n) := by
  unfold Dev.mwPerf
  repeat' (first | with_reducible assumption | with_reducible apply Dev.perfAdd_canon)

theorem Dev.launch_canon (d : Dev) (die q h data : Nat) (hd : Dev.Canon d) : Dev.Canon (Dev.launch d die q h data) := by
  unfold Dev.launch
  try dsimp only
  repeat' (first | with_reducible assumption | with_reducible apply Dev.emit_canon | with_reducible apply Dev.modPort_canon)

theorem Dev.turnIn_canon (d : Dev) (h data : Nat) (hd : Dev.Canon d) : Dev.Canon (Dev.turnIn d h data) := by
  unfold Dev.turnIn
  try dsimp only
  repeat' (first
      | with_reducible assumption | with_reducible apply Dev.queueFlit_canon | with_reducible apply canon_ite | split
      | (unfold Dev.Canon; dsimp only; with_reducible apply canon4_of))

theorem Dev.mwMove_canon (d : Dev) (die q c turn : Nat) (p : Nat × Nat × Nat × Nat) (hd : Dev.Canon d) : Dev.Canon (Dev.mwMove d die q c turn p) := by
  unfold Dev.mwMove
  try dsimp only
  repeat' (first
      | with_reducible assumption | with_reducible apply Dev.launch_canon | with_reducible apply Dev.emit_canon
      | with_reducible apply Dev.modPort_canon | with_reducible apply Dev.mwPerf_canon | with_reducible apply Dev.turnIn_canon
      | with_reducible apply canon_ite)

theorem Dev.mwSlot_canon (d : Dev) (die q : Nat) (hd : Dev.Canon d) : Dev.Canon (Dev.mwSlot d die q).1 := by
  unfold Dev.mwSlot
  try dsimp only
  repeat' (first
      | with_reducible assumption | with_reducible apply Dev.mwMove_canon | with_reducible apply Dev.mwPerf_canon
      | with_reducible apply canon_ite | with_reducible apply canon_ite_fst | dsimp only | split)

theorem Dev.mwMoves_canon (d : Dev) (die : Nat) (n0 : Nat) (hd : Dev.Canon d) : Dev.Canon (Dev.mwMoves d die n0) := by
  induction n0 generalizing d die with
  | zero =>
    unfold Dev.mwMoves
    try dsimp only
    repeat' with_reducible assumption
  | succ _ ih =>
    unfold Dev.mwMoves
    try dsimp only
    repeat' (first
        | with_reducible assumption | with_reducible apply ih | with_reducible apply Dev.mwSlot_canon | with_reducible apply canon_ite
        | with_reducible apply canon_ite_snd | with_reducible apply canon_ite_fst | (with_reducible apply canon_foldl_fst; intro _ _ _))

theorem Dev.mwIdle_canon (d : Dev) (die q : Nat) (n0 : Nat) (hd : Dev.Canon d) : Dev.Canon (Dev.mwIdle d die q n0) := by
  induction n0 generalizing d die q with
  | zero =>
    unfold Dev.mwIdle
    try dsimp only
    repeat' with_reducible assumption
  | succ _ ih =>
    unfold Dev.mwIdle
    try dsimp only
    repeat' (first
        | with_reducible assumption | with_reducible apply ih | with_reducible apply Dev.launch_canon | with_reducible apply canon_ite)

theorem Dev.runRouter_canon (d : Dev) (die : Nat) (hd : Dev.Canon d) : Dev.Canon (Dev.runRouter d die) := by
  unfold Dev.runRouter
  try dsimp only
  repeat' (first
      | with_reducible assumption | with_reducible apply Dev.mwIdle_canon | with_reducible apply Dev.mwMoves_canon
      | (with_reducible apply canon_foldl; intro _ _ _))

theorem Dev.mwGiveBack_canon (d : Dev) (die inn v : Nat) (hd : Dev.Canon d) : Dev.Canon (Dev.mwGiveBack d die inn v) := by
  unfold Dev.mwGiveBack
  try dsimp only
  repeat' (first | with_reducible assumption | with_reducible apply Dev.modPort_canon | with_reducible apply canon_ite)

theorem Dev.mwTake_canon (d : Dev) (die inn h data : Nat) (hd : Dev.Canon d) : Dev.Canon (Dev.mwTake d die inn h data) := by
  unfold Dev.mwTake
  try dsimp only
  repeat' (first
      | with_reducible assumption | with_reducible apply Dev.mwGiveBack_canon | with_reducible apply Dev.emit_canon
      | with_reducible apply Dev.modPort_canon | with_reducible apply Dev.errAdd_canon | with_reducible apply canon_ite)

theorem Dev.takeReturns_canon (d : Dev) (die q h : Nat) (hd : Dev.Canon d) : Dev.Canon (Dev.takeReturns d die q h) := by
  unfold Dev.takeReturns
  try dsimp only
  repeat' (first | with_reducible assumption | with_reducible apply Dev.modPort_canon)

theorem Dev.mwInject_canon (d : Dev) (die h data : Nat) (pair : Bool) (hd : Dev.Canon d) : Dev.Canon (Dev.mwInject d die h data pair) := by
  unfold Dev.mwInject
  try dsimp only
  repeat' (first
      | with_reducible assumption | with_reducible apply Dev.runRouter_canon | with_reducible apply Dev.mwTake_canon
      | with_reducible apply canon_ite)

theorem Dev.mwReceive_canon (d : Dev) (die q h data errs : Nat) (pair : Bool) (hd : Dev.Canon d) : Dev.Canon (Dev.mwReceive d die q h data errs pair) := by
  unfold Dev.mwReceive
  try dsimp only
  repeat' (first
      | with_reducible assumption | with_reducible apply Dev.runRouter_canon | with_reducible apply Dev.emit_canon
      | with_reducible apply Dev.mwInject_canon | with_reducible apply Dev.modPort_canon | with_reducible apply Dev.takeReturns_canon
      | with_reducible apply Dev.mwPerf_canon | with_reducible apply Dev.errAdd_canon | with_reducible apply Dev.mwTake_canon
      | with_reducible apply canon_ite)

theorem midwayReplayTimeout_canon (d : Dev) (die q slot : Nat) (hd : Dev.Canon d) : Dev.Canon (midwayReplayTimeout d die q slot) := by
  unfold midwayReplayTimeout
  try dsimp only
  repeat' (first
      | with_reducible assumption | with_reducible apply Dev.emit_canon | with_reducible apply Dev.modPort_canon
      | with_reducible apply Dev.errAdd_canon | with_reducible apply canon_ite | with_reducible apply canon_ite_snd
      | with_reducible apply canon_ite_fst | (with_reducible apply canon_foldl; intro _ _ _))

theorem Dev.routerFails_canon (d : Dev) (die info : Nat) (hd : Dev.Canon d) : Dev.Canon (Dev.routerFails d die info) := by
  unfold Dev.routerFails
  try dsimp only
  repeat' (first
      | with_reducible assumption | with_reducible apply Dev.raise_canon | with_reducible apply Dev.record_canon
      | with_reducible apply canon_ite | split | (unfold Dev.Canon; dsimp only; with_reducible apply canon4_of))

theorem Dev.badWires_canon (d : Dev) (die q dir : Nat) (old fresh : List Nat) (half : Bool) (hd : Dev.Canon d) : Dev.Canon (Dev.badWires d die q dir old fresh half) := by
  unfold Dev.badWires
  try dsimp only
  repeat' (first
      | with_reducible assumption | with_reducible apply Dev.raise_canon | with_reducible apply Dev.softRepair_canon
      | with_reducible apply Dev.notice_canon | with_reducible apply Dev.routerFails_canon | with_reducible apply Dev.errAdd_canon
      | with_reducible apply canon_ite | with_reducible apply canon_ite_snd | with_reducible apply canon_ite_fst
      | (with_reducible apply canon_foldl; intro _ _ _))

theorem Dev.portTrained_canon (d : Dev) (die q : Nat) (outM inM : List WireMargin) (hd : Dev.Canon d) : Dev.Canon (Dev.portTrained d die q outM inM) := by
  unfold Dev.portTrained
  try dsimp only
  repeat' (first | with_reducible assumption | with_reducible apply Dev.badWires_canon | with_reducible apply Dev.modPort_canon)

theorem Dev.mwRetrain_canon (d : Dev) (die q : Nat) (outM inM : List WireMargin) (hd : Dev.Canon d) : Dev.Canon (Dev.mwRetrain d die q outM inM) := by
  unfold Dev.mwRetrain
  repeat' (first
      | with_reducible assumption | with_reducible apply Dev.runRouter_canon | with_reducible apply Dev.portTrained_canon
      | with_reducible apply canon_ite)

theorem Dev.midwayTrained_canon (d : Dev) (l : List PortMargins) (hd : Dev.Canon d) : Dev.Canon (Dev.midwayTrained d l) := by
  unfold Dev.midwayTrained
  try dsimp only
  repeat' (first
      | with_reducible assumption | with_reducible apply Dev.portTrained_canon | with_reducible apply canon_ite
      | with_reducible apply canon_ite_snd | with_reducible apply canon_ite_fst | (with_reducible apply canon_foldl; intro _ _ _))

theorem mwRouterFail_canon (d : Dev) (die q dir : Nat) (hd : Dev.Canon d) : Dev.Canon (mwRouterFail d die q dir) := by
  unfold mwRouterFail
  repeat' (first | with_reducible assumption | with_reducible apply Dev.routerFails_canon | with_reducible apply canon_ite)

theorem Dev.modStack_canon (d : Dev) (s : Nat) (f : Stack → Stack) (hd : Dev.Canon d) : Dev.Canon (Dev.modStack d s f) := by
  unfold Dev.modStack
  repeat' (first | with_reducible assumption | (unfold Dev.Canon; dsimp only; with_reducible apply canon4_of))

theorem Dev.modPc_canon (d : Dev) (s q : Nat) (f : PseudoChannel → PseudoChannel) (hd : Dev.Canon d) : Dev.Canon (Dev.modPc d s q f) := by
  unfold Dev.modPc
  try dsimp only
  repeat' (first | with_reducible assumption | with_reducible apply Dev.modStack_canon)

theorem Dev.stackErr_canon (d : Dev) (s i n : Nat) (hd : Dev.Canon d) : Dev.Canon (Dev.stackErr d s i n) := by
  unfold Dev.stackErr
  repeat' (first | with_reducible assumption | with_reducible apply Dev.errAdd_canon)

theorem Dev.stackPerf_canon (d : Dev) (s i n : Nat) (hd : Dev.Canon d) : Dev.Canon (Dev.stackPerf d s i n) := by
  unfold Dev.stackPerf
  repeat' (first | with_reducible assumption | with_reducible apply Dev.perfAdd_canon)

theorem Dev.spareChannel_canon (d : Dev) (s q cause : Nat) (hd : Dev.Canon d) : Dev.Canon (Dev.spareChannel d s q cause) := by
  unfold Dev.spareChannel
  try dsimp only
  repeat' (first
      | with_reducible assumption | with_reducible apply Dev.raise_canon | with_reducible apply Dev.modStack_canon
      | with_reducible apply Dev.modPc_canon | with_reducible apply canon_ite)

theorem Dev.corrected_canon (d : Dev) (s q : Nat) (hd : Dev.Canon d) : Dev.Canon (Dev.corrected d s q) := by
  unfold Dev.corrected
  try dsimp only
  repeat' (first
      | with_reducible assumption | with_reducible apply Dev.spareChannel_canon | with_reducible apply Dev.stackErr_canon
      | with_reducible apply Dev.modPc_canon | with_reducible apply canon_ite)

theorem Dev.countUe_canon (d : Dev) (s q cw : Nat) (hd : Dev.Canon d) : Dev.Canon (Dev.countUe d s q cw) := by
  unfold Dev.countUe
  try dsimp only
  repeat' (first
      | with_reducible assumption | with_reducible apply Dev.spareChannel_canon | with_reducible apply Dev.modPc_canon
      | with_reducible apply canon_ite)

theorem Dev.markPoison_canon (d : Dev) (a : Nat) (hd : Dev.Canon d) : Dev.Canon (Dev.markPoison d a) := by
  unfold Dev.markPoison
  repeat' (first | with_reducible assumption | (unfold Dev.Canon; dsimp only; with_reducible apply canon4_of))

theorem Dev.poisonWord_canon (d : Dev) (pen cw : Nat) (inFold : Bool) (hd : Dev.Canon d) : Dev.Canon (Dev.poisonWord d pen cw inFold) := by
  unfold Dev.poisonWord
  try dsimp only
  repeat' (first
      | with_reducible assumption | with_reducible apply Dev.raise_canon | with_reducible apply Dev.countUe_canon
      | with_reducible apply Dev.markPoison_canon | with_reducible apply Dev.stackErr_canon | with_reducible apply canon_ite)

theorem Dev.decodeWords_canon (d : Dev) (pen : Nat) (cws : List Nat) (errs : List (Nat × Nat)) (hd : Dev.Canon d) : Dev.Canon (Dev.decodeWords d pen cws errs).2 := by
  unfold Dev.decodeWords
  try dsimp only
  repeat' (first
      | with_reducible assumption | with_reducible apply Dev.corrected_canon | with_reducible apply Dev.poisonWord_canon
      | (with_reducible apply canon_foldl_snd; intro _ _ _) | (refine canon_snd (by with_reducible assumption) ?_)
      | (refine canon_fst (by with_reducible assumption) ?_) | with_reducible intro _ | dsimp only | split)

theorem Dev.isolation_canon (d : Dev) (target : Nat) (x : StackReq) (hd : Dev.Canon d) : Dev.Canon (Dev.isolation d target x) := by
  unfold Dev.isolation
  try dsimp only
  repeat' (first
      | with_reducible assumption | with_reducible apply Dev.raise_canon | with_reducible apply Dev.errAdd_canon
      | with_reducible apply canon_ite)

theorem Dev.grantAlone_canon (d : Dev) (x : StackReq) (hd : Dev.Canon d) : Dev.Canon (Dev.grantAlone d x) := by
  unfold Dev.grantAlone
  try dsimp only
  repeat' (first | with_reducible assumption | with_reducible apply Dev.stackPerf_canon | with_reducible apply Dev.modStack_canon)

theorem Dev.transfer_canon (d : Dev) (x : StackReq) (hd : Dev.Canon d) : Dev.Canon (Dev.transfer d x).2 := by
  unfold Dev.transfer
  try dsimp only
  repeat' (first
      | with_reducible assumption | with_reducible apply Dev.penWrite_canon | with_reducible apply Dev.modStack_canon
      | with_reducible apply Dev.isolation_canon | with_reducible apply Dev.decodeWords_canon | with_reducible apply Dev.stackErr_canon
      | with_reducible apply Dev.errAdd_canon | with_reducible apply Dev.perfAdd_canon | with_reducible apply Dev.stackPerf_canon
      | with_reducible apply Dev.poisonWord_canon | with_reducible apply canon_ite | with_reducible apply canon_ite_snd
      | with_reducible apply canon_ite_fst | (with_reducible apply canon_foldl; intro _ _ _))

theorem Dev.access_canon (d : Dev) (die core pen atomic : Nat) (high : Bool) (errs : List (Nat × Nat)) (n0 : Nat) (n1 : Nat) (n2 : Nat) (n3 : Option (List Byte)) (hd : Dev.Canon d) : Dev.Canon (Dev.access d die core pen atomic high errs n0 n1 n2 n3).2 := by
  induction n0 generalizing d die core pen atomic high errs n1 n2 n3 with
  | zero =>
    unfold Dev.access
    try dsimp only
    repeat' with_reducible assumption
  | succ _ ih =>
    unfold Dev.access
    try dsimp only
    repeat' (first
        | with_reducible assumption | with_reducible apply ih | with_reducible apply Dev.grantAlone_canon
        | with_reducible apply Dev.transfer_canon | with_reducible apply canon_ite | with_reducible apply canon_ite_snd)

theorem Dev.agentRead_canon (d : Dev) (die pen off n : Nat) (hd : Dev.Canon d) : Dev.Canon (Dev.agentRead d die pen off n).2 := by
  unfold Dev.agentRead
  repeat' (first | with_reducible assumption | with_reducible apply Dev.access_canon)

theorem Dev.agentWrite_canon (d : Dev) (die pen off : Nat) (bs : List Byte) (hd : Dev.Canon d) : Dev.Canon (Dev.agentWrite d die pen off bs) := by
  unfold Dev.agentWrite
  repeat' (first | with_reducible assumption | with_reducible apply Dev.access_canon)

theorem Dev.metPoison_canon (d : Dev) (k : Nat) (l : List Nat) (hd : Dev.Canon d) : Dev.Canon (Dev.metPoison d k l) := by
  unfold Dev.metPoison
  try dsimp only
  repeat' (first | with_reducible assumption | with_reducible apply Dev.modCore_canon | with_reducible apply canon_ite)

theorem Dev.pcDrained_canon (d : Dev) (s : Nat) (l : List (Nat × Nat)) (hd : Dev.Canon d) : Dev.Canon (Dev.pcDrained d s l) := by
  unfold Dev.pcDrained
  try dsimp only
  repeat' (first
      | with_reducible assumption | with_reducible apply Dev.modPc_canon | with_reducible apply canon_ite
      | with_reducible apply canon_ite_snd | with_reducible apply canon_ite_fst | (with_reducible apply canon_foldl; intro _ _ _))

theorem Dev.pcQueue_canon (d : Dev) (s : Nat) (x : StackReq) (hd : Dev.Canon d) : Dev.Canon (Dev.pcQueue d s x) := by
  unfold Dev.pcQueue
  try dsimp only
  repeat' (first | with_reducible assumption | with_reducible apply Dev.modPc_canon | with_reducible apply canon_ite)

theorem Dev.stackReply_canon (d : Dev) (x : StackReq) (r : StackReply) (hd : Dev.Canon d) : Dev.Canon (Dev.stackReply d x r) := by
  unfold Dev.stackReply
  try dsimp only
  repeat' (first
      | with_reducible assumption | with_reducible apply Dev.emit_canon | with_reducible apply Dev.metPoison_canon
      | with_reducible apply canon_ite)

theorem stackTransfer_canon (d : Dev) (s k cycle : Nat) (drained : List (Nat × Nat)) (reqs : List StackReq) (hd : Dev.Canon d) : Dev.Canon (stackTransfer d s k cycle drained reqs) := by
  unfold stackTransfer
  try dsimp only
  repeat' (first
      | with_reducible assumption | with_reducible apply Dev.pcDrained_canon | with_reducible apply Dev.stackReply_canon
      | with_reducible apply Dev.pcQueue_canon | with_reducible apply Dev.stackPerf_canon | with_reducible apply Dev.modStack_canon
      | with_reducible apply Dev.transfer_canon | with_reducible apply canon_ite | with_reducible apply canon_ite_snd
      | with_reducible apply canon_ite_fst | (refine canon_snd (by with_reducible assumption) ?_)
      | (refine canon_fst (by with_reducible assumption) ?_) | with_reducible intro _ | dsimp only | split)

theorem Dev.dropMessages_canon (d : Dev) (l : Nat) (hd : Dev.Canon d) : Dev.Canon (Dev.dropMessages d l) := by
  unfold Dev.dropMessages
  try dsimp only
  repeat' (first
      | with_reducible assumption | with_reducible apply Dev.freeEntry_canon | with_reducible apply canon_ite
      | with_reducible apply canon_ite_snd | with_reducible apply canon_ite_fst | (with_reducible apply canon_foldl; intro _ _ _)
      | (refine canon_snd (by with_reducible assumption) ?_) | (refine canon_fst (by with_reducible assumption) ?_)
      | with_reducible intro _ | dsimp only | split | (unfold Dev.Canon; dsimp only; with_reducible apply canon4_of))

theorem Dev.goDown_canon (d : Dev) (l : Nat) (hd : Dev.Canon d) : Dev.Canon (Dev.goDown d l) := by
  unfold Dev.goDown
  try dsimp only
  repeat' (first
      | with_reducible assumption | with_reducible apply Dev.dropMessages_canon | with_reducible apply Dev.beatLost_canon
      | with_reducible apply Dev.notice_canon | with_reducible apply Dev.modLink_canon | with_reducible apply bypass_canon
      | with_reducible apply canon_ite)

theorem linkDown_canon (d : Dev) (l : Nat) (hd : Dev.Canon d) : Dev.Canon (linkDown d l) := by
  unfold linkDown
  repeat' (first | with_reducible assumption | with_reducible apply Dev.goDown_canon | with_reducible apply canon_ite)

theorem svcLinkTrain_canon (d : Dev) (c : Door) (hd : Dev.Canon d) : Svc.Canon (svcLinkTrain d c) := by
  unfold svcLinkTrain
  try dsimp only
  repeat' (first
      | with_reducible assumption | with_reducible apply linkTrain_canon | with_reducible apply Dev.newHandle_canon
      | with_reducible apply Dev.goDown_canon | with_reducible apply Dev.modLink_canon | with_reducible apply bypass_canon
      | with_reducible apply svc_ok | with_reducible apply svc_pure | with_reducible apply svc_error | with_reducible apply svc_bind_dev
      | (with_reducible apply svc_bind; intro _ _))

theorem linkTrain_canon (d : Dev) (c : Door) (hd : Dev.Canon d) : Dev.Canon (linkTrain d c) := by
  unfold linkTrain
  repeat' (first
      | with_reducible assumption | with_reducible apply svcLinkTrain_canon | with_reducible apply Dev.serve_canon | with_reducible intro _)

theorem Dev.trainFailed_canon (d : Dev) (l phase status : Nat) (hd : Dev.Canon d) : Dev.Canon (Dev.trainFailed d l phase status) := by
  unfold Dev.trainFailed
  try dsimp only
  repeat' (first | with_reducible assumption | with_reducible apply Dev.modLink_canon | with_reducible apply Dev.finish_canon)

theorem linkTrainingDone_canon (d : Dev) (l : Nat) (t : LinkFacts) (hd : Dev.Canon d) : Dev.Canon (linkTrainingDone d l t) := by
  unfold linkTrainingDone
  try dsimp only
  repeat' (first
      | with_reducible assumption | with_reducible apply Dev.emit_canon | with_reducible apply Dev.modLink_canon
      | with_reducible apply bypass_canon | with_reducible apply Dev.finish_canon | with_reducible apply Dev.trainFailed_canon
      | with_reducible apply canon_ite)

theorem linkTrainTimeout_canon (d : Dev) (l : Nat) (hd : Dev.Canon d) : Dev.Canon (linkTrainTimeout d l) := by
  unfold linkTrainTimeout
  repeat' (first | with_reducible assumption | with_reducible apply Dev.trainFailed_canon | with_reducible apply canon_ite)

theorem svcLinkQuery_canon (d : Dev) (c : Door) (hd : Dev.Canon d) : Svc.Canon (svcLinkQuery d c) := by
  unfold svcLinkQuery
  try dsimp only
  repeat' (first
      | with_reducible assumption | with_reducible apply bypass_canon | with_reducible apply svc_ok | with_reducible apply svc_pure
      | with_reducible apply svc_error | with_reducible apply svc_bind_dev | (with_reducible apply svc_bind; intro _ _))

theorem linkQuery_canon (d : Dev) (c : Door) (hd : Dev.Canon d) : Dev.Canon (linkQuery d c) := by
  unfold linkQuery
  repeat' (first
      | with_reducible assumption | with_reducible apply Dev.serve_canon | with_reducible apply svcLinkQuery_canon | with_reducible intro _)

theorem svcRouteSet_canon (d : Dev) (c : Door) (hd : Dev.Canon d) : Svc.Canon (svcRouteSet d c) := by
  unfold svcRouteSet
  try dsimp only
  repeat' (first
      | with_reducible assumption | with_reducible apply Dev.emit_canon | with_reducible apply Dev.newHandle_canon
      | with_reducible apply routeSet_canon | with_reducible apply svc_ok | with_reducible apply svc_pure | with_reducible apply svc_error
      | with_reducible apply svc_bind_dev | (with_reducible apply svc_bind; intro _ _))

theorem routeSet_canon (d : Dev) (c : Door) (hd : Dev.Canon d) : Dev.Canon (routeSet d c) := by
  unfold routeSet
  repeat' (first
      | with_reducible assumption | with_reducible apply Dev.serve_canon | with_reducible apply svcRouteSet_canon | with_reducible intro _)

theorem Dev.routeApply_canon (d : Dev) (h addr sizes wraps roles : Nat) (bs : List Byte) (hd : Dev.Canon d) : Dev.Canon (Dev.routeApply d h addr sizes wraps roles bs) := by
  unfold Dev.routeApply
  try dsimp only
  repeat' (first
      | with_reducible assumption | with_reducible apply Dev.finish_canon | with_reducible intro _
      | (unfold Dev.Canon; dsimp only; with_reducible apply canon4_of))

theorem Dev.resend_canon (d : Dev) (l : Nat) (p : Nat → Bool) (hd : Dev.Canon d) : Dev.Canon (Dev.resend d l p) := by
  unfold Dev.resend
  try dsimp only
  repeat' (first
      | with_reducible assumption | with_reducible apply Dev.pumpLink_canon | with_reducible apply Dev.modLink_canon
      | with_reducible apply canon_ite)

theorem Dev.takeControl_canon (d : Dev) (l : Nat) (body : List Byte) (hd : Dev.Canon d) : Dev.Canon (Dev.takeControl d l body) := by
  unfold Dev.takeControl
  try dsimp only
  repeat' (first
      | with_reducible assumption | with_reducible apply Dev.pauseTx_canon | with_reducible apply Dev.pumpLink_canon
      | with_reducible apply Dev.modLink_canon | with_reducible apply Dev.resend_canon | with_reducible apply canon_ite)

theorem stileRetransmitTimeout_canon (d : Dev) (l : Nat) (hd : Dev.Canon d) : Dev.Canon (stileRetransmitTimeout d l) := by
  unfold stileRetransmitTimeout
  try dsimp only
  repeat' (first | with_reducible assumption | with_reducible apply Dev.resend_canon)

theorem Dev.sendNak_canon (d : Dev) (l : Nat) (from_ : Bool) (hd : Dev.Canon d) : Dev.Canon (Dev.sendNak d l from_) := by
  unfold Dev.sendNak
  try dsimp only
  repeat' (first | with_reducible assumption | with_reducible apply Dev.modLink_canon | with_reducible apply Dev.pumpLink_canon)

theorem stileNakTimeout_canon (d : Dev) (l : Nat) (hd : Dev.Canon d) : Dev.Canon (stileNakTimeout d l) := by
  unfold stileNakTimeout
  repeat' (first | with_reducible assumption | with_reducible apply Dev.sendNak_canon | with_reducible apply canon_ite)

theorem Dev.answerPeer_canon (d : Dev) (src : Nat) (data : List Byte) (hd : Dev.Canon d) : Dev.Canon (Dev.answerPeer d src data) := by
  unfold Dev.answerPeer
  try dsimp only
  repeat' (first
      | with_reducible assumption | with_reducible apply Dev.sendMsg_canon | with_reducible apply Dev.agentRead_canon
      | (refine canon_snd (by with_reducible assumption) ?_) | (refine canon_fst (by with_reducible assumption) ?_) | dsimp only | split)

theorem Dev.messageIn_canon (d : Dev) (l : Nat) (bs : List Byte) (hd : Dev.Canon d) : Dev.Canon (Dev.messageIn d l bs) := by
  unfold Dev.messageIn
  try dsimp only
  repeat' (first
      | with_reducible assumption | with_reducible apply Dev.emit_canon | with_reducible apply Dev.answerPeer_canon
      | with_reducible apply Dev.linkErr_canon | with_reducible apply canon_ite | with_reducible intro _ | split
      | (unfold Dev.Canon; dsimp only; with_reducible apply canon4_of))

theorem Dev.startMsg_canon (d : Dev) (l v : Nat) (body : List Byte) (hd : Dev.Canon d) : Dev.Canon (Dev.startMsg d l v body).2 := by
  unfold Dev.startMsg
  try dsimp only
  repeat' (first
      | with_reducible assumption | with_reducible apply Dev.unroutable_canon | with_reducible apply Dev.linkErr_canon
      | with_reducible apply canon_ite | with_reducible apply canon_ite_snd | dsimp only | split)

theorem Dev.pumpTurns_canon (d : Dev) (l : Nat) (n0 : Nat) (hd : Dev.Canon d) : Dev.Canon (Dev.pumpTurns d l n0) := by
  induction n0 generalizing d l with
  | zero =>
    unfold Dev.pumpTurns
    try dsimp only
    repeat' with_reducible assumption
  | succ _ ih =>
    unfold Dev.pumpTurns
    try dsimp only
    repeat' (first
        | with_reducible assumption | with_reducible apply ih | with_reducible apply Dev.mwInject_canon
        | with_reducible apply Dev.modLink_canon | with_reducible apply canon_ite | split)

theorem Dev.moveTurns_canon (d : Dev) (die : Nat) (hd : Dev.Canon d) : Dev.Canon (Dev.moveTurns d die) := by
  unfold Dev.moveTurns
  try dsimp only
  repeat' (first | with_reducible assumption | with_reducible apply Dev.pumpTurns_canon | (with_reducible apply canon_foldl; intro _ _ _))

theorem midwayFlitReceive_canon (d : Dev) (die q h data errs : Nat) (pair : Bool) (hd : Dev.Canon d) : Dev.Canon (midwayFlitReceive d die q h data errs pair) := by
  unfold midwayFlitReceive
  repeat' (first | with_reducible assumption | with_reducible apply Dev.moveTurns_canon | with_reducible apply Dev.mwReceive_canon)

theorem midwayRetrain_canon (d : Dev) (die q : Nat) (outM inM : List WireMargin) (hd : Dev.Canon d) : Dev.Canon (midwayRetrain d die q outM inM) := by
  unfold midwayRetrain
  repeat' (first | with_reducible assumption | with_reducible apply Dev.moveTurns_canon | with_reducible apply Dev.mwRetrain_canon)

theorem Dev.feedMsg_canon (d : Dev) (l v : Nat) (m : RxMsg) (ft : Nat) (body : List Byte) (hd : Dev.Canon d) : Dev.Canon (Dev.feedMsg d l v m ft body) := by
  unfold Dev.feedMsg
  try dsimp only
  repeat' (first
      | with_reducible assumption | with_reducible apply Dev.messageIn_canon | with_reducible apply Dev.freeEntry_canon
      | with_reducible apply Dev.queueFlit_canon | with_reducible apply Dev.moveTurns_canon | with_reducible apply Dev.modLink_canon
      | with_reducible apply canon_ite)

theorem Dev.deliverFlit_canon (d : Dev) (l : Nat) (f : List Byte) (hd : Dev.Canon d) : Dev.Canon (Dev.deliverFlit d l f) := by
  unfold Dev.deliverFlit
  try dsimp only
  repeat' (first
      | with_reducible assumption | with_reducible apply Dev.linkPerf_canon | with_reducible apply Dev.freeEntry_canon
      | with_reducible apply Dev.startMsg_canon | with_reducible apply Dev.feedMsg_canon | with_reducible apply Dev.modLink_canon
      | with_reducible apply canon_ite | (refine canon_snd (by with_reducible assumption) ?_)
      | (refine canon_fst (by with_reducible assumption) ?_) | dsimp only | split)

theorem Dev.deliverHeld_canon (d : Dev) (l : Nat) (n0 : Nat) (hd : Dev.Canon d) : Dev.Canon (Dev.deliverHeld d l n0) := by
  induction n0 generalizing d l with
  | zero =>
    unfold Dev.deliverHeld
    try dsimp only
    repeat' with_reducible assumption
  | succ _ ih =>
    unfold Dev.deliverHeld
    try dsimp only
    repeat' (first
        | with_reducible assumption | with_reducible apply ih | with_reducible apply Dev.modLink_canon
        | with_reducible apply Dev.deliverFlit_canon | split)

theorem Dev.gap_canon (d : Dev) (l : Nat) (hd : Dev.Canon d) : Dev.Canon (Dev.gap d l) := by
  unfold Dev.gap
  repeat' (first | with_reducible assumption | with_reducible apply Dev.sendNak_canon | with_reducible apply canon_ite)

theorem Dev.dataFlit_canon (d : Dev) (l n : Nat) (f : List Byte) (hd : Dev.Canon d) : Dev.Canon (Dev.dataFlit d l n f) := by
  unfold Dev.dataFlit
  try dsimp only
  repeat' (first
      | with_reducible assumption | with_reducible apply Dev.gap_canon | with_reducible apply Dev.deliverHeld_canon
      | with_reducible apply Dev.sendNak_canon | with_reducible apply Dev.modLink_canon | with_reducible apply Dev.deliverFlit_canon
      | with_reducible apply canon_ite)

theorem Dev.badCrc_canon (d : Dev) (l : Nat) (hd : Dev.Canon d) : Dev.Canon (Dev.badCrc d l) := by
  unfold Dev.badCrc
  try dsimp only
  repeat' (first
      | with_reducible assumption | with_reducible apply Dev.notice_canon | with_reducible apply Dev.linkErr_canon
      | with_reducible apply Dev.modLink_canon | with_reducible apply bypass_canon | with_reducible apply canon_ite)

theorem Dev.takeWords_canon (d : Dev) (l : Nat) (ws : List (Nat × Nat × Nat)) (hd : Dev.Canon d) : Dev.Canon (Dev.takeWords d l ws) := by
  unfold Dev.takeWords
  try dsimp only
  repeat' (first
      | with_reducible assumption | with_reducible apply Dev.linkPerf_canon | with_reducible apply Dev.linkErr_canon
      | with_reducible apply Dev.modLink_canon | with_reducible apply bypass_canon | with_reducible apply canon_ite
      | with_reducible apply canon_ite_snd | with_reducible apply canon_ite_fst | (with_reducible apply canon_foldl; intro _ _ _))

theorem stileFlitReceive_canon (d : Dev) (l : Nat) (f : List Byte) (x : StileFacts) (hd : Dev.Canon d) : Dev.Canon (stileFlitReceive d l f x) := by
  unfold stileFlitReceive
  try dsimp only
  repeat' (first
      | with_reducible assumption | with_reducible apply Dev.dataFlit_canon | with_reducible apply Dev.gap_canon
      | with_reducible apply Dev.takeControl_canon | with_reducible apply Dev.takeWords_canon | with_reducible apply Dev.modLink_canon
      | with_reducible apply Dev.linkErr_canon | with_reducible apply Dev.badCrc_canon | with_reducible apply canon_ite)

theorem stileControlDue_canon (d : Dev) (l idle : Nat) (hd : Dev.Canon d) : Dev.Canon (stileControlDue d l idle) := by
  unfold stileControlDue
  repeat' (first
      | with_reducible assumption | with_reducible apply Dev.sendIdles_canon | with_reducible apply Dev.pumpLink_canon
      | with_reducible apply canon_ite)

theorem laneFailure_canon (d : Dev) (l lane : Nat) (hd : Dev.Canon d) : Dev.Canon (laneFailure d l lane) := by
  unfold laneFailure
  try dsimp only
  repeat' (first
      | with_reducible assumption | with_reducible apply Dev.goDown_canon | with_reducible apply Dev.pumpLink_canon
      | with_reducible apply Dev.modLink_canon | with_reducible apply canon_ite)

theorem Dev.laneRecords_canon (d : Dev) (l dir old new : Nat) (lanes : List Nat) (hd : Dev.Canon d) : Dev.Canon (Dev.laneRecords d l dir old new lanes) := by
  unfold Dev.laneRecords
  try dsimp only
  repeat' (first
      | with_reducible assumption | with_reducible apply Dev.record_canon | with_reducible apply Dev.notice_canon
      | with_reducible apply Dev.linkErr_canon | with_reducible apply canon_ite | with_reducible apply canon_ite_snd
      | with_reducible apply canon_ite_fst | (with_reducible apply canon_foldl; intro _ _ _))

theorem repairPauseEnd_canon (d : Dev) (l : Nat) (tx : Bool) (lanes : List Nat) (far slices : Nat) (hd : Dev.Canon d) : Dev.Canon (repairPauseEnd d l tx lanes far slices) := by
  unfold repairPauseEnd
  try dsimp only
  repeat' (first
      | with_reducible assumption | with_reducible apply Dev.laneRecords_canon | with_reducible apply Dev.sendNak_canon
      | with_reducible apply Dev.goDown_canon | with_reducible apply Dev.pumpLink_canon | with_reducible apply Dev.modLink_canon
      | with_reducible apply canon_ite)

theorem Dev.pauseLink_canon (d : Dev) (l : Nat) (hd : Dev.Canon d) : Dev.Canon (Dev.pauseLink d l) := by
  unfold Dev.pauseLink
  try dsimp only
  repeat' (first
      | with_reducible assumption | with_reducible apply Dev.modLink_canon | with_reducible apply Dev.pauseTx_canon
      | with_reducible apply Dev.pumpLink_canon | with_reducible apply canon_ite)

theorem governorEvaluation_canon (d : Dev) (w vinCv : Nat) (hd : Dev.Canon d) : Dev.Canon (governorEvaluation d w vinCv) := by
  unfold governorEvaluation
  try dsimp only
  repeat' (first
      | with_reducible assumption | (unfold Dev.Canon; dsimp only; rw [Power.evaluate_window]; with_reducible apply canon4_of)
      | with_reducible apply Dev.notice_canon | with_reducible apply canon_ite)

theorem Dev.applyCap_canon (d : Dev) (cap clock : Nat) (hd : Dev.Canon d) : Dev.Canon (Dev.applyCap d cap clock) := by
  unfold Dev.applyCap
  try dsimp only
  repeat' (first
      | with_reducible assumption | (unfold Dev.Canon; dsimp only; rw [Power.change_window _ _ rfl]; with_reducible apply canon4_of)
      | with_reducible apply canon_ite)

theorem powerCapChange_canon (d : Dev) (cap : Nat) (hd : Dev.Canon d) : Dev.Canon (powerCapChange d cap) := by
  unfold powerCapChange
  try dsimp only
  repeat' (first | with_reducible assumption | with_reducible apply Dev.calDrop_canon | with_reducible apply Dev.applyCap_canon | split)

theorem uvWarn_canon (d : Dev) (mv : Nat) (hd : Dev.Canon d) : Dev.Canon (uvWarn d mv) := by
  unfold uvWarn
  try dsimp only
  repeat' (first
      | with_reducible assumption | (unfold Dev.Canon; dsimp only; rw [Power.change_window _ _ rfl]; with_reducible apply canon4_of)
      | split | (unfold Dev.Canon; dsimp only; with_reducible apply canon4_of))

theorem uvWarnClear_canon (d : Dev) (minMv durUs : Nat) (hd : Dev.Canon d) : Dev.Canon (uvWarnClear d minMv durUs) := by
  unfold uvWarnClear
  try dsimp only
  repeat' (first
      | with_reducible assumption | (unfold Dev.Canon; dsimp only; rw [Power.change_window _ _ rfl]; with_reducible apply canon4_of)
      | with_reducible apply Dev.event_canon | with_reducible apply canon_ite | split
      | (unfold Dev.Canon; dsimp only; with_reducible apply canon4_of))

theorem dipTimerExpire_canon (d : Dev) (hd : Dev.Canon d) : Dev.Canon (dipTimerExpire d) := by
  unfold dipTimerExpire
  repeat' (first
      | with_reducible assumption | with_reducible apply canon_ite | split | (unfold Dev.Canon; dsimp only; with_reducible apply canon4_of))

theorem thermalRead_canon (d : Dev) (dies stk : List Nat) (hd : Dev.Canon d) : Dev.Canon (thermalRead d dies stk) := by
  unfold thermalRead
  try dsimp only
  repeat' (first
      | with_reducible assumption | (unfold Dev.Canon; dsimp only; rw [Power.change_window _ _ rfl]; with_reducible apply canon4_of))

theorem Dev.quiesceTxn_canon (d : Dev) (g : Nat) (boundary : Bool) (t : Txn) (hd : Dev.Canon d) : Dev.Canon (Dev.quiesceTxn d g boundary t) := by
  unfold Dev.quiesceTxn
  try dsimp only
  repeat' (first
      | with_reducible assumption | with_reducible apply Dev.boundary_canon | with_reducible apply Dev.dropTxn_canon
      | with_reducible apply Dev.modTxn_canon | with_reducible apply Dev.finish_canon | with_reducible apply canon_ite)

theorem Dev.quiesce_canon (d : Dev) (g : Nat) (boundary : Bool) (hd : Dev.Canon d) : Dev.Canon (Dev.quiesce d g boundary) := by
  unfold Dev.quiesce
  try dsimp only
  repeat' (first
      | with_reducible assumption | with_reducible apply Dev.modGroup_canon | with_reducible apply Dev.boundary_canon
      | with_reducible apply Dev.quiesceTxn_canon | with_reducible apply canon_ite | with_reducible apply canon_ite_snd
      | with_reducible apply canon_ite_fst | (with_reducible apply canon_foldl; intro _ _ _))

theorem Dev.commitPasture_canon (d : Dev) (p k v : Nat) (hd : Dev.Canon d) : Dev.Canon (Dev.commitPasture d p k v) := by
  unfold Dev.commitPasture
  try dsimp only
  repeat' (first
      | with_reducible assumption | with_reducible apply Dev.modGroup_canon | with_reducible apply Dev.modPasture_canon
      | with_reducible apply canon_ite | with_reducible apply canon_ite_snd | with_reducible apply canon_ite_fst
      | (with_reducible apply canon_foldl; intro _ _ _))

theorem Dev.commitPackage_canon (d : Dev) (k v : Nat) (hd : Dev.Canon d) : Dev.Canon (Dev.commitPackage d k v) := by
  unfold Dev.commitPackage
  try dsimp only
  repeat' (first
      | with_reducible assumption | with_reducible apply Dev.joinNotice_canon | with_reducible apply Dev.modGroup_canon
      | with_reducible apply Dev.pauseLink_canon | with_reducible apply Dev.applyCap_canon | with_reducible apply canon_ite | split
      | (unfold Dev.Canon; dsimp only; with_reducible apply canon4_of))

theorem Dev.commitItems_canon (d : Dev) (t : Txn) (hd : Dev.Canon d) : Dev.Canon (Dev.commitItems d t) := by
  unfold Dev.commitItems
  try dsimp only
  repeat' (first
      | with_reducible assumption | with_reducible apply Dev.commitPackage_canon | with_reducible apply Dev.commitPasture_canon
      | with_reducible apply canon_ite | with_reducible apply canon_ite_snd | with_reducible apply canon_ite_fst
      | (with_reducible apply canon_foldl; intro _ _ _))

theorem Dev.fireCommit_canon (d : Dev) (t : Txn) (hd : Dev.Canon d) : Dev.Canon (Dev.fireCommit d t) := by
  unfold Dev.fireCommit
  try dsimp only
  repeat' (first
      | with_reducible assumption | with_reducible apply Dev.rollBack_canon | with_reducible apply Dev.calDrop_canon
      | with_reducible apply Dev.dropTxn_canon | with_reducible apply Dev.modTxn_canon | with_reducible apply Dev.finish_canon
      | with_reducible apply Dev.commitItems_canon | with_reducible apply canon_ite | split)

theorem Dev.commitsDue_canon (d : Dev) (hd : Dev.Canon d) : Dev.Canon (Dev.commitsDue d) := by
  unfold Dev.commitsDue
  try dsimp only
  repeat' (first
      | with_reducible assumption | with_reducible apply Dev.fireCommit_canon | with_reducible apply Dev.holdEntries_canon
      | with_reducible apply canon_ite | with_reducible apply canon_ite_snd | with_reducible apply canon_ite_fst
      | (with_reducible apply canon_foldl; intro _ _ _))

theorem configurationCommit_canon (d : Dev) (hd : Dev.Canon d) : Dev.Canon (configurationCommit d) := by
  unfold configurationCommit
  repeat' (first | with_reducible assumption | with_reducible apply Dev.commitsDue_canon)

theorem Dev.discardCommit_canon (d : Dev) (t : Txn) (hd : Dev.Canon d) : Dev.Canon (Dev.discardCommit d t) := by
  unfold Dev.discardCommit
  repeat' (first | with_reducible assumption | with_reducible apply Dev.rollBack_canon)

theorem Dev.countAs_canon (d : Dev) (k rows total : Nat) (found : Bool) (hd : Dev.Canon d) : Dev.Canon (Dev.countAs d k rows total found) := by
  unfold Dev.countAs
  try dsimp only
  repeat' (first | with_reducible assumption | with_reducible apply Dev.corePerf_canon | with_reducible apply Dev.coreErr_canon)

theorem Dev.remoteRead_canon (d : Dev) (k addr n : Nat) (prio : Bool) (errs : List (Nat × Nat)) (hd : Dev.Canon d) : Dev.Canon (Dev.remoteRead d k addr n prio errs).2 := by
  unfold Dev.remoteRead
  try dsimp only
  repeat' (first
      | with_reducible assumption | with_reducible apply Dev.wideRows_canon | with_reducible apply Dev.access_canon
      | with_reducible apply canon_ite | with_reducible apply canon_ite_snd)

theorem Dev.remoteWrite_canon (d : Dev) (k addr atomic : Nat) (prio : Bool) (errs : List (Nat × Nat)) (bs : List Byte) (hd : Dev.Canon d) : Dev.Canon (Dev.remoteWrite d k addr atomic prio errs bs).2 := by
  unfold Dev.remoteWrite
  try dsimp only
  repeat' (first
      | with_reducible assumption | with_reducible apply Dev.wideRows_canon | with_reducible apply Dev.isolation_canon
      | with_reducible apply Dev.access_canon | with_reducible apply Dev.spWrite_canon | with_reducible apply canon_ite
      | with_reducible apply canon_ite_snd | (refine canon_snd (by with_reducible assumption) ?_)
      | (refine canon_fst (by with_reducible assumption) ?_) | with_reducible intro _ | dsimp only | split
      | (unfold Dev.Canon; dsimp only; with_reducible apply canon4_of))

theorem Dev.readAs_canon (d : Dev) (k addr : Nat) (prio : Bool) (errs : List (Nat × Nat)) (n0 : Nat) (n1 : StackReply) (hd : Dev.Canon d) : Dev.Canon (Dev.readAs d k addr prio errs n0 n1).2 := by
  induction n0 generalizing d k addr prio errs n1 with
  | zero =>
    unfold Dev.readAs
    try dsimp only
    repeat' with_reducible assumption
  | succ _ ih =>
    unfold Dev.readAs
    try dsimp only
    repeat' (first
        | with_reducible assumption | with_reducible apply ih | with_reducible apply Dev.remoteRead_canon | with_reducible apply canon_ite
        | with_reducible apply canon_ite_snd)

theorem Dev.readPast_canon (d : Dev) (k addr left : Nat) (prio : Bool) (errs : List (Nat × Nat)) (hd : Dev.Canon d) : Dev.Canon (Dev.readPast d k addr left prio errs) := by
  unfold Dev.readPast
  try dsimp only
  repeat' (first | with_reducible assumption | with_reducible apply Dev.remoteRead_canon | with_reducible apply Dev.draw_canon)

theorem Dev.dmaRun_canon (d : Dev) (k desc o : Nat) (r : RunAt) (inn : Bool) (errs : List (Nat × Nat)) (hd : Dev.Canon d) : Dev.Canon (Dev.dmaRun d k desc o r inn errs).1 := by
  unfold Dev.dmaRun
  try dsimp only
  repeat' (first
      | with_reducible assumption | with_reducible apply Dev.countAs_canon | with_reducible apply Dev.wideRows_canon
      | with_reducible apply Dev.spWrite_canon | with_reducible apply Dev.readAs_canon | with_reducible apply Dev.readPast_canon
      | with_reducible apply Dev.remoteRead_canon | with_reducible apply Dev.metPoison_canon | with_reducible apply Dev.remoteWrite_canon
      | with_reducible apply Dev.coreErr_canon | with_reducible apply canon_ite | with_reducible apply canon_ite_fst)

theorem Dev.dmaRuns_canon (d : Dev) (k desc idx : Nat) (inn : Bool) (errs : List (Nat × Nat)) (n0 : Nat) (n1 : Nat) (hd : Dev.Canon d) : Dev.Canon (Dev.dmaRuns d k desc idx inn errs n0 n1) := by
  induction n0 generalizing d k desc idx inn errs n1 with
  | zero =>
    unfold Dev.dmaRuns
    try dsimp only
    repeat' with_reducible assumption
  | succ _ ih =>
    unfold Dev.dmaRuns
    try dsimp only
    repeat' (first
        | with_reducible assumption | with_reducible apply ih | with_reducible apply Dev.coreRaise_canon
        | with_reducible apply Dev.dmaRun_canon | with_reducible apply Dev.coreErr_canon | with_reducible apply canon_ite
        | (refine canon_snd (by with_reducible assumption) ?_) | (refine canon_fst (by with_reducible assumption) ?_) | dsimp only | split)

theorem Dev.doDma_canon (d : Dev) (k op : Nat) (inn : Bool) (errs : List (Nat × Nat)) (hd : Dev.Canon d) : Dev.Canon (Dev.doDma d k op inn errs) := by
  unfold Dev.doDma
  try dsimp only
  repeat' (first | with_reducible assumption | with_reducible apply Dev.dmaRuns_canon)

theorem Dev.monitor_canon (d : Dev) (k i : Nat) (m : Mon) (hd : Dev.Canon d) : Dev.Canon (Dev.monitor d k i m) := by
  unfold Dev.monitor
  try dsimp only
  repeat' (first
      | with_reducible assumption | with_reducible apply Dev.modCore_canon | with_reducible apply Dev.coreErr_canon
      | with_reducible apply canon_ite)

theorem Dev.doRequant_canon (d : Dev) (k pc op : Nat) (hd : Dev.Canon d) : Dev.Canon (Dev.doRequant d k pc op) := by
  unfold Dev.doRequant
  try dsimp only
  repeat' (first
      | with_reducible assumption | with_reducible apply Dev.modCore_canon | with_reducible apply Dev.monitor_canon
      | with_reducible apply Dev.corePerf_canon | with_reducible apply Dev.paramBounds_canon | with_reducible apply Dev.coreErr_canon
      | with_reducible apply Dev.spWrite_canon | with_reducible apply canon_ite)

theorem lrankGrad_canon (d : Dev) (k op t : Nat) (hd : Dev.Canon d) : Dev.Canon (lrankGrad d k op t) := by
  unfold lrankGrad
  try dsimp only
  repeat' (first | with_reducible assumption | with_reducible apply Dev.spWrite_canon | with_reducible apply canon_ite)

theorem Dev.doLrank_canon (d : Dev) (k pc op : Nat) (hd : Dev.Canon d) : Dev.Canon (Dev.doLrank d k pc op) := by
  unfold Dev.doLrank
  try dsimp only
  repeat' (first
      | with_reducible assumption | with_reducible apply Dev.corePerf_canon | with_reducible apply lrankGrad_canon
      | with_reducible apply Dev.paramBounds_canon | with_reducible apply Dev.spWrite_canon | with_reducible apply canon_ite
      | with_reducible apply canon_ite_snd | with_reducible apply canon_ite_fst | (with_reducible apply canon_foldl; intro _ _ _))

theorem Dev.doNorm_canon (d : Dev) (k pc op : Nat) (hd : Dev.Canon d) : Dev.Canon (Dev.doNorm d k pc op) := by
  unfold Dev.doNorm
  try dsimp only
  repeat' (first
      | with_reducible assumption | with_reducible apply Dev.draw_canon | with_reducible apply Dev.paramBounds_canon
      | with_reducible apply Dev.spWrite_canon | with_reducible apply canon_ite | with_reducible apply canon_ite_snd
      | with_reducible apply canon_ite_fst | (with_reducible apply canon_foldl; intro _ _ _))

theorem Dev.doSoftmax_canon (d : Dev) (k pc op : Nat) (hd : Dev.Canon d) : Dev.Canon (Dev.doSoftmax d k pc op) := by
  unfold Dev.doSoftmax
  try dsimp only
  repeat' (first
      | with_reducible assumption | with_reducible apply Dev.paramBounds_canon | with_reducible apply Dev.spWrite_canon
      | with_reducible apply canon_ite | with_reducible apply canon_ite_snd | with_reducible apply canon_ite_fst
      | (with_reducible apply canon_foldl; intro _ _ _) | (refine canon_snd (by with_reducible assumption) ?_)
      | (refine canon_fst (by with_reducible assumption) ?_) | with_reducible intro _ | dsimp only | split
      | (unfold Dev.Canon; dsimp only; with_reducible apply canon4_of))

theorem Dev.predict_canon (d : Dev) (k pc op : Nat) (repair : Bool) (hd : Dev.Canon d) : Dev.Canon (Dev.predict d k pc op repair) := by
  unfold Dev.predict
  try dsimp only
  repeat' (first
      | with_reducible assumption | with_reducible apply Dev.modCore_canon | with_reducible apply Dev.spWrite_canon
      | with_reducible apply Dev.corePerf_canon | with_reducible apply Dev.paramBounds_canon | with_reducible apply canon_ite)

theorem Dev.doScreen_canon (d : Dev) (k pc op : Nat) (hd : Dev.Canon d) : Dev.Canon (Dev.doScreen d k pc op) := by
  unfold Dev.doScreen
  try dsimp only
  repeat' (first
      | with_reducible assumption | with_reducible apply Dev.modCore_canon | with_reducible apply Dev.corePerf_canon
      | with_reducible apply Dev.predict_canon | with_reducible apply canon_ite)

theorem Dev.markClean_canon (d : Dev) (l : List Nat) (hd : Dev.Canon d) : Dev.Canon (Dev.markClean d l) := by
  unfold Dev.markClean
  try dsimp only
  repeat' (first | with_reducible assumption | with_reducible apply Dev.modImage_canon | (with_reducible apply canon_foldl; intro _ _ _))

theorem Dev.doAudit_canon (d : Dev) (k pc op : Nat) (tiles : List Nat) (hd : Dev.Canon d) : Dev.Canon (Dev.doAudit d k pc op tiles) := by
  unfold Dev.doAudit
  try dsimp only
  repeat' (first
      | with_reducible assumption | with_reducible apply Dev.modCore_canon | with_reducible apply Dev.corePerf_canon
      | with_reducible apply Dev.notice_canon | with_reducible apply audit_canon | with_reducible apply Dev.paramBounds_canon
      | with_reducible apply Dev.coreErr_canon | with_reducible apply Dev.spWrite_canon | with_reducible apply Dev.markClean_canon
      | with_reducible apply canon_ite | with_reducible apply canon_ite_snd | with_reducible apply canon_ite_fst
      | (with_reducible apply canon_foldl; intro _ _ _))

end Sys2Proof.Machine
end

