-- ==== Sys2Proof/Laws/CanonicalUnits.lean ====
section
/-! SUPPORT. Canonical memories are kept by reductions, Race, the units of a core and the sequencer. -/

namespace Sys2Proof.Machine

open Sys2Proof

theorem Dev.modPart_canon (d : Dev) (p n i : Nat) (f : Part → Part) (hd : Dev.Canon d) : Dev.Canon (Dev.modPart d p n i f) := by
  unfold Dev.modPart
  try dsimp only
  repeat' (first | with_reducible assumption | with_reducible apply Dev.modRed_canon)

theorem Dev.qDone_canon (d : Dev) (k u pc : Nat) (hd : Dev.Canon d) : Dev.Canon (Dev.qDone d k u pc) := by
  unfold Dev.qDone
  try dsimp only
  repeat' (first | with_reducible assumption | with_reducible apply Dev.modCore_canon)

theorem Dev.recvInto_canon (d : Dev) (k : Nat) (q : QOp) (bs : List Byte) (hd : Dev.Canon d) : Dev.Canon (Dev.recvInto d k q bs) := by
  unfold Dev.recvInto
  try dsimp only
  repeat' (first | with_reducible assumption | with_reducible apply Dev.qDone_canon | with_reducible apply Dev.spWrite_canon)

theorem Dev.takeResult_canon (d : Dev) (k : Nat) (q : QOp) (e : Nat) (hd : Dev.Canon d) : Dev.Canon (Dev.takeResult d k q e) := by
  unfold Dev.takeResult
  try dsimp only
  repeat' (first
      | with_reducible assumption | with_reducible apply Dev.metPoison_canon | with_reducible apply Dev.recvInto_canon
      | with_reducible apply Dev.agentRead_canon)

theorem Dev.startInst_canon (d : Dev) (p n : Nat) (s : Show) (e beat : Nat) (hd : Dev.Canon d) : Dev.Canon (Dev.startInst d p n s e beat) := by
  unfold Dev.startInst
  try dsimp only
  repeat' (first | with_reducible assumption | with_reducible apply Dev.modRed_canon | with_reducible apply canon_ite)

theorem Dev.nextInst_canon (d : Dev) (p n : Nat) (s : Show) (e : Nat) (hd : Dev.Canon d) : Dev.Canon (Dev.nextInst d p n s e) := by
  unfold Dev.nextInst
  try dsimp only
  repeat' (first | with_reducible assumption | with_reducible apply Dev.modRed_canon)

theorem Dev.endInst_canon (d : Dev) (p n : Nat) (s : Show) (e : Nat) (hd : Dev.Canon d) : Dev.Canon (Dev.endInst d p n s e) := by
  unfold Dev.endInst
  try dsimp only
  repeat' (first | with_reducible assumption | with_reducible apply Dev.nextInst_canon | with_reducible apply Dev.modRed_canon)

theorem Dev.foldRead_canon (d : Dev) (die pen off n : Nat) (s : Show) (e : Nat) (hd : Dev.Canon d) : Dev.Canon (Dev.foldRead d die pen off n s e).2.2 := by
  unfold Dev.foldRead
  try dsimp only
  repeat' (first
      | with_reducible assumption | with_reducible apply Dev.groupPoison_canon | with_reducible apply Dev.agentRead_canon
      | with_reducible apply canon_ite)

theorem Dev.redResult_canon (d : Dev) (p n : Nat) (s : Show) (e : Nat) (hd : Dev.Canon d) : Dev.Canon (Dev.redResult d p n s e) := by
  unfold Dev.redResult
  try dsimp only
  repeat' (first
      | with_reducible assumption | with_reducible apply Dev.perfAdd_canon | with_reducible apply Dev.endInst_canon
      | with_reducible apply Dev.takeResult_canon | with_reducible apply Dev.sendTo_canon | with_reducible apply Dev.foldRead_canon
      | with_reducible apply canon_ite | with_reducible apply canon_ite_snd | with_reducible apply canon_ite_fst
      | (with_reducible apply canon_foldl; intro _ _ _))

theorem Dev.destWrite_canon (d : Dev) (die core e atomic : Nat) (bs : List Byte) (hd : Dev.Canon d) : Dev.Canon (Dev.destWrite d die core e atomic bs).2 := by
  unfold Dev.destWrite
  repeat' (first | with_reducible assumption | with_reducible apply Dev.access_canon)

theorem Dev.hold_canon (d : Dev) (p n : Nat) (s : Show) (e i at_ step kind : Nat) (data : List Byte) (hd : Dev.Canon d) : Dev.Canon (Dev.hold d p n s e i at_ step kind data) := by
  unfold Dev.hold
  try dsimp only
  repeat' (first
      | with_reducible assumption | with_reducible apply Dev.perfAdd_canon | with_reducible apply Dev.agentWrite_canon
      | with_reducible apply Dev.modPart_canon | with_reducible apply canon_ite)

theorem Dev.redNotice_canon (d : Dev) (p n step : Nat) (s : Show) (e : Nat) (hw : Bool) (hd : Dev.Canon d) : Dev.Canon (Dev.redNotice d p n step s e hw) := by
  unfold Dev.redNotice
  try dsimp only
  repeat' (first
      | with_reducible assumption | with_reducible apply Dev.loseRed_canon | with_reducible apply Dev.abortGroup_canon
      | with_reducible apply Dev.nextInst_canon | with_reducible apply canon_ite)

theorem Dev.otherStep_canon (d : Dev) (p n : Nat) (s : Show) (e i at_ : Nat) (h : StileMsg) (data : List Byte) (hd : Dev.Canon d) : Opt.Canon (Dev.otherStep d p n s e i at_ h data) := by
  unfold Dev.otherStep
  try dsimp only
  repeat' (first
      | with_reducible assumption | with_reducible apply Dev.redNotice_canon | with_reducible apply Dev.hold_canon
      | with_reducible apply Dev.dropMsgs_canon | with_reducible apply canon_ite | (refine opt_of (by with_reducible assumption) ?_)
      | with_reducible apply opt_some | with_reducible apply opt_none | with_reducible apply opt_map_dev | with_reducible apply opt_map
      | with_reducible apply opt_bind | split)

theorem Dev.treeEnter_canon (d : Dev) (p n : Nat) (s : Show) (e i : Nat) (data : Option (List Byte)) (hd : Dev.Canon d) : Dev.Canon (Dev.treeEnter d p n s e i data) := by
  unfold Dev.treeEnter
  try dsimp only
  repeat' (first
      | with_reducible assumption | with_reducible apply Dev.perfAdd_canon | with_reducible apply Dev.access_canon
      | with_reducible apply Dev.modPart_canon | with_reducible apply canon_ite | (refine canon_snd (by with_reducible assumption) ?_)
      | (refine canon_fst (by with_reducible assumption) ?_) | dsimp only | split)

theorem Dev.treeRead_canon (d : Dev) (s : Show) (e i : Nat) (hd : Dev.Canon d) : Dev.Canon (Dev.treeRead d s e i).2.2 := by
  unfold Dev.treeRead
  repeat' (first | with_reducible assumption | with_reducible apply Dev.foldRead_canon)

theorem Dev.treeFinish_canon (d : Dev) (p n : Nat) (s : Show) (e : Nat) (hd : Dev.Canon d) : Dev.Canon (Dev.treeFinish d p n s e) := by
  unfold Dev.treeFinish
  try dsimp only
  repeat' (first
      | with_reducible assumption | with_reducible apply Dev.destWrite_canon | with_reducible apply Dev.treeRead_canon
      | with_reducible apply Dev.redResult_canon | with_reducible apply canon_ite | (refine canon_snd (by with_reducible assumption) ?_)
      | (refine canon_fst (by with_reducible assumption) ?_) | dsimp only | split)

theorem Dev.treeWrite_canon (d : Dev) (s : Show) (e j : Nat) (bs : List Byte) (poison : List Nat) (hd : Dev.Canon d) : Dev.Canon (Dev.treeWrite d s e j bs poison) := by
  unfold Dev.treeWrite
  try dsimp only
  repeat' (first
      | with_reducible assumption | with_reducible apply Dev.agentWrite_canon | with_reducible apply canon_ite
      | with_reducible apply canon_ite_snd | with_reducible apply canon_ite_fst | (with_reducible apply canon_foldl; intro _ _ _))

theorem Dev.treeCombine_canon (d : Dev) (p n : Nat) (s : Show) (e j kind : Nat) (data : List Byte) (hd : Dev.Canon d) : Dev.Canon (Dev.treeCombine d p n s e j kind data) := by
  unfold Dev.treeCombine
  try dsimp only
  repeat' (first
      | with_reducible assumption | with_reducible apply Dev.perfAdd_canon | with_reducible apply Dev.treeRead_canon
      | with_reducible apply Dev.treeFinish_canon | with_reducible apply Dev.treeWrite_canon | with_reducible apply Dev.modPart_canon
      | with_reducible apply Dev.errAdd_canon | with_reducible apply canon_ite)

theorem Dev.treeGone_canon (d : Dev) (p n : Nat) (s : Show) (e : Nat) (hd : Dev.Canon d) : Dev.Canon (Dev.treeGone d p n s e) := by
  unfold Dev.treeGone
  try dsimp only
  repeat' (first | with_reducible assumption | with_reducible apply Dev.endInst_canon | with_reducible apply canon_ite)

theorem Dev.treeSend_canon (d : Dev) (p n : Nat) (s : Show) (e i : Nat) (hd : Dev.Canon d) : Dev.Canon (Dev.treeSend d p n s e i) := by
  unfold Dev.treeSend
  try dsimp only
  repeat' (first
      | with_reducible assumption | with_reducible apply Dev.treeRead_canon | with_reducible apply Dev.sendTo_canon
      | with_reducible apply Dev.treeGone_canon | with_reducible apply Dev.modPart_canon | with_reducible apply Dev.treeCombine_canon
      | with_reducible apply canon_ite | (refine canon_snd (by with_reducible assumption) ?_)
      | (refine canon_fst (by with_reducible assumption) ?_) | with_reducible intro _ | dsimp only | split)

theorem Dev.treeTake_canon (d : Dev) (p n : Nat) (s : Show) (e i : Nat) (hd : Dev.Canon d) : Dev.Canon (Dev.treeTake d p n s e i) := by
  unfold Dev.treeTake
  try dsimp only
  repeat' (first
      | with_reducible assumption | with_reducible apply Dev.ready_canon | with_reducible apply Dev.otherStep_canon
      | with_reducible apply Dev.modPart_canon | with_reducible apply Dev.treeCombine_canon | with_reducible apply Dev.dropMsgs_canon
      | with_reducible apply canon_ite | (refine opt_of (by with_reducible assumption) ?_) | split)

theorem treeTransfer_canon (d : Dev) (p n i : Nat) (hd : Dev.Canon d) : Dev.Canon (treeTransfer d p n i) := by
  unfold treeTransfer
  try dsimp only
  repeat' (first
      | with_reducible assumption | with_reducible apply Dev.treeTake_canon | with_reducible apply Dev.treeSend_canon
      | with_reducible apply canon_ite | split)

theorem treePhase_canon (d : Dev) (p n l : Nat) (hd : Dev.Canon d) : Dev.Canon (treePhase d p n l) := by
  unfold treePhase
  try dsimp only
  repeat' (first
      | with_reducible assumption | with_reducible apply Dev.modRed_canon | with_reducible apply Dev.fireEntry_canon
      | with_reducible apply canon_ite | with_reducible intro _ | split)

theorem Dev.arrive_canon (d : Dev) (p n : Nat) (s : Show) (e i kind die core : Nat) (data : List Byte) (hd : Dev.Canon d) : Dev.Canon (Dev.arrive d p n s e i kind die core data).1 := by
  unfold Dev.arrive
  try dsimp only
  repeat' (first
      | with_reducible assumption | with_reducible apply Dev.destWrite_canon | with_reducible apply Dev.perfAdd_canon
      | with_reducible apply Dev.redResult_canon | with_reducible apply Dev.modRed_canon | with_reducible apply Dev.modPart_canon
      | with_reducible apply canon_ite | with_reducible apply canon_ite_fst | (refine canon_snd (by with_reducible assumption) ?_)
      | (refine canon_fst (by with_reducible assumption) ?_) | dsimp only | split)

theorem Dev.arriveLocal_canon (d : Dev) (p n : Nat) (s : Show) (e i kind : Nat) (data : List Byte) (hd : Dev.Canon d) : Dev.Canon (Dev.arriveLocal d p n s e i kind data).1 := by
  unfold Dev.arriveLocal
  try dsimp only
  repeat' (first
      | with_reducible assumption | with_reducible apply Dev.endInst_canon | with_reducible apply Dev.sendTo_canon
      | with_reducible apply Dev.arrive_canon | with_reducible apply Dev.modPart_canon | with_reducible apply canon_ite
      | with_reducible apply canon_ite_fst)

theorem Dev.contributeLater_canon (d : Dev) (p n : Nat) (s : Show) (e i kind : Nat) (rows : List Byte) (hd : Dev.Canon d) : Opt.Canon (Dev.contributeLater d p n s e i kind rows) := by
  unfold Dev.contributeLater
  try dsimp only
  repeat' (first
      | with_reducible assumption | with_reducible apply Dev.hold_canon | with_reducible apply canon_ite
      | (refine opt_of (by with_reducible assumption) ?_) | with_reducible apply opt_some | with_reducible apply opt_none
      | with_reducible apply opt_map_dev | with_reducible apply opt_map | with_reducible apply opt_bind | split)

theorem Dev.contribute_canon (d : Dev) (k : Nat) (p n : Nat) (s : Show) (e i op : Nat) (hd : Dev.Canon d) : Opt.Canon (Dev.contribute d k p n s e i op) := by
  unfold Dev.contribute
  try dsimp only
  repeat' (first
      | with_reducible assumption | with_reducible apply Dev.treeFinish_canon | with_reducible apply Dev.contributeLater_canon
      | with_reducible apply Dev.treeEnter_canon | with_reducible apply canon_ite | (refine opt_of (by with_reducible assumption) ?_)
      | with_reducible apply opt_some | with_reducible apply opt_none | with_reducible apply opt_map_dev | with_reducible apply opt_map
      | with_reducible apply opt_bind | split)

theorem Dev.enterHeld_canon (d : Dev) (p n : Nat) (hd : Dev.Canon d) : Dev.Canon (Dev.enterHeld d p n) := by
  unfold Dev.enterHeld
  try dsimp only
  repeat' (first
      | with_reducible assumption | with_reducible apply Dev.arriveLocal_canon | with_reducible apply Dev.treeFinish_canon
      | with_reducible apply Dev.treeEnter_canon | with_reducible apply Dev.modPart_canon | with_reducible apply canon_ite
      | with_reducible apply canon_ite_snd | with_reducible apply canon_ite_fst | (with_reducible apply canon_foldl; intro _ _ _)
      | (refine canon_snd (by with_reducible assumption) ?_) | (refine canon_fst (by with_reducible assumption) ?_)
      | with_reducible intro _ | dsimp only | split)

theorem Dev.emptyContribution_canon (d : Dev) (p n : Nat) (s : Show) (e i : Nat) (hd : Dev.Canon d) : Opt.Canon (Dev.emptyContribution d p n s e i) := by
  unfold Dev.emptyContribution
  try dsimp only
  repeat' (first
      | with_reducible assumption | with_reducible apply Dev.arriveLocal_canon | with_reducible apply Dev.treeFinish_canon
      | with_reducible apply Dev.contributeLater_canon | with_reducible apply Dev.treeEnter_canon | with_reducible apply canon_ite
      | (refine canon_snd (by with_reducible assumption) ?_) | (refine canon_fst (by with_reducible assumption) ?_)
      | (refine opt_of (by with_reducible assumption) ?_) | with_reducible apply opt_some | with_reducible apply opt_none
      | with_reducible apply opt_map_dev | with_reducible apply opt_map | with_reducible apply opt_bind | dsimp only | split)

theorem Dev.arriveSend_canon (d : Dev) (p n : Nat) (s : Show) (e i k : Nat) (hd : Dev.Canon d) : Dev.Canon (Dev.arriveSend d p n s e i k) := by
  unfold Dev.arriveSend
  try dsimp only
  repeat' (first
      | with_reducible assumption | with_reducible apply Dev.arriveLocal_canon | with_reducible apply Dev.metPoison_canon
      | with_reducible apply Dev.qDone_canon | with_reducible apply canon_ite | (refine canon_snd (by with_reducible assumption) ?_)
      | (refine canon_fst (by with_reducible assumption) ?_) | with_reducible intro _ | dsimp only | split)

theorem Dev.arriveTake_canon (d : Dev) (p n : Nat) (s : Show) (e i : Nat) (hd : Dev.Canon d) : Dev.Canon (Dev.arriveTake d p n s e i) := by
  unfold Dev.arriveTake
  try dsimp only
  repeat' (first
      | with_reducible assumption | with_reducible apply Dev.ready_canon | with_reducible apply Dev.arrive_canon
      | with_reducible apply Dev.dropMsgs_canon | with_reducible apply Dev.otherStep_canon | with_reducible apply Dev.modPart_canon
      | with_reducible apply canon_ite | (refine canon_snd (by with_reducible assumption) ?_)
      | (refine canon_fst (by with_reducible assumption) ?_) | (refine opt_of (by with_reducible assumption) ?_) | dsimp only | split)

theorem arrivalTransfer_canon (d : Dev) (p n i : Nat) (hd : Dev.Canon d) : Dev.Canon (arrivalTransfer d p n i) := by
  unfold arrivalTransfer
  try dsimp only
  repeat' (first
      | with_reducible assumption | with_reducible apply Dev.arriveSend_canon | with_reducible apply Dev.arriveTake_canon
      | with_reducible apply canon_ite | split)

theorem Dev.raceRead_canon (d : Dev) (e a n : Nat) (hd : Dev.Canon d) : Dev.Canon (Dev.raceRead d e a n).2 := by
  unfold Dev.raceRead
  repeat' (first | with_reducible assumption | with_reducible apply Dev.access_canon)

theorem Dev.raceWrite_canon (d : Dev) (e a : Nat) (bs : List Byte) (hd : Dev.Canon d) : Dev.Canon (Dev.raceWrite d e a bs) := by
  unfold Dev.raceWrite
  repeat' (first | with_reducible assumption | with_reducible apply Dev.access_canon)

theorem Dev.racePerf_canon (d : Dev) (e i n : Nat) (hd : Dev.Canon d) : Dev.Canon (Dev.racePerf d e i n) := by
  unfold Dev.racePerf
  repeat' (first | with_reducible assumption | with_reducible apply Dev.perfAdd_canon)

theorem Dev.raceDeliver_canon (d : Dev) (p l e : Nat) (hd : Dev.Canon d) : Dev.Canon (Dev.raceDeliver d p l e) := by
  unfold Dev.raceDeliver
  try dsimp only
  repeat' (first
      | with_reducible assumption | with_reducible apply Dev.recvInto_canon | with_reducible apply canon_ite
      | with_reducible apply canon_ite_snd | with_reducible apply canon_ite_fst | (with_reducible apply canon_foldl; intro _ _ _))

theorem Dev.raceRefuse_canon (d : Dev) (p l e from_ : Nat) (experts : List Nat) (hd : Dev.Canon d) : Dev.Canon (Dev.raceRefuse d p l e from_ experts) := by
  unfold Dev.raceRefuse
  try dsimp only
  repeat' (first | with_reducible assumption | with_reducible apply Dev.modRace_canon | with_reducible apply Dev.raceErr_canon)

theorem Dev.takeManifest_canon (d : Dev) (p l : Nat) (s : Show) (e i mapver : Nat) (as : List Arrival) (hd : Dev.Canon d) : Dev.Canon (Dev.takeManifest d p l s e i mapver as) := by
  unfold Dev.takeManifest
  try dsimp only
  repeat' (first
      | with_reducible assumption | with_reducible apply Dev.raceDeliver_canon | with_reducible apply Dev.notice_canon
      | with_reducible apply Dev.modRace_canon | with_reducible apply Dev.raceSend_canon | with_reducible apply Dev.raceRefuse_canon
      | with_reducible apply canon_ite)

theorem Dev.takeReturn_canon (d : Dev) (p l e t r h : Nat) (bs : List Byte) (hd : Dev.Canon d) : Dev.Canon (Dev.takeReturn d p l e t r h bs) := by
  unfold Dev.takeReturn
  try dsimp only
  repeat' (first
      | with_reducible assumption | with_reducible apply Dev.racePerf_canon | with_reducible apply Dev.raceWrite_canon
      | with_reducible apply Dev.modRace_canon | with_reducible apply canon_ite)

theorem Dev.sourceLost_canon (d : Dev) (p l : Nat) (s : Show) (e : Nat) (cls : AbortClass) (hd : Dev.Canon d) : Dev.Canon (Dev.sourceLost d p l s e cls) := by
  unfold Dev.sourceLost
  try dsimp only
  repeat' (first
      | with_reducible assumption | with_reducible apply Dev.abortGroup_canon | with_reducible apply Dev.qDone_canon
      | with_reducible apply Dev.sourceGone_canon | with_reducible apply canon_ite | with_reducible apply canon_ite_snd
      | with_reducible apply canon_ite_fst | (with_reducible apply canon_foldl; intro _ _ _))

theorem Dev.raceMsg_canon (d : Dev) (p l : Nat) (s : Show) (e : Nat) (m : RaceMsg) (hd : Dev.Canon d) : Dev.Canon (Dev.raceMsg d p l s e m) := by
  unfold Dev.raceMsg
  try dsimp only
  repeat' (first
      | with_reducible assumption | with_reducible apply Dev.sourceLost_canon | with_reducible apply Dev.raceDeliver_canon
      | with_reducible apply Dev.raceWrite_canon | with_reducible apply Dev.modRace_canon | with_reducible apply Dev.takeReturn_canon
      | with_reducible apply Dev.raceRefuse_canon | with_reducible apply Dev.takeManifest_canon | with_reducible apply canon_ite
      | with_reducible intro _ | split)

theorem Dev.raceArrive_canon (d : Dev) (p l : Nat) (m : RaceMsg) (hd : Dev.Canon d) : Dev.Canon (Dev.raceArrive d p l m) := by
  unfold Dev.raceArrive
  try dsimp only
  repeat' (first
      | with_reducible assumption | with_reducible apply Dev.raceMsg_canon | with_reducible apply Dev.racePerf_canon
      | with_reducible apply Dev.modRace_canon | with_reducible apply Dev.raceErr_canon | with_reducible apply canon_ite | split)

theorem Dev.beginRace_canon (d : Dev) (p l : Nat) (s : Show) (e : Nat) (w : RaceWait) (rest : List RaceWait) (hd : Dev.Canon d) : Dev.Canon (Dev.beginRace d p l s e w rest) := by
  unfold Dev.beginRace
  try dsimp only
  repeat' (first
      | with_reducible assumption | with_reducible apply Dev.raceMsg_canon | with_reducible apply Dev.modRace_canon
      | with_reducible apply Dev.raceErr_canon | with_reducible apply canon_ite | with_reducible apply canon_ite_snd
      | with_reducible apply canon_ite_fst | (with_reducible apply canon_foldl; intro _ _ _))

theorem Dev.giveWay_canon (d : Dev) (p l : Nat) (s : Show) (e : Nat) (n0 : Nat) (hd : Dev.Canon d) : Dev.Canon (Dev.giveWay d p l s e n0) := by
  induction n0 generalizing d p l s e with
  | zero =>
    unfold Dev.giveWay
    repeat' with_reducible assumption
  | succ _ ih =>
    unfold Dev.giveWay
    repeat' (first
        | with_reducible assumption | with_reducible apply ih | with_reducible apply Dev.beginRace_canon | with_reducible apply canon_ite
        | split)

theorem Dev.startRace_canon (d : Dev) (p l : Nat) (s : Show) (e beat : Nat) (hd : Dev.Canon d) : Dev.Canon (Dev.startRace d p l s e beat) := by
  unfold Dev.startRace
  try dsimp only
  repeat' (first
      | with_reducible assumption | with_reducible apply Dev.modRace_canon | with_reducible apply Dev.giveWay_canon
      | with_reducible apply Dev.beginRace_canon | with_reducible apply canon_ite)

theorem Dev.settleRace_canon (d : Dev) (p l : Nat) (hd : Dev.Canon d) : Dev.Canon (Dev.settleRace d p l) := by
  unfold Dev.settleRace
  repeat' (first | with_reducible assumption | with_reducible apply Dev.giveWay_canon | split)

theorem Dev.raceHear_canon (d : Dev) (p l k step : Nat) (e : Nat) (rows : List Byte) (hd : Dev.Canon d) : Dev.Canon (Dev.raceHear d p l k step e rows) := by
  unfold Dev.raceHear
  try dsimp only
  repeat' (first | with_reducible assumption | with_reducible apply Dev.modRace_canon)

theorem raceInstanceStart_canon (d : Dev) (p l : Nat) (hd : Dev.Canon d) : Dev.Canon (raceInstanceStart d p l) := by
  unfold raceInstanceStart
  try dsimp only
  repeat' (first
      | with_reducible assumption | with_reducible apply Dev.groupPoison_canon | with_reducible apply Dev.racePerf_canon
      | with_reducible apply Dev.raceRead_canon | with_reducible apply Dev.modRace_canon | with_reducible apply Dev.raceErr_canon
      | with_reducible apply canon_ite | with_reducible apply canon_ite_snd | with_reducible apply canon_ite_fst
      | (refine canon_snd (by with_reducible assumption) ?_) | (refine canon_fst (by with_reducible assumption) ?_)
      | with_reducible intro _ | dsimp only | split)

theorem exchangeLaunch_canon (d : Dev) (p l : Nat) (hd : Dev.Canon d) : Dev.Canon (exchangeLaunch d p l) := by
  unfold exchangeLaunch
  try dsimp only
  repeat' (first
      | with_reducible assumption | with_reducible apply Dev.modRace_canon | with_reducible apply Dev.fireEntry_canon
      | with_reducible apply canon_ite | split)

theorem Dev.dispatchOne_canon (d : Dev) (l e : Nat) (x : RaceInst) (src : Nat) (c : Choice) (h : Nat) (bs : List Byte) (hd : Dev.Canon d) : Dev.Canon (Dev.dispatchOne d l e x src c h bs) := by
  unfold Dev.dispatchOne
  try dsimp only
  repeat' (first
      | with_reducible assumption | with_reducible apply Dev.racePerf_canon | with_reducible apply Dev.raceWrite_canon
      | with_reducible apply Dev.raceSend_canon | with_reducible apply canon_ite)

theorem raceDispatch_canon (d : Dev) (p l : Nat) (hd : Dev.Canon d) : Dev.Canon (raceDispatch d p l) := by
  unfold raceDispatch
  try dsimp only
  repeat' (first
      | with_reducible assumption | with_reducible apply Dev.groupPoison_canon | with_reducible apply Dev.dispatchOne_canon
      | with_reducible apply Dev.raceRead_canon | with_reducible apply Dev.modRace_canon | with_reducible apply Dev.raceSend_canon
      | with_reducible apply Dev.takeManifest_canon | with_reducible apply Dev.abortGroup_canon
      | with_reducible apply Dev.abandonSource_canon | with_reducible apply canon_ite | with_reducible apply canon_ite_snd
      | with_reducible apply canon_ite_fst | (with_reducible apply canon_foldl; intro _ _ _)
      | (with_reducible apply canon_foldl_fst; intro _ _ _) | (refine canon_snd (by with_reducible assumption) ?_)
      | (refine canon_fst (by with_reducible assumption) ?_) | with_reducible intro _ | dsimp only | split)

theorem raceDispatchIn_canon (d : Dev) (p l from_ step expert slot shard : Nat) (data : List Byte) (hd : Dev.Canon d) : Dev.Canon (raceDispatchIn d p l from_ step expert slot shard data) := by
  unfold raceDispatchIn
  repeat' (first | with_reducible assumption | with_reducible apply Dev.raceArrive_canon)

theorem raceManifestIn_canon (d : Dev) (p l from_ step mapver : Nat) (entries : List (Nat × Nat × Nat × Nat × Nat)) (hd : Dev.Canon d) : Dev.Canon (raceManifestIn d p l from_ step mapver entries) := by
  unfold raceManifestIn
  try dsimp only
  repeat' (first | with_reducible assumption | with_reducible apply Dev.raceArrive_canon)

theorem raceReturn_canon (d : Dev) (p l expert shard : Nat) (recv : Bool) (step token rank : Nat) (data : List Byte) (hd : Dev.Canon d) : Dev.Canon (raceReturn d p l expert shard recv step token rank data) := by
  unfold raceReturn
  try dsimp only
  repeat' (first
      | with_reducible assumption | with_reducible apply Dev.settleRace_canon | with_reducible apply Dev.raceRead_canon
      | with_reducible apply Dev.groupPoison_canon | with_reducible apply Dev.modRace_canon | with_reducible apply Dev.takeReturn_canon
      | with_reducible apply Dev.raceSend_canon | with_reducible apply Dev.raceArrive_canon | with_reducible apply recv_canon
      | with_reducible apply canon_ite | with_reducible apply canon_ite_snd | with_reducible apply canon_ite_fst
      | (with_reducible apply canon_foldl; intro _ _ _) | (refine canon_snd (by with_reducible assumption) ?_)
      | (refine canon_fst (by with_reducible assumption) ?_) | with_reducible intro _ | dsimp only | split)

theorem Dev.combineToken_canon (d : Dev) (e : Nat) (x : RaceInst) (t : Nat × Nat × Nat) (hd : Dev.Canon d) : Dev.Canon (Dev.combineToken d e x t).1 := by
  unfold Dev.combineToken
  try dsimp only
  repeat' (first
      | with_reducible assumption | with_reducible apply Dev.raceRead_canon | with_reducible apply Dev.raceWrite_canon
      | with_reducible apply canon_ite | with_reducible apply canon_ite_snd | with_reducible apply canon_ite_fst
      | (with_reducible apply canon_foldl_mid; intro _ _ _))

theorem raceCombine_canon (d : Dev) (p l : Nat) (hd : Dev.Canon d) : Dev.Canon (raceCombine d p l) := by
  unfold raceCombine
  try dsimp only
  repeat' (first
      | with_reducible assumption | with_reducible apply Dev.settleRace_canon | with_reducible apply Dev.recvInto_canon
      | with_reducible apply Dev.groupPoison_canon | with_reducible apply Dev.racePerf_canon | with_reducible apply Dev.ready_canon
      | with_reducible apply Dev.modRace_canon | with_reducible apply Dev.combineToken_canon | with_reducible apply canon_ite
      | with_reducible apply canon_ite_snd | with_reducible apply canon_ite_fst | (with_reducible apply canon_foldl; intro _ _ _)
      | (with_reducible apply canon_foldl_fst; intro _ _ _) | (refine canon_snd (by with_reducible assumption) ?_)
      | (refine canon_fst (by with_reducible assumption) ?_) | with_reducible intro _ | dsimp only | split)

theorem raceRefuseIn_canon (d : Dev) (p l from_ step : Nat) (experts : List Nat) (hd : Dev.Canon d) : Dev.Canon (raceRefuseIn d p l from_ step experts) := by
  unfold raceRefuseIn
  try dsimp only
  repeat' (first | with_reducible assumption | with_reducible apply Dev.raceArrive_canon)

theorem raceAbandonIn_canon (d : Dev) (p l from_ step : Nat) (atSource hw : Bool) (hd : Dev.Canon d) : Dev.Canon (raceAbandonIn d p l from_ step atSource hw) := by
  unfold raceAbandonIn
  repeat' (first | with_reducible assumption | with_reducible apply Dev.raceArrive_canon | with_reducible apply Dev.settleRace_canon)

theorem Dev.abWrite_canon (d : Dev) (k z : Nat) (bs : List Byte) (hd : d.Canon) : (d.abWrite k z bs).Canon :=
  canon4_abuf hd (Mem.wf_write _ _ _)

theorem Dev.streamAs_canon (d : Dev) (k c x z rows : Nat) (hd : Dev.Canon d) : Dev.Canon (Dev.streamAs d k c x z rows) := by
  unfold Dev.streamAs
  try dsimp only
  repeat' (first
      | with_reducible assumption | with_reducible apply Dev.wideRows_canon | with_reducible apply Dev.modCore_canon
      | with_reducible apply mark_canon | with_reducible apply Dev.abWrite_canon | with_reducible apply Dev.coreErr_canon
      | (with_reducible apply canon_foldl; intro _ _ _) | (refine canon_snd (by with_reducible assumption) ?_)
      | (refine canon_fst (by with_reducible assumption) ?_) | with_reducible intro _ | dsimp only | split)

theorem Dev.streamBx_canon (d : Dev) (k : Nat) (four : Bool) (x z rows : Nat) (hd : Dev.Canon d) : Dev.Canon (Dev.streamBx d k four x z rows) := by
  unfold Dev.streamBx
  try dsimp only
  repeat' (first
      | with_reducible assumption | with_reducible apply Dev.modCore_canon | with_reducible apply Dev.abWrite_canon
      | (with_reducible apply canon_foldl; intro _ _ _))

theorem Dev.doAstream_canon (d : Dev) (k op : Nat) (hd : Dev.Canon d) : Dev.Canon (Dev.doAstream d k op) := by
  unfold Dev.doAstream
  try dsimp only
  repeat' (first
      | with_reducible assumption | with_reducible apply Dev.wideRows_canon | with_reducible apply Dev.modCore_canon
      | with_reducible apply Dev.abWrite_canon | with_reducible apply Dev.streamBx_canon | with_reducible apply Dev.streamAs_canon
      | with_reducible apply canon_ite)

theorem Dev.doRotate_canon (d : Dev) (k op : Nat) (hd : Dev.Canon d) : Dev.Canon (Dev.doRotate d k op) := by
  unfold Dev.doRotate
  try dsimp only
  repeat' (first
      | with_reducible assumption | with_reducible apply Dev.corePerf_canon | with_reducible apply Dev.spWrite_canon
      | with_reducible apply canon_ite | with_reducible apply canon_ite_snd | with_reducible apply canon_ite_fst
      | (with_reducible apply canon_foldl; intro _ _ _))

theorem Dev.doJuggle_canon (d : Dev) (k pc op : Nat) (hd : Dev.Canon d) : Dev.Canon (Dev.doJuggle d k pc op) := by
  unfold Dev.doJuggle
  try dsimp only
  repeat' (first
      | with_reducible assumption | with_reducible apply Dev.paramBounds_canon | with_reducible apply Dev.spWrite_canon
      | with_reducible apply canon_ite | with_reducible apply canon_ite_snd | with_reducible apply canon_ite_fst
      | (with_reducible apply canon_foldl; intro _ _ _) | (refine canon_snd (by with_reducible assumption) ?_)
      | (refine canon_fst (by with_reducible assumption) ?_) | with_reducible intro _ | dsimp only | split
      | (unfold Dev.Canon; dsimp only; with_reducible apply canon4_of))

theorem Dev.doBale_canon (d : Dev) (k op : Nat) (hd : Dev.Canon d) : Dev.Canon (Dev.doBale d k op) := by
  unfold Dev.doBale
  try dsimp only
  repeat' (first
      | with_reducible assumption | with_reducible apply Dev.wideRows_canon | with_reducible apply Dev.spWrite_canon
      | with_reducible apply Dev.corePerf_canon | with_reducible apply canon_ite)

theorem Dev.doUnbale_canon (d : Dev) (k op : Nat) (hd : Dev.Canon d) : Dev.Canon (Dev.doUnbale d k op) := by
  unfold Dev.doUnbale
  try dsimp only
  repeat' (first
      | with_reducible assumption | with_reducible apply Dev.wideRows_canon | with_reducible apply Dev.corePerf_canon
      | with_reducible apply Dev.coreErr_canon | with_reducible apply Dev.spWrite_canon | with_reducible apply canon_ite | split
      | (unfold Dev.Canon; dsimp only; with_reducible apply canon4_of))

theorem Dev.poundPair_canon (d : Dev) (k e vt key v : Nat) (hd : Dev.Canon d) : Dev.Canon (Dev.poundPair d k e vt key v) := by
  unfold Dev.poundPair
  try dsimp only
  repeat' (first
      | with_reducible assumption | with_reducible apply Dev.modCore_canon | with_reducible apply Dev.corePerf_canon
      | with_reducible apply Dev.coreErr_canon | with_reducible apply Dev.spWrite_canon | with_reducible apply canon_ite | split)

theorem Dev.poundPairs_canon (d : Dev) (k pc op e : Nat) (n0 : Nat) (n1 : Nat) (hd : Dev.Canon d) : Dev.Canon (Dev.poundPairs d k pc op e n0 n1).1 := by
  induction n0 generalizing d k pc op e n1 with
  | zero =>
    unfold Dev.poundPairs
    try dsimp only
    repeat' with_reducible assumption
  | succ _ ih =>
    unfold Dev.poundPairs
    try dsimp only
    repeat' (first
        | with_reducible assumption | with_reducible apply ih | with_reducible apply Dev.modCore_canon
        | with_reducible apply Dev.coreRaise_canon | with_reducible apply Dev.poundPair_canon | with_reducible apply Dev.coreErr_canon
        | with_reducible apply canon_ite | with_reducible apply canon_ite_fst)

theorem Dev.doPoundAdd_canon (d : Dev) (k pc op done : Nat) (hd : Dev.Canon d) : Dev.Canon (Dev.doPoundAdd d k pc op done).1 := by
  unfold Dev.doPoundAdd
  try dsimp only
  repeat' (first
      | with_reducible assumption | with_reducible apply Dev.modCore_canon | with_reducible apply Dev.coreRaise_canon
      | with_reducible apply Dev.poundPairs_canon | with_reducible apply Dev.coreErr_canon | with_reducible apply canon_ite
      | with_reducible apply canon_ite_fst)

theorem Dev.doFlush_canon (d : Dev) (k stall : Nat) (hd : Dev.Canon d) : Dev.Canon (Dev.doFlush d k stall) := by
  unfold Dev.doFlush
  try dsimp only
  repeat' (first
      | with_reducible assumption | with_reducible apply Dev.wideRows_canon | with_reducible apply Dev.modCore_canon
      | with_reducible apply Dev.corePerf_canon | with_reducible apply Dev.metPoison_canon | with_reducible apply Dev.remoteWrite_canon
      | (refine canon_snd (by with_reducible assumption) ?_) | (refine canon_fst (by with_reducible assumption) ?_) | dsimp only | split)

theorem Dev.doDrain_canon (d : Dev) (k op : Nat) (hd : Dev.Canon d) : Dev.Canon (Dev.doDrain d k op) := by
  unfold Dev.doDrain
  try dsimp only
  repeat' (first
      | with_reducible assumption | with_reducible apply Dev.modCore_canon | with_reducible apply Dev.corePerf_canon
      | with_reducible apply Dev.coreErr_canon | with_reducible apply Dev.spWrite_canon | with_reducible apply canon_ite)

theorem Dev.pollResult_canon (d : Dev) (k p n : Nat) (s : Show) (g e : Nat) (q : QOp) (hd : Dev.Canon d) : Dev.Canon (Dev.pollResult d k p n s g e q) := by
  unfold Dev.pollResult
  try dsimp only
  repeat' (first
      | with_reducible assumption | with_reducible apply Dev.recvInto_canon | with_reducible apply Dev.abortGroup_canon
      | with_reducible apply Dev.takeResult_canon | with_reducible apply Dev.qDone_canon | with_reducible apply canon_ite | split)

theorem Dev.recvReady_canon (d : Dev) (k : Nat) (s : Show) (x : Nat) (q : QOp) (hd : Dev.Canon d) : Dev.Canon (Dev.recvReady d k s x q) := by
  unfold Dev.recvReady
  try dsimp only
  repeat' (first
      | with_reducible assumption | with_reducible apply Dev.modCore_canon | with_reducible apply Dev.sendTo_canon
      | with_reducible apply canon_ite)

theorem Dev.pollRecv_canon (d : Dev) (k p : Nat) (s : Show) (g : Nat) (q : QOp) (hd : Dev.Canon d) : Dev.Canon (Dev.pollRecv d k p s g q) := by
  unfold Dev.pollRecv
  try dsimp only
  repeat' (first
      | with_reducible assumption | with_reducible apply Dev.recvInto_canon | with_reducible apply Dev.abortGroup_canon
      | with_reducible apply Dev.raceDeliver_canon | with_reducible apply Dev.pollResult_canon | with_reducible apply Dev.qDone_canon
      | with_reducible apply Dev.recvReady_canon | with_reducible apply canon_ite | with_reducible apply canon_ite_snd
      | with_reducible apply canon_ite_fst | (with_reducible apply canon_foldl; intro _ _ _)
      | (refine canon_snd (by with_reducible assumption) ?_) | (refine canon_fst (by with_reducible assumption) ?_)
      | with_reducible intro _ | dsimp only | split)

theorem Dev.runPort_canon (d : Dev) (k : Nat) (n0 : Nat) (hd : Dev.Canon d) : Dev.Canon (Dev.runPort d k n0) := by
  induction n0 generalizing d k with
  | zero =>
    unfold Dev.runPort
    try dsimp only
    repeat' with_reducible assumption
  | succ _ ih =>
    unfold Dev.runPort
    try dsimp only
    repeat' (first
        | with_reducible assumption | with_reducible apply ih | with_reducible apply Dev.contribute_canon
        | with_reducible apply Dev.pollRecv_canon | with_reducible apply Dev.qDone_canon | with_reducible apply canon_ite
        | (refine opt_of (by with_reducible assumption) ?_) | with_reducible intro _ | split)

theorem Dev.runHead_canon (d : Dev) (k : Nat) (q : QOp) (hd : Dev.Canon d) : Dev.Canon (Dev.runHead d k q).1 := by
  unfold Dev.runHead
  try dsimp only
  repeat' (first
      | with_reducible assumption | with_reducible apply Dev.doDma_canon | with_reducible apply Dev.doRequant_canon
      | with_reducible apply Dev.doAstream_canon | with_reducible apply Dev.doBale_canon | with_reducible apply Dev.doJuggle_canon
      | with_reducible apply Dev.doLrank_canon | with_reducible apply Dev.doNorm_canon | with_reducible apply Dev.doRotate_canon
      | with_reducible apply Dev.doDrain_canon | with_reducible apply Dev.doPoundAdd_canon | with_reducible apply Dev.doScreen_canon
      | with_reducible apply Dev.doUnbale_canon | with_reducible apply Dev.doSoftmax_canon | with_reducible apply Dev.doAudit_canon
      | with_reducible apply canon_ite | with_reducible apply canon_ite_fst)

theorem Dev.runUnit_canon (d : Dev) (k u : Nat) (n0 : Nat) (hd : Dev.Canon d) : Dev.Canon (Dev.runUnit d k u n0) := by
  induction n0 generalizing d k u with
  | zero =>
    unfold Dev.runUnit
    try dsimp only
    repeat' with_reducible assumption
  | succ _ ih =>
    unfold Dev.runUnit
    try dsimp only
    repeat' (first
        | with_reducible assumption | with_reducible apply ih | with_reducible apply Dev.modCore_canon
        | with_reducible apply Dev.qDone_canon | with_reducible apply Dev.runHead_canon | with_reducible apply canon_ite
        | (refine canon_snd (by with_reducible assumption) ?_) | (refine canon_fst (by with_reducible assumption) ?_)
        | with_reducible intro _ | dsimp only | split)

theorem Dev.postMons_canon (d : Dev) (k p : Nat) (hd : Dev.Canon d) : Dev.Canon (Dev.postMons d k p) := by
  unfold Dev.postMons
  try dsimp only
  repeat' (first
      | with_reducible assumption | (with_reducible apply canon_foldl; intro _ _ _) | (refine canon_snd (by with_reducible assumption) ?_)
      | (refine canon_fst (by with_reducible assumption) ?_) | with_reducible intro _ | dsimp only
      | (unfold Dev.Canon; dsimp only; with_reducible apply canon4_of))

theorem Dev.settleOwed_canon (d : Dev) (k : Nat) (r : Run) (a : Act) (s : Show) (hd : Dev.Canon d) : Dev.Canon (Dev.settleOwed d k r a s) := by
  unfold Dev.settleOwed
  try dsimp only
  repeat' (first
      | with_reducible assumption | with_reducible apply Dev.emptyContribution_canon | with_reducible apply Dev.raceHear_canon
      | with_reducible apply canon_ite | with_reducible apply canon_ite_snd | with_reducible apply canon_ite_fst
      | (with_reducible apply canon_foldl; intro _ _ _) | (refine canon_snd (by with_reducible assumption) ?_)
      | (refine canon_fst (by with_reducible assumption) ?_) | (refine opt_of (by with_reducible assumption) ?_)
      | with_reducible apply canon_getD | with_reducible intro _ | dsimp only | split)

theorem Dev.finishEnd_canon (d : Dev) (k : Nat) (hd : Dev.Canon d) : Dev.Canon (Dev.finishEnd d k) := by
  unfold Dev.finishEnd
  try dsimp only
  repeat' (first
      | with_reducible assumption | with_reducible apply Dev.postMons_canon | with_reducible apply Dev.settleOwed_canon
      | with_reducible apply Dev.actOver_canon | with_reducible apply Dev.coreAbort_canon | split)

theorem Dev.pump_canon (d : Dev) (k : Nat) (hd : Dev.Canon d) : Dev.Canon (Dev.pump d k) := by
  unfold Dev.pump
  try dsimp only
  repeat' (first
      | with_reducible assumption | with_reducible apply Dev.runPort_canon | with_reducible apply Dev.runUnit_canon
      | with_reducible apply Dev.finishEnd_canon | with_reducible apply canon_ite | with_reducible apply canon_ite_snd
      | with_reducible apply canon_ite_fst | (with_reducible apply canon_foldl; intro _ _ _))

theorem Dev.modRun_canon (d : Dev) (k : Nat) (f : Run → Run) (hd : Dev.Canon d) : Dev.Canon (Dev.modRun d k f) := by
  unfold Dev.modRun
  try dsimp only
  repeat' (first | with_reducible assumption | with_reducible apply Dev.modCore_canon)

theorem Dev.countIssue_canon (d : Dev) (k : Nat) (x : OpFacts) (hd : Dev.Canon d) : Dev.Canon (Dev.countIssue d k x) := by
  unfold Dev.countIssue
  try dsimp only
  repeat' (first
      | with_reducible assumption | with_reducible apply Dev.corePerf_canon | with_reducible apply Dev.stackPerf_canon
      | with_reducible apply canon_ite | with_reducible apply canon_ite_snd | with_reducible apply canon_ite_fst
      | (with_reducible apply canon_foldl; intro _ _ _))

theorem Dev.issue_canon (d : Dev) (die core code : Nat) (x : OpFacts) (body : Dev → Nat → Nat → Nat → Dev) (hd : Dev.Canon d) (hf : ∀ x0 x1 x2 x3, Dev.Canon x0 → Dev.Canon (body x0 x1 x2 x3)) : Dev.Canon (Dev.issue d die core code x body) := by
  unfold Dev.issue
  try dsimp only
  repeat' (first
      | with_reducible assumption | with_reducible apply hf | with_reducible apply Dev.countIssue_canon
      | with_reducible apply Dev.modRun_canon | with_reducible apply canon_ite | with_reducible intro _ | split)

theorem Dev.issueUnit_canon (d : Dev) (die core code : Nat) (x : OpFacts) (hd : Dev.Canon d) : Dev.Canon (Dev.issueUnit d die core code x) := by
  unfold Dev.issueUnit
  try dsimp only
  repeat' (first
      | with_reducible assumption | with_reducible apply Dev.issue_canon | with_reducible apply Dev.modCore_canon
      | with_reducible apply Dev.modRun_canon | with_reducible apply Dev.pump_canon | with_reducible apply canon_ite
      | with_reducible intro _ | split)

theorem Dev.issueArrays_canon (d : Dev) (die core code : Nat) (x : OpFacts) (sel : Nat → List Nat) (entry : Run → Nat → Nat → Nat → ArrOp) (hd : Dev.Canon d) : Dev.Canon (Dev.issueArrays d die core code x sel entry) := by
  unfold Dev.issueArrays
  try dsimp only
  repeat' (first
      | with_reducible assumption | with_reducible apply Dev.issue_canon | with_reducible apply Dev.modCore_canon
      | with_reducible apply Dev.modRun_canon | with_reducible apply canon_ite | with_reducible intro _ | split)

theorem wload_canon (d : Dev) (die core : Nat) (x : OpFacts) (hd : Dev.Canon d) : Dev.Canon (wload d die core x) := by
  unfold wload
  try dsimp only
  repeat' (first | with_reducible assumption | with_reducible apply Dev.issueArrays_canon)

theorem seed_canon (d : Dev) (die core : Nat) (x : OpFacts) (hd : Dev.Canon d) : Dev.Canon (seed d die core x) := by
  unfold seed
  try dsimp only
  repeat' (first | with_reducible assumption | with_reducible apply Dev.issueArrays_canon)

theorem seedTakeEffect_canon (d : Dev) (die core arr : Nat) (hd : Dev.Canon d) : Dev.Canon (seedTakeEffect d die core arr) := by
  unfold seedTakeEffect
  try dsimp only
  repeat' (first
      | with_reducible assumption | with_reducible apply Dev.modCore_canon | with_reducible apply Dev.pump_canon
      | with_reducible apply seed_canon | with_reducible apply canon_ite | split)

theorem arrayStepStart_canon (d : Dev) (die core arr : Nat) (idle : Bool) (startWait stall : Nat) (parity : Option Nat) (hd : Dev.Canon d) : Dev.Canon (arrayStepStart d die core arr idle startWait stall parity) := by
  unfold arrayStepStart
  repeat' (first | with_reducible assumption | with_reducible apply Dev.arrayStep_canon | with_reducible apply Dev.pump_canon)

theorem astream_canon (d : Dev) (die core : Nat) (x : OpFacts) (hd : Dev.Canon d) : Dev.Canon (astream d die core x) := by
  unfold astream
  repeat' (first | with_reducible assumption | with_reducible apply Dev.issueUnit_canon)

theorem screen_canon (d : Dev) (die core : Nat) (x : OpFacts) (hd : Dev.Canon d) : Dev.Canon (screen d die core x) := by
  unfold screen
  repeat' (first | with_reducible assumption | with_reducible apply Dev.issueUnit_canon)

theorem requant_canon (d : Dev) (die core : Nat) (x : OpFacts) (hd : Dev.Canon d) : Dev.Canon (requant d die core x) := by
  unfold requant
  repeat' (first | with_reducible assumption | with_reducible apply Dev.issueUnit_canon)

theorem lrank_canon (d : Dev) (die core : Nat) (x : OpFacts) (hd : Dev.Canon d) : Dev.Canon (lrank d die core x) := by
  unfold lrank
  repeat' (first | with_reducible assumption | with_reducible apply Dev.issueUnit_canon)

theorem rotate_canon (d : Dev) (die core : Nat) (x : OpFacts) (hd : Dev.Canon d) : Dev.Canon (rotate d die core x) := by
  unfold rotate
  repeat' (first | with_reducible assumption | with_reducible apply Dev.issueUnit_canon)

theorem juggle_canon (d : Dev) (die core : Nat) (x : OpFacts) (hd : Dev.Canon d) : Dev.Canon (juggle d die core x) := by
  unfold juggle
  repeat' (first | with_reducible assumption | with_reducible apply Dev.issueUnit_canon)

theorem norm_canon (d : Dev) (die core : Nat) (x : OpFacts) (hd : Dev.Canon d) : Dev.Canon (norm d die core x) := by
  unfold norm
  repeat' (first | with_reducible assumption | with_reducible apply Dev.issueUnit_canon)

theorem softmax_canon (d : Dev) (die core : Nat) (x : OpFacts) (hd : Dev.Canon d) : Dev.Canon (softmax d die core x) := by
  unfold softmax
  repeat' (first | with_reducible assumption | with_reducible apply Dev.issueUnit_canon)

theorem poundAdd_canon (d : Dev) (die core : Nat) (x : OpFacts) (hd : Dev.Canon d) : Dev.Canon (poundAdd d die core x) := by
  unfold poundAdd
  repeat' (first | with_reducible assumption | with_reducible apply Dev.issueUnit_canon)

theorem poundDrain_canon (d : Dev) (die core : Nat) (x : OpFacts) (hd : Dev.Canon d) : Dev.Canon (poundDrain d die core x) := by
  unfold poundDrain
  repeat' (first | with_reducible assumption | with_reducible apply Dev.issueUnit_canon)

theorem bale_canon (d : Dev) (die core : Nat) (x : OpFacts) (hd : Dev.Canon d) : Dev.Canon (bale d die core x) := by
  unfold bale
  repeat' (first | with_reducible assumption | with_reducible apply Dev.issueUnit_canon)

theorem unbale_canon (d : Dev) (die core : Nat) (x : OpFacts) (hd : Dev.Canon d) : Dev.Canon (unbale d die core x) := by
  unfold unbale
  repeat' (first | with_reducible assumption | with_reducible apply Dev.issueUnit_canon)

theorem dmaIn_canon (d : Dev) (die core : Nat) (x : OpFacts) (hd : Dev.Canon d) : Dev.Canon (dmaIn d die core x) := by
  unfold dmaIn
  repeat' (first | with_reducible assumption | with_reducible apply Dev.issueUnit_canon)

theorem dmaOut_canon (d : Dev) (die core : Nat) (x : OpFacts) (hd : Dev.Canon d) : Dev.Canon (dmaOut d die core x) := by
  unfold dmaOut
  repeat' (first | with_reducible assumption | with_reducible apply Dev.issueUnit_canon)

theorem send_canon (d : Dev) (die core : Nat) (x : OpFacts) (hd : Dev.Canon d) : Dev.Canon (send d die core x) := by
  unfold send
  repeat' (first | with_reducible assumption | with_reducible apply Dev.issueUnit_canon)

theorem recv_canon (d : Dev) (die core : Nat) (x : OpFacts) (hd : Dev.Canon d) : Dev.Canon (recv d die core x) := by
  unfold recv
  repeat' (first | with_reducible assumption | with_reducible apply Dev.issueUnit_canon)

theorem audit_canon (d : Dev) (die core : Nat) (x : OpFacts) (hd : Dev.Canon d) : Dev.Canon (audit d die core x) := by
  unfold audit
  repeat' (first | with_reducible assumption | with_reducible apply Dev.issueUnit_canon)

theorem poundFlush_canon (d : Dev) (die core stall : Nat) (hd : Dev.Canon d) : Dev.Canon (poundFlush d die core stall) := by
  unfold poundFlush
  try dsimp only
  repeat' (first
      | with_reducible assumption | with_reducible apply Dev.doFlush_canon | with_reducible apply Dev.pump_canon
      | with_reducible apply canon_ite)

theorem waitBeat_canon (d : Dev) (die core : Nat) (x : OpFacts) (hd : Dev.Canon d) : Dev.Canon (waitBeat d die core x) := by
  unfold waitBeat
  try dsimp only
  repeat' (first
      | with_reducible assumption | with_reducible apply Dev.issue_canon | with_reducible apply Dev.modRun_canon
      | with_reducible apply Dev.corePerf_canon | with_reducible apply canon_ite | with_reducible intro _)

theorem waitBeatRelease_canon (d : Dev) (die core tick : Nat) (hd : Dev.Canon d) : Dev.Canon (waitBeatRelease d die core tick) := by
  unfold waitBeatRelease
  try dsimp only
  repeat' (first | with_reducible assumption | with_reducible apply Dev.modRun_canon | with_reducible apply canon_ite | split)

theorem barrier_canon (d : Dev) (die core : Nat) (x : OpFacts) (hd : Dev.Canon d) : Dev.Canon (barrier d die core x) := by
  unfold barrier
  try dsimp only
  repeat' (first
      | with_reducible assumption | with_reducible apply Dev.issue_canon | with_reducible apply Dev.modRun_canon
      | with_reducible apply Dev.coreAbort_canon | with_reducible apply canon_ite | with_reducible intro _ | split)

theorem barrierPass_canon (d : Dev) (die core cycles : Nat) (hd : Dev.Canon d) : Dev.Canon (barrierPass d die core cycles) := by
  unfold barrierPass
  try dsimp only
  repeat' (first
      | with_reducible assumption | with_reducible apply barrier_canon | with_reducible apply Dev.modRun_canon
      | with_reducible apply Dev.pump_canon | with_reducible apply Dev.corePerf_canon | with_reducible apply Dev.coreAbort_canon
      | with_reducible apply canon_ite | split)

theorem sequencerResume_canon (d : Dev) (die core cycles : Nat) (hd : Dev.Canon d) : Dev.Canon (sequencerResume d die core cycles) := by
  unfold sequencerResume
  try dsimp only
  repeat' (first
      | with_reducible assumption | with_reducible apply Dev.modRun_canon | with_reducible apply Dev.pump_canon
      | with_reducible apply Dev.corePerf_canon | with_reducible apply canon_ite | split)

theorem skipIf_canon (d : Dev) (die core : Nat) (x : OpFacts) (hd : Dev.Canon d) : Dev.Canon (skipIf d die core x) := by
  unfold skipIf
  try dsimp only
  repeat' (first
      | with_reducible assumption | with_reducible apply Dev.issue_canon | with_reducible apply Dev.modRun_canon
      | with_reducible apply Dev.corePerf_canon | with_reducible apply canon_ite | with_reducible intro _ | split)

theorem mark_canon (d : Dev) (die core : Nat) (x : OpFacts) (hd : Dev.Canon d) : Dev.Canon (mark d die core x) := by
  unfold mark
  try dsimp only
  repeat' (first
      | with_reducible assumption | with_reducible apply Dev.issue_canon | with_reducible apply Dev.modCore_canon
      | with_reducible apply Dev.emit_canon | with_reducible apply canon_ite | with_reducible intro _)

theorem end__canon (d : Dev) (die core : Nat) (x : OpFacts) (hd : Dev.Canon d) : Dev.Canon (end_ d die core x) := by
  unfold end_
  try dsimp only
  repeat' (first
      | with_reducible assumption | with_reducible apply Dev.issue_canon | with_reducible apply Dev.modRun_canon
      | with_reducible apply Dev.pump_canon | with_reducible apply Dev.finishEnd_canon | with_reducible apply canon_ite
      | with_reducible intro _)

theorem Dev.pumpAll_canon (d : Dev) (hd : Dev.Canon d) : Dev.Canon (Dev.pumpAll d) := by
  unfold Dev.pumpAll
  try dsimp only
  repeat' (first | with_reducible assumption | with_reducible apply Dev.pump_canon | (with_reducible apply canon_foldl; intro _ _ _))

theorem Dev.moveAs_canon (d : Dev) (k j e f : Nat) (n0 : Nat) (n1 : Nat) (hd : Dev.Canon d) : Dev.Canon (Dev.moveAs d k j e f n0 n1) := by
  induction n0 generalizing d k j e f n1 with
  | zero =>
    unfold Dev.moveAs
    try dsimp only
    repeat' with_reducible assumption
  | succ _ ih =>
    unfold Dev.moveAs
    try dsimp only
    repeat' (first
        | with_reducible assumption | with_reducible apply ih | with_reducible apply Dev.countAs_canon
        | with_reducible apply Dev.spWrite_canon)

theorem Dev.recvData_canon (d : Dev) (k : Nat) (q : QOp) (as_ : Bool) (data : List Byte) (hd : Dev.Canon d) : Dev.Canon (Dev.recvData d k q as_ data) := by
  unfold Dev.recvData
  try dsimp only
  repeat' (first
      | with_reducible assumption | with_reducible apply Dev.countAs_canon | with_reducible apply Dev.recvInto_canon
      | with_reducible apply Dev.qDone_canon | with_reducible apply Dev.spWrite_canon | with_reducible apply canon_ite
      | with_reducible apply canon_ite_snd | with_reducible apply canon_ite_fst | (with_reducible apply canon_foldl; intro _ _ _))

theorem Dev.takeData_canon (d : Dev) (p ch : Nat) (as_ : Bool) (data : List Byte) (hd : Dev.Canon d) : Dev.Canon (Dev.takeData d p ch as_ data) := by
  unfold Dev.takeData
  try dsimp only
  repeat' (first
      | with_reducible assumption | with_reducible apply Dev.recvData_canon | with_reducible apply Dev.pump_canon
      | (with_reducible apply canon_foldl; intro _ _ _))

theorem Dev.sendBytes_canon (d : Dev) (k e : Nat) (as_ : Bool) (hd : Dev.Canon d) : Dev.Canon (Dev.sendBytes d k e as_).2 := by
  unfold Dev.sendBytes
  try dsimp only
  repeat' (first
      | with_reducible assumption | with_reducible apply Dev.countAs_canon | with_reducible apply canon_ite
      | with_reducible apply canon_ite_snd | with_reducible apply canon_ite_fst | (with_reducible apply canon_foldl_snd; intro _ _ _))

theorem Dev.sendOut_canon (d : Dev) (k : Nat) (s : Show) (x : Nat) (q : QOp) (hd : Dev.Canon d) : Dev.Canon (Dev.sendOut d k s x q) := by
  unfold Dev.sendOut
  try dsimp only
  repeat' (first
      | with_reducible assumption | with_reducible apply Dev.modCore_canon | with_reducible apply Dev.pump_canon
      | with_reducible apply Dev.ready_canon | with_reducible apply Dev.sendBytes_canon | with_reducible apply Dev.sendTo_canon
      | with_reducible apply Dev.qDone_canon | with_reducible apply Dev.dropMsgs_canon | with_reducible apply canon_ite)

theorem Dev.sendIn_canon (d : Dev) (p k : Nat) (x : Nat) (q : QOp) (hd : Dev.Canon d) : Dev.Canon (Dev.sendIn d p k x q) := by
  unfold Dev.sendIn
  try dsimp only
  repeat' (first
      | with_reducible assumption | with_reducible apply Dev.recvInto_canon | with_reducible apply Dev.emit_canon
      | with_reducible apply Dev.moveAs_canon | with_reducible apply Dev.pump_canon | with_reducible apply Dev.sendBytes_canon
      | with_reducible apply Dev.qDone_canon | with_reducible apply canon_ite | (refine canon_snd (by with_reducible assumption) ?_)
      | (refine canon_fst (by with_reducible assumption) ?_) | dsimp only | split)

theorem Dev.transferSend_canon (d : Dev) (p ch k : Nat) (s : Show) (q : QOp) (hd : Dev.Canon d) : Dev.Canon (Dev.transferSend d p ch k s q) := by
  unfold Dev.transferSend
  try dsimp only
  repeat' (first
      | with_reducible assumption | with_reducible apply Dev.sendOut_canon | with_reducible apply Dev.pump_canon
      | with_reducible apply Dev.modRace_canon | with_reducible apply Dev.qDone_canon | with_reducible apply Dev.sendIn_canon
      | with_reducible apply Dev.raceHear_canon | with_reducible apply canon_ite | with_reducible intro _ | split)

theorem Dev.recvOut_canon (d : Dev) (p : Nat) (s : Show) (x : Nat) (hd : Dev.Canon d) : Dev.Canon (Dev.recvOut d p s x) := by
  unfold Dev.recvOut
  try dsimp only
  repeat' (first
      | with_reducible assumption | with_reducible apply Dev.recvData_canon | with_reducible apply Dev.pump_canon
      | with_reducible apply Dev.dropMsgs_canon | split)

theorem Dev.resultIn_canon (d : Dev) (p n : Nat) (s : Show) (e : Nat) (hd : Dev.Canon d) : Dev.Canon (Dev.resultIn d p n s e) := by
  unfold Dev.resultIn
  try dsimp only
  repeat' (first
      | with_reducible assumption | with_reducible apply Dev.modRed_canon | with_reducible apply Dev.dropMsgs_canon
      | with_reducible intro _ | split)

theorem exchangeTransfer_canon (d : Dev) (p ch die core : Nat) (data : List Byte) (hd : Dev.Canon d) : Dev.Canon (exchangeTransfer d p ch die core data) := by
  unfold exchangeTransfer
  try dsimp only
  repeat' (first
      | with_reducible assumption | with_reducible apply Dev.takeData_canon | with_reducible apply Dev.pumpAll_canon
      | with_reducible apply Dev.recvOut_canon | with_reducible apply Dev.transferSend_canon | with_reducible apply Dev.resultIn_canon
      | with_reducible apply canon_ite | with_reducible intro _ | split)

theorem treeTransferReceive_canon (d : Dev) (p n i : Nat) (hd : Dev.Canon d) : Dev.Canon (treeTransferReceive d p n i) := by
  unfold treeTransferReceive
  repeat' (first
      | with_reducible assumption | with_reducible apply Dev.pumpAll_canon | with_reducible apply treeTransfer_canon
      | with_reducible apply Dev.enterHeld_canon)

theorem arrivalReceive_canon (d : Dev) (p n i : Nat) (hd : Dev.Canon d) : Dev.Canon (arrivalReceive d p n i) := by
  unfold arrivalReceive
  repeat' (first
      | with_reducible assumption | with_reducible apply Dev.pumpAll_canon | with_reducible apply Dev.enterHeld_canon
      | with_reducible apply arrivalTransfer_canon)

end Sys2Proof.Machine
end

