-- ==== Sys2Proof/Laws/CanonicalServices.lean ====
section
/-! SUPPORT. Canonical memories are kept by requests, shows, functions, the Midway, recovery, the Drover, page engines, steps and experts. -/

namespace Sys2Proof.Machine

open Sys2Proof

theorem svcReqOpen_canon (d : Dev) (c : Door) (hd : Dev.Canon d) : Svc.Canon (svcReqOpen d c) := by
  unfold svcReqOpen
  try dsimp only
  repeat' (first
      | with_reducible assumption | with_reducible apply Dev.srvAdd_canon | with_reducible apply Dev.modPrefix_canon
      | with_reducible apply Dev.newHandle_canon | with_reducible apply svc_ok | with_reducible apply svc_pure
      | with_reducible apply svc_error | with_reducible apply svc_bind_dev | (with_reducible apply svc_bind; intro _ _)
      | with_reducible apply chk_ok | with_reducible apply chk_pure | with_reducible apply chk_error
      | (refine canon_snd (by with_reducible assumption) ?_) | (refine canon_fst (by with_reducible assumption) ?_)
      | with_reducible intro _ | dsimp only | split | (unfold Dev.Canon; dsimp only; with_reducible apply canon4_of))

theorem svcReqAppend_canon (d : Dev) (c : Door) (hd : Dev.Canon d) : Svc.Canon (svcReqAppend d c) := by
  unfold svcReqAppend
  try dsimp only
  repeat' (first
      | with_reducible assumption | with_reducible apply Dev.emit_canon | with_reducible apply reqAppend_canon
      | with_reducible apply Dev.newHandle_canon | with_reducible apply Dev.modReq_canon | with_reducible apply svc_ok
      | with_reducible apply svc_pure | with_reducible apply svc_error | with_reducible apply svc_bind_dev
      | (with_reducible apply svc_bind; intro _ _))

theorem svcReqGenerate_canon (d : Dev) (c : Door) (hd : Dev.Canon d) : Svc.Canon (svcReqGenerate d c) := by
  unfold svcReqGenerate
  try dsimp only
  repeat' (first
      | with_reducible assumption | with_reducible apply reqGenerate_canon | with_reducible apply Dev.newHandle_canon
      | with_reducible apply Dev.modReq_canon | with_reducible apply svc_ok | with_reducible apply svc_pure
      | with_reducible apply svc_error | with_reducible apply svc_bind_dev | (with_reducible apply svc_bind; intro _ _))

theorem svcReqPause_canon (d : Dev) (c : Door) (hd : Dev.Canon d) : Svc.Canon (svcReqPause d c) := by
  unfold svcReqPause
  try dsimp only
  repeat' (first
      | with_reducible assumption | with_reducible apply Dev.resweep_canon | with_reducible apply Dev.newHandle_canon
      | with_reducible apply reqPause_canon | with_reducible apply Dev.modReq_canon | with_reducible apply svc_ok
      | with_reducible apply svc_pure | with_reducible apply svc_error | with_reducible apply svc_bind_dev
      | (with_reducible apply svc_bind; intro _ _))

theorem svcReqResume_canon (d : Dev) (c : Door) (hd : Dev.Canon d) : Svc.Canon (svcReqResume d c) := by
  unfold svcReqResume
  try dsimp only
  repeat' (first
      | with_reducible assumption | with_reducible apply Dev.resweep_canon | with_reducible apply Dev.newHandle_canon
      | with_reducible apply Dev.modReq_canon | with_reducible apply Dev.nextState_canon | with_reducible apply Dev.finish_canon
      | with_reducible apply reqResume_canon | with_reducible apply svc_ok | with_reducible apply svc_pure | with_reducible apply svc_error
      | with_reducible apply svc_bind_dev | (with_reducible apply svc_bind; intro _ _) | with_reducible apply chk_ok
      | with_reducible apply chk_pure | with_reducible apply chk_error | (refine canon_snd (by with_reducible assumption) ?_)
      | (refine canon_fst (by with_reducible assumption) ?_) | with_reducible intro _ | dsimp only | split)

theorem svcReqClose_canon (d : Dev) (c : Door) (hd : Dev.Canon d) : Svc.Canon (svcReqClose d c) := by
  unfold svcReqClose
  try dsimp only
  repeat' (first
      | with_reducible assumption | with_reducible apply reqClose_canon | with_reducible apply Dev.newHandle_canon
      | with_reducible apply Dev.closeReq_canon | with_reducible apply Dev.modReq_canon | with_reducible apply svc_ok
      | with_reducible apply svc_pure | with_reducible apply svc_error | with_reducible apply svc_bind_dev
      | (with_reducible apply svc_bind; intro _ _) | with_reducible apply chk_ok | with_reducible apply chk_pure
      | with_reducible apply chk_error | (refine canon_snd (by with_reducible assumption) ?_)
      | (refine canon_fst (by with_reducible assumption) ?_) | with_reducible intro _ | dsimp only | split)

theorem svcReqQuery_canon (d : Dev) (c : Door) (hd : Dev.Canon d) : Svc.Canon (svcReqQuery d c) := by
  unfold svcReqQuery
  try dsimp only
  repeat' (first
      | with_reducible assumption | with_reducible apply svc_ok | with_reducible apply svc_pure | with_reducible apply svc_error
      | with_reducible apply svc_bind_dev | (with_reducible apply svc_bind; intro _ _))

theorem svcPrefixBuild_canon (d : Dev) (c : Door) (hd : Dev.Canon d) : Svc.Canon (svcPrefixBuild d c) := by
  unfold svcPrefixBuild
  try dsimp only
  repeat' (first
      | with_reducible assumption | with_reducible apply Dev.modPasture_canon | with_reducible apply Dev.emit_canon
      | with_reducible apply prefixBuild_canon | with_reducible apply Dev.releasePages_canon | with_reducible apply Dev.newHandle_canon
      | with_reducible apply svc_ok | with_reducible apply svc_pure | with_reducible apply svc_error | with_reducible apply svc_bind_dev
      | (with_reducible apply svc_bind; intro _ _) | with_reducible apply chk_ok | with_reducible apply chk_pure
      | with_reducible apply chk_error | (refine canon_snd (by with_reducible assumption) ?_)
      | (refine canon_fst (by with_reducible assumption) ?_) | with_reducible intro _ | dsimp only | split
      | (unfold Dev.Canon; dsimp only; with_reducible apply canon4_of))

theorem svcPrefixTrain_canon (d : Dev) (c : Door) (hd : Dev.Canon d) : Svc.Canon (svcPrefixTrain d c) := by
  unfold svcPrefixTrain
  try dsimp only
  repeat' (first
      | with_reducible assumption | with_reducible apply Dev.emit_canon | with_reducible apply Dev.newHandle_canon
      | with_reducible apply prefixTrain_canon | with_reducible apply svc_ok | with_reducible apply svc_pure
      | with_reducible apply svc_error | with_reducible apply svc_bind_dev | (with_reducible apply svc_bind; intro _ _)
      | with_reducible apply chk_ok | with_reducible apply chk_pure | with_reducible apply chk_error
      | (refine canon_snd (by with_reducible assumption) ?_) | (refine canon_fst (by with_reducible assumption) ?_)
      | with_reducible intro _ | dsimp only | split)

theorem svcPrefixDrop_canon (d : Dev) (c : Door) (hd : Dev.Canon d) : Svc.Canon (svcPrefixDrop d c) := by
  unfold svcPrefixDrop
  try dsimp only
  repeat' (first
      | with_reducible assumption | with_reducible apply prefixDrop_canon | with_reducible apply Dev.modPrefix_canon
      | with_reducible apply Dev.settlePrefix_canon | with_reducible apply Dev.newHandle_canon | with_reducible apply svc_ok
      | with_reducible apply svc_pure | with_reducible apply svc_error | with_reducible apply svc_bind_dev
      | (with_reducible apply svc_bind; intro _ _) | with_reducible apply chk_ok | with_reducible apply chk_pure
      | with_reducible apply chk_error | (refine canon_snd (by with_reducible assumption) ?_)
      | (refine canon_fst (by with_reducible assumption) ?_) | with_reducible intro _ | dsimp only | split)

theorem svcAdapterTrain_canon (d : Dev) (c : Door) (hd : Dev.Canon d) : Svc.Canon (svcAdapterTrain d c) := by
  unfold svcAdapterTrain
  try dsimp only
  repeat' (first
      | with_reducible assumption | with_reducible apply Dev.emit_canon | with_reducible apply Dev.newHandle_canon
      | with_reducible apply adapterTrain_canon | with_reducible apply svc_ok | with_reducible apply svc_pure
      | with_reducible apply svc_error | with_reducible apply svc_bind_dev | (with_reducible apply svc_bind; intro _ _))

theorem reqOpen_canon (d : Dev) (c : Door) (hd : Dev.Canon d) : Dev.Canon (reqOpen d c) := by
  unfold reqOpen
  repeat' (first
      | with_reducible assumption | with_reducible apply Dev.serve_canon | with_reducible apply svcReqOpen_canon | with_reducible intro _)

theorem reqAppend_canon (d : Dev) (c : Door) (hd : Dev.Canon d) : Dev.Canon (reqAppend d c) := by
  unfold reqAppend
  repeat' (first
      | with_reducible assumption | with_reducible apply Dev.serve_canon | with_reducible apply svcReqAppend_canon | with_reducible intro _)

theorem reqGenerate_canon (d : Dev) (c : Door) (hd : Dev.Canon d) : Dev.Canon (reqGenerate d c) := by
  unfold reqGenerate
  repeat' (first
      | with_reducible assumption | with_reducible apply svcReqGenerate_canon | with_reducible apply Dev.serve_canon
      | with_reducible intro _)

theorem reqPause_canon (d : Dev) (c : Door) (hd : Dev.Canon d) : Dev.Canon (reqPause d c) := by
  unfold reqPause
  repeat' (first
      | with_reducible assumption | with_reducible apply Dev.serve_canon | with_reducible apply svcReqPause_canon | with_reducible intro _)

theorem reqResume_canon (d : Dev) (c : Door) (hd : Dev.Canon d) : Dev.Canon (reqResume d c) := by
  unfold reqResume
  repeat' (first
      | with_reducible assumption | with_reducible apply Dev.serve_canon | with_reducible apply svcReqResume_canon | with_reducible intro _)

theorem reqClose_canon (d : Dev) (c : Door) (hd : Dev.Canon d) : Dev.Canon (reqClose d c) := by
  unfold reqClose
  repeat' (first
      | with_reducible assumption | with_reducible apply Dev.serve_canon | with_reducible apply svcReqClose_canon | with_reducible intro _)

theorem reqQuery_canon (d : Dev) (c : Door) (hd : Dev.Canon d) : Dev.Canon (reqQuery d c) := by
  unfold reqQuery
  repeat' (first
      | with_reducible assumption | with_reducible apply Dev.serve_canon | with_reducible apply svcReqQuery_canon | with_reducible intro _)

theorem prefixBuild_canon (d : Dev) (c : Door) (hd : Dev.Canon d) : Dev.Canon (prefixBuild d c) := by
  unfold prefixBuild
  repeat' (first
      | with_reducible assumption | with_reducible apply svcPrefixBuild_canon | with_reducible apply Dev.serve_canon
      | with_reducible intro _)

theorem prefixTrain_canon (d : Dev) (c : Door) (hd : Dev.Canon d) : Dev.Canon (prefixTrain d c) := by
  unfold prefixTrain
  repeat' (first
      | with_reducible assumption | with_reducible apply Dev.serve_canon | with_reducible apply svcPrefixTrain_canon
      | with_reducible intro _)

theorem prefixDrop_canon (d : Dev) (c : Door) (hd : Dev.Canon d) : Dev.Canon (prefixDrop d c) := by
  unfold prefixDrop
  repeat' (first
      | with_reducible assumption | with_reducible apply svcPrefixDrop_canon | with_reducible apply Dev.serve_canon
      | with_reducible intro _)

theorem adapterTrain_canon (d : Dev) (c : Door) (hd : Dev.Canon d) : Dev.Canon (adapterTrain d c) := by
  unfold adapterTrain
  repeat' (first
      | with_reducible assumption | with_reducible apply Dev.serve_canon | with_reducible apply svcAdapterTrain_canon
      | with_reducible intro _)

theorem svcShowLoad_canon (d : Dev) (c : Door) (hd : Dev.Canon d) : Svc.Canon (svcShowLoad d c) := by
  unfold svcShowLoad
  try dsimp only
  repeat' (first
      | with_reducible assumption | with_reducible apply Dev.emit_canon | with_reducible apply Dev.newHandle_canon
      | with_reducible apply showLoad_canon | with_reducible apply svc_ok | with_reducible apply svc_pure | with_reducible apply svc_error
      | with_reducible apply svc_bind_dev | (with_reducible apply svc_bind; intro _ _))

theorem svcShowUnload_canon (d : Dev) (c : Door) (hd : Dev.Canon d) : Svc.Canon (svcShowUnload d c) := by
  unfold svcShowUnload
  try dsimp only
  repeat' (first
      | with_reducible assumption | with_reducible apply Dev.modGroup_canon | with_reducible apply Dev.newHandle_canon
      | with_reducible apply showUnload_canon | (with_reducible apply canon_foldl; intro _ _ _) | with_reducible apply svc_ok
      | with_reducible apply svc_pure | with_reducible apply svc_error | with_reducible apply svc_bind_dev
      | (with_reducible apply svc_bind; intro _ _))

theorem Dev.pinWeights_canon (d : Dev) (acts : List Act) (pins : List (Nat × Nat × Nat × Nat × Nat)) (hd : Dev.Canon d) : Dev.Canon (Dev.pinWeights d acts pins) := by
  unfold Dev.pinWeights
  try dsimp only
  repeat' (first
      | with_reducible assumption | with_reducible apply Dev.access_canon | with_reducible apply Dev.spWrite_canon
      | (with_reducible apply canon_foldl; intro _ _ _) | (refine canon_snd (by with_reducible assumption) ?_)
      | (refine canon_fst (by with_reducible assumption) ?_) | with_reducible intro _ | dsimp only | split)

theorem Dev.clearShow_canon (d : Dev) (p : Nat) (hd : Dev.Canon d) : Dev.Canon (Dev.clearShow d p) := by
  unfold Dev.clearShow
  try dsimp only
  repeat' (first | with_reducible assumption | split | (unfold Dev.Canon; dsimp only; with_reducible apply canon4_of))

theorem Dev.emptyPounds_canon (d : Dev) (pens : Nat) (hd : Dev.Canon d) : Dev.Canon (Dev.emptyPounds d pens) := by
  unfold Dev.emptyPounds
  try dsimp only
  repeat' (first
      | with_reducible assumption | with_reducible apply canon_ite | with_reducible intro _ | split
      | (unfold Dev.Canon; dsimp only; with_reducible apply canon4_of))

theorem Dev.placeShow_canon (d : Dev) (p : Nat) (x : Container) (f : ShowFacts) (hd : Dev.Canon d) : Dev.Canon (Dev.placeShow d p x f) := by
  unfold Dev.placeShow
  try dsimp only
  repeat' (first
      | with_reducible assumption | with_reducible apply Dev.clearShow_canon | with_reducible apply Dev.modPasture_canon
      | with_reducible apply Dev.pinWeights_canon | with_reducible apply Dev.calPlace_canon | with_reducible apply canon_ite
      | with_reducible apply canon_ite_snd | with_reducible apply canon_ite_fst | (with_reducible apply canon_foldl; intro _ _ _)
      | (refine canon_snd (by with_reducible assumption) ?_) | (refine canon_fst (by with_reducible assumption) ?_)
      | with_reducible intro _ | dsimp only | split | (unfold Dev.Canon; dsimp only; with_reducible apply canon4_of))

theorem showContainerRead_canon (d : Dev) (h : Nat) (feeds : List (Nat × Nat × Nat × Nat)) (pins : List (Nat × Nat × Nat × Nat × Nat)) (spread : List Nat) (sparse : List (Nat × Nat)) (addrs : List Nat) (hd : Dev.Canon d) : Dev.Canon (showContainerRead d h feeds pins spread sparse addrs) := by
  unfold showContainerRead
  try dsimp only
  repeat' (first
      | with_reducible assumption | with_reducible apply Dev.placeShow_canon | with_reducible apply Dev.finish_canon
      | with_reducible apply Dev.modPasture_canon | with_reducible intro _ | split)

theorem Dev.unloadSees_canon (d : Dev) (p g : Nat) (h : Nat) (w : Work) (hd : Dev.Canon d) : Dev.Canon (Dev.unloadSees d p g h w) := by
  unfold Dev.unloadSees
  try dsimp only
  repeat' (first
      | with_reducible assumption | with_reducible apply Dev.setWork_canon | with_reducible apply Dev.clearShow_canon
      | with_reducible apply Dev.emptyPounds_canon | with_reducible apply showUnload_canon | with_reducible apply Dev.finish_canon
      | with_reducible apply canon_ite | with_reducible intro _ | split)

theorem Dev.unloadGroup_canon (d : Dev) (g : Nat) (hd : Dev.Canon d) : Dev.Canon (Dev.unloadGroup d g) := by
  unfold Dev.unloadGroup
  try dsimp only
  repeat' (first
      | with_reducible assumption | with_reducible apply Dev.unloadSees_canon | (with_reducible apply canon_foldl; intro _ _ _)
      | (refine canon_snd (by with_reducible assumption) ?_) | (refine canon_fst (by with_reducible assumption) ?_)
      | with_reducible intro _ | dsimp only | split | (unfold Dev.Canon; dsimp only; with_reducible apply canon4_of))

theorem showLoad_canon (d : Dev) (c : Door) (hd : Dev.Canon d) : Dev.Canon (showLoad d c) := by
  unfold showLoad
  repeat' (first
      | with_reducible assumption | with_reducible apply Dev.serve_canon | with_reducible apply svcShowLoad_canon | with_reducible intro _)

theorem showUnload_canon (d : Dev) (c : Door) (hd : Dev.Canon d) : Dev.Canon (showUnload d c) := by
  unfold showUnload
  repeat' (first
      | with_reducible assumption | with_reducible apply svcShowUnload_canon | with_reducible apply Dev.serve_canon
      | with_reducible intro _)

theorem Dev.flrFinish_canon (d : Dev) (f : Nat) (hd : Dev.Canon d) : Dev.Canon (Dev.flrFinish d f) := by
  unfold Dev.flrFinish
  try dsimp only
  repeat' (first
      | with_reducible assumption | with_reducible apply Dev.modGroup_canon | with_reducible apply Dev.modFunc_canon
      | (with_reducible apply canon_foldl; intro _ _ _) | (refine canon_snd (by with_reducible assumption) ?_)
      | (refine canon_fst (by with_reducible assumption) ?_) | with_reducible intro _ | dsimp only
      | (unfold Dev.Canon; dsimp only; with_reducible apply canon4_of))

theorem Dev.flrTxns_canon (d : Dev) (f : Nat) (p : Txn → Bool) (hd : Dev.Canon d) : Dev.Canon (Dev.flrTxns d f p) := by
  unfold Dev.flrTxns
  try dsimp only
  repeat' (first | with_reducible assumption | with_reducible apply Dev.rollBack_canon | (with_reducible apply canon_foldl; intro _ _ _))

theorem Dev.flrClose_canon (d : Dev) (f : Nat) (rest : List Nat) (hd : Dev.Canon d) : Dev.Canon (Dev.flrClose d f rest) := by
  unfold Dev.flrClose
  try dsimp only
  repeat' (first
      | with_reducible assumption | with_reducible apply Dev.closeReq_canon | (with_reducible apply canon_foldl; intro _ _ _)
      | (refine canon_snd (by with_reducible assumption) ?_) | (refine canon_fst (by with_reducible assumption) ?_)
      | with_reducible intro _ | dsimp only | split)

theorem Dev.flrBegin_canon (d : Dev) (f : Nat) (hd : Dev.Canon d) : Dev.Canon (Dev.flrBegin d f) := by
  unfold Dev.flrBegin
  try dsimp only
  repeat' (first
      | with_reducible assumption | with_reducible apply Dev.flrFinish_canon | with_reducible apply Dev.flrClose_canon
      | with_reducible apply Dev.flrTxns_canon | with_reducible apply Dev.modFunc_canon | with_reducible apply canon_ite)

theorem Dev.flrBoundary_canon (d : Dev) (g : Nat) (hd : Dev.Canon d) : Dev.Canon (Dev.flrBoundary d g) := by
  unfold Dev.flrBoundary
  try dsimp only
  repeat' (first
      | with_reducible assumption | with_reducible apply Dev.flrFinish_canon | with_reducible apply Dev.flrClose_canon
      | with_reducible apply Dev.modFunc_canon | with_reducible apply canon_ite | with_reducible apply canon_ite_snd
      | with_reducible apply canon_ite_fst | (with_reducible apply canon_foldl; intro _ _ _))

theorem functionLevelReset_canon (d : Dev) (f : Nat) (hd : Dev.Canon d) : Dev.Canon (functionLevelReset d f) := by
  unfold functionLevelReset
  repeat' (first | with_reducible assumption | with_reducible apply Dev.flrBegin_canon | with_reducible apply canon_ite)

theorem pfReset_canon (d : Dev) (hd : Dev.Canon d) : Dev.Canon (pfReset d) := by
  unfold pfReset
  try dsimp only
  repeat' (first
      | with_reducible assumption | with_reducible apply Dev.flrTxns_canon | with_reducible apply Dev.flrBegin_canon
      | with_reducible apply canon_ite | with_reducible apply canon_ite_snd | with_reducible apply canon_ite_fst
      | (with_reducible apply canon_foldl; intro _ _ _) | (refine canon_snd (by with_reducible assumption) ?_)
      | (refine canon_fst (by with_reducible assumption) ?_) | with_reducible intro _ | dsimp only | split
      | (unfold Dev.Canon; dsimp only; with_reducible apply canon4_of))

theorem pfFunctionLevelReset_canon (d : Dev) (hd : Dev.Canon d) : Dev.Canon (pfFunctionLevelReset d) := by
  unfold pfFunctionLevelReset
  repeat' (first | with_reducible assumption | with_reducible apply pfReset_canon)

theorem hotReset_canon (d : Dev) (hd : Dev.Canon d) : Dev.Canon (hotReset d) := by
  unfold hotReset
  repeat' (first | with_reducible assumption | with_reducible apply pfReset_canon)

theorem perstAssert_canon (d : Dev) (released : Bool) (hd : Dev.Canon d) : Dev.Canon (perstAssert d released) := by
  unfold perstAssert
  try dsimp only
  repeat' (first
      | with_reducible assumption | with_reducible apply pfReset_canon | with_reducible apply canon_ite | split
      | (unfold Dev.Canon; dsimp only; with_reducible apply canon4_of))

theorem flrBoundaryTimeout_canon (d : Dev) (f : Nat) (hd : Dev.Canon d) : Dev.Canon (flrBoundaryTimeout d f) := by
  unfold flrBoundaryTimeout
  try dsimp only
  repeat' (first
      | with_reducible assumption | with_reducible apply Dev.flrFinish_canon | with_reducible apply Dev.flrClose_canon
      | with_reducible apply Dev.abortActs_canon | with_reducible apply canon_ite)

theorem vfEnable_canon (d : Dev) (on : Bool) (n : Nat) (hd : Dev.Canon d) : Dev.Canon (vfEnable d on n) := by
  unfold vfEnable
  try dsimp only
  repeat' (first
      | with_reducible assumption | with_reducible apply Dev.modFunc_canon | with_reducible apply canon_ite
      | with_reducible apply canon_ite_snd | with_reducible apply canon_ite_fst | (with_reducible apply canon_foldl; intro _ _ _))

theorem d3hot_canon (d : Dev) (f : Nat) (hot : Bool) (hd : Dev.Canon d) : Dev.Canon (d3hot d f hot) := by
  unfold d3hot
  try dsimp only
  repeat' (first | with_reducible assumption | with_reducible apply Dev.modFunc_canon | with_reducible apply canon_ite)

theorem Dev.tellUsers_canon (d : Dev) (code owner n b src : Nat) (hd : Dev.Canon d) : Dev.Canon (Dev.tellUsers d code owner n b src) := by
  unfold Dev.tellUsers
  try dsimp only
  repeat' (first | with_reducible assumption | with_reducible apply Dev.record_canon | (with_reducible apply canon_foldl; intro _ _ _))

theorem Dev.askPeers_canon (d : Dev) (owner n b : Nat) (hd : Dev.Canon d) : Dev.Canon (Dev.askPeers d owner n b) := by
  unfold Dev.askPeers
  try dsimp only
  repeat' (first | with_reducible assumption | with_reducible apply Dev.emit_canon | with_reducible apply Dev.tellGroup_canon | split)

theorem Dev.askSource_canon (d : Dev) (owner n b src : Nat) (hd : Dev.Canon d) : Dev.Canon (Dev.askSource d owner n b src) := by
  unfold Dev.askSource
  try dsimp only
  repeat' (first
      | with_reducible assumption | with_reducible apply Dev.record_canon | with_reducible apply Dev.askPeers_canon
      | with_reducible apply canon_ite | with_reducible intro _ | split | (unfold Dev.Canon; dsimp only; with_reducible apply canon4_of))

theorem Dev.nextReseed_canon (d : Dev) (owner n : Nat) (hd : Dev.Canon d) : Dev.Canon (Dev.nextReseed d owner n) := by
  unfold Dev.nextReseed
  try dsimp only
  repeat' (first | with_reducible assumption | with_reducible apply Dev.askSource_canon | with_reducible apply canon_ite | split)

theorem Dev.taintBlock_canon (d : Dev) (owner n b : Nat) (hd : Dev.Canon d) : Dev.Canon (Dev.taintBlock d owner n b) := by
  unfold Dev.taintBlock
  try dsimp only
  repeat' (first
      | with_reducible assumption | with_reducible apply Dev.tellUsers_canon | with_reducible apply Dev.modImage_canon
      | with_reducible apply Dev.nextReseed_canon | with_reducible apply canon_ite | split
      | (unfold Dev.Canon; dsimp only; with_reducible apply canon4_of))

theorem Dev.dropReseed_canon (d : Dev) (owner n b : Nat) (hd : Dev.Canon d) : Dev.Canon (Dev.dropReseed d owner n b) := by
  unfold Dev.dropReseed
  try dsimp only
  repeat' (first | with_reducible assumption | (unfold Dev.Canon; dsimp only; with_reducible apply canon4_of))

theorem Dev.writeBlock_canon (d : Dev) (owner n b src : Nat) (data : List Byte) (hd : Dev.Canon d) : Dev.Canon (Dev.writeBlock d owner n b src data) := by
  unfold Dev.writeBlock
  try dsimp only
  repeat' (first
      | with_reducible assumption | with_reducible apply Dev.tellUsers_canon | with_reducible apply Dev.modImage_canon
      | with_reducible apply Dev.dropReseed_canon | with_reducible apply Dev.nextReseed_canon | with_reducible apply Dev.agentWrite_canon
      | with_reducible apply canon_ite | split)

theorem Dev.sourceFailed_canon (d : Dev) (owner n b src : Nat) (hd : Dev.Canon d) : Dev.Canon (Dev.sourceFailed d owner n b src) := by
  unfold Dev.sourceFailed
  try dsimp only
  repeat' (first
      | with_reducible assumption | with_reducible apply Dev.askSource_canon | with_reducible apply Dev.imageLost_canon
      | with_reducible apply canon_ite | split | (unfold Dev.Canon; dsimp only; with_reducible apply canon4_of))

theorem reseedSourceDone_canon (d : Dev) (owner n b : Nat) (data : List Byte) (hd : Dev.Canon d) : Dev.Canon (reseedSourceDone d owner n b data) := by
  unfold reseedSourceDone
  try dsimp only
  repeat' (first
      | with_reducible assumption | with_reducible apply Dev.writeBlock_canon | with_reducible apply Dev.sourceFailed_canon
      | with_reducible apply Dev.errAdd_canon | with_reducible apply canon_ite | split)

theorem reseedTimeout_canon (d : Dev) (owner n b : Nat) (hd : Dev.Canon d) : Dev.Canon (reseedTimeout d owner n b) := by
  unfold reseedTimeout
  repeat' (first | with_reducible assumption | with_reducible apply Dev.sourceFailed_canon | split)

theorem faultReport_canon (d : Dev) (code die core info item corrected : Nat) (hd : Dev.Canon d) : Dev.Canon (faultReport d code die core info item corrected) := by
  unfold faultReport
  try dsimp only
  repeat' (first
      | with_reducible assumption | with_reducible apply Dev.raise_canon | with_reducible apply Dev.corrected_canon
      | with_reducible apply Dev.errAdd_canon | with_reducible apply canon_ite)

theorem Dev.endRecovery_canon (d : Dev) (r : FaultRec) (hd : Dev.Canon d) : Dev.Canon (Dev.endRecovery d r) := by
  unfold Dev.endRecovery
  try dsimp only
  repeat' (first
      | with_reducible assumption | with_reducible apply Dev.setDisp_canon | with_reducible apply canon_ite | split
      | (unfold Dev.Canon; dsimp only; with_reducible apply canon4_of))

theorem Dev.escalate_canon (d : Dev) (r : FaultRec) (hd : Dev.Canon d) : Dev.Canon (Dev.escalate d r) := by
  unfold Dev.escalate
  try dsimp only
  repeat' (first
      | with_reducible assumption | with_reducible apply Dev.runRecovery_canon | with_reducible apply Dev.setDisp_canon
      | (unfold Dev.Canon; dsimp only; with_reducible apply canon4_of))

theorem Dev.mapArray_canon (d : Dev) (k a : Nat) (hd : Dev.Canon d) : Dev.Canon (Dev.mapArray d k a) := by
  unfold Dev.mapArray
  try dsimp only
  repeat' (first
      | with_reducible assumption | with_reducible apply Dev.softRepair_canon | with_reducible apply Dev.modCore_canon
      | (unfold Dev.Canon; dsimp only; with_reducible apply canon4_of))

theorem Dev.mapCore_canon (d : Dev) (k i : Nat) (hd : Dev.Canon d) : Dev.Canon (Dev.mapCore d k i) := by
  unfold Dev.mapCore
  try dsimp only
  repeat' (first
      | with_reducible assumption
      | (unfold Dev.Canon; dsimp only; refine canon4_abuf (canon4_spad (canon4_of ?_) (Mem.wf_zero _ _ _)) (Mem.wf_zero _ _ _))
      | with_reducible apply Dev.softRepair_canon | with_reducible apply Dev.pinWeights_canon | with_reducible intro _ | split)

theorem Dev.recoverUnit_canon (d : Dev) (r : FaultRec) (hd : Dev.Canon d) : Dev.Canon (Dev.recoverUnit d r) := by
  unfold Dev.recoverUnit
  try dsimp only
  repeat' (first
      | with_reducible assumption | with_reducible apply Dev.escalate_canon | with_reducible apply Dev.mapArray_canon
      | with_reducible apply Dev.endRecovery_canon | with_reducible apply Dev.mapCore_canon | with_reducible apply canon_ite
      | with_reducible intro _ | split)

theorem faultRecoveryDone_canon (d : Dev) (hd : Dev.Canon d) : Dev.Canon (faultRecoveryDone d) := by
  unfold faultRecoveryDone
  repeat' (first | with_reducible assumption | with_reducible apply Dev.recoverUnit_canon | split)

theorem recoveryBudgetExpired_canon (d : Dev) (hd : Dev.Canon d) : Dev.Canon (recoveryBudgetExpired d) := by
  unfold recoveryBudgetExpired
  repeat' (first | with_reducible assumption | with_reducible apply Dev.escalate_canon | split)

theorem faultRecoveryStart_canon (d : Dev) (hd : Dev.Canon d) : Dev.Canon (faultRecoveryStart d) := by
  unfold faultRecoveryStart
  try dsimp only
  repeat' (first
      | with_reducible assumption | with_reducible apply Dev.beginRecovery_canon | with_reducible apply canon_ite | split
      | (unfold Dev.Canon; dsimp only; with_reducible apply canon4_of))

theorem Dev.pauseDone_canon (d : Dev) (h : Nat) (hd : Dev.Canon d) : Dev.Canon (Dev.pauseDone d h) := by
  unfold Dev.pauseDone
  try dsimp only
  repeat' (first | with_reducible assumption | with_reducible apply Dev.modReq_canon | with_reducible apply Dev.finish_canon | split)

theorem Dev.setPage_canon (d : Dev) (h k i n : Nat) (hd : Dev.Canon d) : Dev.Canon (Dev.setPage d h k i n) := by
  unfold Dev.setPage
  try dsimp only
  repeat' (first | with_reducible assumption | with_reducible apply Dev.modReq_canon)

theorem Dev.movePage_canon (d : Dev) (h : Nat) (r : Request) (k i n : Nat) (hd : Dev.Canon d) : Dev.Canon (Dev.movePage d h r k i n) := by
  unfold Dev.movePage
  try dsimp only
  repeat' (first
      | with_reducible assumption | with_reducible apply Dev.srvAdd_canon | with_reducible apply Dev.agentRead_canon
      | with_reducible apply Dev.releasePage_canon | with_reducible apply Dev.pauseDone_canon | with_reducible apply Dev.closeReq_canon
      | with_reducible apply Dev.modReq_canon | with_reducible apply Dev.setPage_canon | with_reducible apply canon_ite
      | with_reducible apply canon_ite_snd | with_reducible apply canon_ite_fst | (with_reducible apply canon_foldl_last; intro _ _ _)
      | (refine canon_snd (by with_reducible assumption) ?_) | (refine canon_fst (by with_reducible assumption) ?_)
      | with_reducible intro _ | dsimp only | split)

theorem droverPageMove_canon (d : Dev) (h : Nat) (hd : Dev.Canon d) : Dev.Canon (droverPageMove d h) := by
  unfold droverPageMove
  repeat' (first
      | with_reducible assumption | with_reducible apply Dev.movePage_canon | with_reducible apply Dev.pauseDone_canon
      | with_reducible apply Dev.closeReq_canon | with_reducible apply canon_ite | split)

theorem Dev.handOff_canon (d : Dev) (h : Nat) (hd : Dev.Canon d) : Dev.Canon (Dev.handOff d h) := by
  unfold Dev.handOff
  try dsimp only
  repeat' (first
      | with_reducible assumption | with_reducible apply Dev.pauseDone_canon | with_reducible apply Dev.modReq_canon
      | with_reducible apply canon_ite | split)

theorem Dev.restorePage_canon (d : Dev) (h : Nat) (r : Request) (t : TierPage) (rest : List TierPage) (hd : Dev.Canon d) : Dev.Canon (Dev.restorePage d h r t rest) := by
  unfold Dev.restorePage
  try dsimp only
  repeat' (first
      | with_reducible assumption | with_reducible apply Dev.srvAdd_canon | with_reducible apply Dev.closeReq_canon
      | with_reducible apply Dev.agentWrite_canon | with_reducible apply Dev.modReq_canon | with_reducible apply Dev.setPage_canon
      | with_reducible apply Dev.nextState_canon | with_reducible apply Dev.finish_canon | with_reducible apply Dev.errAdd_canon
      | with_reducible apply canon_ite | split | (unfold Dev.Canon; dsimp only; with_reducible apply canon4_of))

theorem droverPageRestore_canon (d : Dev) (h : Nat) (hd : Dev.Canon d) : Dev.Canon (droverPageRestore d h) := by
  unfold droverPageRestore
  repeat' (first
      | with_reducible assumption | with_reducible apply Dev.restorePage_canon | with_reducible apply Dev.closeReq_canon
      | with_reducible apply canon_ite | split)

theorem droverGoldenCopy_canon (d : Dev) (p n : Nat) (hd : Dev.Canon d) : Dev.Canon (droverGoldenCopy d p n) := by
  unfold droverGoldenCopy
  try dsimp only
  repeat' (first
      | with_reducible assumption | with_reducible apply Dev.modImage_canon | with_reducible apply Dev.agentRead_canon
      | with_reducible apply Dev.ready_canon | with_reducible apply Dev.finish_canon | with_reducible apply canon_ite
      | (refine canon_snd (by with_reducible assumption) ?_) | (refine canon_fst (by with_reducible assumption) ?_) | dsimp only | split)

theorem Dev.goldenLost_canon (d : Dev) (p n : Nat) (hd : Dev.Canon d) : Dev.Canon (Dev.goldenLost d p n) := by
  unfold Dev.goldenLost
  try dsimp only
  repeat' (first
      | with_reducible assumption | with_reducible apply Dev.modImage_canon | with_reducible apply Dev.sourceFailed_canon | split)

theorem tier2Lost_canon (d : Dev) (port : Nat) (page : Option Nat) (hd : Dev.Canon d) : Dev.Canon (tier2Lost d port page) := by
  unfold tier2Lost
  try dsimp only
  repeat' (first
      | with_reducible assumption | with_reducible apply Dev.notice_canon | with_reducible apply Dev.closeReq_canon
      | with_reducible apply Dev.goldenLost_canon | with_reducible apply canon_ite | with_reducible apply canon_ite_snd
      | with_reducible apply canon_ite_fst | (with_reducible apply canon_foldl; intro _ _ _)
      | (refine canon_snd (by with_reducible assumption) ?_) | (refine canon_fst (by with_reducible assumption) ?_)
      | with_reducible intro _ | dsimp only | split | (unfold Dev.Canon; dsimp only; with_reducible apply canon4_of))

theorem Dev.growList_canon (d : Dev) (h p fmt k : Nat) (hd : Dev.Canon d) : Opt.Canon (Dev.growList d h p fmt k) := by
  unfold Dev.growList
  try dsimp only
  repeat' (first
      | with_reducible assumption | with_reducible apply Dev.modReq_canon | (refine opt_of (by with_reducible assumption) ?_)
      | with_reducible apply opt_some | with_reducible apply opt_none | with_reducible apply opt_map_dev | with_reducible apply opt_map
      | with_reducible apply opt_bind | with_reducible intro _ | (unfold Dev.Canon; dsimp only; with_reducible apply canon4_of))

theorem Dev.growLists_canon (d : Dev) (h p fmt : Nat) (ks : List Nat) (hd : Dev.Canon d) : Opt.Canon (Dev.growLists d h p fmt ks) := by
  unfold Dev.growLists
  try dsimp only
  repeat' (first
      | with_reducible assumption | with_reducible apply Dev.growList_canon | with_reducible apply Dev.modReq_canon
      | (refine canon_snd (by with_reducible assumption) ?_) | (refine canon_fst (by with_reducible assumption) ?_)
      | (refine opt_of (by with_reducible assumption) ?_) | with_reducible apply opt_some | with_reducible apply opt_none
      | with_reducible apply opt_map_dev | with_reducible apply opt_map | with_reducible apply opt_bind
      | (with_reducible apply opt_foldl; intro _ _ _) | with_reducible intro _)

theorem Dev.takeSlots_canon (d : Dev) (h p fmt : Nat) (ks : List Nat) (n : Nat) (n0 : Nat) (hd : Dev.Canon d) : Dev.Canon (Dev.takeSlots d h p fmt ks n n0).2 := by
  induction n0 generalizing d h p fmt ks n with
  | zero =>
    unfold Dev.takeSlots
    try dsimp only
    repeat' with_reducible assumption
  | succ _ ih =>
    unfold Dev.takeSlots
    try dsimp only
    repeat' (first
        | with_reducible assumption | with_reducible apply ih | with_reducible apply Dev.growLists_canon | with_reducible apply canon_ite
        | with_reducible apply canon_ite_snd | (refine opt_of (by with_reducible assumption) ?_) | with_reducible intro _ | dsimp only
        | split)

theorem Dev.markSlots_canon (d : Dev) (h : Nat) (ks l : List Nat) (f : Nat → Nat → PageRec → PageRec) (hd : Dev.Canon d) : Dev.Canon (Dev.markSlots d h ks l f) := by
  unfold Dev.markSlots
  try dsimp only
  repeat' (first
      | with_reducible assumption | (with_reducible apply canon_foldl; intro _ _ _) | (refine canon_snd (by with_reducible assumption) ?_)
      | (refine canon_fst (by with_reducible assumption) ?_) | with_reducible intro _ | dsimp only | split
      | (unfold Dev.Canon; dsimp only; with_reducible apply canon4_of))

theorem Dev.commitSlots_canon (d : Dev) (h lgroups : Nat) (ks l : List Nat) (hd : Dev.Canon d) : Dev.Canon (Dev.commitSlots d h lgroups ks l) := by
  unfold Dev.commitSlots
  try dsimp only
  repeat' (first | with_reducible assumption | with_reducible apply Dev.markSlots_canon | with_reducible apply Dev.modReq_canon)

theorem Dev.applySkips_canon (d : Dev) (h b : Nat) (s : Show) (pen off : Nat) (slots nodes : List Nat) (ks : List Nat) (hd : Dev.Canon d) : Dev.Canon (Dev.applySkips d h b s pen off slots nodes ks) := by
  unfold Dev.applySkips
  try dsimp only
  repeat' (first
      | with_reducible assumption | with_reducible apply Dev.markSlots_canon | with_reducible apply Dev.srvAdd_canon
      | with_reducible apply Dev.agentRead_canon | (with_reducible apply canon_foldl; intro _ _ _))

theorem Dev.writeTokens_canon (d : Dev) (h : Nat) (r : Request) (keep : List Nat) (why : Nat) (ok : Bool) (hd : Dev.Canon d) : Dev.Canon (Dev.writeTokens d h r keep why ok) := by
  unfold Dev.writeTokens
  try dsimp only
  repeat' (first
      | with_reducible assumption | with_reducible apply Dev.hostPut_canon | with_reducible apply Dev.srvAdd_canon
      | with_reducible apply Dev.modReq_canon | with_reducible apply Dev.nextState_canon | with_reducible apply Dev.finish_canon
      | with_reducible apply canon_ite)

theorem Dev.applyDrafts_canon (d : Dev) (g b h : Nat) (r : Request) (x : StepFacts) (s : Show) (pen off : Nat) (bs : List Byte) (hd : Dev.Canon d) : Dev.Canon (Dev.applyDrafts d g b h r x s pen off bs) := by
  unfold Dev.applyDrafts
  try dsimp only
  repeat' (first
      | with_reducible assumption | with_reducible apply Dev.writeTokens_canon | with_reducible apply Dev.srvAdd_canon
      | with_reducible apply Dev.commitSlots_canon | with_reducible apply Dev.applySkips_canon | with_reducible apply canon_ite
      | with_reducible intro _ | split)

theorem Dev.applyRecord_canon (d : Dev) (g b h : Nat) (x : StepFacts) (s : Show) (pen off : Nat) (bs : List Byte) (hd : Dev.Canon d) : Dev.Canon (Dev.applyRecord d g b h x s pen off bs) := by
  unfold Dev.applyRecord
  try dsimp only
  repeat' (first
      | with_reducible assumption | with_reducible apply Dev.srvAdd_canon | with_reducible apply Dev.agentWrite_canon
      | with_reducible apply Dev.applyDrafts_canon | with_reducible apply canon_ite | split)

theorem Dev.prefixResults_canon (d : Dev) (h pages : Nat) (hd : Dev.Canon d) : Dev.Canon (Dev.prefixResults d h pages).2 := by
  unfold Dev.prefixResults
  try dsimp only
  repeat' (first
      | with_reducible assumption | with_reducible apply Dev.draw_canon | with_reducible apply prefixTrain_canon
      | (refine canon_snd (by with_reducible assumption) ?_) | (refine canon_fst (by with_reducible assumption) ?_) | dsimp only | split)

theorem Dev.prefixDone_canon (d : Dev) (h n : Nat) (r : Request) (hd : Dev.Canon d) : Dev.Canon (Dev.prefixDone d h n r) := by
  unfold Dev.prefixDone
  try dsimp only
  repeat' (first
      | with_reducible assumption | with_reducible apply Dev.prefixResults_canon | with_reducible apply Dev.leaveBatches_canon
      | with_reducible apply Dev.modPrefix_canon | with_reducible apply Dev.finish_canon
      | (refine canon_snd (by with_reducible assumption) ?_) | (refine canon_fst (by with_reducible assumption) ?_)
      | with_reducible intro _ | dsimp only | split | (unfold Dev.Canon; dsimp only; with_reducible apply canon4_of))

theorem Dev.rebuildPrefix_canon (d : Dev) (h p n : Nat) (hd : Dev.Canon d) : Dev.Canon (Dev.rebuildPrefix d h p n) := by
  unfold Dev.rebuildPrefix
  try dsimp only
  repeat' (first
      | with_reducible assumption | with_reducible apply Dev.modPrefix_canon | with_reducible apply Dev.releasePages_canon
      | with_reducible apply Dev.finish_canon | split | (unfold Dev.Canon; dsimp only; with_reducible apply canon4_of))

theorem Dev.commitChunk_canon (d : Dev) (h : Nat) (s : Show) (hd : Dev.Canon d) : Dev.Canon (Dev.commitChunk d h s) := by
  unfold Dev.commitChunk
  try dsimp only
  repeat' (first
      | with_reducible assumption | with_reducible apply Dev.srvAdd_canon | with_reducible apply Dev.commitSlots_canon
      | with_reducible apply Dev.prefixDone_canon | with_reducible apply Dev.modReq_canon | with_reducible apply Dev.nextState_canon
      | with_reducible apply Dev.finish_canon | with_reducible apply canon_ite | split)

theorem Dev.trainStep_canon (d : Dev) (p : Nat) (hd : Dev.Canon d) : Dev.Canon (Dev.trainStep d p) := by
  unfold Dev.trainStep
  try dsimp only
  repeat' (first
      | with_reducible assumption | with_reducible apply Dev.draw_canon | with_reducible apply Dev.setWork_canon
      | with_reducible apply Dev.finish_canon | with_reducible apply prefixTrain_canon | with_reducible apply Dev.rebuildPrefix_canon
      | with_reducible apply canon_ite | with_reducible apply canon_ite_snd | with_reducible apply canon_ite_fst
      | (with_reducible apply canon_foldl; intro _ _ _) | (refine canon_snd (by with_reducible assumption) ?_)
      | (refine canon_fst (by with_reducible assumption) ?_) | with_reducible intro _ | dsimp only | split)

theorem Dev.trainAborted_canon (d : Dev) (p : Nat) (hd : Dev.Canon d) : Dev.Canon (Dev.trainAborted d p) := by
  unfold Dev.trainAborted
  try dsimp only
  repeat' (first
      | with_reducible assumption | with_reducible apply Dev.finish_canon | with_reducible apply prefixTrain_canon
      | (with_reducible apply canon_foldl; intro _ _ _) | (refine canon_snd (by with_reducible assumption) ?_)
      | (refine canon_fst (by with_reducible assumption) ?_) | with_reducible intro _ | dsimp only | split)

theorem Dev.taintMet_canon (d : Dev) (g owner n b met : Nat) (hd : Dev.Canon d) : Dev.Canon (Dev.taintMet d g owner n b met) := by
  unfold Dev.taintMet
  try dsimp only
  repeat' (first
      | with_reducible assumption | with_reducible apply Dev.modGroup_canon | with_reducible apply Dev.taintBlock_canon
      | with_reducible apply canon_ite | split)

theorem Dev.settleAddress_canon (d : Dev) (g a met : Nat) (hd : Dev.Canon d) : Dev.Canon (Dev.settleAddress d g a met) := by
  unfold Dev.settleAddress
  try dsimp only
  repeat' (first
      | with_reducible assumption | with_reducible apply Dev.abortGroup_canon | with_reducible apply Dev.closeReq_canon
      | with_reducible apply Dev.agentWrite_canon | with_reducible apply Dev.dropPrefix_canon | with_reducible apply Dev.taintMet_canon
      | with_reducible apply canon_ite | with_reducible apply canon_ite_snd | with_reducible apply canon_ite_fst
      | (with_reducible apply canon_foldl; intro _ _ _) | (refine canon_snd (by with_reducible assumption) ?_)
      | (refine canon_fst (by with_reducible assumption) ?_) | with_reducible intro _ | dsimp only | split)

theorem Dev.settlePoison_canon (d : Dev) (g : Nat) (hd : Dev.Canon d) : Dev.Canon (Dev.settlePoison d g) := by
  unfold Dev.settlePoison
  try dsimp only
  repeat' (first
      | with_reducible assumption | with_reducible apply Dev.modGroup_canon | with_reducible apply Dev.settleAddress_canon
      | (with_reducible apply canon_foldl; intro _ _ _))

theorem Dev.abortCommands_canon (d : Dev) (h : Nat) (hd : Dev.Canon d) : Dev.Canon (Dev.abortCommands d h) := by
  unfold Dev.abortCommands
  try dsimp only
  repeat' (first
      | with_reducible assumption | with_reducible apply Dev.clearDrafts_canon | with_reducible apply Dev.trimPages_canon
      | with_reducible apply Dev.closeReq_canon | with_reducible apply Dev.modReq_canon | with_reducible apply Dev.finish_canon
      | with_reducible apply canon_ite | with_reducible apply canon_ite_snd | with_reducible apply canon_ite_fst
      | (with_reducible apply canon_foldl; intro _ _ _) | (refine canon_snd (by with_reducible assumption) ?_)
      | (refine canon_fst (by with_reducible assumption) ?_) | with_reducible intro _ | dsimp only | split)

theorem Dev.successor_canon (d : Dev) (h old wrote : Nat) (put : Nat → Request → Request) (hd : Dev.Canon d) : Dev.Canon (Dev.successor d h old wrote put) := by
  unfold Dev.successor
  try dsimp only
  repeat' (first
      | with_reducible assumption | with_reducible apply reqGenerate_canon | with_reducible apply Dev.newHandle_canon
      | with_reducible apply Dev.modReq_canon | with_reducible apply Dev.finish_canon | with_reducible apply canon_ite
      | (refine canon_snd (by with_reducible assumption) ?_) | (refine canon_fst (by with_reducible assumption) ?_)
      | with_reducible intro _ | dsimp only | split)

theorem Dev.succeed_canon (d : Dev) (h : Nat) (hd : Dev.Canon d) : Dev.Canon (Dev.succeed d h) := by
  unfold Dev.succeed
  try dsimp only
  repeat' (first | with_reducible assumption | with_reducible apply Dev.successor_canon | split)

theorem Dev.applyChunk_canon (d : Dev) (h : Nat) (s : Show) (hd : Dev.Canon d) : Dev.Canon (Dev.applyChunk d h s) := by
  unfold Dev.applyChunk
  repeat' (first | with_reducible assumption | with_reducible apply Dev.commitChunk_canon | with_reducible apply canon_ite | split)

theorem Dev.noRecord_canon (d : Dev) (h : Nat) (hd : Dev.Canon d) : Dev.Canon (Dev.noRecord d h) := by
  unfold Dev.noRecord
  repeat' (first | with_reducible assumption | with_reducible apply Dev.srvAdd_canon | with_reducible apply canon_ite | split)

theorem Dev.applyStep_canon (d : Dev) (g : Nat) (x : StepFacts) (s : Show) (hd : Dev.Canon d) : Dev.Canon (Dev.applyStep d g x s) := by
  unfold Dev.applyStep
  try dsimp only
  repeat' (first
      | with_reducible assumption | with_reducible apply Dev.noRecord_canon | with_reducible apply Dev.applyRecord_canon
      | with_reducible apply Dev.agentRead_canon | with_reducible apply Dev.applyChunk_canon | with_reducible apply canon_ite
      | with_reducible apply canon_ite_snd | with_reducible apply canon_ite_fst | (with_reducible apply canon_foldl; intro _ _ _)
      | (refine canon_snd (by with_reducible assumption) ?_) | (refine canon_fst (by with_reducible assumption) ?_)
      | with_reducible intro _ | dsimp only | split)

theorem Dev.endStep_canon (d : Dev) (g : Nat) (x : StepFacts) (hd : Dev.Canon d) : Dev.Canon (Dev.endStep d g x) := by
  unfold Dev.endStep
  try dsimp only
  repeat' (first
      | with_reducible assumption | with_reducible apply Dev.clearDrafts_canon | with_reducible apply Dev.trainAborted_canon
      | with_reducible apply Dev.trainStep_canon | with_reducible apply Dev.modGroup_canon | with_reducible apply Dev.abortCommands_canon
      | with_reducible apply Dev.succeed_canon | with_reducible apply Dev.applyStep_canon | with_reducible apply Dev.settlePoison_canon
      | with_reducible apply canon_ite | with_reducible apply canon_ite_snd | with_reducible apply canon_ite_fst
      | (with_reducible apply canon_foldl; intro _ _ _) | (refine canon_snd (by with_reducible assumption) ?_)
      | (refine canon_fst (by with_reducible assumption) ?_) | with_reducible intro _ | dsimp only | split)

theorem Dev.giveSlots_canon (d : Dev) (g fmt : Nat) (s : Show) (q : Nat × Nat) (hd : Dev.Canon d) : Dev.Canon (Dev.giveSlots d g fmt s q) := by
  unfold Dev.giveSlots
  try dsimp only
  repeat' (first
      | with_reducible assumption | with_reducible apply Dev.takeSlots_canon | with_reducible apply Dev.markSlots_canon
      | with_reducible apply Dev.modReq_canon | with_reducible apply canon_ite | (refine canon_snd (by with_reducible assumption) ?_)
      | (refine canon_fst (by with_reducible assumption) ?_) | dsimp only | split)

theorem Dev.writeBatchList_canon (d : Dev) (s : Show) (l : List Nat) (hd : Dev.Canon d) : Dev.Canon (Dev.writeBatchList d s l) := by
  unfold Dev.writeBatchList
  try dsimp only
  repeat' (first | with_reducible assumption | with_reducible apply Dev.agentWrite_canon | split)

theorem Dev.beginAct_canon (d : Dev) (p g i beat : Nat) (a : Act) (batch : List Nat) (hd : Dev.Canon d) : Dev.Canon (Dev.beginAct d p g i beat a batch) := by
  unfold Dev.beginAct
  try dsimp only
  repeat' (first | with_reducible assumption | with_reducible apply Dev.modCore_canon)

theorem Dev.widthStart_canon (d : Dev) (p g n : Nat) (e : Nat × List Nat) (hd : Dev.Canon d) : Dev.Canon (Dev.widthStart d p g n e) := by
  unfold Dev.widthStart
  try dsimp only
  repeat' (first
      | with_reducible assumption | with_reducible apply Dev.spWrite_canon | with_reducible apply canon_ite
      | with_reducible apply canon_ite_snd | with_reducible apply canon_ite_fst | (with_reducible apply canon_foldl; intro _ _ _)
      | (refine canon_snd (by with_reducible assumption) ?_) | (refine canon_fst (by with_reducible assumption) ?_)
      | with_reducible intro _ | dsimp only | split | (unfold Dev.Canon; dsimp only; with_reducible apply canon4_of))

theorem Dev.widthStarts_canon (d : Dev) (p g : Nat) (s : Show) (acts : List Act) (hd : Dev.Canon d) : Dev.Canon (Dev.widthStarts d p g s acts) := by
  unfold Dev.widthStarts
  try dsimp only
  repeat' (first
      | with_reducible assumption | with_reducible apply Dev.wideRows_canon | with_reducible apply Dev.widthStart_canon
      | (with_reducible apply canon_foldl; intro _ _ _) | (refine canon_snd (by with_reducible assumption) ?_)
      | (refine canon_fst (by with_reducible assumption) ?_) | with_reducible intro _ | dsimp only
      | (unfold Dev.Canon; dsimp only; with_reducible apply canon4_of))

theorem Dev.modeAreas_canon (d : Dev) (g : Nat) (s : Show) (acts : List Act) (hd : Dev.Canon d) : Dev.Canon (Dev.modeAreas d g s acts) := by
  unfold Dev.modeAreas
  try dsimp only
  repeat' (first
      | with_reducible assumption | with_reducible apply Dev.wideRows_canon | with_reducible apply Dev.spWrite_canon
      | (with_reducible apply canon_foldl; intro _ _ _))

theorem Dev.startInstances_canon (d : Dev) (p g beat : Nat) (s : Show) (hd : Dev.Canon d) : Dev.Canon (Dev.startInstances d p g beat s) := by
  unfold Dev.startInstances
  try dsimp only
  repeat' (first
      | with_reducible assumption | with_reducible apply Dev.enterHeld_canon | with_reducible apply Dev.startRace_canon
      | with_reducible apply Dev.startInst_canon | with_reducible apply canon_ite | with_reducible apply canon_ite_snd
      | with_reducible apply canon_ite_fst | (with_reducible apply canon_foldl; intro _ _ _))

theorem Dev.markStart_canon (d : Dev) (g beat : Nat) (ks batch : List Nat) (chunks : List (Nat × Nat)) (hd : Dev.Canon d) : Dev.Canon (Dev.markStart d g beat ks batch chunks) := by
  unfold Dev.markStart
  try dsimp only
  repeat' (first | with_reducible assumption | with_reducible apply Dev.modGroup_canon)

theorem Dev.placeSlice_canon (d : Dev) (g beat : Nat) (x : SlicePlan) (hd : Dev.Canon d) : Dev.Canon (Dev.placeSlice d g beat x) := by
  unfold Dev.placeSlice
  try dsimp only
  repeat' (first
      | with_reducible assumption | with_reducible apply Dev.calPlace_canon | with_reducible apply canon_ite | split
      | (unfold Dev.Canon; dsimp only; with_reducible apply canon4_of))

theorem Dev.startStep_canon (d : Dev) (g beat fmt : Nat) (s : Show) (slices : List SlicePlan) (hd : Dev.Canon d) : Dev.Canon (Dev.startStep d g beat fmt s slices) := by
  unfold Dev.startStep
  try dsimp only
  repeat' (first
      | with_reducible assumption | with_reducible apply Dev.modGroup_canon | with_reducible apply Dev.writeBatchList_canon
      | with_reducible apply Dev.modeAreas_canon | with_reducible apply Dev.widthStarts_canon | with_reducible apply Dev.giveSlots_canon
      | with_reducible apply Dev.placeSlice_canon | with_reducible apply Dev.beginAct_canon | with_reducible apply Dev.markStart_canon
      | with_reducible apply Dev.errAdd_canon | with_reducible apply Dev.startInstances_canon | with_reducible apply canon_ite
      | with_reducible apply canon_ite_snd | with_reducible apply canon_ite_fst | (with_reducible apply canon_foldl; intro _ _ _))

theorem Dev.overrun_canon (d : Dev) (g : Nat) (hd : Dev.Canon d) : Dev.Canon (Dev.overrun d g) := by
  unfold Dev.overrun
  try dsimp only
  repeat' (first | with_reducible assumption | with_reducible apply Dev.stepEvent_canon | with_reducible apply Dev.modGroup_canon)

theorem Dev.abandonGroup_canon (d : Dev) (g : Nat) (hd : Dev.Canon d) : Dev.Canon (Dev.abandonGroup d g) := by
  unfold Dev.abandonGroup
  try dsimp only
  repeat' (first
      | with_reducible assumption | with_reducible apply Dev.abandonLayers_canon | with_reducible apply Dev.abandonAll_canon
      | with_reducible apply canon_ite | with_reducible apply canon_ite_snd | with_reducible apply canon_ite_fst
      | (with_reducible apply canon_foldl; intro _ _ _) | (refine canon_snd (by with_reducible assumption) ?_)
      | (refine canon_fst (by with_reducible assumption) ?_) | with_reducible intro _ | dsimp only | split)

theorem Dev.dropGroup_canon (d : Dev) (g : Nat) (hd : Dev.Canon d) : Dev.Canon (Dev.dropGroup d g) := by
  unfold Dev.dropGroup
  try dsimp only
  repeat' (first
      | with_reducible assumption | with_reducible apply Dev.leaveNotice_canon | with_reducible apply Dev.stepEvent_canon
      | with_reducible apply Dev.modGroup_canon | with_reducible apply Dev.abandonGroup_canon | with_reducible apply Dev.abortActs_canon
      | with_reducible apply Dev.closeReq_canon | with_reducible apply Dev.settlePoison_canon
      | (with_reducible apply canon_foldl; intro _ _ _))

theorem Dev.handOffs_canon (d : Dev) (g : Nat) (hd : Dev.Canon d) : Dev.Canon (Dev.handOffs d g) := by
  unfold Dev.handOffs
  try dsimp only
  repeat' (first
      | with_reducible assumption | with_reducible apply Dev.handOff_canon | with_reducible apply Dev.closeReq_canon
      | with_reducible apply canon_ite | with_reducible apply canon_ite_snd | with_reducible apply canon_ite_fst
      | (with_reducible apply canon_foldl; intro _ _ _))

theorem Dev.peerNotices_canon (d : Dev) (g beat : Nat) (hd : Dev.Canon d) : Dev.Canon (Dev.peerNotices d g beat).1 := by
  unfold Dev.peerNotices
  try dsimp only
  repeat' (first
      | with_reducible assumption | with_reducible apply Dev.stepEvent_canon | with_reducible apply Dev.modGroup_canon
      | (with_reducible apply canon_foldl; intro _ _ _))

theorem Dev.stopGroup_canon (d : Dev) (g : Nat) (hd : Dev.Canon d) : Dev.Canon (Dev.stopGroup d g) := by
  unfold Dev.stopGroup
  try dsimp only
  repeat' (first
      | with_reducible assumption | with_reducible apply Dev.abandonGroup_canon | with_reducible apply Dev.unloadGroup_canon
      | with_reducible apply Dev.abortActs_canon | with_reducible apply Dev.closeAll_canon | with_reducible apply Dev.quiesce_canon
      | with_reducible apply Dev.settlePoison_canon | with_reducible apply Dev.finish_canon | with_reducible apply canon_ite
      | with_reducible apply canon_ite_snd | with_reducible apply canon_ite_fst | (with_reducible apply canon_foldl; intro _ _ _))

theorem Dev.freeBoundary_canon (d : Dev) (g beat : Nat) (x : StepFacts) (hd : Dev.Canon d) : Dev.Canon (Dev.freeBoundary d g beat x) := by
  unfold Dev.freeBoundary
  try dsimp only
  repeat' (first
      | with_reducible assumption | with_reducible apply Dev.handOffs_canon | with_reducible apply Dev.overrun_canon
      | with_reducible apply Dev.quiesce_canon | with_reducible apply Dev.startStep_canon | with_reducible apply Dev.endStep_canon
      | with_reducible apply canon_ite | with_reducible intro _ | split)

theorem Dev.busyBoundary_canon (d : Dev) (g : Nat) (hd : Dev.Canon d) : Dev.Canon (Dev.busyBoundary d g) := by
  unfold Dev.busyBoundary
  try dsimp only
  repeat' (first
      | with_reducible assumption | with_reducible apply Dev.modGroup_canon | with_reducible apply Dev.overrun_canon
      | with_reducible apply Dev.dropGroup_canon | with_reducible apply canon_ite)

theorem Dev.boundary_canon (d : Dev) (g : Nat) (x : StepFacts) (hd : Dev.Canon d) : Dev.Canon (Dev.boundary d g x) := by
  unfold Dev.boundary
  try dsimp only
  repeat' (first
      | with_reducible assumption | with_reducible apply Dev.flrBoundary_canon | with_reducible apply Dev.modGroup_canon
      | with_reducible apply Dev.peerNotices_canon | with_reducible apply Dev.freeBoundary_canon | with_reducible apply Dev.endStep_canon
      | with_reducible apply Dev.dropGroup_canon | with_reducible apply Dev.busyBoundary_canon | with_reducible apply Dev.stopGroup_canon
      | with_reducible apply canon_ite | (refine canon_snd (by with_reducible assumption) ?_)
      | (refine canon_fst (by with_reducible assumption) ?_) | with_reducible intro _ | dsimp only | split
      | (unfold Dev.Canon; dsimp only; with_reducible apply canon4_of))

theorem ttlSweep_canon (d : Dev) (p : Nat) (hd : Dev.Canon d) : Dev.Canon (ttlSweep d p) := by
  unfold ttlSweep
  try dsimp only
  repeat' (first
      | with_reducible assumption | with_reducible apply Dev.srvAdd_canon | with_reducible apply Dev.resweep_canon
      | with_reducible apply Dev.closeReq_canon | with_reducible apply canon_ite | with_reducible apply canon_ite_snd
      | with_reducible apply canon_ite_fst | (with_reducible apply canon_foldl; intro _ _ _))

theorem leaveNoticeReceive_canon (d : Dev) (g peer : Nat) (required : Bool) (hd : Dev.Canon d) : Dev.Canon (leaveNoticeReceive d g peer required) := by
  unfold leaveNoticeReceive
  try dsimp only
  repeat' (first | with_reducible assumption | with_reducible apply Dev.modGroup_canon | with_reducible apply canon_ite)

theorem joinNoticeReceive_canon (d : Dev) (g peer b : Nat) (hd : Dev.Canon d) : Dev.Canon (joinNoticeReceive d g peer b) := by
  unfold joinNoticeReceive
  try dsimp only
  repeat' (first | with_reducible assumption | with_reducible apply Dev.modGroup_canon | with_reducible apply canon_ite)

theorem Dev.releaseEntry_canon (d : Dev) (die : Nat) (e : CalEntry) (hd : Dev.Canon d) : Dev.Canon (Dev.releaseEntry d die e) := by
  unfold Dev.releaseEntry
  try dsimp only
  repeat' (first
      | with_reducible assumption | with_reducible apply Dev.discardCommit_canon | with_reducible apply Dev.modRed_canon
      | with_reducible apply Dev.fireCommit_canon | with_reducible apply Dev.errAdd_canon | with_reducible apply canon_ite
      | with_reducible apply canon_ite_snd | with_reducible apply canon_ite_fst | (with_reducible apply canon_foldl; intro _ _ _)
      | (refine canon_snd (by with_reducible assumption) ?_) | (refine canon_fst (by with_reducible assumption) ?_)
      | with_reducible intro _ | dsimp only | split | (unfold Dev.Canon; dsimp only; with_reducible apply canon4_of))

theorem calHeldEntryRelease_canon (d : Dev) (die : Nat) (hd : Dev.Canon d) : Dev.Canon (calHeldEntryRelease d die) := by
  unfold calHeldEntryRelease
  try dsimp only
  repeat' (first
      | with_reducible assumption | with_reducible apply Dev.releaseEntry_canon | with_reducible apply canon_ite
      | with_reducible apply canon_ite_snd | with_reducible apply canon_ite_fst | (with_reducible apply canon_foldl; intro _ _ _)
      | (refine canon_snd (by with_reducible assumption) ?_) | (refine canon_fst (by with_reducible assumption) ?_)
      | with_reducible intro _ | dsimp only | split | (unfold Dev.Canon; dsimp only; with_reducible apply canon4_of))

theorem svcExpertMapSet_canon (bs : List Byte) (d : Dev) (c : Door) (hd : Dev.Canon d) : Svc.Canon (svcExpertMapSet bs d c) := by
  unfold svcExpertMapSet
  try dsimp only
  repeat' (first
      | with_reducible assumption | with_reducible apply Dev.emit_canon | with_reducible apply expertMapSet_canon
      | with_reducible apply Dev.event_canon | with_reducible apply Dev.notice_canon | with_reducible apply Dev.newHandle_canon
      | with_reducible apply svc_ok | with_reducible apply svc_pure | with_reducible apply svc_error | with_reducible apply svc_bind_dev
      | (with_reducible apply svc_bind; intro _ _) | with_reducible apply chk_ok | with_reducible apply chk_pure
      | with_reducible apply chk_error | (refine canon_snd (by with_reducible assumption) ?_)
      | (refine canon_fst (by with_reducible assumption) ?_) | with_reducible intro _ | dsimp only | split)

theorem Dev.applyMap_canon (d : Dev) (m : Nat × Nat × Nat × Nat × Nat × List Nat) (hd : Dev.Canon d) : Dev.Canon (Dev.applyMap d m) := by
  unfold Dev.applyMap
  try dsimp only
  repeat' (first
      | with_reducible assumption | with_reducible apply Dev.finish_canon | (refine canon_snd (by with_reducible assumption) ?_)
      | (refine canon_fst (by with_reducible assumption) ?_) | with_reducible intro _ | dsimp only
      | (unfold Dev.Canon; dsimp only; with_reducible apply canon4_of))

theorem Dev.mapBoundary_canon (d : Dev) (g b : Nat) (hd : Dev.Canon d) : Dev.Canon (Dev.mapBoundary d g b) := by
  unfold Dev.mapBoundary
  try dsimp only
  repeat' (first | with_reducible assumption | with_reducible apply Dev.applyMap_canon | (with_reducible apply canon_foldl; intro _ _ _))

theorem expertMapEffect_canon (d : Dev) (h : Nat) (hd : Dev.Canon d) : Dev.Canon (expertMapEffect d h) := by
  unfold expertMapEffect
  try dsimp only
  repeat' (first | with_reducible assumption | with_reducible apply Dev.applyMap_canon | (with_reducible apply canon_foldl; intro _ _ _))

theorem svcExpertMapGet_canon (d : Dev) (c : Door) (hd : Dev.Canon d) : Svc.Canon (svcExpertMapGet d c) := by
  unfold svcExpertMapGet
  try dsimp only
  repeat' (first
      | with_reducible assumption | with_reducible apply Dev.emit_canon | with_reducible apply Dev.event_canon
      | with_reducible apply Dev.notice_canon | with_reducible apply svc_ok | with_reducible apply svc_pure
      | with_reducible apply svc_error | with_reducible apply svc_bind_dev | (with_reducible apply svc_bind; intro _ _)
      | with_reducible apply chk_ok | with_reducible apply chk_pure | with_reducible apply chk_error | with_reducible intro _ | split)

theorem expertMapSet_canon (d : Dev) (c : Door) (entries : List Byte) (hd : Dev.Canon d) : Dev.Canon (expertMapSet d c entries) := by
  unfold expertMapSet
  repeat' (first
      | with_reducible assumption | with_reducible apply Dev.serve_canon | with_reducible apply svcExpertMapSet_canon
      | with_reducible intro _)

theorem expertMapGet_canon (d : Dev) (c : Door) (hd : Dev.Canon d) : Dev.Canon (expertMapGet d c) := by
  unfold expertMapGet
  repeat' (first
      | with_reducible assumption | with_reducible apply svcExpertMapGet_canon | with_reducible apply Dev.serve_canon
      | with_reducible intro _)

theorem Dev.mapAndBoundary_canon (d : Dev) (g : Nat) (x : StepFacts) (hd : Dev.Canon d) : Dev.Canon (Dev.mapAndBoundary d g x) := by
  unfold Dev.mapAndBoundary
  repeat' (first
      | with_reducible assumption | with_reducible apply Dev.mapBoundary_canon | with_reducible apply Dev.boundary_canon
      | with_reducible intro _ | split)

theorem stepStart_canon (d : Dev) (g : Nat) (x : StepFacts) (hd : Dev.Canon d) : Dev.Canon (stepStart d g x) := by
  unfold stepStart
  try dsimp only
  repeat' (first
      | with_reducible assumption | with_reducible apply Dev.mapAndBoundary_canon | with_reducible apply Dev.commitsDue_canon
      | (with_reducible apply canon_foldl; intro _ _ _))

end Sys2Proof.Machine
end

