-- ==== Sys2Proof/Laws/CanonicalPackage.lean ====
section
/-! SUPPORT. Canonical memories are kept by handles, stack diagnostics, the Tally, the Ledger, start-up, self-test, management and the test port. -/

namespace Sys2Proof.Machine

open Sys2Proof

theorem Dev.clearPen_canon (d : Dev) (p : Nat) (hd : Dev.Canon d) : Dev.Canon (Dev.clearPen d p) := by
  unfold Dev.clearPen
  try dsimp only
  repeat' (first
      | with_reducible assumption
      | (unfold Dev.Canon; dsimp only; refine canon4_abuf (canon4_spad (canon4_mem (canon4_of ?_) (Mem.wf_zero _ _ _)) (fun h => Mem.wf_zero _ _ _ (Mem.wf_zero _ _ _ h))) (fun h => Mem.wf_zero _ _ _ (Mem.wf_zero _ _ _ h))))

theorem penClearDone_canon (d : Dev) (p : Nat) (hd : Dev.Canon d) : Dev.Canon (penClearDone d p) := by
  unfold penClearDone
  try dsimp only
  repeat' (first
      | with_reducible assumption | with_reducible apply pastureDestroy_canon | with_reducible apply Dev.setWork_canon
      | with_reducible apply Dev.ready_canon | with_reducible apply Dev.clearPen_canon | with_reducible apply Dev.remap_canon
      | with_reducible apply Dev.finish_canon | with_reducible apply pastureCreate_canon | with_reducible apply Dev.modPasture_canon
      | with_reducible apply canon_ite | with_reducible intro _ | split | (unfold Dev.Canon; dsimp only; with_reducible apply canon4_of))

theorem Dev.destroyTxns_canon (d : Dev) (p : Nat) (hd : Dev.Canon d) : Dev.Canon (Dev.destroyTxns d p) := by
  unfold Dev.destroyTxns
  try dsimp only
  repeat' (first | with_reducible assumption | with_reducible apply Dev.rollBack_canon | (with_reducible apply canon_foldl; intro _ _ _))

theorem Dev.destroyHandles_canon (d : Dev) (p f h : Nat) (hd : Dev.Canon d) : Dev.Canon (Dev.destroyHandles d p f h) := by
  unfold Dev.destroyHandles
  try dsimp only
  repeat' (first
      | with_reducible assumption | with_reducible apply Dev.finishIn_canon | with_reducible apply Dev.closeReq_canon
      | (with_reducible apply canon_foldl; intro _ _ _) | (refine canon_snd (by with_reducible assumption) ?_)
      | (refine canon_fst (by with_reducible assumption) ?_) | with_reducible intro _ | dsimp only
      | (unfold Dev.Canon; dsimp only; with_reducible apply canon4_of))

theorem Dev.destroyContents_canon (d : Dev) (p : Nat) (hd : Dev.Canon d) : Dev.Canon (Dev.destroyContents d p) := by
  unfold Dev.destroyContents
  try dsimp only
  repeat' (first
      | with_reducible assumption | with_reducible apply Dev.clearShow_canon | with_reducible apply Dev.abortActs_canon
      | with_reducible apply Dev.modPasture_canon | with_reducible intro _ | (unfold Dev.Canon; dsimp only; with_reducible apply canon4_of))

theorem svcPastureDestroy_canon (d : Dev) (c : Door) (hd : Dev.Canon d) : Svc.Canon (svcPastureDestroy d c) := by
  unfold svcPastureDestroy
  try dsimp only
  repeat' (first
      | with_reducible assumption | with_reducible apply pastureDestroy_canon | with_reducible apply Dev.destroyHandles_canon
      | with_reducible apply Dev.newHandle_canon | with_reducible apply Dev.remap_canon | with_reducible apply Dev.destroyTxns_canon
      | with_reducible apply Dev.destroyContents_canon | with_reducible apply svc_ok | with_reducible apply svc_pure
      | with_reducible apply svc_error | with_reducible apply svc_bind_dev | (with_reducible apply svc_bind; intro _ _)
      | with_reducible apply chk_ok | with_reducible apply chk_pure | with_reducible apply chk_error
      | (refine canon_snd (by with_reducible assumption) ?_) | (refine canon_fst (by with_reducible assumption) ?_)
      | with_reducible intro _ | dsimp only | split)

theorem pastureDestroy_canon (d : Dev) (c : Door) (hd : Dev.Canon d) : Dev.Canon (pastureDestroy d c) := by
  unfold pastureDestroy
  repeat' (first
      | with_reducible assumption | with_reducible apply Dev.serve_canon | with_reducible apply svcPastureDestroy_canon
      | with_reducible intro _)

theorem Dev.imageRead_canon (d : Dev) (h p n : Nat) (i : Image) (bs : List Byte) (hd : Dev.Canon d) : Dev.Canon (Dev.imageRead d h p n i bs) := by
  unfold Dev.imageRead
  try dsimp only
  repeat' (first
      | with_reducible assumption | with_reducible apply Dev.modImage_canon | with_reducible apply Dev.setWork_canon
      | with_reducible apply Dev.ready_canon | with_reducible apply imageLoad_canon | with_reducible apply Dev.agentWrite_canon
      | with_reducible apply Dev.finish_canon | with_reducible apply canon_ite)

theorem Dev.reseedBlocks_canon (d : Dev) (h p n b : Nat) (n0 : List (List Byte)) (hd : Dev.Canon d) : Dev.Canon (Dev.reseedBlocks d h p n b n0) := by
  induction n0 generalizing d h p n b with
  | nil =>
    unfold Dev.reseedBlocks
    repeat' (first | with_reducible assumption | with_reducible apply Dev.writeBlock_canon | with_reducible apply Dev.finish_canon)
  | cons _ _ ih =>
    unfold Dev.reseedBlocks
    repeat' (first
        | with_reducible assumption | with_reducible apply ih | with_reducible apply Dev.writeBlock_canon
        | with_reducible apply Dev.finish_canon | with_reducible apply Dev.errAdd_canon | with_reducible apply canon_ite | split)

theorem Dev.tokensRead_canon (d : Dev) (h q : Nat) (bs : List Byte) (hd : Dev.Canon d) : Dev.Canon (Dev.tokensRead d h q bs) := by
  unfold Dev.tokensRead
  try dsimp only
  repeat' (first | with_reducible assumption | with_reducible apply Dev.modReq_canon)

theorem Dev.readDone_canon (d : Dev) (h : Nat) (w : Work) (bs : List Byte) (hd : Dev.Canon d) : Dev.Canon (Dev.readDone d h w bs) := by
  unfold Dev.readDone
  try dsimp only
  repeat' (first
      | with_reducible assumption | with_reducible apply Dev.setWork_canon | with_reducible apply routeSet_canon
      | with_reducible apply Dev.routeApply_canon | with_reducible apply prefixBuild_canon | with_reducible apply imageLoad_canon
      | with_reducible apply reqAppend_canon | with_reducible apply Dev.imageRead_canon | with_reducible apply showLoad_canon
      | with_reducible apply Dev.tokensRead_canon | with_reducible apply imageReseed_canon | with_reducible apply Dev.finish_canon
      | with_reducible apply Dev.reseedBlocks_canon | with_reducible apply prefixTrain_canon | with_reducible apply adapterTrain_canon
      | with_reducible apply Dev.modPasture_canon | split)

theorem Dev.appendLost_canon (d : Dev) (h q : Nat) (hd : Dev.Canon d) : Dev.Canon (Dev.appendLost d h q) := by
  unfold Dev.appendLost
  try dsimp only
  repeat' (first
      | with_reducible assumption | with_reducible apply Dev.modReq_canon | with_reducible apply Dev.nextState_canon
      | with_reducible apply canon_ite | split)

theorem Dev.readLost_canon (d : Dev) (h : Nat) (w : Work) (hd : Dev.Canon d) : Dev.Canon (Dev.readLost d h w) := by
  unfold Dev.readLost
  try dsimp only
  repeat' (first
      | with_reducible assumption | with_reducible apply prefixBuild_canon | with_reducible apply imageLoad_canon
      | with_reducible apply reqAppend_canon | with_reducible apply Dev.closeReq_canon | with_reducible apply showLoad_canon
      | with_reducible apply Dev.appendLost_canon | with_reducible apply Dev.modPasture_canon | split)

theorem hostReadComplete_canon (d : Dev) (h : Nat) (ok : Bool) (data : List Byte) (hd : Dev.Canon d) : Dev.Canon (hostReadComplete d h ok data) := by
  unfold hostReadComplete
  repeat' (first
      | with_reducible assumption | with_reducible apply Dev.hostError_canon | with_reducible apply Dev.readDone_canon
      | with_reducible apply Dev.readLost_canon | with_reducible apply canon_ite | split)

theorem Dev.refreshOwed_canon (d : Dev) (s q : Nat) (busy : Bool) (hd : Dev.Canon d) : Dev.Canon (Dev.refreshOwed d s q busy) := by
  unfold Dev.refreshOwed
  try dsimp only
  repeat' (first
      | with_reducible assumption | with_reducible apply Dev.modPc_canon | with_reducible apply Dev.stackPerf_canon
      | with_reducible apply canon_ite)

theorem refreshDue_canon (d : Dev) (s q idle : Nat) (busy : Bool) (hd : Dev.Canon d) : Dev.Canon (refreshDue d s q idle busy) := by
  unfold refreshDue
  try dsimp only
  repeat' (first
      | with_reducible assumption | with_reducible apply Dev.refreshOwed_canon | with_reducible apply Dev.modPc_canon
      | with_reducible apply canon_ite)

theorem scrub_canon (d : Dev) (pen cw pattern : Nat) (hd : Dev.Canon d) : Dev.Canon (scrub d pen cw pattern) := by
  unfold scrub
  try dsimp only
  repeat' (first
      | with_reducible assumption | with_reducible apply Dev.penWrite_canon | with_reducible apply Dev.decodeWords_canon
      | with_reducible apply canon_ite | with_reducible apply canon_ite_snd | with_reducible apply canon_ite_fst
      | (with_reducible apply canon_foldl; intro _ _ _))

theorem odeccRead_canon (d : Dev) (s n : Nat) (hd : Dev.Canon d) : Dev.Canon (odeccRead d s n) := by
  unfold odeccRead
  repeat' (first | with_reducible assumption | with_reducible apply Dev.stackErr_canon | with_reducible apply canon_ite)

theorem stackTemperatureChange_canon (d : Dev) (s : Nat) (t : Int) (hd : Dev.Canon d) : Dev.Canon (stackTemperatureChange d s t) := by
  unfold stackTemperatureChange
  try dsimp only
  repeat' (first
      | with_reducible assumption | with_reducible apply Dev.notice_canon | with_reducible apply Dev.modStack_canon
      | with_reducible apply canon_ite)

theorem Dev.mapSpare_canon (d : Dev) (s q : Nat) (hd : Dev.Canon d) : Dev.Canon (Dev.mapSpare d s q) := by
  unfold Dev.mapSpare
  try dsimp only
  repeat' (first
      | with_reducible assumption | with_reducible apply Dev.softRepair_canon | with_reducible apply Dev.stackErr_canon
      | with_reducible apply Dev.modStack_canon | with_reducible apply Dev.modPc_canon)

theorem pseudoChannelCopy_canon (d : Dev) (s q : Nat) (errs : List (Nat × Nat)) (hd : Dev.Canon d) : Dev.Canon (pseudoChannelCopy d s q errs) := by
  unfold pseudoChannelCopy
  try dsimp only
  repeat' (first
      | with_reducible assumption | with_reducible apply Dev.decodeWords_canon | with_reducible apply Dev.endRecovery_canon
      | with_reducible apply Dev.mapSpare_canon | with_reducible apply canon_ite | (refine canon_snd (by with_reducible assumption) ?_)
      | (refine canon_fst (by with_reducible assumption) ?_) | with_reducible intro _ | dsimp only | split)

theorem Dev.zeroChannel_canon (d : Dev) (pen q : Nat) (hd : Dev.Canon d) : Dev.Canon (Dev.zeroChannel d pen q) := by
  unfold Dev.zeroChannel
  try dsimp only
  repeat' (first
      | with_reducible assumption | (unfold Dev.Canon; dsimp only; refine canon4_mem (canon4_of ?_) (Mem.wf_filter _ _))
      | with_reducible apply Dev.modStack_canon)

theorem svcDiagMargin_canon (d : Dev) (c : Door) (hd : Dev.Canon d) : Svc.Canon (svcDiagMargin d c) := by
  unfold svcDiagMargin
  try dsimp only
  repeat' (first
      | with_reducible assumption | with_reducible apply diagMargin_canon | with_reducible apply Dev.newHandle_canon
      | with_reducible apply svc_ok | with_reducible apply svc_pure | with_reducible apply svc_error | with_reducible apply svc_bind_dev
      | (with_reducible apply svc_bind; intro _ _))

theorem diagMargin_canon (d : Dev) (c : Door) (hd : Dev.Canon d) : Dev.Canon (diagMargin d c) := by
  unfold diagMargin
  repeat' (first
      | with_reducible assumption | with_reducible apply svcDiagMargin_canon | with_reducible apply Dev.serve_canon
      | with_reducible intro _)

theorem Dev.noSpareLeft_canon (d : Dev) (pen info : Nat) (hd : Dev.Canon d) : Dev.Canon (Dev.noSpareLeft d pen info) := by
  unfold Dev.noSpareLeft
  repeat' (first | with_reducible assumption | with_reducible apply Dev.penOffline_canon | with_reducible apply Dev.record_canon)

theorem Dev.startupMargin_canon (d : Dev) (pen idx : Nat) (m : Margins) (hd : Dev.Canon d) : Dev.Canon (Dev.startupMargin d pen idx m) := by
  unfold Dev.startupMargin
  try dsimp only
  repeat' (first
      | with_reducible assumption | with_reducible apply Dev.noSpareLeft_canon | with_reducible apply Dev.record_canon
      | with_reducible apply Dev.mapSpare_canon | with_reducible apply Dev.modStack_canon | with_reducible apply canon_ite
      | with_reducible intro _ | split | (unfold Dev.Canon; dsimp only; with_reducible apply canon4_of))

theorem marginingDone_canon (d : Dev) (pen idx : Nat) (m : Margins) (hostOk : Bool) (hd : Dev.Canon d) : Dev.Canon (marginingDone d pen idx m hostOk) := by
  unfold marginingDone
  try dsimp only
  repeat' (first
      | with_reducible assumption | with_reducible apply Dev.hostPut_canon | with_reducible apply diagMargin_canon
      | with_reducible apply Dev.zeroChannel_canon | with_reducible apply Dev.startupMargin_canon | with_reducible apply Dev.finish_canon
      | with_reducible apply canon_ite | split)

theorem Dev.modTally_canon (d : Dev) (f : Tally → Tally) (hd : Dev.Canon d) : Dev.Canon (Dev.modTally d f) := by
  unfold Dev.modTally
  repeat' (first | with_reducible assumption | (unfold Dev.Canon; dsimp only; with_reducible apply canon4_of))

theorem Dev.tallyNotice_canon (d : Dev) (code domain : Nat) (hd : Dev.Canon d) : Dev.Canon (Dev.tallyNotice d code domain) := by
  unfold Dev.tallyNotice
  repeat' (first | with_reducible assumption | with_reducible apply Dev.notice_canon | with_reducible apply canon_ite)

theorem energySample_canon (d : Dev) (x : Sample) (hd : Dev.Canon d) : Dev.Canon (energySample d x) := by
  unfold energySample
  try dsimp only
  repeat' (first
      | with_reducible assumption | with_reducible apply Dev.tallyNotice_canon | with_reducible apply canon_ite
      | with_reducible apply canon_ite_snd | with_reducible apply canon_ite_fst | (with_reducible apply canon_foldl; intro _ _ _)
      | (refine canon_snd (by with_reducible assumption) ?_) | (refine canon_fst (by with_reducible assumption) ?_)
      | with_reducible intro _ | dsimp only | split | (unfold Dev.Canon; dsimp only; with_reducible apply canon4_of))

theorem Dev.windowEnd_canon (d : Dev) (hd : Dev.Canon d) : Dev.Canon (Dev.windowEnd d) := by
  unfold Dev.windowEnd
  try dsimp only
  repeat' (first
      | with_reducible assumption | with_reducible apply Dev.event_canon | with_reducible apply Dev.tallyNotice_canon
      | with_reducible apply canon_ite | split | (unfold Dev.Canon; dsimp only; with_reducible apply canon4_of))

theorem balanceWindowEnd_canon (d : Dev) (hd : Dev.Canon d) : Dev.Canon (balanceWindowEnd d) := by
  unfold balanceWindowEnd
  repeat' (first | with_reducible assumption | with_reducible apply Dev.windowEnd_canon)

theorem intervalEnd_canon (d : Dev) (hd : Dev.Canon d) : Dev.Canon (intervalEnd d) := by
  unfold intervalEnd
  try dsimp only
  repeat' (first
      | with_reducible assumption | with_reducible apply Dev.windowEnd_canon | with_reducible apply Dev.modTally_canon
      | with_reducible apply canon_ite)

theorem nvSave_canon (d : Dev) (hd : Dev.Canon d) : Dev.Canon (nvSave d) := by
  unfold nvSave
  repeat' (first | with_reducible assumption | with_reducible apply Dev.modTally_canon | with_reducible apply canon_ite)

theorem Dev.sendMirror_canon (d : Dev) (st : Nat) (pw : Nat → Nat) (hd : Dev.Canon d) : Dev.Canon (Dev.sendMirror d st pw) := by
  unfold Dev.sendMirror
  try dsimp only
  repeat' (first
      | with_reducible assumption | with_reducible apply Dev.event_canon | with_reducible apply Dev.modTally_canon
      | with_reducible apply canon_ite | with_reducible apply canon_ite_snd | with_reducible apply canon_ite_fst
      | (with_reducible apply canon_foldl; intro _ _ _) | (refine canon_snd (by with_reducible assumption) ?_)
      | (refine canon_fst (by with_reducible assumption) ?_) | with_reducible intro _ | dsimp only | split
      | (unfold Dev.Canon; dsimp only; with_reducible apply canon4_of))

theorem Dev.liveMeans_canon (d : Dev) (hd : Dev.Canon d) : Dev.Canon (Dev.liveMeans d).2 := by
  unfold Dev.liveMeans
  try dsimp only
  repeat' (first
      | with_reducible assumption | with_reducible apply Dev.draw_canon | with_reducible apply canon_ite
      | with_reducible apply canon_ite_snd)

theorem mirrorUpdate_canon (d : Dev) (hd : Dev.Canon d) : Dev.Canon (mirrorUpdate d) := by
  unfold mirrorUpdate
  try dsimp only
  repeat' (first
      | with_reducible assumption | with_reducible apply Dev.liveMeans_canon | with_reducible apply Dev.sendMirror_canon
      | with_reducible apply canon_ite)

theorem mirrorStale_canon (d : Dev) (hd : Dev.Canon d) : Dev.Canon (mirrorStale d) := by
  unfold mirrorStale
  repeat' (first
      | with_reducible assumption | with_reducible apply Dev.tallyNotice_canon | with_reducible apply canon_ite | split
      | (unfold Dev.Canon; dsimp only; with_reducible apply canon4_of))

theorem mirrorSet_canon (d : Dev) (ms : Nat) (hd : Dev.Canon d) : Dev.Canon (mirrorSet d ms) := by
  unfold mirrorSet
  try dsimp only
  repeat' (first | with_reducible assumption | with_reducible apply Dev.modTally_canon | with_reducible apply canon_ite)

theorem auxCounts_canon (d : Dev) (shares : List Nat) (hd : Dev.Canon d) : Dev.Canon (auxCounts d shares) := by
  unfold auxCounts
  try dsimp only
  repeat' (first
      | with_reducible assumption | with_reducible apply Dev.modTally_canon | with_reducible apply canon_ite | with_reducible intro _
      | split | (unfold Dev.Canon; dsimp only; with_reducible apply canon4_of))

theorem auxCountsTimeout_canon (d : Dev) (hd : Dev.Canon d) : Dev.Canon (auxCountsTimeout d) := by
  unfold auxCountsTimeout
  try dsimp only
  repeat' (first | with_reducible assumption | with_reducible apply Dev.modTally_canon | with_reducible apply canon_ite)

theorem tallyAuxLowSave_canon (d : Dev) (hd : Dev.Canon d) : Dev.Canon (tallyAuxLowSave d) := by
  unfold tallyAuxLowSave
  try dsimp only
  repeat' (first | with_reducible assumption | with_reducible apply Dev.modTally_canon | with_reducible apply canon_ite)

theorem Dev.tallyFail_canon (d : Dev) (code : Nat) (writable : Bool) (hd : Dev.Canon d) : Dev.Canon (Dev.tallyFail d code writable) := by
  unfold Dev.tallyFail
  try dsimp only
  repeat' (first
      | with_reducible assumption | with_reducible apply Dev.liveMeans_canon | with_reducible apply Dev.event_canon
      | with_reducible apply Dev.sendMirror_canon | with_reducible apply Dev.tallyNotice_canon | with_reducible apply Dev.modTally_canon)

theorem auxReturn_canon (d : Dev) (latch romOk : Bool) (hd : Dev.Canon d) : Dev.Canon (auxReturn d latch romOk) := by
  unfold auxReturn
  try dsimp only
  repeat' (first
      | with_reducible assumption | with_reducible apply Dev.gap_canon | with_reducible apply Dev.tallyFail_canon
      | with_reducible apply Dev.event_canon | with_reducible apply Dev.modTally_canon | with_reducible apply canon_ite
      | with_reducible apply canon_ite_snd | with_reducible apply canon_ite_fst | (refine canon_snd (by with_reducible assumption) ?_)
      | (refine canon_fst (by with_reducible assumption) ?_) | with_reducible intro _ | dsimp only | split
      | (unfold Dev.Canon; dsimp only; with_reducible apply canon4_of))

theorem sealChange_canon (d : Dev) (isOpen : Bool) (hd : Dev.Canon d) : Dev.Canon (sealChange d isOpen) := by
  unfold sealChange
  try dsimp only
  repeat' (first
      | with_reducible assumption | with_reducible apply Dev.modTally_canon | with_reducible apply Dev.event_canon
      | with_reducible apply canon_ite)

theorem tallySupplyDip_canon (d : Dev) (minMv durUs : Nat) (hd : Dev.Canon d) : Dev.Canon (tallySupplyDip d minMv durUs) := by
  unfold tallySupplyDip
  try dsimp only
  repeat' (first
      | with_reducible assumption | with_reducible apply Dev.modTally_canon | with_reducible apply Dev.event_canon
      | with_reducible apply canon_ite)

theorem mainLow_canon (d : Dev) (us : Nat) (hd : Dev.Canon d) : Dev.Canon (mainLow d us) := by
  unfold mainLow
  try dsimp only
  repeat' (first
      | with_reducible assumption | with_reducible apply Dev.modTally_canon | with_reducible apply Dev.event_canon
      | with_reducible apply canon_ite)

theorem tallySelfCheck_canon (d : Dev) (code : Nat) (writable : Bool) (hd : Dev.Canon d) : Dev.Canon (tallySelfCheck d code writable) := by
  unfold tallySelfCheck
  try dsimp only
  repeat' (first
      | with_reducible assumption | with_reducible apply Dev.tallyFail_canon | with_reducible apply Dev.modTally_canon
      | with_reducible apply canon_ite)

theorem pulseEmit_canon (d : Dev) (o : Nat) (hd : Dev.Canon d) : Dev.Canon (pulseEmit d o) := by
  unfold pulseEmit
  try dsimp only
  repeat' (first
      | with_reducible assumption | with_reducible apply Dev.emit_canon | with_reducible apply Dev.modTally_canon
      | with_reducible apply canon_ite | split)

theorem Dev.metrology_canon (d : Dev) (always busy : Bool) (f : Dev → Dev) (hd : Dev.Canon d) (hf : ∀ x0, Dev.Canon x0 → Dev.Canon (f x0)) : Dev.Canon (Dev.metrology d always busy f) := by
  unfold Dev.metrology
  repeat' (first
      | with_reducible assumption | with_reducible apply hf | with_reducible apply Dev.emit_canon | with_reducible apply canon_ite)

theorem readId_canon (d : Dev) (busy : Bool) (hd : Dev.Canon d) : Dev.Canon (readId d busy) := by
  unfold readId
  try dsimp only
  repeat' (first
      | with_reducible assumption | with_reducible apply Dev.metrology_canon | with_reducible apply Dev.emit_canon | with_reducible intro _)

theorem readLive_canon (d : Dev) (n : Nat) (busy : Bool) (hd : Dev.Canon d) : Dev.Canon (readLive d n busy) := by
  unfold readLive
  try dsimp only
  repeat' (first
      | with_reducible assumption | with_reducible apply Dev.metrology_canon | with_reducible apply Dev.emit_canon
      | with_reducible apply canon_ite | with_reducible intro _)

theorem readInterval_canon (d : Dev) (n seq : Nat) (busy : Bool) (hd : Dev.Canon d) : Dev.Canon (readInterval d n seq busy) := by
  unfold readInterval
  try dsimp only
  repeat' (first
      | with_reducible assumption | with_reducible apply Dev.metrology_canon | with_reducible apply Dev.emit_canon
      | with_reducible apply canon_ite | with_reducible intro _)

theorem readAudit_canon (d : Dev) (event : Nat) (busy : Bool) (hd : Dev.Canon d) : Dev.Canon (readAudit d event busy) := by
  unfold readAudit
  try dsimp only
  repeat' (first
      | with_reducible assumption | with_reducible apply Dev.metrology_canon | with_reducible apply Dev.event_canon
      | with_reducible apply Dev.emit_canon | with_reducible intro _)

theorem readEvent_canon (d : Dev) (index : Nat) (busy : Bool) (hd : Dev.Canon d) : Dev.Canon (readEvent d index busy) := by
  unfold readEvent
  try dsimp only
  repeat' (first
      | with_reducible assumption | with_reducible apply Dev.emit_canon | with_reducible apply Dev.metrology_canon | with_reducible intro _)

theorem readCert_canon (d : Dev) (off len : Nat) (busy : Bool) (hd : Dev.Canon d) : Dev.Canon (readCert d off len busy) := by
  unfold readCert
  try dsimp only
  repeat' (first
      | with_reducible assumption | with_reducible apply Dev.metrology_canon | with_reducible apply Dev.emit_canon
      | with_reducible apply canon_ite | with_reducible intro _)

theorem setParam_canon (d : Dev) (param value : Nat) (data : List Byte) (busy : Bool) (hd : Dev.Canon d) : Dev.Canon (setParam d param value data busy) := by
  unfold setParam
  try dsimp only
  repeat' (first
      | with_reducible assumption | with_reducible apply Dev.metrology_canon | with_reducible apply Dev.emit_canon | with_reducible intro _
      | (unfold Dev.Canon; dsimp only; with_reducible apply canon4_of))

theorem setTime_canon (d : Dev) (time : Nat) (busy : Bool) (hd : Dev.Canon d) : Dev.Canon (setTime d time busy) := by
  unfold setTime
  try dsimp only
  repeat' (first
      | with_reducible assumption | with_reducible apply Dev.metrology_canon | with_reducible apply Dev.emit_canon | with_reducible intro _
      | (unfold Dev.Canon; dsimp only; with_reducible apply canon4_of))

theorem ledgerPost_canon (d : Dev) (f : Nat) (ok : Bool) (hd : Dev.Canon d) : Dev.Canon (ledgerPost d f ok) := by
  unfold ledgerPost
  try dsimp only
  repeat' (first
      | with_reducible assumption | with_reducible apply Dev.emit_canon | with_reducible apply Dev.event_canon
      | with_reducible apply Dev.notice_canon | with_reducible apply Dev.modFunc_canon | with_reducible apply canon_ite | split
      | (unfold Dev.Canon; dsimp only; with_reducible apply canon4_of))

theorem Dev.modPerf_canon (d : Dev) (die core g : Nat) (p : Perf → Perf) (hd : Dev.Canon d) : Dev.Canon (Dev.modPerf d die core g p) := by
  unfold Dev.modPerf
  repeat' (first | with_reducible assumption | (unfold Dev.Canon; dsimp only; with_reducible apply canon4_of))

theorem Dev.snapGroup_canon (d : Dev) (f : Nat) (a : GroupAddr) (p : Perf → Perf) (hd : Dev.Canon d) : Dev.Canon (Dev.snapGroup d f a p) := by
  unfold Dev.snapGroup
  repeat' (first | with_reducible assumption | with_reducible apply Dev.modFunc_canon | with_reducible apply Dev.modPerf_canon | split)

theorem snap_canon (d : Dev) (f : Nat) (a : GroupAddr) (hd : Dev.Canon d) : Dev.Canon (snap d f a) := by
  unfold snap
  repeat' (first | with_reducible assumption | with_reducible apply Dev.snapGroup_canon | with_reducible apply canon_ite)

theorem snapclr_canon (d : Dev) (f : Nat) (a : GroupAddr) (wraps : Nat) (hd : Dev.Canon d) : Dev.Canon (snapclr d f a wraps) := by
  unfold snapclr
  repeat' (first | with_reducible assumption | with_reducible apply Dev.snapGroup_canon | with_reducible apply canon_ite)

theorem Dev.unmask_canon (d : Dev) (f v : Nat) (hd : Dev.Canon d) : Dev.Canon (Dev.unmask d f v) := by
  unfold Dev.unmask
  try dsimp only
  repeat' (first
      | with_reducible assumption | with_reducible apply Dev.emit_canon | with_reducible apply send_canon
      | with_reducible apply Dev.modFunc_canon | with_reducible apply canon_ite | split)

theorem msixUnmask_canon (d : Dev) (f v : Nat) (on : Bool) (hd : Dev.Canon d) : Dev.Canon (msixUnmask d f v on) := by
  unfold msixUnmask
  try dsimp only
  repeat' (first
      | with_reducible assumption | with_reducible apply Dev.unmask_canon | with_reducible apply Dev.modFunc_canon
      | with_reducible apply canon_ite)

theorem Dev.writeVector_canon (d : Dev) (f e : Nat) (hi : Bool) (v mask : Nat) (hd : Dev.Canon d) : Dev.Canon (Dev.writeVector d f e hi v mask) := by
  unfold Dev.writeVector
  try dsimp only
  repeat' (first
      | with_reducible assumption | with_reducible apply Dev.unmask_canon | with_reducible apply Dev.modFunc_canon
      | with_reducible apply canon_ite)

theorem Dev.writeSnapCtl_canon (d : Dev) (f : Nat) (a : GroupAddr) (v : Nat) (hd : Dev.Canon d) : Dev.Canon (Dev.writeSnapCtl d f a v) := by
  unfold Dev.writeSnapCtl
  try dsimp only
  repeat' (first | with_reducible assumption | with_reducible apply Dev.snapGroup_canon | with_reducible apply canon_ite)

theorem Dev.writeDie_canon (d : Dev) (f die off v mask : Nat) (hd : Dev.Canon d) : Dev.Canon (Dev.writeDie d f die off v mask) := by
  unfold Dev.writeDie
  try dsimp only
  repeat' (first | with_reducible assumption | with_reducible apply Dev.writeSnapCtl_canon | with_reducible apply canon_ite)

theorem Dev.writeTlCtl_canon (d : Dev) (v : Nat) (hd : Dev.Canon d) : Dev.Canon (Dev.writeTlCtl d v) := by
  unfold Dev.writeTlCtl
  repeat' (first
      | with_reducible assumption | with_reducible apply mirrorSet_canon | (unfold Dev.Canon; dsimp only; with_reducible apply canon4_of))

theorem Dev.writeReg_canon (d : Dev) (f base v mask same : Nat) (hd : Dev.Canon d) : Dev.Canon (Dev.writeReg d f base v mask same) := by
  unfold Dev.writeReg
  try dsimp only
  repeat' (first
      | with_reducible assumption | (unfold Dev.Canon; dsimp only; refine canon4_window (canon4_of ?_) (Mem.wf_writeLE _ _ _ _))
      | with_reducible apply Dev.writeVector_canon | with_reducible apply Dev.writeTlCtl_canon | with_reducible apply Dev.writeDie_canon
      | with_reducible apply Dev.modFunc_canon | with_reducible apply canon_ite)

theorem Dev.writeSlot_canon (d : Dev) (w : RegWrite) (hd : Dev.Canon d) : Dev.Canon (Dev.writeSlot d w) := by
  unfold Dev.writeSlot
  try dsimp only
  repeat' (first
      | with_reducible assumption | with_reducible apply Dev.modMailbox_canon | with_reducible apply canon_ite
      | with_reducible apply canon_ite_snd | with_reducible apply canon_ite_fst | (with_reducible apply canon_foldl; intro _ _ _))

theorem registerWrite_canon (d : Dev) (w : RegWrite) (hd : Dev.Canon d) : Dev.Canon (registerWrite d w) := by
  unfold registerWrite
  try dsimp only
  repeat' (first
      | with_reducible assumption | with_reducible apply Dev.writeReg_canon | with_reducible apply Dev.writeSlot_canon
      | with_reducible apply Dev.ring_canon | with_reducible apply canon_ite | with_reducible apply canon_ite_snd
      | with_reducible apply canon_ite_fst | (with_reducible apply canon_foldl; intro _ _ _))

theorem ledgerHeadWrite_canon (d : Dev) (f v : Nat) (hd : Dev.Canon d) : Dev.Canon (ledgerHeadWrite d f v) := by
  unfold ledgerHeadWrite
  try dsimp only
  repeat' (first | with_reducible assumption | with_reducible apply Dev.modFunc_canon | with_reducible apply canon_ite)

theorem ledgerEnableWrite_canon (d : Dev) (f v : Nat) (hd : Dev.Canon d) : Dev.Canon (ledgerEnableWrite d f v) := by
  unfold ledgerEnableWrite
  try dsimp only
  repeat' (first | with_reducible assumption | with_reducible apply Dev.modFunc_canon | with_reducible apply canon_ite)

theorem rmEventClear_canon (d : Dev) (f clear same : Nat) (hd : Dev.Canon d) : Dev.Canon (rmEventClear d f clear same) := by
  unfold rmEventClear
  try dsimp only
  repeat' (first | with_reducible assumption | with_reducible apply Dev.modFunc_canon | with_reducible apply canon_ite)

theorem tlMCtlWrite_canon (d : Dev) (f v : Nat) (hd : Dev.Canon d) : Dev.Canon (tlMCtlWrite d f v) := by
  unfold tlMCtlWrite
  repeat' (first | with_reducible assumption | with_reducible apply Dev.writeTlCtl_canon | with_reducible apply canon_ite)

theorem beatNowRead_canon (d : Dev) (f tick : Nat) (hd : Dev.Canon d) : Dev.Canon (beatNowRead d f tick) := by
  unfold beatNowRead
  try dsimp only
  repeat' (first | with_reducible assumption | with_reducible apply Dev.modFunc_canon | with_reducible apply canon_ite)

theorem Dev.keepRecord_canon (d : Dev) (r : Nat) (hd : Dev.Canon d) : Dev.Canon (Dev.keepRecord d r) := by
  unfold Dev.keepRecord
  try dsimp only
  repeat' (first
      | with_reducible assumption | with_reducible apply canon_ite | split | (unfold Dev.Canon; dsimp only; with_reducible apply canon4_of))

theorem Dev.result_canon (d : Dev) (f : ItemFail) (phase result repair : Nat) (hd : Dev.Canon d) : Dev.Canon (Dev.result d f phase result repair) := by
  unfold Dev.result
  repeat' (first | with_reducible assumption | with_reducible apply Dev.keepRecord_canon)

theorem Dev.spareWord_canon (d : Dev) (k b : Nat) (hd : Dev.Canon d) : Dev.Canon (Dev.spareWord d k b).2 := by
  unfold Dev.spareWord
  try dsimp only
  repeat' (first
      | with_reducible assumption | with_reducible apply Dev.errAdd_canon | with_reducible apply Dev.softRepair_canon
      | with_reducible apply canon_ite | with_reducible apply canon_ite_snd | dsimp only | split
      | (unfold Dev.Canon; dsimp only; with_reducible apply canon4_of))

theorem Dev.offWay_canon (d : Dev) (die index : Nat) (hd : Dev.Canon d) : Dev.Canon (Dev.offWay d die index).2 := by
  unfold Dev.offWay
  try dsimp only
  repeat' (first
      | with_reducible assumption | with_reducible apply Dev.softRepair_canon | with_reducible apply Dev.modStack_canon
      | with_reducible apply Dev.errAdd_canon | with_reducible apply canon_ite | with_reducible apply canon_ite_snd)

theorem Dev.spoilArray_canon (d : Dev) (k : Nat) (hd : Dev.Canon d) : Dev.Canon (Dev.spoilArray d k) := by
  unfold Dev.spoilArray
  repeat' (first
      | with_reducible assumption | with_reducible apply canon_ite | split | (unfold Dev.Canon; dsimp only; with_reducible apply canon4_of))

theorem Dev.spoilCore_canon (d : Dev) (die i : Nat) (hd : Dev.Canon d) : Dev.Canon (Dev.spoilCore d die i) := by
  unfold Dev.spoilCore
  repeat' (first
      | with_reducible assumption | with_reducible apply canon_ite | split | (unfold Dev.Canon; dsimp only; with_reducible apply canon4_of))

theorem Dev.repairCore_canon (d : Dev) (k : Nat) (hd : Dev.Canon d) : Dev.Canon (Dev.repairCore d k).2 := by
  unfold Dev.repairCore
  repeat' (first | with_reducible assumption | with_reducible apply Dev.mapCore_canon | with_reducible intro _ | dsimp only | split)

theorem Dev.repairItem_canon (d : Dev) (f : ItemFail) (hd : Dev.Canon d) : Dev.Canon (Dev.repairItem d f).2 := by
  unfold Dev.repairItem
  try dsimp only
  repeat' (first
      | with_reducible assumption | with_reducible apply Dev.repairCore_canon | with_reducible apply Dev.spareWord_canon
      | with_reducible apply Dev.spoilArray_canon | with_reducible apply Dev.spoilCore_canon | with_reducible apply Dev.mapArray_canon
      | with_reducible apply Dev.offWay_canon | with_reducible apply canon_ite | with_reducible apply canon_ite_snd)

theorem Dev.beyondRepair_canon (d : Dev) (die : Nat) (hd : Dev.Canon d) : Dev.Canon (Dev.beyondRepair d die) := by
  unfold Dev.beyondRepair
  repeat' (first
      | with_reducible assumption | with_reducible apply Dev.penOffline_canon | with_reducible apply canon_ite | split
      | (unfold Dev.Canon; dsimp only; with_reducible apply canon4_of))

theorem Dev.confirmed_canon (d : Dev) (f : ItemFail) (hd : Dev.Canon d) : Dev.Canon (Dev.confirmed d f) := by
  unfold Dev.confirmed
  try dsimp only
  repeat' (first
      | with_reducible assumption | with_reducible apply Dev.raise_canon | with_reducible apply Dev.spareWord_canon
      | with_reducible apply Dev.spoilArray_canon | with_reducible apply Dev.keepRecord_canon | with_reducible apply Dev.errAdd_canon
      | with_reducible apply Dev.offWay_canon | with_reducible apply canon_ite | (refine canon_snd (by with_reducible assumption) ?_)
      | (refine canon_fst (by with_reducible assumption) ?_) | dsimp only | split)

theorem Dev.itemFails_canon (d : Dev) (f : ItemFail) (hd : Dev.Canon d) : Dev.Canon (Dev.itemFails d f) := by
  unfold Dev.itemFails
  try dsimp only
  repeat' (first
      | with_reducible assumption | with_reducible apply Dev.spoilArray_canon | with_reducible apply Dev.result_canon
      | with_reducible apply Dev.confirmed_canon | with_reducible apply canon_ite | split
      | (unfold Dev.Canon; dsimp only; with_reducible apply canon4_of))

theorem Dev.itemPasses_canon (d : Dev) (f : ItemFail) (hd : Dev.Canon d) : Dev.Canon (Dev.itemPasses d f) := by
  unfold Dev.itemPasses
  try dsimp only
  repeat' (first
      | with_reducible assumption | with_reducible apply Dev.errAdd_canon | with_reducible apply canon_ite | split
      | (unfold Dev.Canon; dsimp only; with_reducible apply canon4_of))

theorem Dev.flushWay_canon (d : Dev) (die index : Nat) (blocks : List Nat) (hd : Dev.Canon d) : Dev.Canon (Dev.flushWay d die index blocks) := by
  unfold Dev.flushWay
  try dsimp only
  repeat' (first | with_reducible assumption | with_reducible apply Dev.modStack_canon)

theorem Dev.slicePassed_canon (d : Dev) (die core item index : Nat) (hd : Dev.Canon d) : Dev.Canon (Dev.slicePassed d die core item index) := by
  unfold Dev.slicePassed
  try dsimp only
  repeat' (first
      | with_reducible assumption | with_reducible apply canon_ite | split | (unfold Dev.Canon; dsimp only; with_reducible apply canon4_of))

theorem Dev.runSlice_canon (d : Dev) (die core item index : Nat) (x : SliceFacts) (hd : Dev.Canon d) : Dev.Canon (Dev.runSlice d die core item index x) := by
  unfold Dev.runSlice
  try dsimp only
  repeat' (first
      | with_reducible assumption | with_reducible apply Dev.raise_canon | with_reducible apply Dev.flushWay_canon
      | with_reducible apply Dev.itemFails_canon | with_reducible apply Dev.result_canon | with_reducible apply Dev.slicePassed_canon
      | with_reducible apply Dev.itemPasses_canon | with_reducible apply canon_ite | with_reducible apply canon_ite_snd
      | with_reducible apply canon_ite_fst | (with_reducible apply canon_foldl; intro _ _ _))

theorem selfTestSlice_canon (d : Dev) (die core item index : Nat) (x : SliceFacts) (hd : Dev.Canon d) : Dev.Canon (selfTestSlice d die core item index x) := by
  unfold selfTestSlice
  try dsimp only
  repeat' (first
      | with_reducible assumption | with_reducible apply Dev.calDrop_canon | with_reducible apply Dev.fireEntry_canon
      | with_reducible apply Dev.runSlice_canon | with_reducible apply canon_ite | split
      | (unfold Dev.Canon; dsimp only; with_reducible apply canon4_of))

theorem spareCoreWalk_canon (d : Dev) (die i : Nat) (x : SliceFacts) (hd : Dev.Canon d) : Dev.Canon (spareCoreWalk d die i x) := by
  unfold spareCoreWalk
  repeat' (first
      | with_reducible assumption | with_reducible apply Dev.spoilCore_canon | with_reducible apply Dev.result_canon
      | with_reducible apply canon_ite | split | (unfold Dev.Canon; dsimp only; with_reducible apply canon4_of))

theorem Dev.passSpares_canon (d : Dev) (die : Nat) (hd : Dev.Canon d) : Dev.Canon (Dev.passSpares d die) := by
  unfold Dev.passSpares
  try dsimp only
  repeat' (first
      | with_reducible assumption | with_reducible apply canon_ite | with_reducible apply canon_ite_snd
      | with_reducible apply canon_ite_fst | (refine canon_snd (by with_reducible assumption) ?_)
      | (refine canon_fst (by with_reducible assumption) ?_) | with_reducible intro _ | dsimp only | split
      | (unfold Dev.Canon; dsimp only; with_reducible apply canon4_of))

theorem Dev.clearDie_canon (d : Dev) (die : Nat) (hd : Dev.Canon d) : Dev.Canon (Dev.clearDie d die) := by
  unfold Dev.clearDie
  try dsimp only
  repeat' (first
      | with_reducible assumption
      | (unfold Dev.Canon; dsimp only; refine canon4_abuf (canon4_spad (canon4_of ?_) (Mem.wf_zero _ _ _)) (Mem.wf_zero _ _ _))
      | with_reducible apply Dev.modStack_canon | with_reducible apply canon_ite)

theorem Dev.destructive_canon (d : Dev) (phase : Nat) (fails : List ItemFail) (hd : Dev.Canon d) : Dev.Canon (Dev.destructive d phase fails).2 := by
  unfold Dev.destructive
  try dsimp only
  repeat' (first
      | with_reducible assumption | with_reducible apply Dev.repairItem_canon | with_reducible apply canon_ite
      | with_reducible apply canon_ite_snd | with_reducible apply canon_ite_fst | (with_reducible apply canon_foldl_snd; intro _ _ _))

theorem startupTestGroup_canon (d : Dev) (avg : Nat) (fails : List ItemFail) (hd : Dev.Canon d) : Dev.Canon (startupTestGroup d avg fails) := by
  unfold startupTestGroup
  try dsimp only
  repeat' (first
      | with_reducible assumption | with_reducible apply Dev.passSpares_canon | with_reducible apply Dev.keepRecord_canon
      | with_reducible apply Dev.clearDie_canon | with_reducible apply Dev.beyondRepair_canon | with_reducible apply Dev.destructive_canon
      | with_reducible apply canon_ite | with_reducible apply canon_ite_snd | with_reducible apply canon_ite_fst
      | (with_reducible apply canon_foldl; intro _ _ _) | (refine canon_snd (by with_reducible assumption) ?_)
      | (refine canon_fst (by with_reducible assumption) ?_) | with_reducible intro _ | dsimp only | split
      | (unfold Dev.Canon; dsimp only; with_reducible apply canon4_of))

theorem Dev.applyFuse_canon (d : Dev) (die code : Nat) (hd : Dev.Canon d) : Dev.Canon (Dev.applyFuse d die code) := by
  unfold Dev.applyFuse
  try dsimp only
  repeat' (first
      | with_reducible assumption | with_reducible apply Dev.modPort_canon | with_reducible apply Dev.modStack_canon
      | with_reducible apply Dev.errAdd_canon | with_reducible apply Dev.modPc_canon | with_reducible apply canon_ite | split
      | (unfold Dev.Canon; dsimp only; with_reducible apply canon4_of))

theorem Dev.applyFuses_canon (d : Dev) (hd : Dev.Canon d) : Dev.Canon (Dev.applyFuses d) := by
  unfold Dev.applyFuses
  try dsimp only
  repeat' (first | with_reducible assumption | with_reducible apply Dev.applyFuse_canon | (with_reducible apply canon_foldl; intro _ _ _))

theorem Dev.burn_canon (d : Dev) (m : Nat) (hd : Dev.Canon d) : Dev.Canon (Dev.burn d m).2.2 := by
  unfold Dev.burn
  try dsimp only
  repeat' (first
      | with_reducible assumption | with_reducible apply canon_ite | with_reducible apply canon_ite_snd
      | with_reducible apply canon_ite_fst | (with_reducible apply canon_foldl_last; intro _ _ _)
      | (refine canon_snd (by with_reducible assumption) ?_) | (refine canon_fst (by with_reducible assumption) ?_)
      | with_reducible intro _ | dsimp only | split | (unfold Dev.Canon; dsimp only; with_reducible apply canon4_of))

theorem Dev.packageReset_canon (d : Dev) (cause : Nat) (hd : Dev.Canon d) : Dev.Canon (Dev.packageReset d cause) := by
  unfold Dev.packageReset
  repeat' (first | with_reducible assumption | exact ⟨rfl, rfl, rfl, rfl⟩)

theorem Dev.resetBy_canon (d : Dev) (cause : Nat) (hd : Dev.Canon d) : Dev.Canon (Dev.resetBy d cause) := by
  unfold Dev.resetBy
  repeat' (first | with_reducible assumption | with_reducible apply Dev.packageReset_canon | with_reducible apply canon_ite)

theorem uvReset_canon (d : Dev) (hd : Dev.Canon d) : Dev.Canon (uvReset d) := by
  unfold uvReset
  repeat' (first
      | with_reducible assumption | with_reducible apply Dev.resetBy_canon | (unfold Dev.Canon; dsimp only; with_reducible apply canon4_of))

theorem ovReset_canon (d : Dev) (hd : Dev.Canon d) : Dev.Canon (ovReset d) := by
  unfold ovReset
  repeat' (first
      | with_reducible assumption | with_reducible apply Dev.resetBy_canon | (unfold Dev.Canon; dsimp only; with_reducible apply canon4_of))

theorem auxFail_canon (d : Dev) (hd : Dev.Canon d) : Dev.Canon (auxFail d) := by
  unfold auxFail
  try dsimp only
  repeat' (first
      | with_reducible assumption | with_reducible apply tallyAuxLowSave_canon | with_reducible apply Dev.resetBy_canon
      | with_reducible apply canon_ite | split | (unfold Dev.Canon; dsimp only; with_reducible apply canon4_of))

theorem ztResetN_canon (d : Dev) (ns : Nat) (hd : Dev.Canon d) : Dev.Canon (ztResetN d ns) := by
  unfold ztResetN
  try dsimp only
  repeat' (first
      | with_reducible assumption | with_reducible apply Dev.resetBy_canon | with_reducible apply Dev.draw_canon
      | with_reducible apply canon_ite)

theorem thermalTrip_canon (d : Dev) (hd : Dev.Canon d) : Dev.Canon (thermalTrip d) := by
  unfold thermalTrip
  repeat' (first
      | with_reducible assumption | with_reducible apply Dev.resetBy_canon | (unfold Dev.Canon; dsimp only; with_reducible apply canon4_of))

theorem resetRelease_canon (d : Dev) (boot beat met : Bool) (i3c : Nat) (hd : Dev.Canon d) : Dev.Canon (resetRelease d boot beat met i3c) := by
  unfold resetRelease
  repeat' (first
      | with_reducible assumption | (unfold Dev.Canon; dsimp only; refine canon4_window (canon4_of ?_) (fun _ => rfl))
      | with_reducible apply canon_ite)

theorem refclkDetected_canon (d : Dev) (hd : Dev.Canon d) : Dev.Canon (refclkDetected d) := by
  unfold refclkDetected
  repeat' (first
      | with_reducible assumption | with_reducible apply canon_ite | split | (unfold Dev.Canon; dsimp only; with_reducible apply canon4_of))

theorem Dev.startImage_canon (d : Dev) (img : FwImage) (source : Nat) (tried : Bool) (hd : Dev.Canon d) : Dev.Canon (Dev.startImage d img source tried) := by
  unfold Dev.startImage
  try dsimp only
  repeat' (first
      | with_reducible assumption | (unfold Dev.Canon; dsimp only; refine canon4_window (canon4_of ?_) (fun _ => rfl))
      | with_reducible apply Dev.applyFuses_canon | with_reducible apply mirrorSet_canon)

theorem Dev.bootFlash_canon (d : Dev) (flash : List (Option FwImage)) (mark : Nat) (n0 : List Nat) (hd : Dev.Canon d) : Dev.Canon (Dev.bootFlash d flash mark n0) := by
  induction n0 generalizing d flash mark with
  | nil =>
    unfold Dev.bootFlash
    try dsimp only
    repeat' (first
        | with_reducible assumption | with_reducible apply Dev.startImage_canon | with_reducible apply mark_canon
        | with_reducible apply canon_ite | split | (unfold Dev.Canon; dsimp only; with_reducible apply canon4_of))
  | cons _ _ ih =>
    unfold Dev.bootFlash
    try dsimp only
    repeat' (first
        | with_reducible assumption | with_reducible apply ih | with_reducible apply Dev.startImage_canon | with_reducible apply mark_canon
        | with_reducible apply canon_ite | split | (unfold Dev.Canon; dsimp only; with_reducible apply canon4_of))

theorem bootDoorbell_canon (d : Dev) (v : Nat) (img : FwImage) (hd : Dev.Canon d) : Dev.Canon (bootDoorbell d v img) := by
  unfold bootDoorbell
  try dsimp only
  repeat' (first
      | with_reducible assumption | with_reducible apply Dev.startImage_canon | with_reducible apply canon_ite | split
      | (unfold Dev.Canon; dsimp only; with_reducible apply canon4_of))

theorem Dev.ready_canon (d : Dev) (hd : Dev.Canon d) : Dev.Canon (Dev.ready d) := by
  unfold Dev.ready
  try dsimp only
  repeat' (first
      | with_reducible assumption | with_reducible apply Dev.draw_canon | with_reducible apply Dev.withdraw_canon
      | with_reducible apply canon_ite | (refine canon_snd (by with_reducible assumption) ?_)
      | (refine canon_fst (by with_reducible assumption) ?_) | dsimp only | split
      | (unfold Dev.Canon; dsimp only; with_reducible apply canon4_of))

theorem Dev.step1_canon (d : Dev) (x : StartFacts) (hd : Dev.Canon d) : Dev.Canon (Dev.step1 d x) := by
  unfold Dev.step1
  try dsimp only
  repeat' (first
      | with_reducible assumption | with_reducible apply Dev.bootFlash_canon | with_reducible apply mark_canon
      | with_reducible apply Dev.result_canon | with_reducible apply canon_ite | with_reducible apply canon_ite_snd
      | with_reducible apply canon_ite_fst | (with_reducible apply canon_foldl; intro _ _ _)
      | (refine canon_snd (by with_reducible assumption) ?_) | (refine canon_fst (by with_reducible assumption) ?_)
      | with_reducible intro _ | dsimp only | split | (unfold Dev.Canon; dsimp only; with_reducible apply canon4_of))

theorem Dev.tierTrained_canon (d : Dev) (i : Nat) (x : TierFacts) (hd : Dev.Canon d) : Dev.Canon (Dev.tierTrained d i x) := by
  unfold Dev.tierTrained
  try dsimp only
  repeat' (first
      | with_reducible assumption | with_reducible apply Dev.notice_canon | with_reducible apply canon_ite | split
      | (unfold Dev.Canon; dsimp only; with_reducible apply canon4_of))

theorem startupStepDone_canon (d : Dev) (x : StartFacts) (hd : Dev.Canon d) : Dev.Canon (startupStepDone d x) := by
  unfold startupStepDone
  try dsimp only
  repeat' (first
      | with_reducible assumption | (unfold Dev.Canon; dsimp only; refine canon4_mem (canon4_of ?_) (fun _ => rfl))
      | with_reducible apply Dev.tierTrained_canon | with_reducible apply Dev.ready_canon | with_reducible apply Dev.penOffline_canon
      | with_reducible apply Dev.step1_canon | with_reducible apply Dev.midwayTrained_canon | with_reducible apply canon_ite
      | with_reducible apply canon_ite_snd | with_reducible apply canon_ite_fst | (with_reducible apply canon_foldl; intro _ _ _)
      | (refine canon_snd (by with_reducible assumption) ?_) | (refine canon_fst (by with_reducible assumption) ?_)
      | with_reducible intro _ | dsimp only | split | (unfold Dev.Canon; dsimp only; with_reducible apply canon4_of))

theorem orderlyHalt_canon (d : Dev) (hd : Dev.Canon d) : Dev.Canon (orderlyHalt d) := by
  unfold orderlyHalt
  try dsimp only
  repeat' (first
      | with_reducible assumption | with_reducible apply Dev.leaveNotice_canon | with_reducible apply Dev.ready_canon
      | with_reducible apply Dev.abortActs_canon | with_reducible apply Dev.finish_canon | with_reducible apply canon_ite
      | with_reducible apply canon_ite_snd | with_reducible apply canon_ite_fst | (with_reducible apply canon_foldl; intro _ _ _)
      | (refine canon_snd (by with_reducible assumption) ?_) | (refine canon_fst (by with_reducible assumption) ?_)
      | with_reducible intro _ | dsimp only | split | (unfold Dev.Canon; dsimp only; with_reducible apply canon4_of))

theorem Dev.answerBuf_canon (d : Dev) (c : Door) (data : List Byte) (res : List Nat) (hd : Dev.Canon d) : Svc.Canon (Dev.answerBuf d c data res) := by
  unfold Dev.answerBuf
  try dsimp only
  repeat' (first
      | with_reducible assumption | with_reducible apply Dev.hostPut_canon | with_reducible apply Dev.newHandle_canon
      | with_reducible apply Dev.finish_canon | with_reducible apply svc_ok | with_reducible apply svc_pure
      | with_reducible apply svc_error | with_reducible apply svc_bind_dev | (with_reducible apply svc_bind; intro _ _)
      | with_reducible apply chk_ok | with_reducible apply chk_pure | with_reducible apply chk_error
      | (refine canon_snd (by with_reducible assumption) ?_) | (refine canon_fst (by with_reducible assumption) ?_)
      | with_reducible intro _ | dsimp only | split)

theorem Dev.answerItems_canon (d : Dev) (c : Door) (l : List (List Byte)) (bytes : Bool) (hd : Dev.Canon d) : Svc.Canon (Dev.answerItems d c l bytes) := by
  unfold Dev.answerItems
  try dsimp only
  repeat' (first
      | with_reducible assumption | with_reducible apply Dev.answerBuf_canon | with_reducible apply svc_ok | with_reducible apply svc_pure
      | with_reducible apply svc_error | with_reducible apply svc_bind_dev | (with_reducible apply svc_bind; intro _ _))

theorem svcCalQuery_canon (d : Dev) (c : Door) (hd : Dev.Canon d) : Svc.Canon (svcCalQuery d c) := by
  unfold svcCalQuery
  try dsimp only
  repeat' (first
      | with_reducible assumption | with_reducible apply Dev.answerBuf_canon | with_reducible apply svc_ok | with_reducible apply svc_pure
      | with_reducible apply svc_error | with_reducible apply svc_bind_dev | (with_reducible apply svc_bind; intro _ _))

theorem calQuery_canon (d : Dev) (c : Door) (hd : Dev.Canon d) : Dev.Canon (calQuery d c) := by
  unfold calQuery
  repeat' (first
      | with_reducible assumption | with_reducible apply svcCalQuery_canon | with_reducible apply Dev.serve_canon | with_reducible intro _)

theorem svcDiagBist_canon (d : Dev) (c : Door) (hd : Dev.Canon d) : Svc.Canon (svcDiagBist d c) := by
  unfold svcDiagBist
  try dsimp only
  repeat' (first
      | with_reducible assumption | with_reducible apply Dev.newHandle_canon | with_reducible apply diagBist_canon
      | with_reducible apply svc_ok | with_reducible apply svc_pure | with_reducible apply svc_error | with_reducible apply svc_bind_dev
      | (with_reducible apply svc_bind; intro _ _))

theorem diagBist_canon (d : Dev) (c : Door) (hd : Dev.Canon d) : Dev.Canon (diagBist d c) := by
  unfold diagBist
  repeat' (first
      | with_reducible assumption | with_reducible apply svcDiagBist_canon | with_reducible apply Dev.serve_canon | with_reducible intro _)

theorem Dev.bistEnd_canon (d : Dev) (h m level buf len : Nat) (fails : List ItemFail) (ok : Bool) (hd : Dev.Canon d) : Dev.Canon (Dev.bistEnd d h m level buf len fails ok) := by
  unfold Dev.bistEnd
  try dsimp only
  repeat' (first
      | with_reducible assumption | with_reducible apply Dev.hostPut_canon | with_reducible apply Dev.passSpares_canon
      | with_reducible apply Dev.clearDie_canon | with_reducible apply Dev.beyondRepair_canon | with_reducible apply Dev.finish_canon
      | with_reducible apply Dev.destructive_canon | with_reducible apply canon_ite | with_reducible apply canon_ite_snd
      | with_reducible apply canon_ite_fst | (with_reducible apply canon_foldl; intro _ _ _))

theorem bistDone_canon (d : Dev) (h avg : Nat) (fails : List ItemFail) (ok : Bool) (hd : Dev.Canon d) : Dev.Canon (bistDone d h avg fails ok) := by
  unfold bistDone
  try dsimp only
  repeat' (first
      | with_reducible assumption | with_reducible apply Dev.bistEnd_canon | with_reducible apply Dev.burn_canon
      | with_reducible apply diagBist_canon | with_reducible apply Dev.finish_canon | with_reducible apply canon_ite
      | (refine canon_snd (by with_reducible assumption) ?_) | (refine canon_fst (by with_reducible assumption) ?_) | dsimp only | split)

theorem svcDiagDump_canon (d : Dev) (c : Door) (hd : Dev.Canon d) : Svc.Canon (svcDiagDump d c) := by
  unfold svcDiagDump
  try dsimp only
  repeat' (first
      | with_reducible assumption | with_reducible apply Dev.answerItems_canon | with_reducible apply svc_ok
      | with_reducible apply svc_pure | with_reducible apply svc_error | with_reducible apply svc_bind_dev
      | (with_reducible apply svc_bind; intro _ _) | with_reducible apply chk_ok | with_reducible apply chk_pure
      | with_reducible apply chk_error | with_reducible intro _ | split)

theorem diagDump_canon (d : Dev) (c : Door) (hd : Dev.Canon d) : Dev.Canon (diagDump d c) := by
  unfold diagDump
  repeat' (first
      | with_reducible assumption | with_reducible apply Dev.serve_canon | with_reducible apply svcDiagDump_canon | with_reducible intro _)

theorem svcTallyRead_canon (d : Dev) (c : Door) (hd : Dev.Canon d) : Svc.Canon (svcTallyRead d c) := by
  unfold svcTallyRead
  try dsimp only
  repeat' (first
      | with_reducible assumption | with_reducible apply Dev.answerBuf_canon | with_reducible apply svc_ok | with_reducible apply svc_pure
      | with_reducible apply svc_error | with_reducible apply svc_bind_dev | (with_reducible apply svc_bind; intro _ _))

theorem tallyRead_canon (d : Dev) (c : Door) (hd : Dev.Canon d) : Dev.Canon (tallyRead d c) := by
  unfold tallyRead
  repeat' (first
      | with_reducible assumption | with_reducible apply svcTallyRead_canon | with_reducible apply Dev.serve_canon | with_reducible intro _)

theorem svcTallyLogRead_canon (d : Dev) (c : Door) (hd : Dev.Canon d) : Svc.Canon (svcTallyLogRead d c) := by
  unfold svcTallyLogRead
  try dsimp only
  repeat' (first
      | with_reducible assumption | with_reducible apply Dev.answerItems_canon | with_reducible apply svc_ok
      | with_reducible apply svc_pure | with_reducible apply svc_error | with_reducible apply svc_bind_dev
      | (with_reducible apply svc_bind; intro _ _))

theorem tallyLogRead_canon (d : Dev) (c : Door) (hd : Dev.Canon d) : Dev.Canon (tallyLogRead d c) := by
  unfold tallyLogRead
  repeat' (first
      | with_reducible assumption | with_reducible apply svcTallyLogRead_canon | with_reducible apply Dev.serve_canon
      | with_reducible intro _)

theorem svcFaultQuery_canon (d : Dev) (c : Door) (hd : Dev.Canon d) : Svc.Canon (svcFaultQuery d c) := by
  unfold svcFaultQuery
  try dsimp only
  repeat' (first
      | with_reducible assumption | with_reducible apply Dev.answerItems_canon | with_reducible apply svc_ok
      | with_reducible apply svc_pure | with_reducible apply svc_error | with_reducible apply svc_bind_dev
      | (with_reducible apply svc_bind; intro _ _))

theorem faultQuery_canon (d : Dev) (c : Door) (hd : Dev.Canon d) : Dev.Canon (faultQuery d c) := by
  unfold faultQuery
  repeat' (first
      | with_reducible assumption | with_reducible apply Dev.serve_canon | with_reducible apply svcFaultQuery_canon
      | with_reducible intro _)

theorem svcFaultAck_canon (d : Dev) (c : Door) (hd : Dev.Canon d) : Svc.Canon (svcFaultAck d c) := by
  unfold svcFaultAck
  try dsimp only
  repeat' (first
      | with_reducible assumption | with_reducible apply Dev.modFault_canon | with_reducible apply svc_ok | with_reducible apply svc_pure
      | with_reducible apply svc_error | with_reducible apply svc_bind_dev | (with_reducible apply svc_bind; intro _ _))

theorem faultAck_canon (d : Dev) (c : Door) (hd : Dev.Canon d) : Dev.Canon (faultAck d c) := by
  unfold faultAck
  repeat' (first
      | with_reducible assumption | with_reducible apply svcFaultAck_canon | with_reducible apply Dev.serve_canon | with_reducible intro _)

theorem svcUnknown_canon (d : Dev) (c : Door) : Svc.Canon (svcUnknown d c) := svc_error

theorem unknownOpcode_canon (d : Dev) (c : Door) (op : Nat) (hd : Dev.Canon d) : Dev.Canon (unknownOpcode d c op) := by
  unfold unknownOpcode
  repeat' (first
      | with_reducible assumption | with_reducible apply svcUnknown_canon | with_reducible apply Dev.serve_canon
      | with_reducible apply canon_ite | with_reducible intro _)

theorem Dev.reply_canon (d : Dev) (b type cmd : Nat) (fields : List Nat) (data : List Byte) (hd : Dev.Canon d) : Dev.Canon (Dev.reply d b type cmd fields data) := by
  unfold Dev.reply
  repeat' (first | with_reducible assumption | with_reducible apply Dev.emit_canon | with_reducible apply canon_ite)

theorem setEndpointId_canon (d : Dev) (b eid : Nat) (hd : Dev.Canon d) : Dev.Canon (setEndpointId d b eid) := by
  unfold setEndpointId
  repeat' (first
      | with_reducible assumption | with_reducible apply Dev.reply_canon | with_reducible apply canon_ite | split
      | (unfold Dev.Canon; dsimp only; with_reducible apply canon4_of))

theorem dynamicAddress_canon (d : Dev) (tally : Bool) (a : Nat) (hd : Dev.Canon d) : Dev.Canon (dynamicAddress d tally a) := by
  unfold dynamicAddress
  try dsimp only
  repeat' (first
      | with_reducible assumption | with_reducible apply Dev.modTally_canon | with_reducible apply canon_ite | split
      | (unfold Dev.Canon; dsimp only; with_reducible apply canon4_of))

theorem setEventReceiver_canon (d : Dev) (b eid : Nat) (hd : Dev.Canon d) : Dev.Canon (setEventReceiver d b eid) := by
  unfold setEventReceiver
  repeat' (first
      | with_reducible assumption | with_reducible apply Dev.reply_canon | with_reducible apply canon_ite | split
      | (unfold Dev.Canon; dsimp only; with_reducible apply canon4_of))

theorem Dev.sense_canon (d : Dev) (n : Nat) (v : Int) (hd : Dev.Canon d) : Dev.Canon (Dev.sense d n v) := by
  unfold Dev.sense
  try dsimp only
  repeat' (first
      | with_reducible assumption | with_reducible apply Dev.emit_canon | with_reducible apply canon_ite | split
      | (unfold Dev.Canon; dsimp only; with_reducible apply canon4_of))

theorem sensorRefresh_canon (d : Dev) (readings : List (Nat × Int)) (hd : Dev.Canon d) : Dev.Canon (sensorRefresh d readings) := by
  unfold sensorRefresh
  try dsimp only
  repeat' (first
      | with_reducible assumption | with_reducible apply Dev.sense_canon | with_reducible apply canon_ite
      | with_reducible apply canon_ite_snd | with_reducible apply canon_ite_fst | (with_reducible apply canon_foldl; intro _ _ _))

theorem requestUpdate_canon (d : Dev) (b : Nat) (hd : Dev.Canon d) : Dev.Canon (requestUpdate d b) := by
  unfold requestUpdate
  repeat' (first
      | with_reducible assumption | with_reducible apply Dev.reply_canon | with_reducible apply Dev.emit_canon
      | with_reducible apply canon_ite | split | (unfold Dev.Canon; dsimp only; with_reducible apply canon4_of))

theorem activateFirmware_canon (d : Dev) (b : Nat) (selfContained : Bool) (hd : Dev.Canon d) : Dev.Canon (activateFirmware d b selfContained) := by
  unfold activateFirmware
  repeat' (first
      | with_reducible assumption | with_reducible apply Dev.reply_canon | with_reducible apply canon_ite | split
      | (unfold Dev.Canon; dsimp only; with_reducible apply canon4_of))

theorem getVersion_canon (d : Dev) (b : Nat) (hd : Dev.Canon d) : Dev.Canon (getVersion d b) := by
  unfold getVersion
  repeat' (first | with_reducible assumption | with_reducible apply Dev.reply_canon)

theorem getCapabilities_canon (d : Dev) (b : Nat) (hd : Dev.Canon d) : Dev.Canon (getCapabilities d b) := by
  unfold getCapabilities
  repeat' (first | with_reducible assumption | with_reducible apply Dev.reply_canon)

theorem negotiateAlgorithms_canon (d : Dev) (b : Nat) (ecdsaP384 sha384 : Bool) (hd : Dev.Canon d) : Dev.Canon (negotiateAlgorithms d b ecdsaP384 sha384) := by
  unfold negotiateAlgorithms
  repeat' (first | with_reducible assumption | with_reducible apply Dev.reply_canon)

theorem getDigests_canon (d : Dev) (b : Nat) (hd : Dev.Canon d) : Dev.Canon (getDigests d b) := by
  unfold getDigests
  repeat' (first | with_reducible assumption | with_reducible apply Dev.reply_canon)

theorem getCertificate_canon (d : Dev) (b slot off len : Nat) (hd : Dev.Canon d) : Dev.Canon (getCertificate d b slot off len) := by
  unfold getCertificate
  try dsimp only
  repeat' (first | with_reducible assumption | with_reducible apply Dev.reply_canon | with_reducible apply canon_ite)

theorem challenge_canon (d : Dev) (b slot nonce : Nat) (hd : Dev.Canon d) : Dev.Canon (challenge d b slot nonce) := by
  unfold challenge
  try dsimp only
  repeat' (first | with_reducible assumption | with_reducible apply Dev.reply_canon | with_reducible apply canon_ite)

theorem getMeasurements_canon (d : Dev) (b index nonce : Nat) (signed : Bool) (hd : Dev.Canon d) : Dev.Canon (getMeasurements d b index nonce signed) := by
  unfold getMeasurements
  try dsimp only
  repeat' (first | with_reducible assumption | with_reducible apply Dev.reply_canon | with_reducible apply canon_ite)

theorem Dev.tapLoad_canon (d : Dev) (op : Nat) (holds : Bool) (cells captured : Nat) (hd : Dev.Canon d) : Dev.Canon (Dev.tapLoad d op holds cells captured) := by
  unfold Dev.tapLoad
  repeat' (first
      | with_reducible assumption | with_reducible apply Dev.emit_canon | with_reducible apply canon_ite | split
      | (unfold Dev.Canon; dsimp only; with_reducible apply canon4_of))

theorem idcode_canon (d : Dev) (hd : Dev.Canon d) : Dev.Canon (idcode d) := by
  unfold idcode
  repeat' (first | with_reducible assumption | with_reducible apply Dev.tapLoad_canon)

theorem bypass_canon (d : Dev) (op : Nat) (hd : Dev.Canon d) : Dev.Canon (bypass d op) := by
  unfold bypass
  repeat' (first | with_reducible assumption | with_reducible apply Dev.tapLoad_canon | with_reducible apply canon_ite)

theorem samplePreload_canon (d : Dev) (p : TapPins) (lands cells : Nat) (hd : Dev.Canon d) : Dev.Canon (samplePreload d p lands cells) := by
  unfold samplePreload
  repeat' (first | with_reducible assumption | with_reducible apply Dev.tapLoad_canon)

theorem extest_canon (d : Dev) (p : TapPins) (lands cells : Nat) (hd : Dev.Canon d) : Dev.Canon (extest d p lands cells) := by
  unfold extest
  repeat' (first | with_reducible assumption | with_reducible apply Dev.boundary_canon | with_reducible apply Dev.tapLoad_canon)

theorem extestPulse_canon (d : Dev) (p : TapPins) (lands cells : Nat) (hd : Dev.Canon d) : Dev.Canon (extestPulse d p lands cells) := by
  unfold extestPulse
  repeat' (first | with_reducible assumption | with_reducible apply Dev.boundary_canon | with_reducible apply Dev.tapLoad_canon)

theorem extestTrain_canon (d : Dev) (p : TapPins) (lands cells : Nat) (hd : Dev.Canon d) : Dev.Canon (extestTrain d p lands cells) := by
  unfold extestTrain
  repeat' (first | with_reducible assumption | with_reducible apply Dev.boundary_canon | with_reducible apply Dev.tapLoad_canon)

theorem clamp_canon (d : Dev) (p : TapPins) (hd : Dev.Canon d) : Dev.Canon (clamp d p) := by
  unfold clamp
  repeat' (first | with_reducible assumption | with_reducible apply Dev.boundary_canon | with_reducible apply Dev.tapLoad_canon)

theorem highz_canon (d : Dev) (p : TapPins) (hd : Dev.Canon d) : Dev.Canon (highz d p) := by
  unfold highz
  repeat' (first | with_reducible assumption | with_reducible apply Dev.boundary_canon | with_reducible apply Dev.tapLoad_canon)

end Sys2Proof.Machine
end

