-- ==== Sys2Proof/Laws/Mailbox.lean ====
section
/-! SUPPORT. A slot taken or a reply written changes a mailbox alone: what the checks of the commands read is as before. -/

namespace Sys2Proof.Machine

open Sys2Proof

@[simp] theorem Dev.func_modFunc_same (d : Dev) (f : Nat) (g : Func → Func) : (d.modFunc f g).func f = g (d.func f) := by
  simp [Dev.func, Dev.modFunc]

theorem Dev.func_modFunc (d : Dev) (f e : Nat) (g : Func → Func) :
    (d.modFunc f g).func e = if e = f then g (d.func f) else d.func e := by
  simp only [Dev.func, Dev.modFunc, Tab.getD_put]

/-- The slot of a heard command: the mailbox takes it. -/
theorem Dev.took_of_hears {d : Dev} {c : Door} (op : Nat) (h : d.hears c = true) :
    d.took c op = d.modFunc c.func (fun x =>
      { x with mbx := Tab.put x.mbx c.mbx { Tab.getD x.mbx c.mbx {} with slot := doorSlot c op } }) := by
  simp only [Dev.hears, Bool.and_eq_true, Option.isNone_iff_eq_none] at h
  unfold Dev.took
  rw [h.2]
  rfl

/-- A command that is heard is served, and the reply area is written. -/
theorem Dev.serve_of_hears {d : Dev} {c : Door} {op : Nat} {svc : Dev → Door → Svc} (h : d.hears c = true) :
    d.serve c op svc = (d.took c op).endService c (svc (d.took c op) c) := by
  simp only [Dev.hears, Bool.and_eq_true, Option.isNone_iff_eq_none] at h
  unfold Dev.serve
  rw [h.1, h.2]
  rfl

/-- A service that answers. -/
theorem Dev.serve_ok {d d' : Dev} {c : Door} {op : Nat} {svc : Dev → Door → Svc} {r : Reply} (h : d.hears c = true)
    (hs : svc (d.took c op) c = .ok (r, d')) :
    d.serve c op svc = d'.putReply c (replyBytes (r.status.getD (if r.handle.isNone then sOk else sAccepted)) 0 (r.handle.getD 0) c.tag r.res) := by
  rw [Dev.serve_of_hears h, hs]; rfl

/-! The checks (R361). -/

@[simp] theorem refuseIf_false (st dt : Nat) : refuseIf false st dt = .ok () := rfl

@[simp] theorem refuseIf_true (st dt : Nat) : refuseIf true st dt = .error ⟨st, dt⟩ := rfl

@[simp] theorem except_ok_bind {α β : Type} (a : α) (f : α → Except Refuse β) : (Except.ok a >>= f) = f a := rfl

@[simp] theorem except_error_bind {α β : Type} (e : Refuse) (f : α → Except Refuse β) : (Except.error e >>= f) = .error e := rfl

@[simp] theorem except_pure {α : Type} (a : α) : (pure a : Except Refuse α) = .ok a := rfl

theorem notStopped_ok {d : Dev} (h : d.stopped = false) : notStopped d = .ok () := by simp [notStopped, h]

theorem pfOnly_ok {c : Door} (h : c.func = 0) : pfOnly c = .ok () := by simp [pfOnly, h]

theorem handleRoom_ok {d : Dev} {f : Nat} (h : d.handlesLeft f = true) : handleRoom d f = .ok () := by
  have : ¬ 1024 ≤ d.heldCount f := by simpa [Dev.handlesLeft] using h
  simp [handleRoom, this]

theorem inRange_ok {c : Door} {a n lo hi : Nat} (h : lo ≤ dp c a n) (h' : dp c a n ≤ hi) : inRange c a n lo hi = .ok () := by
  simp [inRange, refuseIf, Nat.not_lt.2 h, Nat.not_lt.2 h']

theorem aligned64_ok {c : Door} {a : Nat} (h : dp c a 8 % 64 = 0) : aligned64 c a = .ok () := by simp [aligned64, h]

theorem ownPasture_ok {d : Dev} {c : Door} {p : Nat} (h : d.pastureOf c.func = some p) : ownPasture d c = .ok p := by
  simp [ownPasture, h]

/-- A service that accepts a HANDLED command. -/
theorem Dev.serve_accepts {d : Dev} {c : Door} {op : Nat} {svc : Dev → Door → Svc} {w : Work} {eff : Dev → Dev} (h : d.hears c = true)
    (hs : svc (d.took c op) c = .ok ({ handle := some (d.nextHandle c.func) }, eff ((d.took c op).opened c.func c.tag w))) :
    d.serve c op svc = d.accepts c op w eff := by
  rw [Dev.serve_ok h hs]; rfl

/-- A service that answers an IMMEDIATE command. -/
theorem Dev.serve_answers {d : Dev} {c : Door} {op : Nat} {svc : Dev → Door → Svc} {res : List Nat} {eff : Dev → Dev} (h : d.hears c = true)
    (hs : svc (d.took c op) c = .ok ({ res }, eff (d.took c op))) : d.serve c op svc = d.answers c op res eff := by
  rw [Dev.serve_ok h hs]; rfl

section
variable (d : Dev) (c : Door) (op : Nat)

/-- A slot that is taken changes nothing of a function but its mailboxes. -/
theorem Dev.took_func (e : Nat) : ∃ m, (d.took c op).func e = { d.func e with mbx := m } := by
  unfold Dev.took
  split
  · exact ⟨(d.func e).mbx, rfl⟩
  · simp only [Dev.modMailbox, Dev.func_modFunc]
    split
    · subst_vars; exact ⟨_, rfl⟩
    · exact ⟨(d.func e).mbx, rfl⟩

/-- A slot that is taken changes nothing but the functions. -/
theorem Dev.took_eq : ∃ fs, d.took c op = { d with funcs := fs } := by
  unfold Dev.took
  split
  · exact ⟨d.funcs, rfl⟩
  · exact ⟨_, rfl⟩

theorem Dev.took_pastureOf (f : Nat) : (d.took c op).pastureOf f = d.pastureOf f := by
  obtain ⟨fs, h⟩ := d.took_eq c op; rw [h]; rfl

theorem Dev.took_pasture (p : Nat) : (d.took c op).pasture p = d.pasture p := by
  obtain ⟨fs, h⟩ := d.took_eq c op; rw [h]; rfl

theorem Dev.took_stopped : (d.took c op).stopped = d.stopped := by
  obtain ⟨fs, h⟩ := d.took_eq c op; rw [h]; rfl

theorem Dev.took_txns : (d.took c op).txns = d.txns := by
  obtain ⟨fs, h⟩ := d.took_eq c op; rw [h]

theorem Dev.took_handles : (d.took c op).handles = d.handles := by
  obtain ⟨fs, h⟩ := d.took_eq c op; rw [h]

theorem Dev.took_beat : (d.took c op).beat = d.beat := by
  obtain ⟨fs, h⟩ := d.took_eq c op; rw [h]

theorem Dev.took_pKey (p k : Nat) : (d.took c op).pKey p k = d.pKey p k := by
  obtain ⟨fs, h⟩ := d.took_eq c op; rw [h]; rfl

theorem Dev.took_key (k : Nat) : (d.took c op).key k = d.key k := by
  obtain ⟨fs, h⟩ := d.took_eq c op; rw [h]; rfl

theorem Dev.took_gen (e : Nat) : ((d.took c op).func e).gen = (d.func e).gen := by
  obtain ⟨m, h⟩ := d.took_func c op e; rw [h]

theorem Dev.took_waiting (e : Nat) : ((d.took c op).func e).waiting = (d.func e).waiting := by
  obtain ⟨m, h⟩ := d.took_func c op e; rw [h]

theorem Dev.took_seq (e : Nat) : ((d.took c op).func e).seq = (d.func e).seq := by
  obtain ⟨m, h⟩ := d.took_func c op e; rw [h]

theorem Dev.took_heldCount (f : Nat) : (d.took c op).heldCount f = d.heldCount f := by
  simp only [Dev.heldCount, Dev.took_handles, Dev.took_gen]

theorem Dev.took_isOpen (h : Nat) : (d.took c op).isOpen h = d.isOpen h := by
  simp only [Dev.isOpen, Dev.completed, Dev.took_handles, Dev.took_waiting]

theorem Dev.took_nextHandle (f tag : Nat) (w : Work) : ((d.took c op).newHandle f tag w).1 = d.nextHandle f := by
  simp only [Dev.nextHandle, Dev.newHandle, Dev.heldOf, Dev.took_handles, Dev.took_gen, Dev.took_seq]

theorem Dev.took_handlesLeft (f : Nat) : (d.took c op).handlesLeft f = d.handlesLeft f := by
  simp only [Dev.handlesLeft, Dev.took_heldCount]

theorem Dev.took_namedHandle (x : Bool) : namedHandle (d.took c op) c x = namedHandle d c x := by
  simp only [namedHandle, Dev.took_isOpen, Dev.took_gen]

theorem Dev.took_namedPasture (a : Nat) : namedPasture (d.took c op) c a = namedPasture d c a := by
  simp only [namedPasture, Dev.took_pastureOf, Dev.took_pasture]

theorem Dev.took_ownPasture : ownPasture (d.took c op) c = ownPasture d c := by
  simp only [ownPasture, Dev.took_pastureOf]

end

/-- Padding with zeros adds no byte outside the mask (R376). -/
theorem badByte_padTo {u : Used} {bs : List Byte} {n : Nat} (hn : bs.length ≤ n) (h : badByte u bs = none) :
    badByte u (padTo bs n) = none := by
  simp only [badByte, List.find?_eq_none, List.mem_range] at h ⊢
  intro i _
  by_cases hi : i < bs.length
  · have := h i hi
    simpa [badByte.byteAt, padTo, List.take_of_length_le hn, List.getElem?_append, hi] using this
  · have : ((padTo bs n)[i]?).getD 0#8 = 0#8 := by
      simp only [padTo, List.take_of_length_le hn, List.getElem?_append, hi, if_false, List.getElem?_replicate]
      split <;> rfl
    simp [badByte.byteAt, this]

/-- Check 1 of R361 from the bytes that the driver wrote alone. -/
theorem checkHeader_ok {c : Door} {len : Nat} {u : Used} (h : c.len = len ∧ c.flags = 0 ∧ c.rsv = 0 ∧ c.params.length ≤ 240 ∧
    badByte u c.params = none) : checkHeader c len u = .ok () := by
  obtain ⟨h1, h2, h3, h4, h5⟩ := h
  have h6 : badByte [] (leBytes 0 8) = none := by decide
  simp [checkHeader, h1, h2, h3, h6, badByte_padTo h4 h5]

end Sys2Proof.Machine
end

