-- ==== Sys2Proof/Laws/Shared.lean ====
section
/-! SUPPORT. What each shared operation can change: everything else of the package is as before. -/

namespace Sys2Proof.Machine

open Sys2Proof

/-! Events, vectors and counters. -/

theorem Dev.vector_frame (d : Dev) (f v : Nat) : ∃ fs o, d.vector f v = { d with funcs := fs, out := o } := by
  unfold Dev.vector
  dsimp only
  repeat' split
  all_goals exact ⟨_, _, rfl⟩

theorem Dev.event_frame (d : Dev) (f b v : Nat) : ∃ fs o, d.event f b v = { d with funcs := fs, out := o } := by
  obtain ⟨fs, o, h⟩ := (d.modFunc f (fun x => { x with event := setBit x.event b true })).vector_frame f v
  exact ⟨fs, o, h⟩

theorem Dev.eventAll_frame (d : Dev) (b v : Nat) : ∃ fs o, d.eventAll b v = { d with funcs := fs, out := o } := by
  unfold Dev.eventAll
  generalize d.funcs.filter (fun q => q.2.enabled) = l
  induction l generalizing d with
  | nil => exact ⟨_, _, rfl⟩
  | cons q l ih =>
    obtain ⟨fs, o, h⟩ := d.event_frame q.1 b v
    obtain ⟨gs, p, h'⟩ := ih (d.event q.1 b v)
    exact ⟨gs, p, by rw [List.foldl_cons, h', h]⟩

theorem Dev.stepEvent_frame (d : Dev) (p : Nat) : ∃ fs o, d.stepEvent p = { d with funcs := fs, out := o } := by
  unfold Dev.stepEvent
  split
  · exact d.event_frame _ _ _
  · exact ⟨_, _, rfl⟩

theorem Dev.errAdd_frame (d : Dev) (die core i n : Nat) : ∃ t, d.errAdd die core i n = { d with errs := t } := by
  unfold Dev.errAdd
  split <;> exact ⟨_, rfl⟩

/-- An error counter advances by the sum of what is added, and no other one moves (R437). -/
theorem Dev.err_errAdd (d : Dev) (die core i n : Nat) : (d.errAdd die core i n).err die core i = if n = 0 then d.err die core i else
    satAdd 32 (d.err die core i) n := by
  unfold Dev.errAdd Dev.err
  split
  · rfl
  · simp only [Tab.getD_mod, if_true]

theorem Dev.srvAdd_frame (d : Dev) (f i n : Nat) : ∃ fs, d.srvAdd f i n = { d with funcs := fs } := by
  unfold Dev.srvAdd
  split <;> exact ⟨_, rfl⟩

/-! Records of faults (R420 to R423). -/

theorem Dev.signalFault_frame (d : Dev) (p : Nat) : ∃ fs o, d.signalFault p = { d with funcs := fs, out := o } := by
  unfold Dev.signalFault
  dsimp only
  split
  · split
    · exact d.event_frame 0 1 1
    · rename_i f _ _
      obtain ⟨fs, o, h⟩ := d.event_frame f 1 1
      rw [h]
      exact Dev.event_frame _ 0 1 1
  · exact d.event_frame 0 1 1

/-- Room for a record takes at most records and a count of lost ones. -/
theorem Dev.faultRoom_frame (d : Dev) : ∃ l t, d.faultRoom = { d with faults := { d.faults with log := l }, errs := t } := by
  unfold Dev.faultRoom
  split
  · exact ⟨_, _, rfl⟩
  · split
    · exact ⟨_, _, rfl⟩
    · obtain ⟨t, h⟩ := Dev.errAdd_frame { d with faults := { d.faults with log := dropFirst (fun r => dispFinal r.disp) d.faults.log } } 18 64 8 1
      exact ⟨_, t, h⟩

theorem Dev.record_frame (d : Dev) (code die core disp unit pasture link info : Nat) :
    ∃ fl t fs o, d.record code die core disp unit pasture link info = { d with faults := fl, errs := t, funcs := fs, out := o } := by
  obtain ⟨l, t, h⟩ := d.faultRoom_frame
  unfold Dev.record
  dsimp only
  rw [h]
  obtain ⟨fs, o, h'⟩ := Dev.signalFault_frame { d with
    faults := { d.faults with
      log := l ++ [{ seq := nextSeq d.faults.lastSeq, code, die, core, disp, unit, pasture, beat := d.beat.now, link, info := info % 2 ^ 80 }]
      lastSeq := nextSeq d.faults.lastSeq }
    errs := t } pasture
  exact ⟨_, t, fs, o, h'⟩

theorem Dev.notice_frame (d : Dev) (code die core pasture info : Nat) :
    ∃ fl t fs o, d.notice code die core pasture info = { d with faults := fl, errs := t, funcs := fs, out := o } :=
  d.record_frame code die core dNotice 0 pasture 0 info

theorem Dev.setDisp_frame (d : Dev) (q disp escto link : Nat) :
    ∃ fl fs o, d.setDisp q disp escto link = { d with faults := fl, funcs := fs, out := o } := by
  unfold Dev.setDisp
  split
  · exact ⟨_, _, _, rfl⟩
  · dsimp only
    split
    · obtain ⟨fs, o, h⟩ := Dev.signalFault_frame (d.modFault q (fun r => { r with disp := disp, escto := escto, link := if link = 0 then r.link else link })) _
      exact ⟨_, fs, o, h⟩
    · exact ⟨_, _, _, rfl⟩

/-- A performance counter's advance may record a wrap (R437, R439). -/
theorem Dev.perfAdd_frame (d : Dev) (die core g i n : Nat) :
    ∃ p fl t fs o, d.perfAdd die core g i n = { d with perf := p, faults := fl, errs := t, funcs := fs, out := o } := by
  unfold Dev.perfAdd
  dsimp only
  split
  · exact ⟨_, _, _, _, _, rfl⟩
  · split
    · obtain ⟨fl, t, fs, o, h⟩ := Dev.notice_frame { d with perf := _ } 0x0060 die core (d.pastureOfDie die) (die + core * 64 + g * 4096)
      exact ⟨_, fl, t, fs, o, h⟩
    · exact ⟨_, _, _, _, _, rfl⟩

/-! Handles (R364 to R369). -/

theorem Dev.newHandle_frame (d : Dev) (f tag : Nat) (w : Work) : ∃ fs hs, (d.newHandle f tag w).2 = { d with funcs := fs, handles := hs } :=
  ⟨_, _, rfl⟩

/-- The sequence that a new handle takes is neither 0 nor that of a handle of the function (R364). -/
theorem seqAfter_fresh (used : List Nat) (fuel s : Nat) (h : ∃ k, k < fuel ∧ (s + 1 + k) % 2 ^ 24 ≠ 0 ∧ (s + 1 + k) % 2 ^ 24 ∉ used) :
    seqAfter used fuel s ≠ 0 ∧ seqAfter used fuel s ∉ used := by
  induction fuel generalizing s with
  | zero => obtain ⟨k, hk, _⟩ := h; omega
  | succ fuel ih =>
    unfold seqAfter
    dsimp only
    split
    · rename_i hc
      obtain ⟨k, hk, h0, hu⟩ := h
      cases k with
      | zero =>
        simp only [Nat.add_zero] at h0 hu
        rw [Bool.or_eq_true, decide_eq_true_eq, List.contains_iff_mem] at hc
        exact absurd hc (not_or.2 ⟨h0, hu⟩)
      | succ k =>
        refine ih _ ⟨k, by omega, ?_, ?_⟩ <;>
          (have : ((s + 1) % 2 ^ 24 + 1 + k) % 2 ^ 24 = (s + 1 + (k + 1)) % 2 ^ 24 := by omega
           rw [this])
        · exact h0
        · exact hu
    · rename_i hc
      simpa using hc

theorem mem_placeCompletion (c : Completion) (l : List Completion) : c ∈ placeCompletion c l := by
  unfold placeCompletion
  split <;> simp

theorem length_placeCompletion (c : Completion) (l : List Completion) : (placeCompletion c l).length = l.length + 1 := by
  unfold placeCompletion
  split
  · simp
  · have := (List.takeWhile_sublist (l := l.reverse)
      (fun e : Completion => e.beat == c.beat && !e.ruled && decide (hSeq c.handle < hSeq e.handle))).length_le
    simp only [List.length_append, List.length_take, List.length_cons, List.length_reverse] at this ⊢
    omega

theorem Dev.finishAt_closed {d : Dev} {h : Nat} (st b : Nat) (res : List Nat) (r : Bool) (hc : d.isOpen h = false) :
    d.finishAt h st b res r = d := by
  simp [Dev.finishAt, hc]

/-- A completion changes the handles and the waiting completions of their functions alone. -/
theorem Dev.finishAt_frame (d : Dev) (h st b : Nat) (res : List Nat) (r : Bool) :
    ∃ fs hs, d.finishAt h st b res r = { d with funcs := fs, handles := hs } := by
  unfold Dev.finishAt
  dsimp only
  repeat' split
  all_goals exact ⟨_, _, rfl⟩

theorem Dev.finish_frame (d : Dev) (h st : Nat) (res : List Nat) : ∃ fs hs, d.finish h st res = { d with funcs := fs, handles := hs } :=
  d.finishAt_frame h st d.beat.now res false

/-! Stacks, scratchpads and activation buffers. -/

/-- A byte of a pen after a write: the byte written inside it, the byte before outside (R199, R203). -/
theorem Dev.mem_penWrite (d : Dev) (p o a : Nat) (bs : List Byte) (h : Mem.wf d.mem = true) :
    Mem.get (d.penWrite p o bs).mem a = if penAddr p o ≤ a ∧ a < penAddr p o + bs.length then (bs[a - penAddr p o]?).getD 0#8 else Mem.get d.mem a :=
  Mem.get_write bs d.mem (penAddr p o) a h

theorem Dev.penWrite_frame (d : Dev) (p o : Nat) (bs : List Byte) : ∃ m w, d.penWrite p o bs = { d with mem := m, poison := w } :=
  ⟨_, _, rfl⟩

theorem Dev.spWrite_frame (d : Dev) (k o : Nat) (bs : List Byte) : ∃ m c, d.spWrite k o bs = { d with spad := m, cores := c } := by
  unfold Dev.spWrite
  dsimp only
  split <;> exact ⟨_, _, rfl⟩

theorem Dev.abWrite_frame (d : Dev) (k z : Nat) (bs : List Byte) : ∃ m, d.abWrite k z bs = { d with abuf := m } := ⟨_, rfl⟩

/-! The step (log entry 1). -/

theorem step_front (i : Instr) (s : State) (rest : List Instr) (h : s.pending = i :: rest) : step s = exec i { s with pending := rest } := by
  unfold step
  rw [h]

theorem step_idle (s : State) (h : s.pending = []) : step s = .next s := by
  unfold step
  rw [h]

end Sys2Proof.Machine
end

