-- ==== Sys2Proof/Laws/State.lean ====
section
/-! SUPPORT. What each named update of the package leaves as it was: one lemma for each field and each update, true by unfolding. -/

namespace Sys2Proof.Machine

open Sys2Proof

/-! The machine. -/

@[simp] theorem State.dev_upd (s : State) (d : Dev) : ({ s with dev := d } : State).dev = d := rfl

@[simp] theorem State.pending_upd (s : State) (d : Dev) : ({ s with dev := d } : State).pending = s.pending := rfl

/-! `Dev.modFunc`. -/

section
variable (d : Dev) (f : Nat) (g : Func → Func)

@[simp] theorem Dev.modFunc_draws : (d.modFunc f g).draws = d.draws := rfl
@[simp] theorem Dev.modFunc_out : (d.modFunc f g).out = d.out := rfl
@[simp] theorem Dev.modFunc_power : (d.modFunc f g).power = d.power := rfl
@[simp] theorem Dev.modFunc_aux : (d.modFunc f g).aux = d.aux := rfl
@[simp] theorem Dev.modFunc_fuses : (d.modFunc f g).fuses = d.fuses := rfl
@[simp] theorem Dev.modFunc_beat : (d.modFunc f g).beat = d.beat := rfl
@[simp] theorem Dev.modFunc_cal : (d.modFunc f g).cal = d.cal := rfl
@[simp] theorem Dev.modFunc_groups : (d.modFunc f g).groups = d.groups := rfl
@[simp] theorem Dev.modFunc_handles : (d.modFunc f g).handles = d.handles := rfl
@[simp] theorem Dev.modFunc_txns : (d.modFunc f g).txns = d.txns := rfl
@[simp] theorem Dev.modFunc_commits : (d.modFunc f g).commits = d.commits := rfl
@[simp] theorem Dev.modFunc_keys : (d.modFunc f g).keys = d.keys := rfl
@[simp] theorem Dev.modFunc_pastures : (d.modFunc f g).pastures = d.pastures := rfl
@[simp] theorem Dev.modFunc_reqs : (d.modFunc f g).reqs = d.reqs := rfl
@[simp] theorem Dev.modFunc_pages : (d.modFunc f g).pages = d.pages := rfl
@[simp] theorem Dev.modFunc_maps : (d.modFunc f g).maps = d.maps := rfl
@[simp] theorem Dev.modFunc_faults : (d.modFunc f g).faults = d.faults := rfl
@[simp] theorem Dev.modFunc_fence : (d.modFunc f g).fence = d.fence := rfl
@[simp] theorem Dev.modFunc_errs : (d.modFunc f g).errs = d.errs := rfl
@[simp] theorem Dev.modFunc_perf : (d.modFunc f g).perf = d.perf := rfl
@[simp] theorem Dev.modFunc_mem : (d.modFunc f g).mem = d.mem := rfl
@[simp] theorem Dev.modFunc_poison : (d.modFunc f g).poison = d.poison := rfl
@[simp] theorem Dev.modFunc_stk : (d.modFunc f g).stk = d.stk := rfl
@[simp] theorem Dev.modFunc_margins : (d.modFunc f g).margins = d.margins := rfl
@[simp] theorem Dev.modFunc_tier : (d.modFunc f g).tier = d.tier := rfl
@[simp] theorem Dev.modFunc_cores : (d.modFunc f g).cores = d.cores := rfl
@[simp] theorem Dev.modFunc_spad : (d.modFunc f g).spad = d.spad := rfl
@[simp] theorem Dev.modFunc_abuf : (d.modFunc f g).abuf = d.abuf := rfl
@[simp] theorem Dev.modFunc_reds : (d.modFunc f g).reds = d.reds := rfl
@[simp] theorem Dev.modFunc_widths : (d.modFunc f g).widths = d.widths := rfl
@[simp] theorem Dev.modFunc_mons : (d.modFunc f g).mons = d.mons := rfl
@[simp] theorem Dev.modFunc_catalog : (d.modFunc f g).catalog = d.catalog := rfl
@[simp] theorem Dev.modFunc_mapver : (d.modFunc f g).mapver = d.mapver := rfl
@[simp] theorem Dev.modFunc_races : (d.modFunc f g).races = d.races := rfl
@[simp] theorem Dev.modFunc_route : (d.modFunc f g).route = d.route := rfl
@[simp] theorem Dev.modFunc_links : (d.modFunc f g).links = d.links := rfl
@[simp] theorem Dev.modFunc_inbox : (d.modFunc f g).inbox = d.inbox := rfl
@[simp] theorem Dev.modFunc_ports : (d.modFunc f g).ports = d.ports := rfl
@[simp] theorem Dev.modFunc_gateHalf : (d.modFunc f g).gateHalf = d.gateHalf := rfl
@[simp] theorem Dev.modFunc_tally : (d.modFunc f g).tally = d.tally := rfl
@[simp] theorem Dev.modFunc_mirror : (d.modFunc f g).mirror = d.mirror := rfl
@[simp] theorem Dev.modFunc_mgmt : (d.modFunc f g).mgmt = d.mgmt := rfl
@[simp] theorem Dev.modFunc_tap : (d.modFunc f g).tap = d.tap := rfl

end

/-! `Dev.modMailbox`. -/

section
variable (d : Dev) (f m : Nat) (g : Mailbox → Mailbox)

@[simp] theorem Dev.modMailbox_draws : (d.modMailbox f m g).draws = d.draws := rfl
@[simp] theorem Dev.modMailbox_out : (d.modMailbox f m g).out = d.out := rfl
@[simp] theorem Dev.modMailbox_power : (d.modMailbox f m g).power = d.power := rfl
@[simp] theorem Dev.modMailbox_aux : (d.modMailbox f m g).aux = d.aux := rfl
@[simp] theorem Dev.modMailbox_fuses : (d.modMailbox f m g).fuses = d.fuses := rfl
@[simp] theorem Dev.modMailbox_beat : (d.modMailbox f m g).beat = d.beat := rfl
@[simp] theorem Dev.modMailbox_cal : (d.modMailbox f m g).cal = d.cal := rfl
@[simp] theorem Dev.modMailbox_groups : (d.modMailbox f m g).groups = d.groups := rfl
@[simp] theorem Dev.modMailbox_handles : (d.modMailbox f m g).handles = d.handles := rfl
@[simp] theorem Dev.modMailbox_txns : (d.modMailbox f m g).txns = d.txns := rfl
@[simp] theorem Dev.modMailbox_commits : (d.modMailbox f m g).commits = d.commits := rfl
@[simp] theorem Dev.modMailbox_keys : (d.modMailbox f m g).keys = d.keys := rfl
@[simp] theorem Dev.modMailbox_pastures : (d.modMailbox f m g).pastures = d.pastures := rfl
@[simp] theorem Dev.modMailbox_reqs : (d.modMailbox f m g).reqs = d.reqs := rfl
@[simp] theorem Dev.modMailbox_pages : (d.modMailbox f m g).pages = d.pages := rfl
@[simp] theorem Dev.modMailbox_maps : (d.modMailbox f m g).maps = d.maps := rfl
@[simp] theorem Dev.modMailbox_faults : (d.modMailbox f m g).faults = d.faults := rfl
@[simp] theorem Dev.modMailbox_fence : (d.modMailbox f m g).fence = d.fence := rfl
@[simp] theorem Dev.modMailbox_errs : (d.modMailbox f m g).errs = d.errs := rfl
@[simp] theorem Dev.modMailbox_perf : (d.modMailbox f m g).perf = d.perf := rfl
@[simp] theorem Dev.modMailbox_mem : (d.modMailbox f m g).mem = d.mem := rfl
@[simp] theorem Dev.modMailbox_poison : (d.modMailbox f m g).poison = d.poison := rfl
@[simp] theorem Dev.modMailbox_stk : (d.modMailbox f m g).stk = d.stk := rfl
@[simp] theorem Dev.modMailbox_margins : (d.modMailbox f m g).margins = d.margins := rfl
@[simp] theorem Dev.modMailbox_tier : (d.modMailbox f m g).tier = d.tier := rfl
@[simp] theorem Dev.modMailbox_cores : (d.modMailbox f m g).cores = d.cores := rfl
@[simp] theorem Dev.modMailbox_spad : (d.modMailbox f m g).spad = d.spad := rfl
@[simp] theorem Dev.modMailbox_abuf : (d.modMailbox f m g).abuf = d.abuf := rfl
@[simp] theorem Dev.modMailbox_reds : (d.modMailbox f m g).reds = d.reds := rfl
@[simp] theorem Dev.modMailbox_widths : (d.modMailbox f m g).widths = d.widths := rfl
@[simp] theorem Dev.modMailbox_mons : (d.modMailbox f m g).mons = d.mons := rfl
@[simp] theorem Dev.modMailbox_catalog : (d.modMailbox f m g).catalog = d.catalog := rfl
@[simp] theorem Dev.modMailbox_mapver : (d.modMailbox f m g).mapver = d.mapver := rfl
@[simp] theorem Dev.modMailbox_races : (d.modMailbox f m g).races = d.races := rfl
@[simp] theorem Dev.modMailbox_route : (d.modMailbox f m g).route = d.route := rfl
@[simp] theorem Dev.modMailbox_links : (d.modMailbox f m g).links = d.links := rfl
@[simp] theorem Dev.modMailbox_inbox : (d.modMailbox f m g).inbox = d.inbox := rfl
@[simp] theorem Dev.modMailbox_ports : (d.modMailbox f m g).ports = d.ports := rfl
@[simp] theorem Dev.modMailbox_gateHalf : (d.modMailbox f m g).gateHalf = d.gateHalf := rfl
@[simp] theorem Dev.modMailbox_tally : (d.modMailbox f m g).tally = d.tally := rfl
@[simp] theorem Dev.modMailbox_mirror : (d.modMailbox f m g).mirror = d.mirror := rfl
@[simp] theorem Dev.modMailbox_mgmt : (d.modMailbox f m g).mgmt = d.mgmt := rfl
@[simp] theorem Dev.modMailbox_tap : (d.modMailbox f m g).tap = d.tap := rfl

end

/-! `Dev.modPasture`. -/

section
variable (d : Dev) (p : Nat) (g : Pasture → Pasture)

@[simp] theorem Dev.modPasture_draws : (d.modPasture p g).draws = d.draws := rfl
@[simp] theorem Dev.modPasture_out : (d.modPasture p g).out = d.out := rfl
@[simp] theorem Dev.modPasture_power : (d.modPasture p g).power = d.power := rfl
@[simp] theorem Dev.modPasture_aux : (d.modPasture p g).aux = d.aux := rfl
@[simp] theorem Dev.modPasture_fuses : (d.modPasture p g).fuses = d.fuses := rfl
@[simp] theorem Dev.modPasture_beat : (d.modPasture p g).beat = d.beat := rfl
@[simp] theorem Dev.modPasture_cal : (d.modPasture p g).cal = d.cal := rfl
@[simp] theorem Dev.modPasture_groups : (d.modPasture p g).groups = d.groups := rfl
@[simp] theorem Dev.modPasture_funcs : (d.modPasture p g).funcs = d.funcs := rfl
@[simp] theorem Dev.modPasture_handles : (d.modPasture p g).handles = d.handles := rfl
@[simp] theorem Dev.modPasture_txns : (d.modPasture p g).txns = d.txns := rfl
@[simp] theorem Dev.modPasture_commits : (d.modPasture p g).commits = d.commits := rfl
@[simp] theorem Dev.modPasture_keys : (d.modPasture p g).keys = d.keys := rfl
@[simp] theorem Dev.modPasture_reqs : (d.modPasture p g).reqs = d.reqs := rfl
@[simp] theorem Dev.modPasture_pages : (d.modPasture p g).pages = d.pages := rfl
@[simp] theorem Dev.modPasture_maps : (d.modPasture p g).maps = d.maps := rfl
@[simp] theorem Dev.modPasture_faults : (d.modPasture p g).faults = d.faults := rfl
@[simp] theorem Dev.modPasture_fence : (d.modPasture p g).fence = d.fence := rfl
@[simp] theorem Dev.modPasture_errs : (d.modPasture p g).errs = d.errs := rfl
@[simp] theorem Dev.modPasture_perf : (d.modPasture p g).perf = d.perf := rfl
@[simp] theorem Dev.modPasture_mem : (d.modPasture p g).mem = d.mem := rfl
@[simp] theorem Dev.modPasture_poison : (d.modPasture p g).poison = d.poison := rfl
@[simp] theorem Dev.modPasture_stk : (d.modPasture p g).stk = d.stk := rfl
@[simp] theorem Dev.modPasture_margins : (d.modPasture p g).margins = d.margins := rfl
@[simp] theorem Dev.modPasture_tier : (d.modPasture p g).tier = d.tier := rfl
@[simp] theorem Dev.modPasture_cores : (d.modPasture p g).cores = d.cores := rfl
@[simp] theorem Dev.modPasture_spad : (d.modPasture p g).spad = d.spad := rfl
@[simp] theorem Dev.modPasture_abuf : (d.modPasture p g).abuf = d.abuf := rfl
@[simp] theorem Dev.modPasture_reds : (d.modPasture p g).reds = d.reds := rfl
@[simp] theorem Dev.modPasture_widths : (d.modPasture p g).widths = d.widths := rfl
@[simp] theorem Dev.modPasture_mons : (d.modPasture p g).mons = d.mons := rfl
@[simp] theorem Dev.modPasture_catalog : (d.modPasture p g).catalog = d.catalog := rfl
@[simp] theorem Dev.modPasture_mapver : (d.modPasture p g).mapver = d.mapver := rfl
@[simp] theorem Dev.modPasture_races : (d.modPasture p g).races = d.races := rfl
@[simp] theorem Dev.modPasture_route : (d.modPasture p g).route = d.route := rfl
@[simp] theorem Dev.modPasture_links : (d.modPasture p g).links = d.links := rfl
@[simp] theorem Dev.modPasture_inbox : (d.modPasture p g).inbox = d.inbox := rfl
@[simp] theorem Dev.modPasture_ports : (d.modPasture p g).ports = d.ports := rfl
@[simp] theorem Dev.modPasture_gateHalf : (d.modPasture p g).gateHalf = d.gateHalf := rfl
@[simp] theorem Dev.modPasture_tally : (d.modPasture p g).tally = d.tally := rfl
@[simp] theorem Dev.modPasture_mirror : (d.modPasture p g).mirror = d.mirror := rfl
@[simp] theorem Dev.modPasture_mgmt : (d.modPasture p g).mgmt = d.mgmt := rfl
@[simp] theorem Dev.modPasture_tap : (d.modPasture p g).tap = d.tap := rfl

end

/-! `Dev.modImage`. -/

section
variable (d : Dev) (p n : Nat) (g : Image → Image)

@[simp] theorem Dev.modImage_draws : (d.modImage p n g).draws = d.draws := rfl
@[simp] theorem Dev.modImage_out : (d.modImage p n g).out = d.out := rfl
@[simp] theorem Dev.modImage_power : (d.modImage p n g).power = d.power := rfl
@[simp] theorem Dev.modImage_aux : (d.modImage p n g).aux = d.aux := rfl
@[simp] theorem Dev.modImage_fuses : (d.modImage p n g).fuses = d.fuses := rfl
@[simp] theorem Dev.modImage_beat : (d.modImage p n g).beat = d.beat := rfl
@[simp] theorem Dev.modImage_cal : (d.modImage p n g).cal = d.cal := rfl
@[simp] theorem Dev.modImage_groups : (d.modImage p n g).groups = d.groups := rfl
@[simp] theorem Dev.modImage_funcs : (d.modImage p n g).funcs = d.funcs := rfl
@[simp] theorem Dev.modImage_handles : (d.modImage p n g).handles = d.handles := rfl
@[simp] theorem Dev.modImage_txns : (d.modImage p n g).txns = d.txns := rfl
@[simp] theorem Dev.modImage_commits : (d.modImage p n g).commits = d.commits := rfl
@[simp] theorem Dev.modImage_keys : (d.modImage p n g).keys = d.keys := rfl
@[simp] theorem Dev.modImage_reqs : (d.modImage p n g).reqs = d.reqs := rfl
@[simp] theorem Dev.modImage_pages : (d.modImage p n g).pages = d.pages := rfl
@[simp] theorem Dev.modImage_maps : (d.modImage p n g).maps = d.maps := rfl
@[simp] theorem Dev.modImage_faults : (d.modImage p n g).faults = d.faults := rfl
@[simp] theorem Dev.modImage_fence : (d.modImage p n g).fence = d.fence := rfl
@[simp] theorem Dev.modImage_errs : (d.modImage p n g).errs = d.errs := rfl
@[simp] theorem Dev.modImage_perf : (d.modImage p n g).perf = d.perf := rfl
@[simp] theorem Dev.modImage_mem : (d.modImage p n g).mem = d.mem := rfl
@[simp] theorem Dev.modImage_poison : (d.modImage p n g).poison = d.poison := rfl
@[simp] theorem Dev.modImage_stk : (d.modImage p n g).stk = d.stk := rfl
@[simp] theorem Dev.modImage_margins : (d.modImage p n g).margins = d.margins := rfl
@[simp] theorem Dev.modImage_tier : (d.modImage p n g).tier = d.tier := rfl
@[simp] theorem Dev.modImage_cores : (d.modImage p n g).cores = d.cores := rfl
@[simp] theorem Dev.modImage_spad : (d.modImage p n g).spad = d.spad := rfl
@[simp] theorem Dev.modImage_abuf : (d.modImage p n g).abuf = d.abuf := rfl
@[simp] theorem Dev.modImage_reds : (d.modImage p n g).reds = d.reds := rfl
@[simp] theorem Dev.modImage_widths : (d.modImage p n g).widths = d.widths := rfl
@[simp] theorem Dev.modImage_mons : (d.modImage p n g).mons = d.mons := rfl
@[simp] theorem Dev.modImage_catalog : (d.modImage p n g).catalog = d.catalog := rfl
@[simp] theorem Dev.modImage_mapver : (d.modImage p n g).mapver = d.mapver := rfl
@[simp] theorem Dev.modImage_races : (d.modImage p n g).races = d.races := rfl
@[simp] theorem Dev.modImage_route : (d.modImage p n g).route = d.route := rfl
@[simp] theorem Dev.modImage_links : (d.modImage p n g).links = d.links := rfl
@[simp] theorem Dev.modImage_inbox : (d.modImage p n g).inbox = d.inbox := rfl
@[simp] theorem Dev.modImage_ports : (d.modImage p n g).ports = d.ports := rfl
@[simp] theorem Dev.modImage_gateHalf : (d.modImage p n g).gateHalf = d.gateHalf := rfl
@[simp] theorem Dev.modImage_tally : (d.modImage p n g).tally = d.tally := rfl
@[simp] theorem Dev.modImage_mirror : (d.modImage p n g).mirror = d.mirror := rfl
@[simp] theorem Dev.modImage_mgmt : (d.modImage p n g).mgmt = d.mgmt := rfl
@[simp] theorem Dev.modImage_tap : (d.modImage p n g).tap = d.tap := rfl

end

/-! `Dev.modPrefix`. -/

section
variable (d : Dev) (p n : Nat) (g : Prefix → Prefix)

@[simp] theorem Dev.modPrefix_draws : (d.modPrefix p n g).draws = d.draws := rfl
@[simp] theorem Dev.modPrefix_out : (d.modPrefix p n g).out = d.out := rfl
@[simp] theorem Dev.modPrefix_power : (d.modPrefix p n g).power = d.power := rfl
@[simp] theorem Dev.modPrefix_aux : (d.modPrefix p n g).aux = d.aux := rfl
@[simp] theorem Dev.modPrefix_fuses : (d.modPrefix p n g).fuses = d.fuses := rfl
@[simp] theorem Dev.modPrefix_beat : (d.modPrefix p n g).beat = d.beat := rfl
@[simp] theorem Dev.modPrefix_cal : (d.modPrefix p n g).cal = d.cal := rfl
@[simp] theorem Dev.modPrefix_groups : (d.modPrefix p n g).groups = d.groups := rfl
@[simp] theorem Dev.modPrefix_funcs : (d.modPrefix p n g).funcs = d.funcs := rfl
@[simp] theorem Dev.modPrefix_handles : (d.modPrefix p n g).handles = d.handles := rfl
@[simp] theorem Dev.modPrefix_txns : (d.modPrefix p n g).txns = d.txns := rfl
@[simp] theorem Dev.modPrefix_commits : (d.modPrefix p n g).commits = d.commits := rfl
@[simp] theorem Dev.modPrefix_keys : (d.modPrefix p n g).keys = d.keys := rfl
@[simp] theorem Dev.modPrefix_reqs : (d.modPrefix p n g).reqs = d.reqs := rfl
@[simp] theorem Dev.modPrefix_pages : (d.modPrefix p n g).pages = d.pages := rfl
@[simp] theorem Dev.modPrefix_maps : (d.modPrefix p n g).maps = d.maps := rfl
@[simp] theorem Dev.modPrefix_faults : (d.modPrefix p n g).faults = d.faults := rfl
@[simp] theorem Dev.modPrefix_fence : (d.modPrefix p n g).fence = d.fence := rfl
@[simp] theorem Dev.modPrefix_errs : (d.modPrefix p n g).errs = d.errs := rfl
@[simp] theorem Dev.modPrefix_perf : (d.modPrefix p n g).perf = d.perf := rfl
@[simp] theorem Dev.modPrefix_mem : (d.modPrefix p n g).mem = d.mem := rfl
@[simp] theorem Dev.modPrefix_poison : (d.modPrefix p n g).poison = d.poison := rfl
@[simp] theorem Dev.modPrefix_stk : (d.modPrefix p n g).stk = d.stk := rfl
@[simp] theorem Dev.modPrefix_margins : (d.modPrefix p n g).margins = d.margins := rfl
@[simp] theorem Dev.modPrefix_tier : (d.modPrefix p n g).tier = d.tier := rfl
@[simp] theorem Dev.modPrefix_cores : (d.modPrefix p n g).cores = d.cores := rfl
@[simp] theorem Dev.modPrefix_spad : (d.modPrefix p n g).spad = d.spad := rfl
@[simp] theorem Dev.modPrefix_abuf : (d.modPrefix p n g).abuf = d.abuf := rfl
@[simp] theorem Dev.modPrefix_reds : (d.modPrefix p n g).reds = d.reds := rfl
@[simp] theorem Dev.modPrefix_widths : (d.modPrefix p n g).widths = d.widths := rfl
@[simp] theorem Dev.modPrefix_mons : (d.modPrefix p n g).mons = d.mons := rfl
@[simp] theorem Dev.modPrefix_catalog : (d.modPrefix p n g).catalog = d.catalog := rfl
@[simp] theorem Dev.modPrefix_mapver : (d.modPrefix p n g).mapver = d.mapver := rfl
@[simp] theorem Dev.modPrefix_races : (d.modPrefix p n g).races = d.races := rfl
@[simp] theorem Dev.modPrefix_route : (d.modPrefix p n g).route = d.route := rfl
@[simp] theorem Dev.modPrefix_links : (d.modPrefix p n g).links = d.links := rfl
@[simp] theorem Dev.modPrefix_inbox : (d.modPrefix p n g).inbox = d.inbox := rfl
@[simp] theorem Dev.modPrefix_ports : (d.modPrefix p n g).ports = d.ports := rfl
@[simp] theorem Dev.modPrefix_gateHalf : (d.modPrefix p n g).gateHalf = d.gateHalf := rfl
@[simp] theorem Dev.modPrefix_tally : (d.modPrefix p n g).tally = d.tally := rfl
@[simp] theorem Dev.modPrefix_mirror : (d.modPrefix p n g).mirror = d.mirror := rfl
@[simp] theorem Dev.modPrefix_mgmt : (d.modPrefix p n g).mgmt = d.mgmt := rfl
@[simp] theorem Dev.modPrefix_tap : (d.modPrefix p n g).tap = d.tap := rfl

end

/-! `Dev.modGroup`. -/

section
variable (d : Dev) (g : Nat) (f : Group → Group)

@[simp] theorem Dev.modGroup_draws : (d.modGroup g f).draws = d.draws := rfl
@[simp] theorem Dev.modGroup_out : (d.modGroup g f).out = d.out := rfl
@[simp] theorem Dev.modGroup_power : (d.modGroup g f).power = d.power := rfl
@[simp] theorem Dev.modGroup_aux : (d.modGroup g f).aux = d.aux := rfl
@[simp] theorem Dev.modGroup_fuses : (d.modGroup g f).fuses = d.fuses := rfl
@[simp] theorem Dev.modGroup_beat : (d.modGroup g f).beat = d.beat := rfl
@[simp] theorem Dev.modGroup_cal : (d.modGroup g f).cal = d.cal := rfl
@[simp] theorem Dev.modGroup_funcs : (d.modGroup g f).funcs = d.funcs := rfl
@[simp] theorem Dev.modGroup_handles : (d.modGroup g f).handles = d.handles := rfl
@[simp] theorem Dev.modGroup_txns : (d.modGroup g f).txns = d.txns := rfl
@[simp] theorem Dev.modGroup_commits : (d.modGroup g f).commits = d.commits := rfl
@[simp] theorem Dev.modGroup_keys : (d.modGroup g f).keys = d.keys := rfl
@[simp] theorem Dev.modGroup_pastures : (d.modGroup g f).pastures = d.pastures := rfl
@[simp] theorem Dev.modGroup_reqs : (d.modGroup g f).reqs = d.reqs := rfl
@[simp] theorem Dev.modGroup_pages : (d.modGroup g f).pages = d.pages := rfl
@[simp] theorem Dev.modGroup_maps : (d.modGroup g f).maps = d.maps := rfl
@[simp] theorem Dev.modGroup_faults : (d.modGroup g f).faults = d.faults := rfl
@[simp] theorem Dev.modGroup_fence : (d.modGroup g f).fence = d.fence := rfl
@[simp] theorem Dev.modGroup_errs : (d.modGroup g f).errs = d.errs := rfl
@[simp] theorem Dev.modGroup_perf : (d.modGroup g f).perf = d.perf := rfl
@[simp] theorem Dev.modGroup_mem : (d.modGroup g f).mem = d.mem := rfl
@[simp] theorem Dev.modGroup_poison : (d.modGroup g f).poison = d.poison := rfl
@[simp] theorem Dev.modGroup_stk : (d.modGroup g f).stk = d.stk := rfl
@[simp] theorem Dev.modGroup_margins : (d.modGroup g f).margins = d.margins := rfl
@[simp] theorem Dev.modGroup_tier : (d.modGroup g f).tier = d.tier := rfl
@[simp] theorem Dev.modGroup_cores : (d.modGroup g f).cores = d.cores := rfl
@[simp] theorem Dev.modGroup_spad : (d.modGroup g f).spad = d.spad := rfl
@[simp] theorem Dev.modGroup_abuf : (d.modGroup g f).abuf = d.abuf := rfl
@[simp] theorem Dev.modGroup_reds : (d.modGroup g f).reds = d.reds := rfl
@[simp] theorem Dev.modGroup_widths : (d.modGroup g f).widths = d.widths := rfl
@[simp] theorem Dev.modGroup_mons : (d.modGroup g f).mons = d.mons := rfl
@[simp] theorem Dev.modGroup_catalog : (d.modGroup g f).catalog = d.catalog := rfl
@[simp] theorem Dev.modGroup_mapver : (d.modGroup g f).mapver = d.mapver := rfl
@[simp] theorem Dev.modGroup_races : (d.modGroup g f).races = d.races := rfl
@[simp] theorem Dev.modGroup_route : (d.modGroup g f).route = d.route := rfl
@[simp] theorem Dev.modGroup_links : (d.modGroup g f).links = d.links := rfl
@[simp] theorem Dev.modGroup_inbox : (d.modGroup g f).inbox = d.inbox := rfl
@[simp] theorem Dev.modGroup_ports : (d.modGroup g f).ports = d.ports := rfl
@[simp] theorem Dev.modGroup_gateHalf : (d.modGroup g f).gateHalf = d.gateHalf := rfl
@[simp] theorem Dev.modGroup_tally : (d.modGroup g f).tally = d.tally := rfl
@[simp] theorem Dev.modGroup_mirror : (d.modGroup g f).mirror = d.mirror := rfl
@[simp] theorem Dev.modGroup_mgmt : (d.modGroup g f).mgmt = d.mgmt := rfl
@[simp] theorem Dev.modGroup_tap : (d.modGroup g f).tap = d.tap := rfl

end

/-! `Dev.modTxn`. -/

section
variable (d : Dev) (h : Nat) (f : Txn → Txn)

@[simp] theorem Dev.modTxn_draws : (d.modTxn h f).draws = d.draws := rfl
@[simp] theorem Dev.modTxn_out : (d.modTxn h f).out = d.out := rfl
@[simp] theorem Dev.modTxn_power : (d.modTxn h f).power = d.power := rfl
@[simp] theorem Dev.modTxn_aux : (d.modTxn h f).aux = d.aux := rfl
@[simp] theorem Dev.modTxn_fuses : (d.modTxn h f).fuses = d.fuses := rfl
@[simp] theorem Dev.modTxn_beat : (d.modTxn h f).beat = d.beat := rfl
@[simp] theorem Dev.modTxn_cal : (d.modTxn h f).cal = d.cal := rfl
@[simp] theorem Dev.modTxn_groups : (d.modTxn h f).groups = d.groups := rfl
@[simp] theorem Dev.modTxn_funcs : (d.modTxn h f).funcs = d.funcs := rfl
@[simp] theorem Dev.modTxn_handles : (d.modTxn h f).handles = d.handles := rfl
@[simp] theorem Dev.modTxn_commits : (d.modTxn h f).commits = d.commits := rfl
@[simp] theorem Dev.modTxn_keys : (d.modTxn h f).keys = d.keys := rfl
@[simp] theorem Dev.modTxn_pastures : (d.modTxn h f).pastures = d.pastures := rfl
@[simp] theorem Dev.modTxn_reqs : (d.modTxn h f).reqs = d.reqs := rfl
@[simp] theorem Dev.modTxn_pages : (d.modTxn h f).pages = d.pages := rfl
@[simp] theorem Dev.modTxn_maps : (d.modTxn h f).maps = d.maps := rfl
@[simp] theorem Dev.modTxn_faults : (d.modTxn h f).faults = d.faults := rfl
@[simp] theorem Dev.modTxn_fence : (d.modTxn h f).fence = d.fence := rfl
@[simp] theorem Dev.modTxn_errs : (d.modTxn h f).errs = d.errs := rfl
@[simp] theorem Dev.modTxn_perf : (d.modTxn h f).perf = d.perf := rfl
@[simp] theorem Dev.modTxn_mem : (d.modTxn h f).mem = d.mem := rfl
@[simp] theorem Dev.modTxn_poison : (d.modTxn h f).poison = d.poison := rfl
@[simp] theorem Dev.modTxn_stk : (d.modTxn h f).stk = d.stk := rfl
@[simp] theorem Dev.modTxn_margins : (d.modTxn h f).margins = d.margins := rfl
@[simp] theorem Dev.modTxn_tier : (d.modTxn h f).tier = d.tier := rfl
@[simp] theorem Dev.modTxn_cores : (d.modTxn h f).cores = d.cores := rfl
@[simp] theorem Dev.modTxn_spad : (d.modTxn h f).spad = d.spad := rfl
@[simp] theorem Dev.modTxn_abuf : (d.modTxn h f).abuf = d.abuf := rfl
@[simp] theorem Dev.modTxn_reds : (d.modTxn h f).reds = d.reds := rfl
@[simp] theorem Dev.modTxn_widths : (d.modTxn h f).widths = d.widths := rfl
@[simp] theorem Dev.modTxn_mons : (d.modTxn h f).mons = d.mons := rfl
@[simp] theorem Dev.modTxn_catalog : (d.modTxn h f).catalog = d.catalog := rfl
@[simp] theorem Dev.modTxn_mapver : (d.modTxn h f).mapver = d.mapver := rfl
@[simp] theorem Dev.modTxn_races : (d.modTxn h f).races = d.races := rfl
@[simp] theorem Dev.modTxn_route : (d.modTxn h f).route = d.route := rfl
@[simp] theorem Dev.modTxn_links : (d.modTxn h f).links = d.links := rfl
@[simp] theorem Dev.modTxn_inbox : (d.modTxn h f).inbox = d.inbox := rfl
@[simp] theorem Dev.modTxn_ports : (d.modTxn h f).ports = d.ports := rfl
@[simp] theorem Dev.modTxn_gateHalf : (d.modTxn h f).gateHalf = d.gateHalf := rfl
@[simp] theorem Dev.modTxn_tally : (d.modTxn h f).tally = d.tally := rfl
@[simp] theorem Dev.modTxn_mirror : (d.modTxn h f).mirror = d.mirror := rfl
@[simp] theorem Dev.modTxn_mgmt : (d.modTxn h f).mgmt = d.mgmt := rfl
@[simp] theorem Dev.modTxn_tap : (d.modTxn h f).tap = d.tap := rfl

end

/-! `Dev.modReq`. -/

section
variable (d : Dev) (h : Nat) (f : Request → Request)

@[simp] theorem Dev.modReq_draws : (d.modReq h f).draws = d.draws := rfl
@[simp] theorem Dev.modReq_out : (d.modReq h f).out = d.out := rfl
@[simp] theorem Dev.modReq_power : (d.modReq h f).power = d.power := rfl
@[simp] theorem Dev.modReq_aux : (d.modReq h f).aux = d.aux := rfl
@[simp] theorem Dev.modReq_fuses : (d.modReq h f).fuses = d.fuses := rfl
@[simp] theorem Dev.modReq_beat : (d.modReq h f).beat = d.beat := rfl
@[simp] theorem Dev.modReq_cal : (d.modReq h f).cal = d.cal := rfl
@[simp] theorem Dev.modReq_groups : (d.modReq h f).groups = d.groups := rfl
@[simp] theorem Dev.modReq_funcs : (d.modReq h f).funcs = d.funcs := rfl
@[simp] theorem Dev.modReq_handles : (d.modReq h f).handles = d.handles := rfl
@[simp] theorem Dev.modReq_txns : (d.modReq h f).txns = d.txns := rfl
@[simp] theorem Dev.modReq_commits : (d.modReq h f).commits = d.commits := rfl
@[simp] theorem Dev.modReq_keys : (d.modReq h f).keys = d.keys := rfl
@[simp] theorem Dev.modReq_pastures : (d.modReq h f).pastures = d.pastures := rfl
@[simp] theorem Dev.modReq_pages : (d.modReq h f).pages = d.pages := rfl
@[simp] theorem Dev.modReq_maps : (d.modReq h f).maps = d.maps := rfl
@[simp] theorem Dev.modReq_faults : (d.modReq h f).faults = d.faults := rfl
@[simp] theorem Dev.modReq_fence : (d.modReq h f).fence = d.fence := rfl
@[simp] theorem Dev.modReq_errs : (d.modReq h f).errs = d.errs := rfl
@[simp] theorem Dev.modReq_perf : (d.modReq h f).perf = d.perf := rfl
@[simp] theorem Dev.modReq_mem : (d.modReq h f).mem = d.mem := rfl
@[simp] theorem Dev.modReq_poison : (d.modReq h f).poison = d.poison := rfl
@[simp] theorem Dev.modReq_stk : (d.modReq h f).stk = d.stk := rfl
@[simp] theorem Dev.modReq_margins : (d.modReq h f).margins = d.margins := rfl
@[simp] theorem Dev.modReq_tier : (d.modReq h f).tier = d.tier := rfl
@[simp] theorem Dev.modReq_cores : (d.modReq h f).cores = d.cores := rfl
@[simp] theorem Dev.modReq_spad : (d.modReq h f).spad = d.spad := rfl
@[simp] theorem Dev.modReq_abuf : (d.modReq h f).abuf = d.abuf := rfl
@[simp] theorem Dev.modReq_reds : (d.modReq h f).reds = d.reds := rfl
@[simp] theorem Dev.modReq_widths : (d.modReq h f).widths = d.widths := rfl
@[simp] theorem Dev.modReq_mons : (d.modReq h f).mons = d.mons := rfl
@[simp] theorem Dev.modReq_catalog : (d.modReq h f).catalog = d.catalog := rfl
@[simp] theorem Dev.modReq_mapver : (d.modReq h f).mapver = d.mapver := rfl
@[simp] theorem Dev.modReq_races : (d.modReq h f).races = d.races := rfl
@[simp] theorem Dev.modReq_route : (d.modReq h f).route = d.route := rfl
@[simp] theorem Dev.modReq_links : (d.modReq h f).links = d.links := rfl
@[simp] theorem Dev.modReq_inbox : (d.modReq h f).inbox = d.inbox := rfl
@[simp] theorem Dev.modReq_ports : (d.modReq h f).ports = d.ports := rfl
@[simp] theorem Dev.modReq_gateHalf : (d.modReq h f).gateHalf = d.gateHalf := rfl
@[simp] theorem Dev.modReq_tally : (d.modReq h f).tally = d.tally := rfl
@[simp] theorem Dev.modReq_mirror : (d.modReq h f).mirror = d.mirror := rfl
@[simp] theorem Dev.modReq_mgmt : (d.modReq h f).mgmt = d.mgmt := rfl
@[simp] theorem Dev.modReq_tap : (d.modReq h f).tap = d.tap := rfl

end

/-! `Dev.modFault`. -/

section
variable (d : Dev) (q : Nat) (f : FaultRec → FaultRec)

@[simp] theorem Dev.modFault_draws : (d.modFault q f).draws = d.draws := rfl
@[simp] theorem Dev.modFault_out : (d.modFault q f).out = d.out := rfl
@[simp] theorem Dev.modFault_power : (d.modFault q f).power = d.power := rfl
@[simp] theorem Dev.modFault_aux : (d.modFault q f).aux = d.aux := rfl
@[simp] theorem Dev.modFault_fuses : (d.modFault q f).fuses = d.fuses := rfl
@[simp] theorem Dev.modFault_beat : (d.modFault q f).beat = d.beat := rfl
@[simp] theorem Dev.modFault_cal : (d.modFault q f).cal = d.cal := rfl
@[simp] theorem Dev.modFault_groups : (d.modFault q f).groups = d.groups := rfl
@[simp] theorem Dev.modFault_funcs : (d.modFault q f).funcs = d.funcs := rfl
@[simp] theorem Dev.modFault_handles : (d.modFault q f).handles = d.handles := rfl
@[simp] theorem Dev.modFault_txns : (d.modFault q f).txns = d.txns := rfl
@[simp] theorem Dev.modFault_commits : (d.modFault q f).commits = d.commits := rfl
@[simp] theorem Dev.modFault_keys : (d.modFault q f).keys = d.keys := rfl
@[simp] theorem Dev.modFault_pastures : (d.modFault q f).pastures = d.pastures := rfl
@[simp] theorem Dev.modFault_reqs : (d.modFault q f).reqs = d.reqs := rfl
@[simp] theorem Dev.modFault_pages : (d.modFault q f).pages = d.pages := rfl
@[simp] theorem Dev.modFault_maps : (d.modFault q f).maps = d.maps := rfl
@[simp] theorem Dev.modFault_fence : (d.modFault q f).fence = d.fence := rfl
@[simp] theorem Dev.modFault_errs : (d.modFault q f).errs = d.errs := rfl
@[simp] theorem Dev.modFault_perf : (d.modFault q f).perf = d.perf := rfl
@[simp] theorem Dev.modFault_mem : (d.modFault q f).mem = d.mem := rfl
@[simp] theorem Dev.modFault_poison : (d.modFault q f).poison = d.poison := rfl
@[simp] theorem Dev.modFault_stk : (d.modFault q f).stk = d.stk := rfl
@[simp] theorem Dev.modFault_margins : (d.modFault q f).margins = d.margins := rfl
@[simp] theorem Dev.modFault_tier : (d.modFault q f).tier = d.tier := rfl
@[simp] theorem Dev.modFault_cores : (d.modFault q f).cores = d.cores := rfl
@[simp] theorem Dev.modFault_spad : (d.modFault q f).spad = d.spad := rfl
@[simp] theorem Dev.modFault_abuf : (d.modFault q f).abuf = d.abuf := rfl
@[simp] theorem Dev.modFault_reds : (d.modFault q f).reds = d.reds := rfl
@[simp] theorem Dev.modFault_widths : (d.modFault q f).widths = d.widths := rfl
@[simp] theorem Dev.modFault_mons : (d.modFault q f).mons = d.mons := rfl
@[simp] theorem Dev.modFault_catalog : (d.modFault q f).catalog = d.catalog := rfl
@[simp] theorem Dev.modFault_mapver : (d.modFault q f).mapver = d.mapver := rfl
@[simp] theorem Dev.modFault_races : (d.modFault q f).races = d.races := rfl
@[simp] theorem Dev.modFault_route : (d.modFault q f).route = d.route := rfl
@[simp] theorem Dev.modFault_links : (d.modFault q f).links = d.links := rfl
@[simp] theorem Dev.modFault_inbox : (d.modFault q f).inbox = d.inbox := rfl
@[simp] theorem Dev.modFault_ports : (d.modFault q f).ports = d.ports := rfl
@[simp] theorem Dev.modFault_gateHalf : (d.modFault q f).gateHalf = d.gateHalf := rfl
@[simp] theorem Dev.modFault_tally : (d.modFault q f).tally = d.tally := rfl
@[simp] theorem Dev.modFault_mirror : (d.modFault q f).mirror = d.mirror := rfl
@[simp] theorem Dev.modFault_mgmt : (d.modFault q f).mgmt = d.mgmt := rfl
@[simp] theorem Dev.modFault_tap : (d.modFault q f).tap = d.tap := rfl

end

/-! `Dev.modPerf`. -/

section
variable (d : Dev) (die core g : Nat) (f : Perf → Perf)

@[simp] theorem Dev.modPerf_draws : (d.modPerf die core g f).draws = d.draws := rfl
@[simp] theorem Dev.modPerf_out : (d.modPerf die core g f).out = d.out := rfl
@[simp] theorem Dev.modPerf_power : (d.modPerf die core g f).power = d.power := rfl
@[simp] theorem Dev.modPerf_aux : (d.modPerf die core g f).aux = d.aux := rfl
@[simp] theorem Dev.modPerf_fuses : (d.modPerf die core g f).fuses = d.fuses := rfl
@[simp] theorem Dev.modPerf_beat : (d.modPerf die core g f).beat = d.beat := rfl
@[simp] theorem Dev.modPerf_cal : (d.modPerf die core g f).cal = d.cal := rfl
@[simp] theorem Dev.modPerf_groups : (d.modPerf die core g f).groups = d.groups := rfl
@[simp] theorem Dev.modPerf_funcs : (d.modPerf die core g f).funcs = d.funcs := rfl
@[simp] theorem Dev.modPerf_handles : (d.modPerf die core g f).handles = d.handles := rfl
@[simp] theorem Dev.modPerf_txns : (d.modPerf die core g f).txns = d.txns := rfl
@[simp] theorem Dev.modPerf_commits : (d.modPerf die core g f).commits = d.commits := rfl
@[simp] theorem Dev.modPerf_keys : (d.modPerf die core g f).keys = d.keys := rfl
@[simp] theorem Dev.modPerf_pastures : (d.modPerf die core g f).pastures = d.pastures := rfl
@[simp] theorem Dev.modPerf_reqs : (d.modPerf die core g f).reqs = d.reqs := rfl
@[simp] theorem Dev.modPerf_pages : (d.modPerf die core g f).pages = d.pages := rfl
@[simp] theorem Dev.modPerf_maps : (d.modPerf die core g f).maps = d.maps := rfl
@[simp] theorem Dev.modPerf_faults : (d.modPerf die core g f).faults = d.faults := rfl
@[simp] theorem Dev.modPerf_fence : (d.modPerf die core g f).fence = d.fence := rfl
@[simp] theorem Dev.modPerf_errs : (d.modPerf die core g f).errs = d.errs := rfl
@[simp] theorem Dev.modPerf_mem : (d.modPerf die core g f).mem = d.mem := rfl
@[simp] theorem Dev.modPerf_poison : (d.modPerf die core g f).poison = d.poison := rfl
@[simp] theorem Dev.modPerf_stk : (d.modPerf die core g f).stk = d.stk := rfl
@[simp] theorem Dev.modPerf_margins : (d.modPerf die core g f).margins = d.margins := rfl
@[simp] theorem Dev.modPerf_tier : (d.modPerf die core g f).tier = d.tier := rfl
@[simp] theorem Dev.modPerf_cores : (d.modPerf die core g f).cores = d.cores := rfl
@[simp] theorem Dev.modPerf_spad : (d.modPerf die core g f).spad = d.spad := rfl
@[simp] theorem Dev.modPerf_abuf : (d.modPerf die core g f).abuf = d.abuf := rfl
@[simp] theorem Dev.modPerf_reds : (d.modPerf die core g f).reds = d.reds := rfl
@[simp] theorem Dev.modPerf_widths : (d.modPerf die core g f).widths = d.widths := rfl
@[simp] theorem Dev.modPerf_mons : (d.modPerf die core g f).mons = d.mons := rfl
@[simp] theorem Dev.modPerf_catalog : (d.modPerf die core g f).catalog = d.catalog := rfl
@[simp] theorem Dev.modPerf_mapver : (d.modPerf die core g f).mapver = d.mapver := rfl
@[simp] theorem Dev.modPerf_races : (d.modPerf die core g f).races = d.races := rfl
@[simp] theorem Dev.modPerf_route : (d.modPerf die core g f).route = d.route := rfl
@[simp] theorem Dev.modPerf_links : (d.modPerf die core g f).links = d.links := rfl
@[simp] theorem Dev.modPerf_inbox : (d.modPerf die core g f).inbox = d.inbox := rfl
@[simp] theorem Dev.modPerf_ports : (d.modPerf die core g f).ports = d.ports := rfl
@[simp] theorem Dev.modPerf_gateHalf : (d.modPerf die core g f).gateHalf = d.gateHalf := rfl
@[simp] theorem Dev.modPerf_tally : (d.modPerf die core g f).tally = d.tally := rfl
@[simp] theorem Dev.modPerf_mirror : (d.modPerf die core g f).mirror = d.mirror := rfl
@[simp] theorem Dev.modPerf_mgmt : (d.modPerf die core g f).mgmt = d.mgmt := rfl
@[simp] theorem Dev.modPerf_tap : (d.modPerf die core g f).tap = d.tap := rfl

end

/-! `Dev.modCore`. -/

section
variable (d : Dev) (k : Nat) (f : Core → Core)

@[simp] theorem Dev.modCore_draws : (d.modCore k f).draws = d.draws := rfl
@[simp] theorem Dev.modCore_out : (d.modCore k f).out = d.out := rfl
@[simp] theorem Dev.modCore_power : (d.modCore k f).power = d.power := rfl
@[simp] theorem Dev.modCore_aux : (d.modCore k f).aux = d.aux := rfl
@[simp] theorem Dev.modCore_fuses : (d.modCore k f).fuses = d.fuses := rfl
@[simp] theorem Dev.modCore_beat : (d.modCore k f).beat = d.beat := rfl
@[simp] theorem Dev.modCore_cal : (d.modCore k f).cal = d.cal := rfl
@[simp] theorem Dev.modCore_groups : (d.modCore k f).groups = d.groups := rfl
@[simp] theorem Dev.modCore_funcs : (d.modCore k f).funcs = d.funcs := rfl
@[simp] theorem Dev.modCore_handles : (d.modCore k f).handles = d.handles := rfl
@[simp] theorem Dev.modCore_txns : (d.modCore k f).txns = d.txns := rfl
@[simp] theorem Dev.modCore_commits : (d.modCore k f).commits = d.commits := rfl
@[simp] theorem Dev.modCore_keys : (d.modCore k f).keys = d.keys := rfl
@[simp] theorem Dev.modCore_pastures : (d.modCore k f).pastures = d.pastures := rfl
@[simp] theorem Dev.modCore_reqs : (d.modCore k f).reqs = d.reqs := rfl
@[simp] theorem Dev.modCore_pages : (d.modCore k f).pages = d.pages := rfl
@[simp] theorem Dev.modCore_maps : (d.modCore k f).maps = d.maps := rfl
@[simp] theorem Dev.modCore_faults : (d.modCore k f).faults = d.faults := rfl
@[simp] theorem Dev.modCore_fence : (d.modCore k f).fence = d.fence := rfl
@[simp] theorem Dev.modCore_errs : (d.modCore k f).errs = d.errs := rfl
@[simp] theorem Dev.modCore_perf : (d.modCore k f).perf = d.perf := rfl
@[simp] theorem Dev.modCore_mem : (d.modCore k f).mem = d.mem := rfl
@[simp] theorem Dev.modCore_poison : (d.modCore k f).poison = d.poison := rfl
@[simp] theorem Dev.modCore_stk : (d.modCore k f).stk = d.stk := rfl
@[simp] theorem Dev.modCore_margins : (d.modCore k f).margins = d.margins := rfl
@[simp] theorem Dev.modCore_tier : (d.modCore k f).tier = d.tier := rfl
@[simp] theorem Dev.modCore_spad : (d.modCore k f).spad = d.spad := rfl
@[simp] theorem Dev.modCore_abuf : (d.modCore k f).abuf = d.abuf := rfl
@[simp] theorem Dev.modCore_reds : (d.modCore k f).reds = d.reds := rfl
@[simp] theorem Dev.modCore_widths : (d.modCore k f).widths = d.widths := rfl
@[simp] theorem Dev.modCore_mons : (d.modCore k f).mons = d.mons := rfl
@[simp] theorem Dev.modCore_catalog : (d.modCore k f).catalog = d.catalog := rfl
@[simp] theorem Dev.modCore_mapver : (d.modCore k f).mapver = d.mapver := rfl
@[simp] theorem Dev.modCore_races : (d.modCore k f).races = d.races := rfl
@[simp] theorem Dev.modCore_route : (d.modCore k f).route = d.route := rfl
@[simp] theorem Dev.modCore_links : (d.modCore k f).links = d.links := rfl
@[simp] theorem Dev.modCore_inbox : (d.modCore k f).inbox = d.inbox := rfl
@[simp] theorem Dev.modCore_ports : (d.modCore k f).ports = d.ports := rfl
@[simp] theorem Dev.modCore_gateHalf : (d.modCore k f).gateHalf = d.gateHalf := rfl
@[simp] theorem Dev.modCore_tally : (d.modCore k f).tally = d.tally := rfl
@[simp] theorem Dev.modCore_mirror : (d.modCore k f).mirror = d.mirror := rfl
@[simp] theorem Dev.modCore_mgmt : (d.modCore k f).mgmt = d.mgmt := rfl
@[simp] theorem Dev.modCore_tap : (d.modCore k f).tap = d.tap := rfl

end

/-! `Dev.modRun`. -/

section
variable (d : Dev) (k : Nat) (f : Run → Run)

@[simp] theorem Dev.modRun_draws : (d.modRun k f).draws = d.draws := rfl
@[simp] theorem Dev.modRun_out : (d.modRun k f).out = d.out := rfl
@[simp] theorem Dev.modRun_power : (d.modRun k f).power = d.power := rfl
@[simp] theorem Dev.modRun_aux : (d.modRun k f).aux = d.aux := rfl
@[simp] theorem Dev.modRun_fuses : (d.modRun k f).fuses = d.fuses := rfl
@[simp] theorem Dev.modRun_beat : (d.modRun k f).beat = d.beat := rfl
@[simp] theorem Dev.modRun_cal : (d.modRun k f).cal = d.cal := rfl
@[simp] theorem Dev.modRun_groups : (d.modRun k f).groups = d.groups := rfl
@[simp] theorem Dev.modRun_funcs : (d.modRun k f).funcs = d.funcs := rfl
@[simp] theorem Dev.modRun_handles : (d.modRun k f).handles = d.handles := rfl
@[simp] theorem Dev.modRun_txns : (d.modRun k f).txns = d.txns := rfl
@[simp] theorem Dev.modRun_commits : (d.modRun k f).commits = d.commits := rfl
@[simp] theorem Dev.modRun_keys : (d.modRun k f).keys = d.keys := rfl
@[simp] theorem Dev.modRun_pastures : (d.modRun k f).pastures = d.pastures := rfl
@[simp] theorem Dev.modRun_reqs : (d.modRun k f).reqs = d.reqs := rfl
@[simp] theorem Dev.modRun_pages : (d.modRun k f).pages = d.pages := rfl
@[simp] theorem Dev.modRun_maps : (d.modRun k f).maps = d.maps := rfl
@[simp] theorem Dev.modRun_faults : (d.modRun k f).faults = d.faults := rfl
@[simp] theorem Dev.modRun_fence : (d.modRun k f).fence = d.fence := rfl
@[simp] theorem Dev.modRun_errs : (d.modRun k f).errs = d.errs := rfl
@[simp] theorem Dev.modRun_perf : (d.modRun k f).perf = d.perf := rfl
@[simp] theorem Dev.modRun_mem : (d.modRun k f).mem = d.mem := rfl
@[simp] theorem Dev.modRun_poison : (d.modRun k f).poison = d.poison := rfl
@[simp] theorem Dev.modRun_stk : (d.modRun k f).stk = d.stk := rfl
@[simp] theorem Dev.modRun_margins : (d.modRun k f).margins = d.margins := rfl
@[simp] theorem Dev.modRun_tier : (d.modRun k f).tier = d.tier := rfl
@[simp] theorem Dev.modRun_spad : (d.modRun k f).spad = d.spad := rfl
@[simp] theorem Dev.modRun_abuf : (d.modRun k f).abuf = d.abuf := rfl
@[simp] theorem Dev.modRun_reds : (d.modRun k f).reds = d.reds := rfl
@[simp] theorem Dev.modRun_widths : (d.modRun k f).widths = d.widths := rfl
@[simp] theorem Dev.modRun_mons : (d.modRun k f).mons = d.mons := rfl
@[simp] theorem Dev.modRun_catalog : (d.modRun k f).catalog = d.catalog := rfl
@[simp] theorem Dev.modRun_mapver : (d.modRun k f).mapver = d.mapver := rfl
@[simp] theorem Dev.modRun_races : (d.modRun k f).races = d.races := rfl
@[simp] theorem Dev.modRun_route : (d.modRun k f).route = d.route := rfl
@[simp] theorem Dev.modRun_links : (d.modRun k f).links = d.links := rfl
@[simp] theorem Dev.modRun_inbox : (d.modRun k f).inbox = d.inbox := rfl
@[simp] theorem Dev.modRun_ports : (d.modRun k f).ports = d.ports := rfl
@[simp] theorem Dev.modRun_gateHalf : (d.modRun k f).gateHalf = d.gateHalf := rfl
@[simp] theorem Dev.modRun_tally : (d.modRun k f).tally = d.tally := rfl
@[simp] theorem Dev.modRun_mirror : (d.modRun k f).mirror = d.mirror := rfl
@[simp] theorem Dev.modRun_mgmt : (d.modRun k f).mgmt = d.mgmt := rfl
@[simp] theorem Dev.modRun_tap : (d.modRun k f).tap = d.tap := rfl

end

/-! `Dev.modRed`. -/

section
variable (d : Dev) (p i : Nat) (f : Inst → Inst)

@[simp] theorem Dev.modRed_draws : (d.modRed p i f).draws = d.draws := rfl
@[simp] theorem Dev.modRed_out : (d.modRed p i f).out = d.out := rfl
@[simp] theorem Dev.modRed_power : (d.modRed p i f).power = d.power := rfl
@[simp] theorem Dev.modRed_aux : (d.modRed p i f).aux = d.aux := rfl
@[simp] theorem Dev.modRed_fuses : (d.modRed p i f).fuses = d.fuses := rfl
@[simp] theorem Dev.modRed_beat : (d.modRed p i f).beat = d.beat := rfl
@[simp] theorem Dev.modRed_cal : (d.modRed p i f).cal = d.cal := rfl
@[simp] theorem Dev.modRed_groups : (d.modRed p i f).groups = d.groups := rfl
@[simp] theorem Dev.modRed_funcs : (d.modRed p i f).funcs = d.funcs := rfl
@[simp] theorem Dev.modRed_handles : (d.modRed p i f).handles = d.handles := rfl
@[simp] theorem Dev.modRed_txns : (d.modRed p i f).txns = d.txns := rfl
@[simp] theorem Dev.modRed_commits : (d.modRed p i f).commits = d.commits := rfl
@[simp] theorem Dev.modRed_keys : (d.modRed p i f).keys = d.keys := rfl
@[simp] theorem Dev.modRed_pastures : (d.modRed p i f).pastures = d.pastures := rfl
@[simp] theorem Dev.modRed_reqs : (d.modRed p i f).reqs = d.reqs := rfl
@[simp] theorem Dev.modRed_pages : (d.modRed p i f).pages = d.pages := rfl
@[simp] theorem Dev.modRed_maps : (d.modRed p i f).maps = d.maps := rfl
@[simp] theorem Dev.modRed_faults : (d.modRed p i f).faults = d.faults := rfl
@[simp] theorem Dev.modRed_fence : (d.modRed p i f).fence = d.fence := rfl
@[simp] theorem Dev.modRed_errs : (d.modRed p i f).errs = d.errs := rfl
@[simp] theorem Dev.modRed_perf : (d.modRed p i f).perf = d.perf := rfl
@[simp] theorem Dev.modRed_mem : (d.modRed p i f).mem = d.mem := rfl
@[simp] theorem Dev.modRed_poison : (d.modRed p i f).poison = d.poison := rfl
@[simp] theorem Dev.modRed_stk : (d.modRed p i f).stk = d.stk := rfl
@[simp] theorem Dev.modRed_margins : (d.modRed p i f).margins = d.margins := rfl
@[simp] theorem Dev.modRed_tier : (d.modRed p i f).tier = d.tier := rfl
@[simp] theorem Dev.modRed_cores : (d.modRed p i f).cores = d.cores := rfl
@[simp] theorem Dev.modRed_spad : (d.modRed p i f).spad = d.spad := rfl
@[simp] theorem Dev.modRed_abuf : (d.modRed p i f).abuf = d.abuf := rfl
@[simp] theorem Dev.modRed_widths : (d.modRed p i f).widths = d.widths := rfl
@[simp] theorem Dev.modRed_mons : (d.modRed p i f).mons = d.mons := rfl
@[simp] theorem Dev.modRed_catalog : (d.modRed p i f).catalog = d.catalog := rfl
@[simp] theorem Dev.modRed_mapver : (d.modRed p i f).mapver = d.mapver := rfl
@[simp] theorem Dev.modRed_races : (d.modRed p i f).races = d.races := rfl
@[simp] theorem Dev.modRed_route : (d.modRed p i f).route = d.route := rfl
@[simp] theorem Dev.modRed_links : (d.modRed p i f).links = d.links := rfl
@[simp] theorem Dev.modRed_inbox : (d.modRed p i f).inbox = d.inbox := rfl
@[simp] theorem Dev.modRed_ports : (d.modRed p i f).ports = d.ports := rfl
@[simp] theorem Dev.modRed_gateHalf : (d.modRed p i f).gateHalf = d.gateHalf := rfl
@[simp] theorem Dev.modRed_tally : (d.modRed p i f).tally = d.tally := rfl
@[simp] theorem Dev.modRed_mirror : (d.modRed p i f).mirror = d.mirror := rfl
@[simp] theorem Dev.modRed_mgmt : (d.modRed p i f).mgmt = d.mgmt := rfl
@[simp] theorem Dev.modRed_tap : (d.modRed p i f).tap = d.tap := rfl

end

/-! `Dev.modPart`. -/

section
variable (d : Dev) (p n i : Nat) (f : Part → Part)

@[simp] theorem Dev.modPart_draws : (d.modPart p n i f).draws = d.draws := rfl
@[simp] theorem Dev.modPart_out : (d.modPart p n i f).out = d.out := rfl
@[simp] theorem Dev.modPart_power : (d.modPart p n i f).power = d.power := rfl
@[simp] theorem Dev.modPart_aux : (d.modPart p n i f).aux = d.aux := rfl
@[simp] theorem Dev.modPart_fuses : (d.modPart p n i f).fuses = d.fuses := rfl
@[simp] theorem Dev.modPart_beat : (d.modPart p n i f).beat = d.beat := rfl
@[simp] theorem Dev.modPart_cal : (d.modPart p n i f).cal = d.cal := rfl
@[simp] theorem Dev.modPart_groups : (d.modPart p n i f).groups = d.groups := rfl
@[simp] theorem Dev.modPart_funcs : (d.modPart p n i f).funcs = d.funcs := rfl
@[simp] theorem Dev.modPart_handles : (d.modPart p n i f).handles = d.handles := rfl
@[simp] theorem Dev.modPart_txns : (d.modPart p n i f).txns = d.txns := rfl
@[simp] theorem Dev.modPart_commits : (d.modPart p n i f).commits = d.commits := rfl
@[simp] theorem Dev.modPart_keys : (d.modPart p n i f).keys = d.keys := rfl
@[simp] theorem Dev.modPart_pastures : (d.modPart p n i f).pastures = d.pastures := rfl
@[simp] theorem Dev.modPart_reqs : (d.modPart p n i f).reqs = d.reqs := rfl
@[simp] theorem Dev.modPart_pages : (d.modPart p n i f).pages = d.pages := rfl
@[simp] theorem Dev.modPart_maps : (d.modPart p n i f).maps = d.maps := rfl
@[simp] theorem Dev.modPart_faults : (d.modPart p n i f).faults = d.faults := rfl
@[simp] theorem Dev.modPart_fence : (d.modPart p n i f).fence = d.fence := rfl
@[simp] theorem Dev.modPart_errs : (d.modPart p n i f).errs = d.errs := rfl
@[simp] theorem Dev.modPart_perf : (d.modPart p n i f).perf = d.perf := rfl
@[simp] theorem Dev.modPart_mem : (d.modPart p n i f).mem = d.mem := rfl
@[simp] theorem Dev.modPart_poison : (d.modPart p n i f).poison = d.poison := rfl
@[simp] theorem Dev.modPart_stk : (d.modPart p n i f).stk = d.stk := rfl
@[simp] theorem Dev.modPart_margins : (d.modPart p n i f).margins = d.margins := rfl
@[simp] theorem Dev.modPart_tier : (d.modPart p n i f).tier = d.tier := rfl
@[simp] theorem Dev.modPart_cores : (d.modPart p n i f).cores = d.cores := rfl
@[simp] theorem Dev.modPart_spad : (d.modPart p n i f).spad = d.spad := rfl
@[simp] theorem Dev.modPart_abuf : (d.modPart p n i f).abuf = d.abuf := rfl
@[simp] theorem Dev.modPart_widths : (d.modPart p n i f).widths = d.widths := rfl
@[simp] theorem Dev.modPart_mons : (d.modPart p n i f).mons = d.mons := rfl
@[simp] theorem Dev.modPart_catalog : (d.modPart p n i f).catalog = d.catalog := rfl
@[simp] theorem Dev.modPart_mapver : (d.modPart p n i f).mapver = d.mapver := rfl
@[simp] theorem Dev.modPart_races : (d.modPart p n i f).races = d.races := rfl
@[simp] theorem Dev.modPart_route : (d.modPart p n i f).route = d.route := rfl
@[simp] theorem Dev.modPart_links : (d.modPart p n i f).links = d.links := rfl
@[simp] theorem Dev.modPart_inbox : (d.modPart p n i f).inbox = d.inbox := rfl
@[simp] theorem Dev.modPart_ports : (d.modPart p n i f).ports = d.ports := rfl
@[simp] theorem Dev.modPart_gateHalf : (d.modPart p n i f).gateHalf = d.gateHalf := rfl
@[simp] theorem Dev.modPart_tally : (d.modPart p n i f).tally = d.tally := rfl
@[simp] theorem Dev.modPart_mirror : (d.modPart p n i f).mirror = d.mirror := rfl
@[simp] theorem Dev.modPart_mgmt : (d.modPart p n i f).mgmt = d.mgmt := rfl
@[simp] theorem Dev.modPart_tap : (d.modPart p n i f).tap = d.tap := rfl

end

/-! `Dev.modRace`. -/

section
variable (d : Dev) (p l : Nat) (f : RaceInst → RaceInst)

@[simp] theorem Dev.modRace_draws : (d.modRace p l f).draws = d.draws := rfl
@[simp] theorem Dev.modRace_out : (d.modRace p l f).out = d.out := rfl
@[simp] theorem Dev.modRace_power : (d.modRace p l f).power = d.power := rfl
@[simp] theorem Dev.modRace_aux : (d.modRace p l f).aux = d.aux := rfl
@[simp] theorem Dev.modRace_fuses : (d.modRace p l f).fuses = d.fuses := rfl
@[simp] theorem Dev.modRace_beat : (d.modRace p l f).beat = d.beat := rfl
@[simp] theorem Dev.modRace_cal : (d.modRace p l f).cal = d.cal := rfl
@[simp] theorem Dev.modRace_groups : (d.modRace p l f).groups = d.groups := rfl
@[simp] theorem Dev.modRace_funcs : (d.modRace p l f).funcs = d.funcs := rfl
@[simp] theorem Dev.modRace_handles : (d.modRace p l f).handles = d.handles := rfl
@[simp] theorem Dev.modRace_txns : (d.modRace p l f).txns = d.txns := rfl
@[simp] theorem Dev.modRace_commits : (d.modRace p l f).commits = d.commits := rfl
@[simp] theorem Dev.modRace_keys : (d.modRace p l f).keys = d.keys := rfl
@[simp] theorem Dev.modRace_pastures : (d.modRace p l f).pastures = d.pastures := rfl
@[simp] theorem Dev.modRace_reqs : (d.modRace p l f).reqs = d.reqs := rfl
@[simp] theorem Dev.modRace_pages : (d.modRace p l f).pages = d.pages := rfl
@[simp] theorem Dev.modRace_maps : (d.modRace p l f).maps = d.maps := rfl
@[simp] theorem Dev.modRace_faults : (d.modRace p l f).faults = d.faults := rfl
@[simp] theorem Dev.modRace_fence : (d.modRace p l f).fence = d.fence := rfl
@[simp] theorem Dev.modRace_errs : (d.modRace p l f).errs = d.errs := rfl
@[simp] theorem Dev.modRace_perf : (d.modRace p l f).perf = d.perf := rfl
@[simp] theorem Dev.modRace_mem : (d.modRace p l f).mem = d.mem := rfl
@[simp] theorem Dev.modRace_poison : (d.modRace p l f).poison = d.poison := rfl
@[simp] theorem Dev.modRace_stk : (d.modRace p l f).stk = d.stk := rfl
@[simp] theorem Dev.modRace_margins : (d.modRace p l f).margins = d.margins := rfl
@[simp] theorem Dev.modRace_tier : (d.modRace p l f).tier = d.tier := rfl
@[simp] theorem Dev.modRace_cores : (d.modRace p l f).cores = d.cores := rfl
@[simp] theorem Dev.modRace_spad : (d.modRace p l f).spad = d.spad := rfl
@[simp] theorem Dev.modRace_abuf : (d.modRace p l f).abuf = d.abuf := rfl
@[simp] theorem Dev.modRace_reds : (d.modRace p l f).reds = d.reds := rfl
@[simp] theorem Dev.modRace_widths : (d.modRace p l f).widths = d.widths := rfl
@[simp] theorem Dev.modRace_mons : (d.modRace p l f).mons = d.mons := rfl
@[simp] theorem Dev.modRace_catalog : (d.modRace p l f).catalog = d.catalog := rfl
@[simp] theorem Dev.modRace_mapver : (d.modRace p l f).mapver = d.mapver := rfl
@[simp] theorem Dev.modRace_route : (d.modRace p l f).route = d.route := rfl
@[simp] theorem Dev.modRace_links : (d.modRace p l f).links = d.links := rfl
@[simp] theorem Dev.modRace_inbox : (d.modRace p l f).inbox = d.inbox := rfl
@[simp] theorem Dev.modRace_ports : (d.modRace p l f).ports = d.ports := rfl
@[simp] theorem Dev.modRace_gateHalf : (d.modRace p l f).gateHalf = d.gateHalf := rfl
@[simp] theorem Dev.modRace_tally : (d.modRace p l f).tally = d.tally := rfl
@[simp] theorem Dev.modRace_mirror : (d.modRace p l f).mirror = d.mirror := rfl
@[simp] theorem Dev.modRace_mgmt : (d.modRace p l f).mgmt = d.mgmt := rfl
@[simp] theorem Dev.modRace_tap : (d.modRace p l f).tap = d.tap := rfl

end

/-! `Dev.modStack`. -/

section
variable (d : Dev) (s : Nat) (f : Stack → Stack)

@[simp] theorem Dev.modStack_draws : (d.modStack s f).draws = d.draws := rfl
@[simp] theorem Dev.modStack_out : (d.modStack s f).out = d.out := rfl
@[simp] theorem Dev.modStack_power : (d.modStack s f).power = d.power := rfl
@[simp] theorem Dev.modStack_aux : (d.modStack s f).aux = d.aux := rfl
@[simp] theorem Dev.modStack_fuses : (d.modStack s f).fuses = d.fuses := rfl
@[simp] theorem Dev.modStack_beat : (d.modStack s f).beat = d.beat := rfl
@[simp] theorem Dev.modStack_cal : (d.modStack s f).cal = d.cal := rfl
@[simp] theorem Dev.modStack_groups : (d.modStack s f).groups = d.groups := rfl
@[simp] theorem Dev.modStack_funcs : (d.modStack s f).funcs = d.funcs := rfl
@[simp] theorem Dev.modStack_handles : (d.modStack s f).handles = d.handles := rfl
@[simp] theorem Dev.modStack_txns : (d.modStack s f).txns = d.txns := rfl
@[simp] theorem Dev.modStack_commits : (d.modStack s f).commits = d.commits := rfl
@[simp] theorem Dev.modStack_keys : (d.modStack s f).keys = d.keys := rfl
@[simp] theorem Dev.modStack_pastures : (d.modStack s f).pastures = d.pastures := rfl
@[simp] theorem Dev.modStack_reqs : (d.modStack s f).reqs = d.reqs := rfl
@[simp] theorem Dev.modStack_pages : (d.modStack s f).pages = d.pages := rfl
@[simp] theorem Dev.modStack_maps : (d.modStack s f).maps = d.maps := rfl
@[simp] theorem Dev.modStack_faults : (d.modStack s f).faults = d.faults := rfl
@[simp] theorem Dev.modStack_fence : (d.modStack s f).fence = d.fence := rfl
@[simp] theorem Dev.modStack_errs : (d.modStack s f).errs = d.errs := rfl
@[simp] theorem Dev.modStack_perf : (d.modStack s f).perf = d.perf := rfl
@[simp] theorem Dev.modStack_mem : (d.modStack s f).mem = d.mem := rfl
@[simp] theorem Dev.modStack_poison : (d.modStack s f).poison = d.poison := rfl
@[simp] theorem Dev.modStack_margins : (d.modStack s f).margins = d.margins := rfl
@[simp] theorem Dev.modStack_tier : (d.modStack s f).tier = d.tier := rfl
@[simp] theorem Dev.modStack_cores : (d.modStack s f).cores = d.cores := rfl
@[simp] theorem Dev.modStack_spad : (d.modStack s f).spad = d.spad := rfl
@[simp] theorem Dev.modStack_abuf : (d.modStack s f).abuf = d.abuf := rfl
@[simp] theorem Dev.modStack_reds : (d.modStack s f).reds = d.reds := rfl
@[simp] theorem Dev.modStack_widths : (d.modStack s f).widths = d.widths := rfl
@[simp] theorem Dev.modStack_mons : (d.modStack s f).mons = d.mons := rfl
@[simp] theorem Dev.modStack_catalog : (d.modStack s f).catalog = d.catalog := rfl
@[simp] theorem Dev.modStack_mapver : (d.modStack s f).mapver = d.mapver := rfl
@[simp] theorem Dev.modStack_races : (d.modStack s f).races = d.races := rfl
@[simp] theorem Dev.modStack_route : (d.modStack s f).route = d.route := rfl
@[simp] theorem Dev.modStack_links : (d.modStack s f).links = d.links := rfl
@[simp] theorem Dev.modStack_inbox : (d.modStack s f).inbox = d.inbox := rfl
@[simp] theorem Dev.modStack_ports : (d.modStack s f).ports = d.ports := rfl
@[simp] theorem Dev.modStack_gateHalf : (d.modStack s f).gateHalf = d.gateHalf := rfl
@[simp] theorem Dev.modStack_tally : (d.modStack s f).tally = d.tally := rfl
@[simp] theorem Dev.modStack_mirror : (d.modStack s f).mirror = d.mirror := rfl
@[simp] theorem Dev.modStack_mgmt : (d.modStack s f).mgmt = d.mgmt := rfl
@[simp] theorem Dev.modStack_tap : (d.modStack s f).tap = d.tap := rfl

end

/-! `Dev.modPc`. -/

section
variable (d : Dev) (s q : Nat) (f : PseudoChannel → PseudoChannel)

@[simp] theorem Dev.modPc_draws : (d.modPc s q f).draws = d.draws := rfl
@[simp] theorem Dev.modPc_out : (d.modPc s q f).out = d.out := rfl
@[simp] theorem Dev.modPc_power : (d.modPc s q f).power = d.power := rfl
@[simp] theorem Dev.modPc_aux : (d.modPc s q f).aux = d.aux := rfl
@[simp] theorem Dev.modPc_fuses : (d.modPc s q f).fuses = d.fuses := rfl
@[simp] theorem Dev.modPc_beat : (d.modPc s q f).beat = d.beat := rfl
@[simp] theorem Dev.modPc_cal : (d.modPc s q f).cal = d.cal := rfl
@[simp] theorem Dev.modPc_groups : (d.modPc s q f).groups = d.groups := rfl
@[simp] theorem Dev.modPc_funcs : (d.modPc s q f).funcs = d.funcs := rfl
@[simp] theorem Dev.modPc_handles : (d.modPc s q f).handles = d.handles := rfl
@[simp] theorem Dev.modPc_txns : (d.modPc s q f).txns = d.txns := rfl
@[simp] theorem Dev.modPc_commits : (d.modPc s q f).commits = d.commits := rfl
@[simp] theorem Dev.modPc_keys : (d.modPc s q f).keys = d.keys := rfl
@[simp] theorem Dev.modPc_pastures : (d.modPc s q f).pastures = d.pastures := rfl
@[simp] theorem Dev.modPc_reqs : (d.modPc s q f).reqs = d.reqs := rfl
@[simp] theorem Dev.modPc_pages : (d.modPc s q f).pages = d.pages := rfl
@[simp] theorem Dev.modPc_maps : (d.modPc s q f).maps = d.maps := rfl
@[simp] theorem Dev.modPc_faults : (d.modPc s q f).faults = d.faults := rfl
@[simp] theorem Dev.modPc_fence : (d.modPc s q f).fence = d.fence := rfl
@[simp] theorem Dev.modPc_errs : (d.modPc s q f).errs = d.errs := rfl
@[simp] theorem Dev.modPc_perf : (d.modPc s q f).perf = d.perf := rfl
@[simp] theorem Dev.modPc_mem : (d.modPc s q f).mem = d.mem := rfl
@[simp] theorem Dev.modPc_poison : (d.modPc s q f).poison = d.poison := rfl
@[simp] theorem Dev.modPc_margins : (d.modPc s q f).margins = d.margins := rfl
@[simp] theorem Dev.modPc_tier : (d.modPc s q f).tier = d.tier := rfl
@[simp] theorem Dev.modPc_cores : (d.modPc s q f).cores = d.cores := rfl
@[simp] theorem Dev.modPc_spad : (d.modPc s q f).spad = d.spad := rfl
@[simp] theorem Dev.modPc_abuf : (d.modPc s q f).abuf = d.abuf := rfl
@[simp] theorem Dev.modPc_reds : (d.modPc s q f).reds = d.reds := rfl
@[simp] theorem Dev.modPc_widths : (d.modPc s q f).widths = d.widths := rfl
@[simp] theorem Dev.modPc_mons : (d.modPc s q f).mons = d.mons := rfl
@[simp] theorem Dev.modPc_catalog : (d.modPc s q f).catalog = d.catalog := rfl
@[simp] theorem Dev.modPc_mapver : (d.modPc s q f).mapver = d.mapver := rfl
@[simp] theorem Dev.modPc_races : (d.modPc s q f).races = d.races := rfl
@[simp] theorem Dev.modPc_route : (d.modPc s q f).route = d.route := rfl
@[simp] theorem Dev.modPc_links : (d.modPc s q f).links = d.links := rfl
@[simp] theorem Dev.modPc_inbox : (d.modPc s q f).inbox = d.inbox := rfl
@[simp] theorem Dev.modPc_ports : (d.modPc s q f).ports = d.ports := rfl
@[simp] theorem Dev.modPc_gateHalf : (d.modPc s q f).gateHalf = d.gateHalf := rfl
@[simp] theorem Dev.modPc_tally : (d.modPc s q f).tally = d.tally := rfl
@[simp] theorem Dev.modPc_mirror : (d.modPc s q f).mirror = d.mirror := rfl
@[simp] theorem Dev.modPc_mgmt : (d.modPc s q f).mgmt = d.mgmt := rfl
@[simp] theorem Dev.modPc_tap : (d.modPc s q f).tap = d.tap := rfl

end

/-! `Dev.modLink`. -/

section
variable (d : Dev) (l : Nat) (f : Link → Link)

@[simp] theorem Dev.modLink_draws : (d.modLink l f).draws = d.draws := rfl
@[simp] theorem Dev.modLink_out : (d.modLink l f).out = d.out := rfl
@[simp] theorem Dev.modLink_power : (d.modLink l f).power = d.power := rfl
@[simp] theorem Dev.modLink_aux : (d.modLink l f).aux = d.aux := rfl
@[simp] theorem Dev.modLink_fuses : (d.modLink l f).fuses = d.fuses := rfl
@[simp] theorem Dev.modLink_beat : (d.modLink l f).beat = d.beat := rfl
@[simp] theorem Dev.modLink_cal : (d.modLink l f).cal = d.cal := rfl
@[simp] theorem Dev.modLink_groups : (d.modLink l f).groups = d.groups := rfl
@[simp] theorem Dev.modLink_funcs : (d.modLink l f).funcs = d.funcs := rfl
@[simp] theorem Dev.modLink_handles : (d.modLink l f).handles = d.handles := rfl
@[simp] theorem Dev.modLink_txns : (d.modLink l f).txns = d.txns := rfl
@[simp] theorem Dev.modLink_commits : (d.modLink l f).commits = d.commits := rfl
@[simp] theorem Dev.modLink_keys : (d.modLink l f).keys = d.keys := rfl
@[simp] theorem Dev.modLink_pastures : (d.modLink l f).pastures = d.pastures := rfl
@[simp] theorem Dev.modLink_reqs : (d.modLink l f).reqs = d.reqs := rfl
@[simp] theorem Dev.modLink_pages : (d.modLink l f).pages = d.pages := rfl
@[simp] theorem Dev.modLink_maps : (d.modLink l f).maps = d.maps := rfl
@[simp] theorem Dev.modLink_faults : (d.modLink l f).faults = d.faults := rfl
@[simp] theorem Dev.modLink_fence : (d.modLink l f).fence = d.fence := rfl
@[simp] theorem Dev.modLink_errs : (d.modLink l f).errs = d.errs := rfl
@[simp] theorem Dev.modLink_perf : (d.modLink l f).perf = d.perf := rfl
@[simp] theorem Dev.modLink_mem : (d.modLink l f).mem = d.mem := rfl
@[simp] theorem Dev.modLink_poison : (d.modLink l f).poison = d.poison := rfl
@[simp] theorem Dev.modLink_stk : (d.modLink l f).stk = d.stk := rfl
@[simp] theorem Dev.modLink_margins : (d.modLink l f).margins = d.margins := rfl
@[simp] theorem Dev.modLink_tier : (d.modLink l f).tier = d.tier := rfl
@[simp] theorem Dev.modLink_cores : (d.modLink l f).cores = d.cores := rfl
@[simp] theorem Dev.modLink_spad : (d.modLink l f).spad = d.spad := rfl
@[simp] theorem Dev.modLink_abuf : (d.modLink l f).abuf = d.abuf := rfl
@[simp] theorem Dev.modLink_reds : (d.modLink l f).reds = d.reds := rfl
@[simp] theorem Dev.modLink_widths : (d.modLink l f).widths = d.widths := rfl
@[simp] theorem Dev.modLink_mons : (d.modLink l f).mons = d.mons := rfl
@[simp] theorem Dev.modLink_catalog : (d.modLink l f).catalog = d.catalog := rfl
@[simp] theorem Dev.modLink_mapver : (d.modLink l f).mapver = d.mapver := rfl
@[simp] theorem Dev.modLink_races : (d.modLink l f).races = d.races := rfl
@[simp] theorem Dev.modLink_route : (d.modLink l f).route = d.route := rfl
@[simp] theorem Dev.modLink_inbox : (d.modLink l f).inbox = d.inbox := rfl
@[simp] theorem Dev.modLink_ports : (d.modLink l f).ports = d.ports := rfl
@[simp] theorem Dev.modLink_gateHalf : (d.modLink l f).gateHalf = d.gateHalf := rfl
@[simp] theorem Dev.modLink_tally : (d.modLink l f).tally = d.tally := rfl
@[simp] theorem Dev.modLink_mirror : (d.modLink l f).mirror = d.mirror := rfl
@[simp] theorem Dev.modLink_mgmt : (d.modLink l f).mgmt = d.mgmt := rfl
@[simp] theorem Dev.modLink_tap : (d.modLink l f).tap = d.tap := rfl

end

/-! `Dev.modPort`. -/

section
variable (d : Dev) (die q : Nat) (f : Port → Port)

@[simp] theorem Dev.modPort_draws : (d.modPort die q f).draws = d.draws := rfl
@[simp] theorem Dev.modPort_out : (d.modPort die q f).out = d.out := rfl
@[simp] theorem Dev.modPort_power : (d.modPort die q f).power = d.power := rfl
@[simp] theorem Dev.modPort_aux : (d.modPort die q f).aux = d.aux := rfl
@[simp] theorem Dev.modPort_fuses : (d.modPort die q f).fuses = d.fuses := rfl
@[simp] theorem Dev.modPort_beat : (d.modPort die q f).beat = d.beat := rfl
@[simp] theorem Dev.modPort_cal : (d.modPort die q f).cal = d.cal := rfl
@[simp] theorem Dev.modPort_groups : (d.modPort die q f).groups = d.groups := rfl
@[simp] theorem Dev.modPort_funcs : (d.modPort die q f).funcs = d.funcs := rfl
@[simp] theorem Dev.modPort_handles : (d.modPort die q f).handles = d.handles := rfl
@[simp] theorem Dev.modPort_txns : (d.modPort die q f).txns = d.txns := rfl
@[simp] theorem Dev.modPort_commits : (d.modPort die q f).commits = d.commits := rfl
@[simp] theorem Dev.modPort_keys : (d.modPort die q f).keys = d.keys := rfl
@[simp] theorem Dev.modPort_pastures : (d.modPort die q f).pastures = d.pastures := rfl
@[simp] theorem Dev.modPort_reqs : (d.modPort die q f).reqs = d.reqs := rfl
@[simp] theorem Dev.modPort_pages : (d.modPort die q f).pages = d.pages := rfl
@[simp] theorem Dev.modPort_maps : (d.modPort die q f).maps = d.maps := rfl
@[simp] theorem Dev.modPort_faults : (d.modPort die q f).faults = d.faults := rfl
@[simp] theorem Dev.modPort_fence : (d.modPort die q f).fence = d.fence := rfl
@[simp] theorem Dev.modPort_errs : (d.modPort die q f).errs = d.errs := rfl
@[simp] theorem Dev.modPort_perf : (d.modPort die q f).perf = d.perf := rfl
@[simp] theorem Dev.modPort_mem : (d.modPort die q f).mem = d.mem := rfl
@[simp] theorem Dev.modPort_poison : (d.modPort die q f).poison = d.poison := rfl
@[simp] theorem Dev.modPort_stk : (d.modPort die q f).stk = d.stk := rfl
@[simp] theorem Dev.modPort_margins : (d.modPort die q f).margins = d.margins := rfl
@[simp] theorem Dev.modPort_tier : (d.modPort die q f).tier = d.tier := rfl
@[simp] theorem Dev.modPort_cores : (d.modPort die q f).cores = d.cores := rfl
@[simp] theorem Dev.modPort_spad : (d.modPort die q f).spad = d.spad := rfl
@[simp] theorem Dev.modPort_abuf : (d.modPort die q f).abuf = d.abuf := rfl
@[simp] theorem Dev.modPort_reds : (d.modPort die q f).reds = d.reds := rfl
@[simp] theorem Dev.modPort_widths : (d.modPort die q f).widths = d.widths := rfl
@[simp] theorem Dev.modPort_mons : (d.modPort die q f).mons = d.mons := rfl
@[simp] theorem Dev.modPort_catalog : (d.modPort die q f).catalog = d.catalog := rfl
@[simp] theorem Dev.modPort_mapver : (d.modPort die q f).mapver = d.mapver := rfl
@[simp] theorem Dev.modPort_races : (d.modPort die q f).races = d.races := rfl
@[simp] theorem Dev.modPort_route : (d.modPort die q f).route = d.route := rfl
@[simp] theorem Dev.modPort_links : (d.modPort die q f).links = d.links := rfl
@[simp] theorem Dev.modPort_inbox : (d.modPort die q f).inbox = d.inbox := rfl
@[simp] theorem Dev.modPort_gateHalf : (d.modPort die q f).gateHalf = d.gateHalf := rfl
@[simp] theorem Dev.modPort_tally : (d.modPort die q f).tally = d.tally := rfl
@[simp] theorem Dev.modPort_mirror : (d.modPort die q f).mirror = d.mirror := rfl
@[simp] theorem Dev.modPort_mgmt : (d.modPort die q f).mgmt = d.mgmt := rfl
@[simp] theorem Dev.modPort_tap : (d.modPort die q f).tap = d.tap := rfl

end

/-! `Dev.modTally`. -/

section
variable (d : Dev) (f : Tally → Tally)

@[simp] theorem Dev.modTally_draws : (d.modTally f).draws = d.draws := rfl
@[simp] theorem Dev.modTally_out : (d.modTally f).out = d.out := rfl
@[simp] theorem Dev.modTally_power : (d.modTally f).power = d.power := rfl
@[simp] theorem Dev.modTally_aux : (d.modTally f).aux = d.aux := rfl
@[simp] theorem Dev.modTally_fuses : (d.modTally f).fuses = d.fuses := rfl
@[simp] theorem Dev.modTally_beat : (d.modTally f).beat = d.beat := rfl
@[simp] theorem Dev.modTally_cal : (d.modTally f).cal = d.cal := rfl
@[simp] theorem Dev.modTally_groups : (d.modTally f).groups = d.groups := rfl
@[simp] theorem Dev.modTally_funcs : (d.modTally f).funcs = d.funcs := rfl
@[simp] theorem Dev.modTally_handles : (d.modTally f).handles = d.handles := rfl
@[simp] theorem Dev.modTally_txns : (d.modTally f).txns = d.txns := rfl
@[simp] theorem Dev.modTally_commits : (d.modTally f).commits = d.commits := rfl
@[simp] theorem Dev.modTally_keys : (d.modTally f).keys = d.keys := rfl
@[simp] theorem Dev.modTally_pastures : (d.modTally f).pastures = d.pastures := rfl
@[simp] theorem Dev.modTally_reqs : (d.modTally f).reqs = d.reqs := rfl
@[simp] theorem Dev.modTally_pages : (d.modTally f).pages = d.pages := rfl
@[simp] theorem Dev.modTally_maps : (d.modTally f).maps = d.maps := rfl
@[simp] theorem Dev.modTally_faults : (d.modTally f).faults = d.faults := rfl
@[simp] theorem Dev.modTally_fence : (d.modTally f).fence = d.fence := rfl
@[simp] theorem Dev.modTally_errs : (d.modTally f).errs = d.errs := rfl
@[simp] theorem Dev.modTally_perf : (d.modTally f).perf = d.perf := rfl
@[simp] theorem Dev.modTally_mem : (d.modTally f).mem = d.mem := rfl
@[simp] theorem Dev.modTally_poison : (d.modTally f).poison = d.poison := rfl
@[simp] theorem Dev.modTally_stk : (d.modTally f).stk = d.stk := rfl
@[simp] theorem Dev.modTally_margins : (d.modTally f).margins = d.margins := rfl
@[simp] theorem Dev.modTally_tier : (d.modTally f).tier = d.tier := rfl
@[simp] theorem Dev.modTally_cores : (d.modTally f).cores = d.cores := rfl
@[simp] theorem Dev.modTally_spad : (d.modTally f).spad = d.spad := rfl
@[simp] theorem Dev.modTally_abuf : (d.modTally f).abuf = d.abuf := rfl
@[simp] theorem Dev.modTally_reds : (d.modTally f).reds = d.reds := rfl
@[simp] theorem Dev.modTally_widths : (d.modTally f).widths = d.widths := rfl
@[simp] theorem Dev.modTally_mons : (d.modTally f).mons = d.mons := rfl
@[simp] theorem Dev.modTally_catalog : (d.modTally f).catalog = d.catalog := rfl
@[simp] theorem Dev.modTally_mapver : (d.modTally f).mapver = d.mapver := rfl
@[simp] theorem Dev.modTally_races : (d.modTally f).races = d.races := rfl
@[simp] theorem Dev.modTally_route : (d.modTally f).route = d.route := rfl
@[simp] theorem Dev.modTally_links : (d.modTally f).links = d.links := rfl
@[simp] theorem Dev.modTally_inbox : (d.modTally f).inbox = d.inbox := rfl
@[simp] theorem Dev.modTally_ports : (d.modTally f).ports = d.ports := rfl
@[simp] theorem Dev.modTally_gateHalf : (d.modTally f).gateHalf = d.gateHalf := rfl
@[simp] theorem Dev.modTally_mirror : (d.modTally f).mirror = d.mirror := rfl
@[simp] theorem Dev.modTally_mgmt : (d.modTally f).mgmt = d.mgmt := rfl
@[simp] theorem Dev.modTally_tap : (d.modTally f).tap = d.tap := rfl

end

/-! `Dev.emit`. -/

section
variable (d : Dev) (o : Out)

@[simp] theorem Dev.emit_draws : (d.emit o).draws = d.draws := rfl
@[simp] theorem Dev.emit_power : (d.emit o).power = d.power := rfl
@[simp] theorem Dev.emit_aux : (d.emit o).aux = d.aux := rfl
@[simp] theorem Dev.emit_fuses : (d.emit o).fuses = d.fuses := rfl
@[simp] theorem Dev.emit_beat : (d.emit o).beat = d.beat := rfl
@[simp] theorem Dev.emit_cal : (d.emit o).cal = d.cal := rfl
@[simp] theorem Dev.emit_groups : (d.emit o).groups = d.groups := rfl
@[simp] theorem Dev.emit_funcs : (d.emit o).funcs = d.funcs := rfl
@[simp] theorem Dev.emit_handles : (d.emit o).handles = d.handles := rfl
@[simp] theorem Dev.emit_txns : (d.emit o).txns = d.txns := rfl
@[simp] theorem Dev.emit_commits : (d.emit o).commits = d.commits := rfl
@[simp] theorem Dev.emit_keys : (d.emit o).keys = d.keys := rfl
@[simp] theorem Dev.emit_pastures : (d.emit o).pastures = d.pastures := rfl
@[simp] theorem Dev.emit_reqs : (d.emit o).reqs = d.reqs := rfl
@[simp] theorem Dev.emit_pages : (d.emit o).pages = d.pages := rfl
@[simp] theorem Dev.emit_maps : (d.emit o).maps = d.maps := rfl
@[simp] theorem Dev.emit_faults : (d.emit o).faults = d.faults := rfl
@[simp] theorem Dev.emit_fence : (d.emit o).fence = d.fence := rfl
@[simp] theorem Dev.emit_errs : (d.emit o).errs = d.errs := rfl
@[simp] theorem Dev.emit_perf : (d.emit o).perf = d.perf := rfl
@[simp] theorem Dev.emit_mem : (d.emit o).mem = d.mem := rfl
@[simp] theorem Dev.emit_poison : (d.emit o).poison = d.poison := rfl
@[simp] theorem Dev.emit_stk : (d.emit o).stk = d.stk := rfl
@[simp] theorem Dev.emit_margins : (d.emit o).margins = d.margins := rfl
@[simp] theorem Dev.emit_tier : (d.emit o).tier = d.tier := rfl
@[simp] theorem Dev.emit_cores : (d.emit o).cores = d.cores := rfl
@[simp] theorem Dev.emit_spad : (d.emit o).spad = d.spad := rfl
@[simp] theorem Dev.emit_abuf : (d.emit o).abuf = d.abuf := rfl
@[simp] theorem Dev.emit_reds : (d.emit o).reds = d.reds := rfl
@[simp] theorem Dev.emit_widths : (d.emit o).widths = d.widths := rfl
@[simp] theorem Dev.emit_mons : (d.emit o).mons = d.mons := rfl
@[simp] theorem Dev.emit_catalog : (d.emit o).catalog = d.catalog := rfl
@[simp] theorem Dev.emit_mapver : (d.emit o).mapver = d.mapver := rfl
@[simp] theorem Dev.emit_races : (d.emit o).races = d.races := rfl
@[simp] theorem Dev.emit_route : (d.emit o).route = d.route := rfl
@[simp] theorem Dev.emit_links : (d.emit o).links = d.links := rfl
@[simp] theorem Dev.emit_inbox : (d.emit o).inbox = d.inbox := rfl
@[simp] theorem Dev.emit_ports : (d.emit o).ports = d.ports := rfl
@[simp] theorem Dev.emit_gateHalf : (d.emit o).gateHalf = d.gateHalf := rfl
@[simp] theorem Dev.emit_tally : (d.emit o).tally = d.tally := rfl
@[simp] theorem Dev.emit_mirror : (d.emit o).mirror = d.mirror := rfl
@[simp] theorem Dev.emit_mgmt : (d.emit o).mgmt = d.mgmt := rfl
@[simp] theorem Dev.emit_tap : (d.emit o).tap = d.tap := rfl

end

/-! `Dev.penWrite`. -/

section
variable (d : Dev) (p o : Nat) (bs : List Byte)

@[simp] theorem Dev.penWrite_draws : (d.penWrite p o bs).draws = d.draws := rfl
@[simp] theorem Dev.penWrite_out : (d.penWrite p o bs).out = d.out := rfl
@[simp] theorem Dev.penWrite_power : (d.penWrite p o bs).power = d.power := rfl
@[simp] theorem Dev.penWrite_aux : (d.penWrite p o bs).aux = d.aux := rfl
@[simp] theorem Dev.penWrite_fuses : (d.penWrite p o bs).fuses = d.fuses := rfl
@[simp] theorem Dev.penWrite_beat : (d.penWrite p o bs).beat = d.beat := rfl
@[simp] theorem Dev.penWrite_cal : (d.penWrite p o bs).cal = d.cal := rfl
@[simp] theorem Dev.penWrite_groups : (d.penWrite p o bs).groups = d.groups := rfl
@[simp] theorem Dev.penWrite_funcs : (d.penWrite p o bs).funcs = d.funcs := rfl
@[simp] theorem Dev.penWrite_handles : (d.penWrite p o bs).handles = d.handles := rfl
@[simp] theorem Dev.penWrite_txns : (d.penWrite p o bs).txns = d.txns := rfl
@[simp] theorem Dev.penWrite_commits : (d.penWrite p o bs).commits = d.commits := rfl
@[simp] theorem Dev.penWrite_keys : (d.penWrite p o bs).keys = d.keys := rfl
@[simp] theorem Dev.penWrite_pastures : (d.penWrite p o bs).pastures = d.pastures := rfl
@[simp] theorem Dev.penWrite_reqs : (d.penWrite p o bs).reqs = d.reqs := rfl
@[simp] theorem Dev.penWrite_pages : (d.penWrite p o bs).pages = d.pages := rfl
@[simp] theorem Dev.penWrite_maps : (d.penWrite p o bs).maps = d.maps := rfl
@[simp] theorem Dev.penWrite_faults : (d.penWrite p o bs).faults = d.faults := rfl
@[simp] theorem Dev.penWrite_fence : (d.penWrite p o bs).fence = d.fence := rfl
@[simp] theorem Dev.penWrite_errs : (d.penWrite p o bs).errs = d.errs := rfl
@[simp] theorem Dev.penWrite_perf : (d.penWrite p o bs).perf = d.perf := rfl
@[simp] theorem Dev.penWrite_stk : (d.penWrite p o bs).stk = d.stk := rfl
@[simp] theorem Dev.penWrite_margins : (d.penWrite p o bs).margins = d.margins := rfl
@[simp] theorem Dev.penWrite_tier : (d.penWrite p o bs).tier = d.tier := rfl
@[simp] theorem Dev.penWrite_cores : (d.penWrite p o bs).cores = d.cores := rfl
@[simp] theorem Dev.penWrite_spad : (d.penWrite p o bs).spad = d.spad := rfl
@[simp] theorem Dev.penWrite_abuf : (d.penWrite p o bs).abuf = d.abuf := rfl
@[simp] theorem Dev.penWrite_reds : (d.penWrite p o bs).reds = d.reds := rfl
@[simp] theorem Dev.penWrite_widths : (d.penWrite p o bs).widths = d.widths := rfl
@[simp] theorem Dev.penWrite_mons : (d.penWrite p o bs).mons = d.mons := rfl
@[simp] theorem Dev.penWrite_catalog : (d.penWrite p o bs).catalog = d.catalog := rfl
@[simp] theorem Dev.penWrite_mapver : (d.penWrite p o bs).mapver = d.mapver := rfl
@[simp] theorem Dev.penWrite_races : (d.penWrite p o bs).races = d.races := rfl
@[simp] theorem Dev.penWrite_route : (d.penWrite p o bs).route = d.route := rfl
@[simp] theorem Dev.penWrite_links : (d.penWrite p o bs).links = d.links := rfl
@[simp] theorem Dev.penWrite_inbox : (d.penWrite p o bs).inbox = d.inbox := rfl
@[simp] theorem Dev.penWrite_ports : (d.penWrite p o bs).ports = d.ports := rfl
@[simp] theorem Dev.penWrite_gateHalf : (d.penWrite p o bs).gateHalf = d.gateHalf := rfl
@[simp] theorem Dev.penWrite_tally : (d.penWrite p o bs).tally = d.tally := rfl
@[simp] theorem Dev.penWrite_mirror : (d.penWrite p o bs).mirror = d.mirror := rfl
@[simp] theorem Dev.penWrite_mgmt : (d.penWrite p o bs).mgmt = d.mgmt := rfl
@[simp] theorem Dev.penWrite_tap : (d.penWrite p o bs).tap = d.tap := rfl

end

/-! `Dev.spWrite`. -/

section
variable (d : Dev) (k o : Nat) (bs : List Byte)

@[simp] theorem Dev.spWrite_draws : (d.spWrite k o bs).draws = d.draws := by
  simp only [Dev.spWrite]; split <;> rfl
@[simp] theorem Dev.spWrite_out : (d.spWrite k o bs).out = d.out := by
  simp only [Dev.spWrite]; split <;> rfl
@[simp] theorem Dev.spWrite_power : (d.spWrite k o bs).power = d.power := by
  simp only [Dev.spWrite]; split <;> rfl
@[simp] theorem Dev.spWrite_aux : (d.spWrite k o bs).aux = d.aux := by
  simp only [Dev.spWrite]; split <;> rfl
@[simp] theorem Dev.spWrite_fuses : (d.spWrite k o bs).fuses = d.fuses := by
  simp only [Dev.spWrite]; split <;> rfl
@[simp] theorem Dev.spWrite_beat : (d.spWrite k o bs).beat = d.beat := by
  simp only [Dev.spWrite]; split <;> rfl
@[simp] theorem Dev.spWrite_cal : (d.spWrite k o bs).cal = d.cal := by
  simp only [Dev.spWrite]; split <;> rfl
@[simp] theorem Dev.spWrite_groups : (d.spWrite k o bs).groups = d.groups := by
  simp only [Dev.spWrite]; split <;> rfl
@[simp] theorem Dev.spWrite_funcs : (d.spWrite k o bs).funcs = d.funcs := by
  simp only [Dev.spWrite]; split <;> rfl
@[simp] theorem Dev.spWrite_handles : (d.spWrite k o bs).handles = d.handles := by
  simp only [Dev.spWrite]; split <;> rfl
@[simp] theorem Dev.spWrite_txns : (d.spWrite k o bs).txns = d.txns := by
  simp only [Dev.spWrite]; split <;> rfl
@[simp] theorem Dev.spWrite_commits : (d.spWrite k o bs).commits = d.commits := by
  simp only [Dev.spWrite]; split <;> rfl
@[simp] theorem Dev.spWrite_keys : (d.spWrite k o bs).keys = d.keys := by
  simp only [Dev.spWrite]; split <;> rfl
@[simp] theorem Dev.spWrite_pastures : (d.spWrite k o bs).pastures = d.pastures := by
  simp only [Dev.spWrite]; split <;> rfl
@[simp] theorem Dev.spWrite_reqs : (d.spWrite k o bs).reqs = d.reqs := by
  simp only [Dev.spWrite]; split <;> rfl
@[simp] theorem Dev.spWrite_pages : (d.spWrite k o bs).pages = d.pages := by
  simp only [Dev.spWrite]; split <;> rfl
@[simp] theorem Dev.spWrite_maps : (d.spWrite k o bs).maps = d.maps := by
  simp only [Dev.spWrite]; split <;> rfl
@[simp] theorem Dev.spWrite_faults : (d.spWrite k o bs).faults = d.faults := by
  simp only [Dev.spWrite]; split <;> rfl
@[simp] theorem Dev.spWrite_fence : (d.spWrite k o bs).fence = d.fence := by
  simp only [Dev.spWrite]; split <;> rfl
@[simp] theorem Dev.spWrite_errs : (d.spWrite k o bs).errs = d.errs := by
  simp only [Dev.spWrite]; split <;> rfl
@[simp] theorem Dev.spWrite_perf : (d.spWrite k o bs).perf = d.perf := by
  simp only [Dev.spWrite]; split <;> rfl
@[simp] theorem Dev.spWrite_mem : (d.spWrite k o bs).mem = d.mem := by
  simp only [Dev.spWrite]; split <;> rfl
@[simp] theorem Dev.spWrite_poison : (d.spWrite k o bs).poison = d.poison := by
  simp only [Dev.spWrite]; split <;> rfl
@[simp] theorem Dev.spWrite_stk : (d.spWrite k o bs).stk = d.stk := by
  simp only [Dev.spWrite]; split <;> rfl
@[simp] theorem Dev.spWrite_margins : (d.spWrite k o bs).margins = d.margins := by
  simp only [Dev.spWrite]; split <;> rfl
@[simp] theorem Dev.spWrite_tier : (d.spWrite k o bs).tier = d.tier := by
  simp only [Dev.spWrite]; split <;> rfl
@[simp] theorem Dev.spWrite_abuf : (d.spWrite k o bs).abuf = d.abuf := by
  simp only [Dev.spWrite]; split <;> rfl
@[simp] theorem Dev.spWrite_reds : (d.spWrite k o bs).reds = d.reds := by
  simp only [Dev.spWrite]; split <;> rfl
@[simp] theorem Dev.spWrite_widths : (d.spWrite k o bs).widths = d.widths := by
  simp only [Dev.spWrite]; split <;> rfl
@[simp] theorem Dev.spWrite_mons : (d.spWrite k o bs).mons = d.mons := by
  simp only [Dev.spWrite]; split <;> rfl
@[simp] theorem Dev.spWrite_catalog : (d.spWrite k o bs).catalog = d.catalog := by
  simp only [Dev.spWrite]; split <;> rfl
@[simp] theorem Dev.spWrite_mapver : (d.spWrite k o bs).mapver = d.mapver := by
  simp only [Dev.spWrite]; split <;> rfl
@[simp] theorem Dev.spWrite_races : (d.spWrite k o bs).races = d.races := by
  simp only [Dev.spWrite]; split <;> rfl
@[simp] theorem Dev.spWrite_route : (d.spWrite k o bs).route = d.route := by
  simp only [Dev.spWrite]; split <;> rfl
@[simp] theorem Dev.spWrite_links : (d.spWrite k o bs).links = d.links := by
  simp only [Dev.spWrite]; split <;> rfl
@[simp] theorem Dev.spWrite_inbox : (d.spWrite k o bs).inbox = d.inbox := by
  simp only [Dev.spWrite]; split <;> rfl
@[simp] theorem Dev.spWrite_ports : (d.spWrite k o bs).ports = d.ports := by
  simp only [Dev.spWrite]; split <;> rfl
@[simp] theorem Dev.spWrite_gateHalf : (d.spWrite k o bs).gateHalf = d.gateHalf := by
  simp only [Dev.spWrite]; split <;> rfl
@[simp] theorem Dev.spWrite_tally : (d.spWrite k o bs).tally = d.tally := by
  simp only [Dev.spWrite]; split <;> rfl
@[simp] theorem Dev.spWrite_mirror : (d.spWrite k o bs).mirror = d.mirror := by
  simp only [Dev.spWrite]; split <;> rfl
@[simp] theorem Dev.spWrite_mgmt : (d.spWrite k o bs).mgmt = d.mgmt := by
  simp only [Dev.spWrite]; split <;> rfl
@[simp] theorem Dev.spWrite_tap : (d.spWrite k o bs).tap = d.tap := by
  simp only [Dev.spWrite]; split <;> rfl

end

/-! `Dev.abWrite`. -/

section
variable (d : Dev) (k z : Nat) (bs : List Byte)

@[simp] theorem Dev.abWrite_draws : (d.abWrite k z bs).draws = d.draws := rfl
@[simp] theorem Dev.abWrite_out : (d.abWrite k z bs).out = d.out := rfl
@[simp] theorem Dev.abWrite_power : (d.abWrite k z bs).power = d.power := rfl
@[simp] theorem Dev.abWrite_aux : (d.abWrite k z bs).aux = d.aux := rfl
@[simp] theorem Dev.abWrite_fuses : (d.abWrite k z bs).fuses = d.fuses := rfl
@[simp] theorem Dev.abWrite_beat : (d.abWrite k z bs).beat = d.beat := rfl
@[simp] theorem Dev.abWrite_cal : (d.abWrite k z bs).cal = d.cal := rfl
@[simp] theorem Dev.abWrite_groups : (d.abWrite k z bs).groups = d.groups := rfl
@[simp] theorem Dev.abWrite_funcs : (d.abWrite k z bs).funcs = d.funcs := rfl
@[simp] theorem Dev.abWrite_handles : (d.abWrite k z bs).handles = d.handles := rfl
@[simp] theorem Dev.abWrite_txns : (d.abWrite k z bs).txns = d.txns := rfl
@[simp] theorem Dev.abWrite_commits : (d.abWrite k z bs).commits = d.commits := rfl
@[simp] theorem Dev.abWrite_keys : (d.abWrite k z bs).keys = d.keys := rfl
@[simp] theorem Dev.abWrite_pastures : (d.abWrite k z bs).pastures = d.pastures := rfl
@[simp] theorem Dev.abWrite_reqs : (d.abWrite k z bs).reqs = d.reqs := rfl
@[simp] theorem Dev.abWrite_pages : (d.abWrite k z bs).pages = d.pages := rfl
@[simp] theorem Dev.abWrite_maps : (d.abWrite k z bs).maps = d.maps := rfl
@[simp] theorem Dev.abWrite_faults : (d.abWrite k z bs).faults = d.faults := rfl
@[simp] theorem Dev.abWrite_fence : (d.abWrite k z bs).fence = d.fence := rfl
@[simp] theorem Dev.abWrite_errs : (d.abWrite k z bs).errs = d.errs := rfl
@[simp] theorem Dev.abWrite_perf : (d.abWrite k z bs).perf = d.perf := rfl
@[simp] theorem Dev.abWrite_mem : (d.abWrite k z bs).mem = d.mem := rfl
@[simp] theorem Dev.abWrite_poison : (d.abWrite k z bs).poison = d.poison := rfl
@[simp] theorem Dev.abWrite_stk : (d.abWrite k z bs).stk = d.stk := rfl
@[simp] theorem Dev.abWrite_margins : (d.abWrite k z bs).margins = d.margins := rfl
@[simp] theorem Dev.abWrite_tier : (d.abWrite k z bs).tier = d.tier := rfl
@[simp] theorem Dev.abWrite_cores : (d.abWrite k z bs).cores = d.cores := rfl
@[simp] theorem Dev.abWrite_spad : (d.abWrite k z bs).spad = d.spad := rfl
@[simp] theorem Dev.abWrite_reds : (d.abWrite k z bs).reds = d.reds := rfl
@[simp] theorem Dev.abWrite_widths : (d.abWrite k z bs).widths = d.widths := rfl
@[simp] theorem Dev.abWrite_mons : (d.abWrite k z bs).mons = d.mons := rfl
@[simp] theorem Dev.abWrite_catalog : (d.abWrite k z bs).catalog = d.catalog := rfl
@[simp] theorem Dev.abWrite_mapver : (d.abWrite k z bs).mapver = d.mapver := rfl
@[simp] theorem Dev.abWrite_races : (d.abWrite k z bs).races = d.races := rfl
@[simp] theorem Dev.abWrite_route : (d.abWrite k z bs).route = d.route := rfl
@[simp] theorem Dev.abWrite_links : (d.abWrite k z bs).links = d.links := rfl
@[simp] theorem Dev.abWrite_inbox : (d.abWrite k z bs).inbox = d.inbox := rfl
@[simp] theorem Dev.abWrite_ports : (d.abWrite k z bs).ports = d.ports := rfl
@[simp] theorem Dev.abWrite_gateHalf : (d.abWrite k z bs).gateHalf = d.gateHalf := rfl
@[simp] theorem Dev.abWrite_tally : (d.abWrite k z bs).tally = d.tally := rfl
@[simp] theorem Dev.abWrite_mirror : (d.abWrite k z bs).mirror = d.mirror := rfl
@[simp] theorem Dev.abWrite_mgmt : (d.abWrite k z bs).mgmt = d.mgmt := rfl
@[simp] theorem Dev.abWrite_tap : (d.abWrite k z bs).tap = d.tap := rfl

end

end Sys2Proof.Machine
end

