-- ==== Sys2Proof/Laws/Stile.lean ====
section
/-! SUPPORT. Byte strings of numbers, the CRC-32, and what a flit made by `mkFlit` shows to its receiver (R264, R265). -/

namespace Sys2Proof.Machine

open Sys2Proof

@[simp] theorem leBytes_length (n k : Nat) : (leBytes n k).length = k := by
  induction k generalizing n with
  | zero => rfl
  | succ k ih => simp [leBytes, ih]

/-- The bytes of a number give it back. -/
theorem leNat_leBytes (n k : Nat) (h : n < 256 ^ k) : leNat (leBytes n k) = n := by
  induction k generalizing n with
  | zero => simp [leBytes, leNat]; omega
  | succ k ih =>
    have : n / 256 < 256 ^ k := by
      rw [Nat.pow_succ] at h
      exact Nat.div_lt_of_lt_mul (by omega)
    simp [leBytes, leNat, ih _ this, BitVec.toNat_ofNat]
    omega

theorem padTo_length (bs : List Byte) (n : Nat) : (padTo bs n).length = n := by
  simp [padTo, List.length_take]
  omega

theorem crcBit_lt {r : Nat} (h : r < 2 ^ 32) : crcBit r < 2 ^ 32 := by
  unfold crcBit
  split
  · exact Nat.xor_lt_two_pow (by omega) (by decide)
  · omega

theorem crcByte_lt {r : Nat} (b : Byte) (h : r < 2 ^ 32) : crcByte r b < 2 ^ 32 := by
  have h0 : r ^^^ b.toNat < 2 ^ 32 := Nat.xor_lt_two_pow h (by have := b.isLt; omega)
  unfold crcByte
  generalize r ^^^ b.toNat = x at h0
  suffices ∀ n, Nat.repeat crcBit n x < 2 ^ 32 from this 8
  intro n
  induction n with
  | zero => exact h0
  | succ n ih => exact crcBit_lt ih

theorem crc32_lt (bs : List Byte) : crc32 bs < 2 ^ 32 := by
  have : ∀ (bs : List Byte) (r : Nat), r < 2 ^ 32 → bs.foldl crcByte r < 2 ^ 32 := by
    intro bs
    induction bs with
    | nil => exact fun r h => h
    | cons b bs ih => exact fun r h => ih _ (crcByte_lt b h)
  exact Nat.xor_lt_two_pow (this bs _ (by decide)) (by decide)

/-- The first 258 bytes of a flit. -/
def flitFirst (seq vc ftype : Nat) (body : List Byte) : List Byte :=
  padTo body 256 ++ [BitVec.ofNat 8 (vc + 16 * ftype), BitVec.ofNat 8 seq]

theorem flitFirst_length (seq vc ftype : Nat) (body : List Byte) : (flitFirst seq vc ftype body).length = 258 := by
  simp [flitFirst, padTo_length]

theorem mkFlit_eq (seq vc ftype : Nat) (body : List Byte) :
    mkFlit seq vc ftype body = flitFirst seq vc ftype body ++ leBytes (flitCrc seq (flitFirst seq vc ftype body)) 4 := rfl

@[simp] theorem mkFlit_length (seq vc ftype : Nat) (body : List Byte) : (mkFlit seq vc ftype body).length = 262 := by
  simp [mkFlit_eq, flitFirst_length]

/-- A flit passes its own check (R265). -/
theorem mkFlit_crc (seq vc ftype : Nat) (body : List Byte) :
    rdLE (mkFlit seq vc ftype body) 258 4 = flitCrc seq ((mkFlit seq vc ftype body).take 258) := by
  have h := flitFirst_length seq vc ftype body
  simp only [rdLE, slice, mkFlit_eq]
  rw [List.drop_left' h, List.take_left' h, List.take_of_length_le (by simp)]
  exact leNat_leBytes _ 4 (by simpa [flitCrc] using crc32_lt _)

end Sys2Proof.Machine
end

