-- ==== Sys2Proof/Laws/Tier.lean ====
section
/-! SUPPORT. Where the Drover finds a place in tier 2, and where it finds none (R217, R218). -/

namespace Sys2Proof.Machine

open Sys2Proof

/-- Port 1 takes the first object where port 0 is down and port 1 is empty and large enough. -/
theorem Dev.tierPlace_one {d : Dev} {n : Nat} (h : d.tierHeld 1 = []) (h0 : (d.tierPort 0).up = false)
    (h1 : (d.tierPort 1).up = true) (hc : wholeTransfers n ≤ (d.tierPort 1).cap) : d.tierPlace n = some (1, 0) := by
  simp [Dev.tierPlace, List.range_succ, h, h0, h1, hc]

/-- Nothing is placed where no port that is up has room for what it holds already. -/
theorem Dev.tierPlace_none {d : Dev} {n : Nat} (h : ∀ p < 2, (d.tierPort p).up = true →
    (d.tierPort p).cap < ((d.tierHeld p).map (fun x => wholeTransfers x.2)).sum) : d.tierPlace n = none := by
  simp only [Dev.tierPlace, List.findSome?_eq_none_iff, List.mem_range]
  intro p hp
  have := h p hp
  rw [if_neg]
  simp only [Bool.and_eq_true, decide_eq_true_eq]
  rintro ⟨h1, h2⟩
  have := h p hp h1
  omega

end Sys2Proof.Machine
end

