-- ==== Sys2Proof/Machine/Lands.lean ====
section
/-! DEFINITION. The land field and the levels of the package's outputs (R472, R475 to R478, R484, R487). -/

namespace Sys2Proof.Machine

open Sys2Proof

/-- The quadrants of the land field (R475). -/
inductive Quadrant where
  | n | e | s | w
  deriving DecidableEq, Repr

/-- The letter of a quadrant. -/
def Quadrant.letter : Quadrant → Char
  | .n => 'N'
  | .e => 'E'
  | .s => 'S'
  | .w => 'W'

/-- A land stands at local row `i` and local column `j` of a quadrant (R475). -/
def landExists (i j : Nat) : Bool := i < 80 && j < 80 && !(64 ≤ i && 64 ≤ j)

/-- Grid position (x, y) of the land at row `i` and column `j` of a quadrant (R475). -/
def landGrid (q : Quadrant) (i j : Nat) : Nat × Nat :=
  match q with
  | .n => (159 - j, i)
  | .e => (159 - i, 159 - j)
  | .s => (j, 159 - i)
  | .w => (i, j)

/-- Number of the land at row `i` and column `j` (R475). -/
def landNumber (i j : Nat) : Nat := if i < 64 then 80 * i + j + 1 else 5121 + 64 * (i - 64) + j

/-- Distances of grid position `n` from the west or north edge, in µm (R475). -/
def landMicrons (n : Nat) : Nat := 3575 + 1150 * n

/-- What a land is assigned to (R476 to R478). -/
inductive Land where
  | vin48 | vaux | reserved | gnd
  /-- A leg of differential pair `m` -/
  | pair (m : Nat) (negative : Bool)
  /-- Single-ended signal `n` of quadrant S -/
  | single (n : Nat)
  deriving DecidableEq, Repr

/-- Differential pairs of a quadrant (R476 to R478). -/
def pairsOf : Quadrant → Nat
  | .s => 100
  | _ => 264

/-- Row and columns of the two legs of pair `m` (R477). -/
def pairLands (m : Nat) : Nat × Nat × Nat := (1 + 3 * (m / 26), 1 + 3 * (m % 26), 2 + 3 * (m % 26))

/-- The assignment of the land at row `i` and column `j` (R476 to R478). -/
def landOf (q : Quadrant) (i j : Nat) : Land :=
  if 56 ≤ i && i ≤ 63 && 56 ≤ j && j ≤ 63 then .vin48
  else if q == .s && i == 55 && 56 ≤ j && j ≤ 63 then .vaux
  else if i == 64 && 48 ≤ j && j ≤ 63 then .reserved
  else if q == .s && i == 16 && j % 2 == 0 && j / 2 < 39 then .single (j / 2)
  else
    let m := i / 3 * 26 + j / 3
    if i % 3 == 1 && (j % 3 == 1 || j % 3 == 2) && j / 3 < 26 && m < pairsOf q then .pair m (j % 3 == 2) else .gnd

/-- Quadrant and pair of physical lane `lane` of link `l`, transmitting or receiving (R477). -/
def stilePair (l lane : Nat) (receive : Bool) : Quadrant × Nat :=
  (if l < 2 then .w else if l < 4 then .n else .e, 132 * (l % 2) + 66 * receive.toNat + lane)

/-- Centre of die `v` of the mesh, in µm from the west and north edges (R15, R487). -/
def dieCentre (v : Nat) : Nat × Nat := (95000 + 21000 * (v % 8) - 73500, 95000 + 24000 * (v / 8) - 48000)

/-- Centre of stack `s`, in µm from the west and north edges of the 190 mm substrate (R487, R489). -/
def stackCentre (s : Nat) : Nat × Nat :=
  let x := (dieCentre (grazeOf (s / 2))).1
  (if s % 2 = 0 then x - 5000 else x + 5000, if s / 2 < 8 then 25000 else 165000)

/-! Outputs (R472, R474, R484). -/

/-- The outputs whose levels the state fixes. -/
inductive OutPin where
  | ready | alert | therm | beatOut
  | tierReset (port : Nat)
  deriving DecidableEq, Repr

/-- What the package does with an output: it drives a level, drives the Beat, leaves the line to the board, or, under boundary test,
gives it to its boundary cell, whose place the BSDL file gives (R472, R485). -/
inductive Drive where
  | low | high | beat | open_ | cell
  deriving DecidableEq, Repr

/-- The package is out of reset, so its outputs act (R472, R474). -/
def Power.acts (p : Power) : Bool := !p.inReset && p.st != .off && p.st != .standby

/-- What the package does with an output (R30, R423, R464, R470, R472, R484, R485). -/
def Dev.drive (d : Dev) (o : OutPin) : Drive :=
  if d.tap.runs == 0x06 then .open_
  else if d.tap.runs == 0x00 || (3 ≤ d.tap.runs && d.tap.runs ≤ 5) then .cell
  else if !d.power.acts then .open_
  else match o with
    | .ready => if d.power.ready then .high else .low
    | .alert => if d.alertLow then .low else .open_
    | .therm => if d.power.therm then .low else .open_
    | .beatOut => if d.beat.lockedOnce then .beat else .open_
    | .tierReset _ => if d.power.tierReleased then .high else .low

/-- The level that the board's resistors give a line the package leaves to them (R472, R484): high or not. -/
def OutPin.board : OutPin → Bool
  | .alert | .therm => true
  | .ready | .beatOut | .tierReset _ => false

end Sys2Proof.Machine
end

