-- ==== Sys2Proof/Machine/RegRead.lean ====
section
/-! DEFINITION. The value that a read of BAR0 returns (R9, R95, R315, R340, R358, R412, R471, R492 to R505). A read is no command but
where it latches (`BEAT_NOW_READ`): these functions say what the state shows a driver. -/

namespace Sys2Proof.Machine

open Sys2Proof

/-- Fields, each with its lowest bit and width, joined in a register (R6). -/
def fields (l : List (Nat × Nat × Nat)) : Nat := l.foldl (fun a x => a + x.2.2 % 2 ^ x.2.1 * 2 ^ x.1) 0

/-- STATE of `RM_PKG_STATE` (R495). -/
def PkgState.code : PkgState → Nat
  | .off => 0
  | .standby => 1
  | .starting => 2
  | .run => 3
  | .brace => 4
  | .halted => 5
  | .withdrawn => 6

/-- STATE of `RM_BEAT_STATUS` (R497). -/
def BeatState.code : BeatState → Nat
  | .free => 0
  | .locked => 1
  | .holdover => 2
  | .slewing => 3
  | .slipped => 4

/-- Identification and boot status (R494). -/
def Dev.readIdent (d : Dev) (f o : Nat) : Nat :=
  let p := d.power
  if o = 0x000 then fields [(0, 16, 0x4032), (16, 8, 0xB0), (24, 4, d.fuses.variant)]
  else if o = 0x008 then
    if p.step = 1 then 0 else fields [(0, 8, p.fwMinor), (8, 8, p.fwMajor), (16, 16, p.fwBuild), (32, 2, p.fwSource)]
  else if o = 0x010 then fields [(0, 5, f), (5, 3, (d.func f).gen), (8, 5, (d.pastureOf f).getD 31)]
  else if o = 0x018 then if f = 0 then fields [(0, 8, p.code), (8, 4, p.step), (16, 4, p.reject)] else 0
  else if o = 0x028 then d.fuses.serial
  else 0

/-- Package status and Calendar fill, physical function only (R495). FREQ, CEILING and CAP stand at their reset value 0 until the
firmware runs (step 2 of R469). -/
def Dev.readPkg (d : Dev) (o : Nat) : Nat :=
  let p := d.power
  let on := if p.step = 1 then 0 else 1
  if o = 0x000 then
    fields [(0, 3, p.st.code), (8, 8, p.freq), (16, 8, on * p.ceiling), (24, 16, on * (p.cap / 8)), (40, 1, p.therm.toNat),
      (41, 1, p.hotCap.toNat)]
  else if o = 0x008 then fields [(1, 6, d.aux.causes / 2)]
  else if o = 0x010 then fields [(0, 16, p.dipCount), (16, 16, p.dipMinMv), (32, 32, p.dipDurUs)]
  else if o = 0x018 then fields [(0, 16, p.avg), (16, 16, p.vinCv)]
  else if 0x100 ≤ o && o < 0x100 + 8 * 40 then
    let die := (o - 0x100) / 8
    if die = 19 then 0 else fields [(0, 9, (d.cal.filter (fun e => e.dies.contains die)).length)]
  else 0

/-- A VF reads the step groups of its own pasture only (R497). -/
def Dev.seesStepGroup (d : Dev) (f g : Nat) : Bool :=
  f == 0 || ((d.group g).exists_ && d.pastureOf f == some (d.group g).pasture)

/-- Function status, beat and steps, the Ledger, and the window select (R496 to R498). -/
def Dev.readFunc (d : Dev) (f o : Nat) : Nat :=
  let x := d.func f
  if o = 0x000 then fields [(0, 7, x.event)]
  else if o = 0x008 then
    fields [(0, 3, d.beat.st.code), (3, 1, d.aux.strapBeat.toNat), (4, 3, d.key kBeatLink), (8, 4, d.beat.hop),
      (16, 16, if d.beat.st = .free then 0 else uNat 16 (-d.beat.phase))]
  else if o = 0x010 then d.beat.now
  else if o = 0x018 then fields [(0, 10, x.tickNow)]
  else if o = 0x020 then fields [(0, 32, d.beat.hz)]
  else if 0x100 ≤ o && o < 0x200 then
    let g := d.group ((o - 0x100) / 16)
    if !d.seesStepGroup f ((o - 0x100) / 16) then 0
    else if o % 16 = 0 then g.lastShown
    else fields [(0, 24, g.period), (24, 1, g.exists_.toNat), (25, 1, g.running.toNat), (26, 1, g.left.toNat), (32, 16, g.overruns)]
  else if o = 0x400 then x.ledBase
  else if o = 0x408 then fields [(0, 17, x.ledSize)]
  else if o = 0x410 then fields [(0, 1, x.ledOn.toNat), (1, 1, x.ledCfgErr.toNat), (2, 1, x.ledLost.toNat), (3, 1, x.ledPhase)]
  else if o = 0x418 then fields [(0, 16, x.ledTail)]
  else if o = 0x420 then fields [(0, 16, x.ledHead)]
  else if o = 0x428 then fields [(0, 32, x.waiting.length)]
  else if o = 0x800 then fields [(0, 6, x.winDie)]
  else 0

/-- The MSI-X table and the pending bit array (R499). -/
def Func.readMsix (x : Func) (o : Nat) : Nat :=
  let v := (x.vecs[o / 16]?).getD { mask := false }
  if o < 0x40 then if o % 16 = 0 then v.addr else fields [(0, 32, v.data), (32, 1, v.mask.toNat)]
  else if o = 0x800 then fields ((List.range 4).map (fun i => (i, 1, (((x.vecs[i]?).getD {}).pend).toNat)))
  else 0

/-- The SRV page (R315, R505). -/
def Func.readSrv (x : Func) (o : Nat) : Nat :=
  if o < 0x50 then Tab.getD x.srv (o / 8) 0
  else if o = 0x50 then fields [(0, 10, x.srvSat)]
  else if 0x80 ≤ o && o < 0xD0 then Tab.getD x.srvSnap ((o - 0x80) / 8) 0
  else if o = 0xD0 then fields [(0, 10, x.srvSnapSat)]
  else if o = 0xF8 then fields [(16, 1, x.srvValid.toNat)]
  else if o = 0x100 then fields [(0, 32, x.mbxIgnored)]
  else if o = 0x108 then fields [(0, 32, x.badHead)]
  else if o = 0x110 then fields [(0, 32, x.ledWaits)]
  else 0

/-- The Tally mirror as function `f` sees it: the package registers, and the blocks and record slots of its domains (R412). -/
def Dev.readMirror (d : Dev) (f o : Nat) : Nat :=
  let m := d.mirror
  let mine (n : Nat) : Bool := (d.sees f).contains n
  if o = 0x000 then m.status
  else if o = 0x008 then m.seq
  else if o = 0x010 then m.time
  else if o = 0x018 then fields [(0, 2, m.rate), (2, 1, m.irq.toNat)]
  else if o = 0x020 then m.id
  else if o = 0x028 then m.counts
  else if 0x100 ≤ o && o < 0x100 + 32 * 18 then
    let n := (o - 0x100) / 32
    if !mine n then 0 else rdLE (m.domainBytes n) (o % 32) 8
  else if 0x400 ≤ o && o < 0x400 + 160 * 18 then
    let n := (o - 0x400) / 160
    if !mine n then 0 else rdLE (m.domainBytes n) (32 + (o - 0x400) % 160) 8
  else 0

/-- A mailbox: its slot, its reply area and its doorbell (R358). -/
def Dev.readMailbox (d : Dev) (f o : Nat) : Nat :=
  let b := Tab.getD (d.func f).mbx (o / 512) {}
  let a := o % 512
  if mailboxes f ≤ o / 512 then 0
  else if a < 256 then rdLE b.slot a 8
  else if a < 320 then rdLE b.reply (a - 256) 8
  else if a = 320 then if b.held.isSome then 1 else 0
  else 0

/-- A performance group's frame (R437, R501). -/
def Perf.read (p : Perf) (o : Nat) : Nat :=
  if o < 0x40 then fields [(0, 48, Tab.getD p.live (o / 8) 0), (63, 1, (bit p.ovf (o / 8)).toNat)]
  else if o < 0x80 then fields [(0, 48, Tab.getD p.snap ((o - 0x40) / 8) 0), (63, 1, (bit p.snapOvf ((o - 0x40) / 8)).toNat)]
  else if o = 0x80 then fields [(8, 1, p.irqEn.toNat), (16, 1, p.valid.toNat)]
  else if o = 0x88 then p.beat
  else 0

/-- The block of a core: identification, error counters and performance groups (R95, R502, R503). -/
def Dev.readCore (d : Dev) (die core o : Nat) : Nat :=
  if coresOf die ≤ core then 0
  else if o = 0x00 then spadSize die / 1024
  else if o = 0x08 then 64
  else if o = 0x10 then arraysOf die
  else if o = 0x18 then 8192
  else if o = 0x20 then 512
  else if o = 0x28 then 64
  else if o = 0x30 then fields [(0, 32, (Tab.getD d.cores (die * 64 + core) {}).mark)]
  else if 0x100 ≤ o && o < 0x1B8 then fields [(0, 32, d.err die core ((o - 0x100) / 8))]
  else if 0x800 ≤ o then (d.perfOf die core ((o - 0x800) / 0x100)).read (o % 0x100)
  else 0

/-- The block of a die (R500, R504). -/
def Dev.readDie (d : Dev) (f die o : Nat) : Nat :=
  if !d.seesDie f die then 0
  else if o < 0x200 then fields [(0, 32, d.err die 64 (o / 8))]
  else if 0x1000 ≤ o && o < 0x1800 then
    let g := 8 + (o - 0x1000) / 0x100
    if dieGroup die g then (d.perfOf die 63 g).read (o % 0x100) else 0
  else if 0x4_0000 ≤ o then
    d.readCore die ((o - 0x4_0000) / 0x1000) ((o - 0x4_0000) % 0x1000)
  else 0

/-- The 64-bit register at the aligned offset `o` of function `f`'s BAR0 (R493). -/
def Dev.readReg (d : Dev) (f o : Nat) : Nat :=
  if o < 0x1000 then d.readIdent f o
  else if o < 0x2000 then if f = 0 then d.readPkg (o - 0x1000) else 0
  else if o < 0x3000 then d.readFunc f (o - 0x2000)
  else if o < 0x4000 then (d.func f).readMsix (o - 0x3000)
  else if o < 0x5000 then (d.func f).readSrv (o - 0x4000)
  else if o < 0x6000 then d.readMirror f (o - 0x5000)
  else if o < 0x8000 then d.readMailbox f (o - 0x6000)
  else if 0x8_0000 ≤ o && o < 0x10_0000 then d.readDie f (d.func f).winDie (o - 0x8_0000)
  else if 0x40_0000 ≤ o && o < 0x180_0000 then d.readDie f ((o - 0x40_0000) / 0x8_0000) ((o - 0x40_0000) % 0x8_0000)
  else if 0x180_0000 ≤ o && d.power.window then Mem.readLE d.power.windowMem (o - 0x180_0000) 8
  else 0

/-- A read of BAR0 of `size` bytes, 4 or 8: an unaligned read, and a read where nothing is decoded, return 0; a 32-bit read of a 64-bit
register reads that half (R471, R492). -/
def Dev.readBar (d : Dev) (f off size : Nat) : Nat :=
  if !d.decoded f off then 0
  else if size = 8 && off % 8 = 0 then d.readReg f off % 2 ^ 64
  else if size = 4 && off % 4 = 0 then d.readReg f (off / 8 * 8) / 2 ^ (8 * (off % 8)) % 2 ^ 32
  else 0

end Sys2Proof.Machine
end

