-- ==== Sys2Proof/WellFormed.lean ====
section
/-! DEFINITION. Which commands are well formed: every operand lies in the range that its field, unit or die gives it. The machine
itself checks what the spec has the package check, and gives every command a meaning, well formed or not. -/

namespace Sys2Proof

/-- A function: the PF or one of 16 VFs (R339). -/
def wfFunc (f : Nat) : Bool := f < 17

/-- A compute die and a core in use on it (R15, R18). -/
def wfCore (die core : Nat) : Bool :=
  if die < 8 || (32 ≤ die && die < 40) then core < 32 else (8 ≤ die && die < 32 && !(16 ≤ die && die < 24)) && core < 64

/-- A die (R15). -/
def wfDie (die : Nat) : Bool := die < 40

/-- A handle: 32 bits, not 0 (R364). -/
def wfHandle (h : Nat) : Bool := 0 < h && h < 2 ^ 32

/-- A command slot as a driver can write it (R358, R376). -/
def Door.wf (c : Door) : Bool :=
  wfFunc c.func && (if c.func = 0 then c.mbx < 16 else c.mbx < 4) && c.len < 256 && c.flags < 256 && c.tag < 2 ^ 32 &&
    c.rsv < 2 ^ 64 && c.params.length ≤ 240 && c.tick < 1000

/-- A write that PCIe can bring: at least one byte, a value of its size, one enable for each byte (R492). -/
def RegWrite.wf (w : RegWrite) : Bool :=
  wfFunc w.func && 0 < w.size && w.value < 2 ^ (8 * w.size) && w.be < 2 ^ w.size && w.events < 2 ^ 7 && w.off < 2 ^ 25

/-- A counter group that the register map places (R500, R502, R505). -/
def GroupAddr.wf : GroupAddr → Bool
  | GroupAddr.core e c g => wfCore e c && g < 8
  | GroupAddr.die e g => wfDie e && 8 ≤ g && g < 15
  | .srv => true

/-- A Stile link (R29). -/
def wfLink (l : Nat) : Bool := l < 6

/-- A pasture (R20). -/
def wfPasture (p : Nat) : Bool := p < 16

/-- A 64-bit number. -/
def wf64 (n : Nat) : Bool := n < 2 ^ 64

/-- The operands of a command lie in their ranges. -/
def Instr.wf : Instr → Bool
  | .cfgBegin c | .cfgSet c | .cfgGet c | .cfgCommit c | .cfgRollback c | .pastureCreate c | .pastureDestroy c | .pastureQuery c
  | .imageLoad c | .imageShare c | .imageReseed c | .imageUnload c | .showLoad c | .showUnload c | .reqOpen c | .reqAppend c
  | .reqGenerate c | .reqPause c | .reqResume c | .reqClose c | .reqQuery c | .prefixBuild c | .prefixTrain c | .prefixDrop c
  | .adapterTrain c | .expertMapSet c _ | .expertMapGet c | .linkTrain c | .linkQuery c | .routeSet c | .beatSync c | .calQuery c
  | .diagBist c | .diagMargin c | .diagDump c | .tallyRead c | .tallyLogRead c | .faultQuery c | .faultAck c => c.wf
  | .unknownOpcode c op => c.wf && op < 2 ^ 16
  | .showContainerRead h _ _ _ _ _ | .cfgTransactionTimeout h | .finalValidation h | .droverPageMove h | .droverPageRestore h
  | .expertMapEffect h | .hostReadComplete h _ _ | .bistDone h _ _ _ => wfHandle h
  | .ledgerPost f _ | .functionLevelReset f | .flrBoundaryTimeout f | .d3hot f _ => wfFunc f
  | .ledgerHeadWrite f v | .ledgerEnableWrite f v | .tlMCtlWrite f v => wfFunc f && wf64 v
  | .registerWrite w => w.wf
  | .bootDoorbell v _ => v < 2 ^ 32
  | .rmEventClear f clear same => wfFunc f && wf64 clear && same < 2 ^ 7
  | .msixUnmask f v _ => wfFunc f && v < 4
  | .snap f a => wfFunc f && a.wf
  | .snapclr f a wraps => wfFunc f && a.wf && wraps < 2 ^ 8
  | .beatNowRead f tick => wfFunc f && tick < 1000
  | .wload die core _ | .astream die core _ | .screen die core _ | .requant die core _ | .lrank die core _ | .rotate die core _
  | .juggle die core _ | .norm die core _ | .softmax die core _ | .poundAdd die core _ | .poundFlush die core _
  | .poundDrain die core _ | .bale die core _ | .unbale die core _ | .dmaIn die core _ | .dmaOut die core _ | .send die core _
  | .recv die core _ | .waitBeat die core _ | .barrier die core _ | .barrierPass die core _ | .sequencerResume die core _
  | .audit die core _ | .skipIf die core _ | .seed die core _ | .mark die core _ | .endAct die core _
  | .waitBeatRelease die core _ => wfCore die core
  | .exchangeTransfer p _ die core _ => wfPasture p && wfCore die core
  | .seedTakeEffect die core arr | .arrayStepStart die core arr _ _ _ _ => wfCore die core && arr < 48
  | .selfTestSlice die core item _ _ => wfCore die core && item < 256
  | .spareCoreWalk die i _ => wfDie die && i < 4
  | .powerCapChange cap => cap < 2 ^ 13
  | .stepStart g _ | .joinNoticeReceive g _ _ | .leaveNoticeReceive g _ _ => g < 16
  | .reductionTreePhase p _ _ | .treeTransferReceive p _ _ | .arrivalTransfer p _ _ | .exchangeLaunch p _
  | .ttlSweep p | .raceInstanceStart p _ | .raceDispatch p _ | .dispatch p _ _ _ _ _ _ _ | .manifest p _ _ _ _ _
  | .returnVector p _ _ _ _ _ _ _ _ | .raceCombine p _ | .refuse p _ _ _ _ | .abandon p _ _ _ _ _ | .droverGoldenCopy p _ => wfPasture p
  | .calHeldEntryRelease die => wfDie die
  | .stackTransfer stk lane _ _ _ => stk < 32 && lane < 8
  | .refreshDue st q _ _ | .pseudoChannelCopy st q _ => st < 32 && q < 64
  | .scrub pen _ _ | .penClearDone pen | .marginingDone pen _ _ _ => pen < 16
  | .odeccRead st _ | .stackTemperatureChange st _ => st < 32
  | .tier2Lost port _ => port < 2
  | .midwayReplayTimeout die q _ | .midwayRetrain die q _ _ => wfDie die && q < 4
  | .midwayFlitReceive die q _ _ _ _ => wfDie die && q < 5
  | .mwRouterFail die q dir => wfDie die && q < 4 && dir < 2
  | .beatMarkerReceive l _ _ _ _ _ | .stileFlitReceive l _ _ | .stileNakTimeout l | .stileRetransmitTimeout l
  | .stileControlDue l _ | .laneFailure l _ | .repairPauseEnd l _ _ _ _ | .linkDown l | .linkTrainingDone l _
  | .linkTrainTimeout l => wfLink l
  | .faultReport code die core _ _ _ => code < 2 ^ 16 && wfDie die && core < 64
  | .reseedSourceDone owner n _ _ | .reseedTimeout owner n _ => wfPasture owner && n < 1024
  | .uvWarn mv => mv < 2 ^ 16
  | .resetRelease _ _ _ i3c => i3c < 4
  | .setEndpointId b eid | .setEventReceiver b eid => b < 2 && eid < 256
  | .requestUpdate b | .activateFirmware b _ | .getVersion b | .getCapabilities b | .negotiateAlgorithms b _ _ | .getDigests b
  | .getCertificate b _ _ _ | .challenge b _ _ | .getMeasurements b _ _ _ => b < 2
  | .readLive n _ | .readInterval n _ _ => n < 18
  | .pulseEmit o => o < 3
  | .bypass op => op < 256
  | .energySample x => x.amps.length == 18
  | .vfEnable _ n => n ≤ 16
  | .dynamicAddress _ a => a < 128
  | .pfFunctionLevelReset | .hotReset | .perstAssert _ | .configurationCommit | .beatTick0 _ | .beatEdge _ _ | .beatMissing
  | .beatSyncLoad | .beatSyncTimeout | .faultRecoveryStart | .faultRecoveryDone | .recoveryBudgetExpired | .startupTestGroup _ _
  | .uvWarnClear _ _ | .dipTimerExpire | .orderlyHalt | .uvReset | .ovReset | .auxFail | .ztResetN _ | .thermalTrip
  | .thermalRead _ _ | .governorEvaluation _ _ | .startupStepDone _ | .sensorRefresh _ | .readId _ | .readAudit _ _
  | .readEvent _ _ | .readCert _ _ _ | .setParam _ _ _ _ | .setTime _ _ | .balanceWindowEnd | .intervalEnd | .nvSave
  | .tallyAuxLowSave | .auxReturn _ _ | .sealChange _ | .mirrorUpdate | .mirrorSet _ | .auxCounts _ | .auxCountsTimeout
  | .tallySelfCheck _ _ | .mirrorStale | .tallySupplyDip _ _ | .mainLow _ | .idcode | .samplePreload _ _ _ | .extest _ _ _
  | .extestPulse _ _ _ | .extestTrain _ _ _ | .clamp _ | .highz _ | .refclkDetected => true

end Sys2Proof
end

