-- ==== Sys2Proof/Tests/Slice0.lean ====
section
/-! SUPPORT. Tests: for every statement with hypotheses a witness of each of its clauses, ill-formed commands that `Instr.wf`
refuses, and small tests of single commands against the spec's worked values. -/

namespace Sys2Proof.Tests

set_option Elab.async false

open Sys2Proof Sys2Proof.Machine

/-- A package in RUN whose host port answers. -/
def ready : Dev := { power := { step := 7, st := .run, portUp := true } }

/-- The machine with package `d` and nothing waiting. -/
def at_ (d : Dev) : State := { dev := d }

/-- A command of the PF at mailbox 0 with parameter bytes `ps`. -/
def pf (len : Nat) (ps : List Nat) : Door := { func := 0, mbx := 0, len, params := ps.map (BitVec.ofNat 8) }

/-- A usable pasture of pens 0 and 1, bound to the PF. -/
def own : Pasture := { pens := 3, func := 0, ready := true }

/-- `ready` with pasture 0 as `p`. -/
def mine (p : Pasture) : Dev := { ready with pastures := [(0, p)] }

/-- `d` with handle 1 of the PF open for `w`. -/
def held (w : Work) (d : Dev) : Dev := { d with handles := [(1, { tag := 0, work := w })] }

/-- `n` zero parameter bytes. -/
def z (n : Nat) : List Nat := List.replicate n 0

/-- A show of one group of period 16 and one act, a lone `END` on core 0 of die 0, with `digest` as its SHA-384 (R93, R382, R383). -/
def box (digest : List Byte) : List Byte :=
  leBytes 0x4853545A 4 ++ leBytes 3 4 ++ leBytes 464 8 ++ digest ++
  leBytes 2 2 ++ leBytes 0 2 ++ leBytes 1 2 ++ leBytes 1 2 ++ leBytes 1 4 ++ leBytes 1 4 ++ leBytes 0 4 ++ leBytes 8773 2 ++ leBytes 0 170 ++
  leBytes 1 4 ++ leBytes 1 4 ++ leBytes 320 8 ++ leBytes 32 16 ++
  leBytes 2 4 ++ leBytes 1 4 ++ leBytes 384 8 ++ leBytes 80 16 ++
  leBytes (16 * 2 ^ 8 + 2 * 2 ^ 4) 64 ++ leBytes 1 64 ++ leBytes (0x1F * 2 ^ 120) 16

/-- The container with its own digest. -/
def container : List Byte := box (beBytes 0x23d85f0b3b75a9691306807560c4e3fe2c9a2506961e9738d3e4ab20a647de7630a77f4a52c0018c4fca6c2304f6b9ce 48)

/-- What the checks make of `container`. -/
def checked : Container := match containerCheck (mine own) 0 3 container.length container {} with
  | .ok k => k
  | .error _ => ⟨{}, [], []⟩

/-- A show without page pools and without acts, loaded in `own`. -/
def shown : Pasture := { own with sh := some {} }

/-- `shown` with request 1 of the PF as `r`. -/
def asked (r : Request) : Dev := held .request { mine shown with reqs := [(1, r)] }

/-- An act of op words `ops` for core 0 of die 0. -/
def act (ops : List Nat) : Act := { die := 0, core := 0, group := 0, place := 0, tag := 0, ops, descs := [], binds := [] }

/-- The run of that act, before its first op word. -/
def run : Run := { pasture := 0, act := 0, group := 0 }

/-- Core 0 of die 0 as `c`, with run `r` of an act of op words `ops`. -/
def running (ops : List Nat) (r : Run) (c : Core) : Dev :=
  { mine { own with sh := some { acts := [act ops] } } with cores := [(0, { c with run := some r })] }

/-- An op word of opcode `code` with the bits of `rest` (R84). -/
def opw (code rest : Nat) : Nat := code * 2 ^ 120 + rest

/-- The queue entry of an op word for unit `u`. -/
def qop (u code : Nat) : QOp := { unit := u, pc := 0, op := opw code 0 }

/-- A sum of two F32 participants, cores 0 and 1 of die 0, in mode `m`: 0 as the pasture says, 1 TREE, 2 ARRIVAL (R179). -/
def sum2 (m : Nat) : Nat := 3 * 2 ^ 4 + m * 2 ^ 8 + 2 ^ 16 + 5 * 2 ^ 64 + 6 * 2 ^ 76

/-- A show with that reduction. -/
def summing (m : Nat) : Show := { acts := [act []], secs := [(3, [sum2 m]), (4, [0, 1])] }

/-- That reduction's instance in the running step. -/
def sumAt (m : Nat) (i : Inst) (cs : Tab Core) : Dev := { mine { own with sh := some (summing m) } with reds := [(0, i)], cores := cs }

/-- 257 ARRIVAL entries with the same DEST, of which the first `n` have had a transfer. -/
def counters (n : Nat) : Dev := { mine { own with sh := some { summing 2 with secs := [(3, List.replicate 257 (sum2 2)), (4, [0, 1])] } } with
  reds := (List.range n).map (fun i => (i, { live := true, tree := false, stored := true })) }

/-- A request being paused, with one page of its pool in the stacks. -/
def pausing : Request := { pasture := 0, st := .pausing, moving := true, lists := [(0, [0])] }

/-- A Calendar entry of the present beat. -/
def entry (action target arg : Nat) : CalEntry := ⟨0, 0, action, false, 3, target, arg, [], [], 0, 0⟩

/-- A Calendar entry of the present step. -/
def relEntry (action target arg : Nat) : CalEntry := ⟨0, 0, action, true, 3, target, arg, [], [], 0, 0⟩

/-- `d` in the first step of group 3 of pasture 0. -/
def stepping (d : Dev) (c : CalEntry) : Dev := { d with groups := [(3, { exists_ := true, pasture := 0, stepNo := 1 })], cal := [c] }

/-- An image of pen 0. -/
def img : Image := ⟨0, 0, 64, 1, true, 1, [], none, 0, 0, false, true, false, [], []⟩

/-- Bytes that the golden copy of `img` takes in tier 2. -/
def goldenCap : Nat := wholeTransfers (xcBytes 0 (List.replicate 64 0)).length

/-- A package that loads `img` with a golden copy, and has room for it on port 1. -/
def goldenDev : Dev := { held (.imageLoad 0 5 true) (mine { own with images := [(5, { img with goldenDue := true })] }) with
  tier := [{}, { up := true, cap := goldenCap }] }

/-- An expert layer of one expert and one producer (R319). -/
def layer1 : Nat := 256 * 2 ^ 32 + 2 ^ 96 + 2 ^ 104 + 2 ^ 112

/-- A show with that layer. -/
def routing : Show := { acts := [act []], secs := [(5, [layer1]), (6, [0])] }

/-- That layer's instance in the running step, and its catalogue entry, valid and of this package. -/
def layered (x : RaceInst) : Dev := { mine { own with sh := some routing } with races := [(0, x)], catalog := [(0, 2 ^ 19)] }

/-- A fault record of unit `u` on core 0 of die 0. -/
def rec1 (u : Nat) : FaultRec := { seq := 1, code := 1, die := 0, core := 0, disp := 0, unit := u, pasture := 31, beat := 0 }

/-- The recovery of that record runs. -/
def recovering (u : Nat) (d : Dev) : Dev := { d with faults := { log := [rec1 u], lastSeq := 1, running := some 1 } }

/-- Start-up at step `n`. -/
def starting (n : Nat) : Dev := { power := { step := n } }

/-- The Tally die as `t`. -/
def metering (t : Tally) : State := at_ { ready with tally := t }

/-! Well-formedness: what each check refuses, and boundary terms that it takes. -/

/-- A command slot of the PF. -/
def door0 : Door := { func := 0, mbx := 0, len := 0 }

/-- A one-byte write of the PF. -/
def write1 : RegWrite := { func := 0, off := 0, size := 1, value := 0, be := 1 }

/-- What an image header holds in `bootDoorbell`. -/
def fw0 : FwImage := { len := 0, svn := 0, key := 0, keyHash := 0, digest := 0, actual := 0, sigOk := true }

theorem test_wf_refuses_slots : ([
    Instr.cfgBegin { door0 with func := 17 }, .cfgSet { door0 with mbx := 16 }, .cfgGet { door0 with func := 1, mbx := 4 },
    .pastureCreate { door0 with len := 256 }, .imageLoad { door0 with flags := 256 }, .showLoad { door0 with tag := 2 ^ 32 },
    .reqOpen { door0 with rsv := 2 ^ 64 }, .prefixBuild { door0 with params := List.replicate 241 0#8 },
    .linkTrain { door0 with tick := 1000 }, .unknownOpcode door0 (2 ^ 16), .unknownOpcode { door0 with func := 17 } 0].any Instr.wf) =
    false := by decide +kernel

theorem test_wf_refuses_host_actions : ([
    Instr.droverPageMove 0, .hostReadComplete (2 ^ 32) true [], .ledgerPost 17 true, .ledgerHeadWrite 17 0,
    .ledgerEnableWrite 0 (2 ^ 64), .registerWrite { write1 with func := 17 }, .registerWrite { write1 with size := 0 },
    .registerWrite { write1 with value := 256 }, .registerWrite { write1 with be := 2 }, .registerWrite { write1 with events := 128 },
    .registerWrite { write1 with off := 2 ^ 25 }, .bootDoorbell (2 ^ 32) fw0, .rmEventClear 17 0 0, .rmEventClear 0 (2 ^ 64) 0,
    .rmEventClear 0 0 128, .msixUnmask 17 0 true, .msixUnmask 0 4 true, .snap 17 .srv, .snap 0 (.core 0 0 8), .snap 0 (.core 0 32 0),
    .snap 0 (.die 40 8), .snap 0 (.die 0 7), .snap 0 (.die 0 15), .snapclr 17 .srv 0, .snapclr 0 .srv 256, .beatNowRead 17 0,
    .beatNowRead 0 1000, .vfEnable true 17].any Instr.wf) = false := by decide +kernel

theorem test_wf_refuses_core_ops : ([
    Instr.wload 0 32 {}, .wload 8 64 {}, .wload 16 0 {}, .wload 32 32 {}, .wload 40 0 {}, .exchangeTransfer 16 0 0 0 [],
    .exchangeTransfer 0 0 0 32 [], .seedTakeEffect 0 0 48, .arrayStepStart 0 0 48 false 0 0 none, .arrayStepStart 20 0 0 false 0 0 none,
    .selfTestSlice 0 0 256 0 {}, .spareCoreWalk 40 0 {}, .spareCoreWalk 0 4 {}, .powerCapChange (2 ^ 13), .stepStart 16 {},
    .joinNoticeReceive 16 0 0, .ttlSweep 16, .calHeldEntryRelease 40].any Instr.wf) = false := by decide +kernel

theorem test_wf_refuses_memory_and_links : ([
    Instr.stackTransfer 32 0 0 [] [], .stackTransfer 0 8 0 [] [], .refreshDue 32 0 0 false, .refreshDue 0 64 0 false, .scrub 16 0 0,
    .penClearDone 16, .odeccRead 32 0, .tier2Lost 2 none, .midwayReplayTimeout 40 0 0, .midwayReplayTimeout 0 4 0,
    .midwayFlitReceive 0 5 0 0 0 true, .mwRouterFail 0 0 2, .laneFailure 6 0, .linkDown 6].any Instr.wf) = false := by decide +kernel

theorem test_wf_refuses_services : ([
    Instr.faultReport (2 ^ 16) 0 0 0 0 0, .faultReport 0 40 0 0 0 0, .faultReport 0 0 64 0 0 0, .reseedTimeout 16 0 0,
    .reseedTimeout 0 1024 0, .uvWarn (2 ^ 16), .resetRelease true true true 4, .setEndpointId 2 0, .setEndpointId 0 256,
    .getVersion 2, .readLive 18 false, .readInterval 18 0 false, .pulseEmit 3, .bypass 256, .energySample ⟨[], 0, 0⟩,
    .dynamicAddress true 128].any Instr.wf) = false := by decide +kernel

theorem test_wf_takes_bounds : ([
    Instr.cfgBegin { door0 with func := 16, mbx := 3, len := 255, params := List.replicate 240 0xFF#8, tick := 999 },
    .unknownOpcode { door0 with mbx := 15 } 0xFFFF, .droverPageMove (2 ^ 32 - 1), .registerWrite { write1 with value := 255 },
    .snap 0 (.core 31 63 7), .snap 16 .srv, .snapclr 0 (.die 39 14) 255, .wload 39 31 {}, .wload 31 63 {}, .seedTakeEffect 7 31 47,
    .stackTransfer 31 7 0 [] [], .midwayFlitReceive 39 4 0 0 0 true, .linkDown 5, .faultReport 0xFFFF 39 63 0 0 0, .readLive 17 true,
    .vfEnable true 16, .pfFunctionLevelReset].all Instr.wf) = true := by decide +kernel

/-! The table gives its rows no bits. -/

theorem test_no_word_spells_a_command : [0, 1, 2 ^ 31].map (decodeTableWord 32) = [none, none, none] := by decide +kernel

/-! The op word of the worked case of chapter 04: `WLOAD` of arrays 0 to 23 in parallel mode at A8, *r* = 2, 512 tiles. -/

/-- The op word. -/
def wload1 : Nat := 0x0104_1007_0010_0000_0001_01FF_0000_0000

theorem test_wload_fields : (opCode wload1, wlClear wload1, opIn wload1, opX wload1) = (1, true, cT2, 0x0010_0000) ∧
    (selected wload1, wlTiles wload1, wlR wload1, wlSlot wload1) = (List.range 24, 512, 2, 0) := by decide +kernel

/-- 384 rows of 512 bytes. -/
theorem test_wload_rows : wloadBytes wload1 24 = 384 * 512 := by decide +kernel

/-! Number formats, chapter 05. -/

/-- The weights +1, −1, 0, 0, +1: TP5 byte 0x58, T2 bits 0x10D. -/
theorem test_tp5_byte : tp5Codes 0x58 = [1, 3, 0, 0, 1] ∧ tp5Expand [0x58#8, 0#8, 0#8, 0#8] = [0x0D#8, 0x01#8, 0#8, 0#8, 0#8] := by
  decide +kernel

/-- 3.1, 0.05 and −1.7 as F32. -/
def bx3 : List Fl := [of32 0x40466666, of32 0x3D4CCCCD, of32 0xBFD9999A]

/-- The largest magnitude 3.1 gives E 122 in BX8 and 126 in BX4. -/
theorem test_bx_exponents : bxExp false bx3 = 122 ∧ bxExp true bx3 = 126 := by decide +kernel

/-- 99.2, 1.6 and −54.4 steps of BX8, 6.2, 0.1 and −3.4 of BX4, to the nearest. -/
theorem test_bx_elements : bx3.map (fun v => (flToInt .nearest 127 (122 - 127) v).1) = [99, 2, -54] ∧
    bx3.map (fun v => (flToInt .nearest 7 (126 - 127) v).1) = [6, 0, -3] := by decide +kernel

/-- The generator's step from state 1. -/
theorem test_xorshift : xorshift 1 = 0x0004_2021 := by decide +kernel

/-! Reductions, chapter 08: 2^24, 1, 1 and −2^24. -/

theorem test_tree_order :
    let x := [0x4B800000, 0x3F800000, 0x3F800000, 0xCB800000].map (fun v => leBytes v 4)
    let c (a b : List Byte) : List Byte := (redCombine (sum2 1) a b).1
    c (c (x.getD 0 []) (x.getD 1 [])) (c (x.getD 2 []) (x.getD 3 [])) = leBytes 0x3F800000 4 := by decide +kernel

theorem test_arrival_order :
    let x := [0x4B800000, 0x3F800000, 0x3F800000, 0xCB800000].map (fun v => leBytes v 4)
    let c (a b : List Byte) : List Byte := (redCombine (sum2 2) a b).1
    let run (o : List Nat) : List Byte := (o.drop 1).foldl (fun a i => c a (x.getD i [])) (x.getD (o.headD 0) [])
    run [0, 1, 2, 3] = leBytes 0 4 ∧ run [1, 2, 0, 3] = leBytes 0x40000000 4 := by decide +kernel

/-! The address hash, chapter 09: pen 5, offset 0x0200_4300. -/

theorem test_address_hash :
    (hashQ 0x2_0043, stackOf 5 0x0200_4300, hashL 0x2_0043, hashQ 0x2_0044, stackOf 5 0x0200_4400) = (75, 11, 0x400, 76, 11) := by
  decide +kernel

/-! The arbiter of lane 3 of stack 11, chapter 09. -/

/-- A read of pen 5 in that lane by requester `r`. -/
def lane3 (r : Nat) (high : Bool) : StackReq := { requester := r, high, die := 8, pen := 5, off := 0x0200_4300, size := 64, kind := 0 }

/-- The stacks before cycle 1,000: requester 4 was granted last, Race has used 23 HIGH grants. -/
def lanes1000 : Dev := { mine { own with pens := 0x20 } with
  stk := [(11, { lanes := [(3, { window := 15, used := 23, lastNormal := 4 })] })] }

/-- Lane 3 of stack 11. -/
def laneOf (d : Dev) : Lane := Tab.getD (d.stack 11).lanes 3 {}

/-- The standing of requester 34: its count and the cycle of its next request. -/
def standing (d : Dev) : Nat × Nat := ((Tab.getD (laneOf d).backoff 34 {}).count, (Tab.getD (laneOf d).backoff 34 {}).next)

/-- Cycles 1,000, 1,001 and 1,003. -/
def cycle1000 : Dev := stackTransfer lanes1000 11 3 1000 [] [lane3 5 false, lane3 34 false]
def cycle1001 : Dev := stackTransfer cycle1000 11 3 1001 [] [lane3 34 false, lane3 41 true]
def cycle1003 : Dev := stackTransfer cycle1001 11 3 1003 [] [lane3 34 false]

theorem test_arbiter_round_robin : (laneOf cycle1000).lastNormal = 5 ∧ standing cycle1000 = (1, 1001) := by decide +kernel
theorem test_arbiter_high : ((laneOf cycle1001).lastHigh, (laneOf cycle1001).used) = (41, 24) ∧ standing cycle1001 = (2, 1003) := by
  decide +kernel
theorem test_arbiter_alone : (laneOf cycle1003).lastNormal = 34 ∧ (standing cycle1003).1 = 0 := by decide +kernel

/-! XC, chapter 10: 24 non-zero elements, the first of them 0x40 and 0xBC, 40 of +0. -/

/-- Elements with exponents 8, 7, 6 and 5, six, ten, six and two of them, in the worked case's order at the start. -/
def xcWorked : List Nat := [0x40, 0xBC, 0x00, 0x34] ++ List.replicate 5 0x40 ++ List.replicate 9 0x38 ++ List.replicate 5 0x30 ++
  List.replicate 2 0x28 ++ List.replicate 39 0

theorem test_xc_block :
    let b := (xcBlock cF8A xcWorked).1
    (b.length, b.take 3, bit (rdLE b 3 1) 0, fld (rdLE b 3 1) 1 2, rdLE b 17 1, (xcBlock cF8A xcWorked).2) =
      (49, [0x41#8, 0x00#8, 0xA9#8], true, 0, 0x30, false) := by decide +kernel

/-! Stile credits, chapter 12: VC 6 with 24 of the 32 slots. -/

theorem test_credits : initialCredit ((List.range 24).foldl (fun n i => n + 6 * 16 ^ i) 0) 6 = 73024 := by
  decide +kernel

/-! `REQ_GENERATE` of VF 2 and its Ledger entry, chapter 16. -/

/-- The driver's slot in mailbox 1. -/
def generate2 : Door :=
  { func := 2, mbx := 1, len := 24, tag := 0xA7, params := leBytes 0x1400_0117 4 ++ leBytes 200 4 ++ leBytes 0x40_1234_0000 8 ++ leBytes 808 4 }

theorem test_slot_words : (List.range 5).map (fun i => rdLE (doorSlot generate2 0x0503) (8 * i) 8) =
    [0x0000_00A7_0018_0503, 0, 0x0000_00C8_1400_0117, 0x0000_0040_1234_0000, 0x0000_0000_0000_0328] := by decide +kernel

theorem test_ledger_entry :
    let e := ledgerEntry { handle := 0x1400_0123, status := 1, beat := 7340812, tag := 0xA7, r0 := 173, r1 := 1672, r2 := 2 } 1
    (List.range 4).map (fun i => rdLE e (8 * i) 8) =
      [0x8000_0001_1400_0123, 0x70_030C, 0x0000_00AD_0000_00A7, 0x0000_0002_0000_0688] := by decide +kernel

/-! BRACE and the governor, chapters 17 and 21. -/

/-- SPRINT with a cap of 5,300 W. -/
def sprint : Dev := { power := { step := 7, st := .run, portUp := true, capInForce := 5300, clockInForce := 2, freq := 18, avg := 4000 } }

/-- The dip, and the evaluations at 3.0, 2.75 and 2.5 kW. -/
def dip0 : Dev := uvWarn sprint 42000
def dip2 : Dev := governorEvaluation (governorEvaluation dip0 3000 4200) 2750 4200
def dip3 : Dev := governorEvaluation dip2 2500 4200

theorem test_brace_entry : (dip0.power.st, dip0.power.cap, dip0.power.ceiling, dip0.power.freq) = (.brace, 8 * 2650, 11, 11) := by
  decide +kernel
theorem test_governor_falls : dip2.power.freq = 9 := by decide +kernel
theorem test_governor_counts : (dip3.power.freq, dip3.power.govCount) = (9, 1) := by decide +kernel

/-! The width controller, chapter 06: 41 of 24,576 elements saturated at A4, BX4 and A8 permitted. -/

theorem test_width_widens : widthEval (6 * 2 ^ 10) { elems := 24576, sat := 41 } ⟨0, 0, 7⟩ = (⟨0, 1, 0⟩, 1, 0) := by decide +kernel

/-- VF 2 of generation 4 whose next sequence number is 0x123, its pasture C, and the request with 1,500 committed positions. -/
def generating : Dev := { ready with
  funcs := [(2, { enabled := true, gen := 4, seq := 0x122 })]
  pastures := [(2, { pens := 0x3000, func := 2, ready := true, sh := some {} })]
  reqs := [(0x1400_0117, { pasture := 2, committed := 1500 })]
  handles := [(0x1400_0117, { tag := 0, work := .request })] }

theorem test_generate_reply : (match exec (.reqGenerate generate2) (at_ generating) with
    | .next t => (t.dev.mailbox 2 1).reply.take 16
    | _ => []) = leBytes 2 4 ++ leBytes 0x1400_0123 4 ++ leBytes 0xA7 4 ++ leBytes 0 4 := by decide +kernel

/-! Three tenants, chapter 01: pens 13 to 15 are refused, pens 14 and 15 are not. -/

/-- A, B and C hold pens 0–7, 8–11 and 12–13; VF 3 is enabled and bound to none. -/
def tenants : Dev := { ready with
  funcs := [(0, { enabled := true }), (1, { enabled := true }), (2, { enabled := true }), (3, { enabled := true })]
  pastures := [(0, { pens := 0xFF, func := 0, ready := true }), (1, { pens := 0xF00, func := 1, ready := true }),
    (2, { pens := 0x3000, func := 2, ready := true })] }

/-- The STATUS that `PASTURE_CREATE` of `pens` for VF 3 answers. -/
def created (pens : Nat) : Nat := match exec (.pastureCreate (pf 8 [pens % 256, pens / 256, 3])) (at_ tenants) with
  | .next t => rdLE (t.dev.mailbox 0 0).reply 0 2
  | _ => 0

theorem test_pasture_conflict : created 0xE000 = 7 := by decide +kernel
theorem test_pasture_accepted : created 0xC000 = 2 := by decide +kernel

/-! Lane repair, chapter 12: lanes 61 and 23 out of 66 leave width 64. -/

theorem test_two_lanes_out : widthWithin (66 - popCount (2 ^ 61 + 2 ^ 23) 66) = 64 ∧ widthWithin 63 = 32 := by decide +kernel

/-! A Fold's 256 instance counters, chapter 07: with all taken the next entry's first transfer finds none, with 255 it finds one. -/

theorem test_fold_counters_full : (counters 256).counterFree (sum2 2) {} = false := by decide +kernel
theorem test_fold_counters_room : (counters 255).counterFree (sum2 2) {} = true := by decide +kernel

theorem witness_StepRunsFrontCommand :
  (∃ (s : State),
      s.pending = []) :=
  ⟨State.reset, by decide +kernel⟩

theorem witness_RefusedCommandLeavesNothingBehind :
  (∃ (i : Instr) (c : Door) (op : Nat) (svc : Dev → Door → Svc) (r : Refuse) (s : State),
      mailboxService i = some (c, op, svc) ∧
      s.dev.hears c = true ∧
      svc (s.dev.took c op) c = .error r) ∧
  (∃ (i : Instr) (c : Door) (op : Nat) (svc : Dev → Door → Svc) (s : State) (other : _),
      mailboxService i = some (c, op, svc) ∧
      s.dev.doorOpen c.func c.mbx = true ∧
      (s.dev.mailbox c.func c.mbx).held = some other ∧
      other ≠ doorSlot c op) ∧
  (∃ (i : Instr) (c : Door) (op : Nat) (svc : Dev → Door → Svc) (s : State),
      mailboxService i = some (c, op, svc) ∧
      s.dev.doorOpen c.func c.mbx = false) :=
  ⟨⟨.cfgBegin (pf 8 [2]), _, _, _, ⟨sInvalid, 16⟩, at_ ready, rfl, by decide +kernel⟩,
   ⟨.cfgBegin (pf 8 []), _, _, _, at_ { ready with funcs := [(0, { enabled := true, mbx := [(0, { held := some [] })] })] }, [], rfl, by decide +kernel⟩,
   ⟨.cfgBegin { pf 8 [] with func := 1 }, _, _, _, at_ ready, rfl, by decide +kernel⟩⟩

theorem witness_ConfigurationTransactionsOpenStageAndRead :
  (∃ (s : State) (c : Door) (p : Nat),
      s.dev.hears c = true ∧
      checkHeader c 8 [(0, [255, 255])] = .ok () ∧
      dp c 0 1 = 0 ∧
      s.dev.stopped = false ∧
      namedPasture s.dev c 1 = .ok p ∧
      ((∀ t ∈ s.dev.txns, t.pending = false → t.package = false → t.pasture ≠ p)) ∧
      s.dev.handlesLeft c.func = true) ∧
  (∃ (s : State) (c : Door),
      s.dev.hears c = true ∧
      checkHeader c 8 [(0, [255, 255])] = .ok () ∧
      dp c 0 1 = 1 ∧
      c.func = 0 ∧
      s.dev.stopped = false ∧
      dp c 1 1 = 0 ∧
      ((∀ t ∈ s.dev.txns, t.pending = false → t.package = false)) ∧
      s.dev.handlesLeft 0 = true) ∧
  (∃ (s : State) (c : Door) (h : Nat) (n : Nat) (t : Txn) (staged : _),
      s.dev.hears c = true ∧
      n = dp c 4 2 ∧
      (1 ≤ n ∧ n ≤ 14 ∧ cfgSetHeader c n = .ok () ∧ s.dev.stopped = false ∧ namedHandle s.dev c false = .ok h ∧ s.dev.txnOf h = some t ∧ t.pending = false ∧ ((∀ i < n, (if t.package then isPackageKey else isPastureKey) (setItem c i).1 = true))) ∧
      staged = ((List.range n).map (setItem c)).foldl (fun l i => stage l i.1 i.2) t.items ∧
      staged.length ≤ 512) ∧
  (∃ (s : State) (c : Door) (h : Nat) (n : Nat) (p : Nat) (t : Txn),
      s.dev.hears c = true ∧
      n = dp c 4 2 ∧
      1 ≤ n ∧
      n ≤ 6 ∧
      cfgGetHeader c n = .ok () ∧
      dp c 0 4 ≠ 0 ∧
      namedHandle s.dev c false = .ok h ∧
      s.dev.txnOf h = some t ∧
      ((∀ i < n, isPastureKey (dp c (8 + 2 * i) 2) = true → (if t.package then s.dev.pastureOf c.func else some t.pasture) = some p)) ∧
      ((∀ i < n, isPastureKey (dp c (8 + 2 * i) 2) = true ∨ isPackageKey (dp c (8 + 2 * i) 2) = true))) ∧
  (∃ (s : State) (c : Door) (n : Nat) (p : Nat),
      s.dev.hears c = true ∧
      n = dp c 4 2 ∧
      1 ≤ n ∧
      n ≤ 6 ∧
      cfgGetHeader c n = .ok () ∧
      dp c 0 4 = 0 ∧
      ((∀ i < n, isPastureKey (dp c (8 + 2 * i) 2) = true → s.dev.pastureOf c.func = some p)) ∧
      ((∀ i < n, isPastureKey (dp c (8 + 2 * i) 2) = true ∨ isPackageKey (dp c (8 + 2 * i) 2) = true))) :=
  ⟨⟨at_ (mine own), pf 8 [0, 0xFF], 0, by decide +kernel, checkHeader_ok (by decide +kernel), by decide +kernel⟩,
   ⟨at_ ready, pf 8 [1, 0], by decide +kernel, checkHeader_ok (by decide +kernel), by decide +kernel⟩,
   ⟨at_ (held .txn { mine own with txns := [⟨1, false, 0, [], 0, false, 0, 0, false, false, [], 0⟩] }), pf 24 ([1, 0, 0, 0, 1, 0, 0, 0, 1, 1, 0, 0, 0, 0, 0, 0, 1]), 1, _, ⟨1, false, 0, [], 0, false, 0, 0, false, false, [], 0⟩, _, by decide +kernel, rfl, by decide +kernel, rfl, by decide +kernel⟩,
   ⟨at_ (held .txn { mine own with txns := [⟨1, false, 0, [], 0, false, 0, 0, false, false, [], 0⟩] }), pf 16 ([1, 0, 0, 0, 1, 0, 0, 0, 1, 1]), 1, _, 0, ⟨1, false, 0, [], 0, false, 0, 0, false, false, [], 0⟩, by decide +kernel, rfl, by decide +kernel⟩,
   ⟨at_ (mine own), pf 16 ([0, 0, 0, 0, 1, 0, 0, 0, 1, 1]), _, 0, by decide +kernel, rfl, by decide +kernel⟩⟩

theorem witness_ConfigurationTransactionsCommitAndRollBack :
  (∃ (s : State) (c : Door) (h : Nat) (t : Txn) (u : Txn),
      s.dev.hears c = true ∧
      checkHeader c 16 [(0, List.replicate 4 255), (8, List.replicate 8 255)] = .ok () ∧
      (s.dev.stopped = false ∧ namedHandle s.dev c false = .ok h ∧ s.dev.txnOf h = some t ∧ t.pending = false ∧ 16 ≤ beatAhead s.dev.beat.now (dp c 8 8) ∧ beatAhead s.dev.beat.now (dp c 8 8) ≤ 2 ^ 24) ∧
      u = { t with pending := true, commit := dp c 8 8, order := s.dev.commits } ∧
      s.dev.calRoom (commitEntry s.dev u).dies 1 = true ∧
      s.dev.validate t (dp c 8 8) s.dev.commits = none) ∧
  (∃ (s : State) (c : Door) (h : Nat) (t : Txn) (u : Txn) (i : _) (k : _) (r : _),
      s.dev.hears c = true ∧
      checkHeader c 16 [(0, List.replicate 4 255), (8, List.replicate 8 255)] = .ok () ∧
      (s.dev.stopped = false ∧ namedHandle s.dev c false = .ok h ∧ s.dev.txnOf h = some t ∧ t.pending = false ∧ 16 ≤ beatAhead s.dev.beat.now (dp c 8 8) ∧ beatAhead s.dev.beat.now (dp c 8 8) ≤ 2 ^ 24) ∧
      u = { t with pending := true, commit := dp c 8 8, order := s.dev.commits } ∧
      s.dev.calRoom (commitEntry s.dev u).dies 1 = true ∧
      s.dev.validate t (dp c 8 8) s.dev.commits = some (i, k, r)) ∧
  (∃ (s : State) (c : Door) (h : Nat) (t : Txn),
      s.dev.hears c = true ∧
      checkHeader c 8 [(0, List.replicate 4 255)] = .ok () ∧
      s.dev.stopped = false ∧
      namedHandle s.dev c true = .ok h ∧
      s.dev.txnOf h = some t ∧
      t.validated = false ∧
      t.fired = false) ∧
  (∃ (s : State) (h : Nat) (t : Txn),
      s.dev.txnOf h = some t ∧
      t.pending = true ∧
      t.validated = false ∧
      (s.dev.beat.now + 4) % 2 ^ 64 = t.commit) ∧
  (∃ (s : State) (h : Nat) (t : Txn),
      s.dev.txnOf h = some t ∧
      t.pending = false ∧
      2 ^ 24 ≤ beatAhead t.touched s.dev.beat.now) :=
  ⟨⟨at_ (held .txn { mine own with txns := [⟨1, false, 0, [(0x0101, 1)], 0, false, 0, 0, false, false, [], 0⟩] }), pf 16 ([1, 0, 0, 0, 0, 0, 0, 0, 16]), 1, ⟨1, false, 0, [(0x0101, 1)], 0, false, 0, 0, false, false, [], 0⟩, _, by decide +kernel, checkHeader_ok (by decide +kernel), by decide +kernel, rfl, by decide +kernel⟩,
   ⟨at_ (held .txn { mine own with txns := [⟨1, false, 0, [(0x0101, 2)], 0, false, 0, 0, false, false, [], 0⟩] }), pf 16 ([1, 0, 0, 0, 0, 0, 0, 0, 0, 0, 0, 1]), 1, ⟨1, false, 0, [(0x0101, 2)], 0, false, 0, 0, false, false, [], 0⟩, _, 0, 0x0101, 1, by decide +kernel, checkHeader_ok (by decide +kernel), by decide +kernel, rfl, by decide +kernel⟩,
   ⟨at_ (held .txn { mine own with txns := [⟨1, false, 0, [], 0, false, 0, 0, false, false, [], 0⟩] }), pf 8 [1], 1, ⟨1, false, 0, [], 0, false, 0, 0, false, false, [], 0⟩, by decide +kernel, checkHeader_ok (by decide +kernel), by decide +kernel⟩,
   ⟨at_ (held .txn { mine own with txns := [⟨1, false, 0, [], 0, true, 4, 0, false, false, [], 0⟩] }), 1, ⟨1, false, 0, [], 0, true, 4, 0, false, false, [], 0⟩, by decide +kernel⟩,
   ⟨at_ (held .txn { mine own with beat := { now := 2 ^ 24 }, txns := [⟨1, false, 0, [], 0, false, 0, 0, false, false, [], 0⟩] }), 1, ⟨1, false, 0, [], 0, false, 0, 0, false, false, [], 0⟩, by decide +kernel⟩⟩

theorem witness_HandleCompletesOnce :
  (∃ (d : Dev) (h : Nat) (st : Nat) (beat : Nat) (res : List Nat) (ruled : Bool) (x : Handle) (e : _) (f : _),
      (Tab.get? d.handles h = some x ∧ d.isOpen h = true ∧ (d.func (hFunc h)).flr = false ∧ hGen h = (d.func (hFunc h)).gen) ∧
      e = d.finishAt h st beat res ruled ∧
      f ≠ hFunc h) ∧
  (∃ (d : Dev) (h : Nat),
      d.isOpen h = false) :=
  ⟨⟨held .immediate ready, 1, 0, 0, [], false, ⟨0, .immediate⟩, _, 1, by decide +kernel, rfl, by decide +kernel⟩,
   ⟨ready, 1, by decide +kernel⟩⟩

theorem witness_PastureCommandsActAsAccepted :
  (∃ (s : State) (c : Door) (p : Nat),
      s.dev.hears c = true ∧
      checkHeader c 8 [(0, [255, 255, 255])] = .ok () ∧
      c.func = 0 ∧
      s.dev.stopped = false ∧
      dp c 0 2 ≠ 0 ∧
      dp c 2 1 ≤ 16 ∧
      (s.dev.func (dp c 2 1)).enabled = true ∧
      ((∀ pen < 16, bit (dp c 0 2) pen = true → s.dev.pastureOfPen pen = 31 ∧ bit s.dev.faults.offline pen = false)) ∧
      ((∀ q ∈ s.dev.pastures, q.2.func ≠ dp c 2 1)) ∧
      s.dev.handlesLeft 0 = true ∧
      (List.range 16).find? (fun n => (Tab.get? s.dev.pastures n).isNone) = some p) ∧
  (∃ (s : State) (c : Door) (q : Pasture),
      s.dev.hears c = true ∧
      checkHeader c 8 [(0, [255])] = .ok () ∧
      c.func = 0 ∧
      s.dev.stopped = false ∧
      s.dev.pasture (dp c 0 1) = some q ∧
      s.dev.grantsOut (dp c 0 1) q = false ∧
      s.dev.handlesLeft 0 = true) ∧
  (∃ (s : State) (c : Door) (p : Nat) (q : Pasture),
      s.dev.hears c = true ∧
      checkHeader c 8 [(0, [255])] = .ok () ∧
      namedPasture s.dev c 0 = .ok p ∧
      s.dev.pasture p = some q) ∧
  (∃ (s : State) (p : Nat) (q : Nat) (h : Nat) (left : Nat) (x : Handle),
      s.dev.handles.find? (awaitsClear p) = some (h, x) ∧
      x.work = .pastureCreate q left) ∧
  (∃ (s : State) (p : Nat) (q : Nat) (h : Nat) (left : Nat) (x : Handle) (pens : _),
      s.dev.handles.find? (awaitsClear p) = some (h, x) ∧
      x.work = .pastureDestroy q pens left) :=
  ⟨⟨at_ ready, pf 8 [1, 0, 0], 0, by decide +kernel, checkHeader_ok (by decide +kernel), by decide +kernel⟩,
   ⟨at_ (mine own), pf 8 [0], own, by decide +kernel, checkHeader_ok (by decide +kernel), by decide +kernel⟩,
   ⟨at_ (mine own), pf 8 [0xFF], 0, own, by decide +kernel, checkHeader_ok (by decide +kernel), by decide +kernel⟩,
   ⟨at_ (held (.pastureCreate 0 3) (mine { own with ready := false })), 0, 0, 1, 3, ⟨0, .pastureCreate 0 3⟩, by decide +kernel⟩,
   ⟨at_ (held (.pastureDestroy 0 3 1) (mine { own with dying := true })), 0, 0, 1, 1, ⟨0, .pastureDestroy 0 3 1⟩, 3, by decide +kernel⟩⟩

theorem witness_ImageCommandsActAsAccepted :
  (∃ (s : State) (c : Door) (p : Nat) (q : Pasture),
      s.dev.hears c = true ∧
      checkHeader c 32 [(0, [255, 255, 255, 255, 1]), (8, List.replicate 24 255)] = .ok () ∧
      (s.dev.stopped = false ∧ s.dev.pastureOf c.func = some p ∧ s.dev.pasture p = some q ∧ dp c 2 1 ≤ 15 ∧ bit q.pens (dp c 2 1) = true ∧ dp c 0 2 ≤ 1023 ∧ dp c 3 1 ≤ 14 ∧ ((dp c 3 1 = 0 → dp c 8 8 % 2048 = 0)) ∧ dp c 16 8 ≠ 0 ∧ dp c 16 8 % 64 = 0 ∧ dp c 8 8 + dp c 16 8 ≤ 2 ^ 38 ∧ dp c 24 8 % 64 = 0 ∧ Tab.get? q.images (dp c 0 2) = none ∧ ((∀ r ∈ s.dev.pastures, ∀ i ∈ r.2.images, i.2.pen = dp c 2 1 → overlaps i.2.off i.2.len (dp c 8 8) (dp c 16 8) = false))) ∧
      ((∀ o n, s.dev.poolOf p (dp c 2 1) = some (o, n) → overlaps o n (dp c 8 8) (dp c 16 8) = false)) ∧
      s.dev.handlesLeft c.func = true) ∧
  (∃ (s : State) (c : Door) (p : Nat) (i : Image),
      s.dev.hears c = true ∧
      checkHeader c 8 [(0, List.replicate 6 255)] = .ok () ∧
      c.func = 0 ∧
      s.dev.stopped = false ∧
      namedPasture s.dev c 1 = .ok p ∧
      dp c 0 1 = 0 ∧
      dp c 2 2 ≤ 1023 ∧
      s.dev.image p (dp c 2 2) = some i ∧
      i.shared = true ∧
      ((∀ u < 16, u ≠ p → bit i.grants u = true → bit (dp c 4 2) u = false → s.dev.showBinds u p (dp c 2 2) = false)) ∧
      s.dev.handlesLeft 0 = true ∧
      ((s.dev.took c 0x0302).modImage p (dp c 2 2) (fun i => { i with grants := dp c 4 2 })).windowsFit = true) ∧
  (∃ (s : State) (c : Door) (p : Nat) (x : Prefix),
      s.dev.hears c = true ∧
      checkHeader c 8 [(0, List.replicate 6 255)] = .ok () ∧
      c.func = 0 ∧
      s.dev.stopped = false ∧
      namedPasture s.dev c 1 = .ok p ∧
      dp c 0 1 = 1 ∧
      dp c 2 2 ≤ 1023 ∧
      s.dev.prefixOf p (dp c 2 2) = some x ∧
      ((∀ r ∈ s.dev.reqs, r.2.pasture ≠ p → r.2.pfx = some (p * 1024 + dp c 2 2) → bit x.grants r.2.pasture = true → bit (dp c 4 2) r.2.pasture = true)) ∧
      s.dev.handlesLeft 0 = true ∧
      ((s.dev.took c 0x0302).modPrefix p (dp c 2 2) (fun x => { x with grants := dp c 4 2 })).windowsFit = true) ∧
  (∃ (s : State) (c : Door) (p : Nat) (i : Image),
      s.dev.hears c = true ∧
      checkHeader c 32 [(0, [255, 255, 255]), (8, List.replicate 24 255)] = .ok () ∧
      s.dev.stopped = false ∧
      namedPasture s.dev c 2 = .ok p ∧
      dp c 0 2 ≤ 1023 ∧
      s.dev.image p (dp c 0 2) = some i ∧
      dp c 8 8 % 4096 = 0 ∧
      dp c 8 8 < i.len ∧
      dp c 16 8 ≠ 0 ∧
      dp c 8 8 + dp c 16 8 ≤ i.len ∧
      ((dp c 16 8 % 4096 = 0 ∨ dp c 8 8 + dp c 16 8 = i.len)) ∧
      dp c 24 8 % 64 = 0 ∧
      s.dev.handlesLeft c.func = true) ∧
  (∃ (s : State) (c : Door) (p : Nat) (i : Image),
      s.dev.hears c = true ∧
      checkHeader c 8 [(0, [255, 255])] = .ok () ∧
      s.dev.stopped = false ∧
      s.dev.pastureOf c.func = some p ∧
      dp c 0 2 ≤ 1023 ∧
      s.dev.image p (dp c 0 2) = some i ∧
      s.dev.binders p (dp c 0 2) = [] ∧
      i.grants % 2 ^ 16 = i.grants &&& 2 ^ p ∧
      s.dev.handlesLeft c.func = true) :=
  ⟨⟨at_ (mine own), pf 32 ([0xFF, 3, 1, 1] ++ z 12 ++ [64]), 0, own, by decide +kernel, checkHeader_ok (by decide +kernel), by decide +kernel, (by intro o n h; cases h), by decide +kernel⟩,
   ⟨at_ (mine { own with images := [(5, ⟨0, 0, 64, 1, true, 0, [], none, 0, 0, false, true, false, [], []⟩)] }), pf 8 [0, 0, 5, 0, 2, 0], 0, ⟨0, 0, 64, 1, true, 0, [], none, 0, 0, false, true, false, [], []⟩, by decide +kernel, checkHeader_ok (by decide +kernel), by decide +kernel⟩,
   ⟨at_ (mine { own with prefixes := [(5, { built := true })] }), pf 8 [1, 0, 5, 0, 2, 0], 0, { built := true }, by decide +kernel, checkHeader_ok (by decide +kernel), by decide +kernel⟩,
   ⟨at_ (mine { own with images := [(5, ⟨0, 0, 64, 1, true, 0, [], none, 0, 0, false, true, false, [], []⟩)] }), pf 32 ([5, 0, 0] ++ z 13 ++ [64]), 0, ⟨0, 0, 64, 1, true, 0, [], none, 0, 0, false, true, false, [], []⟩, by decide +kernel, checkHeader_ok (by decide +kernel), by decide +kernel⟩,
   ⟨at_ (mine { own with images := [(5, ⟨0, 0, 64, 1, true, 1, [], none, 0, 0, false, true, false, [], []⟩)] }), pf 8 [5], 0, ⟨0, 0, 64, 1, true, 1, [], none, 0, 0, false, true, false, [], []⟩, by decide +kernel, checkHeader_ok (by decide +kernel), by decide +kernel⟩⟩

theorem witness_ShowCommandsActAsAccepted :
  (∃ (s : State) (c : Door) (p : Nat),
      s.dev.hears c = true ∧
      checkHeader c 16 [(0, List.replicate 16 255)] = .ok () ∧
      s.dev.stopped = false ∧
      s.dev.pastureOf c.func = some p ∧
      dp c 0 8 % 64 = 0 ∧
      4096 ≤ dp c 8 8 ∧
      dp c 8 8 ≤ 2 ^ 30 ∧
      s.dev.showOf p = none ∧
      ((∀ h ∈ s.dev.handles, hFunc h.1 = c.func → h.2.work.loadsShow = false)) ∧
      s.dev.handlesLeft c.func = true) ∧
  (∃ (s : State) (h : Nat) (p : Nat) (pens : Nat) (bs : List Byte) (feeds : _) (pins : _) (spread : _) (sparse : _) (addrs : _) (f : ShowFacts) (x : Handle) (k : Container),
      Tab.get? s.dev.handles h = some x ∧
      x.work = .showCheck p bs ∧
      pens = ((Tab.get? s.dev.pastures p).map (·.pens)).getD 0 ∧
      f = { feeds, pins, spread, sparse, addrs } ∧
      containerCheck s.dev p pens bs.length bs f = .ok k) ∧
  (∃ (s : State) (h : Nat) (p : Nat) (pens : Nat) (bs : List Byte) (feeds : _) (pins : _) (spread : _) (sparse : _) (addrs : _) (f : ShowFacts) (x : Handle) (e : ShowFail),
      Tab.get? s.dev.handles h = some x ∧
      x.work = .showCheck p bs ∧
      pens = ((Tab.get? s.dev.pastures p).map (·.pens)).getD 0 ∧
      f = { feeds, pins, spread, sparse, addrs } ∧
      containerCheck s.dev p pens bs.length bs f = .error e) ∧
  (∃ (s : State) (c : Door) (p : Nat) (w : Show),
      s.dev.hears c = true ∧
      checkHeader c 8 [] = .ok () ∧
      (s.dev.stopped = false ∧ s.dev.pastureOf c.func = some p ∧ s.dev.showOf p = some w ∧ s.dev.openReqs p = 0) ∧
      ((∀ q, Tab.get? s.dev.pastures p = some q → ∀ x ∈ q.prefixes, x.2.count = 0)) ∧
      s.dev.handlesLeft c.func = true) :=
  ⟨⟨at_ (mine own), pf 16 (z 9 ++ [16]), 0, by decide +kernel, checkHeader_ok (by decide +kernel), by decide +kernel⟩,
   ⟨at_ (held (.showCheck 0 container) (mine own)), 1, 0, _, container, [], [], [], [], [], _, ⟨0, .showCheck 0 container⟩, checked, by decide +kernel, by decide +kernel, rfl, rfl, by decide +kernel⟩,
   ⟨at_ (held (.showCheck 0 []) (mine own)), 1, 0, _, [], [], [], [], [], [], _, ⟨0, .showCheck 0 []⟩, ⟨4, 0, 0, 0⟩, by decide +kernel, by decide +kernel, rfl, rfl, by decide +kernel⟩,
   ⟨at_ (mine shown), pf 8 [], 0, {}, by decide +kernel, checkHeader_ok (by decide +kernel), by decide +kernel, (by intro q h x hx; cases h; cases hx), by decide +kernel⟩⟩

theorem witness_RequestsOpenAppendAndGenerate :
  (∃ (s : State) (c : Door) (p : Nat) (w : Show),
      s.dev.hears c = true ∧
      checkHeader c 8 [(0, [255, 255, 255])] = .ok () ∧
      s.dev.stopped = false ∧
      s.dev.pastureOf c.func = some p ∧
      s.dev.showOf p = some w ∧
      s.dev.handlesLeft c.func = true ∧
      s.dev.openReqs p < w.rmax ∧
      dp c 0 2 = 0xFFFF) ∧
  (∃ (s : State) (c : Door) (p : Nat) (w : Show) (owner : Nat) (x : Prefix),
      s.dev.hears c = true ∧
      checkHeader c 8 [(0, [255, 255, 255])] = .ok () ∧
      (s.dev.stopped = false ∧ s.dev.pastureOf c.func = some p ∧ s.dev.showOf p = some w ∧ s.dev.handlesLeft c.func = true ∧ s.dev.openReqs p < w.rmax ∧ dp c 0 2 ≠ 0xFFFF) ∧
      owner = (if dp c 2 1 = 0xFF then p else dp c 2 1) ∧
      s.dev.prefixOf owner (dp c 0 2) = some x ∧
      x.dropped = false ∧
      x.built = true ∧
      ((owner = p ∨ bit x.grants p = true)) ∧
      x.count < 2 ^ 32 - 1 ∧
      dp c 0 2 < 1024) ∧
  (∃ (s : State) (c : Door) (h : Nat) (p : Nat) (r : Request),
      s.dev.hears c = true ∧
      checkHeader c 16 [(0, List.replicate 16 255)] = .ok () ∧
      s.dev.stopped = false ∧
      s.dev.pastureOf c.func = some p ∧
      namedHandle s.dev c false = .ok h ∧
      s.dev.req h = some r ∧
      1 ≤ dp c 4 4 ∧
      dp c 4 4 ≤ 2 ^ 20 ∧
      r.committed + dp c 4 4 ≤ 262144 ∧
      dp c 8 8 % 64 = 0 ∧
      s.dev.handlesLeft c.func = true ∧
      reserveOk s.dev r (r.need (dp c 4 4) 0) = .ok () ∧
      admitAppend r = .accept) ∧
  (∃ (s : State) (c : Door) (h : Nat) (p : Nat) (r : Request),
      s.dev.hears c = true ∧
      checkHeader c 16 [(0, List.replicate 16 255)] = .ok () ∧
      s.dev.stopped = false ∧
      s.dev.pastureOf c.func = some p ∧
      namedHandle s.dev c false = .ok h ∧
      s.dev.req h = some r ∧
      1 ≤ dp c 4 4 ∧
      dp c 4 4 ≤ 2 ^ 20 ∧
      r.committed + dp c 4 4 ≤ 262144 ∧
      dp c 8 8 % 64 = 0 ∧
      s.dev.handlesLeft c.func = true ∧
      reserveOk s.dev r (r.need (dp c 4 4) 0) = .ok () ∧
      admitAppend r = .queue) ∧
  (∃ (s : State) (c : Door) (h : Nat) (n : Nat) (p : Nat) (r : Request),
      s.dev.hears c = true ∧
      checkHeader c 24 [(0, List.replicate 20 255)] = .ok () ∧
      (s.dev.stopped = false ∧ s.dev.pastureOf c.func = some p ∧ namedHandle s.dev c false = .ok h ∧ s.dev.req h = some r ∧ 1 ≤ dp c 4 4 ∧ dp c 4 4 ≤ 2 ^ 20 ∧ r.committed + dp c 4 4 ≤ 262144 ∧ dp c 8 8 % 64 = 0 ∧ 8 + 4 * dp c 4 4 ≤ dp c 16 4 ∧ s.dev.handlesLeft c.func = true) ∧
      n = r.need (dp c 4 4) (s.dev.draftWidth r.pasture) ∧
      reserveOk s.dev r n = .ok () ∧
      admitGen r = .accept) ∧
  (∃ (s : State) (c : Door) (h : Nat) (n : Nat) (p : Nat) (r : Request),
      s.dev.hears c = true ∧
      checkHeader c 24 [(0, List.replicate 20 255)] = .ok () ∧
      (s.dev.stopped = false ∧ s.dev.pastureOf c.func = some p ∧ namedHandle s.dev c false = .ok h ∧ s.dev.req h = some r ∧ 1 ≤ dp c 4 4 ∧ dp c 4 4 ≤ 2 ^ 20 ∧ r.committed + dp c 4 4 ≤ 262144 ∧ dp c 8 8 % 64 = 0 ∧ 8 + 4 * dp c 4 4 ≤ dp c 16 4 ∧ s.dev.handlesLeft c.func = true) ∧
      n = r.need (dp c 4 4) (s.dev.draftWidth r.pasture) ∧
      reserveOk s.dev r n = .ok () ∧
      admitGen r = .queue) :=
  ⟨⟨at_ (mine shown), pf 8 [0xFF, 0xFF], 0, {}, by decide +kernel, checkHeader_ok (by decide +kernel), by decide +kernel⟩,
   ⟨at_ (mine { shown with prefixes := [(1023, { built := true, count := 2 ^ 32 - 2 })] }), pf 8 [0xFF, 3, 0xFF], 0, {}, _, { built := true, count := 2 ^ 32 - 2 }, by decide +kernel, checkHeader_ok (by decide +kernel), by decide +kernel, rfl, by decide +kernel⟩,
   ⟨at_ (asked { pasture := 0 }), pf 16 [1, 0, 0, 0, 0, 0, 4], 1, 0, { pasture := 0 }, by decide +kernel, checkHeader_ok (by decide +kernel), by decide +kernel⟩,
   ⟨at_ (asked { pasture := 0, st := .prefill }), pf 16 [1, 0, 0, 0, 1], 1, 0, { pasture := 0, st := .prefill }, by decide +kernel, checkHeader_ok (by decide +kernel), by decide +kernel⟩,
   ⟨at_ (asked { pasture := 0, committed := 262142 }), pf 24 ([1, 0, 0, 0, 1] ++ z 11 ++ [12]), 1, _, 0, { pasture := 0, committed := 262142 }, by decide +kernel, checkHeader_ok (by decide +kernel), by decide +kernel, rfl, by decide +kernel⟩,
   ⟨at_ (asked { pasture := 0, st := .resuming }), pf 24 ([1, 0, 0, 0, 1] ++ z 11 ++ [12]), 1, _, 0, { pasture := 0, st := .resuming }, by decide +kernel, checkHeader_ok (by decide +kernel), by decide +kernel, rfl, by decide +kernel⟩⟩

theorem witness_RequestStateTable :
  (∃ (r : Request),
      r.st = .idle) ∧
  (∃ (r : Request),
      r.st = .prefill) ∧
  (∃ (r : Request),
      r.st = .decode) ∧
  (∃ (r : Request),
      r.st = .resuming) ∧
  (∃ (r : Request),
      ((r.st = .pausing ∨ r.st = .paused))) :=
  ⟨⟨{ pasture := 0 }, by decide +kernel⟩,
   ⟨{ pasture := 0, st := .prefill }, by decide +kernel⟩,
   ⟨{ pasture := 0, st := .decode }, by decide +kernel⟩,
   ⟨{ pasture := 0, st := .resuming }, by decide +kernel⟩,
   ⟨{ pasture := 0, st := .paused }, by decide +kernel⟩⟩

theorem witness_RequestsPauseResumeCloseAndReport :
  (∃ (s : State) (c : Door) (h : Nat) (p : Nat) (r : Request),
      s.dev.hears c = true ∧
      checkHeader c 8 [(0, List.replicate 8 255)] = .ok () ∧
      s.dev.stopped = false ∧
      s.dev.pastureOf c.func = some p ∧
      namedHandle s.dev c false = .ok h ∧
      s.dev.req h = some r ∧
      1 ≤ dp c 4 4 ∧
      dp c 4 4 ≤ 2592000 ∧
      r.st = .idle ∧
      s.dev.handlesLeft c.func = true) ∧
  (∃ (s : State) (c : Door) (h : Nat) (p : Nat) (r : Request),
      s.dev.hears c = true ∧
      checkHeader c 8 [(0, List.replicate 4 255)] = .ok () ∧
      s.dev.stopped = false ∧
      s.dev.pastureOf c.func = some p ∧
      namedHandle s.dev c false = .ok h ∧
      s.dev.req h = some r ∧
      r.st = .paused ∧
      beatGe s.dev.beat.now r.expiry = false ∧
      s.dev.handlesLeft c.func = true ∧
      s.dev.canRestore r = true) ∧
  (∃ (s : State) (c : Door) (h : Nat) (r : Request) (q : _) (e : _),
      s.dev.hears c = true ∧
      checkHeader c 8 [(0, List.replicate 4 255)] = .ok () ∧
      s.dev.stopped = false ∧
      ((c.func ≠ 0 → ∃ p, s.dev.pastureOf c.func = some p)) ∧
      (namedHandle s.dev c true = .ok h ∧ s.dev.req h = some r ∧ r.closing = false ∧ s.dev.handlesLeft (hFunc h) = true) ∧
      q = s.dev.nextHandle (hFunc h) ∧
      e = ((s.dev.took c 0x0506).opened (hFunc h) c.tag (.reqClose h)).modReq h (fun y => { y with close := q, closing := true }) ∧
      ((r.st = .idle ∨ r.st = .paused ∨ (r.st = .pausing ∧ r.moving = false) ∨ (r.st = .resuming ∧ r.tier = [])))) ∧
  (∃ (s : State) (c : Door) (h : Nat) (r : Request) (q : _) (e : _),
      s.dev.hears c = true ∧
      checkHeader c 8 [(0, List.replicate 4 255)] = .ok () ∧
      s.dev.stopped = false ∧
      ((c.func ≠ 0 → ∃ p, s.dev.pastureOf c.func = some p)) ∧
      (namedHandle s.dev c true = .ok h ∧ s.dev.req h = some r ∧ r.closing = false ∧ s.dev.handlesLeft (hFunc h) = true) ∧
      q = s.dev.nextHandle (hFunc h) ∧
      e = ((s.dev.took c 0x0506).opened (hFunc h) c.tag (.reqClose h)).modReq h (fun y => { y with close := q, closing := true }) ∧
      ((r.st = .prefill ∨ r.st = .decode ∨ (r.st = .pausing ∧ r.moving = true) ∨ (r.st = .resuming ∧ r.tier ≠ [])))) :=
  ⟨⟨at_ (asked { pasture := 0 }), pf 8 [1, 0, 0, 0, 0, 0x8D, 0x27], 1, 0, { pasture := 0 }, by decide +kernel, checkHeader_ok (by decide +kernel), by decide +kernel⟩,
   ⟨at_ (asked { pasture := 0, st := .paused, expiry := 1 }), pf 8 [1], 1, 0, { pasture := 0, st := .paused, expiry := 1 }, by decide +kernel, checkHeader_ok (by decide +kernel), by decide +kernel⟩,
   ⟨at_ (asked { pasture := 0, st := .pausing }), pf 8 [1], 1, { pasture := 0, st := .pausing }, _, _, by decide +kernel, checkHeader_ok (by decide +kernel), by decide +kernel, (fun h => absurd rfl h), by decide +kernel, rfl, rfl, by decide +kernel⟩,
   ⟨at_ (asked { pasture := 0, st := .pausing, moving := true }), pf 8 [1], 1, { pasture := 0, st := .pausing, moving := true }, _, _, by decide +kernel, checkHeader_ok (by decide +kernel), by decide +kernel, (fun h => absurd rfl h), by decide +kernel, rfl, rfl, by decide +kernel⟩⟩

theorem witness_PrefixAndAdapterCommandsActAsAccepted :
  (∃ (s : State) (c : Door) (p : Nat) (w : Show) (old : List Nat) (h : _),
      s.dev.hears c = true ∧
      checkHeader c 16 [(0, [255, 255, 0, 0, 255, 255, 255, 255, 255, 255, 255, 255, 255, 255, 255, 255])] = .ok () ∧
      (s.dev.stopped = false ∧ s.dev.pastureOf c.func = some p ∧ dp c 0 2 ≤ 1023 ∧ 1 ≤ dp c 4 4 ∧ dp c 4 4 ≤ 2 ^ 20 ∧ dp c 8 8 % 64 = 0 ∧ s.dev.showOf p = some w) ∧
      ((∀ x, s.dev.prefixOf p (dp c 0 2) = some x → x.count = 0 ∧ x.built = true)) ∧
      old = (match s.dev.prefixOf p (dp c 0 2) with | some x => x.lists.flatMap (·.2) | none => []) ∧
      ((∀ pen ∈ sharePens w, cdiv (dp c 4 4) 64 * w.lgroups ≤ ((s.dev.took c 0x0601).releasePages old).poolFree p pen w.lgroups)) ∧
      s.dev.handlesLeft c.func = true ∧
      h = s.dev.nextHandle c.func) ∧
  (∃ (s : State) (c : Door) (p : Nat) (x : Prefix),
      s.dev.hears c = true ∧
      checkHeader c 24 [(0, [255, 255, 0, 0]), (4, List.replicate 20 255)] = .ok () ∧
      s.dev.stopped = false ∧
      s.dev.pastureOf c.func = some p ∧
      s.dev.prefixOf p (dp c 0 2) = some x ∧
      x.built = true ∧
      x.count = 0 ∧
      1 ≤ dp c 4 4 ∧
      dp c 4 4 ≤ 2 ^ 20 ∧
      dp c 8 8 % 64 = 0 ∧
      dp c 16 8 ≤ 2 ^ 32 ∧
      s.dev.handlesLeft c.func = true) ∧
  (∃ (s : State) (c : Door) (p : Nat) (x : Prefix),
      s.dev.hears c = true ∧
      checkHeader c 8 [(0, [255, 255])] = .ok () ∧
      s.dev.stopped = false ∧
      s.dev.pastureOf c.func = some p ∧
      s.dev.prefixOf p (dp c 0 2) = some x ∧
      x.dropped = false ∧
      x.built = true ∧
      s.dev.handlesLeft c.func = true) ∧
  (∃ (s : State) (c : Door) (p : Nat) (w : Show),
      s.dev.hears c = true ∧
      checkHeader c 24 [(0, [255, 255, 0, 0]), (4, List.replicate 20 255)] = .ok () ∧
      s.dev.stopped = false ∧
      s.dev.pastureOf c.func = some p ∧
      s.dev.showOf p = some w ∧
      1 ≤ dp c 4 4 ∧
      dp c 4 4 ≤ 2 ^ 20 ∧
      dp c 8 8 % 64 = 0 ∧
      dp c 16 8 ≤ 2 ^ 32 ∧
      ((∀ r ∈ s.dev.reqs, r.2.pasture = p → r.2.st ≠ .prefill ∧ r.2.st ≠ .decode)) ∧
      s.dev.handlesLeft c.func = true) :=
  ⟨⟨at_ (mine shown), pf 16 ([0xFF, 3, 0, 0, 1]), 0, {}, _, _, by decide +kernel, checkHeader_ok (by decide +kernel), by decide +kernel, (by intro x h; cases h), rfl, by decide +kernel, by decide +kernel, rfl⟩,
   ⟨at_ (mine { shown with prefixes := [(5, { built := true })] }), pf 24 ([5, 0, 0, 0, 0, 0, 16]), 0, { built := true }, by decide +kernel, checkHeader_ok (by decide +kernel), by decide +kernel⟩,
   ⟨at_ (mine { shown with prefixes := [(5, { built := true, count := 3 })] }), pf 8 [5], 0, { built := true, count := 3 }, by decide +kernel, checkHeader_ok (by decide +kernel), by decide +kernel⟩,
   ⟨at_ (mine shown), pf 24 ([5, 0, 0, 0, 1]), 0, {}, by decide +kernel, checkHeader_ok (by decide +kernel), by decide +kernel⟩⟩

theorem witness_ExpertMapCommandsActAsAccepted :
  (∃ (s : State) (c : Door) (bs : List Byte) (es : List Nat),
      s.dev.hears c = true ∧
      checkHeader c 24 [(0, List.replicate 24 255)] = .ok () ∧
      s.dev.stopped = false ∧
      ((c.func ≠ 0 → ∃ p, s.dev.pastureOf c.func = some p ∧ ∀ i < dp c 2 2 + 1, s.dev.ownsIndex p (dp c 0 2 + i) = true)) ∧
      (dp c 2 2 ≤ 255 ∧ dp c 0 2 + (dp c 2 2 + 1) ≤ 65536 ∧ 16 ≤ beatAhead s.dev.beat.now (dp c 8 8) ∧ beatAhead s.dev.beat.now (dp c 8 8) < 2 ^ 63 ∧ dp c 16 8 % 64 = 0 ∧ ((∀ m ∈ s.dev.mapSets, overlaps m.2.1 m.2.2.1 (dp c 0 2) (dp c 2 2 + 1) = false)) ∧ s.dev.handlesLeft c.func = true ∧ c.hostOk = true) ∧
      es = (List.range (dp c 2 2 + 1)).map (fun i => rdLE bs (16 * i) 16) ∧
      ((∀ i v, es[i]? = some v → s.dev.catDenied (dp c 0 2 + i) v = false ∧ catInvalid v = false))) ∧
  (∃ (s : State) (c : Door) (p : _),
      s.dev.hears c = true ∧
      checkHeader c 24 [(0, List.replicate 24 255)] = .ok () ∧
      s.dev.stopped = false ∧
      ((c.func ≠ 0 → ∃ p, s.dev.pastureOf c.func = some p ∧ ∀ i < dp c 2 2 + 1, s.dev.ownsIndex p (dp c 0 2 + i) = true)) ∧
      dp c 2 2 ≤ 255 ∧
      dp c 0 2 + (dp c 2 2 + 1) ≤ 65536 ∧
      16 ≤ beatAhead s.dev.beat.now (dp c 8 8) ∧
      beatAhead s.dev.beat.now (dp c 8 8) < 2 ^ 63 ∧
      dp c 16 8 % 64 = 0 ∧
      ((∀ m ∈ s.dev.mapSets, overlaps m.2.1 m.2.2.1 (dp c 0 2) (dp c 2 2 + 1) = false)) ∧
      s.dev.handlesLeft c.func = true ∧
      c.hostOk = false ∧
      s.dev.pastureOf c.func = some p ∧
      p ≠ 31) ∧
  (∃ (s : State) (h : Nat) (first : Nat) (n : Nat) (ver : Nat) (b : Nat) (es : List Nat),
      s.dev.dueSets.filter (fun m => m.1 == h && (s.dev.owners m.2.1 m.2.2.1).isEmpty) = [(h, first, n, ver, b, es)]) ∧
  (∃ (s : State) (c : Door) (data : List Byte),
      s.dev.hears c = true ∧
      checkHeader c 16 [(0, [255, 255, 255, 255, 0, 0, 0, 0, 255, 255, 255, 255, 255, 255, 255, 255])] = .ok () ∧
      (s.dev.stopped = false ∧ dp c 2 2 ≤ 255 ∧ dp c 0 2 + (dp c 2 2 + 1) ≤ 65536 ∧ dp c 8 8 % 64 = 0) ∧
      data = (List.range (dp c 2 2 + 1)).flatMap (fun i => leBytes (Tab.getD s.dev.catalog (dp c 0 2 + i) 0) 16) ∧
      c.hostOk = true) ∧
  (∃ (s : State) (c : Door) (data : List Byte) (p : _),
      s.dev.hears c = true ∧
      checkHeader c 16 [(0, [255, 255, 255, 255, 0, 0, 0, 0, 255, 255, 255, 255, 255, 255, 255, 255])] = .ok () ∧
      (s.dev.stopped = false ∧ dp c 2 2 ≤ 255 ∧ dp c 0 2 + (dp c 2 2 + 1) ≤ 65536 ∧ dp c 8 8 % 64 = 0) ∧
      data = (List.range (dp c 2 2 + 1)).flatMap (fun i => leBytes (Tab.getD s.dev.catalog (dp c 0 2 + i) 0) 16) ∧
      c.hostOk = false ∧
      s.dev.pastureOf c.func = some p ∧
      p ≠ 31) :=
  ⟨⟨at_ ready, pf 24 ([0, 0xFF, 0, 0] ++ z 4 ++ [16]), [], [0], by decide +kernel, checkHeader_ok (by decide +kernel), by decide +kernel, (fun h => absurd rfl h), by decide +kernel, rfl, (by intro i v h; match i, h with | 0, h => cases h; exact ⟨by decide +kernel, by decide +kernel⟩ | n + 1, h => cases h)⟩,
   ⟨at_ (mine own), { pf 24 ([0, 0xFF, 0, 0] ++ z 4 ++ [16]) with hostOk := false }, 0, by decide +kernel, checkHeader_ok (by decide +kernel), by decide +kernel, (fun h => absurd rfl h), by decide +kernel⟩,
   ⟨at_ { ready with handles := [(1, ⟨0, .expertMapSet 0 1 2 0 [3]⟩)] }, 1, 0, 1, 2, 0, [3], by decide +kernel⟩,
   ⟨at_ ready, pf 16 ([0xFF, 0xFF]), _, by decide +kernel, checkHeader_ok (by decide +kernel), by decide +kernel, rfl, by decide +kernel⟩,
   ⟨at_ (mine own), { pf 16 ([0, 0xFF, 0xFF]) with hostOk := false }, _, 0, by decide +kernel, checkHeader_ok (by decide +kernel), by decide +kernel, rfl, by decide +kernel⟩⟩

theorem witness_LinkRouteAndSyncCommandsActAsAccepted :
  (∃ (s : State) (c : Door) (e : _) (h : _),
      s.dev.hears c = true ∧
      checkHeader c 8 [(0, [255, 1])] = .ok () ∧
      (c.func = 0 ∧ s.dev.stopped = false ∧ dp c 0 1 ≤ 5 ∧ (s.dev.link (dp c 0 1)).st ≠ .training ∧ s.dev.handlesLeft 0 = true) ∧
      e = (s.dev.took c 0x0801).goDown (dp c 0 1) ∧
      h = e.nextHandle 0) ∧
  (∃ (s : State) (c : Door) (x : Link),
      s.dev.hears c = true ∧
      checkHeader c 8 [(0, [255])] = .ok () ∧
      dp c 0 1 ≤ 5 ∧
      x = s.dev.link (dp c 0 1)) ∧
  (∃ (s : State) (c : Door),
      s.dev.hears c = true ∧
      checkHeader c 16 [(0, [255, 15, 63, 7, 255, 15]), (8, List.replicate 8 255)] = .ok () ∧
      c.func = 0 ∧
      s.dev.stopped = false ∧
      ((∀ i < 3, coord (dp c 0 2) i ≤ fld (dp c 2 1) (2 * i) 2)) ∧
      ((∀ i < 6, fld (dp c 4 2) (2 * i) 2 ≠ 3)) ∧
      dp c 8 8 % 64 = 0 ∧
      ((∀ g ∈ s.dev.groups, g.2.exists_ = true → g.2.spans = true → g.2.left = true ∨ g.2.stopped = true)) ∧
      s.dev.handlesLeft 0 = true) ∧
  (∃ (s : State) (c : Door),
      s.dev.hears c = true ∧
      checkHeader c 24 [(0, List.replicate 16 255 ++ [1])] = .ok () ∧
      c.func = 0 ∧
      s.dev.stopped = false ∧
      s.dev.handlesLeft 0 = true ∧
      beatGe (dp c 0 8) s.dev.beat.now = true ∧
      4 ≤ beatAhead s.dev.beat.now (dp c 0 8) ∧
      ((s.dev.aux.strapBeat = true → dp c 16 1 = 1 ∧ dp c 8 8 = 0)) ∧
      ((dp c 16 1 ≠ 1 → s.dev.beat.st ≠ .slipped))) :=
  ⟨⟨at_ ready, pf 8 [5, 1], _, _, by decide +kernel, checkHeader_ok (by decide +kernel), by decide +kernel, rfl, rfl⟩,
   ⟨at_ ready, pf 8 [5], _, by decide +kernel, checkHeader_ok (by decide +kernel), by decide +kernel, rfl⟩,
   ⟨at_ ready, pf 16 [0x39, 9, 0x3F, 1, 0, 8], by decide +kernel, checkHeader_ok (by decide +kernel), by decide +kernel⟩,
   ⟨at_ ready, pf 24 [4], by decide +kernel, checkHeader_ok (by decide +kernel), by decide +kernel⟩⟩

theorem witness_DiagnosticCommandsActAsAccepted :
  (∃ (s : State) (c : Door) (l : List Nat),
      s.dev.hears c = true ∧
      checkHeader c 16 [(0, [255, 255, 255, 255]), (8, List.replicate 8 255)] = .ok () ∧
      (c.func = 0 ∧ dp c 0 1 ≤ 39 ∧ 1 ≤ dp c 2 2 ∧ dp c 2 2 ≤ 256 ∧ dp c 1 1 + dp c 2 2 ≤ 256 ∧ dp c 8 8 % 64 = 0 ∧ s.dev.handlesLeft 0 = true) ∧
      l = (((s.dev.dieCal (dp c 0 1)).map CalEntry.bits).drop (dp c 1 1)).take (dp c 2 2)) ∧
  (∃ (s : State) (c : Door),
      s.dev.hears c = true ∧
      checkHeader c 24 (bufUsed [255, 255, 255, 255, 255, 255]) = .ok () ∧
      c.func = 0 ∧
      s.dev.stopped = false ∧
      ((∀ x ∈ maskList (dp c 0 5) 40, isCompute x = true ∧ s.dev.pastureOfDie x = 31)) ∧
      dp c 5 1 ≤ 2 ∧
      dp c 8 8 % 64 = 0 ∧
      s.dev.handlesLeft 0 = true) ∧
  (∃ (s : State) (c : Door),
      s.dev.hears c = true ∧
      checkHeader c 16 [(0, [255, 255, 1]), (8, List.replicate 8 255)] = .ok () ∧
      c.func = 0 ∧
      s.dev.stopped = false ∧
      dp c 0 1 ≤ 15 ∧
      dp c 1 1 ≤ 135 ∧
      dp c 8 8 % 64 = 0 ∧
      s.dev.pastureOfPen (dp c 0 1) = 31 ∧
      s.dev.handlesLeft 0 = true) ∧
  (∃ (s : State) (c : Door) (p : Nat) (l : List (List Byte)),
      s.dev.hears c = true ∧
      checkHeader c 24 (bufUsed [255]) = .ok () ∧
      dp c 0 1 ≤ 3 ∧
      ((dp c 0 1 ≠ 1 → c.func = 0 ∧ p = 31)) ∧
      ((dp c 0 1 = 1 → s.dev.pastureOf c.func = some p)) ∧
      dp c 8 8 % 64 = 0 ∧
      l = s.dev.dumpItems (dp c 0 1) p ∧
      ((∀ x, l.head? = some x → x.length ≤ dp c 16 4)) ∧
      s.dev.handlesLeft c.func = true) ∧
  (∃ (s : State) (h : Nat) (m : Nat) (level : Nat) (buf : Nat) (len : Nat),
      s.dev.workOf h = some (.diagBist m level buf len) ∧
      level = 2) ∧
  (∃ (s : State) (h : Nat) (m : Nat) (level : Nat) (buf : Nat) (len : Nat) (avg : Nat),
      s.dev.workOf h = some (.diagBist m level buf len) ∧
      level ≠ 2 ∧
      ((level = 1 → s.dev.bistFits m avg = true))) ∧
  (∃ (s : State) (h : Nat) (m : Nat) (level : Nat) (buf : Nat) (len : Nat) (avg : Nat),
      s.dev.workOf h = some (.diagBist m level buf len) ∧
      level = 1 ∧
      s.dev.bistFits m avg = false) ∧
  (∃ (s : State) (pen : Nat) (idx : Nat) (h : Nat) (buf : Nat) (write : Bool) (x : Handle),
      pen < 16 ∧
      idx < 136 ∧
      s.dev.power.inReset = false ∧
      s.dev.power.startingUp = false ∧
      s.dev.handles.find? (s.dev.awaitsMargin pen idx) = some (h, x) ∧
      x.work = .diagMargin pen idx write buf) :=
  ⟨⟨at_ ready, pf 16 [39, 0, 0, 1], _, by decide +kernel, checkHeader_ok (by decide +kernel), by decide +kernel, rfl⟩,
   ⟨at_ ready, pf 24 [1, 0, 0, 0, 0x80, 2], by decide +kernel, checkHeader_ok (by decide +kernel), by decide +kernel⟩,
   ⟨at_ ready, pf 16 [15, 135, 1], by decide +kernel, checkHeader_ok (by decide +kernel), by decide +kernel⟩,
   ⟨at_ ready, pf 24 ([3] ++ z 15 ++ [0, 16]), 31, _, by decide +kernel, checkHeader_ok (by decide +kernel), by decide +kernel, (fun _ => ⟨rfl, rfl⟩), (by intro h; revert h; decide +kernel), by decide +kernel, rfl, (by intro x h; cases h; decide), by decide +kernel⟩,
   ⟨at_ (held (.diagBist 1 2 0 512) ready), 1, 1, 2, 0, 512, by decide +kernel⟩,
   ⟨at_ (held (.diagBist 1 0 0 512) ready), 1, 1, 0, 0, 512, 0, by decide +kernel, by decide +kernel, (by intro h; cases h)⟩,
   ⟨at_ (held (.diagBist 1 1 0 512) ready), 1, 1, 1, 0, 512, 5000, by decide +kernel⟩,
   ⟨at_ (held (.diagMargin 0 0 true 64) ready), 0, 0, 1, 64, true, ⟨0, .diagMargin 0 0 true 64⟩, by decide +kernel⟩⟩

theorem witness_MeteringAndFaultCommandsActAsAccepted :
  (∃ (s : State) (c : Door) (data : List Byte),
      s.dev.hears c = true ∧
      checkHeader c 24 (bufUsed []) = .ok () ∧
      dp c 8 8 % 64 = 0 ∧
      data = leBytes s.dev.mirror.status 8 ++ leBytes s.dev.mirror.seq 8 ++ leBytes s.dev.mirror.time 8 ++ leBytes s.dev.mirror.id 8 ++ leBytes 0 32 ++ (s.dev.sees c.func).flatMap s.dev.mirror.domainBytes ∧
      data.length ≤ dp c 16 4 ∧
      s.dev.handlesLeft c.func = true) ∧
  (∃ (s : State) (c : Door) (l : List (List Byte)),
      s.dev.hears c = true ∧
      checkHeader c 24 (bufUsed (List.replicate 8 255)) = .ok () ∧
      c.func = 0 ∧
      dp c 8 8 % 64 = 0 ∧
      l = (s.dev.tally.audits.filter (fun q => dp c 0 8 ≤ q.1)).map Prod.snd ∧
      ((∀ x, l.head? = some x → x.length ≤ dp c 16 4)) ∧
      s.dev.handlesLeft 0 = true) ∧
  (∃ (s : State) (c : Door) (l : List (List Byte)),
      s.dev.hears c = true ∧
      checkHeader c 24 (bufUsed (List.replicate 4 255)) = .ok () ∧
      dp c 8 8 % 64 = 0 ∧
      l = (s.dev.faults.log.filter (fun r => dp c 0 4 ≤ r.seq && s.dev.seesFault c.func r)).map FaultRec.bytes ∧
      ((∀ x, l.head? = some x → x.length ≤ dp c 16 4)) ∧
      s.dev.handlesLeft c.func = true) ∧
  (∃ (s : State) (c : Door),
      s.dev.hears c = true ∧
      checkHeader c 8 [(0, List.replicate 4 255)] = .ok () ∧
      dp c 0 4 ≠ 0 ∧
      dp c 0 4 ≤ s.dev.faults.lastSeq ∧
      ((∀ r, s.dev.faultOf (dp c 0 4) = some r → s.dev.seesFault c.func r = true))) ∧
  (∃ (s : State) (c : Door) (op : Nat),
      s.dev.hears c = true ∧
      op % 2 ^ 16 ∉ knownOpcodes) :=
  ⟨⟨at_ ready, pf 24 (z 17 ++ [255, 255]), _, by decide +kernel, checkHeader_ok (by decide +kernel), by decide +kernel, rfl, by decide +kernel⟩,
   ⟨at_ ready, pf 24 [1], _, by decide +kernel, checkHeader_ok (by decide +kernel), by decide +kernel, by decide +kernel, rfl, (by intro x h; cases h), by decide +kernel⟩,
   ⟨at_ ready, pf 24 [1], _, by decide +kernel, checkHeader_ok (by decide +kernel), by decide +kernel, rfl, (by intro x h; cases h), by decide +kernel⟩,
   ⟨at_ { ready with faults := { lastSeq := 1 } }, pf 8 [1], by decide +kernel, checkHeader_ok (by decide +kernel), by decide +kernel, by decide +kernel, (by intro r h; cases h)⟩,
   ⟨at_ ready, pf 8 [], 0, by decide +kernel⟩⟩

theorem witness_HostReadsContinueOrEndTheirCommand :
  (∃ (s : State) (h : Nat) (w : Work),
      s.dev.workOf h = some w ∧
      s.dev.reads h w = true) ∧
  (∃ (s : State) (h : Nat) (p : Nat) (n : Nat) (i : Image),
      s.dev.workOf h = some (.imageLoad p n false) ∧
      s.dev.image p n = some i ∧
      i.goldenDue = false) ∧
  (∃ (s : State) (h : Nat) (p : Nat) (len : Nat),
      s.dev.workOf h = some (.showLoad p len)) ∧
  (∃ (s : State) (h : Nat) (q : Nat) (r : Request),
      s.dev.workOf h = some (.reqAppend q) ∧
      s.dev.req q = some r ∧
      r.append = h ∧
      r.tokensIn = false) :=
  ⟨⟨at_ (held (.showLoad 0 4096) (mine own)), 1, .showLoad 0 4096, by decide +kernel⟩,
   ⟨at_ (held (.imageLoad 0 5 false) (mine { own with images := [(5, ⟨0, 0, 64, 1, true, 0, [], none, 0, 0, false, true, false, [], []⟩)] })), 1, 0, 5, ⟨0, 0, 64, 1, true, 0, [], none, 0, 0, false, true, false, [], []⟩, by decide +kernel⟩,
   ⟨at_ (held (.showLoad 0 4096) (mine own)), 1, 0, 4096, by decide +kernel⟩,
   ⟨at_ (held (.reqAppend 7) { mine own with reqs := [(7, { pasture := 0, append := 1 })] }), 1, 7, { pasture := 0, append := 1 }, by decide +kernel⟩⟩

theorem witness_LedgerPostsCompletionsAndKeepsItsIndices :
  (∃ (s : State) (f : Nat) (c : Completion) (rest : List Completion) (x : _) (p : _),
      ((s.dev.func f).waiting = c :: rest ∧ s.dev.power.portUp = true ∧ (s.dev.func f).enabled = true ∧ (s.dev.func f).flr = false ∧ (s.dev.func f).room ≠ 0) ∧
      x = s.dev.func f ∧
      s.dev.pastureOf f = some p) ∧
  (∃ (s : State) (f : Nat),
      (s.dev.func f).waiting ≠ [] ∧
      ((s.dev.power.portUp = false ∨ (s.dev.func f).enabled = false ∨ (s.dev.func f).flr = true ∨ (s.dev.func f).room = 0))) ∧
  (∃ (s : State) (f : Nat) (v : Nat) (x : _),
      s.dev.decoded f 0x2420 = true ∧
      (s.dev.func f).ledOn = true ∧
      x = s.dev.func f ∧
      (v % 2 ^ 16 < x.ledSize ∧ (x.ledTail + x.ledSize - v % 2 ^ 16) % x.ledSize ≤ (x.ledTail + x.ledSize - x.ledHead) % x.ledSize)) ∧
  (∃ (s : State) (f : Nat) (v : Nat) (x : _),
      s.dev.decoded f 0x2420 = true ∧
      (s.dev.func f).ledOn = true ∧
      x = s.dev.func f ∧
      (¬ (v % 2 ^ 16 < x.ledSize ∧ (x.ledTail + x.ledSize - v % 2 ^ 16) % x.ledSize ≤ (x.ledTail + x.ledSize - x.ledHead) % x.ledSize))) ∧
  (∃ (s : State) (f : Nat) (v : Nat),
      (s.dev.decoded f 0x2410 = true ∧ v % 2 = 1 ∧ (s.dev.func f).ledOn = false) ∧
      ((∃ i, 6 ≤ i ∧ i ≤ 16 ∧ (s.dev.func f).ledSize = 2 ^ i))) ∧
  (∃ (s : State) (f : Nat) (v : Nat),
      (s.dev.decoded f 0x2410 = true ∧ v % 2 = 1 ∧ (s.dev.func f).ledOn = false) ∧
      ((∀ i, 6 ≤ i → i ≤ 16 → (s.dev.func f).ledSize ≠ 2 ^ i))) ∧
  (∃ (s : State) (f : Nat) (v : Nat),
      s.dev.decoded f 0x2410 = true ∧
      v % 2 = 0) :=
  ⟨⟨at_ { mine own with funcs := [(0, { enabled := true, waiting := [⟨1, 0, 0, 0, 0, 0, 0, 0, false, false⟩], ledOn := true, ledSize := 64, ledTail := 63, ledHead := 1 })] }, 0, ⟨1, 0, 0, 0, 0, 0, 0, 0, false, false⟩, [], _, 0, by decide +kernel, rfl, by decide +kernel⟩,
   ⟨at_ { ready with funcs := [(0, { enabled := true, waiting := [⟨1, 0, 0, 0, 0, 0, 0, 0, false, false⟩] })] }, 0, by decide +kernel⟩,
   ⟨at_ { ready with funcs := [(0, { enabled := true, ledOn := true, ledSize := 64, ledTail := 1, ledHead := 63 })] }, 0, 0, _, by decide +kernel, by decide +kernel, rfl, by decide +kernel⟩,
   ⟨at_ { ready with funcs := [(0, { enabled := true, ledOn := true, ledSize := 64, ledTail := 1, ledHead := 63 })] }, 0, 2, _, by decide +kernel, by decide +kernel, rfl, by decide +kernel⟩,
   ⟨at_ { ready with funcs := [(0, { enabled := true, ledSize := 64 })] }, 0, 1, by decide +kernel, (⟨6, by decide, by decide, rfl⟩)⟩,
   ⟨at_ { ready with funcs := [(0, { enabled := true, ledSize := 63 })] }, 0, 1, by decide +kernel, (by intro i h1 h2 h; change 63 = 2 ^ i at h; have : 2 ^ 6 ≤ 2 ^ i := Nat.pow_le_pow_right (by decide) h1; omega)⟩,
   ⟨at_ ready, 0, 2, by decide +kernel⟩⟩

theorem witness_RegisterWritesReachTheirRegisters :
  (∃ (s : State) (w : RegWrite),
      s.dev.decoded w.func w.off = false) ∧
  (∃ (s : State) (f : Nat) (m : Nat) (a : Nat),
      s.dev.decoded f (0x6000 + 512 * m + a) = true ∧
      m < mailboxes f ∧
      a < 256) ∧
  (∃ (s : State) (f : Nat) (m : Nat) (v : Nat),
      s.dev.decoded f (0x6000 + 512 * m + 320) = true ∧
      m < 16 ∧
      v < 2 ^ 32) ∧
  (∃ (s : State) (f : Nat) (off : Nat) (v : Nat),
      s.dev.decoded f off = true ∧
      off % 8 = 0 ∧
      ((off < 0x6000 ∨ 0x8000 ≤ off)) ∧
      v < 2 ^ 64 ∧
      off < 0x2000) ∧
  (∃ (s : State) (f : Nat) (off : Nat) (v : Nat),
      s.dev.decoded f off = true ∧
      off % 8 = 0 ∧
      ((off < 0x6000 ∨ 0x8000 ≤ off)) ∧
      v < 2 ^ 64 ∧
      off = 0x2400) ∧
  (∃ (s : State) (f : Nat) (off : Nat) (v : Nat),
      s.dev.decoded f off = true ∧
      off % 8 = 0 ∧
      ((off < 0x6000 ∨ 0x8000 ≤ off)) ∧
      v < 2 ^ 64 ∧
      off = 0x2408) ∧
  (∃ (s : State) (f : Nat) (off : Nat) (v : Nat),
      s.dev.decoded f off = true ∧
      off % 8 = 0 ∧
      ((off < 0x6000 ∨ 0x8000 ≤ off)) ∧
      v < 2 ^ 64 ∧
      off = 0x2800) ∧
  (∃ (s : State) (f : Nat) (off : Nat) (v : Nat),
      s.dev.decoded f off = true ∧
      off % 8 = 4 ∧
      ((off < 0x6000 ∨ 0x8000 ≤ off)) ∧
      v < 2 ^ 32) ∧
  (∃ (s : State) (f : Nat) (off : Nat) (be : Nat),
      s.dev.decoded f off = true ∧
      off % 4 = 0 ∧
      ((off < 0x6000 ∨ 0x8000 ≤ off)) ∧
      be < 15) ∧
  (∃ (s : State) (w : RegWrite),
      s.dev.decoded w.func w.off = true ∧
      w.off % 8 = 0 ∧
      0 < w.size ∧
      w.size ≤ 8 ∧
      ((w.off < 0x6000 ∨ 0x8000 ≤ w.off))) ∧
  (∃ (s : State) (w : RegWrite) (m : Nat) (a : Nat),
      s.dev.decoded w.func w.off = true ∧
      m < mailboxes w.func ∧
      w.off = 0x6000 + 512 * m + a ∧
      0 < w.size ∧
      a + w.size ≤ 256 ∧
      (s.dev.mailbox w.func m).slot.length = 256 ∧
      ((∀ i < w.size, bit w.be i = true))) :=
  ⟨⟨at_ ready, { func := 1, off := 0, size := 8, value := 0, be := 255 }, by decide +kernel⟩,
   ⟨at_ ready, 0, 15, 255, by decide +kernel⟩,
   ⟨at_ ready, 0, 15, 2 ^ 32 - 1, by decide +kernel⟩,
   ⟨at_ ready, 0, 0x1FF8, 2 ^ 64 - 1, by decide +kernel⟩,
   ⟨at_ ready, 0, 0x2400, 2 ^ 64 - 1, by decide +kernel⟩,
   ⟨at_ ready, 0, 0x2408, 64, by decide +kernel⟩,
   ⟨at_ ready, 0, 0x2800, 39, by decide +kernel⟩,
   ⟨at_ ready, 0, 0x5FFC, 2 ^ 32 - 1, by decide +kernel⟩,
   ⟨at_ ready, 0, 0x8000, 14, by decide +kernel⟩,
   ⟨at_ ready, { func := 0, off := 0x2400, size := 8, value := 2 ^ 64 - 1, be := 255 }, by decide +kernel⟩,
   ⟨at_ ready, { func := 0, off := 0x6000 + 512 * 15 + 255, size := 1, value := 255, be := 1 }, 15, 255, by decide +kernel⟩⟩

theorem witness_EventAndStatusRegistersAct :
  (∃ (s : State) (f : Nat),
      s.dev.decoded f 0x2000 = true) ∧
  (∃ (s : State) (f : Nat) (v : Nat) (e : Machine.Vector),
      s.dev.decoded f 0x3000 = true ∧
      (s.dev.func f).vecs[v]? = some e ∧
      e.pend = true ∧
      (s.dev.func f).msixOn = true ∧
      (s.dev.func f).flr = false) ∧
  (∃ (s : State) (f : Nat) (v : Nat) (e : Machine.Vector),
      s.dev.decoded f 0x3000 = true ∧
      (s.dev.func f).vecs[v]? = some e ∧
      e.pend = false) ∧
  (∃ (s : State) (f : Nat) (tick : Nat),
      s.dev.decoded f 0x2010 = true ∧
      tick < 1024) ∧
  (∃ (s : State) (f : Nat),
      s.dev.decoded f 0x5018 = true ∧
      f ≠ 0) ∧
  (∃ (s : State) (f : Nat),
      s.dev.decoded f 0x5018 = true ∧
      f = 0 ∧
      s.dev.tally.up = true) :=
  ⟨⟨at_ ready, 0, by decide +kernel⟩,
   ⟨at_ { ready with funcs := [(0, { enabled := true, msixOn := true, vecs := [{}, {}, {}, { pend := true }] })] }, 0, 3, { pend := true }, by decide +kernel⟩,
   ⟨at_ ready, 0, 3, {}, by decide +kernel⟩,
   ⟨at_ ready, 0, 1023, by decide +kernel⟩,
   ⟨at_ { ready with funcs := [(0, { enabled := true }), (16, { enabled := true })] }, 16, by decide +kernel⟩,
   ⟨at_ ready, 0, by decide +kernel⟩⟩

theorem witness_SnapshotsCopyAndClearTheGroup :
  (∃ (s : State) (f : Nat) (die : Nat) (core : Nat) (g : Nat) (p : Perf),
      s.dev.decoded f (groupOff f (.core die core g)) = true ∧
      s.dev.seesGroup f (.core die core g) = true ∧
      p = s.dev.perfOf die core g) ∧
  (∃ (s : State) (f : Nat) (die : Nat) (g : Nat) (p : Perf),
      s.dev.decoded f (groupOff f (.die die g)) = true ∧
      s.dev.seesGroup f (.die die g) = true ∧
      p = s.dev.perfOf die 63 g) ∧
  (∃ (s : State) (f : Nat),
      s.dev.decoded f 0x40F8 = true) ∧
  (∃ (s : State) (f : Nat) (a : GroupAddr),
      s.dev.seesGroup f a = false) :=
  ⟨⟨at_ ready, 0, 39, 31, 7, _, by decide +kernel, by decide +kernel, rfl⟩,
   ⟨at_ ready, 0, 39, 8, _, by decide +kernel, by decide +kernel, rfl⟩,
   ⟨at_ ready, 0, by decide +kernel⟩,
   ⟨at_ ready, 0, .core 19 0 0, by decide +kernel⟩⟩

theorem witness_BootDoorbellChecksTheHeader :
  (∃ (s : State) (img : FwImage) (good : Prop),
      s.dev.decoded 0 0x020 = true ∧
      s.dev.power.window = true ∧
      ((good ↔ (s.dev.fuses.keyHashes[img.key]? = some img.keyHash ∧ bit s.dev.fuses.revoked img.key = false ∧ img.sigOk = true ∧ img.digest = img.actual ∧ s.dev.fuses.minSvn ≤ img.svn ∧ img.len ≤ 2 ^ 23))) ∧
      good) ∧
  (∃ (s : State) (img : FwImage) (good : Prop),
      s.dev.decoded 0 0x020 = true ∧
      s.dev.power.window = true ∧
      ((good ↔ (s.dev.fuses.keyHashes[img.key]? = some img.keyHash ∧ bit s.dev.fuses.revoked img.key = false ∧ img.sigOk = true ∧ img.digest = img.actual ∧ s.dev.fuses.minSvn ≤ img.svn ∧ img.len ≤ 2 ^ 23))) ∧
      ¬ good) ∧
  (∃ (s : State),
      s.dev.power.window = false) :=
  ⟨⟨at_ { power := { portUp := true, window := true } }, ⟨2 ^ 23, 0, 3, 0, 5, 5, true, false, 0⟩, True, by decide +kernel, by decide +kernel, (by simp; decide +kernel), trivial⟩,
   ⟨at_ { power := { portUp := true, window := true } }, ⟨2 ^ 23 + 1, 0, 3, 0, 5, 5, true, false, 0⟩, False, by decide +kernel, by decide +kernel, (by simp), id⟩,
   ⟨State.reset, by decide +kernel⟩⟩

theorem witness_FunctionResetsClearTheFunctionAlone :
  (∃ (s : State) (f : Nat) (gs : List Nat) (e : Dev),
      (s.dev.power.portUp = true ∧ 1 ≤ f ∧ f ≤ 16 ∧ (s.dev.func f).enabled = true ∧ (s.dev.func f).flr = false) ∧
      gs = ((s.dev.pastureOf f).map s.dev.groupsOf).getD [] ∧
      e = (s.dev.modFunc f (fun x => { x with flr := true, mbx := [], flrWait := gs })).flrTxns f (fun t => !t.package) ∧
      gs ≠ []) ∧
  (∃ (s : State) (f : Nat) (gs : List Nat) (e : Dev),
      (s.dev.power.portUp = true ∧ 1 ≤ f ∧ f ≤ 16 ∧ (s.dev.func f).enabled = true ∧ (s.dev.func f).flr = false) ∧
      gs = ((s.dev.pastureOf f).map s.dev.groupsOf).getD [] ∧
      e = (s.dev.modFunc f (fun x => { x with flr := true, mbx := [], flrWait := gs })).flrTxns f (fun t => !t.package) ∧
      gs = []) ∧
  (∃ (s : State) (f : Nat) (d : Dev),
      (s.dev.func f).flr = true ∧
      (s.dev.func f).flrWait ≠ [] ∧
      d = s.dev.abortActs (fun _ r => (s.dev.func f).flrWait.contains r.group) .withdrawal) ∧
  (∃ (d : Dev) (f : Nat) (p : Nat),
      d.pastureOf f = some p) ∧
  (∃ (s : State),
      s.dev.power.inReset = false) ∧
  (∃ (s : State) (n : Nat),
      s.dev.power.portUp = true ∧
      n ≤ 16) :=
  ⟨⟨at_ { ready with funcs := [(16, { enabled := true })], pastures := [(0, { own with func := 16 })], groups := [(3, { exists_ := true, pasture := 0 })] }, 16, _, _, by decide +kernel, rfl, rfl, by decide +kernel⟩,
   ⟨at_ { ready with funcs := [(1, { enabled := true })] }, 1, _, _, by decide +kernel, rfl, rfl, rfl⟩,
   ⟨at_ { ready with funcs := [(1, { enabled := true, flr := true, flrWait := [3] })] }, 1, _, by decide +kernel, by decide +kernel, rfl⟩,
   ⟨mine own, 0, 0, by decide +kernel⟩,
   ⟨at_ ready, by decide +kernel⟩,
   ⟨at_ ready, 16, by decide +kernel⟩⟩

theorem witness_UnitOpsIssueAndJoinTheirUnit :
  (∃ (i : Instr) (die : Nat) (core : Nat) (code : Nat) (k : Nat) (x : OpFacts) (s : State) (w : Nat) (r : Run),
      unitOp i = some (die, core, x, code) ∧
      k = coreKey die core ∧
      s.dev.mayIssue k code w r ∧
      ((s.dev.core k).queued (unitOf w)).length < 4) ∧
  (∃ (i : Instr) (die : Nat) (core : Nat) (code : Nat) (k : Nat) (x : OpFacts) (s : State) (w : Nat) (r : Run),
      unitOp i = some (die, core, x, code) ∧
      k = coreKey die core ∧
      s.dev.mayIssue k code w r ∧
      4 ≤ ((s.dev.core k).queued (unitOf w)).length) ∧
  (∃ (i : Instr) (die : Nat) (core : Nat) (code : Nat) (k : Nat) (x : OpFacts) (s : State) (w : Nat) (r : Run),
      unitOp i = some (die, core, x, code) ∧
      k = coreKey die core ∧
      s.dev.opAt k = some w ∧
      (s.dev.core k).run = some r ∧
      r.wait = .none_ ∧
      opCode w = code ∧
      opW w = true ∧
      (s.dev.core k).maskDone 0 = false) ∧
  (∃ (i : Instr) (die : Nat) (core : Nat) (code : Nat) (k : Nat) (x : OpFacts) (s : State) (w : Nat) (r : Run),
      unitOp i = some (die, core, x, code) ∧
      k = coreKey die core ∧
      s.dev.opAt k = some w ∧
      (s.dev.core k).run = some r ∧
      ((r.wait ≠ .none_ ∨ opCode w ≠ code))) ∧
  (∃ (i : Instr) (die : Nat) (core : Nat) (code : Nat) (k : Nat) (x : OpFacts) (s : State),
      unitOp i = some (die, core, x, code) ∧
      k = coreKey die core ∧
      (s.dev.core k).run = none) :=
  ⟨⟨.norm 0 0 {}, 0, 0, 0x08, _, {}, at_ (running [opw 8 0] run { queue := [qop 1 8, qop 1 8, qop 1 8] }), opw 8 0, run, rfl, rfl, (by unfold Dev.mayIssue; decide +kernel), by decide +kernel⟩,
   ⟨.norm 0 0 {}, 0, 0, 0x08, _, {}, at_ (running [opw 8 0] run { queue := [qop 1 8, qop 1 8, qop 1 8, qop 1 8] }), opw 8 0, run, rfl, rfl, (by unfold Dev.mayIssue; decide +kernel), by decide +kernel⟩,
   ⟨.norm 0 0 {}, 0, 0, 0x08, _, {}, at_ (running [opw 8 (2 ^ 119)] run { queue := [qop 1 8] }), opw 8 (2 ^ 119), run, rfl, rfl, by decide +kernel⟩,
   ⟨.norm 0 0 {}, 0, 0, 0x08, _, {}, at_ (running [opw 9 0] run {}), opw 9 0, run, rfl, rfl, by decide +kernel⟩,
   ⟨.norm 0 0 {}, 0, 0, 0x08, _, {}, at_ ready, rfl, rfl, by decide +kernel⟩⟩

theorem witness_UnitsRunTheirOpsInOrder :
  (∃ (d : Dev) (k : Nat) (q : QOp) (e : _),
      ((d.core k).queued q.unit).head? = some q ∧
      d.runHead k q = (e, none)) ∧
  (∃ (q : QOp),
      q.unit = 0) ∧
  (∃ (q : QOp),
      q.unit = 1 ∧
      opCode q.op = 0x03) ∧
  (∃ (q : QOp),
      q.unit = 1 ∧
      opCode q.op = 0x04) ∧
  (∃ (q : QOp),
      q.unit = 1 ∧
      opCode q.op = 0x05) ∧
  (∃ (q : QOp),
      q.unit = 1 ∧
      opCode q.op = 0x08) ∧
  (∃ (q : QOp),
      q.unit = 1 ∧
      opCode q.op = 0x09) ∧
  (∃ (q : QOp),
      q.unit = 1 ∧
      opCode q.op = 0x1A) ∧
  (∃ (q : QOp),
      q.unit = 2) ∧
  (∃ (q : QOp),
      q.unit = 3) ∧
  (∃ (d : Dev) (k : Nat) (q : QOp),
      q.unit = 4 ∧
      (d.core k).pound.flushDue = true) ∧
  (∃ (d : Dev) (k : Nat) (q : QOp),
      q.unit = 4 ∧
      (d.core k).pound.flushDue = false ∧
      opCode q.op = 0x0B) ∧
  (∃ (q : QOp),
      q.unit = 5 ∧
      opCode q.op = 0x0C) ∧
  (∃ (q : QOp),
      q.unit = 5 ∧
      opCode q.op = 0x0D) ∧
  (∃ (d : Dev) (k : Nat) (q : QOp),
      q.unit = 7 ∧
      (d.core k).pound.flushDue = true) ∧
  (∃ (d : Dev) (k : Nat) (q : QOp),
      (q.unit = 6 ∨ q.unit = 7 ∧ (d.core k).pound.flushDue = false)) :=
  ⟨⟨running [opw 8 0] run { queue := [qop 1 8] }, 0, qop 1 8, _, by decide +kernel, rfl⟩,
   ⟨qop 0 2, by decide +kernel⟩,
   ⟨qop 1 3, by decide +kernel⟩,
   ⟨qop 1 4, by decide +kernel⟩,
   ⟨qop 1 5, by decide +kernel⟩,
   ⟨qop 1 8, by decide +kernel⟩,
   ⟨qop 1 9, by decide +kernel⟩,
   ⟨qop 1 0x1A, by decide +kernel⟩,
   ⟨qop 2 7, by decide +kernel⟩,
   ⟨qop 3 6, by decide +kernel⟩,
   ⟨running [] run { pound := { flushDue := true } }, 0, qop 4 0x0A, by decide +kernel⟩,
   ⟨running [] run {}, 0, qop 4 0x0B, by decide +kernel⟩,
   ⟨qop 5 0x0C, by decide +kernel⟩,
   ⟨qop 5 0x0D, by decide +kernel⟩,
   ⟨running [] run { pound := { flushDue := true } }, 0, qop 7 0x11, by decide +kernel⟩,
   ⟨running [] run {}, 0, qop 7 0x11, by decide +kernel⟩⟩

theorem witness_AstreamOfDenseIntegersCopiesItsRows :
  (∃ (d : Dev) (k : Nat) (op : Nat) (rows : Nat) (z : Nat) (e : _) (i : _),
      rows = fld (opY op) 0 8 + 1 ∧
      z = opZ op % 2 ^ 16 ∧
      (opIn op ≠ cAS ∧ opIn op ≠ cBX4 ∧ opIn op ≠ cBX8 ∧ z + rows * 512 ≤ 2 ^ 16) ∧
      e = d.doAstream k op ∧
      i < rows * 512) ∧
  (∃ (d : Dev) (k : Nat) (op : Nat) (rows : Nat) (z : Nat) (e : _) (a : _),
      rows = fld (opY op) 0 8 + 1 ∧
      z = opZ op % 2 ^ 16 ∧
      (opIn op ≠ cAS ∧ opIn op ≠ cBX4 ∧ opIn op ≠ cBX8 ∧ z + rows * 512 ≤ 2 ^ 16) ∧
      e = d.doAstream k op ∧
      ((∀ i < rows * 512, a ≠ abAddr k (z + i)))) ∧
  (∃ (d : Dev) (k : Nat) (op : Nat) (rows : Nat) (z : Nat) (e : _) (j : _),
      rows = fld (opY op) 0 8 + 1 ∧
      z = opZ op % 2 ^ 16 ∧
      (opIn op ≠ cAS ∧ opIn op ≠ cBX4 ∧ opIn op ≠ cBX8 ∧ z + rows * 512 ≤ 2 ^ 16) ∧
      e = d.doAstream k op ∧
      j ≠ k) ∧
  (∃ (d : Dev) (k : Nat) (op : Nat) (rows : Nat) (z : Nat) (e : _) (g : _),
      rows = fld (opY op) 0 8 + 1 ∧
      z = opZ op % 2 ^ 16 ∧
      (opIn op ≠ cAS ∧ opIn op ≠ cBX4 ∧ opIn op ≠ cBX8 ∧ z + rows * 512 ≤ 2 ^ 16) ∧
      e = d.doAstream k op ∧
      z / 16 ≤ g ∧
      g < (z + rows * 512) / 16) :=
  ⟨⟨ready, 0, opw 2 (cI8 * 2 ^ 108 + 127 * 2 ^ 32), _, _, _, 2 ^ 16 - 1, rfl, rfl, by decide +kernel, rfl, by decide +kernel⟩,
   ⟨ready, 0, opw 2 (cI8 * 2 ^ 108 + 512), _, _, _, 65536, rfl, rfl, by decide +kernel, rfl, (by intro i _ h; simp only [abAddr] at h; omega)⟩,
   ⟨ready, 0, opw 2 0, _, _, _, 1, rfl, rfl, by decide +kernel, rfl, by decide +kernel⟩,
   ⟨ready, 0, opw 2 0, _, _, _, 31, rfl, rfl, by decide +kernel, rfl, by decide +kernel⟩⟩

theorem witness_ColumnsAddTheProductsOfTheirTiles :
  (∃ (tiles : List Nat) (xs : List Int) (c : Nat),
      c < 8 ∧
      xs.length = 8 * tiles.length) ∧
  (∃ (op : Nat) (t : Nat),
      wlSerial op = false ∧
      t < wlTokens op) :=
  ⟨⟨[0], [0, 0, 0, 0, 0, 0, 0, 0], 7, by decide +kernel⟩,
   ⟨opw 1 0, 0, by decide +kernel⟩⟩

theorem witness_SabsCountsTheNonZeroWeights :
  (∃ (d : Dev) (k : Nat) (a : Nat) (pc : Nat) (op : Nat) (idx : Nat) (rep : Bool) (rest : List ArrOp),
      ((d.core k).arr a).fifo = .step pc op idx rep :: rest ∧
      ((d.core k).arr a).stopped = false ∧
      a ∉ (d.core k).lostArrays) ∧
  (∃ (d : Dev) (k : Nat) (op : Nat),
      sparseSetting d k op = 0) ∧
  (∃ (c : Nat) (s : Serial),
      c < 8 ∧
      s.inact.getD c false = false ∧
      s.act.getD c false = false) :=
  ⟨⟨running [] run { arrs := [(47, { fifo := [.step 0 (opw 1 0) 0 false] })] }, 0, 47, 0, opw 1 0, 0, false, [], by decide +kernel⟩,
   ⟨running [] run {}, 0, opw 1 0, by decide +kernel⟩,
   ⟨7, ⟨[], [], [], 0, 0, 0, 0, List.replicate 8 false, List.replicate 8 false, 0, none, false⟩, by decide +kernel⟩⟩

theorem witness_ArrayOpsPassThroughTheirFifos :
  (∃ (s : State) (die : Nat) (core : Nat) (k : Nat) (w : Nat) (r : Run),
      k = coreKey die core ∧
      s.dev.mayIssue k 0x01 w r ∧
      (s.dev.core k).fifoRoom (selected w) = true) ∧
  (∃ (s : State) (die : Nat) (core : Nat) (k : Nat) (w : Nat) (r : Run),
      k = coreKey die core ∧
      s.dev.mayIssue k 0x01 w r ∧
      (s.dev.core k).fifoRoom (selected w) = false) ∧
  (∃ (s : State) (die : Nat) (core : Nat) (k : Nat) (w : Nat) (r : Run),
      k = coreKey die core ∧
      s.dev.mayIssue k 0x1C w r ∧
      (s.dev.core k).fifoRoom [fld (opY w) 0 6] = true) ∧
  (∃ (s : State) (die : Nat) (core : Nat) (k : Nat) (w : Nat) (r : Run),
      k = coreKey die core ∧
      s.dev.mayIssue k 0x1C w r ∧
      (s.dev.core k).fifoRoom [fld (opY w) 0 6] = false) ∧
  (∃ (s : State) (die : Nat) (core : Nat) (arr : Nat) (k : Nat) (pc : Nat) (g : Nat) (v : Nat) (rest : List ArrOp),
      k = coreKey die core ∧
      ((s.dev.core k).arr arr).fifo = .seed pc g v :: rest ∧
      ((∀ q ∈ (s.dev.core k).queue, q.unit = 1 → opCode q.op = 0x04 → q.pc < pc → arr ∉ selected q.op))) ∧
  (∃ (s : State) (die : Nat) (core : Nat) (arr : Nat) (k : Nat) (pc : Nat) (op : Nat) (idx : Nat) (rep : Bool) (rest : List ArrOp),
      k = coreKey die core ∧
      ((s.dev.core k).arr arr).fifo = .step pc op idx rep :: rest ∧
      arr ∉ (s.dev.core k).lostArrays ∧
      ((s.dev.core k).arr arr).stopped = true) ∧
  (∃ (s : State) (die : Nat) (core : Nat) (arr : Nat) (k : Nat) (par : Option Nat) (pc : Nat) (op : Nat) (idx : Nat) (rep : Bool) (rest : List ArrOp) (v : _),
      k = coreKey die core ∧
      (((s.dev.core k).arr arr).fifo = .step pc op idx rep :: rest ∧ arr ∉ (s.dev.core k).lostArrays ∧ ((s.dev.core k).arr arr).stopped = false) ∧
      par = some v) ∧
  (∃ (s : State) (die : Nat) (core : Nat) (arr : Nat) (k : Nat) (par : Option Nat) (pc : Nat) (op : Nat) (idx : Nat) (rep : Bool) (rest : List ArrOp),
      k = coreKey die core ∧
      (((s.dev.core k).arr arr).fifo = .step pc op idx rep :: rest ∧ arr ∉ (s.dev.core k).lostArrays ∧ ((s.dev.core k).arr arr).stopped = false) ∧
      par = none) :=
  ⟨⟨at_ (running [opw 1 (2 ^ 96)] run { arrs := [(7, { fifo := [.seed 0 0 1, .seed 0 0 1, .seed 0 0 1] })] }), 0, 0, _, opw 1 (2 ^ 96), run, rfl, (by unfold Dev.mayIssue; decide +kernel), by decide +kernel⟩,
   ⟨at_ (running [opw 1 (2 ^ 96)] run { arrs := [(7, { fifo := [.seed 0 0 1, .seed 0 0 1, .seed 0 0 1, .seed 0 0 1] })] }), 0, 0, _, opw 1 (2 ^ 96), run, rfl, (by unfold Dev.mayIssue; decide +kernel), by decide +kernel⟩,
   ⟨at_ (running [opw 0x1C 0] run {}), 0, 0, _, opw 0x1C 0, run, rfl, (by unfold Dev.mayIssue; decide +kernel), by decide +kernel⟩,
   ⟨at_ (running [opw 0x1C 0] run { arrs := [(0, { fifo := [.seed 0 0 1, .seed 0 0 1, .seed 0 0 1, .seed 0 0 1] })] }), 0, 0, _, opw 0x1C 0, run, rfl, (by unfold Dev.mayIssue; decide +kernel), by decide +kernel⟩,
   ⟨at_ (running [] run { arrs := [(0, { fifo := [.seed 0 3 1] })] }), 0, 0, 0, _, 0, 3, 1, [], rfl, by decide +kernel⟩,
   ⟨at_ (running [] run { arrs := [(0, { fifo := [.step 0 0 0 false], stopped := true })] }), 0, 0, 0, _, 0, 0, 0, false, [], rfl, by decide +kernel⟩,
   ⟨at_ (running [] run { arrs := [(0, { fifo := [.step 0 0 0 false] })] }), 0, 0, 0, _, _, 0, 0, 0, false, [], 1, rfl, by decide +kernel, rfl⟩,
   ⟨at_ (running [] run { arrs := [(0, { fifo := [.step 0 0 0 false] })] }), 0, 0, 0, _, _, 0, 0, 0, false, [], rfl, by decide +kernel, rfl⟩⟩

theorem witness_SequencerOpsWaitSkipAndMark :
  (∃ (s : State) (die : Nat) (core : Nat) (k : Nat) (w : Nat) (x : OpFacts) (r : Run) (b : Nat) (t : Nat) (p : _),
      k = coreKey die core ∧
      s.dev.mayIssue k 0x18 w r ∧
      b = fld (opX w) 0 24 ∧
      t = fld (opY w) 0 10 ∧
      p = waitPassed s.dev r.start b t x.tick ∧
      p = false) ∧
  (∃ (s : State) (die : Nat) (core : Nat) (k : Nat) (w : Nat) (x : OpFacts) (r : Run) (b : Nat) (t : Nat) (p : _),
      k = coreKey die core ∧
      s.dev.mayIssue k 0x18 w r ∧
      b = fld (opX w) 0 24 ∧
      t = fld (opY w) 0 10 ∧
      p = waitPassed s.dev r.start b t x.tick ∧
      p = true) ∧
  (∃ (s : State) (die : Nat) (core : Nat) (k : Nat) (tick : Nat) (r : Run) (b : Nat) (t : Nat),
      k = coreKey die core ∧
      (s.dev.core k).run = some r ∧
      r.wait = .beat b t ∧
      waitPassed s.dev r.start b t tick = true) ∧
  (∃ (s : State) (die : Nat) (core : Nat) (k : Nat) (w : Nat) (r : Run) (m : Nat) (cls : _),
      k = coreKey die core ∧
      s.dev.mayIssue k 0x19 w r ∧
      m = fld (opX w) 0 9 ∧
      (s.dev.group r.group).abort = some cls) ∧
  (∃ (s : State) (die : Nat) (core : Nat) (k : Nat) (w : Nat) (r : Run) (m : Nat),
      k = coreKey die core ∧
      s.dev.mayIssue k 0x19 w r ∧
      m = fld (opX w) 0 9 ∧
      (s.dev.group r.group).abort = none ∧
      (s.dev.core k).maskDone m = true) ∧
  (∃ (s : State) (die : Nat) (core : Nat) (k : Nat) (w : Nat) (r : Run) (m : Nat),
      k = coreKey die core ∧
      s.dev.mayIssue k 0x19 w r ∧
      m = fld (opX w) 0 9 ∧
      (s.dev.group r.group).abort = none ∧
      (s.dev.core k).maskDone m = false) ∧
  (∃ (s : State) (die : Nat) (core : Nat) (k : Nat) (e : Dev) (r : Run) (m : Nat),
      k = coreKey die core ∧
      e = s.dev.pump k ∧
      (e.core k).run = some r ∧
      r.wait = .barrier m ∧
      (e.group r.group).abort = none ∧
      (e.core k).maskDone m = true) ∧
  (∃ (s : State) (die : Nat) (core : Nat) (k : Nat) (w : Nat) (e : Dev) (r : Run),
      k = coreKey die core ∧
      e = s.dev.pump k ∧
      e.opAt k = some w ∧
      (e.core k).run = some r ∧
      r.wait = .queue ∧
      opCode w ≠ 0x01 ∧
      opCode w ≠ 0x1C ∧
      ((e.core k).queued (unitOf w)).length < 4) ∧
  (∃ (s : State) (die : Nat) (core : Nat) (k : Nat) (w : Nat) (e : Dev) (r : Run),
      k = coreKey die core ∧
      e = s.dev.pump k ∧
      e.opAt k = some w ∧
      (e.core k).run = some r ∧
      r.wait = .w ∧
      (e.core k).maskDone 0 = true) ∧
  (∃ (s : State) (die : Nat) (core : Nat) (k : Nat) (w : Nat) (r : Run),
      k = coreKey die core ∧
      s.dev.opAt k = some w ∧
      (s.dev.core k).run = some r ∧
      r.wait = .none_ ∧
      opCode w = 0x1B ∧
      (s.dev.core k).maskDone 0 = false) ∧
  (∃ (s : State) (die : Nat) (core : Nat) (k : Nat) (w : Nat) (v : Nat) (n : Nat) (x : OpFacts) (r : Run) (e : Dev),
      k = coreKey die core ∧
      s.dev.mayIssue k 0x1B w r ∧
      (s.dev.core k).maskDone 0 = true ∧
      e = (s.dev.issued k x).corePerf k gSPAD 3 1 ∧
      v = (s.dev.issued k x).spLE k (opY w) 8 ∧
      n = fld (opX w) 0 16 ∧
      (v = 0 ↔ bit w 112 = true)) ∧
  (∃ (s : State) (die : Nat) (core : Nat) (k : Nat) (w : Nat) (v : Nat) (n : Nat) (x : OpFacts) (r : Run) (e : Dev),
      k = coreKey die core ∧
      s.dev.mayIssue k 0x1B w r ∧
      (s.dev.core k).maskDone 0 = true ∧
      e = (s.dev.issued k x).corePerf k gSPAD 3 1 ∧
      v = (s.dev.issued k x).spLE k (opY w) 8 ∧
      n = fld (opX w) 0 16 ∧
      ¬ (v = 0 ↔ bit w 112 = true) ∧
      bit v 1 = true ∧
      opY w % 16 = 8 ∧
      e.spLE k (opY w - 8) 8 = 0) ∧
  (∃ (s : State) (die : Nat) (core : Nat) (k : Nat) (w : Nat) (v : Nat) (n : Nat) (x : OpFacts) (r : Run) (e : Dev),
      k = coreKey die core ∧
      s.dev.mayIssue k 0x1B w r ∧
      (s.dev.core k).maskDone 0 = true ∧
      e = (s.dev.issued k x).corePerf k gSPAD 3 1 ∧
      v = (s.dev.issued k x).spLE k (opY w) 8 ∧
      n = fld (opX w) 0 16 ∧
      ¬ (v = 0 ↔ bit w 112 = true) ∧
      ((bit v 1 = false ∨ opY w % 16 ≠ 8 ∨ e.spLE k (opY w - 8) 8 ≠ 0))) ∧
  (∃ (s : State) (die : Nat) (core : Nat) (k : Nat) (w : Nat) (x : OpFacts) (r : Run) (e : _),
      k = coreKey die core ∧
      s.dev.mayIssue k 0x1D w r ∧
      e = (s.dev.issued k x).modCore k (fun c => { c with mark := opX w })) ∧
  (∃ (s : State) (die : Nat) (core : Nat) (k : Nat) (w : Nat) (x : OpFacts) (r : Run) (e : Dev),
      k = coreKey die core ∧
      s.dev.mayIssue k 0x1F w r ∧
      e = (s.dev.issued k x).pump k ∧
      (e.core k).maskDone 0 = true ∧
      e.emptyWaits k = false) ∧
  (∃ (s : State) (die : Nat) (core : Nat) (k : Nat) (w : Nat) (x : OpFacts) (r : Run) (e : Dev) (cls : _),
      k = coreKey die core ∧
      s.dev.mayIssue k 0x1F w r ∧
      e = (s.dev.issued k x).pump k ∧
      e.groupAbort k = some cls) ∧
  (∃ (s : State) (die : Nat) (core : Nat) (k : Nat) (w : Nat) (x : OpFacts) (r : Run) (e : Dev),
      k = coreKey die core ∧
      s.dev.mayIssue k 0x1F w r ∧
      e = (s.dev.issued k x).pump k ∧
      (((e.core k).maskDone 0 = false ∨ e.emptyWaits k = true)) ∧
      e.groupAbort k = none) :=
  ⟨⟨at_ (running [opw 0x18 (2 ^ 32)] run {}), 0, 0, _, opw 0x18 (2 ^ 32), {}, run, _, _, _, rfl, (by unfold Dev.mayIssue; decide +kernel), rfl, rfl, rfl, (by decide +kernel)⟩,
   ⟨at_ (running [opw 0x18 (2 ^ 32)] run {}), 0, 0, _, opw 0x18 (2 ^ 32), { tick := 1 }, run, _, _, _, rfl, (by unfold Dev.mayIssue; decide +kernel), rfl, rfl, rfl, (by decide +kernel)⟩,
   ⟨at_ (running [] { run with wait := .beat 0 5 } {}), 0, 0, _, 5, { run with wait := .beat 0 5 }, 0, 5, rfl, by decide +kernel⟩,
   ⟨at_ { running [opw 0x19 0] run {} with groups := [(0, { abort := some .hardware })] }, 0, 0, _, opw 0x19 0, run, _, .hardware, rfl, (by unfold Dev.mayIssue; decide +kernel), rfl, by decide +kernel⟩,
   ⟨at_ (running [opw 0x19 0] run {}), 0, 0, _, opw 0x19 0, run, _, rfl, (by unfold Dev.mayIssue; decide +kernel), rfl, by decide +kernel⟩,
   ⟨at_ (running [opw 0x19 (2 * 2 ^ 64)] run { queue := [qop 1 8] }), 0, 0, _, opw 0x19 (2 * 2 ^ 64), run, _, rfl, (by unfold Dev.mayIssue; decide +kernel), rfl, by decide +kernel⟩,
   ⟨at_ (running [] { run with wait := .barrier 2 } {}), 0, 0, _, _, { run with wait := .barrier 2 }, 2, rfl, rfl, by decide +kernel⟩,
   ⟨at_ (running [opw 8 0] { run with wait := .queue } {}), 0, 0, _, opw 8 0, _, { run with wait := .queue }, rfl, rfl, by decide +kernel⟩,
   ⟨at_ (running [opw 8 (2 ^ 119)] { run with wait := .w } {}), 0, 0, _, opw 8 (2 ^ 119), _, { run with wait := .w }, rfl, rfl, by decide +kernel⟩,
   ⟨at_ (running [opw 0x1B 0] run { queue := [qop 1 8] }), 0, 0, _, opw 0x1B 0, run, rfl, by decide +kernel⟩,
   ⟨at_ (running [opw 0x1B (2 ^ 112)] run {}), 0, 0, _, opw 0x1B (2 ^ 112), _, _, {}, run, _, rfl, (by unfold Dev.mayIssue; decide +kernel), by decide +kernel, rfl, rfl, rfl, by decide +kernel⟩,
   ⟨at_ { running [opw 0x1B (2 ^ 112 + 8 * 2 ^ 32)] run {} with spad := [(8, 2#8)] }, 0, 0, _, opw 0x1B (2 ^ 112 + 8 * 2 ^ 32), _, _, {}, run, _, rfl, (by unfold Dev.mayIssue; decide +kernel), by decide +kernel, rfl, rfl, rfl, by decide +kernel⟩,
   ⟨at_ (running [opw 0x1B 0] run {}), 0, 0, _, opw 0x1B 0, _, _, {}, run, _, rfl, (by unfold Dev.mayIssue; decide +kernel), by decide +kernel, rfl, rfl, rfl, by decide +kernel⟩,
   ⟨at_ (running [opw 0x1D 0] run {}), 0, 0, _, opw 0x1D 0, {}, run, _, rfl, (by unfold Dev.mayIssue; decide +kernel), rfl⟩,
   ⟨at_ (running [opw 0x1F 0] run {}), 0, 0, _, opw 0x1F 0, {}, run, _, rfl, (by unfold Dev.mayIssue; decide +kernel), rfl, by decide +kernel⟩,
   ⟨at_ { running [opw 0x1F 0] run {} with groups := [(0, { abort := some .hardware })] }, 0, 0, _, opw 0x1F 0, {}, run, _, .hardware, rfl, (by unfold Dev.mayIssue; decide +kernel), rfl, by decide +kernel⟩,
   ⟨at_ (running [opw 0x1F 0] run { arrs := [(0, { fifo := [.step 0 0 0 false] })] }), 0, 0, _, opw 0x1F 0, {}, run, _, rfl, (by unfold Dev.mayIssue; decide +kernel), rfl, by decide +kernel⟩⟩

theorem witness_ExchangesMoveRowsAndTheLogFlushes :
  (∃ (s : State) (p : Nat) (ch : Nat) (die : Nat) (core : Nat) (k : Nat) (j : Nat) (sh : Show) (q : QOp) (x : Nat) (e : Nat),
      k = coreKey die core ∧
      s.dev.sendsOn p ch k sh q x ∧
      fld x 40 12 = sh.position ∧
      fld x 58 6 ≠ 63 ∧
      j = coreKey (fld x 52 6) (fld x 58 6) ∧
      e = s.dev.descOf k (fld (opX q.op) 0 9) ∧
      (s.dev.recvsOn p ch).find? (fun t => t.1 == j && s.dev.runStart t.1 == s.dev.runStart k) = none) ∧
  (∃ (s : State) (p : Nat) (ch : Nat) (die : Nat) (core : Nat) (k : Nat) (j : Nat) (sh : Show) (q : QOp) (t : QOp) (x : Nat) (e : Nat),
      k = coreKey die core ∧
      s.dev.sendsOn p ch k sh q x ∧
      fld x 40 12 = sh.position ∧
      fld x 58 6 ≠ 63 ∧
      j = coreKey (fld x 52 6) (fld x 58 6) ∧
      e = s.dev.descOf k (fld (opX q.op) 0 9) ∧
      (s.dev.recvsOn p ch).find? (fun t => t.1 == j && s.dev.runStart t.1 == s.dev.runStart k) = some (j, t) ∧
      bit x 12 = false) ∧
  (∃ (s : State) (p : Nat) (ch : Nat) (die : Nat) (core : Nat) (k : Nat) (j : Nat) (sh : Show) (q : QOp) (t : QOp) (x : Nat) (e : Nat),
      k = coreKey die core ∧
      s.dev.sendsOn p ch k sh q x ∧
      fld x 40 12 = sh.position ∧
      fld x 58 6 ≠ 63 ∧
      j = coreKey (fld x 52 6) (fld x 58 6) ∧
      e = s.dev.descOf k (fld (opX q.op) 0 9) ∧
      (s.dev.recvsOn p ch).find? (fun t => t.1 == j && s.dev.runStart t.1 == s.dev.runStart k) = some (j, t) ∧
      bit x 12 = true) ∧
  (∃ (s : State) (p : Nat) (ch : Nat) (die : Nat) (core : Nat) (k : Nat) (sh : Show) (q : QOp) (x : Nat) (ready : StileMsg → Bool),
      k = coreKey die core ∧
      s.dev.sendsOn p ch k sh q x ∧
      fld x 40 12 ≠ sh.position ∧
      ((∀ m, ready m = (m.kind == 1 && m.chan == fld x 0 12 && coreKey m.die m.core == k && m.step == s.dev.runStart k && m.src == sh.addrOf (fld x 40 12)))) ∧
      q.done ≠ 0) ∧
  (∃ (s : State) (p : Nat) (ch : Nat) (die : Nat) (core : Nat) (k : Nat) (sh : Show) (q : QOp) (x : Nat) (ready : StileMsg → Bool),
      k = coreKey die core ∧
      s.dev.sendsOn p ch k sh q x ∧
      fld x 40 12 ≠ sh.position ∧
      ((∀ m, ready m = (m.kind == 1 && m.chan == fld x 0 12 && coreKey m.die m.core == k && m.step == s.dev.runStart k && m.src == sh.addrOf (fld x 40 12)))) ∧
      q.done = 0 ∧
      s.dev.inbox.any ready = false) ∧
  (∃ (s : State) (p : Nat) (ch : Nat) (die : Nat) (core : Nat) (k : Nat) (sh : Show) (q : QOp) (x : Nat) (ready : StileMsg → Bool),
      k = coreKey die core ∧
      s.dev.sendsOn p ch k sh q x ∧
      fld x 40 12 ≠ sh.position ∧
      ((∀ m, ready m = (m.kind == 1 && m.chan == fld x 0 12 && coreKey m.die m.core == k && m.step == s.dev.runStart k && m.src == sh.addrOf (fld x 40 12)))) ∧
      q.done = 0 ∧
      s.dev.inbox.any ready = true ∧
      bit x 12 = false) ∧
  (∃ (s : State) (p : Nat) (ch : Nat) (die : Nat) (core : Nat) (x : Nat) (sh : Show),
      s.dev.takesOn p ch (coreKey die core) sh x ∧
      fld x 16 12 ≠ sh.position) ∧
  (∃ (s : State) (p : Nat) (ch : Nat) (die : Nat) (core : Nat) (x : Nat) (sh : Show),
      s.dev.takesOn p ch (coreKey die core) sh x ∧
      fld x 16 12 = sh.position ∧
      fld x 34 6 = 63) ∧
  (∃ (d : Dev) (p : Nat) (k : Nat) (x : Nat) (sh : Show) (q : QOp) (h : StileMsg) (bs : List Byte),
      k = coreKey (fld x 52 6) (fld x 58 6) ∧
      (d.recvsOn p (fld x 0 12)).find? (fun t => t.1 == k) = some (k, q) ∧
      d.transferIn (fun m => m.kind == 0 && m.chan == fld x 0 12 && coreKey m.die m.core == k && m.step == d.runStart k && m.src == sh.addrOf (fld x 16 12)) = some (h, bs)) ∧
  (∃ (s : State) (die : Nat) (core : Nat) (k : Nat) (e : Nat) (addr : Nat) (lim : Nat) (ex : Bool) (ro : Bool) (as_ : Bool) (x : StackReply) (d : Dev),
      k = coreKey die core ∧
      ((s.dev.core k).pound.flushDue = true ∧ s.dev.poundEntry k = some e ∧ Tab.get? (s.dev.core k).bases (fld e 12 4) = some (.linear addr lim ex ro as_)) ∧
      s.dev.remoteWrite k (addr + (s.dev.core k).pound.ovBytes) 0 false [] (s.dev.spRead k (logOff e) (512 * logRows e)) = (x, d)) :=
  ⟨⟨at_ { mine { own with sh := some { acts := [act []], secs := [(7, [5 + 1 * 2 ^ 52])] } } with cores := [(0, { run := some run, queue := [{ unit := 8, pc := 0, op := opw 0x12 5 }] })] }, 0, 5, 0, 0, _, _, { acts := [act []], secs := [(7, [5 + 1 * 2 ^ 52])] }, { unit := 8, pc := 0, op := opw 0x12 5 }, 5 + 1 * 2 ^ 52, _, rfl, (by unfold Dev.sendsOn; decide +kernel), by decide +kernel, by decide +kernel, rfl, rfl, by decide +kernel⟩,
   ⟨at_ { mine { own with sh := some { acts := [act []], secs := [(7, [5 + 1 * 2 ^ 52])] } } with cores := [(0, { run := some run, queue := [{ unit := 8, pc := 0, op := opw 0x12 5 }] }), (64, { run := some run, queue := [{ unit := 8, pc := 0, op := opw 0x13 5 }] })] }, 0, 5, 0, 0, _, _, { acts := [act []], secs := [(7, [5 + 1 * 2 ^ 52])] }, { unit := 8, pc := 0, op := opw 0x12 5 }, { unit := 8, pc := 0, op := opw 0x13 5 }, 5 + 1 * 2 ^ 52, _, rfl, (by unfold Dev.sendsOn; decide +kernel), by decide +kernel, by decide +kernel, rfl, rfl, by decide +kernel⟩,
   ⟨at_ { mine { own with sh := some { acts := [act []], secs := [(7, [5 + 2 ^ 12 + 1 * 2 ^ 52])] } } with cores := [(0, { run := some run, queue := [{ unit := 8, pc := 0, op := opw 0x12 5 }] }), (64, { run := some run, queue := [{ unit := 8, pc := 0, op := opw 0x13 5 }] })] }, 0, 5, 0, 0, _, _, { acts := [act []], secs := [(7, [5 + 2 ^ 12 + 1 * 2 ^ 52])] }, { unit := 8, pc := 0, op := opw 0x12 5 }, { unit := 8, pc := 0, op := opw 0x13 5 }, 5 + 2 ^ 12 + 1 * 2 ^ 52, _, rfl, (by unfold Dev.sendsOn; decide +kernel), by decide +kernel, by decide +kernel, rfl, rfl, by decide +kernel⟩,
   ⟨at_ { mine { own with sh := some { acts := [act []], secs := [(7, [5 + 1 * 2 ^ 40])] } } with cores := [(0, { run := some run, queue := [{ unit := 8, pc := 0, op := opw 0x12 5, done := 1 }] })] }, 0, 5, 0, 0, _, { acts := [act []], secs := [(7, [5 + 1 * 2 ^ 40])] }, { unit := 8, pc := 0, op := opw 0x12 5, done := 1 }, 5 + 1 * 2 ^ 40, _, rfl, (by unfold Dev.sendsOn; decide +kernel), by decide +kernel, (fun _ => rfl), by decide +kernel⟩,
   ⟨at_ { mine { own with sh := some { acts := [act []], secs := [(7, [5 + 1 * 2 ^ 40])] } } with cores := [(0, { run := some run, queue := [{ unit := 8, pc := 0, op := opw 0x12 5 }] })] }, 0, 5, 0, 0, _, { acts := [act []], secs := [(7, [5 + 1 * 2 ^ 40])] }, { unit := 8, pc := 0, op := opw 0x12 5 }, 5 + 1 * 2 ^ 40, _, rfl, (by unfold Dev.sendsOn; decide +kernel), by decide +kernel, (fun _ => rfl), by decide +kernel⟩,
   ⟨at_ { mine { own with sh := some { acts := [act []], secs := [(7, [5 + 1 * 2 ^ 40])] } } with cores := [(0, { run := some run, queue := [{ unit := 8, pc := 0, op := opw 0x12 5 }] })], inbox := [⟨1, 16, 0, 0, 0, 5, 0, 2 ^ 31, []⟩] }, 0, 5, 0, 0, _, { acts := [act []], secs := [(7, [5 + 1 * 2 ^ 40])] }, { unit := 8, pc := 0, op := opw 0x12 5 }, 5 + 1 * 2 ^ 40, _, rfl, (by unfold Dev.sendsOn; decide +kernel), by decide +kernel, (fun _ => rfl), by decide +kernel⟩,
   ⟨at_ (mine { own with sh := some { secs := [(7, [5 + 1 * 2 ^ 16])] } }), 0, 5, 0, 0, 5 + 1 * 2 ^ 16, { secs := [(7, [5 + 1 * 2 ^ 16])] }, (by unfold Dev.takesOn; decide +kernel), by decide +kernel⟩,
   ⟨at_ (mine { own with sh := some { secs := [(7, [5 + 63 * 2 ^ 34])] } }), 0, 5, 0, 0, 5 + 63 * 2 ^ 34, { secs := [(7, [5 + 63 * 2 ^ 34])] }, (by unfold Dev.takesOn; decide +kernel), by decide +kernel⟩,
   ⟨{ mine { own with sh := some { acts := [act []], secs := [(7, [5 + 1 * 2 ^ 16 + 1 * 2 ^ 52])] } } with cores := [(0, { run := some run, queue := [{ unit := 8, pc := 0, op := opw 0x12 5 }] }), (64, { run := some run, queue := [{ unit := 8, pc := 0, op := opw 0x13 5 }] })], inbox := [⟨0, 16, 0, 1, 0, 5, 0, 2 ^ 31, []⟩] }, 0, _, 5 + 1 * 2 ^ 16 + 1 * 2 ^ 52, {}, { unit := 8, pc := 0, op := opw 0x13 5 }, ⟨0, 16, 0, 1, 0, 5, 0, 2 ^ 31, []⟩, [], rfl, by decide +kernel⟩,
   ⟨at_ { mine { own with sh := some { acts := [act []], secs := [(9, [0])] } } with cores := [(0, { run := some run, bases := [(0, .linear (2 ^ 61) 512 false false false)], pound := { flushDue := true } })] }, 0, 0, _, 0, 2 ^ 61, 512, false, false, false, _, _, rfl, by decide +kernel, rfl⟩⟩

theorem witness_BeatNumberWrapsModulo64Bits :
  (∃ (s : State),
      s.dev.power.inReset = false ∧
      s.dev.beat.jump = none) ∧
  (∃ (d : Dev) (g : Nat) (e : CalEntry) (c : _),
      d.startEntry g = some e ∧
      (d.group g).running = true ∧
      (d.group g).unloading = false ∧
      (d.group g).rejoin = none ∧
      (d.group g).leaves = [] ∧
      (d.group g).spans = false ∧
      ((∀ q ∈ d.funcs, q.2.flr = false)) ∧
      c ∈ d.cal ∧
      c.action = 1 ∧
      c.group = g ∧
      (d.group g).passed < 2) :=
  ⟨⟨at_ ready, by decide +kernel⟩,
   ⟨{ ready with cal := [entry 1 0 16], groups := [(3, { running := true, passed := 1 })] }, 3, entry 1 0 16, entry 1 0 16, by decide +kernel⟩⟩

theorem witness_BeatStateFollowsEdges :
  (∃ (s : State) (b : Beat),
      (s.dev.power.inReset = false ∧ s.dev.aux.strapBeat = false ∧ s.dev.beat.lockDue = false ∧ ((∀ y ∈ s.dev.beat.syncs, y.armed = false))) ∧
      b = s.dev.beat ∧
      b.st = .free ∧
      b.valid < 7) ∧
  (∃ (s : State) (b : Beat),
      (s.dev.power.inReset = false ∧ s.dev.aux.strapBeat = false ∧ s.dev.beat.lockDue = false ∧ ((∀ y ∈ s.dev.beat.syncs, y.armed = false))) ∧
      b = s.dev.beat ∧
      b.st = .free ∧
      b.valid = 7) ∧
  (∃ (s : State) (phase : Int) (b : Beat),
      (s.dev.power.inReset = false ∧ s.dev.aux.strapBeat = false ∧ s.dev.beat.lockDue = false ∧ ((∀ y ∈ s.dev.beat.syncs, y.armed = false))) ∧
      b = s.dev.beat ∧
      b.st = .locked ∧
      phase.natAbs ≤ 32) ∧
  (∃ (s : State) (phase : Int) (b : Beat),
      (s.dev.power.inReset = false ∧ s.dev.aux.strapBeat = false ∧ s.dev.beat.lockDue = false ∧ ((∀ y ∈ s.dev.beat.syncs, y.armed = false))) ∧
      b = s.dev.beat ∧
      b.st = .slewing ∧
      (phase - b.phase).natAbs ≤ 32 ∧
      1 < phase.natAbs) ∧
  (∃ (s : State) (phase : Int) (b : Beat),
      (s.dev.power.inReset = false ∧ s.dev.aux.strapBeat = false ∧ s.dev.beat.lockDue = false ∧ ((∀ y ∈ s.dev.beat.syncs, y.armed = false))) ∧
      b = s.dev.beat ∧
      b.st = .slewing ∧
      (phase - b.phase).natAbs ≤ 32 ∧
      phase.natAbs ≤ 1) ∧
  (∃ (s : State) (phase : Int) (b : Beat),
      (s.dev.power.inReset = false ∧ s.dev.aux.strapBeat = false ∧ s.dev.beat.lockDue = false ∧ ((∀ y ∈ s.dev.beat.syncs, y.armed = false))) ∧
      b = s.dev.beat ∧
      ((b.st = .locked ∧ 32 < phase.natAbs ∨ b.st = .slewing ∧ 32 < (phase - b.phase).natAbs)) ∧
      b.missing < 7) ∧
  (∃ (s : State) (phase : Int) (b : Beat),
      (s.dev.power.inReset = false ∧ s.dev.aux.strapBeat = false ∧ s.dev.beat.lockDue = false ∧ ((∀ y ∈ s.dev.beat.syncs, y.armed = false))) ∧
      b = s.dev.beat ∧
      ((b.st = .locked ∧ 32 < phase.natAbs ∨ b.st = .slewing ∧ 32 < (phase - b.phase).natAbs)) ∧
      7 ≤ b.missing) ∧
  (∃ (s : State) (phase : Int) (b : Beat),
      (s.dev.power.inReset = false ∧ s.dev.aux.strapBeat = false ∧ s.dev.beat.lockDue = false ∧ ((∀ y ∈ s.dev.beat.syncs, y.armed = false))) ∧
      b = s.dev.beat ∧
      b.st = .holdover ∧
      phase.natAbs ≤ 1) ∧
  (∃ (s : State) (phase : Int) (b : Beat),
      (s.dev.power.inReset = false ∧ s.dev.aux.strapBeat = false ∧ s.dev.beat.lockDue = false ∧ ((∀ y ∈ s.dev.beat.syncs, y.armed = false))) ∧
      b = s.dev.beat ∧
      b.st = .holdover ∧
      1 < phase.natAbs ∧
      phase.natAbs ≤ 64) ∧
  (∃ (s : State) (phase : Int) (b : Beat),
      (s.dev.power.inReset = false ∧ s.dev.aux.strapBeat = false ∧ s.dev.beat.lockDue = false ∧ ((∀ y ∈ s.dev.beat.syncs, y.armed = false))) ∧
      b = s.dev.beat ∧
      b.st = .holdover ∧
      64 < phase.natAbs) ∧
  (∃ (s : State) (b : Beat),
      (s.dev.power.inReset = false ∧ s.dev.aux.strapBeat = false ∧ s.dev.beat.lockDue = false ∧ ((∀ y ∈ s.dev.beat.syncs, y.armed = false))) ∧
      b = s.dev.beat ∧
      b.st = .slipped) ∧
  (∃ (s : State),
      ((s.dev.power.inReset = true ∨ s.dev.aux.strapBeat = true))) ∧
  (∃ (s : State) (b : Beat),
      s.dev.power.inReset = false ∧
      b = s.dev.beat ∧
      ((b.st = .locked ∨ b.st = .slewing)) ∧
      b.missing < 7) ∧
  (∃ (s : State) (b : Beat),
      s.dev.power.inReset = false ∧
      b = s.dev.beat ∧
      ((b.st = .locked ∨ b.st = .slewing)) ∧
      7 ≤ b.missing) ∧
  (∃ (s : State) (b : Beat),
      s.dev.power.inReset = false ∧
      b = s.dev.beat ∧
      ((b.st = .holdover ∨ b.st = .slipped))) :=
  ⟨⟨at_ ready, _, by decide +kernel, rfl, by decide +kernel⟩,
   ⟨at_ { ready with beat := { valid := 7 } }, _, by decide +kernel, rfl, by decide +kernel⟩,
   ⟨at_ { ready with beat := { st := .locked } }, 32, _, by decide +kernel, rfl, by decide +kernel⟩,
   ⟨at_ { ready with beat := { st := .slewing, phase := -20 } }, 12, _, by decide +kernel, rfl, by decide +kernel⟩,
   ⟨at_ { ready with beat := { st := .slewing, phase := 10 } }, -1, _, by decide +kernel, rfl, by decide +kernel⟩,
   ⟨at_ { ready with beat := { st := .locked, missing := 6 } }, 33, _, by decide +kernel, rfl, by decide +kernel⟩,
   ⟨at_ { ready with beat := { st := .slewing, missing := 7 } }, -33, _, by decide +kernel, rfl, by decide +kernel⟩,
   ⟨at_ { ready with beat := { st := .holdover } }, -1, _, by decide +kernel, rfl, by decide +kernel⟩,
   ⟨at_ { ready with beat := { st := .holdover } }, -64, _, by decide +kernel, rfl, by decide +kernel⟩,
   ⟨at_ { ready with beat := { st := .holdover } }, 65, _, by decide +kernel, rfl, by decide +kernel⟩,
   ⟨at_ { ready with beat := { st := .slipped } }, _, by decide +kernel, rfl, by decide +kernel⟩,
   ⟨at_ { ready with aux := { strapBeat := true } }, by decide +kernel⟩,
   ⟨at_ { ready with beat := { st := .slewing, missing := 6 } }, _, by decide +kernel, rfl, by decide +kernel⟩,
   ⟨at_ { ready with beat := { st := .locked, missing := 7 } }, _, by decide +kernel, rfl, by decide +kernel⟩,
   ⟨at_ { ready with beat := { st := .holdover } }, _, by decide +kernel, rfl, by decide +kernel⟩⟩

theorem witness_BeatStateFollowsMarkers :
  (∃ (s : State) (l : Nat) (launch : Nat) (arrival : Int) (at_ : Int) (phase : Int) (own : Nat) (e : Dev) (b : Beat),
      s.dev.power.inReset = false ∧
      (s.dev.link l).st = .up ∧
      e = s.dev.linkPerf l 7 1 ∧
      b = e.beat ∧
      at_ = arrival - (launch : Int) - (e.oneWay l : Int) ∧
      phase = at_ - 16384 * ((at_ + 8192) / 16384) ∧
      own = (((b.now : Int) + (if arrival < 0 then 1 else 0) + (at_ + 8192) / 16384) % 2 ^ 64).toNat ∧
      (e.aux.strapBeat = false ∨ l ≠ e.key kBeatLink)) ∧
  (∃ (s : State) (l : Nat) (launch : Nat) (beat : Nat) (hop : Nat) (arrival : Int) (at_ : Int) (phase : Int) (own : Nat) (e : Dev) (b : Beat),
      s.dev.power.inReset = false ∧
      (s.dev.link l).st = .up ∧
      e = s.dev.linkPerf l 7 1 ∧
      b = e.beat ∧
      at_ = arrival - (launch : Int) - (e.oneWay l : Int) ∧
      phase = at_ - 16384 * ((at_ + 8192) / 16384) ∧
      own = (((b.now : Int) + (if arrival < 0 then 1 else 0) + (at_ + 8192) / 16384) % 2 ^ 64).toNat ∧
      e.aux.strapBeat = true ∧
      l = e.key kBeatLink ∧
      b.lockDue = false ∧
      ((∀ y ∈ b.syncs, y.armed = false)) ∧
      hop < 16 ∧
      beat < 2 ^ 64 ∧
      b.st = .locked ∧
      hop ≠ 15 ∧
      phase.natAbs ≤ 32 * 16 ∧
      beat = own) ∧
  (∃ (s : State) (l : Nat) (launch : Nat) (beat : Nat) (hop : Nat) (arrival : Int) (at_ : Int) (phase : Int) (own : Nat) (e : Dev) (b : Beat),
      s.dev.power.inReset = false ∧
      (s.dev.link l).st = .up ∧
      e = s.dev.linkPerf l 7 1 ∧
      b = e.beat ∧
      at_ = arrival - (launch : Int) - (e.oneWay l : Int) ∧
      phase = at_ - 16384 * ((at_ + 8192) / 16384) ∧
      own = (((b.now : Int) + (if arrival < 0 then 1 else 0) + (at_ + 8192) / 16384) % 2 ^ 64).toNat ∧
      e.aux.strapBeat = true ∧
      l = e.key kBeatLink ∧
      b.lockDue = false ∧
      ((∀ y ∈ b.syncs, y.armed = false)) ∧
      hop < 16 ∧
      beat < 2 ^ 64 ∧
      b.st = .locked ∧
      hop ≠ 15 ∧
      phase.natAbs ≤ 32 * 16 ∧
      beat ≠ own) ∧
  (∃ (s : State) (l : Nat) (launch : Nat) (beat : Nat) (hop : Nat) (arrival : Int) (at_ : Int) (phase : Int) (own : Nat) (e : Dev) (b : Beat),
      s.dev.power.inReset = false ∧
      (s.dev.link l).st = .up ∧
      e = s.dev.linkPerf l 7 1 ∧
      b = e.beat ∧
      at_ = arrival - (launch : Int) - (e.oneWay l : Int) ∧
      phase = at_ - 16384 * ((at_ + 8192) / 16384) ∧
      own = (((b.now : Int) + (if arrival < 0 then 1 else 0) + (at_ + 8192) / 16384) % 2 ^ 64).toNat ∧
      e.aux.strapBeat = true ∧
      l = e.key kBeatLink ∧
      b.lockDue = false ∧
      ((∀ y ∈ b.syncs, y.armed = false)) ∧
      hop < 16 ∧
      beat < 2 ^ 64 ∧
      b.st = .locked ∧
      ((hop = 15 ∨ 32 * 16 < phase.natAbs)) ∧
      b.missing < 7) ∧
  (∃ (s : State) (l : Nat) (launch : Nat) (beat : Nat) (hop : Nat) (arrival : Int) (at_ : Int) (phase : Int) (own : Nat) (e : Dev) (b : Beat),
      s.dev.power.inReset = false ∧
      (s.dev.link l).st = .up ∧
      e = s.dev.linkPerf l 7 1 ∧
      b = e.beat ∧
      at_ = arrival - (launch : Int) - (e.oneWay l : Int) ∧
      phase = at_ - 16384 * ((at_ + 8192) / 16384) ∧
      own = (((b.now : Int) + (if arrival < 0 then 1 else 0) + (at_ + 8192) / 16384) % 2 ^ 64).toNat ∧
      e.aux.strapBeat = true ∧
      l = e.key kBeatLink ∧
      b.lockDue = false ∧
      ((∀ y ∈ b.syncs, y.armed = false)) ∧
      hop < 16 ∧
      beat < 2 ^ 64 ∧
      b.st = .holdover ∧
      hop ≠ 15 ∧
      phase.natAbs ≤ 64 * 16 ∧
      beat = own ∧
      1 < ((phase + 8) / 16).natAbs) ∧
  (∃ (s : State) (l : Nat) (launch : Nat) (beat : Nat) (hop : Nat) (arrival : Int) (at_ : Int) (phase : Int) (own : Nat) (e : Dev) (b : Beat),
      s.dev.power.inReset = false ∧
      (s.dev.link l).st = .up ∧
      e = s.dev.linkPerf l 7 1 ∧
      b = e.beat ∧
      at_ = arrival - (launch : Int) - (e.oneWay l : Int) ∧
      phase = at_ - 16384 * ((at_ + 8192) / 16384) ∧
      own = (((b.now : Int) + (if arrival < 0 then 1 else 0) + (at_ + 8192) / 16384) % 2 ^ 64).toNat ∧
      e.aux.strapBeat = true ∧
      l = e.key kBeatLink ∧
      b.lockDue = false ∧
      ((∀ y ∈ b.syncs, y.armed = false)) ∧
      hop < 16 ∧
      beat < 2 ^ 64 ∧
      b.st = .holdover ∧
      hop ≠ 15 ∧
      ((64 * 16 < phase.natAbs ∨ beat ≠ own))) ∧
  (∃ (s : State) (l : Nat) (launch : Nat) (beat : Nat) (hop : Nat) (arrival : Int) (at_ : Int) (phase : Int) (own : Nat) (e : Dev) (b : Beat),
      s.dev.power.inReset = false ∧
      (s.dev.link l).st = .up ∧
      e = s.dev.linkPerf l 7 1 ∧
      b = e.beat ∧
      at_ = arrival - (launch : Int) - (e.oneWay l : Int) ∧
      phase = at_ - 16384 * ((at_ + 8192) / 16384) ∧
      own = (((b.now : Int) + (if arrival < 0 then 1 else 0) + (at_ + 8192) / 16384) % 2 ^ 64).toNat ∧
      e.aux.strapBeat = true ∧
      l = e.key kBeatLink ∧
      b.lockDue = false ∧
      ((∀ y ∈ b.syncs, y.armed = false)) ∧
      hop < 16 ∧
      beat < 2 ^ 64 ∧
      b.st = .slipped ∧
      hop ≠ 15) ∧
  (∃ (s : State) (l : Nat) (launch : Nat) (beat : Nat) (hop : Nat) (arrival : Int) (at_ : Int) (phase : Int) (own : Nat) (e : Dev) (b : Beat),
      s.dev.power.inReset = false ∧
      (s.dev.link l).st = .up ∧
      e = s.dev.linkPerf l 7 1 ∧
      b = e.beat ∧
      at_ = arrival - (launch : Int) - (e.oneWay l : Int) ∧
      phase = at_ - 16384 * ((at_ + 8192) / 16384) ∧
      own = (((b.now : Int) + (if arrival < 0 then 1 else 0) + (at_ + 8192) / 16384) % 2 ^ 64).toNat ∧
      e.aux.strapBeat = true ∧
      l = e.key kBeatLink ∧
      b.lockDue = false ∧
      ((∀ y ∈ b.syncs, y.armed = false)) ∧
      hop < 16 ∧
      beat < 2 ^ 64 ∧
      b.st = .free ∧
      hop ≠ 15 ∧
      b.valid = 7) :=
  ⟨⟨at_ { ready with links := [(5, { st := .up })], aux := { strapBeat := true } }, 5, 0, 16, _, _, _, _, _, by decide +kernel, by decide +kernel, rfl, rfl, rfl, rfl, rfl, by decide +kernel⟩,
   ⟨at_ { ready with links := [(0, { st := .up })], aux := { strapBeat := true }, beat := { st := .locked, now := 7, hz := 1000000 } }, 0, 0, 7, 14, 512, _, _, _, _, _, by decide +kernel, by decide +kernel, rfl, rfl, rfl, rfl, rfl, by decide +kernel⟩,
   ⟨at_ { ready with links := [(0, { st := .up })], aux := { strapBeat := true }, beat := { st := .locked, now := 7, hz := 1000000 } }, 0, 0, 8, 14, 512, _, _, _, _, _, by decide +kernel, by decide +kernel, rfl, rfl, rfl, rfl, rfl, by decide +kernel⟩,
   ⟨at_ { ready with links := [(0, { st := .up })], aux := { strapBeat := true }, beat := { st := .locked, now := 7, hz := 1000000 } }, 0, 0, 7, 15, 512, _, _, _, _, _, by decide +kernel, by decide +kernel, rfl, rfl, rfl, rfl, rfl, by decide +kernel⟩,
   ⟨at_ { ready with links := [(0, { st := .up })], aux := { strapBeat := true }, beat := { st := .holdover, now := 7, hz := 1000000 } }, 0, 0, 7, 0, 1024, _, _, _, _, _, by decide +kernel, by decide +kernel, rfl, rfl, rfl, rfl, rfl, by decide +kernel⟩,
   ⟨at_ { ready with links := [(0, { st := .up })], aux := { strapBeat := true }, beat := { st := .holdover, now := 7, hz := 1000000 } }, 0, 0, 8, 0, 512, _, _, _, _, _, by decide +kernel, by decide +kernel, rfl, rfl, rfl, rfl, rfl, by decide +kernel⟩,
   ⟨at_ { ready with links := [(0, { st := .up })], aux := { strapBeat := true }, beat := { st := .slipped, now := 7, hz := 1000000 } }, 0, 0, 8, 0, 512, _, _, _, _, _, by decide +kernel, by decide +kernel, rfl, rfl, rfl, rfl, rfl, by decide +kernel⟩,
   ⟨at_ { ready with links := [(0, { st := .up })], aux := { strapBeat := true }, beat := { st := .free, valid := 7, now := 7, hz := 1000000 } }, 0, 0, 9, 0, 0, _, _, _, _, _, by decide +kernel, by decide +kernel, rfl, rfl, rfl, rfl, rfl, by decide +kernel⟩⟩

theorem witness_BeatSyncLoadsRelocksAndExpires :
  (∃ (s : State) (y : BeatSync),
      s.dev.beat.syncs.find? (fun z => !z.armed && z.load == s.dev.beat.now) = some y ∧
      s.dev.power.inReset = false ∧
      y.relock = false ∧
      s.dev.aux.strapBeat = false) ∧
  (∃ (s : State) (y : BeatSync),
      s.dev.beat.syncs.find? (fun z => !z.armed && z.load == s.dev.beat.now) = some y ∧
      s.dev.power.inReset = false ∧
      ((y.relock = true ∨ s.dev.aux.strapBeat = true))) ∧
  (∃ (s : State) (y : BeatSync),
      s.dev.beat.syncs.find? (fun z => z.armed && beatGe s.dev.beat.now z.load && 8 ≤ beatAhead z.load s.dev.beat.now) = some y) ∧
  (∃ (s : State) (y : BeatSync),
      s.dev.beat.syncs.find? (fun z => z.armed && z.relock) = some y ∧
      s.dev.power.inReset = false ∧
      s.dev.aux.strapBeat = false ∧
      s.dev.beat.lockDue = false) ∧
  (∃ (d : Dev) (h : Nat) (own : Nat) (n : Nat) (after : Nat) (hop : Nat) (hz : Nat) (e : Dev),
      e = d.relock h own n after hop hz) ∧
  (∃ (own : Nat) (n : Nat) (o : Nat),
      o = beatAhead own n ∧
      o ≠ 0) :=
  ⟨⟨at_ { ready with beat := { syncs := [⟨1, 0, 5, false, false⟩] } }, ⟨1, 0, 5, false, false⟩, by decide +kernel⟩,
   ⟨at_ { ready with beat := { syncs := [⟨1, 0, 0, true, false⟩] } }, ⟨1, 0, 0, true, false⟩, by decide +kernel⟩,
   ⟨at_ { ready with beat := { now := 8, syncs := [⟨1, 0, 0, true, true⟩] } }, ⟨1, 0, 0, true, true⟩, by decide +kernel⟩,
   ⟨at_ { ready with beat := { syncs := [⟨1, 0, 0, true, true⟩] } }, ⟨1, 0, 0, true, true⟩, by decide +kernel⟩,
   ⟨ready, 1, 0, 5, 0, 0, 0, _, rfl⟩,
   ⟨0, 2 ^ 63, _, rfl, by decide +kernel⟩⟩

theorem witness_CommitsAndPowerCapsTakeEffect :
  (∃ (s : State),
      s.dev.dueTxns = []) ∧
  (∃ (s : State) (t : Txn) (e : Dev),
      (s.dev.dueTxns = [t] ∧ s.dev.entryHeld (commitOf t) = false ∧ t.validated = true) ∧
      e = (s.dev.calDrop (commitOf t)).commitItems t ∧
      ((∀ i ∈ t.items, keyEffect i.1 ≠ .quiescence))) ∧
  (∃ (s : State) (t : Txn) (e : Dev),
      (s.dev.dueTxns = [t] ∧ s.dev.entryHeld (commitOf t) = false ∧ t.validated = true) ∧
      e = (s.dev.calDrop (commitOf t)).commitItems t ∧
      ((∃ i ∈ t.items, keyEffect i.1 = .quiescence)) ∧
      e.startableGroups t.pasture ≠ []) ∧
  (∃ (s : State) (cap : Nat) (c : CalEntry) (e : _),
      s.dev.cal.find? (fun e => e.action == 7 && e.beat == s.dev.beat.now && e.arg == cap) = some c ∧
      e = s.dev.calDrop (fun e => e.action == 7 && e.beat == s.dev.beat.now && e.arg == cap) ∧
      s.dev.power.st = .brace) ∧
  (∃ (s : State) (cap : Nat) (c : CalEntry) (e : _),
      s.dev.cal.find? (fun e => e.action == 7 && e.beat == s.dev.beat.now && e.arg == cap) = some c ∧
      e = s.dev.calDrop (fun e => e.action == 7 && e.beat == s.dev.beat.now && e.arg == cap) ∧
      s.dev.power.st ≠ .brace) :=
  ⟨⟨at_ ready, by decide +kernel⟩,
   ⟨at_ { mine own with txns := [⟨1, false, 0, [(0x010E, 1)], 0, true, 0, 0, true, false, [], 0⟩] }, ⟨1, false, 0, [(0x010E, 1)], 0, true, 0, 0, true, false, [], 0⟩, _, by decide +kernel, rfl, (by decide)⟩,
   ⟨at_ { mine own with txns := [⟨1, false, 0, [(0x0101, 1)], 0, true, 0, 0, true, false, [], 0⟩], groups := [(3, { exists_ := true, pasture := 0 })] }, ⟨1, false, 0, [(0x0101, 1)], 0, true, 0, 0, true, false, [], 0⟩, _, by decide +kernel, rfl, by decide +kernel⟩,
   ⟨at_ { ready with power := { ready.power with st := .brace }, cal := [entry 7 0 1500] }, 1500, entry 7 0 1500, _, by decide +kernel, rfl, by decide +kernel⟩,
   ⟨at_ { ready with cal := [entry 7 0 5300] }, 5300, entry 7 0 5300, _, by decide +kernel, rfl, by decide +kernel⟩⟩

theorem witness_StepsStartOverrunAndDrop :
  (∃ (s : State) (g : Nat) (e : Dev) (before : List Nat) (after : List Nat),
      e = s.dev.commitsDue ∧
      e.dueStarts = before ++ g :: after ∧
      g ∉ before) ∧
  (∃ (s : State) (g : Nat),
      g ∉ s.dev.commitsDue.dueStarts) ∧
  (∃ (d : Dev) (g : Nat),
      d.startEntry g = none) ∧
  (∃ (d : Dev) (g : Nat) (e : CalEntry) (f : Dev) (h : Dev),
      d.startEntry g = some e ∧
      f = { d with cal := d.cal.map (fun c : CalEntry => if c.action = 1 && c.group = g then { c with beat := (e.beat + max 1 (e.arg % 2 ^ 24)) % 2 ^ 64 } else c) } ∧
      (((∀ q ∈ d.funcs, q.2.flr = false)) ∧ (d.group g).leaves = [] ∧ (d.group g).peersJoin = [] ∧ (d.group g).unloading = false ∧ (d.group g).rejoin = none ∧ (d.group g).spans = false ∧ (d.group g).running = true) ∧
      h = f.modGroup g id) ∧
  (∃ (d : Dev) (g : Nat) (sh : Show) (i : Nat) (a : Act),
      ((d.selectActs g sh).map (fun q => coreKey q.2.die q.2.core)).Nodup ∧
      (i, a) ∈ d.selectActs g sh) :=
  ⟨⟨at_ { ready with cal := [entry 1 0 16] }, 3, _, [], [], rfl, by decide +kernel⟩,
   ⟨at_ ready, 3, by decide +kernel⟩,
   ⟨ready, 3, by decide +kernel⟩,
   ⟨{ ready with cal := [entry 1 0 16], groups := [(3, { running := true })] }, 3, entry 1 0 16, _, _, by decide +kernel, rfl, by decide +kernel, rfl⟩,
   ⟨ready, 0, { acts := [act []] }, 0, act [], by decide +kernel⟩⟩

theorem witness_NoticesSweepsAndStepEntriesAct :
  (∃ (s : State) (g : Nat) (b : Nat),
      (s.dev.group g).exists_ = true ∧
      (s.dev.group g).spans = true ∧
      beatGe s.dev.beat.now b = false) ∧
  (∃ (s : State) (p : Nat) (e : CalEntry),
      e ∈ s.dev.cal ∧
      e.action = 5 ∧
      e.target = p ∧
      e.rel = false ∧
      e.held = [] ∧
      beatGe s.dev.beat.now e.beat = true ∧
      s.dev.mayFire e = true) ∧
  (∃ (s : State) (p : Nat) (n : Nat) (l : Nat) (sh : Show) (e : Nat) (c : CalEntry) (held : List (Nat × Nat)),
      (s.dev.showOf p = some sh ∧ (redEntries sh)[n]? = some e ∧ s.dev.cal.find? (fun c => c.action == 6 && c.target == n && c.arg == l && (s.dev.group c.group).pasture == p && s.dev.entryDue c) = some c) ∧
      held = (c.dies.filter s.dev.inRecovery).map (fun v => (l, v)) ∧
      s.dev.mayFire c = false) ∧
  (∃ (s : State) (p : Nat) (n : Nat) (l : Nat) (sh : Show) (e : Nat) (c : CalEntry) (held : List (Nat × Nat)),
      (s.dev.showOf p = some sh ∧ (redEntries sh)[n]? = some e ∧ s.dev.cal.find? (fun c => c.action == 6 && c.target == n && c.arg == l && (s.dev.group c.group).pasture == p && s.dev.entryDue c) = some c) ∧
      held = (c.dies.filter s.dev.inRecovery).map (fun v => (l, v)) ∧
      s.dev.mayFire c = true ∧
      (s.dev.red p n).waits = []) ∧
  (∃ (s : State) (p : Nat) (n : Nat) (l : Nat) (sh : Show) (e : Nat) (c : CalEntry) (held : List (Nat × Nat)) (ws : _) (w : _),
      (s.dev.showOf p = some sh ∧ (redEntries sh)[n]? = some e ∧ s.dev.cal.find? (fun c => c.action == 6 && c.target == n && c.arg == l && (s.dev.group c.group).pasture == p && s.dev.entryDue c) = some c) ∧
      held = (c.dies.filter s.dev.inRecovery).map (fun v => (l, v)) ∧
      s.dev.mayFire c = true ∧
      (s.dev.red p n).waits = ws ++ [w]) ∧
  (∃ (s : State) (p : Nat) (l : Nat) (c : CalEntry),
      s.dev.cal.find? (fun c => c.action == 2 && c.target == l && (s.dev.group c.group).pasture == p && s.dev.entryDue c) = some c ∧
      s.dev.mayFire c = false) ∧
  (∃ (s : State) (p : Nat) (l : Nat) (c : CalEntry),
      s.dev.cal.find? (fun c => c.action == 2 && c.target == l && (s.dev.group c.group).pasture == p && s.dev.entryDue c) = some c ∧
      s.dev.mayFire c = true ∧
      (s.dev.race p l).waiting (s.dev.group c.group).last = none) ∧
  (∃ (s : State) (p : Nat) (l : Nat) (c : CalEntry) (w : _),
      s.dev.cal.find? (fun c => c.action == 2 && c.target == l && (s.dev.group c.group).pasture == p && s.dev.entryDue c) = some c ∧
      s.dev.mayFire c = true ∧
      (s.dev.race p l).waiting (s.dev.group c.group).last = some w) ∧
  (∃ (s : State) (p : Nat),
      ((∀ c ∈ s.dev.cal, ¬ (c.action = 5 ∧ c.target = p ∧ s.dev.entryDue c = true)))) ∧
  (∃ (s : State) (n : Nat) (l : Nat),
      ((∀ c ∈ s.dev.cal, ¬ (c.action = 6 ∧ c.target = n ∧ c.arg = l ∧ s.dev.entryDue c = true)))) ∧
  (∃ (s : State) (l : Nat),
      ((∀ c ∈ s.dev.cal, ¬ (c.action = 2 ∧ c.target = l ∧ s.dev.entryDue c = true)))) ∧
  (∃ (s : State) (die : Nat),
      s.dev.inRecovery die = false ∧
      ((∀ e ∈ s.dev.cal, die ∉ e.held))) ∧
  (∃ (s : State) (die : Nat) (c : CalEntry),
      s.dev.inRecovery die = false ∧
      s.dev.cal = [c] ∧
      c.held = [die] ∧
      c.rel = true ∧
      s.dev.stepCurrent c = false) ∧
  (∃ (s : State) (die : Nat) (c : CalEntry),
      s.dev.inRecovery die = false ∧
      s.dev.cal = [c] ∧
      c.held = [die] ∧
      c.rel = true ∧
      s.dev.stepCurrent c = true ∧
      c.action = 6) ∧
  (∃ (s : State) (die : Nat),
      s.dev.inRecovery die = true) :=
  ⟨⟨at_ { ready with groups := [(3, { exists_ := true, spans := true })] }, 3, 1, by decide +kernel⟩,
   ⟨at_ { ready with cal := [entry 5 0 0] }, 0, entry 5 0 0, by decide +kernel⟩,
   ⟨at_ { stepping (sumAt 1 {} []) (relEntry 6 0 0) with cal := [relEntry 6 0 0, entry 3 0 0] }, 0, 0, 0, summing 1, sum2 1, relEntry 6 0 0, _, by decide +kernel, rfl, by decide +kernel⟩,
   ⟨at_ (stepping (sumAt 1 {} []) (relEntry 6 0 0)), 0, 0, 0, summing 1, sum2 1, relEntry 6 0 0, _, by decide +kernel, rfl, by decide +kernel⟩,
   ⟨at_ (stepping (sumAt 1 { live := true, waits := [{ step := 5 }] } []) (relEntry 6 0 0)), 0, 0, 0, summing 1, sum2 1, relEntry 6 0 0, _, [], { step := 5 }, by decide +kernel, rfl, by decide +kernel⟩,
   ⟨at_ { stepping (mine own) (relEntry 2 4 0) with cal := [relEntry 2 4 0, entry 3 0 0] }, 0, 4, relEntry 2 4 0, by decide +kernel⟩,
   ⟨at_ (stepping (mine own) (relEntry 2 4 0)), 0, 4, relEntry 2 4 0, by decide +kernel⟩,
   ⟨at_ { stepping (mine own) (relEntry 2 4 0) with races := [(4, { live := true, waits := [{ step := 0 }] })] }, 0, 4, relEntry 2 4 0, { step := 0 }, by decide +kernel⟩,
   ⟨at_ ready, 15, by decide +kernel⟩,
   ⟨at_ ready, 0, 0, by decide +kernel⟩,
   ⟨at_ ready, 0, by decide +kernel⟩,
   ⟨at_ ready, 17, by decide +kernel⟩,
   ⟨at_ { ready with cal := [{ relEntry 2 0 0 with held := [17] }] }, 17, { relEntry 2 0 0 with held := [17] }, by decide +kernel⟩,
   ⟨at_ (stepping ready { relEntry 6 0 0 with held := [17], fired := 1 }), 17, { relEntry 6 0 0 with held := [17], fired := 1 }, by decide +kernel⟩,
   ⟨at_ (recovering 1 ready), 0, by decide +kernel⟩⟩

theorem witness_TreeTransfersCombineAtTheReceiver :
  (∃ (s : State) (p : Nat) (n : Nat) (i : Nat) (l : Nat) (j : Nat) (die : Nat) (core : Nat) (sh : Show) (e : Nat) (bs : List Byte) (ps : List Nat) (d : Dev),
      (s.dev.showOf p = some sh ∧ (redEntries sh)[n]? = some e ∧ (s.dev.red p n).tree = true ∧ 0 < i ∧ i < rCount e ∧ (s.dev.red p n).done = false ∧ (s.dev.red p n).abandoned = false ∧ (s.dev.red p n).live = true ∧ i % 2 ^ (l + 1) = 2 ^ l ∧ l < rLevels e) ∧
      j = i - 2 ^ l ∧
      redPart sh e i = some (sh.position, die, core) ∧
      (s.dev.part p n i).st ≠ 0 ∧
      (s.dev.part p n i).gone = false ∧
      (s.dev.part p n i).level = l ∧
      l ∈ (s.dev.red p n).phases ∧
      (l, die) ∉ (s.dev.red p n).heldPhases ∧
      (bs, ps, d) = (if (s.dev.part p n i).st = 2 then ([], [], s.dev) else s.dev.treeRead sh e i) ∧
      redLocal sh e j = true ∧
      (s.dev.part p n j).st ≠ 0 ∧
      (s.dev.part p n j).level = l) ∧
  (∃ (s : State) (p : Nat) (n : Nat) (i : Nat) (l : Nat) (j : Nat) (die : Nat) (core : Nat) (sh : Show) (e : Nat) (bs : List Byte) (ps : List Nat) (d : Dev),
      (s.dev.showOf p = some sh ∧ (redEntries sh)[n]? = some e ∧ (s.dev.red p n).tree = true ∧ 0 < i ∧ i < rCount e ∧ (s.dev.red p n).done = false ∧ (s.dev.red p n).abandoned = false ∧ (s.dev.red p n).live = true ∧ i % 2 ^ (l + 1) = 2 ^ l ∧ l < rLevels e) ∧
      j = i - 2 ^ l ∧
      redPart sh e i = some (sh.position, die, core) ∧
      (s.dev.part p n i).st ≠ 0 ∧
      (s.dev.part p n i).gone = false ∧
      (s.dev.part p n i).level = l ∧
      l ∈ (s.dev.red p n).phases ∧
      (l, die) ∉ (s.dev.red p n).heldPhases ∧
      (bs, ps, d) = (if (s.dev.part p n i).st = 2 then ([], [], s.dev) else s.dev.treeRead sh e i) ∧
      redLocal sh e j = true ∧
      (((s.dev.part p n j).st = 0 ∨ (s.dev.part p n j).level ≠ l))) ∧
  (∃ (s : State) (p : Nat) (n : Nat) (i : Nat) (l : Nat) (j : Nat) (die : Nat) (core : Nat) (sh : Show) (e : Nat) (bs : List Byte) (ps : List Nat) (d : Dev),
      (s.dev.showOf p = some sh ∧ (redEntries sh)[n]? = some e ∧ (s.dev.red p n).tree = true ∧ 0 < i ∧ i < rCount e ∧ (s.dev.red p n).done = false ∧ (s.dev.red p n).abandoned = false ∧ (s.dev.red p n).live = true ∧ i % 2 ^ (l + 1) = 2 ^ l ∧ l < rLevels e) ∧
      j = i - 2 ^ l ∧
      redPart sh e i = some (sh.position, die, core) ∧
      (s.dev.part p n i).st ≠ 0 ∧
      (s.dev.part p n i).gone = false ∧
      (s.dev.part p n i).level = l ∧
      l ∈ (s.dev.red p n).phases ∧
      (l, die) ∉ (s.dev.red p n).heldPhases ∧
      (bs, ps, d) = (if (s.dev.part p n i).st = 2 then ([], [], s.dev) else s.dev.treeRead sh e i) ∧
      redLocal sh e j = false) ∧
  (∃ (s : State) (p : Nat) (n : Nat) (i : Nat) (l : Nat) (j : Nat) (kind : Nat) (sh : Show) (e : Nat) (bs : List Byte),
      (s.dev.showOf p = some sh ∧ (redEntries sh)[n]? = some e ∧ (s.dev.red p n).tree = true ∧ 0 < i ∧ i < rCount e ∧ (s.dev.red p n).done = false ∧ (s.dev.red p n).abandoned = false ∧ (s.dev.red p n).live = true ∧ i % 2 ^ (l + 1) = 2 ^ l ∧ l < rLevels e) ∧
      j = i - 2 ^ l ∧
      redLocal sh e i = false ∧
      redLocal sh e j = true ∧
      (s.dev.part p n j).st ≠ 0 ∧
      (s.dev.part p n j).level = l ∧
      (s.dev.part p n i).gone = false ∧
      s.dev.heldNow p n i = some (kind, bs)) ∧
  (∃ (s : State) (p : Nat) (n : Nat) (i : Nat) (l : Nat) (j : Nat) (sh : Show) (e : Nat) (bs : List Byte) (h : _),
      (s.dev.showOf p = some sh ∧ (redEntries sh)[n]? = some e ∧ (s.dev.red p n).tree = true ∧ 0 < i ∧ i < rCount e ∧ (s.dev.red p n).done = false ∧ (s.dev.red p n).abandoned = false ∧ (s.dev.red p n).live = true ∧ i % 2 ^ (l + 1) = 2 ^ l ∧ l < rLevels e) ∧
      j = i - 2 ^ l ∧
      redLocal sh e i = false ∧
      redLocal sh e j = true ∧
      (s.dev.part p n j).st ≠ 0 ∧
      (s.dev.part p n j).level = l ∧
      (s.dev.part p n i).gone = false ∧
      s.dev.heldNow p n i = none ∧
      s.dev.redIn sh e n i = some (h, bs) ∧
      h.what ≠ 3 ∧
      h.step = (s.dev.red p n).step) ∧
  (∃ (d : Dev) (p : Nat) (n : Nat) (j : Nat) (kind : Nat) (sh : Show) (e : Nat) (data : List Byte) (f : Dev) (h : Dev),
      j ≠ 0 ∧
      f = d.treeCombine p n sh e j kind data ∧
      h = d.modPart p n j (fun x => { x with st := if kind = 2 then x.st else 1, level := passLevels (rCount e) j (rLevels e) ((d.part p n j).level + 1) }) ∧
      kind = 2) ∧
  (∃ (d : Dev) (p : Nat) (n : Nat) (j : Nat) (kind : Nat) (sh : Show) (e : Nat) (data : List Byte) (f : Dev) (h : Dev),
      j ≠ 0 ∧
      f = d.treeCombine p n sh e j kind data ∧
      h = d.modPart p n j (fun x => { x with st := if kind = 2 then x.st else 1, level := passLevels (rCount e) j (rLevels e) ((d.part p n j).level + 1) }) ∧
      kind = 1 ∧
      (d.part p n j).st = 2) ∧
  (∃ (d : Dev) (p : Nat) (n : Nat) (j : Nat) (kind : Nat) (sh : Show) (e : Nat) (data : List Byte) (f : Dev) (h : Dev) (own : _) (poison : _) (g : _),
      j ≠ 0 ∧
      f = d.treeCombine p n sh e j kind data ∧
      h = d.modPart p n j (fun x => { x with st := if kind = 2 then x.st else 1, level := passLevels (rCount e) j (rLevels e) ((d.part p n j).level + 1) }) ∧
      kind = 1 ∧
      (d.part p n j).st ≠ 2 ∧
      (own, poison, g) = h.treeRead sh e j) ∧
  (∃ (s : State) (p : Nat) (n : Nat) (i : Nat) (die : Nat) (core : Nat) (k : Nat) (sh : Show) (e : Nat) (q : QOp),
      (s.dev.showOf p = some sh ∧ (redEntries sh)[n]? = some e ∧ redPart sh e i = some (sh.position, die, core)) ∧
      k = coreKey die core ∧
      (s.dev.red p n).tree = false ∧
      (s.dev.red p n).done = false ∧
      (s.dev.red p n).abandoned = false ∧
      (s.dev.red p n).live = true ∧
      (s.dev.part p n i).st = 0 ∧
      ((s.dev.core k).queued 8).head? = some q ∧
      (s.dev.core k).run.map Run.pasture = some p ∧
      opCode q.op = 0x12 ∧
      fld q.op 0 12 = rCchan e ∧
      destHere sh e = true ∧
      s.dev.counterFree e (s.dev.red p n) = false) ∧
  (∃ (s : State) (p : Nat) (n : Nat) (i : Nat) (die : Nat) (core : Nat) (k : Nat) (sh : Show) (e : Nat) (q : QOp) (d : _) (met : _),
      (s.dev.showOf p = some sh ∧ (redEntries sh)[n]? = some e ∧ redPart sh e i = some (sh.position, die, core)) ∧
      k = coreKey die core ∧
      ((s.dev.red p n).tree = false ∧ (s.dev.red p n).done = false ∧ (s.dev.red p n).abandoned = false ∧ (s.dev.red p n).live = true ∧ (s.dev.part p n i).st = 0 ∧ ((s.dev.core k).queued 8).head? = some q ∧ (s.dev.core k).run.map Run.pasture = some p ∧ opCode q.op = 0x12 ∧ fld q.op 0 12 = rCchan e ∧ ((destHere sh e = false ∨ s.dev.counterFree e (s.dev.red p n) = true))) ∧
      s.dev.arriveLocal p n sh e i 1 (s.dev.spRead k (dLocal (s.dev.descOf k (fld (opX q.op) 0 9))) (512 * rRows e)) = (d, met)) ∧
  (∃ (s : State) (p : Nat) (n : Nat) (i : Nat) (pos : Nat) (die : Nat) (core : Nat) (sh : Show) (e : Nat) (h : StileMsg) (bs : List Byte),
      s.dev.showOf p = some sh ∧
      (redEntries sh)[n]? = some e ∧
      redPart sh e i = some (pos, die, core) ∧
      pos ≠ sh.position ∧
      (s.dev.red p n).tree = false ∧
      (s.dev.red p n).done = false ∧
      (s.dev.red p n).abandoned = false ∧
      (s.dev.red p n).live = true ∧
      (s.dev.part p n i).st = 0 ∧
      destHere sh e = true ∧
      s.dev.heldNow p n i = none ∧
      s.dev.redIn sh e n i = some (h, bs) ∧
      h.what ≠ 3 ∧
      h.step = (s.dev.red p n).step ∧
      ((h.what ≠ 1 ∨ s.dev.counterFree e (s.dev.red p n) = true))) ∧
  (∃ (s : State) (p : Nat) (n : Nat) (i : Nat) (sh : Show) (e : Nat),
      s.dev.showOf p = some sh ∧
      (redEntries sh)[n]? = some e ∧
      (((s.dev.red p n).live = false ∨ redLocal sh e i = true ∧ ((s.dev.red p n).done = true ∨ (s.dev.red p n).abandoned = true)))) :=
  ⟨⟨at_ (sumAt 1 { live := true, parts := [(0, { st := 1 }), (1, { st := 2 })], phases := [0] } []), 0, 0, 1, 0, _, 0, 1, summing 1, sum2 1, [], [], sumAt 1 { live := true, parts := [(0, { st := 1 }), (1, { st := 2 })], phases := [0] } [], by decide +kernel, rfl, by decide +kernel⟩,
   ⟨at_ (sumAt 1 { live := true, parts := [(1, { st := 2 })], phases := [0] } []), 0, 0, 1, 0, _, 0, 1, summing 1, sum2 1, [], [], sumAt 1 { live := true, parts := [(1, { st := 2 })], phases := [0] } [], by decide +kernel, rfl, by decide +kernel⟩,
   ⟨at_ { mine { own with sh := some { summing 1 with secs := [(3, [sum2 1]), (4, [2 ^ 16, 1])] } } with reds := [(0, { live := true, parts := [(1, { st := 2 })], phases := [0] })] }, 0, 0, 1, 0, _, 0, 1, { summing 1 with secs := [(3, [sum2 1]), (4, [2 ^ 16, 1])] }, sum2 1, [], [], { mine { own with sh := some { summing 1 with secs := [(3, [sum2 1]), (4, [2 ^ 16, 1])] } } with reds := [(0, { live := true, parts := [(1, { st := 2 })], phases := [0] })] }, by decide +kernel, rfl, by decide +kernel⟩,
   ⟨at_ { mine { own with sh := some { summing 1 with secs := [(3, [sum2 1]), (4, [0, 2 ^ 16 + 1])] } } with reds := [(0, { live := true, parts := [(0, { st := 1 }), (1, { held := some (0, 2, []) })] })] }, 0, 0, 1, 0, _, 2, { summing 1 with secs := [(3, [sum2 1]), (4, [0, 2 ^ 16 + 1])] }, sum2 1, [], by decide +kernel, rfl, by decide +kernel⟩,
   ⟨at_ { mine { own with sh := some { summing 1 with secs := [(3, [sum2 1]), (4, [0, 2 ^ 16 + 1])] } } with reds := [(0, { live := true, parts := [(0, { st := 1 })] })], inbox := [⟨2, 16, 0, 0, 0, 0, 0, 1 + 2 ^ 16 + 2 ^ 31, []⟩] }, 0, 0, 1, 0, _, { summing 1 with secs := [(3, [sum2 1]), (4, [0, 2 ^ 16 + 1])] }, sum2 1, [], ⟨2, 16, 0, 0, 0, 0, 0, 1 + 2 ^ 16 + 2 ^ 31, []⟩, by decide +kernel, rfl, by decide +kernel⟩,
   ⟨ready, 0, 0, 1, _, summing 1, sum2 1, [], _, _, by decide +kernel, rfl, rfl, rfl⟩,
   ⟨sumAt 1 { parts := [(1, { st := 2 })] } [], 0, 0, 1, _, summing 1, sum2 1, [], _, _, by decide +kernel, rfl, rfl, rfl, by decide +kernel⟩,
   ⟨sumAt 1 { parts := [(1, { st := 1 })] } [], 0, 0, 1, _, summing 1, sum2 1, [], _, _, _, _, _, by decide +kernel, rfl, rfl, rfl, by decide +kernel, rfl⟩,
   ⟨at_ { counters 256 with reds := (counters 256).reds ++ [(256, { live := true, tree := false })], cores := [(0, { run := some run, queue := [{ unit := 8, pc := 0, op := opw 0x12 5 }] })] }, 0, 256, 0, 0, 0, _, { summing 2 with secs := [(3, List.replicate 257 (sum2 2)), (4, [0, 1])] }, sum2 2, { unit := 8, pc := 0, op := opw 0x12 5 }, by decide +kernel, rfl, by decide +kernel⟩,
   ⟨at_ (sumAt 2 { live := true, tree := false } [(0, { run := some run, queue := [{ unit := 8, pc := 0, op := opw 0x12 5 }] })]), 0, 0, 0, 0, 0, _, summing 2, sum2 2, { unit := 8, pc := 0, op := opw 0x12 5 }, _, _, by decide +kernel, rfl, by decide +kernel, Prod.mk.eta.symm⟩,
   ⟨at_ { mine { own with sh := some { summing 2 with secs := [(3, [sum2 2]), (4, [0, 2 ^ 16 + 1])] } } with reds := [(0, { live := true, tree := false })], inbox := [⟨2, 16, 0, 0, 0, 0, 0, 1 + 2 * 2 ^ 16 + 2 ^ 31, []⟩] }, 0, 0, 1, 1, 0, 1, { summing 2 with secs := [(3, [sum2 2]), (4, [0, 2 ^ 16 + 1])] }, sum2 2, ⟨2, 16, 0, 0, 0, 0, 0, 1 + 2 * 2 ^ 16 + 2 ^ 31, []⟩, [], by decide +kernel⟩,
   ⟨at_ (sumAt 1 {} []), 0, 0, 0, summing 1, sum2 1, by decide +kernel⟩⟩

theorem witness_TransfersReadWhatWasWrittenAndTouchNothingElse :
  (∃ (d : Dev) (e : Dev) (x : StackReq) (r : StackReply) (i : _),
      (d.mapAllows x.pen x.die x.off x.data.length true = true ∧ x.kind = 1 ∧ x.errs = [] ∧ x.foldUe = [] ∧ d.poison = [] ∧ 0 < x.data.length ∧ x.off + x.data.length ≤ 2 ^ 38) ∧
      d.transfer x = (r, e) ∧
      i < x.data.length) ∧
  (∃ (d : Dev) (e : Dev) (x : StackReq) (r : StackReply) (a : _),
      (d.mapAllows x.pen x.die x.off x.data.length true = true ∧ x.kind = 1 ∧ x.errs = [] ∧ x.foldUe = [] ∧ d.poison = [] ∧ 0 < x.data.length ∧ x.off + x.data.length ≤ 2 ^ 38) ∧
      d.transfer x = (r, e) ∧
      ((a < penAddr x.pen x.off ∨ penAddr x.pen x.off + x.data.length ≤ a))) ∧
  (∃ (d : Dev) (e : Dev) (x : StackReq) (r : StackReply),
      (d.mapAllows x.pen x.die x.off x.size false = true ∧ x.kind = 0 ∧ x.errs = [] ∧ x.foldUe = [] ∧ d.poison = [] ∧ x.off + x.size ≤ 2 ^ 38) ∧
      d.transfer x = (r, e)) ∧
  (∃ (d : Dev) (e : Dev) (x : StackReq) (r : StackReply),
      d.mapAllows x.pen x.die x.off (if x.kind = 0 then x.size else x.data.length) (x.kind != 0) = false ∧
      d.transfer x = (r, e)) :=
  ⟨⟨{ ready with maps := [(0, { rw := 1 })] }, _, { requester := 0, die := 0, pen := 0, off := 2 ^ 38 - 1, kind := 1, data := [7] }, _, 0, by decide +kernel, rfl, by decide +kernel⟩,
   ⟨{ ready with maps := [(0, { rw := 1 })] }, _, { requester := 0, die := 0, pen := 0, off := 0, kind := 1, data := [7] }, _, 1, by decide +kernel, rfl, by decide +kernel⟩,
   ⟨{ ready with maps := [(0, { rw := 1 })] }, _, { requester := 0, die := 0, pen := 0, off := 2 ^ 38 - 64, kind := 0, size := 64 }, _, by decide +kernel, rfl⟩,
   ⟨ready, _, { requester := 0, die := 0, pen := 0, off := 0, kind := 1, data := [7] }, _, by decide +kernel, rfl⟩⟩

theorem witness_OneRequestPerLaneAndCycleIsGranted :
  (∃ (s : State) (stk : Nat) (lane : Nat) (cycle : Nat) (drained : List (Nat × Nat)) (reqs : List StackReq) (cands : List StackReq) (pool : List StackReq) (l : Lane) (cls : Bool) (c : Dev),
      c = s.dev.pcDrained stk drained ∧
      l = (if (Tab.getD (c.stack stk).lanes lane {}).window = cycle / 64 then Tab.getD (c.stack stk).lanes lane {} else { Tab.getD (c.stack stk).lanes lane {} with window := cycle / 64, used := 0 }) ∧
      cands = reqs.filter (fun x => x.requester < 43 && x.pen < 16 && stackOf x.pen x.off == stk && hashQ (x.off / 256) % 8 == lane && reqFits x && (Tab.getD (c.stack stk).pcs (hashQ (x.off / 256) % 64) {}).queued < 32 && (Tab.getD l.backoff x.requester {}).next ≤ cycle) ∧
      cls = (l.used < 24 && cands.any reqClass) ∧
      pool = cands.filter (fun x => reqClass x == cls) ∧
      pool = []) ∧
  (∃ (s : State) (stk : Nat) (lane : Nat) (cycle : Nat) (drained : List (Nat × Nat)) (reqs : List StackReq) (cands : List StackReq) (pool : List StackReq) (l : Lane) (cls : Bool) (c : Dev) (g : _),
      c = s.dev.pcDrained stk drained ∧
      l = (if (Tab.getD (c.stack stk).lanes lane {}).window = cycle / 64 then Tab.getD (c.stack stk).lanes lane {} else { Tab.getD (c.stack stk).lanes lane {} with window := cycle / 64, used := 0 }) ∧
      cands = reqs.filter (fun x => x.requester < 43 && x.pen < 16 && stackOf x.pen x.off == stk && hashQ (x.off / 256) % 8 == lane && reqFits x && (Tab.getD (c.stack stk).pcs (hashQ (x.off / 256) % 64) {}).queued < 32 && (Tab.getD l.backoff x.requester {}).next ≤ cycle) ∧
      cls = (l.used < 24 && cands.any reqClass) ∧
      pool = cands.filter (fun x => reqClass x == cls) ∧
      pickRequest l (if cls then l.lastHigh else l.lastNormal) pool = some g) :=
  ⟨⟨at_ ready, 0, 0, 0, [], [], _, _, _, _, _, rfl, rfl, rfl, rfl, rfl, rfl⟩,
   ⟨at_ ready, 0, 0, 0, [], [{ requester := 42, die := 0, pen := 0, off := 0, kind := 1, data := List.replicate 32 7 }], _, _, _, _, _, { requester := 42, die := 0, pen := 0, off := 0, kind := 1, data := List.replicate 32 7 }, rfl, rfl, rfl, rfl, rfl, by decide +kernel⟩⟩

theorem witness_StacksRefreshScrubAndSpare :
  (∃ (s : State) (st : Nat) (q : Nat) (idle : Nat) (e : Dev),
      (s.dev.power.inReset = false ∧ st < 32 ∧ q < 64) ∧
      e = s.dev.modPc st q (fun x => { x with owed := x.owed - idle }) ∧
      (s.dev.pc st q).owed - idle < 8) ∧
  (∃ (s : State) (st : Nat) (q : Nat) (idle : Nat) (e : Dev),
      (s.dev.power.inReset = false ∧ st < 32 ∧ q < 64) ∧
      e = s.dev.modPc st q (fun x => { x with owed := x.owed - idle }) ∧
      8 ≤ (s.dev.pc st q).owed - idle) ∧
  (∃ (s : State) (pen : Nat) (cw : Nat) (pattern : Nat) (st : Nat),
      (s.dev.power.inReset = false ∧ pen < 16 ∧ cw < 2 ^ 32) ∧
      st = stackOf pen (cw * 64) ∧
      (pattern = 0 ∨ (s.dev.stack st).dirty (cw / 4) = true)) ∧
  (∃ (s : State) (pen : Nat) (cw : Nat) (pattern : Nat) (st : Nat) (ws : _),
      (s.dev.power.inReset = false ∧ pen < 16 ∧ cw < 2 ^ 32) ∧
      st = stackOf pen (cw * 64) ∧
      (s.dev.stack st).dirty (cw / 4) = false ∧
      pattern % 2 ^ 576 ≠ 0 ∧
      stackCode.decode (disturbed (s.dev.storedWord pen cw) pattern) = some ws) ∧
  (∃ (s : State) (pen : Nat) (cw : Nat) (pattern : Nat) (st : Nat),
      (s.dev.power.inReset = false ∧ pen < 16 ∧ cw < 2 ^ 32) ∧
      st = stackOf pen (cw * 64) ∧
      (s.dev.stack st).dirty (cw / 4) = false ∧
      pattern % 2 ^ 576 ≠ 0 ∧
      stackCode.decode (disturbed (s.dev.storedWord pen cw) pattern) = none) ∧
  (∃ (s : State) (st : Nat) (t : Int) (b : Nat) (d : Dev),
      s.dev.power.inReset = false ∧
      st < 32 ∧
      b = (if t ≤ 85 then 0 else if t ≤ 95 then 1 else 2) ∧
      d = s.dev.modStack st (fun x => { x with band := b })) ∧
  (∃ (s : State) (st : Nat) (q : Nat) (errs : List (Nat × Nat)) (mine : List (Nat × Nat)) (r : _),
      mine = errs.filter (fun e => e.1 < 2 ^ 32 && stackOf (st / 2) (e.1 * 64) == st && hashQ (e.1 / 4) % 64 == q) ∧
      s.dev.runningRec = some r ∧
      copiesChannel r st q = true ∧
      (s.dev.pc st q).sparing = true) ∧
  (∃ (s : State) (st : Nat) (q : Nat) (errs : List (Nat × Nat)) (mine : List (Nat × Nat)),
      mine = errs.filter (fun e => e.1 < 2 ^ 32 && stackOf (st / 2) (e.1 * 64) == st && hashQ (e.1 / 4) % 64 == q) ∧
      (s.dev.runningRec = none ∨ (s.dev.pc st q).sparing = false)) ∧
  (∃ (d : Dev) (e : Dev) (st : Nat) (q : Nat) (p : _),
      e = d.mapSpare st q ∧
      p ≠ q) :=
  ⟨⟨at_ { ready with stk := [(31, { pcs := [(63, { owed := 7 })] })] }, 31, 63, 0, _, by decide +kernel, rfl, by decide +kernel⟩,
   ⟨at_ { ready with stk := [(31, { pcs := [(63, { owed := 9 })] })] }, 31, 63, 1, _, by decide +kernel, rfl, by decide +kernel⟩,
   ⟨at_ ready, 15, 2 ^ 32 - 1, 0, _, by decide +kernel, rfl, by decide +kernel⟩,
   ⟨at_ ready, 15, 2 ^ 32 - 1, 1, _, List.replicate 36 0, by decide +kernel, rfl, by decide +kernel⟩,
   ⟨at_ ready, 0, 0, 1 + 2 ^ 16 + 2 ^ 32, _, by decide +kernel, rfl, by decide +kernel⟩,
   ⟨at_ ready, 31, 96, _, _, by decide +kernel, by decide +kernel, rfl, rfl⟩,
   ⟨at_ { ready with faults := { log := [{ seq := 1, code := 0x0011, die := grazeOf 0, core := 63, disp := 0, unit := 4, pasture := 0, beat := 0, info := 63 }], lastSeq := 1, running := some 1 }, stk := [(0, { pcs := [(63, { sparing := true })], spares := [(3, 1)] })] }, 0, 63, [], _, { seq := 1, code := 0x0011, die := grazeOf 0, core := 63, disp := 0, unit := 4, pasture := 0, beat := 0, info := 63 }, rfl, by decide +kernel⟩,
   ⟨at_ ready, 0, 63, [], _, rfl, by decide +kernel⟩,
   ⟨ready, _, 0, 63, 5, rfl, by decide +kernel⟩⟩

theorem witness_TheDroverMovesRestoresAndCopies :
  (∃ (s : State) (h : Nat) (r : Request),
      s.dev.req h = some r ∧
      r.st = .pausing ∧
      r.moving = true ∧
      r.closing = true) ∧
  (∃ (s : State) (h : Nat) (r : Request),
      s.dev.req h = some r ∧
      r.st = .pausing ∧
      r.moving = true ∧
      r.closing = false ∧
      s.dev.power.st ≠ .run ∧
      s.dev.power.st ≠ .starting) ∧
  (∃ (s : State) (h : Nat) (r : Request),
      s.dev.req h = some r ∧
      r.st = .pausing ∧
      r.moving = true ∧
      r.closing = false ∧
      s.dev.power.st = .run ∧
      r.nextPage = none) ∧
  (∃ (s : State) (h : Nat) (r : Request) (k : _) (i : _) (n : _),
      s.dev.req h = some r ∧
      r.st = .pausing ∧
      r.moving = true ∧
      r.closing = false ∧
      s.dev.power.st = .run ∧
      r.nextPage = some (k, i, n)) ∧
  (∃ (s : State) (h : Nat) (r : Request),
      s.dev.req h = some r ∧
      r.st = .resuming ∧
      s.dev.stopped = false ∧
      r.closing = true) ∧
  (∃ (s : State) (h : Nat) (r : Request) (t : _) (rest : _),
      s.dev.req h = some r ∧
      r.st = .resuming ∧
      s.dev.stopped = false ∧
      r.closing = false ∧
      r.tier = t :: rest) ∧
  (∃ (s : State) (p : Nat) (n : Nat) (h : Nat) (i : Image) (x : StackReply) (e : Dev) (port : _) (page : _),
      (s.dev.image p n = some i ∧ i.goldenDue = true ∧ i.ready = true ∧ s.dev.power.st = .run) ∧
      s.dev.agentRead tierDie i.pen i.off i.len = (x, e) ∧
      e.goldenHandle p n = some h ∧
      e.tierPlace (xcBytes 0 x.data).length = some (port, page)) ∧
  (∃ (s : State) (p : Nat) (n : Nat) (h : Nat) (i : Image) (x : StackReply) (e : Dev) (f : _),
      (s.dev.image p n = some i ∧ i.goldenDue = true ∧ i.ready = true ∧ s.dev.power.st = .run) ∧
      s.dev.agentRead tierDie i.pen i.off i.len = (x, e) ∧
      e.goldenHandle p n = some h ∧
      e.tierPlace (xcBytes 0 x.data).length = none ∧
      f = e.modImage p n (fun i => { i with goldenDue := false })) ∧
  (∃ (s : State) (port : Nat),
      port < 2 ∧
      ((∀ q ∈ s.dev.reqs, ∀ t ∈ q.2.tier, t.port ≠ port)) ∧
      ((∀ q ∈ s.dev.pastures, ∀ i ∈ q.2.images, i.2.golden.isSome → i.2.goldenPort ≠ port))) :=
  ⟨⟨at_ (asked { pausing with closing := true }), 1, { pausing with closing := true }, by decide +kernel⟩,
   ⟨at_ { asked pausing with power := { step := 7, st := .brace, portUp := true } }, 1, pausing, by decide +kernel⟩,
   ⟨at_ (asked { pausing with lists := [] }), 1, { pausing with lists := [] }, by decide +kernel⟩,
   ⟨at_ (asked pausing), 1, pausing, 0, 0, 0, by decide +kernel⟩,
   ⟨at_ (asked { pasture := 0, st := .resuming, closing := true }), 1, { pasture := 0, st := .resuming, closing := true }, by decide +kernel⟩,
   ⟨at_ (asked { pasture := 0, st := .resuming, tier := [⟨0, 0, 0, 0, [], 10, 0, 0⟩] }), 1, { pasture := 0, st := .resuming, tier := [⟨0, 0, 0, 0, [], 10, 0, 0⟩] }, ⟨0, 0, 0, 0, [], 10, 0, 0⟩, [], by decide +kernel⟩,
   ⟨at_ goldenDev, 0, 5, 1, { img with goldenDue := true }, _, _, 1, 0, by decide +kernel, Prod.mk.eta.symm, by decide +kernel, (Dev.tierPlace_one (by decide +kernel) (by decide +kernel) (by decide +kernel) (by show wholeTransfers (xcBytes 0 (goldenDev.agentRead tierDie 0 0 64).1.data).length ≤ goldenCap; rw [show (goldenDev.agentRead tierDie 0 0 64).1.data = List.replicate 64 0 from by decide +kernel]; exact Nat.le_refl _))⟩,
   ⟨at_ { held (.imageLoad 0 5 true) (mine { own with images := [(5, { img with goldenDue := true })] }) with tier := [{}, { up := true, cap := 0 }], reqs := [(9, { pasture := 0, tier := [⟨0, 0, 0, 1, [0#8], 10, 0, 0⟩] })] }, 0, 5, 1, { img with goldenDue := true }, _, _, _, by decide +kernel, Prod.mk.eta.symm, by decide +kernel, (Dev.tierPlace_none (by decide +kernel)), rfl⟩,
   ⟨at_ (mine { own with images := [(5, { img with golden := some [], goldenPort := 1 })] }), 0, by decide +kernel⟩⟩

theorem witness_MidwayFlitsAreCheckedRoutedAndReplayed :
  (∃ (s : State) (die : Nat) (q : Nat) (h : Nat) (data : Nat) (errs : Nat) (h' : Nat) (data' : Nat) (e : Dev),
      meshPort die q = true ∧
      h' = (h % 2 ^ 128) ^^^ (errs % 2 ^ 128) ∧
      data' = (data % 2 ^ 1024) ^^^ (errs / 2 ^ 128 % 2 ^ 1024) ∧
      e = (s.dev.modPort die q (fun x => { x with rxSeq := (x.rxSeq + 1) % 256, discarding := false, ackDue := true })).takeReturns die q h' ∧
      (mwCrcOk errs = false ∨ fhSeq h' ≠ (s.dev.port die q).rxSeq)) ∧
  (∃ (s : State) (die : Nat) (q : Nat) (h : Nat) (data : Nat) (errs : Nat) (h' : Nat) (data' : Nat) (e : Dev),
      meshPort die q = true ∧
      h' = (h % 2 ^ 128) ^^^ (errs % 2 ^ 128) ∧
      data' = (data % 2 ^ 1024) ^^^ (errs / 2 ^ 128 % 2 ^ 1024) ∧
      e = (s.dev.modPort die q (fun x => { x with rxSeq := (x.rxSeq + 1) % 256, discarding := false, ackDue := true })).takeReturns die q h' ∧
      mwCrcOk errs = true ∧
      fhSeq h' = (s.dev.port die q).rxSeq ∧
      fhKind h' = 0) ∧
  (∃ (s : State) (die : Nat) (q : Nat) (h : Nat) (data : Nat) (errs : Nat) (h' : Nat) (data' : Nat) (e : Dev),
      meshPort die q = true ∧
      h' = (h % 2 ^ 128) ^^^ (errs % 2 ^ 128) ∧
      data' = (data % 2 ^ 1024) ^^^ (errs / 2 ^ 128 % 2 ^ 1024) ∧
      e = (s.dev.modPort die q (fun x => { x with rxSeq := (x.rxSeq + 1) % 256, discarding := false, ackDue := true })).takeReturns die q h' ∧
      mwCrcOk errs = true ∧
      fhSeq h' = (s.dev.port die q).rxSeq ∧
      fhKind h' ≠ 0 ∧
      s.dev.mwRoom die q (fhVc h') 1 = true) ∧
  (∃ (s : State) (die : Nat) (q : Nat) (h : Nat) (data : Nat) (errs : Nat) (h' : Nat) (data' : Nat) (e : Dev),
      meshPort die q = true ∧
      h' = (h % 2 ^ 128) ^^^ (errs % 2 ^ 128) ∧
      data' = (data % 2 ^ 1024) ^^^ (errs / 2 ^ 128 % 2 ^ 1024) ∧
      e = (s.dev.modPort die q (fun x => { x with rxSeq := (x.rxSeq + 1) % 256, discarding := false, ackDue := true })).takeReturns die q h' ∧
      mwCrcOk errs = true ∧
      fhSeq h' = (s.dev.port die q).rxSeq ∧
      fhKind h' ≠ 0 ∧
      s.dev.mwRoom die q (fhVc h') 1 = false) ∧
  (∃ (s : State) (die : Nat) (h : Nat) (h' : Nat),
      h' = setBit h 51 false ∧
      die < 40 ∧
      die ≠ 19 ∧
      fhSrc h' = die ∧
      kindInClass h' = true ∧
      s.dev.mwRoom die 4 (fhVc h') 1 = true) ∧
  (∃ (s : State) (die : Nat) (h : Nat) (h' : Nat),
      h' = setBit h 51 false ∧
      die < 40 ∧
      die ≠ 19 ∧
      fhSrc h' = die ∧
      kindInClass h' = true ∧
      s.dev.mwRoom die 4 (fhVc h') 2 = true) ∧
  (∃ (die : Nat) (h : Nat) (h' : Nat),
      h' = setBit h 51 false ∧
      (die = 19 ∨ fhSrc h' ≠ die ∨ kindInClass h' = false)) ∧
  (∃ (die : Nat),
      isGate die = false) ∧
  (∃ (h : Nat) (errs : Nat) (h' : Nat),
      h' = (h % 2 ^ 128) ^^^ (errs % 2 ^ 128) ∧
      mwCrcOk errs = true ∧
      fhSrc h' = 19 ∧
      fhDst h' = 18 ∧
      fhClass h' = 0 ∧
      fhKind h' = 6) ∧
  (∃ (h : Nat) (errs : Nat) (h' : Nat),
      h' = (h % 2 ^ 128) ^^^ (errs % 2 ^ 128) ∧
      (mwCrcOk errs = false ∨ fhSrc h' ≠ 19 ∨ fhDst h' ≠ 18 ∨ fhClass h' ≠ 0 ∨ fhKind h' ≠ 6)) ∧
  (∃ (h : Nat),
      8 ≤ fhKind h) ∧
  (∃ (die : Nat) (h : Nat),
      fhKind h < 8 ∧
      ((die ≠ 18 ∨ fhDst h ≠ 19)) ∧
      ((outOf die h = 4 ∨ meshPort die (outOf die h) = true))) ∧
  (∃ (s : State) (die : Nat) (q : Nat) (slot : Nat) (rs : List Nat),
      (meshPort die q = true ∧ (s.dev.port die q).store ≠ [] ∧ (s.dev.port die q).training = false) ∧
      rs = (s.dev.port die q).replays.filter (fun t => t ≤ slot && slot - t < 2 ^ 20) ++ [slot]) ∧
  (∃ (s : State) (die : Nat) (q : Nat),
      meshPort die q = true ∧
      (s.dev.port die q).training = true) ∧
  (∃ (d : Dev) (die : Nat) (q : Nat) (o : List WireMargin) (i : List WireMargin) (x : Port),
      x = (d.portTrained die q o i).port die q) ∧
  (∃ (s : State) (die : Nat) (q : Nat) (dir : Nat) (info : Nat),
      die < 40 ∧
      die ≠ 19 ∧
      info = q % 4 + dir % 2 * 8 ∧
      s.dev.power.startingUp = false) ∧
  (∃ (s : State) (die : Nat) (q : Nat) (dir : Nat) (info : Nat),
      die < 40 ∧
      die ≠ 19 ∧
      info = q % 4 + dir % 2 * 8 ∧
      s.dev.power.startingUp = true) :=
  ⟨⟨at_ ready, 0, 1, 2 ^ 47 + 255 * 2 ^ 80, 0, 0, _, _, _, by decide +kernel, rfl, rfl, rfl, by decide +kernel⟩,
   ⟨at_ { ready with ports := [(1, { rxSeq := 255 })] }, 0, 1, 255 * 2 ^ 80, 0, 0, _, _, _, by decide +kernel, rfl, rfl, rfl, by decide +kernel⟩,
   ⟨at_ ready, 0, 1, 2 ^ 47 + 2 ^ 52, 2 ^ 1024 - 1, 0, _, _, _, by decide +kernel, rfl, rfl, rfl, by decide +kernel⟩,
   ⟨at_ { ready with ports := [(1, { buf := [(2, List.replicate 16 (0, 0))] })] }, 0, 1, 2 ^ 47 + 2 ^ 52, 0, 0, _, _, _, by decide +kernel, rfl, rfl, rfl, by decide +kernel⟩,
   ⟨at_ ready, 0, 2 ^ 47 + 2 ^ 52 + 39 * 2 ^ 66, _, rfl, by decide +kernel⟩,
   ⟨at_ ready, 39, 3 * 2 ^ 47 + 2 ^ 52 + 39 * 2 ^ 60, _, rfl, by decide +kernel⟩,
   ⟨0, 2 ^ 47 + 2 ^ 52 + 39 * 2 ^ 60, _, rfl, by decide +kernel⟩,
   ⟨0, by decide +kernel⟩,
   ⟨6 * 2 ^ 47 + 19 * 2 ^ 60 + 18 * 2 ^ 66, 0, _, rfl, by decide +kernel⟩,
   ⟨6 * 2 ^ 47 + 18 * 2 ^ 60 + 18 * 2 ^ 66, 0, _, rfl, by decide +kernel⟩,
   ⟨8 * 2 ^ 47, by decide +kernel⟩,
   ⟨0, 7 * 2 ^ 47 + 39 * 2 ^ 66, by decide +kernel⟩,
   ⟨at_ { ready with ports := [(1, { store := [(0, 0, 0)] })] }, 0, 1, 2 ^ 20, _, by decide +kernel, rfl⟩,
   ⟨at_ { ready with ports := [(1, { training := true })] }, 0, 1, by decide +kernel⟩,
   ⟨ready, 0, 1, [⟨639, 7, 10⟩], [⟨639, 8, 9⟩], _, rfl⟩,
   ⟨at_ ready, 39, 3, 1, _, by decide +kernel, by decide +kernel, rfl, by decide +kernel⟩,
   ⟨at_ (starting 5), 0, 1, 0, _, by decide +kernel, by decide +kernel, rfl, by decide +kernel⟩⟩

theorem witness_RoutesAreDimensionOrderedAndAvoidTheTally :
  (∃ (src : _) (dst : _),
      src < 40 ∧
      dst < 40 ∧
      src ≠ 19 ∧
      dst ≠ 19 ∧
      (¬ (dst % 8 = 3 ∧ ((src / 8 < 2 ∧ 2 < dst / 8) ∨ (2 < src / 8 ∧ dst / 8 < 2))))) :=
  ⟨39, 0, by decide +kernel⟩

theorem witness_StileFramesAreCheckedTakenAndRepeated :
  (∃ (s : State) (l : Nat) (f : List Byte) (e : Nat) (n : Nat) (v : Nat) (y : Link) (c : Dev),
      y = s.dev.link l ∧
      (y.st = .up ∧ y.bypass = false ∧ y.rxErrs = []) ∧
      e = y.rxSeq ∧
      n = (e + (rdLE f 257 1 + 256 - e % 256) % 256) % 2 ^ 24 ∧
      v = rdLE f 256 1 % 16 ∧
      c = s.dev.modLink l (fun x => x) ∧
      (f.length ≠ 262 ∨ rdLE f 258 4 ≠ flitCrc n (f.take 258))) ∧
  (∃ (s : State) (l : Nat) (f : List Byte) (e : Nat) (n : Nat) (v : Nat) (y : Link) (c : Dev),
      y = s.dev.link l ∧
      (y.st = .up ∧ y.bypass = false ∧ y.rxErrs = []) ∧
      e = y.rxSeq ∧
      n = (e + (rdLE f 257 1 + 256 - e % 256) % 256) % 2 ^ 24 ∧
      v = rdLE f 256 1 % 16 ∧
      c = s.dev.modLink l (fun x => x) ∧
      f.length = 262 ∧
      rdLE f 258 4 = flitCrc n (f.take 258) ∧
      6 ≤ rdLE f 256 1 / 16) ∧
  (∃ (s : State) (l : Nat) (f : List Byte) (e : Nat) (n : Nat) (v : Nat) (y : Link) (c : Dev),
      y = s.dev.link l ∧
      (y.st = .up ∧ y.bypass = false ∧ y.rxErrs = []) ∧
      e = y.rxSeq ∧
      n = (e + (rdLE f 257 1 + 256 - e % 256) % 256) % 2 ^ 24 ∧
      v = rdLE f 256 1 % 16 ∧
      c = s.dev.modLink l (fun x => x) ∧
      f.length = 262 ∧
      rdLE f 258 4 = flitCrc n (f.take 258) ∧
      (rdLE f 256 1 / 16 = 1 ∨ rdLE f 256 1 / 16 = 2) ∧
      n = e ∧
      y.replay = [] ∧
      y.nak = none) ∧
  (∃ (s : State) (l : Nat) (f : List Byte) (e : Nat) (n : Nat) (v : Nat) (y : Link) (c : Dev),
      y = s.dev.link l ∧
      (y.st = .up ∧ y.bypass = false ∧ y.rxErrs = []) ∧
      e = y.rxSeq ∧
      n = (e + (rdLE f 257 1 + 256 - e % 256) % 256) % 2 ^ 24 ∧
      v = rdLE f 256 1 % 16 ∧
      c = s.dev.modLink l (fun x => x) ∧
      f.length = 262 ∧
      rdLE f 258 4 = flitCrc n (f.take 258) ∧
      (rdLE f 256 1 / 16 = 1 ∨ rdLE f 256 1 / 16 = 2) ∧
      n = (e + 1) % 2 ^ 24 ∧
      e < 2 ^ 24 ∧
      y.replay = [] ∧
      y.nak = none) ∧
  (∃ (s : State) (l : Nat) (f : List Byte) (e : Nat) (n : Nat) (v : Nat) (y : Link) (c : Dev),
      y = s.dev.link l ∧
      (y.st = .up ∧ y.bypass = false ∧ y.rxErrs = []) ∧
      e = y.rxSeq ∧
      n = (e + (rdLE f 257 1 + 256 - e % 256) % 256) % 2 ^ 24 ∧
      v = rdLE f 256 1 % 16 ∧
      c = s.dev.modLink l (fun x => x) ∧
      f.length = 262 ∧
      rdLE f 258 4 = flitCrc n (f.take 258) ∧
      rdLE f 256 1 / 16 = 3 ∧
      n = e ∧
      bit (rdLE f 6 1) 0 = false) ∧
  (∃ (s : State) (l : Nat),
      (s.dev.link l).st ≠ .up) ∧
  (∃ (s : State) (l : Nat),
      (s.dev.link l).st = .up ∧
      (s.dev.link l).nak.isSome = true) ∧
  (∃ (s : State) (l : Nat),
      (s.dev.link l).st = .up ∧
      (s.dev.link l).nak = none) ∧
  (∃ (s : State) (l : Nat),
      (s.dev.link l).st = .up ∧
      (s.dev.link l).txPause = false) ∧
  (∃ (s : State) (l : Nat),
      (s.dev.link l).st = .up ∧
      (s.dev.link l).txPause = true) ∧
  (∃ (d : Dev) (l : Nat) (x : Link) (b : _),
      x = d.link l ∧
      x.st = .up ∧
      x.txPause = false ∧
      x.markerDue = some b) ∧
  (∃ (d : Dev) (l : Nat) (x : Link),
      x = d.link l ∧
      x.st = .up ∧
      x.txPause = false ∧
      x.markerDue = none ∧
      x.nakDue = true ∧
      x.nak.isSome = true) ∧
  (∃ (d : Dev) (l : Nat) (x : Link) (n : _) (rest : _) (f : _),
      x = d.link l ∧
      x.st = .up ∧
      x.txPause = false ∧
      x.markerDue = none ∧
      x.nakDue = false ∧
      x.again = n :: rest ∧
      x.store.find? (fun q => q.1 == n) = some (n, f)) ∧
  (∃ (d : Dev) (l : Nat) (x : Link),
      x = d.link l ∧
      x.st = .up ∧
      x.txPause = false ∧
      x.markerDue = none ∧
      x.nakDue = false ∧
      x.again = [] ∧
      ((x.ctlDue = true ∨ 1024 ≤ x.sinceCtl))) ∧
  (∃ (d : Dev) (l : Nat) (x : Link) (v : _),
      x = d.link l ∧
      x.st = .up ∧
      x.txPause = false ∧
      x.markerDue = none ∧
      x.nakDue = false ∧
      x.again = [] ∧
      x.ctlDue = false ∧
      x.sinceCtl < 1024 ∧
      x.store.length < 98304 ∧
      x.pick = some v) :=
  ⟨⟨at_ { ready with links := [(0, { st := .up })] }, 0, [], _, _, _, _, _, rfl, by decide +kernel, rfl, rfl, rfl, rfl, by decide +kernel⟩,
   ⟨at_ { ready with links := [(0, { st := .up })] }, 0, mkFlit 0 0 15 [], _, 0, _, _, _, rfl, by decide +kernel, rfl, by decide +kernel, rfl, rfl, (mkFlit_length _ _ _ _), (mkFlit_crc _ _ _ _), by decide +kernel⟩,
   ⟨at_ { ready with links := [(0, { st := .up, rxSeq := 2 ^ 24 - 1 })] }, 0, mkFlit (2 ^ 24 - 1) 15 1 [], _, 2 ^ 24 - 1, _, _, _, rfl, by decide +kernel, rfl, by decide +kernel, rfl, rfl, (mkFlit_length _ _ _ _), (mkFlit_crc _ _ _ _), by decide +kernel⟩,
   ⟨at_ { ready with links := [(0, { st := .up, rxSeq := 2 ^ 24 - 1 })] }, 0, mkFlit 0 0 2 [], _, 0, _, _, _, rfl, by decide +kernel, rfl, by decide +kernel, rfl, rfl, (mkFlit_length _ _ _ _), (mkFlit_crc _ _ _ _), by decide +kernel⟩,
   ⟨at_ { ready with links := [(5, { st := .up })] }, 5, mkFlit 0 0 3 [], _, 0, _, _, _, rfl, by decide +kernel, rfl, by decide +kernel, rfl, rfl, (mkFlit_length _ _ _ _), (mkFlit_crc _ _ _ _), by decide +kernel⟩,
   ⟨at_ ready, 0, by decide +kernel⟩,
   ⟨at_ { ready with links := [(0, { st := .up, nak := some true })] }, 0, by decide +kernel⟩,
   ⟨at_ { ready with links := [(0, { st := .up })] }, 0, by decide +kernel⟩,
   ⟨at_ { ready with links := [(0, { st := .up })] }, 0, by decide +kernel⟩,
   ⟨at_ { ready with links := [(0, { st := .up, txPause := true })] }, 0, by decide +kernel⟩,
   ⟨{ ready with links := [(0, { st := .up, markerDue := some [] })] }, 0, _, [], rfl, by decide +kernel⟩,
   ⟨{ ready with links := [(0, { st := .up, nakDue := true, nak := some false })] }, 0, _, rfl, by decide +kernel⟩,
   ⟨{ ready with links := [(0, { st := .up, again := [7, 8], store := [(7, [1])] })] }, 0, _, 7, [8], [1], rfl, by decide +kernel⟩,
   ⟨{ ready with links := [(0, { st := .up, sinceCtl := 1024 })] }, 0, _, rfl, by decide +kernel⟩,
   ⟨{ ready with links := [(0, { st := .up, sinceCtl := 1023, queue := [(15, [{ flits := [(1, [])] }])] })] }, 0, _, 15, rfl, by decide +kernel⟩⟩

theorem witness_StileLinksTrainNarrowAndGoDown :
  (∃ (s : State) (l : Nat) (t : LinkFacts) (x : Link) (txOut : Nat) (rxOut : Nat) (tw : Nat) (rw : Nat),
      x = s.dev.link l ∧
      x.st = .training ∧
      txOut = maskOf ((t.txBad ++ berBad t.txBer).filter (· < 66)) ∧
      rxOut = maskOf ((t.rxBad ++ berBad t.rxBer).filter (· < 66)) ∧
      tw = s.dev.widthOf l txOut t.txFar ∧
      rw = s.dev.widthOf l rxOut t.rxFar ∧
      0 < t.phase ∧
      t.phase < 8) ∧
  (∃ (s : State) (l : Nat) (t : LinkFacts) (x : Link) (txOut : Nat) (rxOut : Nat) (tw : Nat) (rw : Nat),
      x = s.dev.link l ∧
      x.st = .training ∧
      txOut = maskOf ((t.txBad ++ berBad t.txBer).filter (· < 66)) ∧
      rxOut = maskOf ((t.rxBad ++ berBad t.rxBer).filter (· < 66)) ∧
      tw = s.dev.widthOf l txOut t.txFar ∧
      rw = s.dev.widthOf l rxOut t.rxFar ∧
      t.phase = 0 ∧
      (tw = 0 ∨ rw = 0)) ∧
  (∃ (s : State) (l : Nat) (t : LinkFacts) (x : Link) (txOut : Nat) (rxOut : Nat) (tw : Nat) (rw : Nat),
      x = s.dev.link l ∧
      x.st = .training ∧
      txOut = maskOf ((t.txBad ++ berBad t.txBer).filter (· < 66)) ∧
      rxOut = maskOf ((t.rxBad ++ berBad t.rxBer).filter (· < 66)) ∧
      tw = s.dev.widthOf l txOut t.txFar ∧
      rw = s.dev.widthOf l rxOut t.rxFar ∧
      t.phase = 0 ∧
      tw ≠ 0 ∧
      rw ≠ 0) ∧
  (∃ (s : State) (l : Nat),
      (s.dev.link l).st ≠ .training) ∧
  (∃ (out : Nat) (w : Nat),
      w ≤ 66 - popCount out 66) ∧
  (∃ (s : State) (l : Nat) (lane : Nat),
      (s.dev.link l).st = .up ∧
      (s.dev.link l).rxFail = [] ∧
      lane ∉ (s.dev.link l).rxLanes) ∧
  (∃ (s : State) (l : Nat) (lane : Nat),
      (s.dev.link l).st = .up ∧
      (s.dev.link l).rxFail = [] ∧
      lane ∈ (s.dev.link l).rxLanes ∧
      popCount (s.dev.link l).rxOut 66 ≤ 49) ∧
  (∃ (s : State) (l : Nat) (lane : Nat),
      (s.dev.link l).st = .up ∧
      (s.dev.link l).rxFail = [] ∧
      lane ∈ (s.dev.link l).rxLanes ∧
      49 < popCount (s.dev.link l).rxOut 66) ∧
  (∃ (s : State) (l : Nat) (lane : Nat) (far : Nat) (w : Nat),
      ((s.dev.link l).st = .up ∧ (s.dev.link l).rxPause = true ∧ (s.dev.link l).rxFail = [lane] ∧ bit (s.dev.link l).rxOut lane = false) ∧
      w = s.dev.widthOf l ((s.dev.link l).rxOut ||| 2 ^ lane) far ∧
      w = 0) ∧
  (∃ (s : State) (l : Nat) (lane : Nat) (far : Nat) (w : Nat),
      ((s.dev.link l).st = .up ∧ (s.dev.link l).rxPause = true ∧ (s.dev.link l).rxFail = [lane] ∧ bit (s.dev.link l).rxOut lane = false) ∧
      w = s.dev.widthOf l ((s.dev.link l).rxOut ||| 2 ^ lane) far ∧
      w ≠ 0) ∧
  (∃ (s : State) (l : Nat) (far : Nat) (out : Nat) (w : Nat) (lanes : List Nat),
      (s.dev.link l).st = .up ∧
      (s.dev.link l).txPause = true ∧
      out = (s.dev.link l).txOut ||| maskOf ((lanes.filter (· < 66)).filter (fun n => !bit (s.dev.link l).txOut n)) ∧
      w = s.dev.widthOf l out far ∧
      w ≠ 0) ∧
  (∃ (s : State) (l : Nat),
      l < 6 ∧
      (s.dev.link l).st = .up) ∧
  (∃ (s : State) (l : Nat),
      (s.dev.link l).st ≠ .up) :=
  ⟨⟨at_ { ready with links := [(0, { st := .training })] }, 0, { phase := 7 }, _, _, _, _, _, rfl, by decide +kernel, rfl, rfl, rfl, rfl, by decide +kernel⟩,
   ⟨at_ { ready with links := [(0, { st := .training })] }, 0, { txFar := 15 }, _, _, _, _, _, rfl, by decide +kernel, rfl, rfl, rfl, rfl, by decide +kernel⟩,
   ⟨at_ { ready with links := [(0, { st := .training })] }, 0, { txFar := 16 }, _, _, _, _, _, rfl, by decide +kernel, rfl, rfl, rfl, rfl, by decide +kernel⟩,
   ⟨at_ ready, 0, by decide +kernel⟩,
   ⟨2 ^ 61 + 2 ^ 23, 64, by decide +kernel⟩,
   ⟨at_ { ready with links := [(0, { st := .up, rxLanes := [0] })] }, 0, 65, by decide +kernel⟩,
   ⟨at_ { ready with links := [(0, { st := .up, rxLanes := [65], rxOut := 2 ^ 49 - 1 })] }, 0, 65, by decide +kernel⟩,
   ⟨at_ { ready with links := [(0, { st := .up, rxLanes := [65], rxOut := 2 ^ 50 - 1 })] }, 0, 65, by decide +kernel⟩,
   ⟨at_ { ready with links := [(0, { st := .up, rxPause := true, rxFail := [50], rxOut := 2 ^ 50 - 1 })] }, 0, 50, 66, _, by decide +kernel, rfl, rfl⟩,
   ⟨at_ { ready with links := [(0, { st := .up, rxPause := true, rxFail := [50] })] }, 0, 50, 66, _, by decide +kernel, rfl, by decide +kernel⟩,
   ⟨at_ { ready with links := [(0, { st := .up, txPause := true })] }, 0, 16, _, _, [65, 0], by decide +kernel, by decide +kernel, rfl, rfl, by decide +kernel⟩,
   ⟨at_ { ready with links := [(5, { st := .up })] }, 5, by decide +kernel⟩,
   ⟨at_ ready, 0, by decide +kernel⟩⟩

theorem witness_RaceRanksAssignsDispatchesAndCombines :
  (∃ (s : State) (p : Nat) (l : Nat) (e : Nat) (cap : Nat) (w : Show) (x : RaceInst),
      s.dev.layerOf p l = some (w, e) ∧
      x = s.dev.race p l ∧
      (x.live = true ∧ x.routed = false ∧ x.abandoned = false ∧ lProd e ≤ x.heard.length ∧ lBias e = 0) ∧
      cap = min (capTerm e ((acceptRecords e x.recs).1.length)) (lCapMax e)) ∧
  (∃ (s : State) (p : Nat) (l : Nat) (e : Nat) (w : Show) (x : RaceInst),
      s.dev.layerOf p l = some (w, e) ∧
      x = s.dev.race p l ∧
      (x.live = false ∨ x.routed = true ∨ x.abandoned = true ∨ x.heard.length < lProd e)) ∧
  (∃ (s : State) (p : Nat) (l : Nat) (e : Nat) (w : Show) (x : RaceInst),
      s.dev.layerOf p l = some (w, e) ∧
      x = s.dev.race p l ∧
      x.routed = true ∧
      x.sent = false ∧
      x.abandoned = false ∧
      x.combined = false ∧
      ((∀ y ∈ x.waits, y.step ≠ x.step)) ∧
      ((lLaunch e = 0 ∨ x.launched = true))) ∧
  (∃ (s : State) (p : Nat) (l : Nat) (e : Nat) (w : Show) (x : RaceInst),
      s.dev.layerOf p l = some (w, e) ∧
      x = s.dev.race p l ∧
      (x.routed = false ∨ x.sent = true ∨ x.abandoned = true ∨ (lLaunch e ≠ 0 ∧ x.launched = false))) ∧
  (∃ (s : State) (p : Nat) (l : Nat) (e : Nat) (w : Show) (x : RaceInst),
      s.dev.layerOf p l = some (w, e) ∧
      x = s.dev.race p l ∧
      x.sent = true ∧
      x.combined = false ∧
      x.abandoned = false ∧
      x.waits = [] ∧
      ((∀ c ∈ x.choices, c.refused = true ∨ ∀ h < c.shards, h ∈ c.got))) ∧
  (∃ (s : State) (p : Nat) (l : Nat) (e : Nat) (w : Show) (x : RaceInst),
      s.dev.layerOf p l = some (w, e) ∧
      x = s.dev.race p l ∧
      (x.sent = false ∨ x.combined = true ∨ x.abandoned = true ∨ (∃ c ∈ x.choices, c.refused = false ∧ ∃ h < c.shards, h ∉ c.got))) ∧
  (∃ (s : State) (p : Nat) (l : Nat),
      s.dev.layerOf p l = none) :=
  ⟨⟨at_ (layered { live := true, heard := [0] }), 0, 0, layer1, _, routing, _, by decide +kernel, rfl, by decide +kernel, rfl⟩,
   ⟨at_ (layered { live := true }), 0, 0, layer1, routing, _, by decide +kernel, rfl, by decide +kernel⟩,
   ⟨at_ (layered { live := true, routed := true }), 0, 0, layer1, routing, _, by decide +kernel, rfl, by decide +kernel⟩,
   ⟨at_ (layered { live := true, routed := true, sent := true }), 0, 0, layer1, routing, _, by decide +kernel, rfl, by decide +kernel⟩,
   ⟨at_ (layered { live := true, routed := true, sent := true, choices := [⟨0, 1, 0, 0, false, 0, 1, [0], false⟩] }), 0, 0, layer1, routing, _, by decide +kernel, rfl, by decide +kernel⟩,
   ⟨at_ (layered { live := true, routed := true, sent := true, choices := [⟨0, 1, 0, 0, false, 0, 1, [], false⟩] }), 0, 0, layer1, routing, _, by decide +kernel, rfl, (Or.inr (Or.inr (Or.inr ⟨⟨0, 1, 0, 0, false, 0, 1, [], false⟩, .head _, rfl, 0, Nat.one_pos, List.not_mem_nil⟩)))⟩,
   ⟨at_ (mine own), 0, 0, by decide +kernel⟩⟩

theorem witness_RaceMessagesTakeEffectInTheirStep :
  (∃ (i : Instr) (s : State) (p : Nat) (l : Nat) (e : Nat) (w : Show) (m : RaceMsg) (x : RaceInst),
      raceMessage i = some (p, l, m) ∧
      s.dev.layerOf p l = some (w, e) ∧
      x = s.dev.race p l ∧
      x.live = true ∧
      x.waits = [] ∧
      m.step ≠ x.step ∧
      beatGe m.step x.step = true) ∧
  (∃ (i : Instr) (s : State) (p : Nat) (l : Nat) (e : Nat) (w : Show) (m : RaceMsg) (x : RaceInst),
      raceMessage i = some (p, l, m) ∧
      s.dev.layerOf p l = some (w, e) ∧
      x = s.dev.race p l ∧
      x.live = true ∧
      x.waits = [] ∧
      m.step ≠ x.step ∧
      beatGe m.step x.step = false) ∧
  (∃ (s : State) (p : Nat) (l : Nat) (e : Nat) (from_ : Nat) (i : Nat) (w : Show) (x : RaceInst) (n : Nat) (slot : Nat) (h : Nat) (c : Nat),
      s.dev.layerOf p l = some (w, e) ∧
      x = s.dev.race p l ∧
      (x.live = true ∧ x.waits = [] ∧ indexWhere (fun a => a == from_) (lSources w e) = some i ∧ n < 4096 ∧ slot < 4096 ∧ h < 4) ∧
      c = s.dev.expertEntry e n ∧
      bit c 19 = true ∧
      cPkg c = s.dev.route.addr ∧
      4 * n + h ∉ x.lost ∧
      4 * n + h ∉ x.done) ∧
  (∃ (s : State) (p : Nat) (l : Nat) (e : Nat) (from_ : Nat) (i : Nat) (w : Show) (x : RaceInst) (es : List (Nat × Nat × Nat × Nat × Nat)),
      s.dev.layerOf p l = some (w, e) ∧
      x = s.dev.race p l ∧
      x.live = true ∧
      x.waits = [] ∧
      indexWhere (fun a => a == from_) (lSources w e) = some i ∧
      Tab.get? x.mans i = none ∧
      ((∀ a ∈ es, cLive (s.dev.expertEntry e a.1) = true ∧ ∀ h < cShards (s.dev.expertEntry e a.1), bit s.dev.faults.offline (cPen (s.dev.expertEntry e a.1) + h) = false))) ∧
  (∃ (s : State) (p : Nat) (l : Nat) (e : Nat) (w : Show) (x : RaceInst) (t : Nat) (r : Nat) (h : Nat) (n : Nat),
      s.dev.layerOf p l = some (w, e) ∧
      x = s.dev.race p l ∧
      x.live = true ∧
      x.waits = [] ∧
      x.combined = false ∧
      x.abandoned = false ∧
      t < 2 ^ 16 ∧
      1 ≤ r ∧
      r ≤ 8 ∧
      h < 4 ∧
      n < 2 ^ 20) ∧
  (∃ (s : State) (p : Nat) (l : Nat) (e : Nat) (n : Nat) (h : Nat) (w : Show) (x : RaceInst),
      s.dev.layerOf p l = some (w, e) ∧
      x = s.dev.race p l ∧
      x.waits = [] ∧
      4 * n + h ∈ x.done ∧
      4 * n + h ∉ x.returned) ∧
  (∃ (s : State) (p : Nat) (l : Nat) (e : Nat) (n : Nat) (h : Nat) (w : Show) (x : RaceInst),
      s.dev.layerOf p l = some (w, e) ∧
      x = s.dev.race p l ∧
      x.waits = [] ∧
      (4 * n + h ∉ x.done ∨ 4 * n + h ∈ x.returned)) :=
  ⟨⟨.refuse 0 0 0 8 [], at_ (layered { live := true, step := 7 }), 0, 0, layer1, routing, _, _, rfl, by decide +kernel, rfl, by decide +kernel⟩,
   ⟨.refuse 0 0 0 6 [], at_ (layered { live := true, step := 7 }), 0, 0, layer1, routing, _, _, rfl, by decide +kernel, rfl, by decide +kernel⟩,
   ⟨at_ (layered { live := true }), 0, 0, layer1, 0, 0, routing, _, 0, 4095, 3, _, by decide +kernel, rfl, by decide +kernel, rfl, by decide +kernel⟩,
   ⟨at_ (layered { live := true }), 0, 0, layer1, 0, 0, routing, _, [(0, 0, 0, 0, 0)], by decide +kernel, rfl, by decide +kernel⟩,
   ⟨at_ (layered { live := true }), 0, 0, layer1, routing, _, 2 ^ 16 - 1, 8, 3, 2 ^ 20 - 1, by decide +kernel, rfl, by decide +kernel⟩,
   ⟨at_ (layered { live := true, done := [0] }), 0, 0, layer1, 0, 0, routing, _, by decide +kernel, rfl, by decide +kernel⟩,
   ⟨at_ (layered { live := true }), 0, 0, layer1, 0, 0, routing, _, by decide +kernel, rfl, by decide +kernel⟩⟩

theorem witness_FaultsAreRecordedAndRecoveredInOrder :
  (∃ (s : State) (die : Nat) (core : Nat) (q : Nat),
      q = nextSeq s.dev.faults.lastSeq ∧
      die < 40 ∧
      isCompute die = true ∧
      core < coresOf die ∧
      bit s.dev.faults.offline (penOfDie die) = false ∧
      s.dev.power.st ≠ .withdrawn ∧
      s.dev.faults.running = none ∧
      s.dev.faults.queue = [] ∧
      ((∀ r ∈ s.dev.faults.log, r.seq ≠ q))) ∧
  (∃ (s : State),
      (s.dev.faults.running.isSome = true ∨ s.dev.faults.queue = [])) ∧
  (∃ (s : State) (q : Nat) (rest : List Nat) (r : FaultRec),
      s.dev.faults.running = none ∧
      s.dev.faults.queue = q :: rest ∧
      s.dev.faultOf q = some r ∧
      r.unit < 6) ∧
  (∃ (s : State) (q : Nat) (k : Nat) (r : FaultRec),
      (s.dev.faults.running = some q ∧ s.dev.faultOf q = some r ∧ r.escto = 0 ∧ r.unit = 1) ∧
      k = coreKey r.die r.core ∧
      (s.dev.core k).run.isSome = true) ∧
  (∃ (s : State) (q : Nat) (k : Nat) (r : FaultRec),
      (s.dev.faults.running = some q ∧ s.dev.faultOf q = some r ∧ r.escto = 0 ∧ r.unit = 1) ∧
      k = coreKey r.die r.core ∧
      (s.dev.core k).run = none ∧
      Tab.getD s.dev.fence.spareArr k 0 = 1) ∧
  (∃ (s : State) (q : Nat) (k : Nat) (r : FaultRec),
      (s.dev.faults.running = some q ∧ s.dev.faultOf q = some r ∧ r.escto = 0 ∧ r.unit = 1) ∧
      k = coreKey r.die r.core ∧
      (s.dev.core k).run = none ∧
      Tab.getD s.dev.fence.spareArr k 0 ≠ 1) ∧
  (∃ (s : State) (q : Nat) (k : Nat) (i : Nat) (r : FaultRec),
      (s.dev.faults.running = some q ∧ s.dev.faultOf q = some r ∧ r.escto = 0 ∧ r.unit = 2) ∧
      k = coreKey r.die r.core ∧
      r.core < 64 ∧
      (s.dev.core k).run = none ∧
      s.dev.spareCore r.die = some i ∧
      s.dev.showOf (s.dev.pastureOfDie r.die) = none) ∧
  (∃ (s : State) (q : Nat) (r : FaultRec),
      s.dev.faults.running = some q ∧
      s.dev.faultOf q = some r ∧
      r.escto = 0 ∧
      r.unit = 4 ∧
      (Tab.getD (s.dev.stack (2 * penOfDie r.die + fld r.info 6 1)).pcs (fld r.info 0 6) {}).spared = true) ∧
  (∃ (s : State) (q : Nat) (r : FaultRec),
      s.dev.faults.running = some q ∧
      s.dev.faultOf q = some r ∧
      r.escto = 0 ∧
      r.unit = 4 ∧
      (Tab.getD (s.dev.stack (2 * penOfDie r.die + fld r.info 6 1)).pcs (fld r.info 0 6) {}).spared = false) :=
  ⟨⟨at_ ready, 39, 31, _, rfl, by decide +kernel⟩,
   ⟨at_ ready, by decide +kernel⟩,
   ⟨at_ { ready with faults := { log := [rec1 5], lastSeq := 1, queue := [1] } }, 1, [], rec1 5, by decide +kernel⟩,
   ⟨at_ (recovering 1 (running [] run {})), 1, _, rec1 1, by decide +kernel, rfl, by decide +kernel⟩,
   ⟨at_ { recovering 1 ready with fence := { spareArr := [(0, 1)] } }, 1, _, rec1 1, by decide +kernel, rfl, by decide +kernel⟩,
   ⟨at_ (recovering 1 ready), 1, _, rec1 1, by decide +kernel, rfl, by decide +kernel⟩,
   ⟨at_ { recovering 2 ready with fence := { spareCore := [(1, 1)] } }, 1, _, 1, rec1 2, by decide +kernel, rfl, by decide +kernel⟩,
   ⟨at_ { ready with faults := { log := [{ rec1 4 with info := 63 }], lastSeq := 1, running := some 1 }, stk := [(0, { pcs := [(63, { spared := true })] })] }, 1, { rec1 4 with info := 63 }, by decide +kernel⟩,
   ⟨at_ { ready with faults := { log := [{ rec1 4 with info := 63 }], lastSeq := 1, running := some 1 } }, 1, { rec1 4 with info := 63 }, by decide +kernel⟩⟩

theorem witness_TaintedImagesAreReseededInOrder :
  (∃ (s : State) (p : Nat) (n : Nat) (b : Nat) (i : Image) (data : List Byte) (bs : List Byte) (src : Nat),
      (s.dev.image p n = some i ∧ s.dev.reseedSource p n b = some src ∧ src < 2) ∧
      bs = (match src, i.golden with | 0, some g => slice g (4096 * b) 4096 | _, _ => data) ∧
      i.matches b bs = true) ∧
  (∃ (s : State) (p : Nat) (n : Nat) (b : Nat) (i : Image) (data : List Byte) (bs : List Byte) (src : Nat),
      (s.dev.image p n = some i ∧ s.dev.reseedSource p n b = some src ∧ src < 2) ∧
      bs = (match src, i.golden with | 0, some g => slice g (4096 * b) 4096 | _, _ => data) ∧
      i.matches b bs = false) ∧
  (∃ (s : State) (p : Nat) (n : Nat) (b : Nat),
      s.dev.reseedSource p n b = none) ∧
  (∃ (s : State) (p : Nat) (n : Nat) (b : Nat),
      n < 1024 ∧
      s.dev.reseedSource p n b = some 1) ∧
  (∃ (s : State) (p : Nat) (n : Nat) (b : Nat),
      n < 1024 ∧
      s.dev.reseedSource p n b = some 2) :=
  ⟨⟨at_ { mine { own with images := [(5, { img with crcs := [0x190A55AD], len := 32 })] } with faults := { reseeds := [(5, 0, 1)] } }, 0, 5, 0, { img with crcs := [0x190A55AD], len := 32 }, List.replicate 32 0#8, _, 1, by decide +kernel, rfl, by decide +kernel⟩,
   ⟨at_ { mine { own with images := [(5, { img with golden := some [] })] } with faults := { reseeds := [(5, 0, 0)] } }, 0, 5, 0, { img with golden := some [] }, [], _, 0, by decide +kernel, rfl, by decide +kernel⟩,
   ⟨at_ ready, 0, 5, 0, by decide +kernel⟩,
   ⟨at_ { ready with faults := { reseeds := [(1023, 2, 1)] } }, 0, 1023, 2, by decide +kernel⟩,
   ⟨at_ { ready with faults := { reseeds := [(1023, 2, 2)] } }, 0, 1023, 2, by decide +kernel⟩⟩

theorem witness_SelfTestsRecordRetestAndQualify :
  (∃ (s : State) (die : Nat) (core : Nat) (item : Nat) (index : Nat) (x : SliceFacts) (f : ItemFail) (k : Nat) (key : Nat) (e : CalEntry),
      (s.dev.power.st = .run ∧ item ≠ 0x10 ∧ inServiceItem die core item index = true ∧ bit s.dev.faults.offline (penOfDie die) = false) ∧
      k = coreKey die core ∧
      f = { die, core, item, index, addr := x.addr, bit := x.bit, sig := x.sig } ∧
      key = k * 65536 + (item % 256 * 256 + index % 256) ∧
      s.dev.sliceEntry die core item index = some e ∧
      s.dev.mayFire e = false) ∧
  (∃ (s : State) (die : Nat) (core : Nat) (item : Nat) (index : Nat) (x : SliceFacts) (f : ItemFail) (k : Nat) (key : Nat) (e : CalEntry),
      (s.dev.power.st = .run ∧ item ≠ 0x10 ∧ inServiceItem die core item index = true ∧ bit s.dev.faults.offline (penOfDie die) = false) ∧
      k = coreKey die core ∧
      f = { die, core, item, index, addr := x.addr, bit := x.bit, sig := x.sig } ∧
      key = k * 65536 + (item % 256 * 256 + index % 256) ∧
      s.dev.sliceEntry die core item index = some e ∧
      s.dev.mayFire e = true ∧
      s.dev.inRecovery die = true) ∧
  (∃ (s : State) (die : Nat) (core : Nat) (item : Nat) (index : Nat) (x : SliceFacts) (f : ItemFail) (k : Nat) (key : Nat) (e : CalEntry),
      (s.dev.power.st = .run ∧ item ≠ 0x10 ∧ inServiceItem die core item index = true ∧ bit s.dev.faults.offline (penOfDie die) = false) ∧
      k = coreKey die core ∧
      f = { die, core, item, index, addr := x.addr, bit := x.bit, sig := x.sig } ∧
      key = k * 65536 + (item % 256 * 256 + index % 256) ∧
      s.dev.sliceEntry die core item index = some e ∧
      s.dev.mayFire e = true ∧
      s.dev.inRecovery die = false ∧
      (s.dev.core k).run.isSome = true) ∧
  (∃ (s : State) (die : Nat) (core : Nat) (item : Nat) (index : Nat) (x : SliceFacts) (f : ItemFail) (k : Nat) (key : Nat) (e : CalEntry),
      (s.dev.power.st = .run ∧ item ≠ 0x10 ∧ inServiceItem die core item index = true ∧ bit s.dev.faults.offline (penOfDie die) = false) ∧
      k = coreKey die core ∧
      f = { die, core, item, index, addr := x.addr, bit := x.bit, sig := x.sig } ∧
      key = k * 65536 + (item % 256 * 256 + index % 256) ∧
      s.dev.sliceEntry die core item index = some e ∧
      s.dev.mayFire e = true ∧
      s.dev.inRecovery die = false ∧
      (s.dev.core k).run = none ∧
      x.cut = true ∧
      item ≠ 0x08) ∧
  (∃ (s : State) (die : Nat) (core : Nat) (item : Nat) (index : Nat) (x : SliceFacts) (f : ItemFail) (k : Nat) (key : Nat) (e : CalEntry),
      (s.dev.power.st = .run ∧ item ≠ 0x10 ∧ inServiceItem die core item index = true ∧ bit s.dev.faults.offline (penOfDie die) = false) ∧
      k = coreKey die core ∧
      f = { die, core, item, index, addr := x.addr, bit := x.bit, sig := x.sig } ∧
      key = k * 65536 + (item % 256 * 256 + index % 256) ∧
      s.dev.sliceEntry die core item index = some e ∧
      s.dev.mayFire e = true ∧
      s.dev.inRecovery die = false ∧
      (s.dev.core k).run = none ∧
      x.cut = false ∧
      item ≠ 0x03 ∧
      item ≠ 0x08 ∧
      x.fails = true ∧
      Tab.get? s.dev.fence.retests key = none) ∧
  (∃ (s : State) (die : Nat) (core : Nat) (item : Nat) (index : Nat) (x : SliceFacts) (f : ItemFail) (k : Nat) (key : Nat) (e : CalEntry),
      (s.dev.power.st = .run ∧ item ≠ 0x10 ∧ inServiceItem die core item index = true ∧ bit s.dev.faults.offline (penOfDie die) = false) ∧
      k = coreKey die core ∧
      f = { die, core, item, index, addr := x.addr, bit := x.bit, sig := x.sig } ∧
      key = k * 65536 + (item % 256 * 256 + index % 256) ∧
      s.dev.sliceEntry die core item index = some e ∧
      s.dev.mayFire e = true ∧
      s.dev.inRecovery die = false ∧
      (s.dev.core k).run = none ∧
      x.cut = false ∧
      item ≠ 0x03 ∧
      item ≠ 0x08 ∧
      x.fails = false ∧
      (Tab.get? s.dev.fence.retests key).isSome = true) ∧
  (∃ (s : State) (die : Nat) (core : Nat) (item : Nat) (index : Nat),
      item ≠ 0x10 ∧
      s.dev.sliceEntry die core item index = none ∧
      (s.dev.groupsOf (s.dev.pastureOfDie die)).isEmpty = false) ∧
  (∃ (s : State) (die : Nat) (i : Nat),
      (s.dev.power.st = .run ∨ s.dev.power.st = .brace) ∧
      i < sparesOf die ∧
      bit s.dev.faults.offline (penOfDie die) = false ∧
      Tab.getD s.dev.fence.spareCore (die * 4 + i) 0 ≠ 3) ∧
  (∃ (s : State) (avg : Nat) (g : Nat),
      g = s.dev.fence.group ∧
      s.dev.power.st = .starting ∧
      s.dev.power.step = 5 ∧
      g < 10 ∧
      2760 < avg + testIncrement (groupDies g)) ∧
  (∃ (s : State) (avg : Nat) (g : Nat),
      g = s.dev.fence.group ∧
      s.dev.power.st = .starting ∧
      s.dev.power.step = 5 ∧
      g < 10 ∧
      avg + testIncrement (groupDies g) ≤ 2760) :=
  ⟨⟨at_ { stepping ready ({ relEntry 4 (0) (256) with dies := [0] }) with cal := [{ relEntry 4 (1) (256) with dies := [0] }, { relEntry 4 (0) (256) with dies := [0] }] }, 0, 0, 1, 0, {}, _, _, _, { relEntry 4 (0) (256) with dies := [0] }, by decide +kernel, rfl, rfl, rfl, by decide +kernel⟩,
   ⟨at_ (stepping (recovering 1 ready) ({ relEntry 4 (0) (256) with dies := [0] })), 0, 0, 1, 0, {}, _, _, _, { relEntry 4 (0) (256) with dies := [0] }, by decide +kernel, rfl, rfl, rfl, by decide +kernel⟩,
   ⟨at_ (stepping (running [] run {}) ({ relEntry 4 (0) (256 + 23) with dies := [0] })), 0, 0, 1, 23, {}, _, _, _, { relEntry 4 (0) (256 + 23) with dies := [0] }, by decide +kernel, rfl, rfl, rfl, by decide +kernel⟩,
   ⟨at_ (stepping (ready) ({ relEntry 4 (0) (256) with dies := [0] })), 0, 0, 1, 0, { cut := true }, _, _, _, { relEntry 4 (0) (256) with dies := [0] }, by decide +kernel, rfl, rfl, rfl, by decide +kernel⟩,
   ⟨at_ (stepping (ready) ({ relEntry 4 (31) (0xC00) with dies := [39] })), 39, 31, 0x0C, 0, { fails := true }, _, _, _, { relEntry 4 (31) (0xC00) with dies := [39] }, by decide +kernel, rfl, rfl, rfl, by decide +kernel⟩,
   ⟨at_ (stepping ({ ready with fence := { retests := [(1 * 256, ⟨0, 0⟩)] } }) ({ relEntry 4 (0) (256) with dies := [0] })), 0, 0, 1, 0, {}, _, _, _, { relEntry 4 (0) (256) with dies := [0] }, by decide +kernel, rfl, rfl, rfl, by decide +kernel⟩,
   ⟨at_ { stepping (mine own) (entry 3 0 0) with cal := [] }, 0, 0, 1, 0, by decide +kernel⟩,
   ⟨at_ ready, 8, 3, by decide +kernel⟩,
   ⟨at_ { power := { step := 5, st := .starting } }, 2226, _, rfl, by decide +kernel⟩,
   ⟨at_ { power := { step := 5, st := .starting } }, 2225, _, rfl, by decide +kernel⟩⟩

theorem witness_SupplyHeatAndResetsMoveThePackage :
  (∃ (s : State),
      (s.dev.power.st = .starting ∨ s.dev.power.st = .run)) ∧
  (∃ (s : State),
      s.dev.power.st ≠ .starting ∧
      s.dev.power.st ≠ .run ∧
      s.dev.power.st ≠ .brace) ∧
  (∃ (s : State),
      s.dev.power.st = .brace ∧
      s.dev.power.dip = true ∧
      s.dev.power.haltDue = false) ∧
  (∃ (s : State),
      s.dev.power.st = .brace ∧
      s.dev.power.dip = true ∧
      s.dev.power.haltDue = true) ∧
  (∃ (s : State) (ns : Nat),
      s.dev.power.inReset = false ∧
      10000 ≤ ns) ∧
  (∃ (s : State) (ns : Nat),
      s.dev.power.inReset = false ∧
      1000 ≤ ns ∧
      ns < 10000) ∧
  (∃ (s : State) (ns : Nat),
      s.dev.power.inReset = false ∧
      ns < 1000) ∧
  (∃ (s : State),
      s.dev.power.inReset = false ∧
      s.dev.power.auxGood = true) ∧
  (∃ (s : State),
      s.dev.power.inReset = true ∧
      s.dev.power.auxGood = false) ∧
  (∃ (s : State),
      s.dev.power.inReset = true ∧
      s.dev.power.auxGood = true) ∧
  (∃ (s : State) (w : Nat),
      (s.dev.power.st = .run ∨ s.dev.power.st = .brace ∧ s.dev.power.braceFrom = .run) ∧
      s.dev.power.cap < 8 * w ∧
      6 < s.dev.power.freq) ∧
  (∃ (s : State) (w : Nat),
      (s.dev.power.st = .run ∨ s.dev.power.st = .brace ∧ s.dev.power.braceFrom = .run) ∧
      s.dev.power.cap < 8 * w ∧
      s.dev.power.freq = 6 ∧
      s.dev.power.overCount = 9 ∧
      s.dev.power.unmet = false) ∧
  (∃ (s : State) (w : Nat),
      (s.dev.power.st = .run ∨ s.dev.power.st = .brace ∧ s.dev.power.braceFrom = .run) ∧
      800 * w < 95 * s.dev.power.cap ∧
      s.dev.power.freq < s.dev.power.ceiling) ∧
  (∃ (s : State),
      s.dev.power.st ≠ .run ∧
      (s.dev.power.st ≠ .brace ∨ s.dev.power.braceFrom ≠ .run)) :=
  ⟨⟨at_ ready, by decide +kernel⟩,
   ⟨at_ { power := { st := .halted } }, by decide +kernel⟩,
   ⟨at_ { power := { st := .brace, dip := true } }, by decide +kernel⟩,
   ⟨at_ { power := { st := .brace, dip := true, haltDue := true } }, by decide +kernel⟩,
   ⟨at_ ready, 10000, by decide +kernel⟩,
   ⟨at_ ready, 9999, by decide +kernel⟩,
   ⟨at_ ready, 999, by decide +kernel⟩,
   ⟨at_ ready, by decide +kernel⟩,
   ⟨at_ { power := { inReset := true, auxGood := false } }, by decide +kernel⟩,
   ⟨at_ { power := { inReset := true } }, by decide +kernel⟩,
   ⟨at_ { ready with power := { ready.power with freq := 7 } }, 5301, by decide +kernel⟩,
   ⟨at_ { ready with power := { ready.power with freq := 6, overCount := 9 } }, 5301, by decide +kernel⟩,
   ⟨at_ { ready with power := { ready.power with freq := 6 } }, 1000, by decide +kernel⟩,
   ⟨at_ { power := { st := .brace } }, by decide +kernel⟩⟩

theorem witness_StartupGoesStepByStep :
  (∃ (s : State),
      (s.dev.power.inReset = true ∨ s.dev.power.code ≠ 0 ∨ s.dev.power.startingUp = false ∨ 6 < s.dev.power.step)) ∧
  (∃ (s : State),
      s.dev.power.inReset = false ∧
      s.dev.power.code = 0 ∧
      s.dev.power.st = .starting ∧
      s.dev.power.step = 1 ∧
      s.dev.power.refclk = false) ∧
  (∃ (s : State) (x : StartFacts),
      s.dev.power.inReset = false ∧
      s.dev.power.code = 0 ∧
      s.dev.power.st = .starting ∧
      s.dev.power.step = 1 ∧
      s.dev.power.refclk = true ∧
      x.rmBad = [] ∧
      s.dev.aux.strapBoot = true) ∧
  (∃ (s : State) (x : StartFacts),
      s.dev.power.inReset = false ∧
      s.dev.power.code = 0 ∧
      s.dev.power.st = .starting ∧
      s.dev.power.step = 1 ∧
      s.dev.power.refclk = true ∧
      x.rmBad = [] ∧
      s.dev.aux.strapBoot = false ∧
      ((∀ i ∈ x.flash, i = none))) ∧
  (∃ (s : State),
      s.dev.power.inReset = false ∧
      s.dev.power.code = 0 ∧
      s.dev.power.st = .starting ∧
      s.dev.power.step = 2) ∧
  (∃ (s : State) (x : StartFacts),
      s.dev.power.inReset = false ∧
      s.dev.power.code = 0 ∧
      s.dev.power.st = .starting ∧
      s.dev.power.step = 3 ∧
      x.stacksBad = []) ∧
  (∃ (s : State),
      s.dev.power.inReset = false ∧
      s.dev.power.code = 0 ∧
      s.dev.power.st = .starting ∧
      s.dev.power.step = 4) ∧
  (∃ (s : State),
      s.dev.power.inReset = false ∧
      s.dev.power.code = 0 ∧
      s.dev.power.st = .starting ∧
      s.dev.power.step = 5) ∧
  (∃ (s : State),
      s.dev.power.inReset = false ∧
      s.dev.power.code = 0 ∧
      s.dev.power.st = .starting ∧
      s.dev.power.step = 6 ∧
      s.dev.power.lostInStartup = false) :=
  ⟨⟨at_ ready, by decide +kernel⟩,
   ⟨at_ (starting 1), by decide +kernel⟩,
   ⟨at_ { power := { refclk := true }, aux := { strapBoot := true } }, {}, by decide +kernel⟩,
   ⟨at_ { power := { refclk := true } }, { flash := [none, none] }, by decide +kernel⟩,
   ⟨at_ (starting 2), by decide +kernel⟩,
   ⟨at_ (starting 3), {}, by decide +kernel⟩,
   ⟨at_ (starting 4), by decide +kernel⟩,
   ⟨at_ (starting 5), by decide +kernel⟩,
   ⟨at_ (starting 6), by decide +kernel⟩⟩

theorem witness_ManagementAndTestPortAnswer :
  (∃ (s : State) (b : Nat) (eid : _),
      s.dev.mctpOn b = true ∧
      8 ≤ eid ∧
      eid ≤ 254) ∧
  (∃ (s : State) (b : Nat) (eid : _),
      s.dev.mctpOn b = true ∧
      (eid < 8 ∨ 254 < eid)) ∧
  (∃ (s : State) (b : Nat) (off : _) (len : _),
      s.dev.mctpOn b = true ∧
      off + len ≤ s.dev.fuses.devCert.length) ∧
  (∃ (s : State) (b : Nat) (slot : _),
      s.dev.mctpOn b = true ∧
      slot ≠ 0) ∧
  (∃ (s : State) (b : Nat),
      s.dev.mctpOn b = false) ∧
  (∃ (s : State),
      s.dev.tally.up = true) ∧
  (∃ (s : State),
      s.dev.mctpOn 0 = true) ∧
  (∃ (s : State) (l : List (Nat × Int)),
      s.dev.power.mctpUp = true ∧
      s.dev.power.inReset = false ∧
      (l.map Prod.fst).Nodup) ∧
  (∃ (s : State) (p : TapPins) (op : Nat) (ok : Bool),
      s.dev.power.auxGood = true ∧
      ok = (p.resetLow && p.mainUp) ∧
      6 < op ∧
      op < 256) ∧
  (∃ (s : State) (p : TapPins) (ok : Bool),
      s.dev.power.auxGood = true ∧
      ok = (p.resetLow && p.mainUp) ∧
      p.mainUp = true) ∧
  (∃ (s : State) (p : TapPins) (ok : Bool),
      s.dev.power.auxGood = true ∧
      ok = (p.resetLow && p.mainUp) ∧
      ok = true) ∧
  (∃ (s : State) (p : TapPins) (ok : Bool),
      s.dev.power.auxGood = true ∧
      ok = (p.resetLow && p.mainUp) ∧
      ok = false) :=
  ⟨⟨at_ { power := { mctpUp := true } }, 0, 254, by decide +kernel⟩,
   ⟨at_ { power := { mctpUp := true, portUp := true } }, 1, 7, by decide +kernel⟩,
   ⟨at_ { power := { mctpUp := true }, fuses := { devCert := [1] } }, 0, 1, 0, by decide +kernel⟩,
   ⟨at_ { power := { mctpUp := true } }, 0, 1, by decide +kernel⟩,
   ⟨at_ { power := { mctpUp := true } }, 1, by decide +kernel⟩,
   ⟨State.reset, by decide +kernel⟩,
   ⟨at_ { power := { mctpUp := true } }, by decide +kernel⟩,
   ⟨at_ { power := { mctpUp := true } }, [(1, 20), (2, -5)], by decide +kernel⟩,
   ⟨State.reset, ⟨false, true⟩, 7, _, by decide +kernel, rfl, by decide +kernel⟩,
   ⟨State.reset, ⟨false, true⟩, _, by decide +kernel, rfl, by decide +kernel⟩,
   ⟨State.reset, ⟨true, true⟩, _, by decide +kernel, rfl, rfl⟩,
   ⟨State.reset, ⟨false, true⟩, _, by decide +kernel, rfl, rfl⟩⟩

theorem witness_MetrologyPortReadsAndSetsUnderTheSeal :
  (∃ (s : State) (n : Nat),
      s.dev.tally.up = true ∧
      s.dev.tally.failed = false ∧
      18 ≤ n) ∧
  (∃ (s : State) (n : Nat) (seq : Nat),
      s.dev.tally.up = true ∧
      s.dev.tally.failed = false ∧
      n < 18 ∧
      seq < 2 ^ 32) ∧
  (∃ (s : State) (a : Nat),
      s.dev.tally.up = true ∧
      s.dev.tally.failed = false ∧
      a ≤ 256) ∧
  (∃ (s : State) (a : Nat),
      s.dev.tally.up = true ∧
      s.dev.tally.failed = false ∧
      256 < a) ∧
  (∃ (t : Tally) (n : Nat),
      2 ≤ t.romId.length ∧
      n < 18 ∧
      t.clock < 2 ^ 64 ∧
      (t.domain n).ereg < 2 ^ 64) ∧
  (∃ (s : State) (p : Nat),
      s.dev.tally.up = true ∧
      s.dev.tally.failed = false ∧
      s.dev.tally.logFull = false ∧
      p ≠ 0x09 ∧
      s.dev.tally.sealOpen = false) ∧
  (∃ (s : State) (p : Nat) (v : Nat),
      s.dev.tally.up = true ∧
      s.dev.tally.failed = false ∧
      s.dev.tally.logFull = false ∧
      p ≠ 0x09 ∧
      s.dev.tally.sealOpen = true ∧
      ((p = 1 ∧ s.dev.fuses.variant ≠ 2 ∧ s.dev.tally.calRec < 15) ∨ (p = 2 ∧ v ∈ [60, 300, 900, 3600]) ∨ (3 ≤ p ∧ p ≤ 5 ∧ v ≤ 17) ∨ (6 ≤ p ∧ p ≤ 8 ∧ 1 ≤ v ∧ v ≤ 100000))) ∧
  (∃ (s : State) (p : Nat) (v : Nat),
      s.dev.tally.up = true ∧
      s.dev.tally.failed = false ∧
      s.dev.tally.logFull = false ∧
      p ≠ 0x09 ∧
      s.dev.tally.sealOpen = true ∧
      (p = 2 ∧ v ∉ [60, 300, 900, 3600] ∨ (3 ≤ p ∧ p ≤ 5 ∧ 17 < v) ∨ (6 ≤ p ∧ p ≤ 8 ∧ (v = 0 ∨ 100000 < v)) ∨ p = 0 ∨ 9 < p)) ∧
  (∃ (s : State) (p : Nat),
      s.dev.tally.up = true ∧
      s.dev.tally.failed = false ∧
      s.dev.tally.logFull = false ∧
      p ≠ 0x09 ∧
      s.dev.tally.sealOpen = true ∧
      p = 1 ∧
      ((s.dev.fuses.variant = 2 ∨ 15 ≤ s.dev.tally.calRec))) ∧
  (∃ (s : State),
      s.dev.tally.up = true ∧
      s.dev.tally.failed = false ∧
      s.dev.tally.logFull = true) ∧
  (∃ (s : State) (time : Nat),
      s.dev.tally.up = true ∧
      s.dev.tally.failed = false ∧
      s.dev.tally.logFull = false ∧
      time < 2 ^ 64 ∧
      (s.dev.tally.clockSet = false ∨ s.dev.tally.sealOpen = true)) ∧
  (∃ (s : State) (time : Nat),
      s.dev.tally.up = true ∧
      s.dev.tally.failed = false ∧
      s.dev.tally.logFull = false ∧
      time < 2 ^ 64 ∧
      s.dev.tally.clockSet = true ∧
      s.dev.tally.sealOpen = false ∧
      time ≤ s.dev.tally.clock + 2 ∧
      s.dev.tally.clock ≤ time + 2 ∧
      s.dev.tally.syncWait = 0) ∧
  (∃ (s : State) (time : Nat),
      s.dev.tally.up = true ∧
      s.dev.tally.failed = false ∧
      s.dev.tally.logFull = false ∧
      time < 2 ^ 64 ∧
      s.dev.tally.clockSet = true ∧
      s.dev.tally.sealOpen = false ∧
      (s.dev.tally.clock + 2 < time ∨ time + 2 < s.dev.tally.clock ∨ s.dev.tally.syncWait ≠ 0)) ∧
  (∃ (s : State) (n : Nat) (a : Nat) (time : Nat) (data : List Byte) (i : _),
      s.dev.tally.up = true ∧
      s.dev.tally.failed = false ∧
      i ∈ [Instr.readId true, .readLive n true, .readInterval n a true, .readAudit a true, .readEvent a true, .readCert n a true, .setParam n a data true, .setTime time true]) ∧
  (∃ (s : State) (n : Nat) (a : Nat) (time : Nat) (data : List Byte) (b : Bool) (i : _),
      (s.dev.tally.up = false ∨ s.dev.tally.failed = true) ∧
      i ∈ [Instr.readLive n b, .readInterval n a b, .readAudit a b, .readCert n a b, .setParam n a data b, .setTime time b]) :=
  ⟨⟨State.reset, 18, by decide +kernel⟩,
   ⟨State.reset, 17, 2 ^ 32 - 1, by decide +kernel⟩,
   ⟨State.reset, 256, by decide +kernel⟩,
   ⟨State.reset, 257, by decide +kernel⟩,
   ⟨{}, 17, by decide +kernel⟩,
   ⟨State.reset, 1, by decide +kernel⟩,
   ⟨metering { sealOpen := true }, 8, 100000, by decide +kernel⟩,
   ⟨metering { sealOpen := true }, 5, 18, by decide +kernel⟩,
   ⟨at_ { fuses := { variant := 2 }, tally := { sealOpen := true } }, 1, by decide +kernel⟩,
   ⟨metering { auditCount := 2 ^ 32 - 1 }, by decide +kernel⟩,
   ⟨State.reset, 2 ^ 64 - 1, by decide +kernel⟩,
   ⟨metering { clockSet := true, clock := 100 }, 102, by decide +kernel⟩,
   ⟨metering { clockSet := true, clock := 100 }, 103, by decide +kernel⟩,
   ⟨State.reset, 0, 0, 0, [], .setTime 0 true, by decide +kernel, by decide +kernel, (by simp)⟩,
   ⟨metering { failed := true }, 0, 0, 0, [], true, .setTime 0 true, by decide +kernel, (by simp)⟩⟩

theorem witness_TallyMeasuresRecordsAndSaves :
  (∃ (s : State) (x : Sample) (n : Nat) (a : Int),
      s.dev.tally.measures = true ∧
      x.amps.length = 18 ∧
      s.dev.tally.domains.length = 18 ∧
      n < 18 ∧
      x.amps[n]? = some a ∧
      (s.dev.tally.domain n).ereg + ((s.dev.tally.domain n).rest + registered n a x.mv) / energyUnit < 2 ^ 64 - 1) ∧
  (∃ (s : State) (x : Sample),
      (s.dev.tally.measures = false ∨ x.amps.length ≠ 18)) ∧
  (∃ (s : State),
      s.dev.tally.measures = true ∧
      s.dev.tally.clock % 60 = 0 ∧
      s.dev.tally.windowSecs ≠ 0) ∧
  (∃ (s : State),
      s.dev.tally.measures = true ∧
      s.dev.tally.intervalDue = true ∧
      s.dev.tally.domains.length = 18) ∧
  (∃ (s : State),
      (s.dev.tally.measures = false ∨ s.dev.tally.intervalDue = false)) ∧
  (∃ (s : State) (i : _),
      s.dev.tally.up = true ∧
      i ∈ [Instr.nvSave, .tallyAuxLowSave]) ∧
  (∃ (s : State),
      s.dev.tally.up = false ∧
      s.dev.power.auxGood = true ∧
      s.dev.tally.domains.length = 18) ∧
  (∃ (s : State) (o : Bool),
      s.dev.tally.up = true ∧
      s.dev.tally.sealOpen = o) ∧
  (∃ (s : State) (o : Bool),
      s.dev.tally.up = true ∧
      s.dev.tally.sealOpen ≠ o) ∧
  (∃ (s : State),
      s.dev.tally.measures = true ∧
      s.dev.power.inReset = false ∧
      s.dev.tally.liveN ≠ 0) ∧
  (∃ (s : State),
      s.dev.power.inReset = false ∧
      fld s.dev.mirror.status 0 3 ≠ 3) ∧
  (∃ (s : State),
      s.dev.tally.up = true ∧
      s.dev.tally.auxMissing = false ∧
      s.dev.power.inReset = false ∧
      2 ≤ s.dev.power.step) ∧
  (∃ (s : State),
      s.dev.tally.up = true ∧
      (s.dev.tally.auxMissing = true ∨ s.dev.power.inReset = true ∨ s.dev.power.step < 2)) ∧
  (∃ (s : State),
      s.dev.tally.up = true ∧
      s.dev.tally.auxCome = false) ∧
  (∃ (s : State),
      s.dev.tally.up = true ∧
      s.dev.tally.auxCome = true) ∧
  (∃ (s : State) (o : Nat) (x : PulseOut),
      s.dev.tally.measures = true ∧
      s.dev.tally.pulses[o]? = some x ∧
      x.wait = 0) ∧
  (∃ (s : State) (o : Nat) (x : PulseOut),
      s.dev.tally.measures = true ∧
      s.dev.tally.pulses[o]? = some x ∧
      x.wait ≠ 0) ∧
  (∃ (s : State) (code : Nat),
      s.dev.tally.up = true ∧
      code ≠ 0) :=
  ⟨⟨State.reset, { amps := List.replicate 18 5000, mv := 48000 }, 17, 5000, by decide +kernel⟩,
   ⟨metering { failed := true }, { amps := [], mv := 0 }, by decide +kernel⟩,
   ⟨metering { clock := 60, windowSecs := 60 }, by decide +kernel⟩,
   ⟨metering { clock := 900, intervalSecs := 900 }, by decide +kernel⟩,
   ⟨State.reset, by decide +kernel⟩,
   ⟨State.reset, .nvSave, by decide +kernel, (.head _)⟩,
   ⟨metering { up := false }, by decide +kernel⟩,
   ⟨State.reset, false, by decide +kernel⟩,
   ⟨State.reset, true, by decide +kernel⟩,
   ⟨metering { liveN := 1 }, by decide +kernel⟩,
   ⟨State.reset, by decide +kernel⟩,
   ⟨metering {}, by decide +kernel⟩,
   ⟨metering { auxMissing := true }, by decide +kernel⟩,
   ⟨State.reset, by decide +kernel⟩,
   ⟨metering { auxCome := true }, by decide +kernel⟩,
   ⟨State.reset, 2, ⟨0, 10000, 0, 0⟩, by decide +kernel⟩,
   ⟨metering { pulses := [⟨17, 1000, 0, 1⟩] }, 0, ⟨17, 1000, 0, 1⟩, by decide +kernel⟩,
   ⟨State.reset, 1, by decide +kernel⟩⟩

theorem witness_EveryStepKeepsTheMemoriesCanonical :
  (∃ (s : State) (t : State),
      s.dev.memoriesCanonical = true ∧
      step s = .next t) :=
  ⟨{ pending := [.beatTick0 []] }, _, by decide +kernel, rfl⟩


end Sys2Proof.Tests
end

section
/-! SUPPORT. What a write or read of BAR0 does: snapshots, events and vectors, the words that a write covers, command slots,
doorbells, and what no write changes. -/

namespace Sys2Proof.Machine

open Sys2Proof

/-! What the commands of BAR0 answer. -/

@[simp] theorem State.on_dev_self (s : State) : s.on s.dev = s := rfl

theorem exec_registerWrite (w : RegWrite) (s : State) : exec (.registerWrite w) s = .next (s.on (registerWrite s.dev w)) := rfl
theorem exec_rmEventClear (f clear same : Nat) (s : State) :
    exec (.rmEventClear f clear same) s = .next (s.on (rmEventClear s.dev f clear same)) := rfl
theorem exec_msixUnmask (f v : Nat) (on : Bool) (s : State) : exec (.msixUnmask f v on) s = .next (s.on (msixUnmask s.dev f v on)) := rfl
theorem exec_beatNowRead (f tick : Nat) (s : State) : exec (.beatNowRead f tick) s = .next (s.on (beatNowRead s.dev f tick)) := rfl
theorem exec_tlMCtlWrite (f v : Nat) (s : State) : exec (.tlMCtlWrite f v) s = .next (s.on (tlMCtlWrite s.dev f v)) := rfl
theorem exec_snap (f : Nat) (a : GroupAddr) (s : State) : exec (.snap f a) s = .next (s.on (snap s.dev f a)) := rfl
theorem exec_snapclr (f : Nat) (a : GroupAddr) (wraps : Nat) (s : State) :
    exec (.snapclr f a wraps) s = .next (s.on (snapclr s.dev f a wraps)) := rfl

/-! Snapshots (R438, R501, R505). -/

theorem snap_seen {d : Dev} {f : Nat} {a : GroupAddr} (hd : d.decoded f (groupOff f a) = true) (hs : d.seesGroup f a = true) :
    snap d f a = d.snapGroup f a (perfSnap d.beat.now) := by
  simp [snap, hd, hs]

theorem snap_unseen {d : Dev} {f : Nat} {a : GroupAddr} (hs : d.seesGroup f a = false) : snap d f a = d := by
  simp [snap, hs]

theorem snapclr_seen {d : Dev} {f : Nat} {a : GroupAddr} (wraps : Nat) (hd : d.decoded f (groupOff f a) = true)
    (hs : d.seesGroup f a = true) : snapclr d f a wraps = d.snapGroup f a (perfSnapClr d.beat.now (wraps % 2 ^ 8)) := by
  simp [snapclr, hd, hs]

theorem snapclr_unseen {d : Dev} {f : Nat} {a : GroupAddr} (wraps : Nat) (hs : d.seesGroup f a = false) : snapclr d f a wraps = d := by
  simp [snapclr, hs]

/-! Bits of a number, and of one under a mask (R6, R11). -/

theorem bit_eq_testBit (v i : Nat) : bit v i = v.testBit i := by
  rw [Nat.testBit_eq_decide_div_mod_eq, bit]; rfl

/-- A mask that lets every bit through gives the value's bits that the register has. -/
theorem merge_full (old rw : Nat) {v : Nat} (hv : v < 2 ^ 64) : merge old v (2 ^ 64 - 1) rw = v &&& rw := by
  rw [merge, Nat.sub_self, Nat.and_zero, Nat.zero_or, Nat.and_two_pow_sub_one_of_lt_two_pow hv]

theorem and_bits_63_12 {v : Nat} (hv : v < 2 ^ 64) : v &&& (2 ^ 64 - 2 ^ 12) = v / 2 ^ 12 * 2 ^ 12 := by
  have hm : 2 ^ 64 - 2 ^ 12 = (2 ^ 52 - 1) * 2 ^ 12 := rfl
  apply Nat.eq_of_testBit_eq
  intro i
  rw [hm, Nat.testBit_and, Nat.testBit_mul_two_pow, Nat.testBit_mul_two_pow, Nat.testBit_two_pow_sub_one, Nat.testBit_div_two_pow]
  by_cases hi : 12 ≤ i
  · by_cases h64 : i < 64
    · have : i - 12 < 52 := by omega
      simp [hi, this]
    · have : v.testBit i = false := Nat.testBit_lt_two_pow (hv.trans_le (Nat.pow_le_pow_right (by decide) (by omega)))
      simp [hi, this]
  · simp [hi]

/-! Events, vectors and the status registers (R10, R342, R412, R496). -/

/-- A W1C bit that an event sets in the same cycle stays set (R10). -/
theorem Func.bit_clearEvents (x : Func) (clear same : Nat) {i : Nat} (hi : i < 7) :
    bit (x.clearEvents clear same).event i = (bit same i || (bit x.event i && !bit clear i)) := by
  have hc : clear % 2 ^ 7 < 2 ^ 7 := Nat.mod_lt _ (by decide)
  have hm : 127 - clear % 128 = 2 ^ 7 - (clear % 2 ^ 7 + 1) := by omega
  have hs : same % 128 = same % 2 ^ 7 := rfl
  simp only [bit_eq_testBit, Func.clearEvents]
  rw [hm, hs, Nat.testBit_or, Nat.testBit_and, Nat.testBit_two_pow_sub_succ hc, Nat.testBit_mod_two_pow, Nat.testBit_mod_two_pow]
  simp [hi, Bool.or_comm]

theorem Dev.unmask_sends {d : Dev} {f v : Nat} {e : Vector} (he : (d.func f).vecs[v]? = some e) (hp : e.pend = true)
    (hon : (d.func f).msixOn = true) (hr : (d.func f).flr = false) :
    d.unmask f v = (d.modFunc f (fun x =>
      { x with vecs := modAt (fun y => { y with mask := false, pend := false }) x.vecs v })).emit (.msix f v) := by
  simp [Dev.unmask, he, hp, hon, hr]

theorem Dev.unmask_without_pending {d : Dev} {f v : Nat} {e : Vector} (he : (d.func f).vecs[v]? = some e) (hp : e.pend = false) :
    d.unmask f v = d.modFunc f (fun x =>
      { x with vecs := modAt (fun y => { y with mask := false, pend := y.pend }) x.vecs v }) := by
  simp [Dev.unmask, he, hp]

theorem mirrorSet_up {d : Dev} {ms : Nat} (hu : d.tally.up = true) (hm : ms ∈ [1, 10, 100, 1000]) :
    mirrorSet d ms = { d with tally := { d.tally with period := ms } } := by
  have hc : [1, 10, 100, 1000].contains ms = true := List.contains_iff_mem.2 hm
  rw [mirrorSet, if_neg (by simp [hu]), if_pos hc]
  rfl

theorem ratePeriod_eq_getD {r : Nat} (hr : r < 4) : ratePeriod r = [1, 10, 100, 1000].getD r 0 := by
  interval_cases r <;> rfl

theorem ratePeriod_mem (r : Nat) : ratePeriod r ∈ [1, 10, 100, 1000] := by
  unfold ratePeriod
  split_ifs <;> simp

theorem Dev.writeTlCtl_up {d : Dev} (v : Nat) (hu : d.tally.up = true) :
    d.writeTlCtl v = { d with
      mirror := { d.mirror with irq := bit v 2, rate := v % 4 }
      tally := { d.tally with period := ratePeriod (v % 4) } } :=
  mirrorSet_up hu (ratePeriod_mem _)

/-! The words that a write covers (R492). -/

/-- The write covers the aligned 32-bit word at `a`, every byte of it enabled (R492). -/
def coversWord (w : RegWrite) (a : Nat) : Bool :=
  w.off ≤ a && a + 4 ≤ w.off + w.size && (List.range 4).all (fun i => bit w.be (a - w.off + i))

theorem writeMask_eq (w : RegWrite) (base : Nat) :
    writeMask w base = (if coversWord w base then 2 ^ 32 - 1 else 0) + (if coversWord w (base + 4) then (2 ^ 32 - 1) * 2 ^ 32 else 0) := rfl

theorem coversWord_iff (w : RegWrite) (a : Nat) :
    coversWord w a = true ↔ w.off ≤ a ∧ a + 4 ≤ w.off + w.size ∧ ∀ i < 4, bit w.be (a - w.off + i) = true := by
  simp [coversWord, and_assoc]

theorem coversWord_below {w : RegWrite} {a : Nat} (h : a < w.off) : coversWord w a = false := by
  simp [coversWord, Nat.not_le.2 h]

theorem coversWord_past {w : RegWrite} {a : Nat} (h : w.off + w.size < a + 4) : coversWord w a = false := by
  simp [coversWord, Nat.not_le.2 h]

theorem writeMask_past {w : RegWrite} {base : Nat} (h : w.off + w.size < base + 4) : writeMask w base = 0 := by
  rw [writeMask_eq, coversWord_past h, coversWord_past (by omega)]; rfl

/-- Whether the low half of a register is written turns on the word at its base alone. -/
theorem writeMask_low (w : RegWrite) (base : Nat) : (writeMask w base % 2 ^ 32 != 0) = coversWord w base := by
  rw [writeMask_eq]
  cases coversWord w base <;> cases coversWord w (base + 4) <;> rfl

/-! Which registers a write reaches (R492). -/

theorem registerWrite_undecoded {d : Dev} {w : RegWrite} (h : d.decoded w.func w.off = false) : registerWrite d w = d := by
  simp [registerWrite, h]

/-- A write within the mailboxes: the slot takes its bytes, then the doorbells ring. -/
theorem registerWrite_mailboxes {d : Dev} {w : RegWrite} (hd : d.decoded w.func w.off = true) (hs : 0 < w.size) (hlo : 0x6000 ≤ w.off)
    (hhi : w.off < 0x8000) : registerWrite d w = (writeDoorbells w).foldl (fun d m => d.ring w.func m) (d.writeSlot w) := by
  simp [registerWrite, hd, hlo, hhi, Nat.ne_of_gt hs]

/-- A write outside the mailboxes that stays within one 64-bit register reaches that register alone. -/
theorem registerWrite_within {d : Dev} {w : RegWrite} (hd : d.decoded w.func w.off = true) (hs : 0 < w.size)
    (hin : w.off % 8 + w.size ≤ 8) (ho : w.off < 0x6000 ∨ 0x8000 ≤ w.off) {base : Nat} (hb : base = w.off / 8 * 8) :
    registerWrite d w = if writeMask w base = 0 then d else d.writeReg w.func base (writeValue w base) (writeMask w base) w.events := by
  have hout : ¬ (0x6000 ≤ w.off ∧ w.off < 0x8000) := by omega
  have hpast (i : Nat) : writeMask w (w.off / 8 * 8 + 8 * (i + 1)) = 0 := writeMask_past (by omega)
  rw [registerWrite, if_neg (by simp [hd, Nat.ne_of_gt hs]), if_neg (by simpa using hout)]
  simp only [List.range_succ_eq_map (n := w.size / 8 + 1), List.foldl_cons, List.foldl_map, Nat.succ_eq_add_one, hpast, if_true,
    List.foldl_fixed, Nat.mul_zero, Nat.add_zero, hb]

/-! The masks and values of the accesses that the rules name: whole registers, their halves, and less (R492). -/

section
variable (f off v be e : Nat)

theorem writeMask_whole : writeMask { func := f, off, size := 8, value := v, be := 255, events := e } off = 2 ^ 64 - 1 := by
  have hen : ∀ i < 8, bit 255 i = true := by decide
  rw [writeMask_eq, (coversWord_iff _ _).2 ⟨Nat.le_refl _, by simp, fun i hi => hen _ (by simp; omega)⟩,
    (coversWord_iff _ _).2 ⟨Nat.le_add_right _ _, by simp, fun i hi => hen _ (by simp; omega)⟩]
  rfl

variable {f off v be e}

theorem writeValue_whole (hv : v < 2 ^ 64) : writeValue { func := f, off, size := 8, value := v, be := 255, events := e } off = v := by
  simp only [writeValue, Nat.le_refl, if_true, Nat.sub_self, Nat.mul_zero, Nat.pow_zero, Nat.div_one, Nat.mod_eq_of_lt hv]

/-- An access of one word covers no other word, and that one only with every byte enabled. -/
theorem coversWord_single {a : Nat} : coversWord { func := f, off, size := 4, value := v, be, events := e } a = true ↔
    a = off ∧ ∀ i < 4, bit be i = true := by
  rw [coversWord_iff]
  constructor
  · rintro ⟨hlo, hhi, hen⟩
    have ha : a = off := Nat.le_antisymm (Nat.le_of_add_le_add_right hhi) hlo
    subst ha
    exact ⟨rfl, by simpa using hen⟩
  · rintro ⟨rfl, hen⟩
    exact ⟨Nat.le_refl _, Nat.le_refl _, by simpa using hen⟩

theorem coversWord_single_enabled {a : Nat} : coversWord { func := f, off, size := 4, value := v, be := 15, events := e } a =
    decide (a = off) := by
  have hen : ∀ i < 4, bit 15 i = true := by decide
  rw [Bool.eq_iff_iff, coversWord_single, decide_eq_true_iff]
  exact and_iff_left hen

theorem coversWord_single_partial {a : Nat} (hbe : be < 15) :
    coversWord { func := f, off, size := 4, value := v, be, events := e } a = false := by
  rw [Bool.eq_false_iff, Ne, coversWord_single]
  rintro ⟨-, hen⟩
  have h0 := hen 0 (by decide)
  have h1 := hen 1 (by decide)
  have h2 := hen 2 (by decide)
  have h3 := hen 3 (by decide)
  simp only [bit, beq_iff_eq] at h0 h1 h2 h3
  omega

theorem writeMask_high (h4 : 4 ≤ off) :
    writeMask { func := f, off, size := 4, value := v, be := 15, events := e } (off - 4) = (2 ^ 32 - 1) * 2 ^ 32 := by
  rw [writeMask_eq, coversWord_single_enabled, coversWord_single_enabled, Nat.sub_add_cancel h4, decide_eq_false (by omega)]
  simp

theorem writeValue_high (h4 : 4 ≤ off) (hv : v < 2 ^ 32) :
    writeValue { func := f, off, size := 4, value := v, be := 15, events := e } (off - 4) = v * 2 ^ 32 := by
  have hsub : 8 * (off - (off - 4)) = 32 := by omega
  simp only [writeValue]
  rw [if_neg (by omega), hsub, Nat.mod_eq_of_lt (by omega)]

theorem writeMask_partial {base : Nat} (hbe : be < 15) :
    writeMask { func := f, off, size := 4, value := v, be, events := e } base = 0 := by
  rw [writeMask_eq, coversWord_single_partial hbe, coversWord_single_partial hbe]; rfl

end

/-! What a whole write does to the registers with fields of their own (R367, R494, R497, R498). -/

section
variable (d : Dev) (f v mask e : Nat)

theorem Dev.writeReg_below {base : Nat} (h : base < 0x2000) : d.writeReg f base v mask e = d := by
  have hne (k : Nat) (hk : 0x2000 ≤ k) : base ≠ k := by omega
  have hge (k : Nat) (hk : 0x2000 ≤ k) : ¬ k ≤ base := by omega
  simp [Dev.writeReg, hne, hge]

theorem Dev.writeReg_ledgerBase : d.writeReg f 0x2400 v mask e =
    d.modFunc f (fun x => if x.ledOn then x else { x with ledBase := merge x.ledBase v mask (2 ^ 64 - 2 ^ 12) }) := rfl

theorem Dev.writeReg_ledgerSize : d.writeReg f 0x2408 v mask e =
    d.modFunc f (fun x => if x.ledOn then x else { x with ledSize := merge x.ledSize v mask (2 ^ 17 - 1) }) := rfl

theorem Dev.writeReg_winDie (h : mask % 2 ^ 32 ≠ 0) :
    d.writeReg f 0x2800 v mask e = d.modFunc f (fun x => { x with winDie := v % 64 }) :=
  if_pos (bne_iff_ne.2 h)

end

/-! The command slots (R358). -/

theorem mailboxes_le (f : Nat) : mailboxes f ≤ 16 := by
  unfold mailboxes
  split_ifs <;> decide

@[simp] theorem Dev.mailbox_modMailbox_same (d : Dev) (f m : Nat) (g : Mailbox → Mailbox) :
    (d.modMailbox f m g).mailbox f m = g (d.mailbox f m) := by
  rw [Dev.mailbox, Dev.modMailbox, Dev.func_modFunc_same, Tab.getD_put_same]
  rfl

/-- Byte `i` of a write goes into its slot, where it is enabled and lies in one (R358). -/
def Dev.writeSlotByte (w : RegWrite) (d : Dev) (i : Nat) : Dev :=
  let a := w.off + i - 0x6000
  if bit w.be i && a % 512 < 256 && a / 512 < mailboxes w.func then
    d.modMailbox w.func (a / 512) (fun b => { b with slot := b.slot.set (a % 512) (BitVec.ofNat 8 (w.value / 2 ^ (8 * i))) })
  else d

theorem Dev.writeSlot_eq (d : Dev) (w : RegWrite) : d.writeSlot w = (List.range w.size).foldl (Dev.writeSlotByte w) d := rfl

theorem Dev.writeSlotByte_inside {w : RegWrite} {m a i : Nat} (d : Dev) (ho : w.off = 0x6000 + 512 * m + a) (hm : m < mailboxes w.func)
    (ha : a + i < 256) (hb : bit w.be i = true) :
    d.writeSlotByte w i = d.modMailbox w.func m (fun b =>
      { b with slot := b.slot.set (a + i) (BitVec.ofNat 8 (w.value / 2 ^ (8 * i))) }) := by
  have hmod : (w.off + i - 0x6000) % 512 = a + i := by omega
  have hdiv : (w.off + i - 0x6000) / 512 = m := by omega
  simp [Dev.writeSlotByte, hmod, hdiv, hb, ha, hm]

/-- A write of one byte within a slot. -/
theorem Dev.writeSlot_byte (d : Dev) {f m a v : Nat} (hm : m < mailboxes f) (ha : a < 256) :
    d.writeSlot { func := f, off := 0x6000 + 512 * m + a, size := 1, value := v, be := 1 } =
      d.modMailbox f m (fun b => { b with slot := b.slot.set a (BitVec.ofNat 8 v) }) := by
  have hb : bit 1 0 = true := by decide
  have hv : v / 2 ^ (8 * 0) = v := Nat.div_one v
  rw [Dev.writeSlot_eq, List.range_one, List.foldl_cons, List.foldl_nil, Dev.writeSlotByte_inside d (m := m) (a := a) rfl hm ha hb, hv,
    Nat.add_zero]

theorem Dev.writeSlot_outside {w : RegWrite} (d : Dev) (h : ∀ i < w.size, 256 ≤ (w.off + i - 0x6000) % 512) : d.writeSlot w = d := by
  rw [Dev.writeSlot_eq]
  refine List.foldlRecOn (motive := (· = d)) _ _ rfl (fun b hb i hi => ?_)
  have := h i (List.mem_range.1 hi)
  rw [hb, Dev.writeSlotByte, if_neg (by simp [this])]

/-- The first `n` bytes of a write that stays within a slot stand in it, and its other bytes are as they were. -/
theorem Dev.slot_writeSlotBytes {w : RegWrite} {m a : Nat} (d : Dev) (ho : w.off = 0x6000 + 512 * m + a) (hm : m < mailboxes w.func)
    (hl : (d.mailbox w.func m).slot.length = 256) (hen : ∀ i < w.size, bit w.be i = true) (ha : a + w.size ≤ 256) {n : Nat}
    (hn : n ≤ w.size) : ∀ j < 256, ((((List.range n).foldl (Dev.writeSlotByte w) d).mailbox w.func m).slot)[j]? =
      if a ≤ j ∧ j < a + n then some (BitVec.ofNat 8 (w.value / 2 ^ (8 * (j - a)))) else (d.mailbox w.func m).slot[j]? := by
  induction n with
  | zero =>
    intro j _
    rw [if_neg (by omega)]
    rfl
  | succ n ih =>
    intro j hj
    have ih := ih (by omega)
    set e := (List.range n).foldl (Dev.writeSlotByte w) d with he
    have hlen : (e.mailbox w.func m).slot[j]? ≠ none := by
      rw [ih j hj]
      split_ifs <;> simp [hl, hj]
    rw [List.range_succ, List.foldl_append, List.foldl_cons, List.foldl_nil, ← he,
      Dev.writeSlotByte_inside e ho hm (by omega) (hen n (by omega)), Dev.mailbox_modMailbox_same, List.getElem?_set]
    by_cases hjn : a + n = j
    · subst hjn
      have : a + n < (e.mailbox w.func m).slot.length := by simpa using hlen
      simp [this]
    · rw [if_neg hjn, ih j hj]
      have : (a ≤ j ∧ j < a + n) ↔ (a ≤ j ∧ j < a + (n + 1)) := by omega
      simp only [this]

/-! The doorbells (R358, R359). -/

theorem writeDoorbells_eq (w : RegWrite) : writeDoorbells w = (List.range 16).filter (fun m =>
    coversWord w (0x6000 + 512 * m + 320) && writeValue w (0x6000 + 512 * m + 320) % 2 ^ 32 == 1) := by
  simp only [writeDoorbells, writeMask_low]

/-- A write within a command slot reaches no doorbell. -/
theorem writeDoorbells_slot {w : RegWrite} {m a : Nat} (ho : w.off = 0x6000 + 512 * m + a) (ha : a + w.size ≤ 256) :
    writeDoorbells w = [] := by
  rw [writeDoorbells_eq, List.filter_eq_nil_iff]
  intro k _
  have hc : coversWord w (0x6000 + 512 * k + 320) = false := by
    by_cases hk : k < m
    · exact coversWord_below (by omega)
    · exact coversWord_past (by omega)
  simp [hc]

/-- A word at a DOORBELL rings its mailbox for the value 1 alone. -/
theorem writeDoorbells_doorbell {f m v : Nat} (hm : m < 16) (hv : v < 2 ^ 32) :
    writeDoorbells { func := f, off := 0x6000 + 512 * m + 320, size := 4, value := v, be := 15 } = if v = 1 then [m] else [] := by
  have hsame (k : Nat) : 0x6000 + 512 * k + 320 = 0x6000 + 512 * m + 320 ↔ k = m := by omega
  have hval (k : Nat) : (decide (k = m) && writeValue { func := f, off := 0x6000 + 512 * m + 320, size := 4, value := v, be := 15 }
      (0x6000 + 512 * k + 320) % 2 ^ 32 == 1) = (decide (k = m) && v == 1) := by
    by_cases hk : k = m
    · subst hk
      simp only [writeValue, Nat.le_refl, if_true, Nat.sub_self]
      have : v / 2 ^ (8 * 0) % 2 ^ 64 % 2 ^ 32 = v := by omega
      rw [this]
    · simp [hk]
  simp only [writeDoorbells_eq, coversWord_single_enabled, hsame, hval]
  split_ifs with h1
  · simp [h1, List.filter_eq, List.count_eq_one_of_mem List.nodup_range (List.mem_range.2 hm)]
  · simp [h1]

/-! What a register write can change at all (R492). -/

/-- `d'` is `d` but for the functions' registers, the messages sent, the performance groups, the boot window and the Tally's policy. -/
def Dev.SameButRegisters (d d' : Dev) : Prop :=
  ∃ fs o p pw t m, d' = { d with funcs := fs, out := o, perf := p, power := pw, tally := t, mirror := m }

namespace Dev.SameButRegisters

theorem refl (d : Dev) : d.SameButRegisters d := ⟨_, _, _, _, _, _, rfl⟩

theorem trans {d e g : Dev} : d.SameButRegisters e → e.SameButRegisters g → d.SameButRegisters g := by
  rintro ⟨_, _, _, _, _, _, rfl⟩ ⟨_, _, _, _, _, _, rfl⟩
  exact ⟨_, _, _, _, _, _, rfl⟩

theorem ite {d x y : Dev} {c : Prop} [Decidable c] (hx : d.SameButRegisters x) (hy : d.SameButRegisters y) :
    d.SameButRegisters (if c then x else y) := by
  split_ifs
  · exact hx
  · exact hy

theorem foldl {α : Type} {g : Dev → α → Dev} (hg : ∀ (d : Dev) (a : α), d.SameButRegisters (g d a)) (d : Dev) (l : List α) :
    d.SameButRegisters (l.foldl g d) :=
  List.foldlRecOn l g (refl d) (fun e he a _ => he.trans (hg e a))

theorem modFunc (d : Dev) (f : Nat) (g : Func → Func) : d.SameButRegisters (d.modFunc f g) := ⟨_, _, _, _, _, _, rfl⟩

theorem modMailbox (d : Dev) (f m : Nat) (g : Mailbox → Mailbox) : d.SameButRegisters (d.modMailbox f m g) := modFunc d f _

theorem modPerf (d : Dev) (die core g : Nat) (p : Perf → Perf) :
    d.SameButRegisters (d.modPerf die core g p) := ⟨_, _, _, _, _, _, rfl⟩

theorem modTally (d : Dev) (g : Tally → Tally) : d.SameButRegisters (d.modTally g) := ⟨_, _, _, _, _, _, rfl⟩

theorem emit (d : Dev) (o : Out) : d.SameButRegisters (d.emit o) := ⟨_, _, _, _, _, _, rfl⟩

theorem unmask (d : Dev) (f v : Nat) : d.SameButRegisters (d.unmask f v) := by
  unfold Dev.unmask
  split
  · exact refl d
  · exact ite ((modFunc d f _).trans (emit _ _)) (modFunc d f _)

theorem writeVector (d : Dev) (f e : Nat) (hi : Bool) (v mask : Nat) : d.SameButRegisters (d.writeVector f e hi v mask) :=
  ite (modFunc d f _) ((modFunc d f _).trans (ite (refl _) (ite (modFunc _ f _) (unmask _ f e))))

theorem snapGroup (d : Dev) (f : Nat) (a : GroupAddr) (p : Perf → Perf) : d.SameButRegisters (d.snapGroup f a p) := by
  cases a with
  | core die core g => exact modPerf d die core g p
  | die die g => exact modPerf d die 63 g p
  | srv => exact modFunc d f _

theorem writeSnapCtl (d : Dev) (f : Nat) (a : GroupAddr) (v : Nat) : d.SameButRegisters (d.writeSnapCtl f a v) :=
  ite (refl d) ((snapGroup d f a _).trans (ite (snapGroup _ f a _) (ite (snapGroup _ f a _) (refl _))))

theorem writeDie (d : Dev) (f die off v mask : Nat) : d.SameButRegisters (d.writeDie f die off v mask) :=
  ite (refl d) (ite (writeSnapCtl d f _ v) (ite (ite (writeSnapCtl d f _ v) (refl d)) (refl d)))

theorem mirrorSet (d : Dev) (ms : Nat) : d.SameButRegisters (mirrorSet d ms) := ite (refl d) (ite (modTally d _) (modTally d _))

theorem writeTlCtl (d : Dev) (v : Nat) : d.SameButRegisters (d.writeTlCtl v) :=
  trans (e := { d with mirror := { d.mirror with irq := bit v 2, rate := v % 4 } }) ⟨_, _, _, _, _, _, rfl⟩ (mirrorSet _ _)

/-- One arm for each register that takes a write, in the order of their offsets. -/
theorem writeReg (d : Dev) (f base v mask same : Nat) : d.SameButRegisters (d.writeReg f base v mask same) := by
  unfold Dev.writeReg
  dsimp only
  refine ite (modFunc d f _) <| ite (modFunc d f _) <| ite (modFunc d f _) <| ite ?enable <| ite ?head <| ite ?window <|
    ite (writeVector d f _ _ v mask) <| ite ?snap <| ite ?policy <| ite (writeDie d f _ _ v mask) <| ite (writeDie d f _ _ v mask) <|
    ite ?boot (refl d)
  case enable | head | window | snap => exact ite (modFunc d f _) (refl d)
  case policy => exact ite (writeTlCtl d v) (refl d)
  case boot => exact ⟨_, _, _, _, _, _, rfl⟩

theorem writeSlot (d : Dev) (w : RegWrite) : d.SameButRegisters (d.writeSlot w) :=
  foldl (fun d _ => ite (modMailbox d _ _ _) (refl d)) d _

theorem ring (d : Dev) (f m : Nat) : d.SameButRegisters (d.ring f m) := by
  unfold Dev.ring
  refine ite ?_ (refl d)
  split
  · exact modFunc d f _
  · exact modMailbox d f m _

theorem registerWrite (d : Dev) (w : RegWrite) : d.SameButRegisters (registerWrite d w) :=
  ite (refl d) (ite ((writeSlot d w).trans (foldl (fun d m => ring d w.func m) _ _))
    (foldl (fun d _ => ite (refl d) (writeReg d _ _ _ _ _)) d _))

end Dev.SameButRegisters

end Sys2Proof.Machine
end

section
/-! The statements on the registers of BAR0. -/

namespace Sys2Proof.Machine

open Sys2Proof

/-- Settles O21: a write within one register reaches it through `registerWrite_within`, a write of a mailbox through
`registerWrite_mailboxes`, and `Dev.SameButRegisters` gives what no write changes. -/
theorem registerWritesReachTheirRegisters : Obligations.RegisterWritesReachTheirRegisters := by
  unfold Obligations.RegisterWritesReachTheirRegisters
  refine ⟨?undecoded, ?slotByte, ?doorbell, ?whole, ?half, ?partWord, ?within, ?slot, ?frame⟩
  case undecoded =>
    intro s w hd
    rw [exec_registerWrite, registerWrite_undecoded hd]
    rfl
  case slotByte =>
    intro s f m a v hd hm ha
    have := mailboxes_le f
    rw [exec_registerWrite, registerWrite_mailboxes hd (by simp) (by simp; omega) (by simp; omega),
      writeDoorbells_slot (m := m) (a := a) rfl (by simp; omega), List.foldl_nil, Dev.writeSlot_byte _ hm ha]
  case doorbell =>
    intro s f m v hd hm hv
    rw [exec_registerWrite, registerWrite_mailboxes hd (by simp) (by simp; omega) (by simp; omega),
      s.dev.writeSlot_outside (fun i hi => by simp only at hi ⊢; omega), writeDoorbells_doorbell hm hv]
    split_ifs <;> rfl
  case whole =>
    intro s f off v e hd h8 ho hv
    refine ⟨?_, fun h => s.dev.writeReg_below f v _ e h, fun h => ?_, fun h => ?_, fun h => ?_⟩
    · rw [exec_registerWrite, registerWrite_within hd (by simp) (by simp [h8]) ho (base := off) (by simp; omega), writeMask_whole,
        writeValue_whole hv, if_neg (by decide)]
    · simp only [h, Dev.writeReg_ledgerBase, merge_full _ _ hv, and_bits_63_12 hv]
    · simp only [h, Dev.writeReg_ledgerSize, merge_full _ _ hv, Nat.and_two_pow_sub_one_eq_mod]
    · rw [h, Dev.writeReg_winDie _ _ _ _ _ (by decide)]
  case half =>
    intro s f off v hd h8 ho hv
    have h4 : 4 ≤ off := by omega
    rw [exec_registerWrite, registerWrite_within hd (by simp) (by simp [h8]) ho (base := off - 4) (by simp; omega), writeMask_high h4,
      writeValue_high h4 hv, if_neg (by decide)]
  case partWord =>
    intro s f off v be hd h4 ho hbe
    rw [exec_registerWrite, registerWrite_within hd (by simp) (by simp; omega) ho rfl, if_pos (writeMask_partial hbe)]
    rfl
  case within =>
    intro s w hd h8 hs hs8 ho
    rw [exec_registerWrite, registerWrite_within hd hs (by omega) ho (base := w.off) (by omega)]
  case slot =>
    intro s w m a hd hm ho hs ha hl hen
    have := mailboxes_le w.func
    have hslot := s.dev.slot_writeSlotBytes ho hm hl hen ha (Nat.le_refl _)
    refine ⟨s.dev.writeSlot w, ?_, fun i hi => ?_, fun j hj hout => ?_⟩
    · rw [exec_registerWrite, registerWrite_mailboxes hd hs (by omega) (by omega), writeDoorbells_slot ho ha, List.foldl_nil]
    · rw [Dev.writeSlot_eq, hslot (a + i) (by omega), if_pos (by omega), Nat.add_sub_cancel_left]
    · rw [Dev.writeSlot_eq, hslot j hj, if_neg (by omega)]
  case frame =>
    intro s w _
    obtain ⟨fs, o, p, pw, t, m, h⟩ := Dev.SameButRegisters.registerWrite s.dev w
    refine ⟨registerWrite s.dev w, exec_registerWrite w s, ?_⟩
    rw [h]
    exact ⟨rfl, rfl, rfl, rfl, rfl, rfl, rfl, rfl, rfl, rfl, rfl⟩

/-- Settles O22: W1C by its bits, the two cases of an unmasked vector, the latched tick, and the mirror's policy. -/
theorem eventAndStatusRegistersAct : Obligations.EventAndStatusRegistersAct := by
  unfold Obligations.EventAndStatusRegistersAct
  refine ⟨?clear, ?unmask, ?tick, ?policy⟩
  case clear =>
    intro s f clear same hd
    refine ⟨((s.dev.func f).clearEvents clear same).event, ?_, fun i hi => Func.bit_clearEvents _ clear same hi⟩
    rw [exec_rmEventClear, rmEventClear, if_pos hd]
    rfl
  case unmask =>
    intro s f v e hd he
    have hx : exec (.msixUnmask f v false) s = .next (s.on (s.dev.unmask f v)) := by
      rw [exec_msixUnmask, msixUnmask, if_pos hd]; rfl
    refine ⟨fun hp hon hr => ?_, fun hp => ?_⟩
    · rw [hx, Dev.unmask_sends he hp hon hr]
    · rw [hx, Dev.unmask_without_pending he hp]
  case tick =>
    intro s f tick hd ht
    have hmod : tick % 2 ^ 10 = tick := Nat.mod_eq_of_lt ht
    rw [exec_beatNowRead, beatNowRead, if_pos hd, hmod]
  case policy =>
    intro s f v hd
    refine ⟨fun hf => ?_, fun hf hu => ?_⟩
    · simp [exec_tlMCtlWrite, tlMCtlWrite, hf]
    · subst hf
      have hw : tlMCtlWrite s.dev 0 v = s.dev.writeTlCtl v := if_pos (by simp [hd])
      rw [exec_tlMCtlWrite, hw, Dev.writeTlCtl_up v hu, ratePeriod_eq_getD (Nat.mod_lt _ (by decide))]

/-- Settles O23: a group that is seen takes the snapshot of `perfSnap` or `perfSnapClr`, the SRV group its own for both. -/
theorem snapshotsCopyAndClearTheGroup : Obligations.SnapshotsCopyAndClearTheGroup := by
  unfold Obligations.SnapshotsCopyAndClearTheGroup
  refine ⟨?core, ?die, ?srv, ?unseen⟩
  case core =>
    intro s f die core g p hd hs hp
    refine ⟨?_, fun wraps hw => ?_⟩
    · rw [exec_snap, snap_seen hd hs, hp]; rfl
    · have hmod : wraps % 2 ^ 8 = wraps := Nat.mod_eq_of_lt hw
      rw [exec_snapclr, snapclr_seen wraps hd hs, hmod, hp]; rfl
  case die =>
    intro s f die g p hd hs hp
    rw [exec_snap, snap_seen hd hs, hp]; rfl
  case srv =>
    intro s f wraps hd
    have hsnap : snap s.dev f .srv = s.dev.modFunc f Func.snapSrv := snap_seen hd rfl
    have hclr : snapclr s.dev f .srv wraps = s.dev.modFunc f Func.snapSrv := snapclr_seen wraps hd rfl
    rw [exec_snapclr, exec_snap, hsnap, hclr]
    exact ⟨rfl, rfl⟩
  case unseen =>
    intro s f wraps a hs
    rw [exec_snap, exec_snapclr, snap_unseen hs, snapclr_unseen wraps hs]
    exact ⟨rfl, rfl⟩

end Sys2Proof.Machine
end

section
/-! SUPPORT. How a flit finds its way: a die from which the dimension-ordered way is clear, one hop of that way, and the hop of a
detour (R245, R246). -/

namespace Sys2Proof.Machine

open Sys2Proof

/-- The north-south leg of a flit from die `src` to die `dst` would cross the Tally (log entry 116). -/
def legCrossesTally (src dst : Nat) : Prop := dst % 8 = 3 ∧ ((src / 8 < 2 ∧ 2 < dst / 8) ∨ (2 < src / 8 ∧ dst / 8 < 2))

/-- The way of R245 from die `a` to die `dst`, east or west and then north or south, meets the Tally in neither leg. -/
structure RouteClear (dst a : Nat) : Prop where
  die : a < 40
  notTally : a ≠ 19
  eastWest : detours a dst = false
  northSouth : ¬ legCrossesTally a dst

/-- The hops between two dies of the mesh: rows and columns apart. -/
def meshHops (a b : Nat) : Nat := (a / 8 - b / 8) + (b / 8 - a / 8) + ((a % 8 - b % 8) + (b % 8 - a % 8))

theorem meshHops_le {a b : Nat} (ha : a < 40) (hb : b < 40) : meshHops a b ≤ 11 := by
  unfold meshHops; omega

/-- A flit crosses column 3 from row 2 (R246). -/
theorem detours_eq_true {src dst : Nat} :
    detours src dst = true ↔ src / 8 = 2 ∧ (src % 8 ≤ 2 ∧ 3 ≤ dst % 8 ∨ 4 ≤ src % 8 ∧ dst % 8 ≤ 3) := by
  simp [detours]

theorem detours_eq_false {src dst : Nat} :
    detours src dst = false ↔ ¬ (src / 8 = 2 ∧ (src % 8 ≤ 2 ∧ 3 ≤ dst % 8 ∨ 4 ≤ src % 8 ∧ dst % 8 ≤ 3)) := by
  rw [← detours_eq_true, Bool.not_eq_true]

/-- Whether the way is clear is a question of rows and columns. -/
theorem routeClear_iff {dst a : Nat} : RouteClear dst a ↔ a < 40 ∧ a ≠ 19 ∧
    ¬ (a / 8 = 2 ∧ (a % 8 ≤ 2 ∧ 3 ≤ dst % 8 ∨ 4 ≤ a % 8 ∧ dst % 8 ≤ 3)) ∧
    ¬ (dst % 8 = 3 ∧ (a / 8 < 2 ∧ 2 < dst / 8 ∨ 2 < a / 8 ∧ dst / 8 < 2)) := by
  rw [← detours_eq_false]
  exact ⟨fun ⟨h, ht, he, hn⟩ => ⟨h, ht, he, hn⟩, fun ⟨h, ht, he, hn⟩ => ⟨h, ht, he, hn⟩⟩

/-- Where the way is clear, what is left of a flit's way is that of R245, whether it has detoured or not. -/
theorem outPort_of_clear {dst a : Nat} (src : Nat) (h : RouteClear dst a) (hne : a ≠ dst) :
    outPort src dst a = if a % 8 < dst % 8 then some 1 else if dst % 8 < a % 8 then some 3
      else if a / 8 < dst / 8 then some 2 else some 0 := by
  have hno : (a = src && detours src dst) = false := by
    by_cases hs : a = src
    · rw [← hs, h.eastWest, Bool.and_false]
    · simp [hs]
  simp [outPort, hne, hno]

/-- Ports between dies that are not the Tally are mesh ports (R248). -/
theorem meshPort_of_neighbour {a q b : Nat} (ha : a < 40) (ht : a ≠ 19) (hn : neighbour a q = some b) (hb : b ≠ 19) : meshPort a q = true := by
  simp [meshPort, ha, ht, hn, hb]

theorem neighbour_north {a : Nat} (h : 8 ≤ a) : neighbour a 0 = some (a - 8) := by simp [neighbour, h]
theorem neighbour_east {a : Nat} (h : a % 8 < 7) : neighbour a 1 = some (a + 1) := by simp [neighbour, h]
theorem neighbour_south {a : Nat} (h : a < 32) : neighbour a 2 = some (a + 8) := by simp [neighbour, h]
theorem neighbour_west {a : Nat} (h : 0 < a % 8) : neighbour a 3 = some (a - 1) := by simp [neighbour, h]

/-- One hop of the way of R245 ends at a die from which the way is clear, one hop nearer. -/
theorem RouteClear.hop {dst a : Nat} (src : Nat) (h : RouteClear dst a) (hd : dst < 40) (ht : dst ≠ 19) (hne : a ≠ dst) :
    ∃ q b, outPort src dst a = some q ∧ neighbour a q = some b ∧ RouteClear dst b ∧ meshHops b dst + 1 = meshHops a dst := by
  rw [outPort_of_clear src h hne]
  rw [routeClear_iff] at h
  unfold meshHops
  by_cases east : a % 8 < dst % 8
  · exact ⟨1, a + 1, if_pos east, neighbour_east (by omega), routeClear_iff.2 (by omega), by omega⟩
  rw [if_neg east]
  by_cases west : dst % 8 < a % 8
  · exact ⟨3, a - 1, if_pos west, neighbour_west (by omega), routeClear_iff.2 (by omega), by omega⟩
  rw [if_neg west]
  by_cases south : a / 8 < dst / 8
  · exact ⟨2, a + 8, if_pos south, neighbour_south (by omega), routeClear_iff.2 (by omega), by omega⟩
  · exact ⟨0, a - 8, if_neg south, neighbour_north (by omega), routeClear_iff.2 (by omega), by omega⟩

/-- The first hop of a detour, north or south out of row 2, ends at a die from which the way is clear (R246). -/
theorem detour_hop {src dst : Nat} (hs : src < 40) (hd : dst < 40) (hdet : detours src dst = true) :
    ∃ q b, outPort src dst src = some q ∧ neighbour src q = some b ∧ RouteClear dst b := by
  have hrow := detours_eq_true.1 hdet
  have hne : src ≠ dst := by omega
  have hout : outPort src dst src = some (if dst / 8 < 2 then 0 else if 2 < dst / 8 then 2 else if src % 8 ≤ 2 then 0 else 2) := by
    simp [outPort, hne, hdet]
  by_cases north : dst / 8 < 2 ∨ (dst / 8 = 2 ∧ src % 8 ≤ 2)
  · refine ⟨0, src - 8, hout.trans (congrArg some ?_), neighbour_north (by omega), routeClear_iff.2 (by omega)⟩
    split_ifs <;> omega
  · refine ⟨2, src + 8, hout.trans (congrArg some ?_), neighbour_south (by omega), routeClear_iff.2 (by omega)⟩
    split_ifs <;> omega

/-- A flit that leaves by a mesh port arrives where it arrives from the die beyond. -/
theorem flitArrives_hop {src dst n a q b : Nat} (ho : outPort src dst a = some q) (hm : meshPort a q = true) (hn : neighbour a q = some b)
    (h : flitArrives src dst n b = true) : flitArrives src dst (n + 1) a = true := by
  simp [flitArrives, ho, hm, hn, h]

theorem flitArrives_there (src dst n : Nat) : flitArrives src dst n dst = true := by
  cases n <;> simp [flitArrives, outPort]

/-- Where the way is clear, a flit arrives within the hops between the dies. -/
theorem RouteClear.arrives {dst : Nat} (src : Nat) (hd : dst < 40) (ht : dst ≠ 19) :
    ∀ {n a : Nat}, RouteClear dst a → meshHops a dst ≤ n → flitArrives src dst n a = true := by
  intro n
  induction n with
  | zero =>
    intro a _ hn
    have : a = dst := by unfold meshHops at hn; omega
    rw [this, flitArrives_there]
  | succ n ih =>
    intro a h hn
    by_cases hne : a = dst
    · rw [hne, flitArrives_there]
    · obtain ⟨q, b, ho, hb, hc, hh⟩ := h.hop src hd ht hne
      exact flitArrives_hop ho (meshPort_of_neighbour h.die h.notTally hb hc.notTally) hb (ih hc (by omega))

end Sys2Proof.Machine
end

section
/-! SUPPORT. What the services of the pasture and image commands answer where every check passes, and what they read of a package
whose mailbox has just taken the slot. -/

namespace Sys2Proof.Machine

open Sys2Proof

/-! What the pasture and image commands and the end of a clear answer. -/

theorem exec_pastureCreate (c : Door) (s : State) :
    exec (.pastureCreate c) s = .next (s.on (s.dev.serve c 0x0201 svcPastureCreate)) := rfl
theorem exec_pastureDestroy (c : Door) (s : State) :
    exec (.pastureDestroy c) s = .next (s.on (s.dev.serve c 0x0202 svcPastureDestroy)) := rfl
theorem exec_pastureQuery (c : Door) (s : State) :
    exec (.pastureQuery c) s = .next (s.on (s.dev.serve c 0x0203 svcPastureQuery)) := rfl
theorem exec_penClearDone (p : Nat) (s : State) : exec (.penClearDone p) s = .next (s.on (penClearDone s.dev p)) := rfl
theorem exec_imageLoad (c : Door) (s : State) :
    exec (.imageLoad c) s = .next (s.on (s.dev.serve c 0x0301 svcImageLoad)) := rfl
theorem exec_imageShare (c : Door) (s : State) :
    exec (.imageShare c) s = .next (s.on (s.dev.serve c 0x0302 svcImageShare)) := rfl
theorem exec_imageReseed (c : Door) (s : State) :
    exec (.imageReseed c) s = .next (s.on (s.dev.serve c 0x0303 svcImageReseed)) := rfl
theorem exec_imageUnload (c : Door) (s : State) :
    exec (.imageUnload c) s = .next (s.on (s.dev.serve c 0x0304 svcImageUnload)) := rfl

/-! What a taken slot leaves as it was: pastures, images, prefixes, shows, requests and handles. -/

section
variable (d : Dev) (c : Door) (op : Nat)

theorem Dev.took_pastures : (d.took c op).pastures = d.pastures := by
  obtain ⟨fs, h⟩ := d.took_eq c op; rw [h]

theorem Dev.took_reqs : (d.took c op).reqs = d.reqs := by
  obtain ⟨fs, h⟩ := d.took_eq c op; rw [h]

theorem Dev.took_faults : (d.took c op).faults = d.faults := by
  obtain ⟨fs, h⟩ := d.took_eq c op; rw [h]

theorem Dev.took_enabled (e : Nat) : ((d.took c op).func e).enabled = (d.func e).enabled := by
  obtain ⟨m, h⟩ := d.took_func c op e; rw [h]

theorem Dev.took_pastureOfPen (p : Nat) : (d.took c op).pastureOfPen p = d.pastureOfPen p := by
  simp only [Dev.pastureOfPen, Dev.took_pastures]

theorem Dev.took_poolOf (p pen : Nat) : (d.took c op).poolOf p pen = d.poolOf p pen := by
  simp only [Dev.poolOf, Dev.took_pastures]

theorem Dev.took_image (p n : Nat) : (d.took c op).image p n = d.image p n := by
  simp only [Dev.image, Dev.took_pastures]

theorem Dev.took_prefixOf (p n : Nat) : (d.took c op).prefixOf p n = d.prefixOf p n := by
  simp only [Dev.prefixOf, Dev.took_pastures]

theorem Dev.took_showBinds (u p n : Nat) : (d.took c op).showBinds u p n = d.showBinds u p n := by
  simp only [Dev.showBinds, Dev.took_pastures]

theorem Dev.took_binders (p n : Nat) : (d.took c op).binders p n = d.binders p n := by
  simp only [Dev.binders, Dev.took_pastures, Dev.took_showBinds]

theorem Dev.took_grantsOut (p : Nat) (q : Pasture) : (d.took c op).grantsOut p q = d.grantsOut p q := by
  simp only [Dev.grantsOut, Dev.took_pastures]

theorem Dev.took_heldOf (f : Nat) : (d.took c op).heldOf f = d.heldOf f := by
  simp only [Dev.heldOf, Dev.took_handles]

theorem Dev.nextHandle_took (f : Nat) : (d.took c op).nextHandle f = d.nextHandle f := d.took_nextHandle c op f 0 .immediate

end

/-- A new handle is the next one, whatever it is for (R364). -/
theorem Dev.newHandle_eq (d : Dev) (f tag : Nat) (w : Work) : d.newHandle f tag w = (d.nextHandle f, d.opened f tag w) := rfl

/-- A HANDLED command that its service accepts. -/
theorem exec_accepts {i : Instr} {s : State} {c : Door} {op : Nat} {svc : Dev → Door → Svc} {w : Work} {eff : Dev → Dev}
    (hi : exec i s = .next (s.on (s.dev.serve c op svc))) (h : s.dev.hears c = true)
    (hs : svc (s.dev.took c op) c = .ok ({ handle := some ((s.dev.took c op).nextHandle c.func) },
      eff ((s.dev.took c op).opened c.func c.tag w))) : exec i s = .next (s.on (s.dev.accepts c op w eff)) := by
  rw [hi, Dev.serve_accepts h (Dev.nextHandle_took s.dev c op c.func ▸ hs)]

/-! Pastures (R20, R356, R380). -/

/-- The service of `PASTURE_CREATE` where the checks pass: pasture `p` holds the pens and waits for their clear. -/
theorem svcPastureCreate_ok {d : Dev} {c : Door} {p : Nat} (hh : checkHeader c 8 [(0, [255, 255, 255])] = .ok ()) (hf : c.func = 0)
    (hs : d.stopped = false) (hp : dp c 0 2 ≠ 0) (hfn : dp c 2 1 ≤ 16) (he : (d.func (dp c 2 1)).enabled = true)
    (hfree : ∀ pen < 16, bit (dp c 0 2) pen = true → d.pastureOfPen pen = 31 ∧ bit d.faults.offline pen = false)
    (hb : ∀ q ∈ d.pastures, q.2.func ≠ dp c 2 1) (hr : d.handlesLeft 0 = true)
    (hn : (List.range 16).find? (fun n => (Tab.get? d.pastures n).isNone) = some p) :
    svcPastureCreate d c = .ok ({ handle := some (d.nextHandle c.func) },
      { d.opened c.func c.tag (.pastureCreate p (dp c 0 2)) with
        pastures := Tab.put (d.opened c.func c.tag (.pastureCreate p (dp c 0 2))).pastures p { pens := dp c 0 2, func := dp c 2 1 } }) := by
  have hsome : (dp c 0 2 == 0) = false := by simpa using hp
  have hfunc : (decide (16 < dp c 2 1) || !(d.func (dp c 2 1)).enabled) = false := by simp [he, hfn]
  have hpens : (List.range 16).any (fun p => bit (dp c 0 2) p && (d.pastureOfPen p != 31 || bit d.faults.offline p)) = false := by
    simpa using hfree
  have hbound : d.pastures.any (fun q => q.2.func == dp c 2 1) = false := by
    simpa using hb
  simp only [svcPastureCreate, hh, pfOnly_ok hf, notStopped_ok hs, except_ok_bind, hsome, hfunc, hpens, hbound, refuseIf_false,
    handleRoom_ok (hf ▸ hr : d.handlesLeft c.func = true), hn, Dev.newHandle_eq, except_pure]

/-- The service of `PASTURE_DESTROY` where the checks pass. -/
theorem svcPastureDestroy_ok {d : Dev} {c : Door} {q : Pasture} (hh : checkHeader c 8 [(0, [255])] = .ok ()) (hf : c.func = 0)
    (hs : d.stopped = false) (hq : d.pasture (dp c 0 1) = some q) (hg : d.grantsOut (dp c 0 1) q = false) (hr : d.handlesLeft 0 = true) :
    svcPastureDestroy d c = .ok ({ handle := some (d.nextHandle c.func) },
      ((((d.opened c.func c.tag (.pastureDestroy (dp c 0 1) q.pens q.pens)).destroyTxns (dp c 0 1)).destroyHandles (dp c 0 1) q.func
        (d.nextHandle c.func)).destroyContents (dp c 0 1)).remap) := by
  simp only [svcPastureDestroy, hh, pfOnly_ok hf, notStopped_ok hs, except_ok_bind, hq, hg, refuseIf_false,
    handleRoom_ok (hf ▸ hr : d.handlesLeft c.func = true), Dev.newHandle_eq, except_pure]

/-- The result words of `PASTURE_QUERY` for pasture `p` (R380). -/
def Dev.pastureWords (d : Dev) (p : Nat) (q : Pasture) : List Nat :=
  [q.pens + q.func * 2 ^ 16 + (if q.sh.isSome then 2 ^ 21 else 0), q.pens &&& d.faults.offline,
    (d.reqs.filter (fun r => r.2.pasture == p && r.2.build.isNone)).length,
    ((d.heldOf q.func).filter (fun h => hGen h == (d.func q.func).gen)).length]

theorem Dev.took_pastureWords (d : Dev) (c : Door) (op p : Nat) (q : Pasture) : (d.took c op).pastureWords p q = d.pastureWords p q := by
  simp only [Dev.pastureWords, Dev.took_faults, Dev.took_reqs, Dev.took_heldOf, Dev.took_gen]

/-- The service of `PASTURE_QUERY` where the checks pass. -/
theorem svcPastureQuery_ok {d : Dev} {c : Door} {p : Nat} {q : Pasture} (hh : checkHeader c 8 [(0, [255])] = .ok ())
    (hp : namedPasture d c 0 = .ok p) (hq : d.pasture p = some q) : svcPastureQuery d c = .ok ({ res := d.pastureWords p q }, d) := by
  simp only [svcPastureQuery, hh, hp, hq, except_ok_bind, except_pure, Dev.pastureWords]

/-- A pen's clear ends for the `PASTURE_CREATE` that waits for it: after the last pen the pasture is ready (R356, R380). -/
theorem penClearDone_create {d : Dev} {p h q left : Nat} {x : Handle} (hx : d.handles.find? (awaitsClear p) = some (h, x))
    (hw : x.work = .pastureCreate q left) :
    penClearDone d p = if setBit left p false = 0
      then (((d.clearPen p).modPasture q (fun y => { y with ready := true })).remap).finish h sOk [q]
      else (d.clearPen p).setWork h (.pastureCreate q (setBit left p false)) := by
  simp only [penClearDone, hx, hw]

/-- A pen's clear ends for the `PASTURE_DESTROY` that waits for it: after the last pen the pasture is gone (R356, R380). -/
theorem penClearDone_destroy {d : Dev} {p h q pens left : Nat} {x : Handle} (hx : d.handles.find? (awaitsClear p) = some (h, x))
    (hw : x.work = .pastureDestroy q pens left) :
    penClearDone d p = if setBit left p false = 0
      then (({ (d.clearPen p) with pastures := Tab.del d.pastures q } : Dev).remap).finish h sOk [pens]
      else (d.clearPen p).setWork h (.pastureDestroy q pens (setBit left p false)) := by
  simp only [penClearDone, hx, hw]
  rfl

/-! Images (R381). -/

/-- The image that an accepted `IMAGE_LOAD` of pasture `p` records (R381). -/
def Dev.loadedImage (d : Dev) (c : Door) (p : Nat) : Image :=
  { pen := dp c 2 1, off := dp c 8 8, len := dp c 16 8, fmt := dp c 3 1, shared := d.pKey p kSharing == 1, goldenDue := bit (dp c 4 1) 0 }

/-- The service of `IMAGE_LOAD` where the checks pass. -/
theorem svcImageLoad_ok {d : Dev} {c : Door} {p : Nat} {q : Pasture}
    (hh : checkHeader c 32 [(0, [255, 255, 255, 255, 1]), (8, List.replicate 24 255)] = .ok ()) (hs : d.stopped = false)
    (hp : d.pastureOf c.func = some p) (hq : d.pasture p = some q) (hpen : dp c 2 1 ≤ 15) (hown : bit q.pens (dp c 2 1) = true)
    (himg : dp c 0 2 ≤ 1023) (hfmt : dp c 3 1 ≤ 14) (hoff : dp c 3 1 = 0 → dp c 8 8 % 2048 = 0) (hlen : dp c 16 8 ≠ 0)
    (hlen64 : dp c 16 8 % 64 = 0) (hend : dp c 8 8 + dp c 16 8 ≤ 2 ^ 38) (hbuf : dp c 24 8 % 64 = 0)
    (hnew : Tab.get? q.images (dp c 0 2) = none)
    (himages : ∀ r ∈ d.pastures, ∀ i ∈ r.2.images, i.2.pen = dp c 2 1 → overlaps i.2.off i.2.len (dp c 8 8) (dp c 16 8) = false)
    (hpool : ∀ o n, d.poolOf p (dp c 2 1) = some (o, n) → overlaps o n (dp c 8 8) (dp c 16 8) = false)
    (hr : d.handlesLeft c.func = true) :
    svcImageLoad d c = .ok ({ handle := some (d.nextHandle c.func) },
      ((d.opened c.func c.tag (.imageLoad p (dp c 0 2) false)).modPasture p (fun q =>
        { q with images := Tab.put q.images (dp c 0 2) (d.loadedImage c p) })).emit
          (.hostRead c.func (dp c 24 8) (dp c 16 8) (d.nextHandle c.func))) := by
  have hfree : d.pastures.any (fun r => r.2.images.any (fun i => i.2.pen == dp c 2 1 &&
      overlaps i.2.off i.2.len (dp c 8 8) (dp c 16 8))) = false := by
    simpa using himages
  have hpens : (decide (15 < dp c 2 1) || !bit q.pens (dp c 2 1)) = false := by simp [hown, hpen]
  have hplace : (dp c 3 1 == 0 && dp c 8 8 % 2048 != 0) = false := by simpa using hoff
  have hsize : (dp c 16 8 == 0 || dp c 16 8 % 64 != 0 || decide (2 ^ 38 < dp c 8 8 + dp c 16 8)) = false := by
    simp only [Bool.or_eq_false_iff, decide_eq_false_iff_not, Nat.not_lt]
    simp [hlen, hlen64]; exact hend
  simp only [svcImageLoad, hh, notStopped_ok hs, ownPasture_ok hp, hq, hpens, inRange_ok (Nat.zero_le _) himg,
    inRange_ok (Nat.zero_le _) hfmt, hplace, hsize, aligned64_ok hbuf, hnew, Option.isSome_none, hfree, refuseIf_false,
    handleRoom_ok hr, except_ok_bind, Dev.newHandle_eq, except_pure]
  cases hout : d.poolOf p (dp c 2 1) with
  | none => rfl
  | some r => simp only [hpool r.1 r.2 hout, refuseIf_false, except_ok_bind]; rfl

/-- The service of `IMAGE_SHARE` for an image taken as SHARED, where no show that loses its grant binds it and the other checks
pass (R22). -/
theorem svcImageShare_image {d d' : Dev} {c : Door} {p : Nat} {i : Image} (hh : checkHeader c 8 [(0, List.replicate 6 255)] = .ok ())
    (hf : c.func = 0) (hs : d.stopped = false) (hp : namedPasture d c 1 = .ok p) (hk : dp c 0 1 = 0) (hn : dp c 2 2 ≤ 1023)
    (hi : d.image p (dp c 2 2) = some i) (hsh : i.shared = true)
    (hb : ∀ u < 16, u ≠ p → bit i.grants u = true → bit (dp c 4 2) u = false → d.showBinds u p (dp c 2 2) = false)
    (hr : d.handlesLeft 0 = true) (hd' : d' = d.modImage p (dp c 2 2) (fun i => { i with grants := dp c 4 2 }))
    (hw : d'.windowsFit = true) :
    svcImageShare d c = .ok ({ handle := some (d.nextHandle c.func) },
      (d'.remap.opened c.func c.tag .immediate).finish (d.nextHandle c.func) sOk []) := by
  have hbound : (List.range 16).any (fun u => u != p && bit i.grants u && !bit (dp c 4 2) u && d.showBinds u p (dp c 2 2)) = false := by
    simpa [and_assoc] using hb
  have hk' : dp c 0 1 ≤ 1 := by omega
  subst hd'
  simp only [svcImageShare, hh, pfOnly_ok hf, notStopped_ok hs, hp, inRange_ok (Nat.zero_le _) hk', inRange_ok (Nat.zero_le _) hn,
    if_pos hk, hi, hsh, hbound, hw, Bool.not_true, handleRoom_ok (hf ▸ hr : d.handlesLeft c.func = true), refuseIf_false,
    except_ok_bind, except_pure]
  rfl

/-- The service of `IMAGE_SHARE` for KIND 1, where no request that loses its grant uses the shared pages and the other checks
pass (R299). -/
theorem svcImageShare_prefix {d d' : Dev} {c : Door} {p : Nat} {x : Prefix} (hh : checkHeader c 8 [(0, List.replicate 6 255)] = .ok ())
    (hf : c.func = 0) (hs : d.stopped = false) (hp : namedPasture d c 1 = .ok p) (hk : dp c 0 1 = 1) (hn : dp c 2 2 ≤ 1023)
    (hx : d.prefixOf p (dp c 2 2) = some x)
    (hu : ∀ r ∈ d.reqs, r.2.pasture ≠ p → r.2.pfx = some (p * 1024 + dp c 2 2) → bit x.grants r.2.pasture = true →
      bit (dp c 4 2) r.2.pasture = true)
    (hr : d.handlesLeft 0 = true) (hd' : d' = d.modPrefix p (dp c 2 2) (fun x => { x with grants := dp c 4 2 }))
    (hw : d'.windowsFit = true) :
    svcImageShare d c = .ok ({ handle := some (d.nextHandle c.func) },
      (d'.remap.opened c.func c.tag .immediate).finish (d.nextHandle c.func) sOk []) := by
  have hused : d.reqs.any (fun r => r.2.pasture != p && r.2.pfx == some (p * 1024 + dp c 2 2) && bit x.grants r.2.pasture &&
      !bit (dp c 4 2) r.2.pasture) = false := by
    simpa [and_assoc] using hu
  have hk0 : dp c 0 1 ≠ 0 := by omega
  subst hd'
  simp only [svcImageShare, hh, pfOnly_ok hf, notStopped_ok hs, hp, inRange_ok (Nat.zero_le _) hk.le, inRange_ok (Nat.zero_le _) hn,
    if_neg hk0, hx, hused, hw, Bool.not_true, handleRoom_ok (hf ▸ hr : d.handlesLeft c.func = true), refuseIf_false,
    except_ok_bind, except_pure]
  rfl

/-- What an accepted `IMAGE_SHARE` leaves, `d'` being the package with the new grants. -/
theorem exec_imageShare_of_ok {s : State} {d' : Dev} {c : Door} (hd : s.dev.hears c = true) (hf : c.func = 0)
    (hs : svcImageShare (s.dev.took c 0x0302) c = .ok ({ handle := some ((s.dev.took c 0x0302).nextHandle c.func) },
      (d'.remap.opened c.func c.tag .immediate).finish ((s.dev.took c 0x0302).nextHandle c.func) sOk [])) :
    exec (.imageShare c) s = .next (s.on (((d'.remap.opened 0 c.tag .immediate).finish (s.dev.nextHandle 0) sOk []).replyAccepted c
      (s.dev.nextHandle 0))) := by
  rw [exec_imageShare, Dev.serve_ok hd hs, hf, Dev.nextHandle_took]
  rfl

/-- The service of `IMAGE_RESEED` where the checks pass. -/
theorem svcImageReseed_ok {d : Dev} {c : Door} {p : Nat} {i : Image}
    (hh : checkHeader c 32 [(0, [255, 255, 255]), (8, List.replicate 24 255)] = .ok ()) (hs : d.stopped = false)
    (hp : namedPasture d c 2 = .ok p) (hn : dp c 0 2 ≤ 1023) (hi : d.image p (dp c 0 2) = some i) (hoff : dp c 8 8 % 4096 = 0)
    (hin : dp c 8 8 < i.len) (hlen : dp c 16 8 ≠ 0) (hend : dp c 8 8 + dp c 16 8 ≤ i.len)
    (hblock : dp c 16 8 % 4096 = 0 ∨ dp c 8 8 + dp c 16 8 = i.len) (hbuf : dp c 24 8 % 64 = 0) (hr : d.handlesLeft c.func = true) :
    svcImageReseed d c = .ok ({ handle := some (d.nextHandle c.func) },
      (d.opened c.func c.tag (.imageReseed p (dp c 0 2) (dp c 8 8) (dp c 16 8))).emit
        (.hostRead c.func (dp c 24 8) (dp c 16 8) (d.nextHandle c.func))) := by
  have hstart : (dp c 8 8 % 4096 != 0 || decide (i.len ≤ dp c 8 8)) = false := by simp [hoff, hin]
  have hrange : (dp c 16 8 == 0 || decide (i.len < dp c 8 8 + dp c 16 8) ||
      (dp c 16 8 % 4096 != 0 && dp c 8 8 + dp c 16 8 != i.len)) = false := by
    rcases hblock with h | h <;> simp [hlen, hend, h]
  simp only [svcImageReseed, hh, notStopped_ok hs, hp, inRange_ok (Nat.zero_le _) hn, hi, hstart, hrange, aligned64_ok hbuf,
    handleRoom_ok hr, refuseIf_false, except_ok_bind, Dev.newHandle_eq, except_pure]

/-- The service of `IMAGE_UNLOAD` where the checks pass. -/
theorem svcImageUnload_ok {d : Dev} {c : Door} {p : Nat} {i : Image} (hh : checkHeader c 8 [(0, [255, 255])] = .ok ())
    (hs : d.stopped = false) (hp : d.pastureOf c.func = some p) (hn : dp c 0 2 ≤ 1023) (hi : d.image p (dp c 0 2) = some i)
    (hb : d.binders p (dp c 0 2) = []) (hg : i.grants % 2 ^ 16 = i.grants &&& 2 ^ p) (hr : d.handlesLeft c.func = true) :
    svcImageUnload d c = .ok ({ handle := some (d.nextHandle c.func) },
      ((d.opened c.func c.tag .immediate).modPasture p (fun q => { q with images := Tab.del q.images (dp c 0 2) })).remap.finish
        (d.nextHandle c.func) sOk []) := by
  have hfree : (!(d.binders p (dp c 0 2)).isEmpty || i.grants % 2 ^ 16 != i.grants &&& 2 ^ p) = false := by
    rw [hb, hg, bne_self_eq_false]; rfl
  simp only [svcImageUnload, hh, notStopped_ok hs, ownPasture_ok hp, inRange_ok (Nat.zero_le _) hn, hi, hfree, handleRoom_ok hr,
    refuseIf_false, except_ok_bind, Dev.newHandle_eq, except_pure]

end Sys2Proof.Machine
end

section
/-! The statements on pastures, images and routes. -/

namespace Sys2Proof.Machine

open Sys2Proof

/-- Settles O8: each service answers as its `_ok` lemma says, on the package whose mailbox has taken the slot; the end of a clear
follows the command that waits for it. -/
theorem pastureCommandsActAsAccepted : Obligations.PastureCommandsActAsAccepted := by
  unfold Obligations.PastureCommandsActAsAccepted
  refine ⟨?create, ?destroy, ?query, ?clear⟩
  case create =>
    intro s c p hd hh hf hs hp hfn he hfree hb hr hn
    refine exec_accepts (exec_pastureCreate c s) hd (svcPastureCreate_ok hh hf ?_ hp hfn ?_ ?_ ?_ ?_ ?_)
    all_goals simpa only [Dev.took_stopped, Dev.took_enabled, Dev.took_pastureOfPen, Dev.took_faults, Dev.took_pastures,
      Dev.took_handlesLeft]
  case destroy =>
    intro s c q hd hh hf hs hq hg hr
    have hnext : s.dev.nextHandle 0 = (s.dev.took c 0x0202).nextHandle c.func := by rw [hf, Dev.nextHandle_took]
    rw [hnext]
    refine exec_accepts (exec_pastureDestroy c s) hd (svcPastureDestroy_ok hh hf ?_ ?_ ?_ ?_)
    all_goals simpa only [Dev.took_stopped, Dev.took_pasture, Dev.took_grantsOut, Dev.took_handlesLeft]
  case query =>
    intro s c p q hd hh hp hq
    rw [exec_pastureQuery, Dev.serve_answers (res := s.dev.pastureWords p q) (eff := id) hd]
    · rfl
    rw [← s.dev.took_pastureWords c 0x0203]
    refine svcPastureQuery_ok hh ?_ ?_
    all_goals simpa only [Dev.took_namedPasture, Dev.took_pasture]
  case clear =>
    intro s p q h left x hx
    exact ⟨fun hw => by rw [exec_penClearDone, penClearDone_create hx hw],
      fun pens hw => by rw [exec_penClearDone, penClearDone_destroy hx hw]⟩

/-- Settles O9: each service answers as its `_ok` lemma says, on the package whose mailbox has taken the slot. -/
theorem imageCommandsActAsAccepted : Obligations.ImageCommandsActAsAccepted := by
  unfold Obligations.ImageCommandsActAsAccepted
  refine ⟨?load, ?shareImage, ?sharePrefix, ?reseed, ?unload⟩
  case load =>
    intro s c p q hd hh hs hp hq hpen hown himg hfmt hoff hlen hlen64 hend hbuf hnew himages hpool hr
    rw [← s.dev.nextHandle_took c 0x0301, ← s.dev.took_pKey c 0x0301]
    refine exec_accepts (exec_imageLoad c s) hd (svcImageLoad_ok hh ?_ ?_ ?_ hpen hown himg hfmt hoff hlen hlen64 hend hbuf hnew ?_ ?_ ?_)
    all_goals simpa only [Dev.took_stopped, Dev.took_pastureOf, Dev.took_pasture, Dev.took_pastures, Dev.took_poolOf, Dev.took_handlesLeft]
  case shareImage =>
    intro s c p i hd hh hf hs hp hk hn hi hsh hb hr hw
    refine exec_imageShare_of_ok hd hf (svcImageShare_image hh hf ?_ ?_ hk hn ?_ hsh ?_ ?_ rfl hw)
    all_goals simpa only [Dev.took_stopped, Dev.took_namedPasture, Dev.took_image, Dev.took_showBinds, Dev.took_handlesLeft]
  case sharePrefix =>
    intro s c p x hd hh hf hs hp hk hn hx hu hr hw
    refine exec_imageShare_of_ok hd hf (svcImageShare_prefix (x := x) hh hf ?_ ?_ hk hn ?_ ?_ ?_ rfl hw)
    all_goals simpa only [Dev.took_stopped, Dev.took_namedPasture, Dev.took_prefixOf, Dev.took_reqs, Dev.took_handlesLeft]
  case reseed =>
    intro s c p i hd hh hs hp hn hi hoff hin hlen hend hblock hbuf hr
    rw [← s.dev.nextHandle_took c 0x0303]
    refine exec_accepts (exec_imageReseed c s) hd (svcImageReseed_ok hh ?_ ?_ hn ?_ hoff hin hlen hend hblock hbuf ?_)
    all_goals simpa only [Dev.took_stopped, Dev.took_namedPasture, Dev.took_image, Dev.took_handlesLeft]
  case unload =>
    intro s c p i hd hh hs hp hn hi hb hg hr
    rw [← s.dev.nextHandle_took c 0x0304]
    refine exec_accepts (exec_imageUnload c s) hd (svcImageUnload_ok hh ?_ ?_ hn ?_ ?_ hg ?_)
    all_goals simpa only [Dev.took_stopped, Dev.took_pastureOf, Dev.took_image, Dev.took_binders, Dev.took_handlesLeft]

/-- Settles O47: a flit that does not detour is on a clear way from its source, one that does from the die of its first hop. -/
theorem routesAreDimensionOrderedAndAvoidTheTally : Obligations.RoutesAreDimensionOrderedAndAvoidTheTally := by
  unfold Obligations.RoutesAreDimensionOrderedAndAvoidTheTally
  intro src hs dst hd hst hdt hleg
  by_cases hdet : detours src dst = true
  · obtain ⟨q, b, ho, hb, hc⟩ := detour_hop hs hd hdet
    exact flitArrives_hop ho (meshPort_of_neighbour hs hst hb hc.notTally) hb (hc.arrives src hd hdt (meshHops_le hc.die hd))
  · have hclear : RouteClear dst src := ⟨hs, hst, eq_false_of_ne_true hdet, hleg⟩
    exact hclear.arrives src hd hdt ((meshHops_le hs hd).trans (by decide))

end Sys2Proof.Machine
end

section
/-! SUPPORT. How the beat's state moves: what a present or a missing edge or marker does in each state (R33 to R36), a relock and a
renumbering (R38), and that events touch the functions' event bits alone. -/

namespace Sys2Proof.Machine

open Sys2Proof

/-! What the commands of the Beat answer. -/

theorem exec_beatTick0 (launch : List Nat) (s : State) : exec (.beatTick0 launch) s = .next (s.on (beatTick0 s.dev launch)) := rfl
theorem exec_beatEdge (phase : Int) (hz : Nat) (s : State) : exec (.beatEdge phase hz) s = .next (s.on (beatEdge s.dev phase hz)) := rfl
theorem exec_beatMarkerReceive (l : Nat) (arrival : Int) (launch beat hop hz : Nat) (s : State) :
    exec (.beatMarkerReceive l arrival launch beat hop hz) s = .next (s.on (beatMarkerReceive s.dev l arrival launch beat hop hz)) := rfl
theorem exec_beatMissing (s : State) : exec .beatMissing s = .next (s.on (beatMissing s.dev)) := rfl
theorem exec_beatSyncLoad (s : State) : exec .beatSyncLoad s = .next (s.on (beatSyncLoad s.dev)) := rfl
theorem exec_beatSyncTimeout (s : State) : exec .beatSyncTimeout s = .next (s.on (beatSyncTimeout s.dev)) := rfl

/-! States (R33, R36). -/

@[simp] theorem Dev.eventAll_beat (d : Dev) (b v : Nat) : (d.eventAll b v).beat = d.beat := by
  obtain ⟨fs, o, h⟩ := d.eventAll_frame b v; rw [h]

section
variable {d : Dev} {s : BeatState} {phase : Int} {hop hz : Nat}

theorem Dev.beatState_same (h : d.beat.st = s) : d.beatState s = d := if_pos h

theorem Dev.beatState_change (h : d.beat.st ≠ s) :
    d.beatState s = { d with beat := { d.beat with st := s, missing := 0, valid := 0 } }.eventAll 3 2 := if_neg h

/-- A lock is a change to LOCKED, from which on `BEAT_OUT` and the markers run (R30, R33). -/
theorem Dev.lock_eq (d : Dev) : d.lock = { d.beatState .locked with beat := { (d.beatState .locked).beat with lockedOnce := true } } := rfl

theorem Dev.settleSlew_done (hs : d.beat.st = .slewing) (hp : d.beat.phase.natAbs ≤ 1) : d.settleSlew = d.lock := by
  simp [Dev.settleSlew, hs, hp]

theorem Dev.settleSlew_far (hp : 1 < d.beat.phase.natAbs) : d.settleSlew = d := by
  simp [Dev.settleSlew, Nat.not_le.2 hp]

theorem Dev.settleSlew_idle (hs : d.beat.st ≠ .slewing) : d.settleSlew = d := by
  simp [Dev.settleSlew, hs]

/-! An edge or marker that is present (R33, R34, R36). -/

theorem Dev.present_locked (hs : d.beat.st = .locked) :
    d.present phase hop hz = { d with beat := { d.beat with missing := 0, phase, hop, hz } } := by
  simp [Dev.present, Dev.settleSlew, hs]

theorem Dev.present_slewing (hs : d.beat.st = .slewing) (hp : 1 < phase.natAbs) :
    d.present phase hop hz = { d with beat := { d.beat with missing := 0, phase, hop, hz } } := by
  rw [Dev.present, if_neg (by simp [hs]), Dev.settleSlew_far hp]

theorem Dev.present_slewed (hs : d.beat.st = .slewing) (hp : phase.natAbs ≤ 1) :
    d.present phase hop hz = { d with beat := { d.beat with missing := 0, phase, hop, hz } }.lock := by
  rw [Dev.present, if_neg (by simp [hs])]
  exact Dev.settleSlew_done hs hp

/-- What a return from HOLDOVER by slewing sets (R36). -/
theorem Dev.present_holdover (hs : d.beat.st = .holdover) (hp : 1 < phase.natAbs) : d.present phase hop hz =
    { d with beat := { d.beat with st := .slewing, missing := 0, valid := 0, phase, hop, hz } }.eventAll 3 2 := by
  rw [Dev.present, if_pos hs, Dev.beatState_change (by simp [hs]), Dev.settleSlew_far (by simpa using hp)]

theorem Dev.present_holdover_near (hs : d.beat.st = .holdover) (hp : phase.natAbs ≤ 1) : d.present phase hop hz =
    ({ d with beat := { d.beat with st := .slewing, missing := 0, valid := 0, phase, hop, hz } }.eventAll 3 2).lock := by
  rw [Dev.present, if_pos hs, Dev.beatState_change (by simp [hs]), Dev.settleSlew_done (by simp) (by simpa using hp)]

/-- Out of the window of HOLDOVER the package slips, and the phase is what was measured (R33, R497). -/
theorem Dev.slip_of_holdover (hs : d.beat.st = .holdover) : (d.seePhase phase).beatState .slipped =
    { d with beat := { d.beat with st := .slipped, missing := 0, valid := 0, phase } }.eventAll 3 2 :=
  Dev.beatState_change (by simp [Dev.seePhase, hs])

/-! A valid edge or marker in FREE (R33, R35). -/

theorem Dev.freeValid_more {jump : Option Nat} (hv : d.beat.valid < 7) :
    d.freeValid hop hz jump = { d with beat := { d.beat with valid := d.beat.valid + 1 } } :=
  if_neg (by omega)

/-- The eighth locks. -/
theorem Dev.freeValid_eighth {jump : Option Nat} (hs : d.beat.st = .free) (hv : d.beat.valid = 7) :
    d.freeValid hop hz jump = { ({ d with beat := { d.beat with st := .locked, missing := 0, valid := 0 } }.eventAll 3 2) with beat :=
      { d.beat with
        st := .locked, valid := 0, missing := 0, lockedOnce := true, hop, hz, phase := 0, lockDue := true, jump } } := by
  simp only [Dev.freeValid, hv, Nat.reduceAdd, Nat.le_refl, if_true, Dev.lock_eq,
    Dev.beatState_change (d := d) (s := .locked) (by simp [hs]), Dev.eventAll_beat]

/-! A missing edge or marker (R33, R34). -/

theorem Dev.countMissing_free (hs : d.beat.st = .free) : d.countMissing = { d with beat := { d.beat with valid := 0 } } := by
  simp only [Dev.countMissing, hs]

theorem Dev.countMissing_more (hs : d.beat.st = .locked ∨ d.beat.st = .slewing) (hm : d.beat.missing < 7) :
    d.countMissing = { d with beat := { d.beat with missing := d.beat.missing + 1 } } := by
  have : ¬ 8 ≤ d.beat.missing + 1 := by omega
  rcases hs with hs | hs <;> simp only [Dev.countMissing, hs, this, if_false]

/-- The eighth enters HOLDOVER. -/
theorem Dev.countMissing_eighth (hs : d.beat.st = .locked ∨ d.beat.st = .slewing) (hm : 7 ≤ d.beat.missing) :
    d.countMissing = { d with beat := { d.beat with st := .holdover, missing := 0, valid := 0 } }.eventAll 3 2 := by
  have h8 : 8 ≤ d.beat.missing + 1 := by omega
  have hne : d.beat.st ≠ .holdover := by rcases hs with hs | hs <;> simp [hs]
  rw [← Dev.beatState_change hne]
  rcases hs with hs | hs <;> simp only [Dev.countMissing, hs, h8, if_true]

theorem Dev.countMissing_idle (hs : d.beat.st = .holdover ∨ d.beat.st = .slipped) : d.countMissing = d := by
  rcases hs with hs | hs <;> simp only [Dev.countMissing, hs]

/-! The windows of R34, in sixteenths of a tick. -/

theorem Beat.inWindow_locked {b : Beat} {p : Int} (hs : b.st = .locked) : b.inWindow p = decide (p.natAbs ≤ 32 * 16) := by
  simp [Beat.inWindow, hs]

theorem Beat.inWindow_holdover {b : Beat} {p : Int} (hs : b.st = .holdover) : b.inWindow p = decide (p.natAbs ≤ 64 * 16) := by
  simp [Beat.inWindow, hs]

theorem Beat.inWindow_locked_ticks {b : Beat} {p : Int} (hs : b.st = .locked) : b.inWindow (16 * p) = decide (p.natAbs ≤ 32) := by
  rw [Beat.inWindow_locked hs, decide_eq_decide]; omega

theorem Beat.inWindow_slewing_ticks {b : Beat} {p : Int} (hs : b.st = .slewing) :
    b.inWindow (16 * p) = decide ((p - b.phase).natAbs ≤ 32) := by
  simp only [Beat.inWindow, hs, decide_eq_decide]; omega

theorem Beat.inWindow_holdover_ticks {b : Beat} {p : Int} (hs : b.st = .holdover) : b.inWindow (16 * p) = decide (p.natAbs ≤ 64) := by
  rw [Beat.inWindow_holdover hs, decide_eq_decide]; omega

/-! An edge (R33, R34). -/

theorem beatEdge_idle (h : d.power.inReset = true ∨ d.aux.strapBeat = true) : beatEdge d phase hz = d := by
  rcases h with h | h <;> simp [beatEdge, h]

/-- No relock waits: the edge is judged by the state in force. -/
theorem beatEdge_judged (hr : d.power.inReset = false) (hp : d.aux.strapBeat = false) (hl : d.beat.lockDue = false)
    (ha : ∀ y ∈ d.beat.syncs, y.armed = false) : beatEdge d phase hz = d.judgeEdge phase hz := by
  have hnone : d.beat.syncs.find? (fun s => s.armed && s.relock) = none := List.find?_eq_none.2 (fun y hy => by simp [ha y hy])
  simp [beatEdge, hr, hp, hl, hnone]

theorem Dev.judgeEdge_free (hs : d.beat.st = .free) : d.judgeEdge phase hz = d.freeValid 0 hz none := by
  simp only [Dev.judgeEdge, hs]

theorem Dev.judgeEdge_slipped (hs : d.beat.st = .slipped) :
    d.judgeEdge phase hz = { d with beat := { d.beat with phase } } := by
  simp only [Dev.judgeEdge, hs, Dev.seePhase]

theorem Dev.judgeEdge_holdover (hs : d.beat.st = .holdover) : d.judgeEdge phase hz =
    if phase.natAbs ≤ 64 then d.present phase 0 hz else (d.seePhase phase).beatState .slipped := by
  simp only [Dev.judgeEdge, hs, Beat.inWindow_holdover_ticks hs, decide_eq_true_eq]

theorem Dev.judgeEdge_locked (hs : d.beat.st = .locked) : d.judgeEdge phase hz =
    if phase.natAbs ≤ 32 then d.present phase 0 hz else d.countMissing := by
  simp only [Dev.judgeEdge, hs, Beat.inWindow_locked_ticks hs, decide_eq_true_eq]

theorem Dev.judgeEdge_slewing (hs : d.beat.st = .slewing) : d.judgeEdge phase hz =
    if (phase - d.beat.phase).natAbs ≤ 32 then d.present phase 0 hz else d.countMissing := by
  simp only [Dev.judgeEdge, hs, Beat.inWindow_slewing_ticks hs, decide_eq_true_eq]

/-- An edge outside the window of LOCKED or SLEWING counts as missing. -/
theorem Dev.judgeEdge_outside (h : d.beat.st = .locked ∧ 32 < phase.natAbs ∨ d.beat.st = .slewing ∧ 32 < (phase - d.beat.phase).natAbs) :
    d.judgeEdge phase hz = d.countMissing := by
  rcases h with ⟨hs, hp⟩ | ⟨hs, hp⟩
  · rw [Dev.judgeEdge_locked hs, if_neg (by omega)]
  · rw [Dev.judgeEdge_slewing hs, if_neg (by omega)]

/-! A marker (R31, R33 to R35, R278). -/

/-- A marker of the source, with no `BEAT_SYNC` armed, is judged against the tick 0 nearest to its compensated time. -/
theorem beatMarkerReceive_judged {l launch beat : Nat} {arrival at_ : Int} {e : Dev} (hr : d.power.inReset = false)
    (hl : (d.link l).st = .up) (he : e = d.linkPerf l 7 1) (hstrap : e.aux.strapBeat = true) (hlink : l = e.key kBeatLink)
    (hdue : e.beat.lockDue = false) (ha : ∀ y ∈ e.beat.syncs, y.armed = false) (hat : at_ = arrival - (launch : Int) - (e.oneWay l : Int))
    (hhop : hop < 16) (hbeat : beat < 2 ^ 64) : beatMarkerReceive d l arrival launch beat hop hz =
      e.judgeMarker (nearestPhase at_) (e.beat.expected arrival at_) beat hop hz := by
  have hnone : e.beat.syncs.find? (fun s => s.armed && hop % 16 != 15 && e.beat.inWindow (nearestPhase at_)) = none :=
    List.find?_eq_none.2 (fun y hy => by simp [ha y hy])
  have hopEq : hop % 16 = hop := Nat.mod_eq_of_lt hhop
  have hbeatEq : beat % 2 ^ 64 = beat := Nat.mod_eq_of_lt hbeat
  subst he hat
  rw [beatMarkerReceive, if_neg (by simp [hr, hl]), if_neg (by simp [hstrap, ← hlink, hdue])]
  simp only [hnone]
  rw [hopEq, hbeatEq]

/-- A marker on a link that the package does not follow is counted, and no more (R29). -/
theorem beatMarkerReceive_elsewhere {l launch beat : Nat} {arrival : Int} {e : Dev} (hr : d.power.inReset = false)
    (hl : (d.link l).st = .up) (he : e = d.linkPerf l 7 1) (h : e.aux.strapBeat = false ∨ l ≠ e.key kBeatLink) :
    beatMarkerReceive d l arrival launch beat hop hz = e := by
  subst he
  have hidle : (!(d.linkPerf l 7 1).aux.strapBeat || decide (l ≠ (d.linkPerf l 7 1).key kBeatLink) ||
      (d.linkPerf l 7 1).beat.lockDue) = true := by
    rcases h with h | h <;> simp [h]
  rw [beatMarkerReceive, if_neg (by simp [hr, hl])]
  exact if_pos hidle

section
variable {own beat : Nat}

/-- A marker with hop count 15 counts as missing (R34). -/
theorem Dev.judgeMarker_hop15 : d.judgeMarker phase own beat 15 hz = d.countMissing := by
  simp [Dev.judgeMarker]

theorem Dev.judgeMarker_locked (hs : d.beat.st = .locked) (hh : hop ≠ 15) : d.judgeMarker phase own beat hop hz =
    if phase.natAbs ≤ 32 * 16 then (if beat = own then d.present (wholeTicks phase) (hop + 1) hz else d.beatState .slipped)
    else d.countMissing := by
  simp only [Dev.judgeMarker, hs, if_neg hh, Beat.inWindow_locked hs, Bool.not_eq_true', decide_eq_false_iff_not, ite_not, ne_eq]

theorem Dev.judgeMarker_holdover (hs : d.beat.st = .holdover) (hh : hop ≠ 15) : d.judgeMarker phase own beat hop hz =
    if 64 * 16 < phase.natAbs ∨ beat ≠ own then (d.seePhase (wholeTicks phase)).beatState .slipped
    else d.present (wholeTicks phase) (hop + 1) hz := by
  simp only [Dev.judgeMarker, hs, if_neg hh, Beat.inWindow_holdover hs, Bool.or_eq_true, Bool.not_eq_true', decide_eq_false_iff_not,
    Nat.not_le, decide_eq_true_eq]

theorem Dev.judgeMarker_slipped (hs : d.beat.st = .slipped) (hh : hop ≠ 15) :
    d.judgeMarker phase own beat hop hz = { d with beat := { d.beat with phase := wholeTicks phase } } := by
  simp only [Dev.judgeMarker, hs, if_neg hh, Dev.seePhase]

theorem Dev.judgeMarker_free (hs : d.beat.st = .free) (hh : hop ≠ 15) : d.judgeMarker phase own beat hop hz =
    d.freeValid (hop + 1) hz (some ((beat + beatAhead own (d.beat.now + 1)) % 2 ^ 64)) := by
  simp only [Dev.judgeMarker, hs, if_neg hh]

end

theorem beatMissing_counts (hr : d.power.inReset = false) : beatMissing d = d.countMissing := by simp [beatMissing, hr]

/-! `BEAT_SYNC` and a change of number (R38). -/

/-- A relock that waits takes the next edge, whatever its phase. -/
theorem beatEdge_relock {y : BeatSync} (hy : d.beat.syncs.find? (fun z => z.armed && z.relock) = some y) (hr : d.power.inReset = false)
    (hp : d.aux.strapBeat = false) (hl : d.beat.lockDue = false) :
    beatEdge d phase hz = d.relock y.handle d.beat.now y.value 0 0 hz := by
  simp [beatEdge, hr, hp, hl, hy]

theorem beatSyncLoad_load {y : BeatSync} (hy : d.beat.syncs.find? (fun z => !z.armed && z.load == d.beat.now) = some y)
    (hr : d.power.inReset = false) (hk : y.relock = false) (hp : d.aux.strapBeat = false) :
    beatSyncLoad d = ((d.dropSync y.handle).renumber y.load y.value).syncDone y.handle (y.value % 2 ^ 64) (beatAhead y.load y.value) := by
  simp [beatSyncLoad, hy, hr, hk, hp]

theorem beatSyncLoad_relock {y : BeatSync} (hy : d.beat.syncs.find? (fun z => !z.armed && z.load == d.beat.now) = some y)
    (hr : d.power.inReset = false) (hk : y.relock = true ∨ d.aux.strapBeat = true) :
    beatSyncLoad d = { d with
      beat := { d.beat with syncs := d.beat.syncs.map (fun z => if z.handle = y.handle then { z with armed := true } else z) } } := by
  simp [beatSyncLoad, hy, hr, hk]

theorem beatSyncTimeout_expired {y : BeatSync}
    (hy : d.beat.syncs.find? (fun z => z.armed && beatGe d.beat.now z.load && 8 ≤ beatAhead z.load d.beat.now) = some y) :
    beatSyncTimeout d = (d.dropSync y.handle).finish y.handle sAborted [] := by
  simp only [beatSyncTimeout, hy]

theorem Dev.rebase_zero (d : Dev) : d.rebase 0 = d := rfl

theorem Dev.rebase_moved {o : Nat} (d : Dev) (ho : o ≠ 0) : d.rebase o = ({ d with
    cal := d.cal.map (CalEntry.rebase o)
    beat := { d.beat with syncs := d.beat.syncs.map (fun s : BeatSync => { s with load := moveBeat o s.load }) }
    txns := d.txns.map (fun t => if Txn.pending t then { t with commit := moveBeat o (Txn.commit t) } else t) } : Dev).rebaseSteps o :=
  if_neg ho

/-- A renumbering changes of the Beat its number and what waits for a number. -/
theorem Dev.renumber_beat (d : Dev) (own n : Nat) : ∃ l, (d.renumber own n).beat = { d.beat with now := n % 2 ^ 64, syncs := l } := by
  unfold Dev.renumber
  by_cases ho : beatAhead own n = 0
  · rw [ho, Dev.rebase_zero]
    exact ⟨d.beat.syncs, rfl⟩
  · rw [Dev.rebase_moved d ho]
    exact ⟨_, rfl⟩

theorem Dev.lock_beat (d : Dev) : ∃ m v, d.lock.beat = { d.beat with st := .locked, missing := m, valid := v, lockedOnce := true } := by
  rw [Dev.lock_eq]
  by_cases hs : d.beat.st = .locked
  · exact ⟨d.beat.missing, d.beat.valid, by rw [Dev.beatState_same hs, ← hs]⟩
  · exact ⟨0, 0, by rw [Dev.beatState_change hs, Dev.eventAll_beat]⟩

@[simp] theorem Dev.syncDone_beat (d : Dev) (h n o : Nat) : (d.syncDone h n o).beat = (d.dropSync h).beat := by
  obtain ⟨fs, hs, he⟩ := (d.dropSync h).finishAt_frame h sOk n [fld o 0 32, fld o 32 32] false
  rw [Dev.syncDone, he]

/-- The beat after a relock (R38). -/
theorem Dev.relock_beat (d : Dev) (h own n after hop hz : Nat) : ∃ (m v : Nat) (l : List BeatSync),
    (d.relock h own n after hop hz).beat =
    { d.beat with
      now := (n + after) % 2 ^ 64, st := .locked, missing := m, valid := v, phase := 0, hop, hz, lockedOnce := true
      syncs := l.filter (fun s : BeatSync => s.handle != h) } := by
  let d₁ : Dev := { d with beat := { d.beat with phase := 0, hop, hz, missing := 0 } }
  obtain ⟨l, hl⟩ := d₁.renumber_beat own n
  obtain ⟨m, v, hk⟩ := ((d₁.renumber own n).modBeat (fun b => { b with now := (n + after) % 2 ^ 64 })).lock_beat
  refine ⟨m, v, l, ?_⟩
  have hd : (d.relock h own n after hop hz).beat =
      (((d₁.renumber own n).modBeat (fun b => { b with now := (n + after) % 2 ^ 64 })).lock.dropSync h).beat := Dev.syncDone_beat _ _ _ _
  rw [hd, Dev.dropSync, hk, Dev.modBeat, hl]

end

end Sys2Proof.Machine
end

section
/-! SUPPORT. What the work that follows tick 0 keeps: the beat's number and every event bit that is set, while markers leave on the
links (R30, R266, R278); how times compare (R39); and the boundary of a group that still runs a step (R44). -/

namespace Sys2Proof.Machine

open Sys2Proof

/-! Times (R39). -/

theorem beatGe_iff (a b : Nat) : beatGe b a = true ↔ ((b : Int) - a) % 2 ^ 64 < 2 ^ 63 := by
  refine decide_eq_true_iff.trans ?_
  rw [beatAhead]
  omega

/-! Bits that are set (R6). -/

/-- Setting bit `i` leaves every other bit. -/
theorem bit_setBit_true (v i j : Nat) : bit (setBit v i true) j = (bit v j || j == i) := by
  have hlow : v % 2 ^ i < 2 ^ i := Nat.mod_lt _ (Nat.two_pow_pos i)
  have hv : v = 2 ^ i * (v / 2 ^ i) + v % 2 ^ i := (Nat.div_add_mod v (2 ^ i)).symm
  have hset : setBit v i true = 2 ^ i * (2 * (v / 2 ^ i / 2) + 1) + v % 2 ^ i := by
    have hq : v / 2 ^ i = 2 * (v / 2 ^ i / 2) + v / 2 ^ i % 2 := by omega
    have hle : 2 ^ i * (v / 2 ^ i % 2) ≤ 2 ^ i * (v / 2 ^ i) := Nat.mul_le_mul_left _ (Nat.mod_le _ _)
    have hmul : 2 ^ i * (v / 2 ^ i) = 2 ^ i * (2 * (v / 2 ^ i / 2)) + 2 ^ i * (v / 2 ^ i % 2) := by rw [← Nat.mul_add, ← hq]
    have hone : true.toNat % 2 ^ 1 * 2 ^ i = 2 ^ i := Nat.one_mul _
    rw [setBit, setFld, fld, hone, Nat.pow_one, Nat.mul_add, Nat.mul_one, Nat.mul_comm (v / 2 ^ i % 2)]
    omega
  rw [bit_eq_testBit, bit_eq_testBit, hset, Nat.testBit_two_pow_mul_add _ hlow]
  conv_rhs => rw [hv, Nat.testBit_two_pow_mul_add _ hlow]
  rcases Nat.lt_trichotomy j i with h | h | h
  · simp [h, Nat.ne_of_lt h]
  · subst h
    simp
  · obtain ⟨k, rfl⟩ : ∃ k, j = i + (k + 1) := ⟨j - i - 1, by omega⟩
    have hdiv : (2 * (v / 2 ^ i / 2) + 1) / 2 = v / 2 ^ i / 2 := by omega
    have hsub : i + (k + 1) - i = k + 1 := by omega
    simp only [Nat.not_lt_of_gt h, if_false, hsub, Nat.testBit_succ, hdiv, beq_eq_false_iff_ne.2 (Nat.ne_of_gt h),
      Bool.or_false]

/-! What keeps the number and the events. -/

/-- `e` has the beat number of `d` and every event bit that is set in `d`. -/
def Dev.KeepsEvents (d e : Dev) : Prop :=
  e.beat.now = d.beat.now ∧ ∀ f i, bit (d.func f).event i = true → bit (e.func f).event i = true

namespace Dev.KeepsEvents

theorem refl (d : Dev) : d.KeepsEvents d := ⟨rfl, fun _ _ h => h⟩

theorem trans {d e g : Dev} (h : d.KeepsEvents e) (h' : e.KeepsEvents g) : d.KeepsEvents g :=
  ⟨h'.1.trans h.1, fun f i hb => h'.2 f i (h.2 f i hb)⟩

theorem ite {d x y : Dev} {c : Prop} [Decidable c] (hx : d.KeepsEvents x) (hy : d.KeepsEvents y) :
    d.KeepsEvents (if c then x else y) := by
  split_ifs
  · exact hx
  · exact hy

theorem foldl {α : Type} {g : Dev → α → Dev} (hg : ∀ (d : Dev) (a : α), d.KeepsEvents (g d a)) (d : Dev) (l : List α) :
    d.KeepsEvents (l.foldl g d) :=
  List.foldlRecOn l g (refl d) (fun e he a _ => he.trans (hg e a))

/-- A change elsewhere than in the functions and the number. -/
theorem of_funcs {d e : Dev} (hn : e.beat.now = d.beat.now) (hf : e.funcs = d.funcs) : d.KeepsEvents e :=
  ⟨hn, fun f i h => by rw [Dev.func, hf]; exact h⟩

theorem modLink (d : Dev) (l : Nat) (g : Link → Link) : d.KeepsEvents (d.modLink l g) := of_funcs rfl rfl

theorem emit (d : Dev) (o : Out) : d.KeepsEvents (d.emit o) := of_funcs rfl rfl

theorem errAdd (d : Dev) (die core i n : Nat) : d.KeepsEvents (d.errAdd die core i n) := by
  obtain ⟨t, h⟩ := d.errAdd_frame die core i n
  rw [h]
  exact of_funcs rfl rfl

/-! Events (R342, R496). -/

theorem modFunc {d : Dev} {f : Nat} {g : Func → Func} (hg : ∀ i, bit (d.func f).event i = true → bit (g (d.func f)).event i = true) :
    d.KeepsEvents (d.modFunc f g) := by
  refine ⟨rfl, fun e i h => ?_⟩
  rw [Dev.func_modFunc]
  split_ifs with he
  · subst he
    exact hg i h
  · exact h

theorem vector (d : Dev) (f v : Nat) : d.KeepsEvents (d.vector f v) := by
  unfold Dev.vector
  refine ite ?_ (refl d)
  split
  · exact ite (modFunc (fun _ h => h)) (emit d _)
  · exact refl d

theorem event (d : Dev) (f b v : Nat) : d.KeepsEvents (d.event f b v) :=
  trans (modFunc (fun i h => by rw [bit_setBit_true, h, Bool.true_or])) (vector _ f v)

theorem eventAll (d : Dev) (b v : Nat) : d.KeepsEvents (d.eventAll b v) :=
  foldl (g := fun d (q : Nat × Func) => d.event q.1 b v) (fun d q => event d q.1 b v) d _

theorem signalFault (d : Dev) (p : Nat) : d.KeepsEvents (d.signalFault p) := by
  unfold Dev.signalFault
  refine trans ?_ (event _ 0 1 1)
  split
  · exact ite (refl d) (event d _ 1 1)
  · exact refl d

theorem faultRoom (d : Dev) : d.KeepsEvents d.faultRoom := by
  obtain ⟨l, t, h⟩ := d.faultRoom_frame
  rw [h]
  exact of_funcs rfl rfl

theorem faults (d : Dev) (l : Faults) : d.KeepsEvents { d with faults := l } := of_funcs rfl rfl

theorem notice (d : Dev) (code die core pasture info : Nat) : d.KeepsEvents (d.notice code die core pasture info) :=
  ((faultRoom d).trans (faults _ _)).trans (signalFault _ pasture)

theorem perf (d : Dev) (p : Tab Perf) : d.KeepsEvents { d with perf := p } := of_funcs rfl rfl

theorem perfAdd (d : Dev) (die core g i n : Nat) : d.KeepsEvents (d.perfAdd die core g i n) := by
  unfold Dev.perfAdd
  dsimp only
  refine ite (refl d) ?_
  split
  · exact (perf d _).trans (notice _ _ _ _ _ _)
  · exact perf d _

theorem linkPerf (d : Dev) (l i n : Nat) : d.KeepsEvents (d.linkPerf l i n) := perfAdd d _ _ _ _ _

theorem linkErr (d : Dev) (l i n : Nat) : d.KeepsEvents (d.linkErr l i n) := errAdd d _ _ _ _

/-! What leaves on a link (R261, R266 to R272, R278). -/

theorem freeEntry (d : Dev) (inn : Option (Nat × Nat)) : d.KeepsEvents (d.freeEntry inn) := by
  cases inn with
  | none => exact refl d
  | some q => exact modLink d q.1 _

theorem putStream (d : Dev) (l : Nat) (f : List Byte) : d.KeepsEvents (d.putStream l f) := by
  unfold Dev.putStream
  refine (foldl (fun d g => ?_) d _).trans (modLink _ l _)
  dsimp only
  split
  · exact modLink d l _
  · exact (modLink d l _).trans (emit _ _)

theorem sendFlit (d : Dev) (l : Nat) (f : List Byte) : d.KeepsEvents (d.sendFlit l f) :=
  ((modLink d l _).trans (emit _ _)).trans (putStream _ l f)

theorem sendCtl (d : Dev) (l : Nat) (nak : Option Bool) : d.KeepsEvents (d.sendCtl l nak) := (sendFlit d l _).trans (modLink _ l _)

theorem sendData (d : Dev) (l v : Nat) : d.KeepsEvents (d.sendData l v) := by
  unfold Dev.sendData
  dsimp only
  split
  · split
    · exact ((((modLink d l _).trans (linkPerf _ l 0 1)).trans (linkPerf _ l 6 _)).trans (sendFlit _ l _)).trans (freeEntry _ _)
    · exact refl d
  · exact refl d

theorem ite_fst {d : Dev} {x y : Dev × Bool} {c : Prop} [Decidable c] (hx : d.KeepsEvents x.1) (hy : d.KeepsEvents y.1) :
    d.KeepsEvents (if c then x else y).1 := by
  split_ifs
  · exact hx
  · exact hy

/-- One arm for each kind of flit, in the order of R266. -/
theorem linkSlot (d : Dev) (l : Nat) : d.KeepsEvents (d.linkSlot l).1 := by
  unfold Dev.linkSlot
  dsimp only
  refine ite_fst (refl d) ?_
  split
  · exact (modLink d l _).trans (sendFlit _ l _)
  refine ite_fst ((modLink d l _).trans (ite ((linkErr _ l 2 1).trans (sendCtl _ l _)) (refl _))) ?_
  split
  · dsimp only
    split
    · exact ((modLink d l _).trans (sendFlit _ l _)).trans (linkPerf _ l 2 1)
    · exact modLink d l _
  refine ite_fst (sendCtl d l none) (ite_fst (refl d) ?_)
  split
  · exact linkPerf d l 3 _
  · exact (linkPerf d l 3 _).trans (sendData _ l _)

theorem linkPump (d : Dev) (l n : Nat) : d.KeepsEvents (d.linkPump l n) := by
  induction n generalizing d with
  | zero => exact refl d
  | succ n ih => exact ite ((linkSlot d l).trans (ih _)) (linkSlot d l)

theorem sendMarker (d : Dev) (l launch : Nat) : d.KeepsEvents (d.sendMarker l launch) :=
  ite ((modLink d l _).trans (linkPump _ l _)) (refl d)

/-! The Beat (R30, R33, R36). -/

theorem beatState (d : Dev) (s : BeatState) : d.KeepsEvents (d.beatState s) :=
  ite (refl d) (trans (of_funcs rfl rfl) (eventAll _ 3 2))

theorem lock (d : Dev) : d.KeepsEvents d.lock := (beatState d .locked).trans (of_funcs rfl rfl)

theorem settleSlew (d : Dev) : d.KeepsEvents d.settleSlew := ite (lock d) (refl d)

end Dev.KeepsEvents

/-! An event on every enabled function (R342). -/

theorem Tab.mem_of_get? {α : Type} {t : Tab α} {k : Nat} {v : α} (h : Tab.get? t k = some v) : (k, v) ∈ t := by
  induction t with
  | nil => cases h
  | cons p t ih =>
    obtain ⟨j, w⟩ := p
    rw [Tab.get?] at h
    split_ifs at h with h1
    · obtain rfl := Option.some.inj h
      simp [h1]
    · exact List.mem_cons_of_mem _ (ih h)

/-- An enabled function is listed: a VF that is not does not exist (R339). -/
theorem Dev.enabled_mem {d : Dev} {f : Nat} (h : (d.func f).enabled = true) : ∃ x : Func, (f, x) ∈ d.funcs ∧ x.enabled = true := by
  cases hx : Tab.get? d.funcs f with
  | none => simp [Dev.func, Tab.getD, hx] at h
  | some x => exact ⟨x, Tab.mem_of_get? hx, by simpa [Dev.func, Tab.getD, hx] using h⟩

theorem Dev.event_bit (d : Dev) (f b v : Nat) : bit ((d.event f b v).func f).event b = true :=
  (Dev.KeepsEvents.vector _ f v).2 f b (by rw [Dev.func_modFunc_same, bit_setBit_true, beq_self_eq_true, Bool.or_true])

/-- Each function of the list has the event, whatever events come after its own. -/
theorem Dev.bit_foldl_event {b v f : Nat} {x : Func} {l : List (Nat × Func)} (d : Dev) (h : (f, x) ∈ l) :
    bit ((l.foldl (fun d q => d.event q.1 b v) d).func f).event b = true := by
  induction l generalizing d with
  | nil => cases h
  | cons q l ih =>
    rw [List.foldl_cons]
    rcases List.mem_cons.1 h with rfl | h
    · have hlater : (d.event f b v).KeepsEvents (l.foldl (fun d q => d.event q.1 b v) (d.event f b v)) :=
        .foldl (g := fun d (q : Nat × Func) => d.event q.1 b v) (fun d q => .event d q.1 b v) _ l
      exact hlater.2 f b (d.event_bit f b v)
    · exact ih _ h

theorem Dev.eventAll_bit {d : Dev} {f : Nat} (b v : Nat) (h : (d.func f).enabled = true) :
    bit ((d.eventAll b v).func f).event b = true := by
  obtain ⟨x, hx, he⟩ := Dev.enabled_mem h
  exact d.bit_foldl_event (List.mem_filter.2 ⟨hx, he⟩)

/-! Tick 0 (R34, R39). -/

/-- The next number, one more modulo 2^64, with the remaining phase error a tick smaller (R34, R36). -/
def Dev.ticked (d : Dev) : Dev :=
  { d with beat := { d.beat with
      now := (d.beat.now + 1) % 2 ^ 64, jump := none, lockDue := false, hz := d.beat.rate
      phase := if d.beat.st == BeatState.locked || d.beat.st == BeatState.slewing then d.beat.phase - d.beat.phase.sign else d.beat.phase } }

/-- The beat is repeated on `BEAT_OUT` and on every trained link (R30). -/
def Dev.repeatBeat (d : Dev) (launch : List Nat) : Dev :=
  if d.beat.lockedOnce then
    (List.range 6).foldl (fun d l => d.sendMarker l (launch.getD l 0)) (d.emit (.beatOut d.beat.now))
  else d

/-- Tick 0 with no jump waiting. -/
theorem beatTick0_ticks {d : Dev} (launch : List Nat) (hr : d.power.inReset = false) (hj : d.beat.jump = none) :
    beatTick0 d launch =
      (if (d.beat.now + 1) % 2 ^ 64 = 0 then d.ticked.eventAll 5 2 else d.ticked).settleSlew.repeatBeat launch := by
  rw [beatTick0, if_neg (by simp [hr]), hj]
  rfl

theorem Dev.KeepsEvents.repeatBeat (d : Dev) (launch : List Nat) : d.KeepsEvents (d.repeatBeat launch) :=
  ite ((emit d _).trans (foldl (g := fun d l => d.sendMarker l (launch.getD l 0)) (fun d l => sendMarker d l _) _ _)) (refl d)

/-- What follows the new number and its event keeps both. -/
theorem beatTick0_keeps {d : Dev} (launch : List Nat) (hr : d.power.inReset = false) (hj : d.beat.jump = none) :
    Dev.KeepsEvents (if (d.beat.now + 1) % 2 ^ 64 = 0 then d.ticked.eventAll 5 2 else d.ticked) (beatTick0 d launch) := by
  rw [beatTick0_ticks launch hr hj]
  exact (Dev.KeepsEvents.settleSlew _).trans (.repeatBeat _ launch)

/-! The boundary of a group that runs a step (R44, R45). -/

/-- The Calendar after a step-start entry `e` of group `g` has fired: it stands one period later (R42, R44). -/
def Dev.startMoved (d : Dev) (g : Nat) (e : CalEntry) : Dev :=
  { d with cal := d.cal.map (fun c : CalEntry =>
      if c.action = 1 && c.group = g then { c with beat := (e.beat + max 1 (e.arg % 2 ^ 24)) % 2 ^ 64 } else c) }

/-- No function is under reset: a boundary ends none. -/
theorem Dev.flrBoundary_none {d : Dev} (g : Nat) (h : ∀ q ∈ d.funcs, q.2.flr = false) : d.flrBoundary g = d := by
  have hnil : d.funcs.filter (fun q => q.2.flr && q.2.flrWait.contains g) = [] :=
    List.filter_eq_nil_iff.2 (fun q hq => by simp [h q hq])
  rw [Dev.flrBoundary, hnil, List.foldl_nil]

/-- A group after a boundary at `b`: its notices have taken effect (R45). -/
def Group.noticed (x : Group) (b : Nat) : Group :=
  let back := (x.peersJoin.filter (fun j => beatGe b j.2)).map Prod.fst
  { x with
    leaves := []
    peersJoin := x.peersJoin.filter (fun j => !beatGe b j.2)
    peersLeft := (x.peersLeft ++ x.leaves.map Prod.fst).filter (fun a => !back.contains a) }

/-- Without leave notices no peer leaves at a boundary. -/
theorem Dev.peerNotices_none {d : Dev} {g : Nat} (b : Nat) (h : (d.group g).leaves = []) :
    d.peerNotices g b = (d.modGroup g (fun x => x.noticed b), false) := by
  simp only [Dev.peerNotices, h, List.foldl_nil, List.any_nil]
  rfl

@[simp] theorem Dev.group_modGroup_same (d : Dev) (g : Nat) (f : Group → Group) : (d.modGroup g f).group g = f (d.group g) := by
  simp [Dev.group, Dev.modGroup]

theorem Dev.overrun_cal (d : Dev) (g : Nat) : (d.overrun g).cal = d.cal := by
  obtain ⟨fs, o, h⟩ := (d.modGroup g (fun x => { x with overruns := satAdd 16 x.overruns 1 })).stepEvent_frame (d.group g).pasture
  rw [Dev.overrun, h]
  rfl

/-- The first and second boundaries in succession during a step are passed (R44). -/
theorem Dev.busyBoundary_passed {d : Dev} {g : Nat} (h : (d.group g).passed < 2) :
    d.busyBoundary g = (d.modGroup g (fun x => { x with passed := (d.group g).passed + 1 })).overrun g :=
  if_neg (by omega)

/-- A boundary that comes while the group's step runs is busy: nothing but its Calendar entry and its peers has changed before. -/
theorem Dev.boundary_running {d : Dev} {g : Nat} {e : CalEntry} (x : StepFacts) (he : d.startEntry g = some e)
    (hf : ∀ q ∈ d.funcs, q.2.flr = false) (hl : (d.group g).leaves = []) (hu : (d.group g).unloading = false)
    (hj : (d.group g).rejoin = none) (hs : (d.group g).spans = false) (hrun : (d.group g).running = true) :
    d.boundary g x = ((d.startMoved g e).modGroup g (fun y => y.noticed e.beat)).busyBoundary g := by
  have hflr : (d.startMoved g e).flrBoundary g = d.startMoved g e := Dev.flrBoundary_none g hf
  have hnotices := Dev.peerNotices_none (d := d.startMoved g e) e.beat hl
  have hgroup : ((d.startMoved g e).modGroup g (fun y => y.noticed e.beat)).group g = (d.group g).noticed e.beat :=
    Dev.group_modGroup_same _ _ _
  have hunl : ((d.group g).noticed e.beat).unloading = false := hu
  have hrej : ((d.group g).noticed e.beat).rejoin = none := hj
  have hspan : ((d.group g).noticed e.beat).spans = false := hs
  have hr : ((d.group g).noticed e.beat).running = true := hrun
  rw [Dev.boundary, he]
  simp only
  rw [← Dev.startMoved, hflr, hnotices]
  simp [hgroup, hunl, hrej, hspan, hr]

end Sys2Proof.Machine
end

section
/-! The statements on the Beat. -/

namespace Sys2Proof.Machine

open Sys2Proof

/-- Settles O34: what follows tick 0 keeps the number and the events, and a running group's boundary moves its step-start entry. -/
theorem beatNumberWrapsModulo64Bits : Obligations.BeatNumberWrapsModulo64Bits := by
  unfold Obligations.BeatNumberWrapsModulo64Bits
  refine ⟨?tick, beatGe_iff, ?grid⟩
  case tick =>
    intro s launch hr hj
    have hk := beatTick0_keeps launch hr hj
    refine ⟨beatTick0 s.dev launch, exec_beatTick0 launch s, ?_, fun h0 f hf => ?_⟩
    · rw [hk.1]
      split_ifs
      · rw [Dev.eventAll_beat]; rfl
      · rfl
    · rw [if_pos h0] at hk
      exact hk.2 f 5 (Dev.eventAll_bit 5 2 hf)
  case grid =>
    intro d g x e he hrun hu hj hl hs hf c hc ha hg hp
    rw [Dev.boundary_running x he hf hl hu hj hs hrun, Dev.busyBoundary_passed (by rw [Dev.group_modGroup_same]; exact hp), Dev.overrun_cal]
    exact List.mem_map.2 ⟨c, hc, by simp [ha, hg]⟩

/-- Settles O35: an edge with no relock waiting is judged by the state in force, a missing one counts, and each state has its lemma. -/
theorem beatStateFollowsEdges : Obligations.BeatStateFollowsEdges := by
  unfold Obligations.BeatStateFollowsEdges
  refine ⟨?edge, ?elsewhere, ?missing⟩
  case edge =>
    rintro s phase hz hr hp hl ha b rfl
    rw [exec_beatEdge, beatEdge_judged hr hp hl ha]
    refine ⟨?freeMore, ?freeEighth, ?locked, ?slewing, ?slewed, ?outside, ?outsideEighth, ?near, ?back, ?away, ?slipped⟩
    case freeMore => intro hs hv; rw [Dev.judgeEdge_free hs, Dev.freeValid_more hv]
    case freeEighth => intro hs hv; exact ⟨_, by rw [Dev.judgeEdge_free hs, Dev.freeValid_eighth hs hv], rfl⟩
    case locked => intro hs hw; rw [Dev.judgeEdge_locked hs, if_pos hw, Dev.present_locked hs]
    case slewing => intro hs hw h1; rw [Dev.judgeEdge_slewing hs, if_pos hw, Dev.present_slewing hs h1]
    case slewed => intro hs hw h1; rw [Dev.judgeEdge_slewing hs, if_pos hw, Dev.present_slewed hs h1]
    case outside => intro ho hm; rw [Dev.judgeEdge_outside ho, Dev.countMissing_more (ho.imp And.left And.left) hm]
    case outsideEighth => intro ho hm; rw [Dev.judgeEdge_outside ho, Dev.countMissing_eighth (ho.imp And.left And.left) hm]
    case near => intro hs h1; rw [Dev.judgeEdge_holdover hs, if_pos (by omega), Dev.present_holdover_near hs h1]
    case back => intro hs h1 hw; rw [Dev.judgeEdge_holdover hs, if_pos hw, Dev.present_holdover hs h1]
    case away => intro hs hw; rw [Dev.judgeEdge_holdover hs, if_neg (by omega), Dev.slip_of_holdover hs]
    case slipped => intro hs; rw [Dev.judgeEdge_slipped hs]
  case elsewhere => intro s phase hz h; rw [exec_beatEdge, beatEdge_idle h, State.on_dev_self]
  case missing =>
    rintro s hr b rfl
    rw [exec_beatMissing, beatMissing_counts hr]
    refine ⟨fun hs => ?_, fun hs hm => ?_, fun hs hm => ?_, fun hs => ?_⟩
    · rw [Dev.countMissing_free hs]
    · rw [Dev.countMissing_more hs hm]
    · rw [Dev.countMissing_eighth hs hm]
    · rw [Dev.countMissing_idle hs, State.on_dev_self]

/-- Settles O36: a marker of the source is judged by `Dev.judgeMarker` in its compensated phase, and each state has its lemma. -/
theorem beatStateFollowsMarkers : Obligations.BeatStateFollowsMarkers := by
  unfold Obligations.BeatStateFollowsMarkers
  intro s l launch beat hop hz arrival at_ phase own e b hr hl he hb hat hphase hown
  rw [exec_beatMarkerReceive]
  refine ⟨fun h => by rw [beatMarkerReceive_elsewhere hr hl he h], fun hstrap hlink hdue ha hhop hbeat => ?_⟩
  subst hb
  have hjudge : beatMarkerReceive s.dev l arrival launch beat hop hz = e.judgeMarker phase own beat hop hz := by
    rw [beatMarkerReceive_judged hr hl he hstrap hlink hdue ha hat hhop hbeat, hphase, hown]
    rfl
  rw [hjudge]
  refine ⟨?followed, ?misnumbered, ?missed, ?back, ?away, ?slipped, ?eighth⟩
  case followed =>
    intro hs hh hw hn
    rw [Dev.judgeMarker_locked hs hh, if_pos hw, if_pos hn, Dev.present_locked hs]
    rfl
  case misnumbered =>
    intro hs hh hw hn
    rw [Dev.judgeMarker_locked hs hh, if_pos hw, if_neg hn, Dev.beatState_change (by simp [hs])]
  case missed =>
    intro hs hm hfew
    have hcount : e.judgeMarker phase own beat hop hz = e.countMissing := by
      by_cases hh : hop = 15
      · rw [hh, Dev.judgeMarker_hop15]
      · rw [Dev.judgeMarker_locked hs hh, if_neg (Nat.not_le.2 (hm.resolve_left hh))]
    rw [hcount, Dev.countMissing_more (.inl hs) hfew]
  case back =>
    intro hs hh hw hn h1
    rw [Dev.judgeMarker_holdover hs hh, if_neg (by simp [hn, hw]), Dev.present_holdover (phase := wholeTicks phase) hs h1]
    rfl
  case away =>
    intro hs hh ho
    rw [Dev.judgeMarker_holdover hs hh, if_pos ho, Dev.slip_of_holdover hs]
    rfl
  case slipped =>
    intro hs hh
    rw [Dev.judgeMarker_slipped hs hh]
    rfl
  case eighth =>
    intro hs hh hv
    exact ⟨_, by rw [Dev.judgeMarker_free hs hh, Dev.freeValid_eighth hs hv], rfl⟩

/-- Settles O37: the load, the wait and the expiry each follow the `BEAT_SYNC` that is found, `Dev.relock_beat` gives the beat after
a relock, and `Dev.rebase_moved` what a renumbering moves. -/
theorem beatSyncLoadsRelocksAndExpires : Obligations.BeatSyncLoadsRelocksAndExpires := by
  unfold Obligations.BeatSyncLoadsRelocksAndExpires
  refine ⟨?load, ?expiry, ?edge, ?relock, ?renumber⟩
  case load =>
    intro s y hy hr
    rw [exec_beatSyncLoad]
    exact ⟨fun hk hp => by rw [beatSyncLoad_load hy hr hk hp], fun hk => by rw [beatSyncLoad_relock hy hr hk]⟩
  case expiry =>
    intro s y hy
    rw [exec_beatSyncTimeout, beatSyncTimeout_expired hy]
    rfl
  case edge =>
    intro s phase hz y hy hr hp hl
    rw [exec_beatEdge, beatEdge_relock hy hr hp hl]
  case relock =>
    rintro d h own n after hop hz e rfl
    obtain ⟨m, v, l, hb⟩ := d.relock_beat h own n after hop hz
    rw [hb]
    exact ⟨rfl, rfl, rfl, rfl, fun y hy => by simpa using (List.mem_filter.1 hy).2⟩
  case renumber =>
    rintro d own n o rfl ho
    rw [Dev.renumber, Dev.rebase_moved d ho]
    exact ⟨rfl, rfl, rfl, rfl, rfl, rfl, rfl⟩

end Sys2Proof.Machine
end

section
/-! SUPPORT. What the services of the configuration, link, routing, beat and diagnostic commands answer where every check passes, and
what they read of a package whose mailbox has just taken the slot. -/

namespace Sys2Proof.Machine

open Sys2Proof

/-! What these commands and the ends of their work answer. -/

theorem exec_cfgCommit (c : Door) (s : State) : exec (.cfgCommit c) s = .next (s.on (s.dev.serve c 0x0104 svcCfgCommit)) := rfl
theorem exec_cfgRollback (c : Door) (s : State) : exec (.cfgRollback c) s = .next (s.on (s.dev.serve c 0x0105 svcCfgRollback)) := rfl
theorem exec_finalValidation (h : Nat) (s : State) : exec (.finalValidation h) s = .next (s.on (finalValidation s.dev h)) := rfl
theorem exec_cfgTransactionTimeout (h : Nat) (s : State) :
    exec (.cfgTransactionTimeout h) s = .next (s.on (cfgTimeout s.dev h)) := rfl
theorem exec_linkTrain (c : Door) (s : State) : exec (.linkTrain c) s = .next (s.on (s.dev.serve c 0x0801 svcLinkTrain)) := rfl
theorem exec_linkQuery (c : Door) (s : State) : exec (.linkQuery c) s = .next (s.on (s.dev.serve c 0x0802 svcLinkQuery)) := rfl
theorem exec_routeSet (c : Door) (s : State) : exec (.routeSet c) s = .next (s.on (s.dev.serve c 0x0803 svcRouteSet)) := rfl
theorem exec_beatSync (c : Door) (s : State) : exec (.beatSync c) s = .next (s.on (s.dev.serve c 0x0901 svcBeatSync)) := rfl
theorem exec_calQuery (c : Door) (s : State) : exec (.calQuery c) s = .next (s.on (s.dev.serve c 0x0902 svcCalQuery)) := rfl
theorem exec_diagBist (c : Door) (s : State) : exec (.diagBist c) s = .next (s.on (s.dev.serve c 0x0A01 svcDiagBist)) := rfl
theorem exec_diagMargin (c : Door) (s : State) : exec (.diagMargin c) s = .next (s.on (s.dev.serve c 0x0A02 svcDiagMargin)) := rfl
theorem exec_diagDump (c : Door) (s : State) : exec (.diagDump c) s = .next (s.on (s.dev.serve c 0x0A03 svcDiagDump)) := rfl
theorem exec_bistDone (h avg : Nat) (fails : List ItemFail) (ok : Bool) (s : State) :
    exec (.bistDone h avg fails ok) s = .next (s.on (bistDone s.dev h avg fails ok)) := rfl
theorem exec_marginingDone (pen idx : Nat) (m : Margins) (ok : Bool) (s : State) :
    exec (.marginingDone pen idx m ok) s = .next (s.on (marginingDone s.dev pen idx m ok)) := rfl

/-! What a taken slot leaves as it was: transactions, the Calendar, links, groups and the strap. -/

section
variable (d : Dev) (c : Door) (op : Nat)

theorem Dev.took_txnOf (h : Nat) : (d.took c op).txnOf h = d.txnOf h := by
  simp only [Dev.txnOf, Dev.took_txns]

theorem Dev.took_commits : (d.took c op).commits = d.commits := by
  obtain ⟨fs, h⟩ := d.took_eq c op; rw [h]

theorem Dev.took_commitEntry (t : Txn) : commitEntry (d.took c op) t = commitEntry d t := by
  obtain ⟨fs, h⟩ := d.took_eq c op; rw [h]; rfl

theorem Dev.took_calRoom (l : List Nat) (n : Nat) : (d.took c op).calRoom l n = d.calRoom l n := by
  obtain ⟨fs, h⟩ := d.took_eq c op; rw [h]; rfl

theorem Dev.took_validate (t : Txn) (b o : Nat) : (d.took c op).validate t b o = d.validate t b o := by
  obtain ⟨fs, h⟩ := d.took_eq c op; rw [h]; rfl

theorem Dev.took_link (l : Nat) : (d.took c op).link l = d.link l := by
  obtain ⟨fs, h⟩ := d.took_eq c op; rw [h]; rfl

theorem Dev.took_groups : (d.took c op).groups = d.groups := by
  obtain ⟨fs, h⟩ := d.took_eq c op; rw [h]

theorem Dev.took_aux : (d.took c op).aux = d.aux := by
  obtain ⟨fs, h⟩ := d.took_eq c op; rw [h]

theorem Dev.took_dieCal (die : Nat) : (d.took c op).dieCal die = d.dieCal die := by
  obtain ⟨fs, h⟩ := d.took_eq c op; rw [h]; rfl

theorem Dev.took_pastureOfDie (die : Nat) : (d.took c op).pastureOfDie die = d.pastureOfDie die := by
  simp only [Dev.pastureOfDie, Dev.took_pastureOfPen]

theorem Dev.took_dumpItems (kind p : Nat) : (d.took c op).dumpItems kind p = d.dumpItems kind p := by
  obtain ⟨fs, h⟩ := d.took_eq c op; rw [h]; rfl

end

/-! Configuration transactions (R46, R372 to R375, R379). -/

section
variable {d : Dev} {h : Nat} {t : Txn}

theorem Dev.txnOf_handle (ht : d.txnOf h = some t) : t.handle = h := by
  simpa using List.find?_some ht

theorem namedTxn_ok {c : Door} {foreign : Bool} (hh : namedHandle d c foreign = .ok h) (ht : d.txnOf h = some t) :
    namedTxn d c foreign = .ok t := by
  simp only [namedTxn, hh, ht, except_ok_bind, except_pure]

/-- The service of `CFG_COMMIT` up to the validation of its items, where the checks pass. -/
theorem svcCfgCommit_checked {c : Door} {u : Txn} (hh : checkHeader c 16 [(0, List.replicate 4 255), (8, List.replicate 8 255)] = .ok ())
    (hs : d.stopped = false) (hn : namedHandle d c false = .ok h) (ht : d.txnOf h = some t) (hp : t.pending = false)
    (hlo : 16 ≤ beatAhead d.beat.now (dp c 8 8)) (hhi : beatAhead d.beat.now (dp c 8 8) ≤ 2 ^ 24)
    (hu : u = { t with pending := true, commit := dp c 8 8, order := d.commits }) (hr : d.calRoom (commitEntry d u).dies 1 = true) :
    svcCfgCommit d c = match d.validate t (dp c 8 8) d.commits with
      | some (i, k, r) => .ok ({ handle := some h }, d.countCommit.rollBack t sRolledBack k r i false)
      | none => .ok ({ handle := some h }, (capEntries u ++ [commitEntry d u]).foldl Dev.calPlace (d.countCommit.modTxn h (fun _ => u))) := by
  have hrange : (decide (beatAhead d.beat.now (dp c 8 8) < 16) || decide (2 ^ 24 < beatAhead d.beat.now (dp c 8 8))) = false := by
    rw [decide_eq_false (Nat.not_lt.2 hlo), decide_eq_false (Nat.not_lt.2 hhi), Bool.or_self]
  have hroom : (!d.calRoom (commitEntry d u).dies 1) = false := by rw [hr, Bool.not_true]
  obtain rfl := Dev.txnOf_handle ht
  rw [hu] at hroom ⊢
  simp only [svcCfgCommit, hh, notStopped_ok hs, namedTxn_ok hn ht, hrange, hp, hroom, refuseIf_false, except_ok_bind, except_pure] <;> rfl

/-- The service of `CFG_ROLLBACK` where the checks pass. -/
theorem svcCfgRollback_ok {c : Door} (hh : checkHeader c 8 [(0, List.replicate 4 255)] = .ok ()) (hs : d.stopped = false)
    (hn : namedHandle d c true = .ok h) (ht : d.txnOf h = some t) (hv : t.validated = false) (hf : t.fired = false) :
    svcCfgRollback d c = .ok ({}, d.rollBack t sRolledBack 0 0 0 false) := by
  simp only [svcCfgRollback, hh, notStopped_ok hs, namedTxn_ok hn ht, hv, hf, Bool.or_self, refuseIf_false, except_ok_bind, except_pure]

/-- Four beats before its commit beat a pending transaction is validated once more (R46). -/
theorem finalValidation_due (ht : d.txnOf h = some t) (hp : t.pending = true) (hv : t.validated = false)
    (hb : (d.beat.now + 4) % 2 ^ 64 = t.commit) : finalValidation d h = match d.validate t t.commit t.order with
      | some (i, k, _) => d.rollBack t sRolledBack k 4 i false
      | none => d.modTxn h (fun t => { t with validated := true }) := by
  simp only [finalValidation, ht, hp, hv, hb, Bool.not_false, Bool.and_self, BEq.rfl, if_true] <;> rfl

theorem cfgTimeout_due (ht : d.txnOf h = some t) (hp : t.pending = false) (hb : 2 ^ 24 ≤ beatAhead t.touched d.beat.now) :
    cfgTimeout d h = (d.dropTxn h).finish h sTimeout [t.items.length] := by
  simp only [cfgTimeout, ht, hp, decide_eq_true hb, Bool.not_false, Bool.and_self, if_true]

end

/-! Links, routes and the Beat (R38, R274, R279, R387, R388). -/

section
variable {d : Dev} {c : Door}

/-- The service of `LINK_TRAIN` where the checks pass. -/
theorem svcLinkTrain_ok {e : Dev} {h : Nat} (hh : checkHeader c 8 [(0, [255, 1])] = .ok ()) (hf : c.func = 0) (hs : d.stopped = false)
    (hl : dp c 0 1 ≤ 5) (ht : (d.link (dp c 0 1)).st ≠ .training) (hr : d.handlesLeft 0 = true) (he : e = d.goDown (dp c 0 1))
    (hn : h = e.nextHandle 0) : svcLinkTrain d c = .ok ({ handle := some h },
      (e.opened 0 c.tag (.linkTrain (dp c 0 1))).modLink (dp c 0 1) (fun x =>
        { x with st := .training, handle := h, ask := dp c 1 1 == 1, bypass := false, reach := e.key (kReach + dp c 0 1) })) := by
  have hidle : ((d.link (dp c 0 1)).st == .training) = false := beq_eq_false_iff_ne.2 ht
  subst he hn
  simp only [svcLinkTrain, hh, pfOnly_ok hf, notStopped_ok hs, inRange_ok (Nat.zero_le _) hl, hidle, hf, handleRoom_ok hr, refuseIf_false,
    except_ok_bind, Dev.newHandle_eq, except_pure]
  rfl

/-- The result words of `LINK_QUERY` for link `l` (R387). -/
def Dev.linkWords (d : Dev) (l : Nat) : List Nat :=
  let x := d.link l
  [(match x.st with
    | .down => 0
    | .training => 1
    | .up => if x.txWidth < d.key (kLinkWidth + l) || x.rxWidth < d.key (kLinkWidth + l) then 3 else 2) +
    x.txWidth * 2 ^ 8 + x.rxWidth * 2 ^ 16 + x.reach % 4 * 2 ^ 24 + x.bypass.toNat * 2 ^ 26, x.rtt, x.rxOut % 2 ^ 64, fld x.rxOut 64 2]

theorem Dev.took_linkWords (d : Dev) (c : Door) (op l : Nat) : (d.took c op).linkWords l = d.linkWords l := by
  simp only [Dev.linkWords, Dev.took_link, Dev.took_key]

/-- The service of `LINK_QUERY` where the checks pass. -/
theorem svcLinkQuery_ok (hh : checkHeader c 8 [(0, [255])] = .ok ()) (hl : dp c 0 1 ≤ 5) :
    svcLinkQuery d c = .ok ({ res := d.linkWords (dp c 0 1) }, d) := by
  simp only [svcLinkQuery, hh, inRange_ok (Nat.zero_le _) hl, except_ok_bind, except_pure]
  rfl

/-- The service of `ROUTE_SET` where the checks pass. -/
theorem svcRouteSet_ok (hh : checkHeader c 16 [(0, [255, 15, 63, 7, 255, 15]), (8, List.replicate 8 255)] = .ok ()) (hf : c.func = 0)
    (hs : d.stopped = false) (hshape : ∀ i < 3, coord (dp c 0 2) i ≤ fld (dp c 2 1) (2 * i) 2)
    (hroles : ∀ i < 6, fld (dp c 4 2) (2 * i) 2 ≠ 3) (hbuf : dp c 8 8 % 64 = 0)
    (hg : ∀ g ∈ d.groups, g.2.exists_ = true → g.2.spans = true → g.2.left = true ∨ g.2.stopped = true) (hr : d.handlesLeft 0 = true) :
    svcRouteSet d c = .ok ({ handle := some (d.nextHandle c.func) },
      (d.opened c.func c.tag (.routeSet (dp c 0 2) (dp c 2 1) (dp c 3 1) (dp c 4 2))).emit
        (.hostRead 0 (dp c 8 8) 256 (d.nextHandle 0))) := by
  have hin : (List.range 3).any (fun i => coord (dp c 0 2) i > fld (dp c 2 1) (2 * i) 2) = false := by
    simpa using hshape
  have hrole : (List.range 6).any (fun i => fld (dp c 4 2) (2 * i) 2 == 3) = false := by
    simpa using hroles
  have hidle : d.groups.any (fun g => g.2.exists_ && g.2.spans && !g.2.left && !g.2.stopped) = false := by
    rw [List.any_eq_false]
    intro g hmem
    have hgo := hg g hmem
    cases he : g.2.exists_ <;> cases hsp : g.2.spans <;> simp
    exact fun hl => (hgo he hsp).resolve_left (by simp [hl])
  simp only [svcRouteSet, hh, pfOnly_ok hf, notStopped_ok hs, hin, hrole, aligned64_ok hbuf, hidle, hf, handleRoom_ok hr, refuseIf_false,
    except_ok_bind, Dev.newHandle_eq, except_pure]

/-- The service of `BEAT_SYNC` where the checks pass. -/
theorem svcBeatSync_ok (hh : checkHeader c 24 [(0, List.replicate 16 255 ++ [1])] = .ok ()) (hf : c.func = 0) (hs : d.stopped = false)
    (hr : d.handlesLeft 0 = true) (hge : beatGe (dp c 0 8) d.beat.now = true) (hahead : 4 ≤ beatAhead d.beat.now (dp c 0 8))
    (hstrap : d.aux.strapBeat = true → dp c 16 1 = 1 ∧ dp c 8 8 = 0) (hslip : dp c 16 1 ≠ 1 → d.beat.st ≠ .slipped) :
    svcBeatSync d c = .ok ({ handle := some (d.nextHandle c.func) },
      { d.opened c.func c.tag .beatSync with beat := { (d.opened c.func c.tag .beatSync).beat with
          syncs := (d.opened c.func c.tag .beatSync).beat.syncs ++
            [{ handle := d.nextHandle 0, load := dp c 0 8, value := dp c 8 8, relock := dp c 16 1 == 1 }] } }) := by
  have hload : (!(beatGe (dp c 0 8) d.beat.now && decide (4 ≤ beatAhead d.beat.now (dp c 0 8)))) = false := by
    rw [hge, decide_eq_true hahead]; rfl
  have hvalue : (d.aux.strapBeat && dp c 16 1 == 1 && dp c 8 8 != 0) = false := by
    cases h : d.aux.strapBeat
    · rfl
    · simp [(hstrap h).2]
  have hst : (!(dp c 16 1 == 1) && d.beat.st == .slipped) = false := by
    by_cases h : dp c 16 1 = 1
    · simp [h]
    · simp [hslip h]
  have hkind : (d.aux.strapBeat && !(dp c 16 1 == 1)) = false := by
    cases h : d.aux.strapBeat
    · rfl
    · simp [(hstrap h).1]
  simp only [svcBeatSync, hh, pfOnly_ok hf, notStopped_ok hs, hload, hvalue, hst, hkind, hf, handleRoom_ok hr, refuseIf_false,
    except_ok_bind, Dev.newHandle_eq, except_pure]

/-! Diagnostics (R40, R221, R388, R451 to R453). -/

/-- The answer of a command that ends at once, where a handle is left. -/
theorem Dev.answerBuf_ok {data : List Byte} {res : List Nat} (hr : d.handlesLeft c.func = true) :
    d.answerBuf c data res = .ok ({ handle := some (d.nextHandle c.func) },
      (if data.isEmpty then d.opened c.func c.tag .immediate
        else (d.opened c.func c.tag .immediate).hostPut (d.nextHandle c.func) (dp c 8 8) data c.hostOk).finish (d.nextHandle c.func) sOk res) := by
  simp only [Dev.answerBuf, handleRoom_ok hr, except_ok_bind, Dev.newHandle_eq, except_pure]

/-- A command whose service ends at once with its data. -/
theorem exec_acceptsData {i : Instr} {s : State} {op : Nat} {svc : Dev → Door → Svc} {data : List Byte} {res : List Nat}
    (hi : exec i s = .next (s.on (s.dev.serve c op svc))) (h : s.dev.hears c = true) (hr : s.dev.handlesLeft c.func = true)
    (hs : svc (s.dev.took c op) c = (s.dev.took c op).answerBuf c data res) :
    exec i s = .next (s.on (s.dev.acceptsData c op data res)) := by
  rw [Dev.answerBuf_ok (by rwa [Dev.took_handlesLeft])] at hs
  rw [Dev.acceptsData, ← s.dev.nextHandle_took c op]
  exact exec_accepts hi h hs

/-- The service of `CAL_QUERY` where the checks pass: the entries that pad the answer are zero and are not counted (R388). -/
theorem svcCalQuery_ok {l : List Nat} (hh : checkHeader c 16 [(0, [255, 255, 255, 255]), (8, List.replicate 8 255)] = .ok ())
    (hf : c.func = 0) (hdie : dp c 0 1 ≤ 39) (hlo : 1 ≤ dp c 2 2) (hhi : dp c 2 2 ≤ 256) (hend : dp c 1 1 + dp c 2 2 ≤ 256)
    (hbuf : dp c 8 8 % 64 = 0) (hl : l = (((d.dieCal (dp c 0 1)).map CalEntry.bits).drop (dp c 1 1)).take (dp c 2 2)) :
    svcCalQuery d c = d.answerBuf c ((l ++ List.replicate (dp c 2 2 - l.length) 0).flatMap (fun e => leBytes e 16))
      [(l.filter (· != 0)).length] := by
  have hpast : decide (256 < dp c 1 1 + dp c 2 2) = false := decide_eq_false (Nat.not_lt.2 hend)
  have hpad : ((l ++ List.replicate (dp c 2 2 - l.length) 0).filter (· != 0)).length = (l.filter (· != 0)).length := by
    simp
  simp only [svcCalQuery, hh, pfOnly_ok hf, inRange_ok (Nat.zero_le _) hdie, inRange_ok hlo hhi, hpast, aligned64_ok hbuf, refuseIf_false,
    except_ok_bind, ← hl, hpad]

/-- The service of `DIAG_BIST` where the checks pass. -/
theorem svcDiagBist_ok (hh : checkHeader c 24 (bufUsed [255, 255, 255, 255, 255, 255]) = .ok ()) (hf : c.func = 0) (hs : d.stopped = false)
    (hm : ∀ x ∈ maskList (dp c 0 5) 40, isCompute x = true ∧ d.pastureOfDie x = 31) (hlevel : dp c 5 1 ≤ 2) (hbuf : dp c 8 8 % 64 = 0)
    (hr : d.handlesLeft 0 = true) : svcDiagBist d c = .ok ({ handle := some (d.nextHandle c.func) },
      d.opened c.func c.tag (.diagBist (dp c 0 5) (dp c 5 1) (dp c 8 8) (dp c 16 4))) := by
  have hcompute : (maskList (dp c 0 5) 40).any (fun x => !isCompute x) = false := by
    simpa using fun x hx => (hm x hx).1
  have hfree : (maskList (dp c 0 5) 40).any (fun x => d.pastureOfDie x != 31) = false := by
    simpa using fun x hx => (hm x hx).2
  simp only [svcDiagBist, hh, pfOnly_ok hf, notStopped_ok hs, hcompute, inRange_ok (Nat.zero_le _) hlevel, aligned64_ok hbuf, hfree,
    handleRoom_ok (hf ▸ hr : d.handlesLeft c.func = true), refuseIf_false, except_ok_bind, Dev.newHandle_eq, except_pure]

/-- The service of `DIAG_MARGIN` where the checks pass. -/
theorem svcDiagMargin_ok (hh : checkHeader c 16 [(0, [255, 255, 1]), (8, List.replicate 8 255)] = .ok ()) (hf : c.func = 0)
    (hs : d.stopped = false) (hpen : dp c 0 1 ≤ 15) (hidx : dp c 1 1 ≤ 135) (hbuf : dp c 8 8 % 64 = 0)
    (hfree : d.pastureOfPen (dp c 0 1) = 31) (hr : d.handlesLeft 0 = true) :
    svcDiagMargin d c = .ok ({ handle := some (d.nextHandle c.func) },
      d.opened c.func c.tag (.diagMargin (dp c 0 1) (dp c 1 1) (bit (dp c 2 1) 0) (dp c 8 8))) := by
  simp only [svcDiagMargin, hh, pfOnly_ok hf, notStopped_ok hs, inRange_ok (Nat.zero_le _) hpen, inRange_ok (Nat.zero_le _) hidx,
    aligned64_ok hbuf, hfree, bne_self_eq_false, handleRoom_ok (hf ▸ hr : d.handlesLeft c.func = true), refuseIf_false, except_ok_bind,
    Dev.newHandle_eq, except_pure]

/-- Items whose first one fits the buffer. -/
theorem Dev.answerItems_fitting {l : List (List Byte)} (bytes : Bool) (h : ∀ x, l.head? = some x → x.length ≤ dp c 16 4) :
    d.answerItems c l bytes = d.answerBuf c (fitting (dp c 16 4) l).flatten
      [if bytes then (fitting (dp c 16 4) l).flatten.length else (fitting (dp c 16 4) l).length] := by
  cases l with
  | nil => rfl
  | cons x xs =>
    have hfit : decide (dp c 16 4 < x.length) = false := decide_eq_false (Nat.not_lt.2 (h x rfl))
    simp only [Dev.answerItems, List.head?_cons, hfit, refuseIf_false, except_ok_bind]

/-- The service of `DIAG_DUMP` where the checks pass. -/
theorem svcDiagDump_ok {p : Nat} (hh : checkHeader c 24 (bufUsed [255]) = .ok ()) (hkind : dp c 0 1 ≤ 3)
    (hpf : dp c 0 1 ≠ 1 → c.func = 0 ∧ p = 31) (hown : dp c 0 1 = 1 → d.pastureOf c.func = some p) (hbuf : dp c 8 8 % 64 = 0) :
    svcDiagDump d c = d.answerItems c (d.dumpItems (dp c 0 1) p) true := by
  by_cases hk : dp c 0 1 = 1
  · have hmay : (dp c 0 1 != 1 && c.func != 0) = false := by simp [hk]
    simp only [svcDiagDump, hh, hmay, if_pos hk, ownPasture_ok (hown hk), inRange_ok (Nat.zero_le _) hkind, aligned64_ok hbuf, refuseIf_false,
      except_ok_bind]
  · obtain ⟨hf, rfl⟩ := hpf hk
    have hmay : (dp c 0 1 != 1 && c.func != 0) = false := by simp [hf]
    simp only [svcDiagDump, hh, hmay, if_neg hk, inRange_ok (Nat.zero_le _) hkind, aligned64_ok hbuf, refuseIf_false, except_ok_bind]

end

/-! The ends of self-test and margining (R221, R449 to R453). -/

section
variable {d : Dev} {h m level buf len avg : Nat} {fails : List ItemFail} {ok : Bool}

/-- What the end of a `DIAG_BIST` does turns on its level. -/
theorem bistDone_of_work (hw : d.workOf h = some (.diagBist m level buf len)) : bistDone d h avg fails ok =
    if level = 2 then (d.burn m).2.2.finish h sOk [(d.burn m).1, (d.burn m).2.1]
    else if level = 1 && !d.bistFits m avg then d else d.bistEnd h m level buf len fails ok := by
  simp only [bistDone, hw]

/-- The end of the margining that the `DIAG_MARGIN` of handle `h` asked for, out of start-up. -/
theorem marginingDone_asked {pen idx : Nat} {write : Bool} {x : Handle} {g : Margins} (hpen : pen < 16) (hidx : idx < 136)
    (hr : d.power.inReset = false) (hs : d.power.startingUp = false) (hx : d.handles.find? (d.awaitsMargin pen idx) = some (h, x))
    (hw : x.work = .diagMargin pen idx write buf) : marginingDone d pen idx g ok =
      ((match write, d.marginTarget pen idx with
        | true, some q => d.zeroChannel pen q
        | _, _ => d).hostPut h buf (leBytes (marginRecord idx write g) 16) ok).finish h sOk [(marginsPass g write).toNat] := by
  have hin : (decide (16 ≤ pen) || decide (136 ≤ idx) || d.power.inReset) = false := by
    simp [Nat.not_le.2 hpen, Nat.not_le.2 hidx, hr]
  simp only [marginingDone, hin, hs, hx, hw]
  cases write
  · rfl
  · cases d.marginTarget pen idx <;> rfl

end

end Sys2Proof.Machine
end

section
/-! The statements on configuration transactions, links, routes and diagnostics. -/

namespace Sys2Proof.Machine

open Sys2Proof

/-- Settles O6: the commit follows the validation of its items, and each of the others its lemma. -/
theorem configurationTransactionsCommitAndRollBack : Obligations.ConfigurationTransactionsCommitAndRollBack := by
  unfold Obligations.ConfigurationTransactionsCommitAndRollBack
  refine ⟨?commit, ?rollback, ?final, ?timeout⟩
  case commit =>
    intro s c h t hd hh hs hn ht hp hlo hhi u hu hr
    have hsvc := svcCfgCommit_checked (d := s.dev.took c 0x0104) (u := u) hh (by rwa [Dev.took_stopped]) (by rwa [Dev.took_namedHandle])
      (by rwa [Dev.took_txnOf]) hp (by rwa [Dev.took_beat]) (by rwa [Dev.took_beat]) (by rwa [Dev.took_commits])
      (by rwa [Dev.took_commitEntry, Dev.took_calRoom])
    rw [Dev.took_commits, Dev.took_validate, Dev.took_commitEntry] at hsvc
    refine ⟨fun hv => ?_, fun i k r hv => ?_⟩
    · rw [exec_cfgCommit, Dev.serve_ok hd (by rw [hsvc, hv])]
      rfl
    · rw [exec_cfgCommit, Dev.serve_ok hd (by rw [hsvc, hv])]
      rfl
  case rollback =>
    intro s c h t hd hh hs hn ht hv hf
    rw [exec_cfgRollback, Dev.serve_answers (res := []) (eff := fun d => d.rollBack t sRolledBack 0 0 0 false) hd]
    exact svcCfgRollback_ok hh (by rwa [Dev.took_stopped]) (by rwa [Dev.took_namedHandle]) (by rwa [Dev.took_txnOf]) hv hf
  case final =>
    intro s h t ht hp hv hb
    rw [exec_finalValidation, finalValidation_due ht hp hv hb] <;> rfl
  case timeout =>
    intro s h t ht hp hb
    rw [exec_cfgTransactionTimeout, cfgTimeout_due ht hp hb]

/-- Settles O16: each service answers as its `_ok` lemma says, on the package whose mailbox has taken the slot. -/
theorem linkRouteAndSyncCommandsActAsAccepted : Obligations.LinkRouteAndSyncCommandsActAsAccepted := by
  unfold Obligations.LinkRouteAndSyncCommandsActAsAccepted
  refine ⟨?train, ?query, ?route, ?sync⟩
  case train =>
    intro s c hd hh hf hs hl ht hr e he h hn
    have hsvc := svcLinkTrain_ok (d := s.dev.took c 0x0801) hh hf (by rwa [Dev.took_stopped]) hl (by rwa [Dev.took_link])
      (by rwa [Dev.took_handlesLeft]) he hn
    rw [exec_linkTrain, Dev.serve_ok hd hsvc]
    rfl
  case query =>
    rintro s c x hd hh hl rfl
    have hsvc := svcLinkQuery_ok (d := s.dev.took c 0x0802) hh hl
    rw [Dev.took_linkWords] at hsvc
    rw [exec_linkQuery, Dev.serve_answers (eff := id) hd hsvc]
    rfl
  case route =>
    intro s c hd hh hf hs hshape hroles hbuf hg hr
    rw [← s.dev.nextHandle_took c 0x0803]
    refine exec_accepts (exec_routeSet c s) hd (svcRouteSet_ok hh hf ?_ hshape hroles hbuf ?_ ?_)
    all_goals simpa only [Dev.took_stopped, Dev.took_groups, Dev.took_handlesLeft]
  case sync =>
    intro s c hd hh hf hs hr hge hahead hstrap hslip
    rw [← s.dev.nextHandle_took c 0x0901]
    refine exec_accepts (exec_beatSync c s) hd (svcBeatSync_ok hh hf ?_ ?_ ?_ ?_ ?_ ?_)
    all_goals simpa only [Dev.took_stopped, Dev.took_handlesLeft, Dev.took_beat, Dev.took_aux]

/-- Settles O17: each service answers as its lemma says, on the package whose mailbox has taken the slot; the ends of self-test and
margining follow the command that waits for them. -/
theorem diagnosticCommandsActAsAccepted : Obligations.DiagnosticCommandsActAsAccepted := by
  unfold Obligations.DiagnosticCommandsActAsAccepted
  refine ⟨?cal, ?bist, ?margin, ?dump, ?bistEnd, ?marginEnd⟩
  case cal =>
    intro s c l hd hh hf hdie hlo hhi hend hbuf hr hl
    refine exec_acceptsData (exec_calQuery c s) hd (hf ▸ hr) (svcCalQuery_ok hh hf hdie hlo hhi hend hbuf ?_)
    rwa [Dev.took_dieCal]
  case bist =>
    intro s c hd hh hf hs hm hlevel hbuf hr
    refine exec_accepts (eff := id) (exec_diagBist c s) hd (svcDiagBist_ok hh hf ?_ ?_ hlevel hbuf ?_)
    all_goals simpa only [Dev.took_stopped, Dev.took_pastureOfDie, Dev.took_handlesLeft]
  case margin =>
    intro s c hd hh hf hs hpen hidx hbuf hfree hr
    refine exec_accepts (eff := id) (exec_diagMargin c s) hd (svcDiagMargin_ok hh hf ?_ hpen hidx hbuf ?_ ?_)
    all_goals simpa only [Dev.took_stopped, Dev.took_pastureOfPen, Dev.took_handlesLeft]
  case dump =>
    intro s c p l hd hh hkind hpf hown hbuf hl hfit hr
    refine exec_acceptsData (exec_diagDump c s) hd hr ?_
    rw [svcDiagDump_ok hh hkind hpf (by rwa [Dev.took_pastureOf]) hbuf, Dev.took_dumpItems, ← hl, Dev.answerItems_fitting true hfit]
    rfl
  case bistEnd =>
    intro s h m level buf len avg fails ok hw
    rw [exec_bistDone, bistDone_of_work hw]
    refine ⟨fun h2 => ?_, fun h2 hfits => ?_, fun h1 hfits => ?_⟩
    · rw [if_pos h2]
    · rw [if_neg h2, if_neg (by simpa using hfits)]
    · rw [if_neg (by omega), if_pos (by simp [h1, hfits]), State.on_dev_self]
  case marginEnd =>
    intro s pen idx h buf write x m ok hpen hidx hr hs hx hw
    rw [exec_marginingDone, marginingDone_asked hpen hidx hr hs hx hw] <;> rfl

end Sys2Proof.Machine
end

section
/-! SUPPORT. The sequencer: what an op word that issues leaves of its core, when each op of the sequencer goes on, and what releases a
sequencer that waits (R83, R84, R87, R92, R424). -/

namespace Sys2Proof.Machine

open Sys2Proof

/-! What the ops of the sequencer and their releases answer. -/

section
variable (die core : Nat) (s : State)

theorem exec_waitBeat (x : OpFacts) : exec (.waitBeat die core x) s = .next (s.on (waitBeat s.dev die core x)) := rfl
theorem exec_waitBeatRelease (tick : Nat) :
    exec (.waitBeatRelease die core tick) s = .next (s.on (waitBeatRelease s.dev die core tick)) := rfl
theorem exec_barrier (x : OpFacts) : exec (.barrier die core x) s = .next (s.on (barrier s.dev die core x)) := rfl
theorem exec_barrierPass (cycles : Nat) :
    exec (.barrierPass die core cycles) s = .next (s.on (barrierPass s.dev die core cycles)) := rfl
theorem exec_sequencerResume (cycles : Nat) :
    exec (.sequencerResume die core cycles) s = .next (s.on (sequencerResume s.dev die core cycles)) := rfl
theorem exec_skipIf (x : OpFacts) : exec (.skipIf die core x) s = .next (s.on (skipIf s.dev die core x)) := rfl
theorem exec_mark (x : OpFacts) : exec (.mark die core x) s = .next (s.on (mark s.dev die core x)) := rfl
theorem exec_endAct (x : OpFacts) : exec (.endAct die core x) s = .next (s.on (end_ s.dev die core x)) := rfl

end

/-! An op word that issues (R83, R96). -/

@[simp] theorem Dev.core_modCore_same (d : Dev) (k : Nat) (f : Core → Core) : (d.modCore k f).core k = f (d.core k) := by
  simp [Dev.core, Dev.modCore]

/-- `e` is `d` but for performance and error counters and the records and events of a counter's wrap (R437, R439). -/
def Dev.SameButCounts (d e : Dev) : Prop := ∃ p fl t fs o, e = { d with perf := p, faults := fl, errs := t, funcs := fs, out := o }

namespace Dev.SameButCounts

theorem refl (d : Dev) : d.SameButCounts d := ⟨_, _, _, _, _, rfl⟩

theorem trans {d e g : Dev} : d.SameButCounts e → e.SameButCounts g → d.SameButCounts g := by
  rintro ⟨_, _, _, _, _, rfl⟩ ⟨_, _, _, _, _, rfl⟩
  exact ⟨_, _, _, _, _, rfl⟩

theorem perfAdd (d : Dev) (die core g i n : Nat) : d.SameButCounts (d.perfAdd die core g i n) := d.perfAdd_frame die core g i n

theorem corePerf (d : Dev) (k g i n : Nat) : d.SameButCounts (d.corePerf k g i n) := perfAdd d _ _ _ _ _

/-- The accesses of an op to each stack that the world names. -/
theorem lanes (d : Dev) (l : List (Nat × Nat × Nat)) : d.SameButCounts
    (l.foldl (fun d q => if q.1 < 32 then (d.stackPerf q.1 2 q.2.1).stackPerf q.1 3 q.2.2 else d) d) := by
  refine List.foldlRecOn l _ (refl d) (fun e he q _ => ?_)
  split
  · exact he.trans ((perfAdd e _ _ _ _ _).trans (perfAdd _ _ _ _ _ _))
  · exact he

theorem countIssue (d : Dev) (k : Nat) (x : OpFacts) : d.SameButCounts (d.countIssue k x) :=
  ((((corePerf d k _ _ _).trans (corePerf _ k _ _ _)).trans (corePerf _ k _ _ _)).trans (lanes _ x.lanes)).trans (corePerf _ k _ _ _)

end Dev.SameButCounts

section
variable {d : Dev} {k die core code w : Nat} {x : OpFacts} {r : Run}

theorem Dev.issued_beat : (d.issued k x).beat = d.beat := by
  obtain ⟨p, fl, t, fs, o, h⟩ := Dev.SameButCounts.countIssue d k x
  rw [Dev.issued, h]
  rfl

theorem Dev.issued_group (g : Nat) : (d.issued k x).group g = d.group g := by
  obtain ⟨p, fl, t, fs, o, h⟩ := Dev.SameButCounts.countIssue d k x
  rw [Dev.issued, h]
  rfl

/-- Of its core an op word that issues advances the pc alone. -/
theorem Dev.issued_core : (d.issued k x).core k = { d.core k with run := (d.core k).run.map (fun r => { r with pc := r.pc + 1 }) } := by
  obtain ⟨p, fl, t, fs, o, h⟩ := Dev.SameButCounts.countIssue d k x
  rw [Dev.issued, h]
  exact Dev.core_modCore_same _ _ _

theorem Dev.issued_run (hr : (d.core k).run = some r) : ((d.issued k x).core k).run = some { r with pc := r.pc + 1 } := by
  rw [Dev.issued_core, hr]
  rfl

theorem Dev.issued_maskDone (m : Nat) : ((d.issued k x).core k).maskDone m = (d.core k).maskDone m := by
  rw [Dev.issued_core]
  rfl

theorem Dev.groupAbort_eq (hr : (d.core k).run = some r) : d.groupAbort k = (d.group r.group).abort := by
  simp [Dev.groupAbort, hr]

theorem Dev.issued_groupAbort (hr : (d.core k).run = some r) : (d.issued k x).groupAbort k = (d.group r.group).abort := by
  rw [Dev.groupAbort_eq (Dev.issued_run hr), Dev.issued_group]

/-- An op word that may issue does what its op does, once it is counted and the pc has advanced. -/
theorem Dev.issue_may (body : Dev → Nat → Nat → Nat → Dev) (hk : k = coreKey die core) (h : d.mayIssue k code w r) :
    d.issue die core code x body = body (d.issued k x) k r.pc w := by
  obtain ⟨hop, hrun, hwait, hcode, hW⟩ := h
  have hgo : ¬ (opW w && !(d.core k).maskDone 0) = true := by
    cases hw : opW w
    · simp
    · simp [hW hw]
  subst hk
  simp only [Dev.issue, hop, hrun]
  rw [if_neg (by simp [hwait, hcode]), if_neg hgo]
  rfl

/-! WAIT_BEAT and BARRIER (R62, R87, R424). -/

theorem waitBeat_may {b t : Nat} (hk : k = coreKey die core) (h : d.mayIssue k 0x18 w r) (hb : b = fld (opX w) 0 24)
    (ht : t = fld (opY w) 0 10) : waitBeat d die core x =
      if waitPassed d r.start b t x.tick then (d.issued k x).corePerf k gSEQ 3 1 else (d.issued k x).waits k (.beat b t) := by
  have hstart : (((d.issued k x).core k).run.map (fun r : Run => r.start)).getD 0 = r.start := by
    rw [Dev.issued_run h.2.1]
    rfl
  have hpassed : waitPassed (d.issued k x) r.start b t x.tick = waitPassed d r.start b t x.tick := by
    simp only [waitPassed, Dev.issued_beat]
  subst hb ht
  rw [waitBeat, Dev.issue_may _ hk h]
  simp only [hstart, hpassed]
  rfl

theorem waitBeatRelease_passed {tick b t : Nat} (hk : k = coreKey die core) (hr : (d.core k).run = some r) (hw : r.wait = .beat b t)
    (hp : waitPassed d r.start b t tick = true) : waitBeatRelease d die core tick = d.waits k .none_ := by
  subst hk
  simp only [waitBeatRelease, hr, hw, hp, if_true]
  rfl

theorem barrier_may {m : Nat} (hk : k = coreKey die core) (h : d.mayIssue k 0x19 w r) (hm : m = fld (opX w) 0 9)
    (ha : (d.group r.group).abort = none) :
    barrier d die core x = if (d.core k).maskDone m then d.issued k x else (d.issued k x).waits k (.barrier m) := by
  rw [barrier, Dev.issue_may _ hk h]
  simp only [Dev.issued_groupAbort h.2.1, ha, Dev.issued_maskDone, ← hm, Dev.waits]

/-- An act whose group an abort has reached aborts at its barrier (R424). -/
theorem barrier_aborts {cls : AbortClass} (hk : k = coreKey die core) (h : d.mayIssue k 0x19 w r)
    (ha : (d.group r.group).abort = some cls) : barrier d die core x = (d.issued k x).coreAbort k cls := by
  rw [barrier, Dev.issue_may _ hk h]
  simp only [Dev.issued_groupAbort h.2.1, ha]

/-- A barrier whose units are complete passes, where no abort has reached its group. -/
theorem barrierPass_passed {e : Dev} {cycles m : Nat} (hk : k = coreKey die core) (he : e = d.pump k) (hr : (e.core k).run = some r)
    (hw : r.wait = .barrier m) (ha : (e.group r.group).abort = none) (hm : (e.core k).maskDone m = true) :
    barrierPass d die core cycles = (e.corePerf k gSEQ 2 cycles).waits k .none_ := by
  unfold barrierPass
  simp only [← hk, ← he, hr, hw, Dev.groupAbort_eq hr, ha, hm, if_true, Dev.waits]

/-! SEQUENCER_RESUME (R83). -/

theorem sequencerResume_queue {e : Dev} {cycles : Nat} (hk : k = coreKey die core) (he : e = d.pump k) (ho : e.opAt k = some w)
    (hr : (e.core k).run = some r) (hw : r.wait = .queue) (h1 : opCode w ≠ 0x01) (h2 : opCode w ≠ 0x1C)
    (hroom : ((e.core k).queued (unitOf w)).length < 4) :
    sequencerResume d die core cycles = (e.corePerf k gSEQ 1 cycles).waits k .none_ := by
  unfold sequencerResume
  simp only [← hk, ← he, hr, ho, hw, if_neg h1, if_neg h2, hroom, decide_true, if_true, Dev.waits]

theorem sequencerResume_w {e : Dev} {cycles : Nat} (hk : k = coreKey die core) (he : e = d.pump k) (ho : e.opAt k = some w)
    (hr : (e.core k).run = some r) (hw : r.wait = .w) (hm : (e.core k).maskDone 0 = true) :
    sequencerResume d die core cycles = (e.corePerf k gSEQ 2 cycles).waits k .none_ := by
  unfold sequencerResume
  simp only [← hk, ← he, hr, ho, hw, hm, if_true, Dev.waits]

/-! SKIP_IF (R87, R174). -/

theorem skipIf_waits (hk : k = coreKey die core) (ho : d.opAt k = some w) (hr : (d.core k).run = some r) (hw : r.wait = .none_)
    (hc : opCode w = 0x1B) (hm : (d.core k).maskDone 0 = false) : skipIf d die core x = d.waits k .skip := by
  subst hk
  simp only [skipIf, ho]
  rw [if_pos (by simp [Dev.idleAt, hr, hw, hc, hm])]
  rfl

/-- Once every unit is complete, `SKIP_IF` reads its word `v` and skips, marks a repair, or goes on. -/
theorem skipIf_may {e : Dev} {v n : Nat} (hk : k = coreKey die core) (h : d.mayIssue k 0x1B w r) (hm : (d.core k).maskDone 0 = true)
    (he : e = (d.issued k x).corePerf k gSPAD 3 1) (hv : v = (d.issued k x).spLE k (opY w) 8) (hn : n = fld (opX w) 0 16) :
    skipIf d die core x = if v = 0 ↔ bit w 112 = true then (e.corePerf k gSEQ 4 1).modRun k (fun r => { r with pc := r.pc + n })
      else if bit v 1 = true ∧ opY w % 16 = 8 ∧ e.spLE k (opY w - 8) 8 = 0 then
        e.modRun k (fun q => { q with repairTo := max q.repairTo (r.pc + 1 + n) })
      else e := by
  have hskip : (if bit w 112 = true then v = 0 else v ≠ 0) ↔ (v = 0 ↔ bit w 112 = true) := by
    by_cases hb : bit w 112 = true <;> simp [hb]
  simp only [skipIf, ← hk, h.1]
  rw [if_neg (by simp [hm]), Dev.issue_may _ hk h]
  simp only [← hv, ← he, ← hn, Bool.and_eq_true, decide_eq_true_eq, and_assoc]
  exact if_congr hskip rfl rfl

/-! MARK and END (R92, R424). -/

theorem mark_may (hk : k = coreKey die core) (h : d.mayIssue k 0x1D w r) :
    mark d die core x =
      let e := (d.issued k x).modCore k (fun c => { c with mark := opX w })
      if bit w 112 then e.emit (.message mNotify 0 die core (leBytes (opX w) 4 ++ leBytes e.beat.now 8)) else e := by
  rw [mark, Dev.issue_may _ hk h]

/-- `END` ends the act where nothing of it is left to do, or where an abort has reached its group. -/
theorem end_may {e : Dev} (hk : k = coreKey die core) (h : d.mayIssue k 0x1F w r) (he : e = (d.issued k x).pump k) :
    end_ d die core x = if ((e.core k).maskDone 0 && !e.emptyWaits k) || (e.groupAbort k).isSome then e.finishEnd k
      else e.modRun k (fun r => { r with pc := r.pc - 1, wait := .fin }) := by
  rw [end_, Dev.issue_may _ hk h]
  simp only [← he]

end

end Sys2Proof.Machine
end

section
/-! SUPPORT. Entries of the Calendar that come due in a step, notices of peers, and what a die that returns from recovery gives up
(R41 to R45, R187, R307, R326); and the functions after reset release (R339). -/

namespace Sys2Proof.Machine

open Sys2Proof

/-! What the rows of the Calendar and of the peers answer. -/

theorem exec_leaveNoticeReceive (g peer : Nat) (req : Bool) (s : State) :
    exec (.leaveNoticeReceive g peer req) s = .next (s.on (leaveNoticeReceive s.dev g peer req)) := rfl
theorem exec_joinNoticeReceive (g peer b : Nat) (s : State) :
    exec (.joinNoticeReceive g peer b) s = .next (s.on (joinNoticeReceive s.dev g peer b)) := rfl
theorem exec_ttlSweep (p : Nat) (s : State) : exec (.ttlSweep p) s = .next (s.on (ttlSweep s.dev p)) := rfl
theorem exec_reductionTreePhase (p n l : Nat) (s : State) :
    exec (.reductionTreePhase p n l) s = .next (s.on (treePhase s.dev p n l)) := rfl
theorem exec_exchangeLaunch (p l : Nat) (s : State) :
    exec (.exchangeLaunch p l) s = .next (s.on (exchangeLaunch s.dev p l)) := rfl
theorem exec_calHeldEntryRelease (die : Nat) (s : State) :
    exec (.calHeldEntryRelease die) s = .next (s.on (calHeldEntryRelease s.dev die)) := rfl

section
variable {d : Dev}

/-! Notices of peers (R45). -/

theorem leaveNoticeReceive_spans {g peer : Nat} {req : Bool} (he : (d.group g).exists_ = true) (hs : (d.group g).spans = true) :
    leaveNoticeReceive d g peer req = d.modGroup g (fun x => { x with leaves := x.leaves ++ [(peer, req)] }) :=
  if_pos (by rw [he, hs]; rfl)

theorem joinNoticeReceive_early {g peer b : Nat} (he : (d.group g).exists_ = true) (hs : (d.group g).spans = true)
    (hb : beatGe d.beat.now b = false) : joinNoticeReceive d g peer b =
      d.modGroup g (fun x => { x with peersJoin := x.peersJoin.filter (fun j => j.1 != peer) ++ [(peer, b)] }) :=
  if_pos (by rw [he, hs, hb]; rfl)

/-! The TTL sweep (R307). -/

theorem Dev.entryDue_absolute {e : CalEntry} (hrel : e.rel = false) (hheld : e.held = []) :
    d.entryDue e = beatGe d.beat.now e.beat := by
  simp [Dev.entryDue, hrel, hheld]

/-- Every request that has expired closes, counted, and the sweep entry is placed anew. -/
theorem ttlSweep_due {p : Nat} {e : CalEntry} (he : e ∈ d.cal) (ha : e.action = 5) (ht : e.target = p) (hdue : d.entryDue e = true)
    (hm : d.mayFire e = true) : ttlSweep d p =
      (((d.reqs.filter (fun r => r.2.pasture == p && (r.2.st == .pausing || r.2.st == .paused) && beatGe d.beat.now r.2.expiry)).map
        Prod.fst).foldl (fun d h => (d.srvAdd (hFunc h) 5 1).closeReq h sExpired sAborted) d).resweep p := by
  have hany : d.cal.any (fun e => e.action == 5 && e.target == p && d.entryDue e && d.mayFire e) = true :=
    List.any_eq_true.2 ⟨e, he, by simp [ha, ht, hdue, hm]⟩
  exact if_neg (by simp [hany])

theorem ttlSweep_none {p : Nat} (h : ∀ c ∈ d.cal, ¬ (c.action = 5 ∧ c.target = p ∧ d.entryDue c = true)) : ttlSweep d p = d := by
  have hany : d.cal.any (fun e => e.action == 5 && e.target == p && d.entryDue e && d.mayFire e) = false := by
    rw [List.any_eq_false]
    intro c hc hall
    simp only [Bool.and_eq_true, beq_iff_eq] at hall
    obtain ⟨⟨⟨ha, ht⟩, hdue⟩, -⟩ := hall
    exact h c hc ⟨ha, ht, hdue⟩
  exact if_pos (by rw [hany]; rfl)

/-! An entry that fires changes the Calendar alone. -/

theorem Dev.fireEntry_red (e : CalEntry) (held : List Nat) (p n : Nat) : (d.fireEntry e held).red p n = d.red p n := rfl
theorem Dev.fireEntry_race (e : CalEntry) (held : List Nat) (p l : Nat) : (d.fireEntry e held).race p l = d.race p l := rfl

/-! Tree phases (R41, R43, R187). -/

/-- The tree-phase entry of level `l` of entry `n` of pasture `p` that is due. -/
def Dev.phaseEntry (d : Dev) (p n l : Nat) : Option CalEntry :=
  d.cal.find? (fun c => c.action == 6 && c.target == n && c.arg == l && (d.group c.group).pasture == p && d.entryDue c)

/-- A tree phase of level `l` comes, the copies of `held` being held, for the present step or for the latest that waits (R183, R187). -/
def Inst.phased (x : Inst) (l : Nat) (held : List (Nat × Nat)) : Inst :=
  if x.waits.isEmpty then { x with phases := l :: x.phases.filter (· != l), heldPhases := x.heldPhases ++ held }
  else { x with waits := modAt (fun w : RedWait => { w with phases := l :: w.phases.filter (· != l), heldPhases := w.heldPhases ++ held })
                          x.waits (x.waits.length - 1) }

theorem Inst.phased_now {x : Inst} (l : Nat) (held : List (Nat × Nat)) (h : x.waits = []) :
    x.phased l held = { x with phases := l :: x.phases.filter (· != l), heldPhases := x.heldPhases ++ held } :=
  if_pos (by rw [h]; rfl)

theorem modAt_last {α : Type} (f : α → α) (l : List α) (a : α) : modAt f (l ++ [a]) l.length = l ++ [f a] := by
  induction l with
  | nil => rfl
  | cons b l ih => exact congrArg (b :: ·) ih

theorem Inst.phased_waiting {x : Inst} {ws : List RedWait} {w : RedWait} (l : Nat) (held : List (Nat × Nat)) (h : x.waits = ws ++ [w]) :
    x.phased l held =
      { x with waits := ws ++ [{ w with phases := l :: w.phases.filter (· != l), heldPhases := w.heldPhases ++ held }] } := by
  have hne : x.waits.isEmpty = false := by rw [h, List.isEmpty_eq_false_iff]; simp
  rw [Inst.phased, hne, h, List.length_append, List.length_singleton, Nat.add_sub_cancel, modAt_last]
  rfl

/-- A change of an `Inst` is what it makes of the one that stands. -/
theorem Dev.modRed_congr {p n : Nat} {f g : Inst → Inst} (h : f (d.red p n) = g (d.red p n)) : d.modRed p n f = d.modRed p n g := by
  rw [Dev.modRed, Dev.modRed, h]

theorem Dev.phaseEntry_none {p n l : Nat} (h : ∀ c ∈ d.cal, ¬ (c.action = 6 ∧ c.target = n ∧ c.arg = l ∧ d.entryDue c = true)) :
    d.phaseEntry p n l = none := by
  refine List.find?_eq_none.2 (fun c hc hall => ?_)
  simp only [Bool.and_eq_true, beq_iff_eq] at hall
  obtain ⟨⟨⟨⟨ha, ht⟩, hl⟩, -⟩, hdue⟩ := hall
  exact h c hc ⟨ha, ht, hl, hdue⟩

theorem treePhase_none {p n l : Nat} (h : d.phaseEntry p n l = none) : treePhase d p n l = d := by
  unfold treePhase
  split
  · rfl
  · rw [← Dev.phaseEntry, h]

section
variable {p n l e : Nat} {sh : Show} {c : CalEntry}

theorem treePhase_entry (hs : d.showOf p = some sh) (he : (redEntries sh)[n]? = some e) (hc : d.phaseEntry p n l = some c) :
    treePhase d p n l = if d.mayFire c then
        (d.fireEntry c (c.dies.filter d.inRecovery)).modRed p n (fun x => x.phased l ((c.dies.filter d.inRecovery).map (fun v => (l, v))))
      else d := by
  unfold treePhase
  simp only [hs, Option.bind_some, he]
  rw [← Dev.phaseEntry, hc]
  dsimp only
  cases d.mayFire c <;> rfl

end

/-! Exchange launches (R41, R326). -/

/-- The exchange launch entry of layer `l` of pasture `p` that is due. -/
def Dev.launchEntry (d : Dev) (p l : Nat) : Option CalEntry :=
  d.cal.find? (fun c => c.action == 2 && c.target == l && (d.group c.group).pasture == p && d.entryDue c)

theorem Dev.launchEntry_none {p l : Nat} (h : ∀ c ∈ d.cal, ¬ (c.action = 2 ∧ c.target = l ∧ d.entryDue c = true)) :
    d.launchEntry p l = none := by
  refine List.find?_eq_none.2 (fun c hc hall => ?_)
  simp only [Bool.and_eq_true, beq_iff_eq] at hall
  obtain ⟨⟨⟨ha, ht⟩, -⟩, hdue⟩ := hall
  exact h c hc ⟨ha, ht, hdue⟩

theorem exchangeLaunch_none {p l : Nat} (h : d.launchEntry p l = none) : exchangeLaunch d p l = d := by
  unfold exchangeLaunch
  rw [← Dev.launchEntry, h]

/-- The launch comes for the step that the layer runs, or for the one of it that waits (R333). -/
def RaceInst.launch (x : RaceInst) (step : Nat) : RaceInst := match x.waiting step with
  | some w => x.modWait w.step (fun w => { w with launched := true })
  | none => { x with launched := true }

theorem RaceInst.launch_now {x : RaceInst} {step : Nat} (h : x.waiting step = none) : x.launch step = { x with launched := true } := by
  rw [RaceInst.launch, h]

theorem RaceInst.launch_waiting {x : RaceInst} {step : Nat} {w : RaceWait} (h : x.waiting step = some w) :
    x.launch step = x.modWait w.step (fun w => { w with launched := true }) := by
  rw [RaceInst.launch, h]

theorem exchangeLaunch_entry {p l : Nat} {c : CalEntry} (hc : d.launchEntry p l = some c) : exchangeLaunch d p l =
    if d.mayFire c then (d.fireEntry c []).modRace p l (fun x => x.launch (d.group c.group).last) else d := by
  unfold exchangeLaunch
  rw [← Dev.launchEntry, hc]
  dsimp only
  cases d.mayFire c <;> rfl

theorem Dev.modRace_congr {p l : Nat} {f g : RaceInst → RaceInst} (h : f (d.race p l) = g (d.race p l)) :
    d.modRace p l f = d.modRace p l g := by
  rw [Dev.modRace, Dev.modRace, h]

/-! Entries held by a recovery (R43). -/

theorem calHeldEntryRelease_recovering {die : Nat} (h : d.inRecovery die = true) : calHeldEntryRelease d die = d := if_pos h

/-- A die that holds nothing gives nothing up. -/
theorem calHeldEntryRelease_none {die : Nat} (h : ∀ e ∈ d.cal, die ∉ e.held) : calHeldEntryRelease d die = d := by
  have hnow : d.cal.filter (fun e => e.held.contains die) = [] := by
    simpa using h
  have hcal : d.cal.map (fun e : CalEntry => { e with held := e.held.filter (· != die) }) = d.cal := by
    refine List.map_congr_left (g := id) (fun e he => ?_) |>.trans d.cal.map_id
    have hheld : e.held.filter (· != die) = e.held :=
      List.filter_eq_self.2 (fun v hv => bne_iff_ne.2 (fun hvd => h e he (hvd ▸ hv)))
    rw [hheld]
    rfl
  simp only [calHeldEntryRelease, hnow, hcal, List.foldl_nil, ite_self]

/-- The one entry of the Calendar, held by the die that returns, is held no longer and is released. -/
theorem calHeldEntryRelease_one {die : Nat} {c : CalEntry} (hr : d.inRecovery die = false) (hcal : d.cal = [c]) (hh : c.held = [die]) :
    calHeldEntryRelease d die = ({ d with cal := [{ c with held := [] }] } : Dev).releaseEntry die c := by
  have hnow : d.cal.filter (fun e => e.held.contains die) = [c] := by
    simp [hcal, hh]
  have hout : d.cal.map (fun e : CalEntry => { e with held := e.held.filter (· != die) }) = [{ c with held := [] }] := by
    simp [hcal, hh]
  rw [calHeldEntryRelease, if_neg (by simp [hr])]
  simp only [hnow, hout, List.foldl_cons, List.foldl_nil]

/-- A step-relative entry whose step is over is discarded and counted. -/
theorem Dev.releaseEntry_stale {die : Nat} {e : CalEntry} (hrel : e.rel = true) (hs : d.stepCurrent e = false) :
    d.releaseEntry die e = d.errAdd die 64 4 1 := by
  simp [Dev.releaseEntry, hrel, hs]

/-- An `Inst` whose copy of level `l` die `die` holds no longer. -/
def Inst.released (x : Inst) (l die : Nat) : Inst :=
  let out (h : List (Nat × Nat)) : List (Nat × Nat) := h.filter (· != (l, die))
  { x with heldPhases := out x.heldPhases, waits := x.waits.map (fun w : RedWait => { w with heldPhases := out w.heldPhases }) }

theorem Dev.releaseEntry_phase {die : Nat} {e : CalEntry} (hrel : e.rel = true) (hs : d.stepCurrent e = true) (ha : e.action = 6) :
    d.releaseEntry die e = d.modRed (d.group e.group).pasture e.target (fun x => x.released e.arg die) := by
  simp [Dev.releaseEntry, hrel, hs, ha]
  rfl

/-! Reset release (R339). -/

/-- After reset release the PF is the one function that is listed. -/
theorem State.reset_func (f : Nat) : State.reset.dev.func f = if f = 0 then { enabled := true } else {} := by
  cases f <;> rfl

end

end Sys2Proof.Machine
end

section
/-! The statements on the sequencer, the Calendar and reset. -/

namespace Sys2Proof.Machine

open Sys2Proof

/-- Settles O32: an op word that may issue does what its op does, and each wait ends by its own row. -/
theorem sequencerOpsWaitSkipAndMark : Obligations.SequencerOpsWaitSkipAndMark := by
  unfold Obligations.SequencerOpsWaitSkipAndMark
  refine ⟨?waitBeat, ?release, ?barrier, ?pass, ?resume, ?skipWaits, ?skip, ?mark, ?endAct⟩
  case waitBeat =>
    rintro s die core k w x r b t hk hi hb ht p rfl
    rw [exec_waitBeat, waitBeat_may hk hi hb ht]
    exact ⟨fun hp => by rw [hp]; rfl, fun hp => by rw [hp]; rfl⟩
  case release =>
    intro s die core k tick r b t hk hr hw hp
    rw [exec_waitBeatRelease, waitBeatRelease_passed hk hr hw hp]
  case barrier =>
    intro s die core k w x r m hk hi hm
    rw [exec_barrier]
    refine ⟨fun cls ha => ?_, fun ha hd => ?_, fun ha hd => ?_⟩
    · rw [barrier_aborts hk hi ha]
    · rw [barrier_may hk hi hm ha, if_pos hd]
    · rw [barrier_may hk hi hm ha, if_neg (by simp [hd])]
  case pass =>
    intro s die core k cycles e r m hk he hr hw ha hm
    rw [exec_barrierPass, barrierPass_passed hk he hr hw ha hm]
  case resume =>
    intro s die core k cycles w e r hk he ho hr
    rw [exec_sequencerResume]
    exact ⟨fun hw h1 h2 hroom => by rw [sequencerResume_queue hk he ho hr hw h1 h2 hroom],
      fun hw hm => by rw [sequencerResume_w hk he ho hr hw hm]⟩
  case skipWaits =>
    intro s die core k w x r hk ho hr hw hc hm
    rw [exec_skipIf, skipIf_waits hk ho hr hw hc hm]
  case skip =>
    intro s die core k w v n x r e hk hi hm he hv hn
    rw [exec_skipIf, skipIf_may hk hi hm he hv hn]
    refine ⟨fun hs => ?_, fun hs hrep ht hz => ?_, fun hs hno => ?_⟩
    · rw [if_pos hs]
    · rw [if_neg hs, if_pos ⟨hrep, ht, hz⟩]
    · have hnot : ¬ (bit v 1 = true ∧ opY w % 16 = 8 ∧ e.spLE k (opY w - 8) 8 = 0) := by
        rintro ⟨hrep, ht, hz⟩
        rcases hno with h | h | h
        · simp [hrep] at h
        · exact h ht
        · exact h hz
      rw [if_neg hs, if_neg hnot]
  case mark =>
    rintro s die core k w x r hk hi e rfl
    rw [exec_mark, mark_may hk hi]
  case endAct =>
    intro s die core k w x r e hk hi he
    rw [exec_endAct, end_may hk hi he]
    refine ⟨fun hd hw => ?_, fun cls ha => ?_, fun hwait ha => ?_⟩
    · rw [if_pos (by simp [hd, hw])]
    · rw [if_pos (by simp [ha])]
    · rw [if_neg (by rcases hwait with h | h <;> simp [h, ha])]

/-- Settles O40: each row follows the entry that is due, if its Calendar lets it fire, and a release the entry that was held. -/
theorem noticesSweepsAndStepEntriesAct : Obligations.NoticesSweepsAndStepEntriesAct := by
  unfold Obligations.NoticesSweepsAndStepEntriesAct
  refine ⟨?leave, ?join, ?sweep, ?phase, ?launch, ?none, ?release, ?recovering⟩
  case leave =>
    intro s g peer req he hs
    rw [exec_leaveNoticeReceive, leaveNoticeReceive_spans he hs]
  case join =>
    intro s g peer b he hs hb
    rw [exec_joinNoticeReceive, joinNoticeReceive_early he hs hb]
  case sweep =>
    intro s p e he ha ht hrel hheld hb hm
    rw [exec_ttlSweep, ttlSweep_due he ha ht (by rwa [Dev.entryDue_absolute hrel hheld]) hm]
  case phase =>
    rintro s p n l sh e c held hs he hc rfl
    rw [exec_reductionTreePhase, treePhase_entry hs he hc]
    refine ⟨fun hm => ?_, fun hm hw => ?_, fun ws w hm hw => ?_⟩
    · rw [if_neg (by simp [hm]), State.on_dev_self]
    · rw [if_pos hm]
      refine congrArg (fun d => Host.Outcome.next (s.on d)) (Dev.modRed_congr ?_)
      rw [Dev.fireEntry_red, Inst.phased_now _ _ hw]
    · rw [if_pos hm]
      refine congrArg (fun d => Host.Outcome.next (s.on d)) (Dev.modRed_congr ?_)
      rw [Dev.fireEntry_red, Inst.phased_waiting _ _ hw]
  case launch =>
    intro s p l c hc
    rw [exec_exchangeLaunch, exchangeLaunch_entry hc]
    refine ⟨fun hm => ?_, fun hm hw => ?_, fun w hm hw => ?_⟩
    · rw [if_neg (by simp [hm]), State.on_dev_self]
    · rw [if_pos hm]
      refine congrArg (fun d => Host.Outcome.next (s.on d)) (Dev.modRace_congr ?_)
      rw [Dev.fireEntry_race, RaceInst.launch_now hw]
    · rw [if_pos hm]
      refine congrArg (fun d => Host.Outcome.next (s.on d)) (Dev.modRace_congr ?_)
      rw [Dev.fireEntry_race, RaceInst.launch_waiting hw]
  case none =>
    intro s p n l
    refine ⟨fun h => ?_, fun h => ?_, fun h => ?_⟩
    · rw [exec_ttlSweep, ttlSweep_none h, State.on_dev_self]
    · rw [exec_reductionTreePhase, treePhase_none (Dev.phaseEntry_none h), State.on_dev_self]
    · rw [exec_exchangeLaunch, exchangeLaunch_none (Dev.launchEntry_none h), State.on_dev_self]
  case release =>
    intro s die hr
    refine ⟨fun h => ?_, fun c hcal hh hrel => ⟨fun hs => ?_, fun hs ha => ?_⟩⟩
    · rw [exec_calHeldEntryRelease, calHeldEntryRelease_none h, State.on_dev_self]
    · rw [exec_calHeldEntryRelease, calHeldEntryRelease_one hr hcal hh,
        Dev.releaseEntry_stale (d := { s.dev with cal := [{ c with held := [] }] }) hrel hs]
    · refine ⟨fun x => x.released c.arg die, ?_, fun x => ⟨rfl, rfl⟩⟩
      rw [exec_calHeldEntryRelease, calHeldEntryRelease_one hr hcal hh,
        Dev.releaseEntry_phase (d := { s.dev with cal := [{ c with held := [] }] }) hrel hs ha]
      rfl
  case recovering =>
    intro s die h
    rw [exec_calHeldEntryRelease, calHeldEntryRelease_recovering h, State.on_dev_self]

/-- Settles O3: every part is a reset value, and the functions are those of `State.reset_func`. -/
theorem resetHoldsWhatTheRulesGive : Obligations.ResetHoldsWhatTheRulesGive := by
  unfold Obligations.ResetHoldsWhatTheRulesGive
  refine ⟨rfl, rfl, rfl, rfl, rfl, rfl, rfl, rfl, rfl, rfl, fun _ _ _ => rfl, fun f => ?seq, fun f => ?enabled, rfl, rfl, rfl, rfl, rfl⟩
  case seq =>
    rw [State.reset_func]
    split_ifs <;> rfl
  case enabled =>
    rw [State.reset_func]
    split_ifs with hf <;> simp [hf]

end Sys2Proof.Machine
end

section
/-! SUPPORT. Sums over tiles, the rows that `ASTREAM` copies, the FIFOs of the arrays, and the step that an array starts (R48 to R50,
R62, R63, R68, R72, R81, R86, R87, R97, R113, R115, R156). -/

namespace Sys2Proof.Machine

open Sys2Proof

/-! Lists added place by place. -/

section
variable {α β : Type} [AddMonoid α]

theorem getD_zipWith_add {l m : List α} (h : l.length = m.length) (c : Nat) :
    (List.zipWith (· + ·) l m).getD c 0 = l.getD c 0 + m.getD c 0 := by
  by_cases hc : c < l.length
  · have hm : c < m.length := h ▸ hc
    simp [List.getD_eq_getElem?_getD, hc, hm]
  · have hm : ¬ c < m.length := h ▸ hc
    simp [List.getD_eq_getElem?_getD, hc, hm]

theorem length_foldl_zipWith_add {f : β → List α} {n : Nat} (hf : ∀ b, (f b).length = n) (bs : List β) {s : List α}
    (hs : s.length = n) : (bs.foldl (fun s b => List.zipWith (· + ·) s (f b)) s).length = n :=
  List.foldlRecOn (motive := fun t : List α => t.length = n) bs _ hs (fun t ht b _ => by simp [ht, hf])

/-- A place of a running sum of lists is its start and the sum of the lists' values there. -/
theorem getD_foldl_zipWith_add {f : β → List α} {n : Nat} (hf : ∀ b, (f b).length = n) (bs : List β) {s : List α}
    (hs : s.length = n) (c : Nat) :
    (bs.foldl (fun s b => List.zipWith (· + ·) s (f b)) s).getD c 0 = s.getD c 0 + (bs.map (fun b => (f b).getD c 0)).sum := by
  induction bs generalizing s with
  | nil => simp
  | cons b bs ih =>
    rw [List.foldl_cons, ih (by simp [hs, hf]), getD_zipWith_add (by rw [hs, hf]), List.map_cons, List.sum_cons, add_assoc]

end

theorem getD_map_range {α : Type} (f : Nat → α) (d : α) {n c : Nat} (hc : c < n) : ((List.range n).map f).getD c d = f c := by
  simp [List.getD_eq_getElem?_getD, hc]

theorem getD_replicate_zero {α : Type} [Zero α] (n c : Nat) : (List.replicate n (0 : α)).getD c 0 = 0 := by
  rw [List.getD_eq_getElem?_getD, List.getElem?_getD_replicate_default_eq]

/-- The elements of a list with their places are its places with their elements. -/
theorem map_zipIdx_eq_map_range {α β : Type} (xs : List α) (d : α) (g : Nat → α → β) :
    xs.zipIdx.map (fun p => g p.2 p.1) = (List.range xs.length).map (fun i => g i (xs.getD i d)) := by
  apply List.ext_getElem
  · simp
  · intro i hi _
    have hx : i < xs.length := by simpa using hi
    simp [List.getD_eq_getElem?_getD, hx]

/-! Ternary weights and the sums of columns (R48, R49, R97). -/

/-- A weight by the two bits of its T2 code (R49, R97). -/
theorem tileWeight_eq (tile l c : Nat) : tileWeight tile l c =
    if tile.testBit (16 * l + 2 * c) then (if tile.testBit (16 * l + 2 * c + 1) then -1 else 1) else 0 := by
  set i := 16 * l + 2 * c with hi
  have hlow : tile.testBit i = decide (tile / 2 ^ i % 2 = 1) := Nat.testBit_eq_decide_div_mod_eq
  have hhigh : tile.testBit (i + 1) = decide (tile / 2 ^ i / 2 % 2 = 1) := by
    rw [Nat.testBit_eq_decide_div_mod_eq, Nat.pow_succ, Nat.div_div_eq_div_mul]
  simp only [tileWeight, t2Code, t2Weight, fld, ← hi, hlow, hhigh, decide_eq_true_eq]
  split_ifs <;> omega

theorem tileWeight_ne_zero_iff (tile l c : Nat) : tileWeight tile l c ≠ 0 ↔ t2Code tile l c % 2 = 1 := by
  rw [tileWeight, t2Weight]
  split_ifs <;> simp <;> omega

@[simp] theorem length_laneSum (tile l : Nat) (x : Int) : (laneSum tile l x).length = 8 := by
  unfold laneSum
  split_ifs <;> simp

theorem getD_laneSum (tile l : Nat) (x : Int) {c : Nat} (hc : c < 8) : (laneSum tile l x).getD c 0 = tileWeight tile l c * x := by
  unfold laneSum
  split_ifs with hx
  · rw [hx, Int.mul_zero, getD_replicate_zero]
  · rw [getD_map_range _ _ hc]

/-- The sums of the eight columns of one tile, under the activations `xs`. -/
def tileSums (tile : Nat) (xs : List Int) : List Int :=
  xs.zipIdx.foldl (fun s p => List.zipWith (· + ·) s (laneSum tile p.2 p.1)) (List.replicate 8 0)

theorem colSums_cons (t : Nat) (ts : List Nat) (xs : List Int) :
    colSums (t :: ts) xs = List.zipWith (· + ·) (tileSums t (xs.take 8)) (colSums ts (xs.drop 8)) := rfl

theorem length_tileSums (tile : Nat) (xs : List Int) : (tileSums tile xs).length = 8 :=
  length_foldl_zipWith_add (fun p : Int × Nat => length_laneSum tile p.2 p.1) _ List.length_replicate

theorem getD_tileSums (tile : Nat) (xs : List Int) {c : Nat} (hc : c < 8) :
    (tileSums tile xs).getD c 0 = ((List.range xs.length).map (fun l => tileWeight tile l c * xs.getD l 0)).sum := by
  rw [tileSums, getD_foldl_zipWith_add (fun p : Int × Nat => length_laneSum tile p.2 p.1) _ List.length_replicate, getD_replicate_zero,
    Int.zero_add]
  simp only [getD_laneSum _ _ _ hc]
  rw [map_zipIdx_eq_map_range xs 0 (fun l x => tileWeight tile l c * x)]

theorem length_colSums (tiles : List Nat) (xs : List Int) : (colSums tiles xs).length = 8 := by
  induction tiles generalizing xs with
  | nil => rfl
  | cons t ts ih => rw [colSums_cons, List.length_zipWith, length_tileSums, ih, Nat.min_self]

/-- Element `e` of the K range meets lane `e % 8` of tile `e / 8`. -/
theorem getD_colSums (tiles : List Nat) (xs : List Int) {c : Nat} (hc : c < 8) (hx : xs.length = 8 * tiles.length) :
    (colSums tiles xs).getD c 0 =
      ((List.range (8 * tiles.length)).map (fun e => tileWeight (tiles.getD (e / 8) 0) (e % 8) c * xs.getD e 0)).sum := by
  induction tiles generalizing xs with
  | nil => exact getD_replicate_zero 8 c
  | cons t ts ih =>
    rw [List.length_cons] at hx
    have hfirst : (tileSums t (xs.take 8)).getD c 0 =
        ((List.range 8).map (fun e => tileWeight ((t :: ts).getD (e / 8) 0) (e % 8) c * xs.getD e 0)).sum := by
      rw [getD_tileSums t _ hc, List.length_take, Nat.min_eq_left (by omega)]
      refine congrArg List.sum (List.map_congr_left (fun e he => ?_))
      have he : e < 8 := List.mem_range.1 he
      have h0 : e / 8 = 0 := Nat.div_eq_of_lt he
      simp [h0, Nat.mod_eq_of_lt he, List.getD_eq_getElem?_getD, he]
    have hrest : (colSums ts (xs.drop 8)).getD c 0 = ((List.range (8 * ts.length)).map
        (fun e => tileWeight ((t :: ts).getD ((8 + e) / 8) 0) ((8 + e) % 8) c * xs.getD (8 + e) 0)).sum := by
      rw [ih (xs.drop 8) (by rw [List.length_drop]; omega)]
      refine congrArg List.sum (List.map_congr_left (fun e _ => ?_))
      have h1 : (8 + e) / 8 = e / 8 + 1 := by omega
      have h2 : (8 + e) % 8 = e % 8 := by omega
      simp [h1, h2, List.getD_eq_getElem?_getD]
    have hlen : 8 * (t :: ts).length = 8 + 8 * ts.length := by rw [List.length_cons]; omega
    rw [colSums_cons, getD_zipWith_add (by rw [length_tileSums, length_colSums]), hfirst, hrest, hlen, List.range_add, List.map_append,
      List.sum_append, List.map_map]
    rfl

/-- The slots of a parallel step, one for each token (R48). -/
theorem runStep_slots_parallel (d : Dev) (k a pc : Nat) {op : Nat} (idx : Nat) (bank : List SliceEntry) (hop : wlSerial op = false) :
    (runStep d k a pc op idx bank).slots = (List.range (wlTokens op)).map (fun t => (wlSlot op + t,
      addV (if wlClear op then List.replicate 8 0
          else (List.range 8).map (fun c => Tab.getD ((d.core k).arr a).slots ((wlSlot op + t) * 8 + c) 0))
        (colSums ((stepTiles d k op idx).map Prod.fst) (stepActs d k a pc op t)))) := by
  simp only [runStep, hop]
  rfl

/-! S_abs and the exact screen (R50, R68, R156). -/

theorem foldl_count_eq {α : Type} (p : α → Prop) [DecidablePred p] (l : List α) (n : Nat) :
    l.foldl (fun n a => if p a then n + 1 else n) n = n + (l.filter (fun a => decide (p a))).length := by
  induction l generalizing n with
  | nil => rfl
  | cons a l ih =>
    rw [List.foldl_cons, ih]
    by_cases ha : p a
    · simp only [ha, if_true, decide_true, List.filter_cons_of_pos, List.length_cons]
      omega
    · simp [ha]

theorem colCount_eq (tile c : Nat) : colCount tile c = ((List.range 8).filter (fun l => tileWeight tile l c != 0)).length := by
  rw [colCount, foldl_count_eq, Nat.zero_add]
  refine congrArg List.length (List.filter_congr (fun l _ => ?_))
  rw [Bool.eq_iff_iff, decide_eq_true_iff, bne_iff_ne, tileWeight_ne_zero_iff]

theorem colCount_le (tile c : Nat) : colCount tile c ≤ 8 := by
  rw [colCount_eq]
  exact (List.length_filter_le _ _).trans_eq List.length_range

theorem getD_sabsOf (tiles : List Nat) {c : Nat} (hc : c < 8) : (sabsOf tiles).getD c 0 = (tiles.map (fun t => colCount t c)).sum := by
  rw [sabsOf, getD_foldl_zipWith_add (n := 8) (fun t => by simp) tiles List.length_replicate, getD_replicate_zero, Nat.zero_add]
  simp only [getD_map_range _ _ hc]

theorem runStep_sabs (d : Dev) (k a pc op idx : Nat) (bank : List SliceEntry) :
    (runStep d k a pc op idx bank).sabs = sabsOf ((usedTiles d k op idx).map Prod.fst) := by
  cases hop : wlSerial op <;> simp only [runStep, hop] <;> rfl

theorem usedTiles_dense {d : Dev} {k op : Nat} (idx : Nat) (h : sparseSetting d k op = 0) : usedTiles d k op idx = stepTiles d k op idx :=
  if_pos h

section
variable (sabs : List Nat) (theta : List Int) (k : Nat) {c : Nat} {s : Serial}

theorem screenCompare_inact (hc : c < 8) (hi : s.inact.getD c false = false) (ha : s.act.getD c false = false) :
    (screenCompare sabs theta k s).inact.getD c false = decide (s.p.getD c 0 + sabs.getD c 0 * (2 ^ k - 1) < theta.getD c 0) := by
  simp only [screenCompare, getD_map_range _ _ hc, hi, ha]
  rfl

theorem screenCompare_act (hc : c < 8) (hi : s.inact.getD c false = false) (ha : s.act.getD c false = false) :
    (screenCompare sabs theta k s).act.getD c false = decide (theta.getD c 0 ≤ s.p.getD c 0 - sabs.getD c 0 * (2 ^ k - 1)) := by
  simp only [screenCompare, getD_map_range _ _ hc, hi, ha]
  rfl

end

/-! `ASTREAM` of a dense format (R81, R87). -/

@[simp] theorem Dev.length_spRead (d : Dev) (k o n : Nat) : (d.spRead k o n).length = n := by
  simp [Dev.spRead]

theorem Dev.core_modCore_ne (d : Dev) {j k : Nat} (f : Core → Core) (h : j ≠ k) : (d.modCore k f).core j = d.core j :=
  Tab.getD_put_ne _ _ _ h

theorem Core.clearBuf_bexp (c : Core) {z n g : Nat} (hlo : z / 16 ≤ g) (hhi : g < (z + n) / 16) (v : Nat) :
    (g, v) ∉ (c.clearBuf z n).bexp := by
  simp [Core.clearBuf, Tab.filt, hlo, hhi]

theorem Core.clearBuf_bocc (c : Core) {z n g : Nat} (hlo : z / 16 ≤ g) (hhi : g < (z + n) / 16) (v : Nat) :
    (g, v) ∉ (c.clearBuf z n).bocc := by
  simp [Core.clearBuf, Tab.filt, hlo, hhi]

section
variable {d : Dev} {k op : Nat}

theorem Dev.doAstream_dense (h1 : opIn op ≠ cAS) (h2 : opIn op ≠ cBX4) (h3 : opIn op ≠ cBX8) : d.doAstream k op =
    ((d.wideRows k (fld (opY op) 0 8 + 1)).modCore k (fun t => t.clearBuf (opZ op % 2 ^ 16) ((fld (opY op) 0 8 + 1) * 512))).abWrite k
      (opZ op % 2 ^ 16) (d.spRead k (opX op) ((fld (opY op) 0 8 + 1) * 512)) := by
  simp [Dev.doAstream, h1, h2, h3]

/-- What a dense `ASTREAM` leaves of the package: all but the counters, its core's granules and the buffer's bytes. -/
theorem Dev.doAstream_dense_frame (h1 : opIn op ≠ cAS) (h2 : opIn op ≠ cBX4) (h3 : opIn op ≠ cBX8) :
    (d.doAstream k op).spad = d.spad ∧ (d.doAstream k op).mem = d.mem ∧
    (d.doAstream k op).abuf = Mem.write d.abuf (abAddr k (opZ op % 2 ^ 16)) (d.spRead k (opX op) ((fld (opY op) 0 8 + 1) * 512)) ∧
    (∀ j, j ≠ k → (d.doAstream k op).core j = d.core j) ∧
    (d.doAstream k op).core k = (d.core k).clearBuf (opZ op % 2 ^ 16) ((fld (opY op) 0 8 + 1) * 512) := by
  obtain ⟨p, fl, t, fs, o, h⟩ := Dev.SameButCounts.corePerf d k gSPAD 2 (fld (opY op) 0 8 + 1)
  rw [Dev.doAstream_dense h1 h2 h3, Dev.wideRows, h]
  exact ⟨rfl, rfl, rfl, fun j hj => Tab.getD_put_ne d.cores _ _ hj, Tab.getD_put_same d.cores k _ _⟩

/-- A dense `ASTREAM` onto a canonical activation buffer copies its rows, clears the granules that it writes, and leaves the other bytes,
the scratchpads, the stacks and the other cores. -/
theorem Dev.doAstream_dense_of_canonical (h1 : opIn op ≠ cAS) (h2 : opIn op ≠ cBX4) (h3 : opIn op ≠ cBX8) (hwf : Mem.wf d.abuf = true)
    {rows z : Nat} (hrows : rows = fld (opY op) 0 8 + 1) (hz : z = opZ op % 2 ^ 16) (hfit : z + rows * 512 ≤ 2 ^ 16) {e : Dev}
    (he : e = d.doAstream k op) :
    (∀ i < rows * 512, Mem.get e.abuf (abAddr k (z + i)) = (d.spRead k (opX op) (rows * 512)).getD i 0#8) ∧
    (∀ a, (∀ i < rows * 512, a ≠ abAddr k (z + i)) → Mem.get e.abuf a = Mem.get d.abuf a) ∧
    e.spad = d.spad ∧ e.mem = d.mem ∧ (∀ j, j ≠ k → e.core j = d.core j) ∧
    (∀ g, z / 16 ≤ g → g < (z + rows * 512) / 16 → ∀ v, (g, v) ∉ (e.core k).bexp ∧ (g, v) ∉ (e.core k).bocc) := by
  obtain ⟨hspad, hmem, habuf, hcores, hcore⟩ := Dev.doAstream_dense_frame (d := d) (k := k) h1 h2 h3
  rw [← he, ← hrows, ← hz] at habuf hcore
  rw [← he] at hspad hmem hcores
  have hat : ∀ i < rows * 512, abAddr k (z + i) = abAddr k z + i := fun i hi => by
    rw [abAddr, abAddr, Nat.mod_eq_of_lt (by omega), Nat.mod_eq_of_lt (by omega), Nat.add_assoc]
  simp only [habuf, hcore, Mem.get_write _ _ _ _ hwf, Dev.length_spRead]
  refine ⟨fun i hi => ?copied, fun a ha => if_neg (fun hin => ?kept), hspad, hmem, hcores,
    fun g hlo hhi v => ⟨Core.clearBuf_bexp _ hlo hhi v, Core.clearBuf_bocc _ hlo hhi v⟩⟩
  case copied => rw [hat i hi, if_pos (by omega), Nat.add_sub_cancel_left]
  case kept =>
    refine ha (a - abAddr k z) (by omega) ?_
    rw [hat _ (by omega)]
    omega

end

/-! WLOAD, SEED and the FIFOs (R62, R86, R113, R115). -/

section
variable (die core : Nat) (s : State)

theorem exec_wload (x : OpFacts) : exec (.wload die core x) s = .next (s.on (wload s.dev die core x)) := rfl
theorem exec_seed (x : OpFacts) : exec (.seed die core x) s = .next (s.on (seed s.dev die core x)) := rfl
theorem exec_seedTakeEffect (arr : Nat) :
    exec (.seedTakeEffect die core arr) s = .next (s.on (seedTakeEffect s.dev die core arr)) := rfl
theorem exec_arrayStepStart (arr : Nat) (idle : Bool) (startWait stall : Nat) (parity : Option Nat) :
    exec (.arrayStepStart die core arr idle startWait stall parity) s =
      .next (s.on (arrayStepStart s.dev die core arr idle startWait stall parity)) := rfl

end

section
variable {d : Dev} {k die core code w : Nat} {x : OpFacts} {r : Run} {sel : Nat → List Nat}
  {entry : Run → Nat → Nat → Nat → ArrOp}

/-- An op for arrays whose FIFOs have room issues, and its entries are pushed. -/
theorem Dev.issueArrays_room (hk : k = coreKey die core) (h : d.mayIssue k code w r) (hroom : (d.core k).fifoRoom (sel w) = true) :
    d.issueArrays die core code x sel entry =
      (d.issued k x).modCore k (fun c => c.pushAll ((sel w).zipIdx.map (fun a => (a.1, entry r r.pc w a.2)))) := by
  have hissue := Dev.issue_may (x := x) (fun d k pc w => d.modCore k (fun c =>
    c.pushAll ((sel w).zipIdx.map (fun a => (a.1, entry r pc w a.2))))) hk h
  obtain ⟨hop, hrun, -⟩ := h
  subst hk
  simp only [Dev.issueArrays, hop, hrun]
  rw [if_neg (by simp [hroom]), hissue]

/-- Where a FIFO is full the sequencer stalls. -/
theorem Dev.issueArrays_full (hk : k = coreKey die core) (h : d.mayIssue k code w r) (hroom : (d.core k).fifoRoom (sel w) = false) :
    d.issueArrays die core code x sel entry = d.waits k .queue := by
  obtain ⟨hop, hrun, hwait, hcode, hW⟩ := h
  have hidle : d.idleAt k = true := by simp [Dev.idleAt, hrun, hwait]
  have hgo : (opW w && !(d.core k).maskDone 0) = false := by
    cases hw : opW w
    · rfl
    · simp [hW hw]
  subst hk
  simp only [Dev.issueArrays, hop, hrun]
  rw [if_pos (by simp [hidle, hcode, hgo, hroom])]
  rfl

/-- A seed at the head of its FIFO sets its generator where no earlier `REQUANT` of the array is open. -/
theorem seedTakeEffect_free {arr pc g v : Nat} {rest : List ArrOp} (hk : k = coreKey die core)
    (hf : ((d.core k).arr arr).fifo = .seed pc g v :: rest)
    (hq : ∀ q ∈ (d.core k).queue, q.unit = 1 → opCode q.op = 0x04 → q.pc < pc → arr ∉ selected q.op) :
    seedTakeEffect d die core arr = (d.modCore k (fun c => c.modArr arr (fun a =>
      { a with fifo := rest, gens := Tab.put a.gens g (v ^^^ seedK g) }))).pump k := by
  have hbusy : (d.core k).queue.any (fun q => q.unit == 1 && opCode q.op == 0x04 && q.pc < pc && (selected q.op).contains arr) = false := by
    simpa [and_imp] using hq
  subst hk
  simp only [seedTakeEffect, hf]
  rw [if_neg (by simp only [hbusy, Bool.false_eq_true, not_false_iff])]

end

/-! The step that an array starts (R62, R63, R72). -/

@[simp] theorem Core.arr_modArr_same (c : Core) (a : Nat) (f : Arr → Arr) : (c.modArr a f).arr a = f (c.arr a) :=
  Tab.getD_put_same _ _ _ _

theorem Core.arr_modArr_ne (c : Core) {a b : Nat} (f : Arr → Arr) (h : b ≠ a) : (c.modArr a f).arr b = c.arr b :=
  Tab.getD_put_ne _ _ _ h

/-- `e` is `d` as far as a step of array `a` of core `k` leaves it: the other arrays, what the core runs and has queued, the other cores
and the memories (R62). -/
structure Dev.SameButArray (d e : Dev) (k a : Nat) : Prop where
  arrs : ∀ b, b ≠ a → (e.core k).arr b = (d.core k).arr b
  run : (e.core k).run = (d.core k).run
  queue : (e.core k).queue = (d.core k).queue
  cores : ∀ j, j ≠ k → e.core j = d.core j
  spad : e.spad = d.spad
  abuf : e.abuf = d.abuf
  mem : e.mem = d.mem

namespace Dev.SameButArray

theorem trans {d e g : Dev} {k a : Nat} (h : d.SameButArray e k a) (h' : e.SameButArray g k a) : d.SameButArray g k a where
  arrs b hb := (h'.arrs b hb).trans (h.arrs b hb)
  run := h'.run.trans h.run
  queue := h'.queue.trans h.queue
  cores j hj := (h'.cores j hj).trans (h.cores j hj)
  spad := h'.spad.trans h.spad
  abuf := h'.abuf.trans h.abuf
  mem := h'.mem.trans h.mem

theorem of_counts {d e : Dev} (h : d.SameButCounts e) (n k a : Nat) : d.SameButArray { e with draws := n } k a := by
  obtain ⟨p, fl, t, fs, o, rfl⟩ := h
  exact ⟨fun _ _ => rfl, rfl, rfl, fun _ _ => rfl, rfl, rfl, rfl⟩

theorem modArr (d : Dev) (k a : Nat) (f : Arr → Arr) : d.SameButArray (d.modCore k (fun c => c.modArr a f)) k a where
  arrs b hb := by rw [Dev.core_modCore_same, Core.arr_modArr_ne _ _ hb]
  run := by rw [Dev.core_modCore_same]; rfl
  queue := by rw [Dev.core_modCore_same]; rfl
  cores j hj := Dev.core_modCore_ne _ _ hj
  spad := rfl
  abuf := rfl
  mem := rfl

end Dev.SameButArray

theorem Dev.SameButCounts.coreErr (d : Dev) (k i n : Nat) : d.SameButCounts (d.coreErr k i n) := by
  obtain ⟨t, h⟩ := d.errAdd_frame (k / 64) (k % 64) i n
  exact ⟨_, _, t, _, _, h⟩

theorem Dev.SameButCounts.ite {d x y : Dev} {c : Prop} [Decidable c] (hx : d.SameButCounts x) (hy : d.SameButCounts y) :
    d.SameButCounts (if c then x else y) := by
  split_ifs
  · exact hx
  · exact hy

/-- The counts of a step, in the order of `countStep`. -/
theorem Dev.SameButCounts.countStep (d : Dev) (k op idx wait : Nat) (repair : Bool) (r : StepResult) :
    d.SameButCounts (d.countStep k op idx wait repair r) := by
  unfold Dev.countStep
  dsimp only
  refine trans (corePerf _ k _ _ _) <| trans (corePerf _ k _ _ _) <| trans (corePerf _ k _ _ _) <| trans (corePerf _ k _ _ _) <|
    trans (corePerf _ k _ _ _) <| trans (ite (corePerf _ k _ _ _) (refl _)) <| trans (coreErr _ k _ _) <| trans (corePerf _ k _ _ _) <|
    trans (corePerf _ k _ _ _) <| trans (coreErr _ k _ _) <| ite ?first (refl _)
  exact trans (ite (coreErr _ k _ _) (refl _)) <| trans (corePerf _ k _ _ _) <| trans (corePerf _ k _ _ _) <|
    ite (trans (corePerf _ k _ _ _) (corePerf _ k _ _ _)) (refl _)

/-- What the feeder loads ahead stands in its array alone, beside the FIFO, the mode and the sums (R53, R57). -/
theorem Dev.loadNext_eq (d : Dev) (k a n : Nat) : ∃ g : Arr → Arr, d.loadNext k a n = d.modCore k (fun c => c.modArr a g) ∧
    ∀ x, ∃ l t b, g x = { x with loaded := l, shadow := t, bank2 := b } := by
  unfold Dev.loadNext
  split
  · refine ⟨_, rfl, fun x => ?_⟩
    split_ifs <;> exact ⟨_, _, _, rfl⟩
  · exact ⟨_, rfl, fun x => ⟨_, _, _, rfl⟩⟩

section
variable {d : Dev} {k a pc op idx : Nat} {rep : Bool} {rest : List ArrOp} (idle : Bool) (sw st : Nat)

theorem Dev.arrayStep_stopped (par : Option Nat) (hs : ((d.core k).arr a).stopped = true) : d.arrayStep k a idle sw st par = d := by
  unfold Dev.arrayStep
  dsimp only
  split
  · rw [if_pos (by simp [hs])]
  · rfl

/-- A parity error stops the array (R72). -/
theorem Dev.arrayStep_parity (v : Nat) (hf : ((d.core k).arr a).fifo = .step pc op idx rep :: rest)
    (hs : ((d.core k).arr a).stopped = false) (hl : a ∉ (d.core k).lostArrays) : ∃ n last, d.arrayStep k a idle sw st (some v) =
      ((((d.corePerf k gARRAY 2 n).modCore k (fun c =>
        c.modArr a (fun x => { x with fifo := [], loaded := none, stopped := true, last := some last }))).modCore k (fun c =>
        { c with lostArrays := a :: c.lostArrays.filter (· != a) })).coreErr k 1 1).coreRaise k 0x0001 (a + v % 4 * 64) := by
  simp only [Dev.arrayStep, hf]
  rw [if_neg (by simp [hs, hl])]
  exact ⟨_, _, rfl⟩

/-- A step that starts is counted, its array takes what it leaves, and the feeder loads the next (R50, R62, R63). -/
theorem Dev.arrayStep_starts (hf : ((d.core k).arr a).fifo = .step pc op idx rep :: rest) (hs : ((d.core k).arr a).stopped = false)
    (hl : a ∉ (d.core k).lostArrays) : ∃ e n m f, d.SameButCounts e ∧
      d.arrayStep k a idle sw st none = (({ e with draws := n }).modCore k (fun c => c.modArr a f)).loadNext k a m ∧
      ∀ x, (f x).fifo = rest ∧ (f x).last = some ((if wlSerial op then 1 else 0) + 2 * (if wlA4 op then 1 else 0) + 4 * wlR op) ∧
        (f x).stopped = x.stopped ∧ (f x).sabs = sabsOf ((usedTiles d k op idx).map Prod.fst) := by
  simp only [Dev.arrayStep, hf]
  rw [if_neg (by simp [hs, hl])]
  exact ⟨_, _, _, _, (Dev.SameButCounts.corePerf d k gARRAY 2 _).trans (.countStep _ k op idx _ rep _), rfl,
    fun x => ⟨rfl, rfl, rfl, runStep_sabs d k a pc op idx _⟩⟩

/-- What array `a` holds of a step that it has started. -/
theorem Dev.arr_arrayStep (hf : ((d.core k).arr a).fifo = .step pc op idx rep :: rest) (hs : ((d.core k).arr a).stopped = false)
    (hl : a ∉ (d.core k).lostArrays) {y : Arr} (hy : y = ((d.arrayStep k a idle sw st none).core k).arr a) :
    y.fifo = rest ∧ y.last = some ((if wlSerial op then 1 else 0) + 2 * (if wlA4 op then 1 else 0) + 4 * wlR op) ∧
      y.stopped = false ∧ y.sabs = sabsOf ((usedTiles d k op idx).map Prod.fst) := by
  obtain ⟨e, n, m, f, he, heq, hstep⟩ := Dev.arrayStep_starts idle sw st hf hs hl
  obtain ⟨g, hload, hg⟩ := Dev.loadNext_eq (({ e with draws := n }).modCore k (fun c => c.modArr a f)) k a m
  have harr : (({ e with draws := n } : Dev).core k).arr a = (d.core k).arr a := by
    obtain ⟨p, fl, t, fs, o, rfl⟩ := he
    rfl
  obtain ⟨hfifo, hlast, hstop, hsabs⟩ := hstep ((d.core k).arr a)
  obtain ⟨l, t, b, hgx⟩ := hg (f ((d.core k).arr a))
  rw [heq, hload, Dev.core_modCore_same, Core.arr_modArr_same, Dev.core_modCore_same, Core.arr_modArr_same, harr, hgx] at hy
  subst hy
  exact ⟨hfifo, hlast, hstop.trans hs, hsabs⟩

theorem Dev.SameButArray.arrayStep (hf : ((d.core k).arr a).fifo = .step pc op idx rep :: rest)
    (hs : ((d.core k).arr a).stopped = false) (hl : a ∉ (d.core k).lostArrays) :
    d.SameButArray (d.arrayStep k a idle sw st none) k a := by
  obtain ⟨e, n, m, f, he, heq, -⟩ := Dev.arrayStep_starts idle sw st hf hs hl
  obtain ⟨g, hload, -⟩ := Dev.loadNext_eq (({ e with draws := n }).modCore k (fun c => c.modArr a f)) k a m
  rw [heq, hload]
  exact (of_counts he n k a).trans ((modArr _ k a f).trans (modArr _ k a g))

end

end Sys2Proof.Machine
end

section
/-! The statements on the ternary array. -/

namespace Sys2Proof.Machine

open Sys2Proof

/-- Refutes O28: the statement asks for no canonical activation buffer. Where a buffer lists address 0 twice, the zero that `ASTREAM` copies
there takes one of the entries away, and the byte of the other still stands. In a canonical buffer all of it holds
(`Dev.doAstream_dense_of_canonical`). -/
theorem not_astreamOfDenseIntegersCopiesItsRows : ¬ Obligations.AstreamOfDenseIntegersCopiesItsRows := by
  unfold Obligations.AstreamOfDenseIntegersCopiesItsRows
  intro h
  obtain ⟨hcopy, -⟩ := h { abuf := [(0, 1#8), (0, 1#8)] } 0 0 1 0 rfl rfl (by decide) (by decide) (by decide) (by decide) _ rfl
  exact absurd (hcopy 0 (by decide)) (by decide +kernel)

/-- Settles O29: the sums by `getD_colSums`, the slots by `runStep_slots_parallel`, the weights by `tileWeight_eq`. -/
theorem columnsAddTheProductsOfTheirTiles : Obligations.ColumnsAddTheProductsOfTheirTiles := by
  unfold Obligations.ColumnsAddTheProductsOfTheirTiles
  refine ⟨fun tiles xs c hc hx => getD_colSums tiles xs hc hx, fun d k a pc op idx bank t hop ht => ?slots, tileWeight_eq⟩
  rw [runStep_slots_parallel d k a pc idx bank hop]
  exact List.mem_map.2 ⟨t, List.mem_range.2 ht, rfl⟩

/-- Settles O30: the counts and their sums, what a step that starts leaves in its array, and the comparison for each column. -/
theorem sabsCountsTheNonZeroWeights : Obligations.SabsCountsTheNonZeroWeights := by
  unfold Obligations.SabsCountsTheNonZeroWeights
  refine ⟨fun tile c => ⟨colCount_eq tile c, colCount_le tile c⟩, fun tiles c hc => getD_sabsOf tiles hc, ?step,
    fun d k op idx h => usedTiles_dense idx h, ?screen⟩
  case step =>
    intro d k a sw st pc op idx idle rep rest hf hs hl
    obtain ⟨-, -, -, hsabs⟩ := Dev.arr_arrayStep idle sw st hf hs hl rfl
    exact hsabs
  case screen =>
    intro sabs theta k c s hc hi ha
    rw [screenCompare_inact sabs theta k hc hi ha, screenCompare_act sabs theta k hc hi ha]
    exact ⟨decide_eq_true_iff, decide_eq_true_iff⟩

/-- Settles O31: an op for the FIFOs issues or stalls, a seed takes effect, and a step of an array starts, or stops it, or is not taken. -/
theorem arrayOpsPassThroughTheirFifos : Obligations.ArrayOpsPassThroughTheirFifos := by
  unfold Obligations.ArrayOpsPassThroughTheirFifos
  refine ⟨?wload, ?seed, ?seedTakesEffect, ?step⟩
  case wload =>
    intro s die core k w x r hk h
    rw [exec_wload, wload]
    exact ⟨fun hroom => by rw [Dev.issueArrays_room hk h hroom], fun hfull => by rw [Dev.issueArrays_full hk h hfull]⟩
  case seed =>
    intro s die core k w x r hk h
    rw [exec_seed, seed]
    exact ⟨fun hroom => by rw [Dev.issueArrays_room hk h hroom]; rfl, fun hfull => by rw [Dev.issueArrays_full hk h hfull]⟩
  case seedTakesEffect =>
    intro s die core arr k pc g v rest hk hf hq
    rw [exec_seedTakeEffect, seedTakeEffect_free hk hf hq]
  case step =>
    intro s die core arr k sw st par pc op idx idle rep rest hk hf hl
    rw [exec_arrayStepStart, arrayStepStart, ← hk]
    refine ⟨fun hs => ?stopped, fun v hs hp => ?halts, fun hs hp => ?starts⟩
    case stopped => rw [Dev.arrayStep_stopped idle sw st par hs]
    case halts =>
      obtain ⟨n, last, h⟩ := Dev.arrayStep_parity idle sw st v hf hs hl
      exact ⟨n, last, by rw [hp, h]⟩
    case starts =>
      subst hp
      obtain ⟨hfifo, hlast, hstop, -⟩ := Dev.arr_arrayStep idle sw st hf hs hl rfl
      obtain ⟨harrs, hrun, hqueue, hcores, hspad, habuf, hmem⟩ := Dev.SameButArray.arrayStep idle sw st hf hs hl
      exact ⟨_, rfl, hfifo, hlast, hstop, harrs, hrun, hqueue, hcores, hspad, habuf, hmem⟩

end Sys2Proof.Machine
end

section
/-! SUPPORT. What the services of the show commands answer where every check passes, and what the end of a container's read leaves
(R94, R382, R384). -/

namespace Sys2Proof.Machine

open Sys2Proof

theorem exec_showLoad (c : Door) (s : State) : exec (.showLoad c) s = .next (s.on (s.dev.serve c 0x0401 svcShowLoad)) := rfl
theorem exec_showUnload (c : Door) (s : State) : exec (.showUnload c) s = .next (s.on (s.dev.serve c 0x0402 svcShowUnload)) := rfl
theorem exec_showContainerRead (h : Nat) (feeds : List Feed) (pins : List (Nat × Nat × Nat × Nat × Nat)) (spread : List Nat)
    (sparse : List (Nat × Nat)) (addrs : List Nat) (s : State) : exec (.showContainerRead h feeds pins spread sparse addrs) s =
      .next (s.on (showContainerRead s.dev h feeds pins spread sparse addrs)) := rfl

section
variable (d : Dev) (c : Door) (op p : Nat)

theorem Dev.took_showOf : (d.took c op).showOf p = d.showOf p := by
  simp only [Dev.showOf, Dev.took_pastures]

theorem Dev.took_openReqs : (d.took c op).openReqs p = d.openReqs p := by
  simp only [Dev.openReqs, Dev.took_reqs]

theorem Dev.took_groupsOf : (d.took c op).groupsOf p = d.groupsOf p := by
  simp only [Dev.groupsOf, Dev.took_groups]

end

section
variable {d : Dev} {c : Door} {p : Nat}

/-- The service of `SHOW_LOAD` where the checks pass (R382). -/
theorem svcShowLoad_ok (hh : checkHeader c 16 [(0, List.replicate 16 255)] = .ok ()) (hs : d.stopped = false)
    (hp : d.pastureOf c.func = some p) (hbuf : dp c 0 8 % 64 = 0) (hlo : 4096 ≤ dp c 8 8) (hhi : dp c 8 8 ≤ 2 ^ 30)
    (hw : d.showOf p = none) (hl : ∀ h ∈ d.handles, hFunc h.1 = c.func → h.2.work.loadsShow = false)
    (hr : d.handlesLeft c.func = true) : svcShowLoad d c = .ok ({ handle := some (d.nextHandle c.func) },
      (d.opened c.func c.tag (.showLoad p (dp c 8 8))).emit (.hostRead c.func (dp c 0 8) (dp c 8 8) (d.nextHandle c.func))) := by
  have hidle : ((d.showOf p).isSome || d.handles.any (fun h => hFunc h.1 == c.func && h.2.work.loadsShow)) = false := by
    simpa [hw] using hl
  simp only [svcShowLoad, hh, notStopped_ok hs, ownPasture_ok hp, aligned64_ok hbuf, inRange_ok hlo hhi, hidle, refuseIf_false,
    handleRoom_ok hr, except_ok_bind, Dev.newHandle_eq, except_pure]

/-- The service of `SHOW_UNLOAD` where nothing of the pasture is open or held and the other checks pass (R384). -/
theorem svcShowUnload_ok {w : Show} (hh : checkHeader c 8 [] = .ok ()) (hs : d.stopped = false) (hp : d.pastureOf c.func = some p)
    (hw : d.showOf p = some w) (hreq : d.openReqs p = 0)
    (hx : ∀ q, Tab.get? d.pastures p = some q → ∀ x ∈ q.prefixes, x.2.count = 0) (hr : d.handlesLeft c.func = true) :
    svcShowUnload d c = .ok ({ handle := some (d.nextHandle c.func) },
      (d.groupsOf p).foldl (fun d g => d.modGroup g (fun x => { x with unloading := true }))
        (d.opened c.func c.tag (.showUnload p (d.groupsOf p)))) := by
  have hfree : ∀ q, Tab.get? d.pastures p = some q → q.prefixes.any (fun x => x.2.count != 0) = false := fun q hq => by
    simpa using hx q hq
  cases hq : Tab.get? d.pastures p with
  | none => simp [Dev.showOf, hq] at hw
  | some q =>
    simp only [svcShowUnload, hh, notStopped_ok hs, ownPasture_ok hp, hw, hreq, hq, hfree q hq, Option.isNone_some, bne_self_eq_false,
      Bool.or_self, refuseIf_false, handleRoom_ok hr, except_ok_bind, Dev.newHandle_eq, except_pure]

end

/-! The end of a container's read (R382). -/

section
variable {d : Dev} {h p : Nat} {bs : List Byte} {x : Handle} {feeds : List Feed} {pins : List (Nat × Nat × Nat × Nat × Nat)}
  {spread : List Nat} {sparse : List (Nat × Nat)} {addrs : List Nat} {f : ShowFacts} (hx : Tab.get? d.handles h = some x)
  (hw : x.work = .showCheck p bs) (hf : f = { feeds, pins, spread, sparse, addrs })
include hx hw hf

theorem showContainerRead_passed {k : Container}
    (hk : containerCheck d p (((Tab.get? d.pastures p).map (·.pens)).getD 0) bs.length bs f = .ok k) :
    showContainerRead d h feeds pins spread sparse addrs = (d.placeShow p k f).finish h sOk [] := by
  subst hf
  simp only [showContainerRead, hx, Option.map_some, hw, hk]

theorem showContainerRead_failed {e : ShowFail}
    (he : containerCheck d p (((Tab.get? d.pastures p).map (·.pens)).getD 0) bs.length bs f = .error e) :
    showContainerRead d h feeds pins spread sparse addrs =
      (d.modPasture p (fun q => { q with loading := false })).finish h e.status [e.check, e.idx, e.kind] := by
  subst hf
  simp only [showContainerRead, hx, Option.map_some, hw, he]

end

end Sys2Proof.Machine
end

section
/-! SUPPORT. Ops that join the queue of a unit, and what the op at the head of each unit's queue does (R81 to R85, R87, R115, R166). -/

namespace Sys2Proof.Machine

open Sys2Proof

/-! Ops that join the queue of a unit (R82, R83). -/

/-- Every op with a unit's queue issues by one rule (R82, R85). -/
theorem exec_unitOp {i : Instr} {die core code : Nat} {x : OpFacts} (h : unitOp i = some (die, core, x, code)) (s : State) :
    exec i s = .next (s.on (s.dev.issueUnit die core code x)) := by
  unfold unitOp at h
  split at h <;> cases h <;> rfl

section
variable {d : Dev} {k die core code w : Nat} {x : OpFacts} {r : Run}

theorem Dev.idleAt_eq (hr : (d.core k).run = some r) : d.idleAt k = decide (r.wait = .none_) := by
  rw [Dev.idleAt, hr, Bool.eq_iff_iff]
  simp

theorem Dev.mayIssue.idleAt (h : d.mayIssue k code w r) : d.idleAt k = true := by
  obtain ⟨-, hrun, hwait, -, -⟩ := h
  rw [Dev.idleAt_eq hrun, decide_eq_true hwait]

theorem Dev.mayIssue.wait_over (h : d.mayIssue k code w r) : (opW w && !(d.core k).maskDone 0) = false := by
  obtain ⟨-, -, -, -, hW⟩ := h
  cases hw : opW w
  · rfl
  · rw [hW hw]; rfl

/-- An op word with W waits for every unit (R84). -/
theorem Dev.issue_wait (body : Dev → Nat → Nat → Nat → Dev) (hk : k = coreKey die core) (ho : d.opAt k = some w)
    (hr : (d.core k).run = some r) (hw : r.wait = .none_) (hc : opCode w = code) (hW : opW w = true) (hm : (d.core k).maskDone 0 = false) :
    d.issue die core code x body = d.waits k .w := by
  subst hk
  simp only [Dev.issue, ho, hr]
  rw [if_neg (by simp [hw, hc]), if_pos (by simp [hW, hm])]
  rfl

/-- Where the sequencer waits, or another opcode stands at the pc, nothing issues. -/
theorem Dev.issue_other (body : Dev → Nat → Nat → Nat → Dev) (hk : k = coreKey die core) (ho : d.opAt k = some w)
    (hr : (d.core k).run = some r) (h : r.wait ≠ .none_ ∨ opCode w ≠ code) : d.issue die core code x body = d := by
  subst hk
  simp only [Dev.issue, ho, hr]
  rw [if_pos (by simpa using h)]

/-- An op whose unit has room joins the end of its queue, and the units do what they can. -/
theorem Dev.issueUnit_room (hk : k = coreKey die core) (h : d.mayIssue k code w r) (hroom : ((d.core k).queued (unitOf w)).length < 4) :
    d.issueUnit die core code x = (((d.issued k x).runNotes k w).modCore k (fun c =>
      { c with queue := c.queue ++ [queueEntry w r.pc x] })).pump k := by
  have ⟨hop, _⟩ := h
  subst hk
  simp only [Dev.issueUnit, hop]
  rw [if_neg (by simp [hroom]), Dev.issue_may _ rfl h]
  rfl

/-- Where its unit's queue is full the sequencer stalls. -/
theorem Dev.issueUnit_full (hk : k = coreKey die core) (h : d.mayIssue k code w r) (hfull : 4 ≤ ((d.core k).queued (unitOf w)).length) :
    d.issueUnit die core code x = d.waits k .queue := by
  have ⟨hop, _, _, hcode, _⟩ := h
  subst hk
  simp only [Dev.issueUnit, hop]
  rw [if_pos (by simp [h.idleAt, hcode, h.wait_over, hfull])]
  rfl

theorem Dev.issueUnit_wait (hk : k = coreKey die core) (ho : d.opAt k = some w) (hr : (d.core k).run = some r) (hw : r.wait = .none_)
    (hc : opCode w = code) (hW : opW w = true) (hm : (d.core k).maskDone 0 = false) :
    d.issueUnit die core code x = d.waits k .w := by
  subst hk
  simp only [Dev.issueUnit, ho]
  rw [if_neg (by simp [hW, hm]), Dev.issue_wait _ rfl ho hr hw hc hW hm]

theorem Dev.issueUnit_other (hk : k = coreKey die core) (ho : d.opAt k = some w) (hr : (d.core k).run = some r)
    (h : r.wait ≠ .none_ ∨ opCode w ≠ code) : d.issueUnit die core code x = d := by
  have hnot : (d.idleAt k && opCode w == code) = false := by
    rw [Dev.idleAt_eq hr]
    simpa [imp_iff_not_or] using h
  subst hk
  simp only [Dev.issueUnit, ho]
  rw [if_neg (by simp [hnot]), Dev.issue_other _ rfl ho hr h]

theorem Dev.issueUnit_idle (hk : k = coreKey die core) (hr : (d.core k).run = none) : d.issueUnit die core code x = d := by
  have ho : d.opAt k = none := by rw [Dev.opAt, hr]; rfl
  subst hk
  simp only [Dev.issueUnit, ho]

end

/-! The op at the head of a unit's queue (R81, R82, R87, R115, R166). -/

section
variable {d : Dev} {k : Nat} {q : QOp}

/-- An op that completes leaves its queue, and the next is tried. -/
theorem Dev.runUnit_done {e : Dev} (n : Nat) (hq : ((d.core k).queued q.unit).head? = some q) (he : d.runHead k q = (e, none)) :
    d.runUnit k q.unit (n + 1) = (e.qDone k q.unit q.pc).runUnit k q.unit n := by
  rw [Dev.runUnit, hq]
  simp only [he]

theorem Dev.runHead_feeder (hu : q.unit = 0) : d.runHead k q =
    if (d.core k).abufBusy q.pc (opZ q.op % 2 ^ 16) (asBytes q.op) then (d, some 0) else (d.doAstream k q.op, none) := by
  simp [Dev.runHead, hu]

theorem Dev.runHead_vector (hu : q.unit = 1) : d.runHead k q =
    if opCode q.op = 0x03 then (d.doScreen k q.pc q.op, none)
    else if opCode q.op = 0x04 then
      if (d.core k).waitsFor (selected q.op) q.pc then (d, some 0) else (d.doRequant k q.pc q.op, none)
    else if opCode q.op = 0x05 then (d.doLrank k q.pc q.op, none)
    else if opCode q.op = 0x08 then (d.doNorm k q.pc q.op, none)
    else if opCode q.op = 0x09 then (d.doSoftmax k q.pc q.op, none)
    else (d.doAudit k q.pc q.op q.facts, none) := by
  simp [Dev.runHead, hu]

theorem Dev.runHead_juggler (hu : q.unit = 2) : d.runHead k q = (d.doJuggle k q.pc q.op, none) := by
  simp [Dev.runHead, hu]

theorem Dev.runHead_tumbler (hu : q.unit = 3) : d.runHead k q = (d.doRotate k q.op, none) := by
  simp [Dev.runHead, hu]

/-- A due flush goes ahead of the Pound's ops and of those of DMA engine 1 (R166). -/
theorem Dev.runHead_flush (hu : q.unit = 4 ∨ q.unit = 7) (hf : (d.core k).pound.flushDue = true) : d.runHead k q = (d, some q.done) := by
  obtain hu | hu := hu <;> simp [Dev.runHead, hu, hf]

theorem Dev.runHead_drain (hu : q.unit = 4) (hf : (d.core k).pound.flushDue = false) (hc : opCode q.op = 0x0B) :
    d.runHead k q = (d.doDrain k q.op, none) := by
  simp [Dev.runHead, hu, hf, hc]

theorem Dev.runHead_baler (hu : q.unit = 5) :
    d.runHead k q = (if opCode q.op = 0x0C then d.doBale k q.op else d.doUnbale k q.op, none) := by
  simp [Dev.runHead, hu]

theorem Dev.runHead_dma (hu : q.unit = 6 ∨ q.unit = 7 ∧ (d.core k).pound.flushDue = false) :
    d.runHead k q = (d.doDma k q.op (opCode q.op == 0x10) q.errs, none) := by
  obtain hu | ⟨hu, hf⟩ := hu
  · simp [Dev.runHead, hu]
  · simp [Dev.runHead, hu, hf]

end

end Sys2Proof.Machine
end

section
/-! SUPPORT. The transfer of a channel within a package and between packages, and the flush of the Pound's log (R162, R166, R168, R250,
R273). -/

namespace Sys2Proof.Machine

open Sys2Proof

theorem exec_exchangeTransfer (p ch die core : Nat) (data : List Byte) (s : State) :
    exec (.exchangeTransfer p ch die core data) s = .next (s.on (exchangeTransfer s.dev p ch die core data)) := rfl
theorem exec_poundFlush (die core stall : Nat) (s : State) :
    exec (.poundFlush die core stall) s = .next (s.on (poundFlush s.dev die core stall)) := rfl

theorem fld_of_exchangeOf {sh : Show} {ch x : Nat} (h : exchangeOf sh ch = some x) : fld x 0 12 = ch := by
  simpa using List.find?_some h

section
variable {d : Dev} {p ch die core k x : Nat} {sh : Show} {q : QOp}

theorem Dev.sendsOn.channel (h : d.sendsOn p ch k sh q x) : fld x 0 12 = ch := by
  obtain ⟨-, -, -, -, -, -, -, -, hx, -, -⟩ := h
  exact fld_of_exchangeOf hx

/-! Which way a channel moves (R250). -/

/-- A `SEND` of the bound sender goes to its receiver on this package or on another. -/
theorem exchangeTransfer_send (data : List Byte) (hk : k = coreKey die core) (h : d.sendsOn p ch k sh q x) :
    exchangeTransfer d p ch die core data = if fld x 40 12 = sh.position then d.sendIn p k x q else d.sendOut k sh x q := by
  obtain ⟨hshow, hred, hhead, hcode, hchan, hrun, hlayer, hshard, hx, hpos, hcore⟩ := h
  subst hk
  simp only [exchangeTransfer, hshow, hred, hhead]
  rw [if_neg (by simp), Option.filter_some, if_pos (by simp [hcode, hchan, hrun])]
  simp only [Dev.transferSend, hlayer, hshard, hx]
  rw [if_neg (by simp [hpos, hcore])]

/-- Without a `SEND` on the channel its receiver takes what another package or a die agent has sent. -/
theorem exchangeTransfer_take (data : List Byte) (h : d.takesOn p ch (coreKey die core) sh x) :
    exchangeTransfer d p ch die core data = if fld x 16 12 ≠ sh.position then d.recvOut p sh x
      else if fld x 34 6 = 63 then d.takeData p ch (bit x 12) data else d := by
  obtain ⟨hshow, hsend, hrecv, hq, hx, hpos⟩ := h
  simp only [exchangeTransfer, hshow, hsend, hrecv, hq, hx]
  rw [if_neg (by simp)]
  simp only [List.head?_nil, Option.filter_none]
  rw [if_neg (by simp [hpos])]

/-! Within the package (R162, R250). -/

theorem Dev.sendIn_unmatched {j : Nat} (hagent : fld x 58 6 ≠ 63) (hj : j = coreKey (fld x 52 6) (fld x 58 6))
    (h : (d.recvsOn p (fld x 0 12)).find? (fun t => t.1 == j && d.runStart t.1 == d.runStart k) = none) : d.sendIn p k x q = d := by
  subst hj
  rw [Dev.sendIn, if_neg hagent]
  simp only [h]

/-- Both ops complete with the rows moved. -/
theorem Dev.sendIn_matched {j e : Nat} {t : QOp} (hagent : fld x 58 6 ≠ 63) (hj : j = coreKey (fld x 52 6) (fld x 58 6))
    (he : e = d.descOf k (fld (opX q.op) 0 9))
    (h : (d.recvsOn p (fld x 0 12)).find? (fun t => t.1 == j && d.runStart t.1 == d.runStart k) = some (j, t)) :
    d.sendIn p k x q = (((if bit x 12 then (d.moveAs k j e (d.descOf j (fld (opX t.op) 0 9))
        (min (dRuns e) (dRuns (d.descOf j (fld (opX t.op) 0 9)))) 0).qDone j 8 t.pc
      else d.recvInto j t (d.spRead k (dLocal e) (dExtent e))).qDone k 8 q.pc).pump k).pump j := by
  subst hj he
  rw [Dev.sendIn, if_neg hagent]
  simp only [h]

/-! Between packages (R250, R273). -/

/-- A `SEND` whose rows have been delivered completes. -/
theorem Dev.sendOut_done (h : q.done ≠ 0) : d.sendOut k sh x q = (d.qDone k 8 q.pc).pump k := by
  rw [Dev.sendOut, if_pos h]

section
variable {ready : StileMsg → Bool} (hready : ∀ m, ready m = (m.kind == 1 && m.chan == fld x 0 12 && coreKey m.die m.core == k &&
  m.step == d.runStart k && m.src == sh.addrOf (fld x 40 12)))
include hready

theorem Dev.sendOut_unready (h : q.done = 0) (hin : d.inbox.any ready = false) : d.sendOut k sh x q = d := by
  obtain rfl := funext hready
  rw [Dev.sendOut, if_neg (by simp [h])]
  simp only [hin]
  rfl

/-- Once the ready message has come the rows leave in messages. -/
theorem Dev.sendOut_ready (h : q.done = 0) (hin : d.inbox.any ready = true) (has : bit x 12 = false) : d.sendOut k sh x q =
    ((d.dropMsgs ready).modCore k (fun c => { c with
      queue := c.queue.map (fun y => if y.unit = 8 ∧ y.pc = q.pc then { y with done := 1 } else y) })).sendTo sh (fld x 40 12) 0
        (fld x 52 6) (fld x 58 6) (fld x 0 12) (d.runStart k) 0
        (d.spRead k (dLocal (d.descOf k (fld (opX q.op) 0 9))) (dExtent (d.descOf k (fld (opX q.op) 0 9)))) := by
  obtain rfl := funext hready
  rw [Dev.sendOut, if_neg (by simp [h])]
  simp only [hin, Dev.sendBytes, has, Bool.and_eq_true, decide_eq_true_eq]
  rfl

end

/-- The bound receiver takes a transfer whose last message has come. -/
theorem Dev.recvOut_complete {h : StileMsg} {bs : List Byte} (hk : k = coreKey (fld x 52 6) (fld x 58 6))
    (hq : (d.recvsOn p (fld x 0 12)).find? (fun t => t.1 == k) = some (k, q))
    (hin : d.transferIn (fun m => m.kind == 0 && m.chan == fld x 0 12 && coreKey m.die m.core == k && m.step == d.runStart k &&
      m.src == sh.addrOf (fld x 16 12)) = some (h, bs)) :
    d.recvOut p sh x = ((d.dropMsgs h.same).recvData k q (bit x 12) bs).pump k := by
  subst hk
  simp only [Dev.recvOut, hq, hin]

end

/-! The flush of the Pound's log (R166, R168). -/

/-- Poison that a core meets stands in the core alone, beside its Pound (R432). -/
theorem Dev.pound_metPoison (d : Dev) (k : Nat) (l : List Nat) : ((d.metPoison k l).core k).pound = (d.core k).pound := by
  unfold Dev.metPoison
  split_ifs
  · rfl
  · rw [Dev.core_modCore_same]

theorem Dev.mem_metPoison (d : Dev) (k : Nat) (l : List Nat) : (d.metPoison k l).mem = d.mem := by
  unfold Dev.metPoison
  split_ifs <;> rfl

theorem Dev.SameButCounts.core {d e : Dev} (h : d.SameButCounts e) (k : Nat) : e.core k = d.core k := by
  obtain ⟨p, fl, t, fs, o, rfl⟩ := h
  rfl

theorem Dev.SameButCounts.mem {d e : Dev} (h : d.SameButCounts e) : e.mem = d.mem := by
  obtain ⟨p, fl, t, fs, o, rfl⟩ := h
  rfl

/-- The Pound once the log of its entry `e` has been written to the overflow region (R166). -/
def Pound.flush (p : Pound) (e : Nat) : Pound :=
  { p with log := [], flushed := p.flushed ++ p.log, flushDue := false, ovBytes := p.ovBytes + 512 * logRows e }

section
variable {d f : Dev} {k e addr lim : Nat} {ex ro as_ : Bool} {x : StackReply} (stall : Nat) (he : d.poundEntry k = some e)
  (hb : Tab.get? (d.core k).bases (fld e 12 4) = some (.linear addr lim ex ro as_))
  (hw : d.remoteWrite k (addr + (d.core k).pound.ovBytes) 0 false [] (d.spRead k (logOff e) (512 * logRows e)) = (x, f))
include he hb hw

/-- Beside what the write of the log does, a flush changes its core's Pound and poison, and counts. -/
theorem Dev.doFlush_linear : ∃ g, (f.metPoison k x.poison).SameButCounts g ∧
      (g.modCore k (fun c => { c with pound := c.pound.flush e })).SameButCounts (d.doFlush k stall) := by
  refine ⟨(f.metPoison k x.poison).wideRows k (logRows e), .corePerf _ k _ _ _, ?_⟩
  simp only [Dev.doFlush, he, Option.getD_some, hb, hw]
  exact .trans (.corePerf _ k gPOUND 2 1) (.corePerf _ k gPOUND 4 stall)

theorem Dev.mem_doFlush : (d.doFlush k stall).mem = f.mem := by
  obtain ⟨g, hrows, hflush⟩ := Dev.doFlush_linear stall he hb hw
  rw [hflush.mem, Dev.modCore_mem, hrows.mem, Dev.mem_metPoison]

theorem Dev.pound_doFlush : ((d.doFlush k stall).core k).pound = (f.core k).pound.flush e := by
  obtain ⟨g, hrows, hflush⟩ := Dev.doFlush_linear stall he hb hw
  rw [hflush.core, Dev.core_modCore_same, hrows.core, Dev.pound_metPoison]

end

theorem poundFlush_due {d : Dev} {die core k : Nat} (stall : Nat) (hk : k = coreKey die core) (hf : (d.core k).pound.flushDue = true) :
    poundFlush d die core stall = (d.doFlush k stall).pump k := by
  subst hk
  rw [poundFlush, if_pos hf]

end Sys2Proof.Machine
end

section
/-! The statements on shows, the units of a core, exchanges and the Pound's flush. -/

namespace Sys2Proof.Machine

open Sys2Proof

/-- Settles O10: each service answers as its `_ok` lemma says, on the package whose mailbox has taken the slot; the end of the
container's read follows its checks. -/
theorem showCommandsActAsAccepted : Obligations.ShowCommandsActAsAccepted := by
  unfold Obligations.ShowCommandsActAsAccepted
  refine ⟨?load, ?read, ?unload⟩
  case load =>
    intro s c p hd hh hs hp hbuf hlo hhi hw hl hr
    rw [← s.dev.nextHandle_took c 0x0401]
    refine exec_accepts (exec_showLoad c s) hd (svcShowLoad_ok hh ?_ ?_ hbuf hlo hhi ?_ ?_ ?_)
    all_goals simpa only [Dev.took_stopped, Dev.took_pastureOf, Dev.took_showOf, Dev.took_handles, Dev.took_handlesLeft]
  case read =>
    rintro s h p pens bs feeds pins spread sparse addrs f x hx hw rfl hf
    rw [exec_showContainerRead]
    exact ⟨fun k hk => by rw [showContainerRead_passed hx hw hf hk], fun e he => by rw [showContainerRead_failed hx hw hf he]⟩
  case unload =>
    intro s c p w hd hh hs hp hw hreq hx hr
    rw [← s.dev.took_groupsOf c 0x0402]
    refine exec_accepts (exec_showUnload c s) hd (svcShowUnload_ok (w := w) hh ?_ ?_ ?_ ?_ ?_ ?_)
    all_goals simpa only [Dev.took_stopped, Dev.took_pastureOf, Dev.took_showOf, Dev.took_openReqs, Dev.took_pastures, Dev.took_handlesLeft]

/-- Settles O26: the ops issue by one rule, and each clause is a case of it. -/
theorem unitOpsIssueAndJoinTheirUnit : Obligations.UnitOpsIssueAndJoinTheirUnit := by
  unfold Obligations.UnitOpsIssueAndJoinTheirUnit
  intro i die core code k x hi hk
  simp only [exec_unitOp hi]
  refine ⟨?room, ?full, ?wait, ?other, ?idle⟩
  case room =>
    intro s w r h hroom
    rw [Dev.issueUnit_room hk h hroom]
  case full =>
    intro s w r h hfull
    rw [Dev.issueUnit_full hk h hfull]
  case wait =>
    intro s w r ho hr hw hc hW hm
    rw [Dev.issueUnit_wait hk ho hr hw hc hW hm]
  case other =>
    intro s w r ho hr h
    rw [Dev.issueUnit_other hk ho hr h, State.on_dev_self]
  case idle =>
    intro s hr
    rw [Dev.issueUnit_idle hk hr, State.on_dev_self]

/-- Settles O27: the head of a queue runs as its unit says. -/
theorem unitsRunTheirOpsInOrder : Obligations.UnitsRunTheirOpsInOrder := by
  unfold Obligations.UnitsRunTheirOpsInOrder
  intro d k q
  refine ⟨fun n hq e he => Dev.runUnit_done n hq he, Dev.runHead_feeder, ?screen, ?requant, ?lrank, ?norm, ?softmax, ?audit,
    Dev.runHead_juggler, Dev.runHead_tumbler, fun hu => Dev.runHead_flush (.inl hu), Dev.runHead_drain, ?bale, ?unbale,
    fun hu => Dev.runHead_flush (.inr hu), Dev.runHead_dma⟩
  case bale =>
    intro hu hc
    rw [Dev.runHead_baler hu, if_pos hc]
  case unbale =>
    intro hu hc
    rw [Dev.runHead_baler hu, if_neg (by simp [hc])]
  all_goals
    intro hu hc
    simp [Dev.runHead_vector hu, hc]

/-- Settles O33: a channel moves the way its entry binds it, and each way has its lemma; the flush leaves the Pound of
`Pound.flush`. -/
theorem exchangesMoveRowsAndTheLogFlushes : Obligations.ExchangesMoveRowsAndTheLogFlushes := by
  unfold Obligations.ExchangesMoveRowsAndTheLogFlushes
  refine ⟨?within, ?out, ?take, ?recv, ?flush⟩
  case within =>
    intro s p ch die core k j data sh q t x e hk h hhere hagent hj he
    obtain rfl : fld x 0 12 = ch := h.channel
    rw [exec_exchangeTransfer, exchangeTransfer_send data hk h, if_pos hhere]
    refine ⟨fun hnone => ?unmatched, fun hsome => ?matched⟩
    case unmatched => rw [Dev.sendIn_unmatched hagent hj hnone, State.on_dev_self]
    case matched =>
      rw [Dev.sendIn_matched hagent hj he hsome]
      exact ⟨fun has => by rw [has]; rfl, fun has => by rw [has]; rfl⟩
  case out =>
    intro s p ch die core k data sh q x ready hk h haway hready
    rw [exec_exchangeTransfer, exchangeTransfer_send data hk h, if_neg haway]
    refine ⟨fun hd => ?done, fun hd hin => ?unready, fun hd hin has => ?sends⟩
    case done => rw [Dev.sendOut_done hd]
    case unready => rw [Dev.sendOut_unready hready hd hin, State.on_dev_self]
    case sends => rw [Dev.sendOut_ready hready hd hin has]
  case take =>
    intro s p ch die core x data sh h
    rw [exec_exchangeTransfer, exchangeTransfer_take data h]
    exact ⟨fun haway => by rw [if_pos haway], fun hhere hagent => by rw [if_neg (by simp [hhere]), if_pos hagent]⟩
  case recv =>
    intro d p k x sh q h bs hk hq hin
    exact Dev.recvOut_complete hk hq hin
  case flush =>
    intro s die core k stall e addr lim ex ro as_ x d hk hf he hb hw
    exact ⟨s.dev.doFlush k stall, by rw [exec_poundFlush, poundFlush_due stall hk hf], Dev.mem_doFlush stall he hb hw,
      Dev.pound_doFlush stall he hb hw⟩

end Sys2Proof.Machine
end

section
/-! SUPPORT. What a participant of a tree sends to another package (R185 to R187). -/

namespace Sys2Proof.Machine

open Sys2Proof

theorem exec_treeTransferReceive (p n i : Nat) (s : State) :
    exec (.treeTransferReceive p n i) s = .next (s.on (((treeTransfer s.dev p n i).enterHeld p n).pumpAll)) := rfl

/-- A participant has one level at which it sends: the lowest set bit of its index (R185). -/
theorem sendLevel_eq {e i l : Nat} (hi : i % 2 ^ (l + 1) = 2 ^ l) (hl : l < rLevels e) : sendLevel e i = l := by
  have hfind : (List.range (rLevels e)).find? (fun m => i % 2 ^ (m + 1) == 2 ^ m) = some l := by
    refine List.find?_range_eq_some.2 ⟨beq_iff_eq.2 hi, List.mem_range.2 hl, fun m hm => ?_⟩
    have hzero : i % 2 ^ (m + 1) = 0 :=
      calc i % 2 ^ (m + 1) = i % 2 ^ (l + 1) % 2 ^ (m + 1) := (Nat.mod_mod_of_dvd i (Nat.pow_dvd_pow 2 (by omega))).symm
        _ = 2 ^ l % 2 ^ (m + 1) := by rw [hi]
        _ = 0 := Nat.mod_eq_zero_of_dvd (Nat.pow_dvd_pow 2 hm)
    rw [hzero, Bool.not_eq_true', beq_eq_false_iff_ne]
    exact (Nat.two_pow_pos m).ne
  rw [sendLevel, hfind, Option.getD_some]

theorem redLocal_of_part {sh : Show} {e i : Nat} {q : Nat × Nat × Nat} (h : redPart sh e i = some q) :
    redLocal sh e i = (q.1 == sh.position) := by rw [redLocal, h]

theorem Dev.treeReady_iff {d : Dev} {p n j l : Nat} :
    d.treeReady p n j l = true ↔ (d.part p n j).st ≠ 0 ∧ (d.part p n j).level = l := by
  simp [Dev.treeReady]

section
variable {d : Dev} {p n i l e : Nat} {sh : Show}

/-- A participant of this package that is not the root sends its buffer while its tree runs. -/
theorem treeTransfer_send (hs : d.showOf p = some sh) (he : (redEntries sh)[n]? = some e) (ht : (d.red p n).tree = true) (h0 : 0 < i)
    (hi : i < rCount e) (hd : (d.red p n).done = false) (ha : (d.red p n).abandoned = false) (hv : (d.red p n).live = true)
    (hloc : redLocal sh e i = true) : treeTransfer d p n i = d.treeSend p n sh e i := by
  simp only [treeTransfer, hs, he]
  rw [if_neg (by simp [ht, hv, hi]), if_neg (by simp [hloc]), if_neg (by simp [hd, ha, h0.ne'])]

/-- A buffer that is final at its phase and whose receiver is elsewhere leaves in messages to the receiver's Graze die. -/
theorem Dev.treeSend_away {pos die core : Nat} {bs : List Byte} {ps : List Nat} {f : Dev} (hl : sendLevel e i = l)
    (hpart : redPart sh e i = some (pos, die, core)) (hready : d.treeReady p n i l = true) (hgone : (d.part p n i).gone = false)
    (hphase : l ∈ (d.red p n).phases) (hheld : (l, die) ∉ (d.red p n).heldPhases)
    (hread : (bs, ps, f) = if (d.part p n i).st = 2 then ([], [], d) else d.treeRead sh e i)
    (haway : redLocal sh e (i - 2 ^ l) = false) : d.treeSend p n sh e i =
    ((f.modPart p n i (fun y => { y with gone := true })).sendTo sh (((redPart sh e (i - 2 ^ l)).map Prod.fst).getD 0) 2
      (homeGraze sh e (i - 2 ^ l)) 63 n (d.red p n).step (redTag i (d.part p n i).st false) bs).treeGone p n sh e := by
  subst hl
  have hdue : ¬ (!d.treeReady p n i (sendLevel e i) || (d.part p n i).gone || !(d.red p n).phases.contains (sendLevel e i) ||
      (d.red p n).heldPhases.contains (sendLevel e i, die)) = true := by
    simp [hready, hgone, hphase, hheld]
  simp only [Dev.treeSend, hpart, Option.map_some, Option.getD_some]
  rw [if_neg hdue, if_neg (by simp [haway]), ← hread, if_neg (by simp [haway])]

end

/-- The transfer of a due participant to another package is addressed to the Graze die where the receiver's Fold combines it (R186). -/
theorem treeTransferReceive_away {s : State} {p n i l j die core : Nat} {sh : Show} {e : Nat} {bs : List Byte} {ps : List Nat} {d : Dev}
    (hs : s.dev.showOf p = some sh) (he : (redEntries sh)[n]? = some e) (ht : (s.dev.red p n).tree = true) (h0 : 0 < i)
    (hi : i < rCount e) (hd : (s.dev.red p n).done = false) (ha : (s.dev.red p n).abandoned = false)
    (hv : (s.dev.red p n).live = true) (hbit : i % 2 ^ (l + 1) = 2 ^ l) (hl : l < rLevels e) (hj : j = i - 2 ^ l)
    (hpart : redPart sh e i = some (sh.position, die, core)) (hst : (s.dev.part p n i).st ≠ 0)
    (hgone : (s.dev.part p n i).gone = false) (hlev : (s.dev.part p n i).level = l) (hphase : l ∈ (s.dev.red p n).phases)
    (hheld : (l, die) ∉ (s.dev.red p n).heldPhases)
    (hread : (bs, ps, d) = if (s.dev.part p n i).st = 2 then ([], [], s.dev) else s.dev.treeRead sh e i)
    (haway : redLocal sh e j = false) : exec (.treeTransferReceive p n i) s = .next (s.on
      (((((d.modPart p n i (fun y => { y with gone := true })).sendTo sh (((redPart sh e j).map Prod.fst).getD 0) 2 (homeGraze sh e j) 63 n
        (s.dev.red p n).step (redTag i (s.dev.part p n i).st false) bs).treeGone p n sh e).enterHeld p n).pumpAll)) := by
  subst hj
  rw [exec_treeTransferReceive, treeTransfer_send hs he ht h0 hi hd ha hv (by simp [redLocal_of_part hpart]),
    Dev.treeSend_away (sendLevel_eq hbit hl) hpart (Dev.treeReady_iff.2 ⟨hst, hlev⟩) hgone hphase hheld hread haway]

/-- A sum in TREE mode of an I32 element, whose participant 0 is core 0 of die 1 of position 1 and whose participant 1 is core 0 of die 0
of position 0 (R178, R179). -/
def sumOfTwoPens : Show where
  secs := [(3, [2 ^ 8 + 2 ^ 16]), (4, [2 ^ 16 + 2 ^ 8, 0])]
  addrs := [0, 1]

/-- The package at position 0 of that sum, whose participant has contributed EMPTY and whose phase 0 has come. Its link to position 1
holds its flits back. -/
def sumOfTwoPensDue : State where
  dev := {
    pastures := [(0, { pens := 1, func := 0, ready := true, sh := some sumOfTwoPens })]
    reds := [(0, { live := true, parts := [(1, { st := 2 })], phases := [0] })]
    route := { loaded := true, sizes := 1 }
    links := [(1, { st := .up, txPause := true })] }

/-- DSTDIE of the messages that wait at the links of the package that an answer leaves (R273). -/
def Answer.dstDies : Answer → List Nat
  | .next s => s.dev.links.flatMap (fun x => x.2.queue.flatMap (fun q => q.2.flatMap (fun m => m.flits.map (fun f => rdLE f.2 6 1 % 64))))
  | _ => []

end Sys2Proof.Machine
end

section
/-! The statement on the transfers of reductions. -/

namespace Sys2Proof.Machine

open Sys2Proof

/-- Refutes O41: the statement addresses the messages of a transfer to another package to the home Graze die of their sender, and the model
to that of their receiver (`treeTransferReceive_away`), where the combine is (R186). The two differ where the participants are in different
pens: in `sumOfTwoPensDue` the message goes to die 1, and the statement asks for die 0. -/
theorem not_treeTransfersCombineAtTheReceiver : ¬ Obligations.TreeTransfersCombineAtTheReceiver := by
  unfold Obligations.TreeTransfersCombineAtTheReceiver
  intro h
  obtain ⟨hsend, -⟩ := h
  obtain ⟨-, -, haway⟩ := hsend sumOfTwoPensDue 0 0 1 0 0 0 0 sumOfTwoPens (2 ^ 8 + 2 ^ 16) [] [] sumOfTwoPensDue.dev
    rfl rfl rfl (by decide) (by decide) rfl rfl rfl rfl (by decide) rfl rfl (by decide) rfl rfl (by decide) (by decide) rfl
  have hmodel : Answer.dstDies (exec (.treeTransferReceive 0 0 1) sumOfTwoPensDue) = [1] := by decide +kernel
  have hstated : Answer.dstDies (exec (.treeTransferReceive 0 0 1) sumOfTwoPensDue) = [0] :=
    (congrArg Answer.dstDies (haway rfl)).trans (by decide +kernel)
  exact absurd (hmodel.symm.trans hstated) (by decide)

end Sys2Proof.Machine
end

section
/-! SUPPORT. What every command leaves has canonical memories: an arm for each command, by the lemma of its operation. -/

namespace Sys2Proof.Machine

open Sys2Proof

/-- An answer that goes on leaves canonical memories. -/
def Answer.Canon (a : Answer) : Prop := ∀ t, a = .next t → t.dev.Canon

theorem next_canon {p : List Instr} {d : Dev} (h : d.Canon) : Answer.Canon (.next { pending := p, dev := d }) := by
  rintro _ ⟨⟩
  exact h

/-- Every meaning is an operation on the package, and every operation keeps canonical memories. -/
theorem exec_canon {s : State} (h : s.dev.Canon) : ∀ i : Instr, Answer.Canon (exec i s)
  | .cfgBegin _ => next_canon (cfgBegin_canon _ _ h)
  | .cfgSet _ => next_canon (cfgSet_canon _ _ h)
  | .cfgGet _ => next_canon (cfgGet_canon _ _ h)
  | .cfgCommit _ => next_canon (cfgCommit_canon _ _ h)
  | .cfgRollback _ => next_canon (cfgRollback_canon _ _ h)
  | .pastureCreate _ => next_canon (pastureCreate_canon _ _ h)
  | .pastureDestroy _ => next_canon (pastureDestroy_canon _ _ h)
  | .pastureQuery _ => next_canon (pastureQuery_canon _ _ h)
  | .imageLoad _ => next_canon (imageLoad_canon _ _ h)
  | .imageShare _ => next_canon (imageShare_canon _ _ h)
  | .imageReseed _ => next_canon (imageReseed_canon _ _ h)
  | .imageUnload _ => next_canon (imageUnload_canon _ _ h)
  | .showLoad _ => next_canon (showLoad_canon _ _ h)
  | .showContainerRead _ _ _ _ _ _ => next_canon (showContainerRead_canon _ _ _ _ _ _ _ h)
  | .showUnload _ => next_canon (showUnload_canon _ _ h)
  | .reqOpen _ => next_canon (reqOpen_canon _ _ h)
  | .reqAppend _ => next_canon (reqAppend_canon _ _ h)
  | .reqGenerate _ => next_canon (reqGenerate_canon _ _ h)
  | .reqPause _ => next_canon (reqPause_canon _ _ h)
  | .reqResume _ => next_canon (reqResume_canon _ _ h)
  | .reqClose _ => next_canon (reqClose_canon _ _ h)
  | .reqQuery _ => next_canon (reqQuery_canon _ _ h)
  | .prefixBuild _ => next_canon (prefixBuild_canon _ _ h)
  | .prefixTrain _ => next_canon (prefixTrain_canon _ _ h)
  | .prefixDrop _ => next_canon (prefixDrop_canon _ _ h)
  | .adapterTrain _ => next_canon (adapterTrain_canon _ _ h)
  | .expertMapSet _ _ => next_canon (expertMapSet_canon _ _ _ h)
  | .expertMapGet _ => next_canon (expertMapGet_canon _ _ h)
  | .linkTrain _ => next_canon (linkTrain_canon _ _ h)
  | .linkQuery _ => next_canon (linkQuery_canon _ _ h)
  | .routeSet _ => next_canon (routeSet_canon _ _ h)
  | .beatSync _ => next_canon (beatSync_canon _ _ h)
  | .calQuery _ => next_canon (calQuery_canon _ _ h)
  | .diagBist _ => next_canon (diagBist_canon _ _ h)
  | .diagMargin _ => next_canon (diagMargin_canon _ _ h)
  | .diagDump _ => next_canon (diagDump_canon _ _ h)
  | .tallyRead _ => next_canon (tallyRead_canon _ _ h)
  | .tallyLogRead _ => next_canon (tallyLogRead_canon _ _ h)
  | .faultQuery _ => next_canon (faultQuery_canon _ _ h)
  | .faultAck _ => next_canon (faultAck_canon _ _ h)
  | .hostReadComplete _ _ _ => next_canon (hostReadComplete_canon _ _ _ _ h)
  | .ledgerPost _ _ => next_canon (ledgerPost_canon _ _ _ h)
  | .ledgerHeadWrite _ _ => next_canon (ledgerHeadWrite_canon _ _ _ h)
  | .ledgerEnableWrite _ _ => next_canon (ledgerEnableWrite_canon _ _ _ h)
  | .registerWrite _ => next_canon (registerWrite_canon _ _ h)
  | .bootDoorbell _ _ => next_canon (bootDoorbell_canon _ _ _ h)
  | .rmEventClear _ _ _ => next_canon (rmEventClear_canon _ _ _ _ h)
  | .msixUnmask _ _ _ => next_canon (msixUnmask_canon _ _ _ _ h)
  | .snap _ _ => next_canon (snap_canon _ _ _ h)
  | .snapclr _ _ _ => next_canon (snapclr_canon _ _ _ _ h)
  | .beatNowRead _ _ => next_canon (beatNowRead_canon _ _ _ h)
  | .tlMCtlWrite _ _ => next_canon (tlMCtlWrite_canon _ _ _ h)
  | .functionLevelReset _ => next_canon (functionLevelReset_canon _ _ h)
  | .pfFunctionLevelReset => next_canon (pfFunctionLevelReset_canon _ h)
  | .hotReset => next_canon (hotReset_canon _ h)
  | .perstAssert _ => next_canon (perstAssert_canon _ _ h)
  | .flrBoundaryTimeout _ => next_canon (flrBoundaryTimeout_canon _ _ h)
  | .wload _ _ _ => next_canon (wload_canon _ _ _ _ h)
  | .astream _ _ _ => next_canon (astream_canon _ _ _ _ h)
  | .screen _ _ _ => next_canon (screen_canon _ _ _ _ h)
  | .requant _ _ _ => next_canon (requant_canon _ _ _ _ h)
  | .lrank _ _ _ => next_canon (lrank_canon _ _ _ _ h)
  | .rotate _ _ _ => next_canon (rotate_canon _ _ _ _ h)
  | .juggle _ _ _ => next_canon (juggle_canon _ _ _ _ h)
  | .norm _ _ _ => next_canon (norm_canon _ _ _ _ h)
  | .softmax _ _ _ => next_canon (softmax_canon _ _ _ _ h)
  | .poundAdd _ _ _ => next_canon (poundAdd_canon _ _ _ _ h)
  | .poundFlush _ _ _ => next_canon (poundFlush_canon _ _ _ _ h)
  | .poundDrain _ _ _ => next_canon (poundDrain_canon _ _ _ _ h)
  | .bale _ _ _ => next_canon (bale_canon _ _ _ _ h)
  | .unbale _ _ _ => next_canon (unbale_canon _ _ _ _ h)
  | .dmaIn _ _ _ => next_canon (dmaIn_canon _ _ _ _ h)
  | .dmaOut _ _ _ => next_canon (dmaOut_canon _ _ _ _ h)
  | .send _ _ _ => next_canon (send_canon _ _ _ _ h)
  | .recv _ _ _ => next_canon (recv_canon _ _ _ _ h)
  | .exchangeTransfer _ _ _ _ _ => next_canon (exchangeTransfer_canon _ _ _ _ _ _ h)
  | .waitBeat _ _ _ => next_canon (waitBeat_canon _ _ _ _ h)
  | .waitBeatRelease _ _ _ => next_canon (waitBeatRelease_canon _ _ _ _ h)
  | .barrier _ _ _ => next_canon (barrier_canon _ _ _ _ h)
  | .barrierPass _ _ _ => next_canon (barrierPass_canon _ _ _ _ h)
  | .sequencerResume _ _ _ => next_canon (sequencerResume_canon _ _ _ _ h)
  | .audit _ _ _ => next_canon (audit_canon _ _ _ _ h)
  | .skipIf _ _ _ => next_canon (skipIf_canon _ _ _ _ h)
  | .seed _ _ _ => next_canon (seed_canon _ _ _ _ h)
  | .seedTakeEffect _ _ _ => next_canon (seedTakeEffect_canon _ _ _ _ h)
  | .mark _ _ _ => next_canon (mark_canon _ _ _ _ h)
  | .endAct _ _ _ => next_canon (end__canon _ _ _ _ h)
  | .arrayStepStart _ _ _ _ _ _ _ => next_canon (arrayStepStart_canon _ _ _ _ _ _ _ _ h)
  | .powerCapChange _ => next_canon (powerCapChange_canon _ _ h)
  | .configurationCommit => next_canon (configurationCommit_canon _ h)
  | .finalValidation _ => next_canon (finalValidation_canon _ _ h)
  | .cfgTransactionTimeout _ => next_canon (cfgTimeout_canon _ _ h)
  | .stepStart _ _ => next_canon (stepStart_canon _ _ _ h)
  | .selfTestSlice _ _ _ _ _ => next_canon (selfTestSlice_canon _ _ _ _ _ _ h)
  | .reductionTreePhase _ _ _ => next_canon (treePhase_canon _ _ _ _ h)
  | .treeTransferReceive _ _ _ => next_canon (treeTransferReceive_canon _ _ _ _ h)
  | .arrivalTransfer _ _ _ => next_canon (arrivalReceive_canon _ _ _ _ h)
  | .exchangeLaunch _ _ => next_canon (exchangeLaunch_canon _ _ _ h)
  | .ttlSweep _ => next_canon (ttlSweep_canon _ _ h)
  | .calHeldEntryRelease _ => next_canon (calHeldEntryRelease_canon _ _ h)
  | .beatTick0 _ => next_canon (beatTick0_canon _ _ h)
  | .beatEdge _ _ => next_canon (beatEdge_canon _ _ _ h)
  | .beatMarkerReceive _ _ _ _ _ _ => next_canon (beatMarkerReceive_canon _ _ _ _ _ _ _ h)
  | .beatMissing => next_canon (beatMissing_canon _ h)
  | .beatSyncLoad => next_canon (beatSyncLoad_canon _ h)
  | .beatSyncTimeout => next_canon (beatSyncTimeout_canon _ h)
  | .leaveNoticeReceive _ _ _ => next_canon (leaveNoticeReceive_canon _ _ _ _ h)
  | .joinNoticeReceive _ _ _ => next_canon (joinNoticeReceive_canon _ _ _ _ h)
  | .stackTransfer _ _ _ _ _ => next_canon (stackTransfer_canon _ _ _ _ _ _ h)
  | .refreshDue _ _ _ _ => next_canon (refreshDue_canon _ _ _ _ _ h)
  | .scrub _ _ _ => next_canon (scrub_canon _ _ _ _ h)
  | .odeccRead _ _ => next_canon (odeccRead_canon _ _ _ h)
  | .stackTemperatureChange _ _ => next_canon (stackTemperatureChange_canon _ _ _ h)
  | .pseudoChannelCopy _ _ _ => next_canon (pseudoChannelCopy_canon _ _ _ _ h)
  | .tier2Lost _ _ => next_canon (tier2Lost_canon _ _ _ h)
  | .droverPageMove _ => next_canon (droverPageMove_canon _ _ h)
  | .droverPageRestore _ => next_canon (droverPageRestore_canon _ _ h)
  | .droverGoldenCopy _ _ => next_canon (droverGoldenCopy_canon _ _ _ h)
  | .midwayFlitReceive _ _ _ _ _ _ => next_canon (midwayFlitReceive_canon _ _ _ _ _ _ _ h)
  | .midwayReplayTimeout _ _ _ => next_canon (midwayReplayTimeout_canon _ _ _ _ h)
  | .midwayRetrain _ _ _ _ => next_canon (midwayRetrain_canon _ _ _ _ _ h)
  | .mwRouterFail _ _ _ => next_canon (mwRouterFail_canon _ _ _ _ h)
  | .stileFlitReceive _ _ _ => next_canon (stileFlitReceive_canon _ _ _ _ h)
  | .stileNakTimeout _ => next_canon (stileNakTimeout_canon _ _ h)
  | .stileRetransmitTimeout _ => next_canon (stileRetransmitTimeout_canon _ _ h)
  | .stileControlDue _ _ => next_canon (stileControlDue_canon _ _ _ h)
  | .laneFailure _ _ => next_canon (laneFailure_canon _ _ _ h)
  | .repairPauseEnd _ _ _ _ _ => next_canon (repairPauseEnd_canon _ _ _ _ _ _ h)
  | .linkDown _ => next_canon (linkDown_canon _ _ h)
  | .linkTrainingDone _ _ => next_canon (linkTrainingDone_canon _ _ _ h)
  | .linkTrainTimeout _ => next_canon (linkTrainTimeout_canon _ _ h)
  | .raceInstanceStart _ _ => next_canon (raceInstanceStart_canon _ _ _ h)
  | .raceDispatch _ _ => next_canon (raceDispatch_canon _ _ _ h)
  | .dispatch _ _ _ _ _ _ _ _ => next_canon (raceDispatchIn_canon _ _ _ _ _ _ _ _ _ h)
  | .manifest _ _ _ _ _ _ => next_canon (raceManifestIn_canon _ _ _ _ _ _ _ h)
  | .returnVector _ _ _ _ _ _ _ _ _ => next_canon (raceReturn_canon _ _ _ _ _ _ _ _ _ _ h)
  | .raceCombine _ _ => next_canon (raceCombine_canon _ _ _ h)
  | .refuse _ _ _ _ _ => next_canon (raceRefuseIn_canon _ _ _ _ _ _ h)
  | .abandon _ _ _ _ _ _ => next_canon (raceAbandonIn_canon _ _ _ _ _ _ _ h)
  | .expertMapEffect _ => next_canon (expertMapEffect_canon _ _ h)
  | .faultReport _ _ _ _ _ _ => next_canon (faultReport_canon _ _ _ _ _ _ _ h)
  | .faultRecoveryStart => next_canon (faultRecoveryStart_canon _ h)
  | .faultRecoveryDone => next_canon (faultRecoveryDone_canon _ h)
  | .recoveryBudgetExpired => next_canon (recoveryBudgetExpired_canon _ h)
  | .reseedSourceDone _ _ _ _ => next_canon (reseedSourceDone_canon _ _ _ _ _ h)
  | .reseedTimeout _ _ _ => next_canon (reseedTimeout_canon _ _ _ _ h)
  | .spareCoreWalk _ _ _ => next_canon (spareCoreWalk_canon _ _ _ _ h)
  | .startupTestGroup _ _ => next_canon (startupTestGroup_canon _ _ _ h)
  | .penClearDone _ => next_canon (penClearDone_canon _ _ h)
  | .uvWarn _ => next_canon (uvWarn_canon _ _ h)
  | .uvWarnClear _ _ => next_canon (uvWarnClear_canon _ _ _ h)
  | .dipTimerExpire => next_canon (dipTimerExpire_canon _ h)
  | .orderlyHalt => next_canon (orderlyHalt_canon _ h)
  | .uvReset => next_canon (uvReset_canon _ h)
  | .ovReset => next_canon (ovReset_canon _ h)
  | .auxFail => next_canon (auxFail_canon _ h)
  | .ztResetN _ => next_canon (ztResetN_canon _ _ h)
  | .thermalTrip => next_canon (thermalTrip_canon _ h)
  | .thermalRead _ _ => next_canon (thermalRead_canon _ _ _ h)
  | .governorEvaluation _ _ => next_canon (governorEvaluation_canon _ _ _ h)
  | .resetRelease _ _ _ _ => next_canon (resetRelease_canon _ _ _ _ _ h)
  | .startupStepDone _ => next_canon (startupStepDone_canon _ _ h)
  | .setEndpointId _ _ => next_canon (setEndpointId_canon _ _ _ h)
  | .setEventReceiver _ _ => next_canon (setEventReceiver_canon _ _ _ h)
  | .sensorRefresh _ => next_canon (sensorRefresh_canon _ _ h)
  | .requestUpdate _ => next_canon (requestUpdate_canon _ _ h)
  | .activateFirmware _ _ => next_canon (activateFirmware_canon _ _ _ h)
  | .getVersion _ => next_canon (getVersion_canon _ _ h)
  | .getCapabilities _ => next_canon (getCapabilities_canon _ _ h)
  | .negotiateAlgorithms _ _ _ => next_canon (negotiateAlgorithms_canon _ _ _ _ h)
  | .getDigests _ => next_canon (getDigests_canon _ _ h)
  | .getCertificate _ _ _ _ => next_canon (getCertificate_canon _ _ _ _ _ h)
  | .challenge _ _ _ => next_canon (challenge_canon _ _ _ _ h)
  | .getMeasurements _ _ _ _ => next_canon (getMeasurements_canon _ _ _ _ _ h)
  | .readId _ => next_canon (readId_canon _ _ h)
  | .readLive _ _ => next_canon (readLive_canon _ _ _ h)
  | .readInterval _ _ _ => next_canon (readInterval_canon _ _ _ _ h)
  | .readAudit _ _ => next_canon (readAudit_canon _ _ _ h)
  | .readEvent _ _ => next_canon (readEvent_canon _ _ _ h)
  | .readCert _ _ _ => next_canon (readCert_canon _ _ _ _ h)
  | .setParam _ _ _ _ => next_canon (setParam_canon _ _ _ _ _ h)
  | .setTime _ _ => next_canon (setTime_canon _ _ _ h)
  | .balanceWindowEnd => next_canon (balanceWindowEnd_canon _ h)
  | .intervalEnd => next_canon (intervalEnd_canon _ h)
  | .nvSave => next_canon (nvSave_canon _ h)
  | .tallyAuxLowSave => next_canon (tallyAuxLowSave_canon _ h)
  | .auxReturn _ _ => next_canon (auxReturn_canon _ _ _ h)
  | .sealChange _ => next_canon (sealChange_canon _ _ h)
  | .mirrorUpdate => next_canon (mirrorUpdate_canon _ h)
  | .mirrorSet _ => next_canon (mirrorSet_canon _ _ h)
  | .auxCounts _ => next_canon (auxCounts_canon _ _ h)
  | .auxCountsTimeout => next_canon (auxCountsTimeout_canon _ h)
  | .pulseEmit _ => next_canon (pulseEmit_canon _ _ h)
  | .tallySelfCheck _ _ => next_canon (tallySelfCheck_canon _ _ _ h)
  | .mirrorStale => next_canon (mirrorStale_canon _ h)
  | .tallySupplyDip _ _ => next_canon (tallySupplyDip_canon _ _ _ h)
  | .mainLow _ => next_canon (mainLow_canon _ _ h)
  | .idcode => next_canon (idcode_canon _ h)
  | .bypass _ => next_canon (bypass_canon _ _ h)
  | .samplePreload _ _ _ => next_canon (samplePreload_canon _ _ _ _ h)
  | .extest _ _ _ => next_canon (extest_canon _ _ _ _ h)
  | .extestPulse _ _ _ => next_canon (extestPulse_canon _ _ _ _ h)
  | .extestTrain _ _ _ => next_canon (extestTrain_canon _ _ _ _ h)
  | .clamp _ => next_canon (clamp_canon _ _ h)
  | .highz _ => next_canon (highz_canon _ _ h)
  | .unknownOpcode _ _ => next_canon (unknownOpcode_canon _ _ _ h)
  | .energySample _ => next_canon (energySample_canon _ _ h)
  | .marginingDone _ _ _ _ => next_canon (marginingDone_canon _ _ _ _ _ h)
  | .bistDone _ _ _ _ => next_canon (bistDone_canon _ _ _ _ _ h)
  | .vfEnable _ _ => next_canon (vfEnable_canon _ _ _ h)
  | .d3hot _ _ => next_canon (d3hot_canon _ _ _ h)
  | .refclkDetected => next_canon (refclkDetected_canon _ h)
  | .dynamicAddress _ _ => next_canon (dynamicAddress_canon _ _ _ h)

theorem step_canon {s : State} (h : s.dev.Canon) : Answer.Canon (step s) := by
  cases hp : s.pending with
  | nil =>
    rw [step_idle s hp]
    exact next_canon h
  | cons i rest =>
    rw [step_front i s rest hp]
    exact exec_canon (s := { s with pending := rest }) h i

end Sys2Proof.Machine
end

section
/-! The statement on the canonical form of the memories. -/

namespace Sys2Proof.Machine

open Sys2Proof

/-- Settles O60: an idle step changes nothing, and a command that runs keeps the form by `exec_canon`. -/
theorem everyStepKeepsTheMemoriesCanonical : Obligations.EveryStepKeepsTheMemoriesCanonical := by
  unfold Obligations.EveryStepKeepsTheMemoriesCanonical
  intro s t hs ht
  exact (canon_iff t.dev).1 (step_canon ((canon_iff s.dev).2 hs) t ht)

end Sys2Proof.Machine
end

section
/-! SUPPORT. What a fault report leaves of the memories: the stacks, their poisoned words, the scratchpads and the activation buffers are
as before, whatever recoveries, aborts and messages follow the report (R420 to R431). -/

namespace Sys2Proof.Machine

open Sys2Proof

/-- `e` has the stacks, the poisoned words, the scratchpads and the activation buffers of `d`. -/
def Dev.SameMemories (d e : Dev) : Prop := e.mem = d.mem ∧ e.poison = d.poison ∧ e.spad = d.spad ∧ e.abuf = d.abuf

namespace Dev.SameMemories

theorem refl (d : Dev) : d.SameMemories d := ⟨rfl, rfl, rfl, rfl⟩

theorem trans {d e g : Dev} : d.SameMemories e → e.SameMemories g → d.SameMemories g :=
  fun ⟨hm, hp, hs, ha⟩ ⟨hm', hp', hs', ha'⟩ => ⟨hm'.trans hm, hp'.trans hp, hs'.trans hs, ha'.trans ha⟩

theorem ite {d x y : Dev} {c : Prop} [Decidable c] (hx : d.SameMemories x) (hy : d.SameMemories y) :
    d.SameMemories (if c then x else y) := by
  split_ifs
  · exact hx
  · exact hy

theorem foldl {α : Type} {g : Dev → α → Dev} (hg : ∀ (d : Dev) (a : α), d.SameMemories (g d a)) (d : Dev) (l : List α) :
    d.SameMemories (l.foldl g d) :=
  List.foldlRecOn l g (refl d) (fun e he a _ => he.trans (hg e a))

theorem of_counts {d e : Dev} : d.SameButCounts e → d.SameMemories e := by
  rintro ⟨_, _, _, _, _, rfl⟩
  exact refl d

/-! Updates of one part. -/

theorem modPasture (d : Dev) (p : Nat) (g : Pasture → Pasture) : d.SameMemories (d.modPasture p g) := refl d
theorem modImage (d : Dev) (p n : Nat) (f : Image → Image) : d.SameMemories (d.modImage p n f) := refl d
theorem modPrefix (d : Dev) (p n : Nat) (f : Prefix → Prefix) : d.SameMemories (d.modPrefix p n f) := refl d
theorem modGroup (d : Dev) (g : Nat) (f : Group → Group) : d.SameMemories (d.modGroup g f) := refl d
theorem modLink (d : Dev) (l : Nat) (f : Link → Link) : d.SameMemories (d.modLink l f) := refl d
theorem modCore (d : Dev) (k : Nat) (f : Core → Core) : d.SameMemories (d.modCore k f) := refl d
theorem modRed (d : Dev) (p i : Nat) (f : Inst → Inst) : d.SameMemories (d.modRed p i f) := refl d
theorem modRace (d : Dev) (p l : Nat) (f : RaceInst → RaceInst) : d.SameMemories (d.modRace p l f) := refl d
theorem modStack (d : Dev) (s : Nat) (f : Stack → Stack) : d.SameMemories (d.modStack s f) := refl d
theorem modPc (d : Dev) (s q : Nat) (f : PseudoChannel → PseudoChannel) : d.SameMemories (d.modPc s q f) := refl d
theorem emit (d : Dev) (o : Out) : d.SameMemories (d.emit o) := refl d
theorem calPlace (d : Dev) (c : CalEntry) : d.SameMemories (d.calPlace c) := refl d
theorem calDrop (d : Dev) (p : CalEntry → Bool) : d.SameMemories (d.calDrop p) := refl d
theorem remap (d : Dev) : d.SameMemories d.remap := refl d
theorem leaveBatches (d : Dev) (h : Nat) : d.SameMemories (d.leaveBatches h) := refl d
theorem abortGroup (d : Dev) (g : Nat) (c : AbortClass) : d.SameMemories (d.abortGroup g c) := refl d
theorem reqs (d : Dev) (t : Tab Request) : d.SameMemories { d with reqs := t } := refl d
theorem stk (d : Dev) (t : Tab Stack) : d.SameMemories { d with stk := t } := refl d
theorem cores (d : Dev) (t : Tab Core) : d.SameMemories { d with cores := t } := refl d
theorem faults (d : Dev) (x : Faults) : d.SameMemories { d with faults := x } := refl d

/-! Counters, records and completions. -/

theorem errAdd (d : Dev) (die core i n : Nat) : d.SameMemories (d.errAdd die core i n) := by
  obtain ⟨t, h⟩ := d.errAdd_frame die core i n
  rw [h]
  exact refl d

theorem perfAdd (d : Dev) (die core g i n : Nat) : d.SameMemories (d.perfAdd die core g i n) :=
  of_counts (SameButCounts.perfAdd d die core g i n)

theorem record (d : Dev) (code die core disp unit pasture link info : Nat) :
    d.SameMemories (d.record code die core disp unit pasture link info) := by
  obtain ⟨fl, t, fs, o, h⟩ := d.record_frame code die core disp unit pasture link info
  rw [h]
  exact refl d

theorem notice (d : Dev) (code die core pasture info : Nat) : d.SameMemories (d.notice code die core pasture info) :=
  record d code die core dNotice 0 pasture 0 info

theorem setDisp (d : Dev) (q disp escto link : Nat) : d.SameMemories (d.setDisp q disp escto link) := by
  obtain ⟨fl, fs, o, h⟩ := d.setDisp_frame q disp escto link
  rw [h]
  exact refl d

theorem finishAt (d : Dev) (h st b : Nat) (res : List Nat) (r : Bool) : d.SameMemories (d.finishAt h st b res r) := by
  obtain ⟨fs, hs, h⟩ := d.finishAt_frame h st b res r
  rw [h]
  exact refl d

theorem finish (d : Dev) (h st : Nat) (res : List Nat) : d.SameMemories (d.finish h st res) := finishAt d h st _ res false

theorem finishIn (d : Dev) (h st : Nat) (res : List Nat) : d.SameMemories (d.finishIn h st res) := finishAt d h st _ res true

/-! Requests and prefixes that close (R300, R307). -/

theorem releasePages (d : Dev) (l : List Nat) : d.SameMemories (d.releasePages l) :=
  foldl (fun d n => by
    unfold Dev.releasePage
    split
    · exact refl d
    · exact ite (refl d) (refl d)) d l

theorem settlePrefix (d : Dev) (p n : Nat) : d.SameMemories (d.settlePrefix p n) := by
  unfold Dev.settlePrefix
  split
  · exact refl d
  · exact ite (((releasePages d _).trans ((modPasture _ p _).trans (remap _))).trans (ite (refl _) (finish _ _ _ _))) (refl d)

theorem dropPrefix (d : Dev) (p n : Nat) : d.SameMemories (d.dropPrefix p n) := (modPrefix d p n _).trans (settlePrefix _ p n)

theorem unholdPrefix (d : Dev) (pfx : Option Nat) : d.SameMemories (d.unholdPrefix pfx) := by
  cases pfx with
  | none => exact refl d
  | some k => exact (modPrefix d _ _ _).trans (settlePrefix _ _ _)

theorem resweep (d : Dev) (p : Nat) : d.SameMemories (d.resweep p) := by
  unfold Dev.resweep
  dsimp only
  split
  · exact calDrop d _
  · exact (calDrop d _).trans (calPlace _ _)

theorem closeReq (d : Dev) (h st cmds : Nat) : d.SameMemories (d.closeReq h st cmds) := by
  unfold Dev.closeReq
  split
  · exact refl d
  next r _ =>
    have hpages := (reqs d (Tab.del d.reqs h)).trans (releasePages _ ((r.lists.flatMap (·.2)).filter (· != movedPage)))
    have hdone := hpages.trans ((foldl (fun d c => finishIn d c cmds []) _ r.commands).trans (finishIn _ h st []))
    have hleft := (hdone.trans (ite (c := r.close = 0) (refl _) (finishIn _ r.close sOk []))).trans (leaveBatches _ h)
    refine trans ?_ ((unholdPrefix _ r.pfx).trans (resweep _ r.pasture))
    split
    · exact hleft.trans (modPasture _ _ _)
    · exact hleft

theorem closeAll (d : Dev) (p st : Nat) : d.SameMemories (d.closeAll p st) := foldl (fun d h => closeReq d h st st) d _

/-! Messages that leave on a link (R261, R266 to R276). -/

theorem linkPerf (d : Dev) (l i n : Nat) : d.SameMemories (d.linkPerf l i n) := perfAdd d _ _ _ _ _

theorem linkErr (d : Dev) (l i n : Nat) : d.SameMemories (d.linkErr l i n) := errAdd d _ _ _ _

theorem freeEntry (d : Dev) (inn : Option (Nat × Nat)) : d.SameMemories (d.freeEntry inn) := by
  cases inn <;> exact refl d

theorem putStream (d : Dev) (l : Nat) (f : List Byte) : d.SameMemories (d.putStream l f) := by
  unfold Dev.putStream
  refine (foldl (fun d g => ?_) d _).trans (modLink _ l _)
  dsimp only
  split
  · exact modLink d l _
  · exact (modLink d l _).trans (emit _ _)

theorem sendFlit (d : Dev) (l : Nat) (f : List Byte) : d.SameMemories (d.sendFlit l f) :=
  ((modLink d l _).trans (emit _ _)).trans (putStream _ l f)

theorem sendCtl (d : Dev) (l : Nat) (nak : Option Bool) : d.SameMemories (d.sendCtl l nak) := (sendFlit d l _).trans (modLink _ l _)

theorem sendData (d : Dev) (l v : Nat) : d.SameMemories (d.sendData l v) := by
  unfold Dev.sendData
  dsimp only
  split
  · split
    · exact ((((modLink d l _).trans (linkPerf _ l 0 1)).trans (linkPerf _ l 6 _)).trans (sendFlit _ l _)).trans (freeEntry _ _)
    · exact refl d
  · exact refl d

theorem ite_fst {d : Dev} {x y : Dev × Bool} {c : Prop} [Decidable c] (hx : d.SameMemories x.1) (hy : d.SameMemories y.1) :
    d.SameMemories (if c then x else y).1 := by
  split_ifs
  · exact hx
  · exact hy

/-- One arm for each kind of flit, in the order of R266. -/
theorem linkSlot (d : Dev) (l : Nat) : d.SameMemories (d.linkSlot l).1 := by
  unfold Dev.linkSlot
  dsimp only
  refine ite_fst (refl d) ?_
  split
  · exact (modLink d l _).trans (sendFlit _ l _)
  refine ite_fst ((modLink d l _).trans (ite ((linkErr _ l 2 1).trans (sendCtl _ l _)) (refl _))) ?_
  split
  · dsimp only
    split
    · exact ((modLink d l _).trans (sendFlit _ l _)).trans (linkPerf _ l 2 1)
    · exact modLink d l _
  refine ite_fst (sendCtl d l none) (ite_fst (refl d) ?_)
  split
  · exact linkPerf d l 3 _
  · exact (linkPerf d l 3 _).trans (sendData _ l _)

theorem linkPump (d : Dev) (l n : Nat) : d.SameMemories (d.linkPump l n) := by
  induction n generalizing d with
  | zero => exact refl d
  | succ n ih => exact ite ((linkSlot d l).trans (ih _)) (linkSlot d l)

theorem forward (d : Dev) (dst mkind : Nat) (bs : List Byte) : d.SameMemories (d.forward dst mkind bs) := by
  have hlost : ∀ l b, d.SameMemories (d.unroutable l dst b) := fun l b => (linkErr d l 4 1).trans (ite (notice _ _ _ _ _ _) (refl _))
  unfold Dev.forward
  split
  · exact refl d
  · exact hlost _ _
  · exact ite (hlost _ _) ((modLink d _ _).trans (linkPump _ _ _))

theorem sendMsg (d : Dev) (dst mkind die core chan step tag last n : Nat) (data : List Byte) :
    d.SameMemories (d.sendMsg dst mkind die core chan step tag last n data) := by
  induction n generalizing d data with
  | zero => exact refl d
  | succ n ih => exact ite ((forward d _ _ _).trans (ih _ _)) (forward d _ _ _)

theorem sendTo (d : Dev) (s : Show) (pos mkind die core chan step tag : Nat) (data : List Byte) :
    d.SameMemories (d.sendTo s pos mkind die core chan step tag data) := sendMsg d _ _ _ _ _ _ _ _ _ _

theorem leaveNotice (d : Dev) (g : Nat) : d.SameMemories (d.leaveNotice g) := by
  unfold Dev.leaveNotice Dev.tellGroup
  refine ite ?_ (refl d)
  split
  · exact (emit d _).trans (foldl (fun d pos => sendTo d _ pos _ _ _ _ _ _ _) _ _)
  · exact emit d _

/-! Instances that are abandoned (R184, R333). -/

theorem loseRed (d : Dev) (p i step : Nat) (s : Show) (e : Nat) : d.SameMemories (d.loseRed p i step s e) :=
  ((modRed d p i _).trans (ite (errAdd _ _ _ _ _) (refl _))).trans (cores _ _)

theorem abandonRed (d : Dev) (p i step : Nat) (cls : AbortClass) : d.SameMemories (d.abandonRed p i step cls) := by
  unfold Dev.abandonRed
  split
  · exact refl d
  split
  · exact refl d
  · exact ite (refl d) ((loseRed d p i step _ _).trans (foldl (fun d pos => sendTo d _ pos _ _ _ _ _ _ _) _ _))

theorem abandonAll (d : Dev) (p i : Nat) (cls : AbortClass) : d.SameMemories (d.abandonAll p i cls) :=
  ite (foldl (fun d b => abandonRed d p i b cls) d _) (refl d)

theorem abandonOf (d : Dev) (p die core : Nat) (cls : AbortClass) : d.SameMemories (d.abandonOf p die core cls) := by
  unfold Dev.abandonOf
  split
  · exact refl d
  refine foldl (fun d i => ?_) d _
  split
  · exact refl d
  split
  · exact ite (abandonRed d p i _ cls) (refl d)
  · exact refl d

theorem raceErr (d : Dev) (e i n : Nat) : d.SameMemories (d.raceErr e i n) := errAdd d _ _ _ _

theorem raceSend (d : Dev) (dst kind tag l e step : Nat) (data : List Byte) : d.SameMemories (d.raceSend dst kind tag l e step data) :=
  sendMsg d _ _ _ _ _ _ _ _ _ _

theorem abandonSource (d : Dev) (p l : Nat) (s : Show) (e step : Nat) : d.SameMemories (d.abandonSource p l s e step) :=
  ite (refl d) (((modRace d p l _).trans (raceErr _ e 5 1)).trans (foldl (fun d h => ite (refl d) (raceSend d h 5 0 l e step [])) _ _))

theorem sourceGone (d : Dev) (p l : Nat) (s : Show) (e step : Nat) : d.SameMemories (d.sourceGone p l s e step) :=
  ite (ite (refl d) ((modRace d p l _).trans (raceErr _ e 5 1))) (abandonSource d p l s e step)

theorem abandonShard (d : Dev) (p l : Nat) (s : Show) (e q step : Nat) : d.SameMemories (d.abandonShard p l s e q step) :=
  ite (refl d) (((modRace d p l _).trans (raceErr _ e 5 1)).trans
    (foldl (fun d a => ite (sourceGone d p l s e step) (raceSend d a 5 0 l e step [])) _ _))

theorem abandonRaces (d : Dev) (r : Run) (a : Act) : d.SameMemories (d.abandonRaces r a) := by
  unfold Dev.abandonRaces
  split
  · exact refl d
  · exact foldl (fun d q => trans (ite (abandonSource d _ _ _ _ _) (refl d))
      (foldl (fun d h => ite (abandonShard d _ _ _ _ _ _) (refl d)) _ _)) d _

theorem abandonLayers (d : Dev) (p g : Nat) : d.SameMemories (d.abandonLayers p g) := by
  unfold Dev.abandonLayers
  split
  · exact refl d
  · exact foldl (fun d (q : Nat × Nat) => ite (foldl (fun d b => (abandonSource d p q.2 _ q.1 b).trans
      (foldl (fun d h => abandonShard d p q.2 _ q.1 h b) _ _)) d _) (refl d)) d _

/-! Acts that are aborted, units that are lost and the fault queue (R424, R427 to R431). -/

theorem actOver (d : Dev) (k : Nat) : d.SameMemories (d.actOver k) := by
  unfold Dev.actOver
  split
  · exact refl d
  · exact (modCore d k _).trans (modGroup _ _ _)

theorem coreAbort (d : Dev) (k : Nat) (cls : AbortClass) : d.SameMemories (d.coreAbort k cls) := by
  unfold Dev.coreAbort
  split
  · exact refl d
  next r _ =>
    have htold := (abortGroup d r.group cls).trans (abandonOf _ r.pasture (k / 64) (k % 64) cls)
    refine trans (trans ?_ (ite (modCore _ k _) (refl _))) (actOver _ k)
    split
    · exact htold.trans (abandonRaces _ _ _)
    · exact htold

theorem abortActs (d : Dev) (p : Nat → Run → Bool) (cls : AbortClass) : d.SameMemories (d.abortActs p cls) :=
  foldl (fun d (q : Nat × Core) => coreAbort d q.1 cls) d _

theorem imageLost (d : Dev) (owner n b link : Nat) : d.SameMemories (d.imageLost owner n b link) :=
  (modImage d owner n _).trans (foldl (fun d u =>
    ((foldl (fun d g => modGroup d g _) d _).trans (closeAll _ u _)).trans (record _ _ _ _ _ _ _ _ _)) _ _)

theorem sweepQueue (d : Dev) (p : FaultRec → Bool) (o seq : Nat) : d.SameMemories (d.sweepQueue p o seq) :=
  (faults d _).trans (foldl (fun d q => setDisp d q _ o seq) _ _)

theorem penOffline (d : Dev) (pen cause : Nat) : d.SameMemories (d.penOffline pen cause) := by
  unfold Dev.penOffline
  generalize (if cause = 0 then nextSeq d.faults.lastSeq else cause) = seq
  refine ite (refl d) (trans ?_ (record _ _ _ _ _ _ _ _ _))
  refine trans ?pen (ite (refl _) ?pasture)
  case pen => exact ((sweepQueue d _ 6 _).trans ((faults _ _).trans (remap _))).trans ((abortActs _ _ _).trans (stk _ _))
  case pasture =>
    refine trans ?_ ((foldl (fun d (x : Nat × Nat) => dropPrefix d x.1 x.2) _ _).trans
      (foldl (fun d (i : Nat × Nat) => imageLost d i.1 i.2 0 cause) _ _))
    refine trans ?_ ((foldl (fun d g => abandonLayers d _ g) _ _).trans (closeAll _ _ _))
    have hstopped : ∀ (e : Dev) (gs : List Nat) (q : Nat → Run → Bool),
        e.SameMemories ((gs.foldl (fun d g => d.modGroup g (fun x => { x with stopped := true })) e).abortActs q .dieFault) :=
      fun e gs q => (foldl (fun d g => modGroup d g _) e gs).trans (abortActs _ q _)
    split
    · exact (hstopped _ _ _).trans (foldl (fun d i => abandonAll d _ i _) _ _)
    · exact hstopped _ _ _

/-- What a withdrawal clears (R431). -/
theorem left (d : Dev) (t : Tab Group) (p : Power) :
    d.SameMemories { d with reqs := [], txns := [], cal := [], groups := t, power := p } := refl d

theorem withdraw (d : Dev) (cause : Nat) : d.SameMemories (d.withdraw cause) :=
  ite (refl d) ((((sweepQueue d _ 7 cause).trans (foldl (fun d (q : Nat × Group) => leaveNotice d q.1) _ _)).trans
    ((abortActs _ _ _).trans (foldl (fun d h => finish d h _ _) _ _))).trans (trans (left _ _ _) (record _ _ _ _ _ _ _ _ _)))

theorem runRecovery (d : Dev) (q o : Nat) : d.SameMemories (d.runRecovery q o) := by
  unfold Dev.runRecovery
  split
  · exact refl d
  · exact ite (withdraw d q) (trans (faults d _) (ite (penOffline _ _ q) (ite (sweepQueue _ _ 2 q) (refl _))))

theorem beginRecovery (d : Dev) (q o : Nat) : d.SameMemories (d.beginRecovery q o) := (setDisp d q _ 0 0).trans (runRecovery _ q o)

theorem enqueue (d : Dev) (code die core o info : Nat) : d.SameMemories (d.enqueue code die core o info) :=
  (record d _ _ _ _ _ _ _ _).trans (ite (faults _ _) (ite ((setDisp _ _ _ _ _).trans (penOffline _ _ _))
    ((setDisp _ _ _ _ _).trans (withdraw _ _))))

theorem queueFault (d : Dev) (code die core o info : Nat) : d.SameMemories (d.queueFault code die core o info) := by
  have hrecord : ∀ disp unit link, d.SameMemories (d.record code die core disp unit (d.pastureOfDie die) link info) :=
    fun _ _ _ => record d _ _ _ _ _ _ _ _
  unfold Dev.queueFault
  refine ite ((hrecord _ _ _).trans (setDisp _ _ _ _ _)) (ite ((hrecord _ _ _).trans (setDisp _ _ _ _ _)) ?_)
  dsimp only
  split
  · exact hrecord _ _ _
  · exact ite (trans (setDisp d _ _ _ _) (ite ((record _ _ _ _ _ _ _ _ _).trans (withdraw _ _))
      ((record _ _ _ _ _ _ _ _ _).trans (trans (faults _ _) (beginRecovery _ _ _))))) (enqueue d _ _ _ _ _)
  · exact ite ((hrecord _ _ _).trans (beginRecovery _ _ _)) (enqueue d _ _ _ _ _)

/-- One arm for each code of R421 that `Dev.raise` tells apart. -/
theorem raise (d : Dev) (code die core info item : Nat) : d.SameMemories (d.raise code die core info item) := by
  have hrecord : ∀ disp unit, d.SameMemories (d.record code die core disp unit (d.pastureOfDie die) 0 info) :=
    fun _ _ => record d _ _ _ _ _ _ _ _
  unfold Dev.raise
  dsimp only
  have hword : ∀ (x : Faults) (f : Core → Core) (p : Nat), d.SameMemories
      ((((({ d with faults := x } : Dev).modCore (coreKey die core) f).record code die core dContained 0 p 0 info).coreAbort
        (coreKey die core) .hardware)) :=
    fun x f p => ((faults d x).trans (modCore _ _ f)).trans ((record _ _ _ _ _ _ p _ _).trans (coreAbort _ _ _))
  refine ite (trans ?array (queueFault _ _ _ _ _ _)) (ite ?word ?_)
  case array =>
    split
    · exact abortGroup d _ _
    · exact refl d
  case word =>
    split
    · exact ite ((hword _ _ _).trans (queueFault _ _ _ _ _ _)) (hword _ _ _)
    · exact hword _ _ _
  refine ite ((coreAbort d _ _).trans (queueFault _ _ _ _ _ _)) ?_
  refine ite ((hrecord _ _).trans (coreAbort _ _ _)) (ite ((hrecord _ _).trans (coreAbort _ _ _)) ?_)
  refine ite (hrecord _ _) (ite (hrecord _ _) (ite (hrecord _ _) (ite ((hrecord _ _).trans (withdraw _ _)) ?_)))
  refine ite ((abortActs d _ _).trans (ite (queueFault _ _ _ _ _ _) (ite (record _ _ _ _ _ _ _ _ _)
    ((record _ _ _ _ _ _ _ _ _).trans (withdraw _ _))))) ?_
  exact ite ((hrecord _ _).trans (withdraw _ _)) (ite (hrecord _ _) (ite (queueFault d _ _ _ _ _) (hrecord _ _)))

end Dev.SameMemories

end Sys2Proof.Machine
end

section
/-! SUPPORT. The stacks' rows: what they answer, what a cycle of a lane's arbiter changes, and what scrubs, refreshes and copies to
spares leave (R200 to R213). -/

namespace Sys2Proof.Machine

open Sys2Proof

/-! What the rows of the stacks answer. -/

section
variable (s : State) (st : Nat)

theorem exec_stackTransfer (lane cycle : Nat) (drained : List (Nat × Nat)) (reqs : List StackReq) :
    exec (.stackTransfer st lane cycle drained reqs) s = .next (s.on (stackTransfer s.dev st lane cycle drained reqs)) := rfl
theorem exec_refreshDue (q idle : Nat) (busy : Bool) :
    exec (.refreshDue st q idle busy) s = .next (s.on (refreshDue s.dev st q idle busy)) := rfl
theorem exec_scrub (pen cw pattern : Nat) : exec (.scrub pen cw pattern) s = .next (s.on (scrub s.dev pen cw pattern)) := rfl
theorem exec_odeccRead (n : Nat) : exec (.odeccRead st n) s = .next (s.on (odeccRead s.dev st n)) := rfl
theorem exec_stackTemperatureChange (t : Int) :
    exec (.stackTemperatureChange st t) s = .next (s.on (stackTemperatureChange s.dev st t)) := rfl
theorem exec_pseudoChannelCopy (q : Nat) (errs : List (Nat × Nat)) :
    exec (.pseudoChannelCopy st q errs) s = .next (s.on (pseudoChannelCopy s.dev st q errs)) := rfl

end

/-! Stacks and pseudo-channels. -/

section
variable (d : Dev) (s q : Nat)

@[simp] theorem Dev.stack_modStack_same (f : Stack → Stack) : (d.modStack s f).stack s = f (d.stack s) := Tab.getD_put_same ..

theorem Dev.stack_modStack_ne (f : Stack → Stack) {n : Nat} (h : n ≠ s) : (d.modStack s f).stack n = d.stack n := Tab.getD_put_ne _ _ _ h

@[simp] theorem Dev.pc_modPc_same (f : PseudoChannel → PseudoChannel) : (d.modPc s q f).pc s q = f (d.pc s q) := by
  simp [Dev.pc, Dev.modPc]

theorem Dev.pc_modPc_ne (f : PseudoChannel → PseudoChannel) {p : Nat} (h : p ≠ q) : (d.modPc s q f).pc s p = d.pc s p := by
  simp [Dev.pc, Dev.modPc, Tab.getD_put_ne _ _ _ h]

end

/-- `e` is `d` but for what is counted and the pseudo-channels, spares and Fold of stack `s`: the memories, the lanes of every stack and
the other stacks are as before. -/
def Dev.SameButChannels (s : Nat) (d e : Dev) : Prop :=
  d.SameMemories e ∧ (∀ n, (e.stack n).lanes = (d.stack n).lanes) ∧ ∀ n, n ≠ s → e.stack n = d.stack n

namespace Dev.SameButChannels
variable {s : Nat}

theorem refl (d : Dev) : Dev.SameButChannels s d d := ⟨.refl d, fun _ => rfl, fun _ _ => rfl⟩

theorem trans {d e g : Dev} : Dev.SameButChannels s d e → Dev.SameButChannels s e g → Dev.SameButChannels s d g :=
  fun ⟨hm, hl, hs⟩ ⟨hm', hl', hs'⟩ => ⟨hm.trans hm', fun n => (hl' n).trans (hl n), fun n hn => (hs' n hn).trans (hs n hn)⟩

theorem of_counts {d e : Dev} (h : d.SameButCounts e) : Dev.SameButChannels s d e := by
  obtain ⟨_, _, _, _, _, rfl⟩ := h
  exact refl d

theorem stackPerf (d : Dev) (n i k : Nat) : Dev.SameButChannels s d (d.stackPerf n i k) := of_counts (.perfAdd d _ _ _ i k)

theorem modPc (d : Dev) (q : Nat) (f : PseudoChannel → PseudoChannel) : Dev.SameButChannels s d (d.modPc s q f) := by
  refine ⟨.modPc d s q f, fun n => ?_, fun n hn => d.stack_modStack_ne s _ hn⟩
  by_cases hn : n = s
  · subst hn
    rw [Dev.modPc, Dev.stack_modStack_same]
  · exact congrArg Stack.lanes (d.stack_modStack_ne s _ hn)

theorem pcDrained (d : Dev) (l : List (Nat × Nat)) : Dev.SameButChannels s d (d.pcDrained s l) := by
  refine List.foldlRecOn l _ (refl d) (fun e he q _ => ?_)
  split_ifs
  · exact he.trans (modPc e q.1 _)
  · exact he

theorem pcQueue (d : Dev) (x : StackReq) : Dev.SameButChannels s d (d.pcQueue s x) := by
  unfold Dev.pcQueue
  split_ifs
  · exact refl d
  · exact modPc d _ _

end Dev.SameButChannels

/-! The pick (R211). -/

theorem mem_of_foldl_option {α : Type} {f : Option α → α → Option α} (hf : ∀ a x, f a x = a ∨ f a x = some x) {l : List α} {g : α}
    (h : l.foldl f none = some g) : g ∈ l := by
  suffices hgen : ∀ a, l.foldl f a = some g → a = some g ∨ g ∈ l from (hgen none h).resolve_left (by simp)
  clear h
  induction l with
  | nil => exact fun a h => .inl h
  | cons x l ih =>
    intro a h
    rcases ih (f a x) h with hx | hl
    · rcases hf a x with hfa | hfx
      · exact .inl (hfa ▸ hx)
      · exact .inr (by simp [Option.some.inj (hfx.symm.trans hx)])
    · exact .inr (List.mem_cons_of_mem x hl)

/-- A lane grants one of its candidates. -/
theorem mem_of_pickRequest {l : Lane} {last : Nat} {cs : List StackReq} {g : StackReq} (h : pickRequest l last cs = some g) : g ∈ cs := by
  refine mem_of_foldl_option (fun a x => ?_) h
  cases a with
  | none => exact .inr rfl
  | some y =>
    dsimp only
    repeat' split
    all_goals simp

/-! The standings of a lane's requesters (R212). -/

/-- A candidate that is not granted backs off. -/
def Lane.lose (cycle : Nat) (l : Lane) (x : StackReq) : Lane :=
  { l with backoff := Tab.put l.backoff x.requester ((Tab.getD l.backoff x.requester {}).lose cycle) }

/-- Where none of the losers is its, a requester's standing is as before. -/
theorem get?_backoff_lose_ne (cycle : Nat) (l : Lane) {xs : List StackReq} {r : Nat} (h : ∀ x ∈ xs, x.requester ≠ r) :
    Tab.get? (xs.foldl (Lane.lose cycle) l).backoff r = Tab.get? l.backoff r := by
  induction xs generalizing l with
  | nil => rfl
  | cons x xs ih =>
    rw [List.foldl_cons, ih _ (fun y hy => h y (List.mem_cons_of_mem x hy))]
    exact Tab.get?_put_ne _ _ (h x List.mem_cons_self).symm

/-- A requester that loses once advances its standing once. -/
theorem getD_backoff_lose_once (cycle : Nat) (l : Lane) {xs : List StackReq} {x : StackReq} (hx : x ∈ xs)
    (hone : (xs.filter (fun y => y.requester == x.requester)).length ≤ 1) :
    Tab.getD (xs.foldl (Lane.lose cycle) l).backoff x.requester {} = (Tab.getD l.backoff x.requester {}).lose cycle := by
  obtain ⟨before, after, rfl⟩ := List.append_of_mem hx
  have hnone : ∀ ys : List StackReq, (ys.filter (fun y => y.requester == x.requester)).length = 0 →
      ∀ y ∈ ys, y.requester ≠ x.requester :=
    fun ys h y hy hyx => List.filter_eq_nil_iff.1 (List.length_eq_zero_iff.1 h) y hy (by simp [hyx])
  rw [List.filter_append, List.filter_cons_of_pos (by simp), List.length_append, List.length_cons] at hone
  rw [List.foldl_append, List.foldl_cons, Tab.getD, get?_backoff_lose_ne cycle _ (hnone after (by omega)), Lane.lose, Tab.get?_put_same,
    Option.getD_some, Tab.getD, get?_backoff_lose_ne cycle _ (hnone before (by omega)), Tab.getD]

/-! A cycle of a lane (R211, R212). -/

/-- The candidates that back off where `g` of class `cls` is granted: not the HIGH ones once the quota is spent. -/
def losersTo (l : Lane) (cls : Bool) (g : StackReq) (cands : List StackReq) : List StackReq :=
  cands.filter (fun x => x.requester != g.requester && (reqClass x == cls || l.used < 24 || !reqClass x))

/-- Stack `s` as it serves `g`, which its lane `k` has granted: the lane's records, the counts and the channel's queue. -/
def Dev.granted (d : Dev) (s k cycle : Nat) (l : Lane) (cls : Bool) (g : StackReq) (losers : List StackReq) : Dev :=
  (((d.modStack s (fun t => { t with lanes := Tab.put t.lanes k (losers.foldl (Lane.lose cycle) (l.grant g.requester cls)) })).stackPerf
    s 2 losers.length).stackPerf s 3 (Tab.getD l.backoff g.requester {}).aged.isSome.toNat).pcQueue s g

/-- Two checks one after the other are both made. -/
theorem filter_filter_and {α : Type} (xs : List α) (p q : α → Bool) : (xs.filter p).filter q = xs.filter (fun x => p x && q x) := by
  simp only [List.filter_filter, Bool.and_comm]

section
variable {d c : Dev} {s k cycle : Nat} {drained : List (Nat × Nat)} {reqs cands pool : List StackReq} {l : Lane} {cls : Bool} {g : StackReq}

section
variable (hc : c = d.pcDrained s drained)
  (hl : l = (if (Tab.getD (c.stack s).lanes k {}).window = cycle / 64 then Tab.getD (c.stack s).lanes k {}
    else { Tab.getD (c.stack s).lanes k {} with window := cycle / 64, used := 0 }))
  (hcands : cands = reqs.filter (fun x => x.requester < 43 && x.pen < 16 && stackOf x.pen x.off == s && hashQ (x.off / 256) % 8 == k &&
    reqFits x && (Tab.getD (c.stack s).pcs (hashQ (x.off / 256) % 64) {}).queued < 32 &&
    (Tab.getD l.backoff x.requester {}).next ≤ cycle))
  (hcls : cls = (l.used < 24 && cands.any reqClass)) (hpool : pool = cands.filter (fun x => reqClass x == cls))

include hc hl hcands hcls hpool

/-- A cycle in which nothing may be granted moves the lane's window on. -/
theorem stackTransfer_none (h : pickRequest l (if cls then l.lastHigh else l.lastNormal) pool = none) :
    stackTransfer d s k cycle drained reqs = c.modStack s (fun t => { t with lanes := Tab.put t.lanes k l }) := by
  unfold stackTransfer
  dsimp only
  rw [← hc, ← hl, filter_filter_and, ← hcands, ← hcls, ← hpool, h]

/-- A cycle in which `g` is granted serves it and reports its poison. -/
theorem stackTransfer_some (h : pickRequest l (if cls then l.lastHigh else l.lastNormal) pool = some g) :
    stackTransfer d s k cycle drained reqs = (((c.granted s k cycle l cls g (losersTo l cls g cands)).transfer g).2.stackReply g
      ((c.granted s k cycle l cls g (losersTo l cls g cands)).transfer g).1) := by
  unfold stackTransfer
  dsimp only
  rw [← hc, ← hl, filter_filter_and, ← hcands, ← hcls, ← hpool, h]
  rfl

end

/-- A grant is one of its lane alone. -/
theorem Dev.granted_lanes (d : Dev) (s k cycle : Nat) (l : Lane) (cls : Bool) (g : StackReq) (losers : List StackReq) :
    d.SameMemories (d.granted s k cycle l cls g losers) ∧
    ((d.granted s k cycle l cls g losers).stack s).lanes =
      Tab.put (d.stack s).lanes k (losers.foldl (Lane.lose cycle) (l.grant g.requester cls)) ∧
    ∀ n, n ≠ s → (d.granted s k cycle l cls g losers).stack n = d.stack n := by
  obtain ⟨hmem, hlanes, hother⟩ := ((Dev.SameButChannels.stackPerf _ s 2 losers.length).trans (.stackPerf _ s 3 _)).trans
    (Dev.SameButChannels.pcQueue (s := s) (Dev.stackPerf (Dev.stackPerf (d.modStack s (fun t =>
      { t with lanes := Tab.put t.lanes k (losers.foldl (Lane.lose cycle) (l.grant g.requester cls)) })) s 2 losers.length) s 3
        (Tab.getD l.backoff g.requester {}).aged.isSome.toNat) g)
  exact ⟨Dev.SameMemories.trans (.modStack d s _) hmem, (hlanes s).trans (by rw [Dev.stack_modStack_same]),
    fun n hn => (hother n hn).trans (d.stack_modStack_ne s _ hn)⟩

theorem ne_of_mem_losersTo {x : StackReq} (h : x ∈ losersTo l cls g cands) : x.requester ≠ g.requester := by
  have := (List.mem_filter.1 h).2
  simp only [Bool.and_eq_true, bne_iff_ne] at this
  exact this.1

/-- The standing of the requester that is granted clears. -/
theorem get?_backoff_granted : Tab.get? ((losersTo l cls g cands).foldl (Lane.lose cycle) (l.grant g.requester cls)).backoff g.requester =
    some {} := by
  rw [get?_backoff_lose_ne cycle _ (fun x => ne_of_mem_losersTo), Lane.grant, Tab.get?_put_same]

/-- The standing of a candidate that loses advances, but of a HIGH one once the quota is spent. -/
theorem getD_backoff_loser {x : StackReq} (hx : x ∈ cands) (hne : x.requester ≠ g.requester)
    (hone : (cands.filter (fun y => y.requester == x.requester)).length = 1) (hquota : l.used < 24 ∨ reqClass x = false) :
    Tab.getD ((losersTo l cls g cands).foldl (Lane.lose cycle) (l.grant g.requester cls)).backoff x.requester {} =
      (Tab.getD l.backoff x.requester {}).lose cycle := by
  have hmem : x ∈ losersTo l cls g cands := List.mem_filter.2 ⟨hx, by rcases hquota with h | h <;> simp [hne, h]⟩
  have hone' : ((losersTo l cls g cands).filter (fun y => y.requester == x.requester)).length ≤ 1 :=
    (List.filter_sublist.filter _).length_le.trans hone.le
  rw [getD_backoff_lose_once cycle _ hmem hone', Lane.grant, Tab.getD_put_ne _ _ _ hne]

end

/-! Refresh (R208). -/

section
variable {d : Dev} {s q idle : Nat}

/-- An obligation falls due on what is left of the pending ones. -/
theorem refreshDue_eq (busy : Bool) (hr : d.power.inReset = false) (hs : s < 32) (hq : q < 64) :
    refreshDue d s q idle busy = (d.modPc s q (fun x => { x with owed := x.owed - idle })).refreshOwed s q busy := by
  simp [refreshDue, pcExists, hr, hs, hq]

theorem Dev.refreshOwed_idle : d.refreshOwed s q false = d.modPc s q (fun x => { x with owed := 0 }) := rfl

theorem Dev.refreshOwed_pends (h : (d.pc s q).owed < 8) : d.refreshOwed s q true = d.modPc s q (fun x => { x with owed := x.owed + 1 }) := by
  simp [Dev.refreshOwed, Nat.not_le.2 h]

theorem Dev.refreshOwed_whistle (h : 8 ≤ (d.pc s q).owed) :
    d.refreshOwed s q true = (d.modPc s q (fun x => { x with owed := 4 })).stackPerf s 5 1 := by
  simp [Dev.refreshOwed, h]

end

/-! A code word that is read in error (R201, R202, R205). -/

namespace Dev.SameMemories

theorem poison {d e : Dev} (h : d.SameMemories e) : e.poison = d.poison := by
  obtain ⟨-, hpoison, -, -⟩ := h
  exact hpoison

theorem stackErr (d : Dev) (s i n : Nat) : d.SameMemories (d.stackErr s i n) := errAdd d _ _ _ _

theorem spareChannel (d : Dev) (s q cause : Nat) : d.SameMemories (d.spareChannel s q cause) :=
  ite (refl d) ((modPc d s q _).trans (ite ((modStack _ s _).trans (raise _ _ _ _ _ _)) (raise _ _ _ _ _ _)))

theorem countUe (d : Dev) (s q cw : Nat) : d.SameMemories (d.countUe s q cw) :=
  (modPc d s q _).trans (ite (spareChannel _ s q 1) (refl _))

end Dev.SameMemories

section
variable (d : Dev) (pen cw pattern : Nat)

/-- A word that has been poisoned is poisoned, whatever its channel's errors ask for. -/
theorem Dev.mem_poison_poisonWord (inFold : Bool) : penAddr pen (cw * 64) / 64 ∈ (d.poisonWord pen cw inFold).poison := by
  unfold Dev.poisonWord
  dsimp only
  split_ifs with h
  · exact List.contains_iff_mem.1 h
  · rw [((Dev.SameMemories.stackErr (d.markPoison _) _ _ _).trans ((Dev.SameMemories.raise _ _ _ _ _ _).trans (.countUe _ _ _ _))).poison]
    exact List.mem_cons_self

/-- A word without error needs no decoding. -/
theorem Dev.decodeWords_clean (h : pattern % 2 ^ 576 = 0) : d.decodeWords pen [cw] [(cw, pattern)] = ([], d) := by
  have hout : ([cw].contains cw && pattern % 2 ^ 576 != 0) = false := by rw [h, bne_self_eq_false, Bool.and_false]
  simp only [Dev.decodeWords, List.filter_cons, hout, Bool.false_eq_true, if_false, List.filter_nil, List.foldl_nil]

theorem Dev.decodeWords_corrects {ws : List Nat} (h : pattern % 2 ^ 576 ≠ 0)
    (hws : stackCode.decode (disturbed (d.storedWord pen cw) pattern) = some ws) :
    d.decodeWords pen [cw] [(cw, pattern)] =
      ([(cw, wordBytes ws)], d.corrected (stackOf pen (cw * 64)) (hashQ (cw / 4) % 64)) := by
  have hin : ([cw].contains cw && pattern % 2 ^ 576 != 0) = true := Bool.and_eq_true_iff.2 ⟨by simp, bne_iff_ne.2 h⟩
  simp only [Dev.decodeWords, List.filter_cons, hin, if_true, List.filter_nil, List.foldl_cons, List.foldl_nil, hws, List.nil_append]

theorem Dev.decodeWords_poisons (h : pattern % 2 ^ 576 ≠ 0)
    (hws : stackCode.decode (disturbed (d.storedWord pen cw) pattern) = none) :
    d.decodeWords pen [cw] [(cw, pattern)] = ([], d.poisonWord pen cw false) := by
  have hin : ([cw].contains cw && pattern % 2 ^ 576 != 0) = true := Bool.and_eq_true_iff.2 ⟨by simp, bne_iff_ne.2 h⟩
  simp only [Dev.decodeWords, List.filter_cons, hin, if_true, List.filter_nil, List.foldl_cons, List.foldl_nil, hws]

end

/-! Scrub, on-die counts and temperature (R204, R207). -/

section
variable {d : Dev} {pen cw pattern : Nat}

theorem scrub_dirty (h : (d.stack (stackOf pen (cw * 64))).dirty (cw / 4) = true) : scrub d pen cw pattern = d := by
  simp [scrub, h]

/-- A word that is not dirty in the Fold is read, and rewritten where the code corrects it. -/
theorem scrub_clean (hr : d.power.inReset = false) (hp : pen < 16) (hc : cw < 2 ^ 32)
    (h : (d.stack (stackOf pen (cw * 64))).dirty (cw / 4) = false) : scrub d pen cw pattern =
    (d.decodeWords pen [cw] [(cw, pattern)]).1.foldl (fun d w => d.penWrite pen (w.1 * 64) w.2)
      (d.decodeWords pen [cw] [(cw, pattern)]).2 := by
  simp only [scrub, hr, h, Nat.not_le.2 hp, Nat.not_le.2 hc, decide_false, Bool.or_false, Bool.false_eq_true, if_false]

theorem odeccRead_eq {s : Nat} (n : Nat) (hr : d.power.inReset = false) (hs : s < 32) : odeccRead d s n = d.stackErr s 3 n := by
  simp [odeccRead, hr, hs]

theorem stackTemperatureChange_eq {s : Nat} (t : Int) (hr : d.power.inReset = false) (hs : s < 32) : stackTemperatureChange d s t =
    if bandOf t = 2 ∧ (d.stack s).band ≠ 2 then
      (d.modStack s (fun x => { x with band := bandOf t })).notice 0x0013 (grazeOf (s / 2)) 63 (d.pastureOfPen (s / 2)) s
    else d.modStack s (fun x => { x with band := bandOf t }) := by
  simp [stackTemperatureChange, hr, hs]

end

/-! Copies to spares (R205, R206, R428). -/

section
variable (d : Dev) (s q : Nat) (errs : List (Nat × Nat))

/-- The copy that the running recovery makes. -/
theorem pseudoChannelCopy_of_running {r : FaultRec} (hr : d.runningRec = some r) (hc : copiesChannel r s q = true)
    (hs : (d.pc s q).sparing = true) {mine : List (Nat × Nat)}
    (hm : mine = errs.filter (fun e => e.1 < 2 ^ 32 && stackOf (s / 2) (e.1 * 64) == s && hashQ (e.1 / 4) % 64 == q)) :
    pseudoChannelCopy d s q errs = ((d.decodeWords (s / 2) (mine.map Prod.fst) mine).2.mapSpare s q).endRecovery r := by
  subst hm
  simp [pseudoChannelCopy, hr, hc, hs]

/-- A copy that no recovery makes changes nothing. -/
theorem pseudoChannelCopy_idle (h : d.runningRec = none ∨ (d.pc s q).sparing = false) : pseudoChannelCopy d s q errs = d := by
  unfold pseudoChannelCopy
  rcases h with h | h
  · rw [h]
  · split
    · rw [h, Bool.and_false, if_neg Bool.false_ne_true]
    · rfl

/-- A pseudo-channel that its group's spare has taken the place of. -/
def PseudoChannel.replaced (x : PseudoChannel) : PseudoChannel := { x with ces := [], ues := [], sparing := false, spared := true }

/-- A spare that takes an index changes its stack, a count and the soft repairs. -/
theorem Dev.mapSpare_eq : ∃ t f, d.mapSpare s q =
    { (d.modPc s q .replaced).modStack s (fun x => { x with spares := Tab.put x.spares (q / 16) 1 }) with errs := t, fence := f } := by
  obtain ⟨t, h⟩ := ((d.modPc s q .replaced).modStack s (fun x => { x with spares := Tab.put x.spares (q / 16) 1 })).errAdd_frame
    (grazeOf (s / 2)) 64 (16 + 8 * (s % 2) + 5) 1
  exact ⟨t, _, congrArg (fun e : Dev => e.softRepair (grazeOf (s / 2)) 6 (s * 64 + q)) h⟩

theorem Dev.stack_mapSpare : (d.mapSpare s q).stack s =
    { (d.modPc s q .replaced).stack s with spares := Tab.put ((d.modPc s q .replaced).stack s).spares (q / 16) 1 } := by
  obtain ⟨t, f, h⟩ := d.mapSpare_eq s q
  rw [h]
  exact Tab.getD_put_same ..

theorem Dev.pc_mapSpare (p : Nat) : (d.mapSpare s q).pc s p = (d.modPc s q .replaced).pc s p := by
  rw [Dev.pc, Dev.stack_mapSpare, Dev.pc]

theorem Dev.spares_mapSpare : Tab.getD ((d.mapSpare s q).stack s).spares (q / 16) 0 = 1 := by
  rw [Dev.stack_mapSpare, Tab.getD_put_same]

theorem Dev.SameMemories.mapSpare : d.SameMemories (d.mapSpare s q) := by
  obtain ⟨t, f, h⟩ := d.mapSpare_eq s q
  rw [h]
  exact refl d

end

end Sys2Proof.Machine
end

section
/-! SUPPORT. A transfer at its Fold slice, where no word is poisoned and nothing is read in error: what it reads, what it writes, and what a
denied one leaves (R199 to R202, R213, R354). -/

namespace Sys2Proof.Machine

open Sys2Proof

@[simp] theorem Dev.poison_stackPerf (d : Dev) (s i n : Nat) : (d.stackPerf s i n).poison = d.poison :=
  (Dev.SameMemories.perfAdd d _ _ _ _ _).poison

@[simp] theorem Dev.poison_stackErr (d : Dev) (s i n : Nat) : (d.stackErr s i n).poison = d.poison :=
  (Dev.SameMemories.stackErr d s i n).poison

@[simp] theorem Dev.decodeWords_nil (d : Dev) (pen : Nat) (cws : List Nat) : d.decodeWords pen cws [] = ([], d) := rfl

/-- Without delivered words the bytes are those that were read. -/
@[simp] theorem overlay_nil (off : Nat) (bs : List Byte) : overlay off bs [] = bs := by
  simp [overlay]

theorem penAddr_of_lt {pen off : Nat} (h : off < 2 ^ 38) : penAddr pen off = pen * 2 ^ 38 + off := by
  rw [penAddr, Nat.mod_eq_of_lt h]

/-! A denied transfer (R354). -/

theorem Dev.SameMemories.isolation (d : Dev) (target : Nat) (x : StackReq) : d.SameMemories (d.isolation target x) :=
  (ite (errAdd d _ _ _ _) (errAdd d _ _ _ _)).trans (raise _ _ _ _ _ _)

section
variable {d e : Dev} {x : StackReq} {r : StackReply}

/-- A transfer that the access map denies changes no memory, and a read answers zeros. -/
theorem Dev.transfer_denied (hmap : d.mapAllows x.pen x.die x.off (if x.kind = 0 then x.size else x.data.length) (x.kind != 0) = false)
    (h : d.transfer x = (r, e)) :
    r.denied = true ∧ r.data = List.replicate (if x.kind = 0 then x.size else 0) 0#8 ∧ d.SameMemories e := by
  unfold Dev.transfer at h
  dsimp only at h
  rw [if_pos (by rw [hmap]; rfl)] at h
  obtain ⟨rfl, rfl⟩ := Prod.mk.inj h
  refine ⟨rfl, ?_, .isolation d _ x⟩
  split_ifs <;> rfl

/-! A granted one (R199, R202, R213). -/

/-- The slice once a transfer of `n` bytes without errors has met its block: it is counted, and the Fold knows the block. -/
def Dev.metBlock (d : Dev) (x : StackReq) (n : Nat) : Dev :=
  let s := stackOf x.pen x.off
  let b := x.off / 256
  let c := (((d.stackPerf s 0 1).stackPerf s 1 (reqClass x).toNat).stackPerf s 4 (if n < 256 then 1 else 0)).stackErr s 4
    (if (d.stack s).hit b then x.foldCe else 0)
  (((c.stackPerf s 6 ((c.stack s).hit b).toNat).stackPerf s 7 (!(c.stack s).hit b).toNat).modStack s
    (fun t => t.touch b (x.kind != 0))).stackErr s 2 0

theorem Dev.SameMemories.metBlock (d : Dev) (x : StackReq) (n : Nat) : d.SameMemories (d.metBlock x n) :=
  ((((perfAdd d _ _ _ _ _).trans (perfAdd _ _ _ _ _ _)).trans (perfAdd _ _ _ _ _ _)).trans (stackErr _ _ _ _)).trans
    (((perfAdd _ _ _ _ _ _).trans (perfAdd _ _ _ _ _ _)).trans ((modStack _ _ _).trans (stackErr _ _ _ _)))

/-- Code word `w` of a write of `bs` at offset `off` of pen `pen`: the bytes of `bs` that lie in it. -/
def Dev.writeWord (pen off : Nat) (bs : List Byte) (d : Dev) (w : Nat) : Dev :=
  d.penWrite pen (max off (w * 64)) (slice bs (max off (w * 64) - off) (min (off + bs.length) (w * 64 + 64) - max off (w * 64)))

section
variable (herrs : x.errs = []) (hue : x.foldUe = []) (hpoison : d.poison = [])
include herrs hue hpoison

theorem Dev.transfer_read (hmap : d.mapAllows x.pen x.die x.off x.size false = true) (hkind : x.kind = 0) :
    d.transfer x = ({ data := (d.metBlock x x.size).penRead x.pen x.off x.size }, d.metBlock x x.size) := by
  simp [Dev.transfer, Dev.metBlock, hkind, hmap, herrs, hue, hpoison]

theorem Dev.transfer_write (hmap : d.mapAllows x.pen x.die x.off x.data.length true = true) (hkind : x.kind = 1) :
    ∃ g, d.transfer x = ({}, g) ∧ Dev.SameMemories (((List.range ((x.off + x.data.length + 63) / 64 - x.off / 64)).map
      (fun i => x.off / 64 + i)).foldl (Dev.writeWord x.pen x.off x.data) (d.metBlock x x.data.length)) g := by
  refine ⟨Dev.perfAdd (Dev.errAdd (Dev.errAdd _ (grazeOf x.pen) 64 8 0) (grazeOf x.pen) 64 9 0) (grazeOf x.pen) 63 9 2 0, ?_,
    ((SameMemories.errAdd _ _ _ _ _).trans (.errAdd _ _ _ _ _)).trans (.perfAdd _ _ _ _ _ _)⟩
  unfold Dev.writeWord
  simp [Dev.transfer, Dev.metBlock, hkind, hmap, herrs, hue, hpoison]

end

/-- The first `k` words of a write, from the one that holds `off`, hold its bytes; every other byte stands. -/
theorem Dev.writeWords_get {pen off : Nat} {bs : List Byte} (hwf : Mem.wf d.mem = true) (hfit : off + bs.length ≤ 2 ^ 38) {k : Nat}
    (hk : k ≤ (off + bs.length + 63) / 64 - off / 64) {g : Dev}
    (hg : g = ((List.range k).map (fun i => off / 64 + i)).foldl (Dev.writeWord pen off bs) d) :
    Mem.wf g.mem = true ∧ g.spad = d.spad ∧ g.abuf = d.abuf ∧ ∀ a, Mem.get g.mem a =
      if pen * 2 ^ 38 + off ≤ a ∧ a < pen * 2 ^ 38 + min (off + bs.length) ((off / 64 + k) * 64) then bs.getD (a - (pen * 2 ^ 38 + off)) 0#8
      else Mem.get d.mem a := by
  induction k generalizing g with
  | zero =>
    subst hg
    exact ⟨hwf, rfl, rfl, fun a => (if_neg (by omega)).symm⟩
  | succ k ih =>
    obtain ⟨hwf', hspad, habuf, hget⟩ := ih (by omega) rfl
    rw [List.range_succ, List.map_append, List.foldl_append] at hg
    subst hg
    refine ⟨Mem.wf_write _ _ _ hwf', hspad, habuf, fun a => ?_⟩
    have hlen : (slice bs (max off ((off / 64 + k) * 64) - off) (min (off + bs.length) ((off / 64 + k) * 64 + 64) -
        max off ((off / 64 + k) * 64))).length = min (off + bs.length) ((off / 64 + k) * 64 + 64) - max off ((off / 64 + k) * 64) := by
      rw [slice, List.length_take, List.length_drop]
      omega
    simp only [List.map_cons, List.map_nil, List.foldl_cons, List.foldl_nil, Dev.writeWord]
    rw [Dev.mem_penWrite _ _ _ _ _ hwf', hlen, penAddr_of_lt (by omega), hget]
    by_cases hin : pen * 2 ^ 38 + max off ((off / 64 + k) * 64) ≤ a ∧ a < pen * 2 ^ 38 + max off ((off / 64 + k) * 64) +
        (min (off + bs.length) ((off / 64 + k) * 64 + 64) - max off ((off / 64 + k) * 64))
    · have hat : max off ((off / 64 + k) * 64) - off + (a - (pen * 2 ^ 38 + max off ((off / 64 + k) * 64))) = a - (pen * 2 ^ 38 + off) := by
        omega
      rw [if_pos hin, if_pos (by omega), slice, List.getElem?_take_of_lt (by omega), List.getElem?_drop, hat, List.getD_eq_getElem?_getD]
    · rw [if_neg hin]
      exact if_congr (by omega) rfl rfl

/-- A granted write of a canonical memory leaves its bytes as given, and every other byte as it was. -/
theorem Dev.transfer_write_of_canonical (hwf : Mem.wf d.mem = true)
    (hmap : d.mapAllows x.pen x.die x.off x.data.length true = true) (hkind : x.kind = 1) (herrs : x.errs = []) (hue : x.foldUe = [])
    (hpoison : d.poison = []) (hlen : 0 < x.data.length) (hfit : x.off + x.data.length ≤ 2 ^ 38) (h : d.transfer x = (r, e)) :
    r.denied = false ∧ r.poison = [] ∧
    (∀ i < x.data.length, Mem.get e.mem (penAddr x.pen x.off + i) = x.data.getD i 0#8) ∧
    (∀ a, (a < penAddr x.pen x.off ∨ penAddr x.pen x.off + x.data.length ≤ a) → Mem.get e.mem a = Mem.get d.mem a) ∧
    e.spad = d.spad ∧ e.abuf = d.abuf := by
  obtain ⟨g, heq, hmem, -, hspad, habuf⟩ := Dev.transfer_write herrs hue hpoison hmap hkind
  obtain ⟨rfl, rfl⟩ := Prod.mk.inj (heq.symm.trans h)
  obtain ⟨hmem', -, hspad', habuf'⟩ := Dev.SameMemories.metBlock d x x.data.length
  obtain ⟨-, hspad'', habuf'', hget⟩ := Dev.writeWords_get (pen := x.pen) (hmem' ▸ hwf) hfit le_rfl rfl
  rw [← hmem, hmem'] at hget
  rw [penAddr_of_lt (by omega)]
  refine ⟨rfl, rfl, fun i hi => ?_, fun a ha => ?_, by rw [hspad, hspad'', hspad'], by rw [habuf, habuf'', habuf']⟩
  · rw [hget, if_pos (by omega), Nat.add_sub_cancel_left]
  · rw [hget, if_neg (by omega)]

/-- A granted read answers the bytes that stand there and changes no byte. -/
theorem Dev.transfer_read_of_clean (hmap : d.mapAllows x.pen x.die x.off x.size false = true) (hkind : x.kind = 0) (herrs : x.errs = [])
    (hue : x.foldUe = []) (hpoison : d.poison = []) (h : d.transfer x = (r, e)) :
    r.denied = false ∧ r.poison = [] ∧ r.data = (List.range x.size).map (fun i => Mem.get d.mem (penAddr x.pen x.off + i)) ∧
    e.mem = d.mem ∧ e.poison = [] ∧ e.spad = d.spad ∧ e.abuf = d.abuf := by
  obtain ⟨rfl, rfl⟩ := Prod.mk.inj ((Dev.transfer_read herrs hue hpoison hmap hkind).symm.trans h)
  obtain ⟨hmem, hkept, hspad, habuf⟩ := Dev.SameMemories.metBlock d x x.size
  refine ⟨rfl, rfl, ?_, hmem, hkept.trans hpoison, hspad, habuf⟩
  simp [Dev.penRead, hkept, hpoison, hmem]

end

end Sys2Proof.Machine
end

section
/-! The statements on the stacks. -/

namespace Sys2Proof.Machine

open Sys2Proof

/-- Refutes O42: the statement asks for no canonical memory. Where the stacks list address 0 twice, the zero that a write leaves there takes
one of the entries away, and the byte of the other still stands. In a canonical memory, which every step keeps (O60), all of it holds:
`Dev.transfer_write_of_canonical`, `Dev.transfer_read_of_clean`, `Dev.transfer_denied`. -/
theorem not_transfersReadWhatWasWrittenAndTouchNothingElse : ¬ Obligations.TransfersReadWhatWasWrittenAndTouchNothingElse := by
  unfold Obligations.TransfersReadWhatWasWrittenAndTouchNothingElse
  intro h
  obtain ⟨hwrite, -⟩ := h
  obtain ⟨-, -, hget, -⟩ := hwrite { maps := [(0, { rw := 1 })], mem := [(0, 1#8), (0, 1#8)] } _
    { requester := 0, die := 0, pen := 0, off := 0, kind := 1, data := [0#8] } _ (by decide) rfl rfl rfl rfl (by decide) (by decide)
    Prod.mk.eta.symm
  exact absurd (hget 0 (by decide)) (by decide +kernel)

/-- Settles O43: with no candidate in the pool the lane's window moves on; else the pick is served on the stack that has granted it
(`Dev.granted`), which is as before but for the lane's records, the counts and the channel's queue. -/
theorem oneRequestPerLaneAndCycleIsGranted : Obligations.OneRequestPerLaneAndCycleIsGranted := by
  unfold Obligations.OneRequestPerLaneAndCycleIsGranted
  intro s stk lane cycle drained reqs cands pool l cls c hc hl hcands hcls hpool
  refine ⟨fun hempty => ?idle, fun g hg => ?grant⟩
  case idle =>
    rw [exec_stackTransfer, stackTransfer_none hc hl hcands hcls hpool (by rw [hempty]; rfl)]
  case grant =>
    obtain ⟨hmems, hlanes, hother⟩ := c.granted_lanes stk lane cycle l cls g (losersTo l cls g cands)
    obtain ⟨hmems', hlanes', hother'⟩ : Dev.SameButChannels stk s.dev c := hc ▸ .pcDrained s.dev drained
    obtain ⟨hmem, hpoison, -⟩ := hmems'.trans hmems
    refine ⟨c.granted stk lane cycle l cls g (losersTo l cls g cands), _, _, ?_, Prod.mk.eta.symm, mem_of_pickRequest hg, hmem, hpoison, ?_,
      fun x hx hne hone hquota => ?_, fun k hk => ?_, fun n hn => (hother n hn).trans (hother' n hn)⟩
    · rw [exec_stackTransfer, stackTransfer_some hc hl hcands hcls hpool hg]
    · rw [hlanes, Tab.getD_put_same, get?_backoff_granted]
    · rw [hlanes, Tab.getD_put_same, getD_backoff_loser hx hne hone hquota]
    · rw [hlanes, Tab.getD_put_ne _ _ _ hk, hlanes']

/-- Settles O44: each row by its lemma; a word that the code does not correct is poisoned through `Dev.mem_poison_poisonWord`, which holds
because no recovery that the poisoning asks for changes the poisoned words. -/
theorem stacksRefreshScrubAndSpare : Obligations.StacksRefreshScrubAndSpare := by
  unfold Obligations.StacksRefreshScrubAndSpare
  refine ⟨fun s st q idle e hr hs hq he => ?refresh, fun s pen cw pattern st hr hp hc hst => ?scrub,
    fun s st n hr hs => by rw [exec_odeccRead, odeccRead_eq n hr hs], fun s st t b d hr hs hb hd => ?temperature,
    fun s st q errs mine hm => ⟨fun r hrun hcopy hsp => ?copy, fun hidle => ?idle⟩, fun d e st q he => ?spare⟩
  case refresh =>
    subst he
    have howed : ((s.dev.modPc st q (fun x => { x with owed := x.owed - idle })).pc st q).owed = (s.dev.pc st q).owed - idle := by
      rw [Dev.pc_modPc_same]
    refine ⟨?_, fun hroom => ?_, fun hfull => ?_⟩ <;> rw [exec_refreshDue, refreshDue_eq _ hr hs hq]
    · rw [Dev.refreshOwed_idle]
    · rw [Dev.refreshOwed_pends (howed ▸ hroom)]
    · rw [Dev.refreshOwed_whistle (howed ▸ hfull)]
  case scrub =>
    subst hst
    rw [exec_scrub]
    refine ⟨?passed, fun hclean herr => ⟨fun ws hws => ?corrected, fun hws => ⟨?poisoned, Dev.mem_poison_poisonWord ..⟩⟩⟩
    case passed =>
      intro h
      cases hdirty : (s.dev.stack (stackOf pen (cw * 64))).dirty (cw / 4) with
      | true => rw [scrub_dirty hdirty, State.on_dev_self]
      | false =>
        have hzero : pattern = 0 := h.resolve_right (by simp [hdirty])
        rw [scrub_clean hr hp hc hdirty, Dev.decodeWords_clean _ _ _ _ (by rw [hzero, Nat.zero_mod])]
        rfl
    case corrected =>
      rw [scrub_clean hr hp hc hclean, Dev.decodeWords_corrects _ _ _ _ herr hws]
      rfl
    case poisoned =>
      rw [scrub_clean hr hp hc hclean, Dev.decodeWords_poisons _ _ _ _ herr hws]
      rfl
  case temperature =>
    subst hd
    rw [exec_stackTemperatureChange, stackTemperatureChange_eq t hr hs, hb]
    rfl
  case copy => rw [exec_pseudoChannelCopy, pseudoChannelCopy_of_running _ _ _ _ hrun hcopy hsp hm]
  case idle => rw [exec_pseudoChannelCopy, pseudoChannelCopy_idle _ _ _ _ hidle, State.on_dev_self]
  case spare =>
    subst he
    obtain ⟨hmem, hpoison, -⟩ := Dev.SameMemories.mapSpare d st q
    have hq : (d.mapSpare st q).pc st q = (d.pc st q).replaced := by rw [Dev.pc_mapSpare, Dev.pc_modPc_same]
    rw [hq]
    exact ⟨rfl, rfl, rfl, rfl, fun p hne => by rw [Dev.pc_mapSpare, Dev.pc_modPc_ne _ _ _ _ hne], d.spares_mapSpare st q, hmem, hpoison⟩

end Sys2Proof.Machine
end

section
/-! SUPPORT. The CRC of a Midway flit (R240, R241): the register's step loses nothing, so an inverted bit leaves a remainder. -/

namespace Sys2Proof.Machine

open Sys2Proof

/-- The CRC's register after the bit `b` (R240). -/
def mwCrcStep (r : Nat) (b : Bool) : Nat := (r * 2 % 2 ^ 32) ^^^ (if bit r 31 != b then 0x04C11DB7 else 0)

theorem mwCrcFrom_succ (n r v : Nat) : mwCrcFrom (n + 1) r v = mwCrcFrom n (mwCrcStep r (bit v 0)) (v / 2) := rfl

theorem mwCrcStep_lt (r : Nat) (b : Bool) : mwCrcStep r b < 2 ^ 32 :=
  Nat.xor_lt_two_pow (Nat.mod_lt _ (by decide)) (by split <;> decide)

/-- What is shifted out comes back in the polynomial's lowest bit, so a register that is not 0 does not become 0. -/
theorem mwCrcStep_false_ne_zero {r : Nat} (hr : r < 2 ^ 32) (h : r ≠ 0) : mwCrcStep r false ≠ 0 := by
  rw [mwCrcStep, Ne, Nat.xor_eq_zero_iff]
  split
  case isTrue => omega
  case isFalse htop =>
    have : r / 2 ^ 31 % 2 ≠ 1 := by simpa [bit] using htop
    omega

theorem mwCrcFrom_zeros_ne_zero (n : Nat) {r : Nat} (hr : r < 2 ^ 32) (h : r ≠ 0) : mwCrcFrom n r 0 ≠ 0 := by
  induction n generalizing r with
  | zero => exact h
  | succ n ih => exact ih (mwCrcStep_lt r false) (mwCrcStep_false_ne_zero hr h)

theorem mwCrcFrom_two_pow_ne_zero {n k : Nat} (hk : k < n) : mwCrcFrom n 0 (2 ^ k) ≠ 0 := by
  induction n generalizing k with
  | zero => exact absurd hk k.not_lt_zero
  | succ n ih =>
    cases k with
    | zero => exact mwCrcFrom_zeros_ne_zero n (r := 0x04C11DB7) (by decide) (by decide)
    | succ k =>
      have hbit : bit (2 ^ (k + 1)) 0 = false := by rw [bit_eq_testBit, Nat.testBit_two_pow]; simp
      rw [mwCrcFrom_succ, hbit, show mwCrcStep 0 false = 0 from rfl, Nat.pow_succ, Nat.mul_div_cancel _ (by decide)]
      exact ih (Nat.lt_of_succ_lt_succ hk)

theorem mwCrc_ne_zero_of_two_pow {h data k : Nat} (hk : k < 1120)
    (hv : h % 2 ^ 96 + data % 2 ^ 1024 * 2 ^ 96 = 2 ^ k) : mwCrc h data ≠ 0 := by
  rw [mwCrc, if_neg, hv]
  · exact mwCrcFrom_two_pow_ne_zero hk
  · rw [Bool.and_eq_true, decide_eq_true_iff, decide_eq_true_iff]
    rintro ⟨hh, rfl⟩
    rw [hh, Nat.zero_mod, Nat.zero_mul] at hv
    exact absurd hv.symm (Nat.two_pow_pos k).ne'

theorem fld_two_pow_of_lt {k lo : Nat} (w : Nat) (h : k < lo) : fld (2 ^ k) lo w = 0 := by
  rw [fld, Nat.div_eq_of_lt (Nat.pow_lt_pow_right (by decide) h), Nat.zero_mod]

theorem fld_two_pow_of_le {k lo w : Nat} (h : lo ≤ k) : fld (2 ^ k) lo w = 2 ^ (k - lo) % 2 ^ w := by
  rw [fld, Nat.pow_div h (by decide)]

theorem two_pow_mod_of_le {k n : Nat} (h : n ≤ k) : 2 ^ k % 2 ^ n = 0 := Nat.mod_eq_zero_of_dvd (Nat.pow_dvd_pow 2 h)

theorem two_pow_mod_of_lt {k n : Nat} (h : k < n) : 2 ^ k % 2 ^ n = 2 ^ k := Nat.mod_eq_of_lt (Nat.pow_lt_pow_right (by decide) h)

/-- An inverted bit of the CRC itself is compared with the remainder 0; one of the header or the data leaves a remainder. -/
theorem mwCrcOk_two_pow {k : Nat} (hk : k < 1152) : mwCrcOk (2 ^ k) = false := by
  rw [mwCrcOk, decide_eq_false (Nat.two_pow_pos k).ne', Bool.false_or, beq_eq_false_iff_ne]
  rcases Nat.lt_or_ge k 96 with hheader | hrest
  · rw [fld_two_pow_of_lt 32 hheader, Nat.div_eq_of_lt (Nat.pow_lt_pow_right (by decide) (by omega)), two_pow_mod_of_lt (by omega)]
    exact mwCrc_ne_zero_of_two_pow (k := k) (by omega) (by rw [two_pow_mod_of_lt hheader, Nat.zero_mod, Nat.zero_mul, Nat.add_zero])
  rw [fld_two_pow_of_le hrest]
  rcases Nat.lt_or_ge k 128 with hcrc | hdata
  · have hzero : mwCrc (2 ^ k) 0 = 0 := by rw [mwCrc, two_pow_mod_of_le hrest]; rfl
    rw [Nat.div_eq_of_lt (Nat.pow_lt_pow_right (by decide) hcrc), two_pow_mod_of_lt hcrc, hzero, two_pow_mod_of_lt (by omega)]
    exact (Nat.two_pow_pos _).ne
  · rw [two_pow_mod_of_le hdata, two_pow_mod_of_le (by omega), Nat.pow_div hdata (by decide)]
    refine mwCrc_ne_zero_of_two_pow (k := k - 32) (by omega) ?_
    rw [two_pow_mod_of_lt (by omega), Nat.zero_mod, Nat.zero_add, ← Nat.pow_add, show k - 128 + 96 = k - 32 by omega]

end Sys2Proof.Machine
end

section
/-! SUPPORT. The ports of the routers are no part of what a record, a message, an abort and a withdrawal change (R420 to R431). -/

namespace Sys2Proof.Machine

open Sys2Proof

theorem Dev.foldl_ports {α : Type} {g : Dev → α → Dev} (hg : ∀ d a, (g d a).ports = d.ports) (d : Dev) (l : List α) :
    (l.foldl g d).ports = d.ports :=
  List.foldlRecOn (motive := fun e => e.ports = d.ports) l g rfl (fun e he a _ => (hg e a).trans he)

section
variable (d : Dev)

/-! Counters, records and completions. -/

@[simp] theorem Dev.errAdd_ports (die core i n : Nat) : (d.errAdd die core i n).ports = d.ports := by
  obtain ⟨t, h⟩ := d.errAdd_frame die core i n
  rw [h]

@[simp] theorem Dev.record_ports (code die core disp unit pasture link info : Nat) :
    (d.record code die core disp unit pasture link info).ports = d.ports := by
  obtain ⟨fl, t, fs, o, h⟩ := d.record_frame code die core disp unit pasture link info
  rw [h]

@[simp] theorem Dev.notice_ports (code die core pasture info : Nat) : (d.notice code die core pasture info).ports = d.ports :=
  d.record_ports ..

@[simp] theorem Dev.perfAdd_ports (die core g i n : Nat) : (d.perfAdd die core g i n).ports = d.ports := by
  obtain ⟨p, fl, t, fs, o, h⟩ := d.perfAdd_frame die core g i n
  rw [h]

@[simp] theorem Dev.setDisp_ports (q disp escto link : Nat) : (d.setDisp q disp escto link).ports = d.ports := by
  obtain ⟨fl, fs, o, h⟩ := d.setDisp_frame q disp escto link
  rw [h]

@[simp] theorem Dev.finish_ports (h st : Nat) (res : List Nat) : (d.finish h st res).ports = d.ports := by
  obtain ⟨fs, hs, e⟩ := d.finish_frame h st res
  rw [e]

@[simp] theorem Dev.sweepQueue_ports (p : FaultRec → Bool) (o seq : Nat) : (d.sweepQueue p o seq).ports = d.ports :=
  foldl_ports (fun d _ => d.setDisp_ports ..) _ _

/-! Messages that leave on a link (R261, R266 to R276). -/

@[simp] theorem Dev.linkPerf_ports (l i n : Nat) : (d.linkPerf l i n).ports = d.ports := d.perfAdd_ports ..

@[simp] theorem Dev.linkErr_ports (l i n : Nat) : (d.linkErr l i n).ports = d.ports := d.errAdd_ports ..

@[simp] theorem Dev.freeEntry_ports (inn : Option (Nat × Nat)) : (d.freeEntry inn).ports = d.ports := by cases inn <;> rfl

@[simp] theorem Dev.putStream_ports (l : Nat) (f : List Byte) : (d.putStream l f).ports = d.ports := by
  rw [putStream, modLink_ports]
  refine foldl_ports (fun d g => ?_) d _
  dsimp only
  split <;> rfl

@[simp] theorem Dev.sendFlit_ports (l : Nat) (f : List Byte) : (d.sendFlit l f).ports = d.ports := putStream_ports ..

@[simp] theorem Dev.sendCtl_ports (l : Nat) (nak : Option Bool) : (d.sendCtl l nak).ports = d.ports := sendFlit_ports ..

@[simp] theorem Dev.sendData_ports (l v : Nat) : (d.sendData l v).ports = d.ports := by
  unfold sendData
  dsimp only
  split
  · split
    · simp
    · rfl
  · rfl

/-- One arm for each kind of flit, in the order of R266. -/
@[simp] theorem Dev.linkSlot_ports (l : Nat) : (d.linkSlot l).1.ports = d.ports := by
  unfold linkSlot
  dsimp only
  split
  · rfl
  split
  · simp
  split
  · simp [apply_ite Dev.ports]
  split
  · split <;> simp
  split
  · simp
  split
  · rfl
  split <;> simp

@[simp] theorem Dev.linkPump_ports (l n : Nat) : (d.linkPump l n).ports = d.ports := by
  induction n generalizing d with
  | zero => rfl
  | succ n ih => simp [linkPump, apply_ite Dev.ports, ih]

@[simp] theorem Dev.unroutable_ports (l dst : Nat) (loaded : Bool) : (d.unroutable l dst loaded).ports = d.ports := by
  simp [unroutable, apply_ite Dev.ports]

@[simp] theorem Dev.forward_ports (dst mkind : Nat) (bs : List Byte) : (d.forward dst mkind bs).ports = d.ports := by
  unfold forward
  split
  · rfl
  · exact d.unroutable_ports ..
  · simp [apply_ite Dev.ports, pumpLink]

@[simp] theorem Dev.sendMsg_ports (dst mkind die core chan step tag last n : Nat) (data : List Byte) :
    (d.sendMsg dst mkind die core chan step tag last n data).ports = d.ports := by
  induction n generalizing d data with
  | zero => rfl
  | succ n ih => simp [sendMsg, apply_ite Dev.ports, ih]

@[simp] theorem Dev.sendTo_ports (s : Show) (pos mkind die core chan step tag : Nat) (data : List Byte) :
    (d.sendTo s pos mkind die core chan step tag data).ports = d.ports := d.sendMsg_ports ..

@[simp] theorem Dev.leaveNotice_ports (g : Nat) : (d.leaveNotice g).ports = d.ports := by
  unfold leaveNotice tellGroup
  split
  · split
    · simp [foldl_ports]
    · rfl
  · rfl

/-! Instances that are abandoned and acts that are aborted (R184, R333, R424). -/

@[simp] theorem Dev.abandonRed_ports (p i step : Nat) (cls : AbortClass) : (d.abandonRed p i step cls).ports = d.ports := by
  have hlose : ∀ s e, (d.loseRed p i step s e).ports = d.ports := fun s e => by simp [loseRed, apply_ite Dev.ports]
  unfold abandonRed
  split
  · rfl
  split
  · rfl
  · simp [apply_ite Dev.ports, foldl_ports, hlose]

@[simp] theorem Dev.abandonOf_ports (p die core : Nat) (cls : AbortClass) : (d.abandonOf p die core cls).ports = d.ports := by
  unfold abandonOf
  split
  · rfl
  refine foldl_ports (fun d i => ?_) d _
  split
  · rfl
  split
  · simp [apply_ite Dev.ports]
  · rfl

@[simp] theorem Dev.raceErr_ports (e i n : Nat) : (d.raceErr e i n).ports = d.ports := d.errAdd_ports ..

@[simp] theorem Dev.raceSend_ports (dst kind tag l e step : Nat) (data : List Byte) :
    (d.raceSend dst kind tag l e step data).ports = d.ports := d.sendMsg_ports ..

@[simp] theorem Dev.abandonSource_ports (p l : Nat) (s : Show) (e step : Nat) : (d.abandonSource p l s e step).ports = d.ports := by
  simp [abandonSource, apply_ite Dev.ports, foldl_ports]

@[simp] theorem Dev.sourceGone_ports (p l : Nat) (s : Show) (e step : Nat) : (d.sourceGone p l s e step).ports = d.ports := by
  simp [sourceGone, apply_ite Dev.ports]

@[simp] theorem Dev.abandonShard_ports (p l : Nat) (s : Show) (e q step : Nat) : (d.abandonShard p l s e q step).ports = d.ports := by
  simp [abandonShard, apply_ite Dev.ports, foldl_ports]

@[simp] theorem Dev.abandonRaces_ports (r : Run) (a : Act) : (d.abandonRaces r a).ports = d.ports := by
  unfold abandonRaces
  split
  · rfl
  · simp [apply_ite Dev.ports, foldl_ports]

@[simp] theorem Dev.actOver_ports (k : Nat) : (d.actOver k).ports = d.ports := by
  unfold actOver
  split <;> rfl

@[simp] theorem Dev.coreAbort_ports (k : Nat) (cls : AbortClass) : (d.coreAbort k cls).ports = d.ports := by
  unfold coreAbort
  split
  · rfl
  · dsimp only
    rw [actOver_ports, apply_ite Dev.ports, modCore_ports, ite_self]
    split <;> simp [abortGroup]

@[simp] theorem Dev.abortActs_ports (p : Nat → Run → Bool) (cls : AbortClass) : (d.abortActs p cls).ports = d.ports :=
  foldl_ports (fun d _ => d.coreAbort_ports ..) _ _

@[simp] theorem Dev.withdraw_ports (cause : Nat) : (d.withdraw cause).ports = d.ports := by
  simp [withdraw, apply_ite Dev.ports, foldl_ports]

end

end Sys2Proof.Machine
end

section
/-! SUPPORT. What the router of a die does with a flit at a mesh port, at its local port and at the leaf port, a replay, a retrain and
a router's failure (R239 to R253, R275). -/

namespace Sys2Proof.Machine

open Sys2Proof

/-! What the commands answer. -/

section
variable (s : State) (die q : Nat)

theorem exec_midwayFlitReceive (h data errs : Nat) (pair : Bool) : exec (.midwayFlitReceive die q h data errs pair) s =
    .next (s.on ((s.dev.mwReceive die q h data errs pair).moveTurns die)) := rfl
theorem exec_midwayReplayTimeout (slot : Nat) :
    exec (.midwayReplayTimeout die q slot) s = .next (s.on (midwayReplayTimeout s.dev die q slot)) := rfl
theorem exec_midwayRetrain (o i : List WireMargin) :
    exec (.midwayRetrain die q o i) s = .next (s.on ((s.dev.mwRetrain die q o i).moveTurns die)) := rfl
theorem exec_mwRouterFail (dir : Nat) : exec (.mwRouterFail die q dir) s = .next (s.on (mwRouterFail s.dev die q dir)) := rfl

end

/-! Ports (R239, R248). -/

@[simp] theorem Dev.port_modPort_same (d : Dev) (die q : Nat) (f : Port → Port) : (d.modPort die q f).port die q = f (d.port die q) :=
  Tab.getD_put_same ..

theorem meshPort_local (die : Nat) : meshPort die 4 = false := by simp [meshPort, neighbour]

theorem ne_local_of_meshPort {die q : Nat} (hm : meshPort die q = true) : q ≠ 4 := by
  rintro rfl
  rw [meshPort_local] at hm
  cases hm

theorem not_leaf_of_meshPort {die q : Nat} (hm : meshPort die q = true) : ¬ (die = 18 ∧ q = 1) := by
  rintro ⟨rfl, rfl⟩
  exact absurd hm (by decide)

/-! Flits that turn (R275). -/

theorem isGate_gateOf (l : Nat) : isGate (gateOf l) = true := by
  unfold gateOf
  split_ifs <;> rfl

theorem Dev.moveTurns_of_not_gate (d : Dev) {die : Nat} (h : isGate die = false) : d.moveTurns die = d := by
  have hnone : (List.range 6).filter (fun l => gateOf l == die) = [] := by
    rw [List.filter_eq_nil_iff]
    intro l _ hl
    rw [← eq_of_beq hl, isGate_gateOf] at h
    cases h
  rw [moveTurns, hnone, List.foldl_nil]

/-! A flit at a mesh port (R240 to R242). -/

/-- `d` with a flit of header `h` accepted at mesh port `q`: the number advances, an acknowledgement is owed, and what the flit gives back
is taken. -/
def Dev.mwAccept (d : Dev) (die q h : Nat) : Dev :=
  (d.modPort die q (fun x => { x with rxSeq := (x.rxSeq + 1) % 256, discarding := false, ackDue := true })).takeReturns die q h

/-- What mesh port `q` does with a flit that it receives as header `h` and data `data`; `ok` says whether it agrees with its CRC. -/
def Dev.mwChecked (d : Dev) (die q h data : Nat) (ok : Bool) : Dev :=
  if !ok || fhSeq h ≠ (d.port die q).rxSeq then d.modPort die q (fun x => { x with discarding := true })
  else if fhKind h ≠ 0 && !d.mwRoom die q (fhVc h) 1 then d
  else (if fhKind h = 0 then d.mwAccept die q h else (d.mwAccept die q h).mwTake die q h data).runRouter die

/-- The bits of `errs` are inverted on the wires. -/
theorem Dev.mwReceive_mesh (d : Dev) {die q : Nat} (h data errs : Nat) (pair : Bool) (hm : meshPort die q = true) :
    d.mwReceive die q h data errs pair = d.mwChecked die q ((h % 2 ^ 128) ^^^ (errs % 2 ^ 128))
      ((data % 2 ^ 1024) ^^^ (errs / 2 ^ 128 % 2 ^ 1024)) (mwCrcOk errs) := by
  rw [mwReceive, if_neg (ne_local_of_meshPort hm), if_neg (by simpa using not_leaf_of_meshPort hm), if_neg (by simp [hm])]
  rfl

section
variable (d : Dev) {die q h data : Nat} {ok : Bool}

theorem Dev.mwChecked_discards (hbad : ok = false ∨ fhSeq h ≠ (d.port die q).rxSeq) :
    d.mwChecked die q h data ok = d.modPort die q (fun x => { x with discarding := true }) :=
  if_pos (by simpa using hbad)

variable (hok : ok = true) (hseq : fhSeq h = (d.port die q).rxSeq)
include hok hseq

theorem Dev.mwChecked_idle (hk : fhKind h = 0) : d.mwChecked die q h data ok = (d.mwAccept die q h).runRouter die := by
  simp [mwChecked, hok, hseq, hk]

theorem Dev.mwChecked_takes (hk : fhKind h ≠ 0) (hroom : d.mwRoom die q (fhVc h) 1 = true) :
    d.mwChecked die q h data ok = ((d.mwAccept die q h).mwTake die q h data).runRouter die := by
  simp [mwChecked, hok, hseq, hk, hroom]

theorem Dev.mwChecked_full (hk : fhKind h ≠ 0) (hroom : d.mwRoom die q (fhVc h) 1 = false) : d.mwChecked die q h data ok = d := by
  simp [mwChecked, hok, hseq, hk, hroom]

end

/-! A flit at the local port and at the leaf port (R240, R243, R248). -/

section
variable (d : Dev) {die h : Nat} (data : Nat)

theorem Dev.mwReceive_local (errs : Nat) (pair : Bool) : d.mwReceive die 4 h data errs pair = d.mwInject die h data pair := if_pos rfl

theorem Dev.mwInject_refused (pair : Bool)
    (hbad : die = 19 ∨ fhSrc (setBit h 51 false) ≠ die ∨ kindInClass (setBit h 51 false) = false) : d.mwInject die h data pair = d := by
  refine if_pos ?_
  rcases hbad with h19 | hsrc | hclass
  · simp [h19]
  · simp [hsrc]
  · simp [hclass]

variable (hd : die < 40) (h19 : die ≠ 19) (hsrc : fhSrc (setBit h 51 false) = die) (hclass : kindInClass (setBit h 51 false) = true)
include hd h19 hsrc hclass

theorem Dev.mwInject_single (hroom : d.mwRoom die 4 (fhVc (setBit h 51 false)) 1 = true) :
    d.mwInject die h data false = (d.mwTake die 4 (setBit h 51 false) (data % 2 ^ 1024)).runRouter die :=
  (if_neg (by simp [hd, h19, hsrc, hclass, hroom])).trans (if_neg Bool.false_ne_true)

theorem Dev.mwInject_pair (hroom : d.mwRoom die 4 (fhVc (setBit h 51 false)) 2 = true) :
    d.mwInject die h data true = ((d.mwTake die 4 (halfOf (setBit h 51 false) false) (data % 2 ^ 1024)).mwTake die 4
      (halfOf (setBit h 51 false) true) (data / 2 ^ 1024 % 2 ^ 1024)).runRouter die :=
  (if_neg (by simp [hd, h19, hsrc, hclass, hroom])).trans (if_pos rfl)

end

theorem fromLeaf_iff {h : Nat} : fromLeaf h = true ↔ fhSrc h = 19 ∧ fhDst h = 18 ∧ fhClass h = 0 ∧ fhKind h = 6 := by
  simp [fromLeaf, and_assoc]

theorem Dev.mwReceive_leaf (d : Dev) (h data errs : Nat) (pair : Bool) : d.mwReceive 18 1 h data errs pair =
    if mwCrcOk errs && fromLeaf ((h % 2 ^ 128) ^^^ (errs % 2 ^ 128)) then (d.mwPerf 18 1 1).emit (.midwayLocal 18
      (mwFlit ((h % 2 ^ 128) ^^^ (errs % 2 ^ 128)) ((data % 2 ^ 1024) ^^^ (errs / 2 ^ 128 % 2 ^ 1024))))
    else d.errAdd 18 64 1 1 := rfl

/-! A flit that the router takes in (R240, R248). -/

section
variable (d : Dev) {die h : Nat} (inn data : Nat)

theorem Dev.mwTake_reserved (hk : 8 ≤ fhKind h) : d.mwTake die inn h data = (d.errAdd die 64 1 1).mwGiveBack die inn (fhVc h) :=
  if_pos hk

theorem Dev.mwTake_joins (hk : fhKind h < 8) (htally : die ≠ 18 ∨ fhDst h ≠ 19)
    (hway : outOf die h = 4 ∨ meshPort die (outOf die h) = true) :
    d.mwTake die inn h data =
      d.modPort die inn (fun y => { y with buf := Tab.mod y.buf (fhVc h) [] (fun l => l ++ [(h, data)]) }) := by
  have hway : ¬ (outOf die h ≠ 4 && !meshPort die (outOf die h)) = true := by simpa [or_iff_not_imp_left] using hway
  rw [mwTake, if_neg (Nat.not_le_of_lt hk), if_neg (by simpa [imp_iff_not_or] using htally), if_neg hway]

end

/-! Replay, retraining and a router's failure (R241, R251 to R253). -/

theorem midwayReplayTimeout_replays (d : Dev) {die q : Nat} (slot : Nat) {rs : List Nat} (hm : meshPort die q = true)
    (hstore : (d.port die q).store ≠ []) (ht : (d.port die q).training = false)
    (hrs : rs = (d.port die q).replays.filter (fun t => t ≤ slot && slot - t < 2 ^ 20) ++ [slot]) :
    midwayReplayTimeout d die q slot =
      ((d.port die q).store.foldl (fun d f => d.emit (.midway die q (mwFlit f.2.1 f.2.2))) (d.errAdd die 64 0 1)).modPort die q
        (fun x => { x with replays := if 16 ≤ rs.length then [] else rs, training := decide (16 ≤ rs.length) }) := by
  rw [midwayReplayTimeout, if_neg (by simp [hm, hstore, ht]), hrs]

section
variable (d : Dev) {die q : Nat} (o i : List WireMargin)

theorem Dev.mwRetrain_trains (hm : meshPort die q = true) (ht : (d.port die q).training = true) :
    d.mwRetrain die q o i = (d.portTrained die q o i).runRouter die := if_neg (by simp [hm, ht])

theorem Dev.mwRetrain_idle (ht : (d.port die q).training = false) : d.mwRetrain die q o i = d := if_pos (by simp [ht])

end

/-- The wires that the margins `m` find failed, beside those of `old`. -/
def newlyFailing (old : List Nat) (m : List WireMargin) : List Nat := (wiresFailing m).filter (fun w => !old.contains w)

theorem mem_wiresFailing {m : List WireMargin} {w : Nat} :
    w ∈ wiresFailing m ↔ ∃ x ∈ m, x.wire = w ∧ w < 640 ∧ (x.time < 8 ∨ x.volts < 10) := by
  simp only [wiresFailing, List.mem_eraseDups, List.mem_map, List.mem_filter, Bool.and_eq_true, Bool.or_eq_true, decide_eq_true_iff]
  constructor
  · rintro ⟨x, ⟨hx, hw, hbad⟩, rfl⟩
    exact ⟨x, hx, rfl, hw, hbad⟩
  · rintro ⟨x, hx, rfl, hw, hbad⟩
    exact ⟨x, ⟨hx, hw, hbad⟩, rfl⟩

theorem mem_append_newlyFailing {old : List Nat} {m : List WireMargin} {w : Nat} :
    w ∈ old ++ newlyFailing old m ↔ w ∈ old ∨ ∃ x ∈ m, x.wire = w ∧ w < 640 ∧ (x.time < 8 ∨ x.volts < 10) := by
  rw [← mem_wiresFailing, List.mem_append, newlyFailing, List.mem_filter]
  by_cases hw : w ∈ old <;> simp [hw]

/-- Port `x` once it has trained with the margins `o` outwards and `i` inwards (R251 to R253). -/
def Port.trained (x : Port) (o i : List WireMargin) : Port :=
  { x with
    outBad := x.outBad ++ newlyFailing x.outBad o, inBad := x.inBad ++ newlyFailing x.inBad i, training := false
    outHalf := 64 < x.outBad.length + (newlyFailing x.outBad o).length
    inHalf := 64 < x.inBad.length + (newlyFailing x.inBad i).length }

theorem Dev.raise_routerFail (d : Dev) (die info : Nat) : d.raise 0x0022 die 63 info 0 =
    (d.record 0x0022 die 63 dNotice 7 (d.pastureOfDie die) 0 info).withdraw (nextSeq d.faults.lastSeq) := rfl

theorem Dev.raise_spareWire (d : Dev) (die info : Nat) : d.raise 0x0020 die 63 info 0 =
    d.record 0x0020 die 63 dRecovered 3 (d.pastureOfDie die) 0 info := rfl

@[simp] theorem Dev.softRepair_ports (d : Dev) (die kind u : Nat) : (d.softRepair die kind u).ports = d.ports := rfl

@[simp] theorem Dev.routerFails_ports (d : Dev) (die info : Nat) : (d.routerFails die info).ports = d.ports := by
  simp [routerFails, apply_ite Dev.ports, raise_routerFail]

@[simp] theorem Dev.badWires_ports (d : Dev) (die q dir : Nat) (old fresh : List Nat) (half : Bool) :
    (d.badWires die q dir old fresh half).ports = d.ports := by
  simp [badWires, apply_ite Dev.ports, foldl_ports, raise_spareWire]

/-- What the spares, the narrowing or the failure of the router changes elsewhere leaves the ports. -/
theorem Dev.port_portTrained (d : Dev) (die q : Nat) (o i : List WireMargin) :
    (d.portTrained die q o i).port die q = (d.port die q).trained o i := by
  rw [portTrained, port_modPort_same]
  simp only [port, badWires_ports]
  rfl

theorem mwRouterFail_fails (d : Dev) {die : Nat} (q dir : Nat) (hd : die < 40) (h19 : die ≠ 19) :
    mwRouterFail d die q dir = d.routerFails die (q % 4 + dir % 2 * 8) := if_pos (by simp [hd, h19])

theorem Dev.routerFails_inService (d : Dev) (die info : Nat) (h : d.power.startingUp = false) :
    d.routerFails die info = d.raise 0x0022 die 63 info 0 := if_neg (by simp [h])

theorem Dev.routerFails_inStartup (d : Dev) (die info : Nat) (h : d.power.startingUp = true) :
    (d.routerFails die info).power.lostInStartup = true ∧
      (d.routerFails die info).faults = (d.record 0x0022 die 63 dNotice 7 (d.pastureOfDie die) 0 info).faults := by
  rw [routerFails, if_pos h]
  exact ⟨rfl, rfl⟩

end Sys2Proof.Machine
end

section
/-! The statement on the Midway's flits. -/

namespace Sys2Proof.Machine

open Sys2Proof

/-- Settles O46: each row by its lemma; a retrain leaves the port as `Port.trained` says, since nothing that follows a failed wire, be it a
withdrawal of the package, changes a port. -/
theorem midwayFlitsAreCheckedRoutedAndReplayed : Obligations.MidwayFlitsAreCheckedRoutedAndReplayed := by
  unfold Obligations.MidwayFlitsAreCheckedRoutedAndReplayed
  refine ⟨fun s die q h data errs h' data' pair e hm hh hd he => ?mesh, ⟨rfl, fun k hk => mwCrcOk_two_pow hk⟩,
    fun s die h data errs h' hh => ⟨fun hdie h19 hsrc hclass => ⟨fun hroom => ?single, fun hroom => ?pair⟩, fun hbad => ?refused⟩,
    fun d die hg => d.moveTurns_of_not_gate hg,
    fun s h data errs h' pair hh => ⟨fun hok hsrc hdst hclass hkind => ?leaf, fun hbad => ?leafRefused⟩,
    fun d die inn h data => ⟨d.mwTake_reserved inn data, d.mwTake_joins inn data⟩,
    fun s die q slot rs hm hstore ht hrs => by rw [exec_midwayReplayTimeout, midwayReplayTimeout_replays _ _ hm hstore ht hrs],
    fun s die q o i => ⟨fun hm ht => by rw [exec_midwayRetrain, Dev.mwRetrain_trains _ _ _ hm ht],
      fun ht => by rw [exec_midwayRetrain, Dev.mwRetrain_idle _ _ _ ht]⟩,
    fun d die q o i x hx => ?trained, fun s die q dir info hd h19 hinfo => ?router⟩
  case mesh =>
    obtain rfl : e = s.dev.mwAccept die q h' := he
    rw [exec_midwayFlitReceive, Dev.mwReceive_mesh _ _ _ _ _ hm, ← hh, ← hd]
    refine ⟨fun hbad => ?_, fun hok hseq => ⟨fun hk => ?_, fun hk hroom => ?_, fun hk hroom => ?_⟩⟩
    · rw [Dev.mwChecked_discards _ hbad]
    · rw [Dev.mwChecked_idle _ hok hseq hk]
    · rw [Dev.mwChecked_takes _ hok hseq hk hroom]
    · rw [Dev.mwChecked_full _ hok hseq hk hroom]
  case single =>
    subst hh
    rw [exec_midwayFlitReceive, Dev.mwReceive_local, Dev.mwInject_single _ _ hdie h19 hsrc hclass hroom]
  case pair =>
    subst hh
    rw [exec_midwayFlitReceive, Dev.mwReceive_local, Dev.mwInject_pair _ _ hdie h19 hsrc hclass hroom]
  case refused =>
    subst hh
    have hsame : ∀ pair, exec (.midwayFlitReceive die 4 h data errs pair) s = .next (s.on (s.dev.moveTurns die)) := fun pair => by
      rw [exec_midwayFlitReceive, Dev.mwReceive_local, Dev.mwInject_refused _ _ _ hbad]
    exact ⟨hsame false, hsame true⟩
  case leaf =>
    have hin : (mwCrcOk errs && fromLeaf h') = true := by rw [hok, fromLeaf_iff.mpr ⟨hsrc, hdst, hclass, hkind⟩]; rfl
    rw [exec_midwayFlitReceive, Dev.moveTurns_of_not_gate _ rfl, Dev.mwReceive_leaf, ← hh, if_pos hin]
  case leafRefused =>
    have hout : ¬ (mwCrcOk errs && fromLeaf h') = true := by
      rw [Bool.and_eq_true, fromLeaf_iff]
      rintro ⟨hok, hsrc, hdst, hclass, hkind⟩
      simp [hok, hsrc, hdst, hclass, hkind] at hbad
    rw [exec_midwayFlitReceive, Dev.moveTurns_of_not_gate _ rfl, Dev.mwReceive_leaf, ← hh, if_neg hout]
  case trained =>
    rw [Dev.port_portTrained] at hx
    subst hx
    refine ⟨rfl, fun w => mem_append_newlyFailing, fun w => mem_append_newlyFailing, ?_, ?_⟩
    · rw [Port.trained, decide_eq_true_iff, List.length_append]
    · rw [Port.trained, decide_eq_true_iff, List.length_append]
  case router =>
    subst hinfo
    rw [exec_mwRouterFail, mwRouterFail_fails _ _ _ hd h19]
    refine ⟨fun hrun => ?_, fun hstart => ⟨_, rfl, s.dev.routerFails_inStartup _ _ hstart⟩⟩
    rw [Dev.routerFails_inService _ _ _ hrun]

end Sys2Proof.Machine
end

section
/-! SUPPORT. What sending leaves of the links: whatever leaves by a link or waits to, be it after a flit that was taken, a message for this
package, instances that are abandoned or a transfer of the Midway, the receivers, lanes and widths of every link are as before, and the
stores of flits that wait for their acknowledgement only grow (R261, R266 to R276). -/

namespace Sys2Proof.Machine

open Sys2Proof

@[simp] theorem Dev.link_modLink_same (d : Dev) (l : Nat) (f : Link → Link) : (d.modLink l f).link l = f (d.link l) := Tab.getD_put_same ..

theorem Dev.link_modLink_ne (d : Dev) {l k : Nat} (f : Link → Link) (h : k ≠ l) : (d.modLink l f).link k = d.link k :=
  Tab.getD_put_ne _ _ _ h

theorem Dev.modLink_congr {d : Dev} {l : Nat} {f g : Link → Link} (h : f (d.link l) = g (d.link l)) : d.modLink l f = d.modLink l g := by
  rw [modLink, h, modLink]

theorem Dev.link_of_links {d e : Dev} (h : e.links = d.links) (l : Nat) : e.link l = d.link l := by
  rw [link, h, link]

/-! Counters and records leave the links. -/

section
variable (d : Dev)

@[simp] theorem Dev.errAdd_links (die core i n : Nat) : (d.errAdd die core i n).links = d.links := by
  obtain ⟨t, h⟩ := d.errAdd_frame die core i n
  rw [h]

@[simp] theorem Dev.perfAdd_links (die core g i n : Nat) : (d.perfAdd die core g i n).links = d.links := by
  obtain ⟨p, fl, t, fs, o, h⟩ := d.perfAdd_frame die core g i n
  rw [h]

@[simp] theorem Dev.record_links (code die core disp unit pasture link info : Nat) :
    (d.record code die core disp unit pasture link info).links = d.links := by
  obtain ⟨fl, t, fs, o, h⟩ := d.record_frame code die core disp unit pasture link info
  rw [h]

@[simp] theorem Dev.notice_links (code die core pasture info : Nat) : (d.notice code die core pasture info).links = d.links :=
  d.record_links ..

@[simp] theorem Dev.linkErr_links (l i n : Nat) : (d.linkErr l i n).links = d.links := d.errAdd_links ..

@[simp] theorem Dev.linkPerf_links (l i n : Nat) : (d.linkPerf l i n).links = d.links := d.perfAdd_links ..

end

/-! What sending leaves. -/

/-- Link `x` without what sending moves: what waits to leave by it or to be acknowledged, the counts of what left, the buffer entries freed,
and the messages that are coming. -/
def Link.kept (x : Link) : Link :=
  { x with
    txSeq := 0, store := [], queue := [], markerDue := none, nakDue := false, again := [], ctlDue := false, sinceCtl := 0, txPos := 0
    txCode := [], turns := [], sentOn := [], ptr := 0, freed := [], parts := [] }

/-- A field that `Link.kept` keeps is the same in links that keep the same. -/
theorem Link.field_eq {α : Type} {x y : Link} (h : y.kept = x.kept) (p : Link → α)
    (hp : ∀ z, p z.kept = p z := by exact fun _ => rfl) : p y = p x := by
  rw [← hp, h, hp]

/-- `e` has the links of `d` but for what sending moves, and no store has lost a flit. -/
structure Dev.LinksKept (d e : Dev) : Prop where
  kept : ∀ l, (e.link l).kept = (d.link l).kept
  store : ∀ l, (d.link l).store <+: (e.link l).store

namespace Dev.LinksKept

theorem of_links {d e : Dev} (h : e.links = d.links) : d.LinksKept e :=
  ⟨fun l => by rw [link_of_links h], fun l => by rw [link_of_links h]⟩

theorem refl (d : Dev) : d.LinksKept d := of_links rfl

theorem trans {d e g : Dev} (h : d.LinksKept e) (h' : e.LinksKept g) : d.LinksKept g :=
  ⟨fun l => (h'.kept l).trans (h.kept l), fun l => (h.store l).trans (h'.store l)⟩

theorem ite {d x y : Dev} {c : Prop} [Decidable c] (hx : d.LinksKept x) (hy : d.LinksKept y) : d.LinksKept (if c then x else y) := by
  split_ifs
  · exact hx
  · exact hy

theorem ite_fst {d : Dev} {x y : Dev × Bool} {c : Prop} [Decidable c] (hx : d.LinksKept x.1) (hy : d.LinksKept y.1) :
    d.LinksKept (if c then x else y).1 := by
  split_ifs
  · exact hx
  · exact hy

theorem foldl {α : Type} {g : Dev → α → Dev} (hg : ∀ (d : Dev) (a : α), d.LinksKept (g d a)) (d : Dev) (l : List α) :
    d.LinksKept (l.foldl g d) :=
  List.foldlRecOn l g (refl d) (fun e he a _ => he.trans (hg e a))

/-- A change of one link that keeps what is kept and the flits of its store. -/
theorem modLink (d : Dev) (l : Nat) (g : Link → Link)
    (hg : ∀ x, (g x).kept = x.kept ∧ x.store <+: (g x).store := by exact fun _ => ⟨rfl, List.prefix_rfl⟩) :
    d.LinksKept (d.modLink l g) := by
  have hlink : ∀ k, (d.modLink l g).link k = d.link k ∨ (d.modLink l g).link k = g (d.link k) := fun k => by
    by_cases h : k = l
    · exact .inr (h ▸ link_modLink_same d l g)
    · exact .inl (link_modLink_ne d g h)
  refine ⟨fun k => ?_, fun k => ?_⟩
  · rcases hlink k with h | h
    · rw [h]
    · rw [h, (hg _).1]
  · rcases hlink k with h | h
    · rw [h]
    · rw [h]
      exact (hg _).2

/-! Counters and records. -/

theorem errAdd (d : Dev) (die core i n : Nat) : d.LinksKept (d.errAdd die core i n) := of_links (d.errAdd_links ..)

theorem perfAdd (d : Dev) (die core g i n : Nat) : d.LinksKept (d.perfAdd die core g i n) := of_links (d.perfAdd_links ..)

theorem record (d : Dev) (code die core disp unit pasture link info : Nat) :
    d.LinksKept (d.record code die core disp unit pasture link info) := of_links (d.record_links ..)

theorem notice (d : Dev) (code die core pasture info : Nat) : d.LinksKept (d.notice code die core pasture info) :=
  of_links (d.notice_links ..)

theorem linkPerf (d : Dev) (l i n : Nat) : d.LinksKept (d.linkPerf l i n) := perfAdd d _ _ _ _ _

theorem linkErr (d : Dev) (l i n : Nat) : d.LinksKept (d.linkErr l i n) := errAdd d _ _ _ _

theorem emit (d : Dev) (o : Out) : d.LinksKept (d.emit o) := of_links rfl

/-! Flits that leave (R261, R266 to R268, R271). -/

theorem freeEntry (d : Dev) (inn : Option (Nat × Nat)) : d.LinksKept (d.freeEntry inn) := by
  unfold Dev.freeEntry
  split
  · exact refl d
  · exact modLink d _ _

theorem putStream (d : Dev) (l : Nat) (f : List Byte) : d.LinksKept (d.putStream l f) := by
  unfold Dev.putStream
  refine (foldl (fun d g => ?_) d _).trans (modLink _ l _)
  dsimp only
  split
  · exact modLink d l _
  · exact (modLink d l _).trans (emit _ _)

theorem sendFlit (d : Dev) (l : Nat) (f : List Byte) : d.LinksKept (d.sendFlit l f) :=
  ((modLink d l _).trans (emit _ _)).trans (putStream _ l f)

theorem sendCtl (d : Dev) (l : Nat) (nak : Option Bool) : d.LinksKept (d.sendCtl l nak) := by
  unfold Dev.sendCtl
  exact (sendFlit d l _).trans (modLink _ l _)

/-- The flit joins the end of the store. -/
theorem sendData (d : Dev) (l v : Nat) : d.LinksKept (d.sendData l v) := by
  unfold Dev.sendData
  dsimp only
  split
  · split
    · exact ((((modLink d l _ (by exact fun _ => ⟨rfl, List.prefix_append _ _⟩)).trans (linkPerf _ l 0 1)).trans (linkPerf _ l 6 _)).trans
        (sendFlit _ l _)).trans (freeEntry _ _)
    · exact refl d
  · exact refl d

/-- One arm for each kind of flit, in the order of R266. -/
theorem linkSlot (d : Dev) (l : Nat) : d.LinksKept (d.linkSlot l).1 := by
  unfold Dev.linkSlot
  dsimp only
  refine ite_fst (refl d) ?_
  split
  · exact (modLink d l _).trans (sendFlit _ l _)
  refine ite_fst ((modLink d l _).trans (ite ((linkErr _ l 2 1).trans (sendCtl _ l _)) (refl _))) ?_
  split
  · dsimp only
    split
    · exact ((modLink d l _).trans (sendFlit _ l _)).trans (linkPerf _ l 2 1)
    · exact modLink d l _
  refine ite_fst (sendCtl d l none) (ite_fst (refl d) ?_)
  split
  · exact linkPerf d l 3 _
  · exact (linkPerf d l 3 _).trans (sendData _ l _)

theorem linkPump (d : Dev) (l n : Nat) : d.LinksKept (d.linkPump l n) := by
  induction n generalizing d with
  | zero => exact refl d
  | succ n ih => exact ite ((linkSlot d l).trans (ih _)) (linkSlot d l)

theorem pumpLink (d : Dev) (l : Nat) : d.LinksKept (d.pumpLink l) := linkPump d l _

theorem queueFlit (d : Dev) (k v : Nat) (inn : Nat × Nat) (ft : Nat) (body : List Byte) (last : Bool) :
    d.LinksKept (d.queueFlit k v inn ft body last) :=
  ite (freeEntry d _) ((modLink d k _).trans (pumpLink _ k))

/-! Messages of this package (R273 to R276). -/

theorem unroutable (d : Dev) (l dst : Nat) (loaded : Bool) : d.LinksKept (d.unroutable l dst loaded) :=
  (linkErr d l 4 1).trans (ite (notice _ _ _ _ _ _) (refl _))

theorem forward (d : Dev) (dst mkind : Nat) (bs : List Byte) : d.LinksKept (d.forward dst mkind bs) := by
  unfold Dev.forward
  split
  · exact refl d
  · exact unroutable d _ _ _
  · exact ite (unroutable d _ _ _) ((modLink d _ _).trans (pumpLink _ _))

theorem sendMsg (d : Dev) (dst mkind die core chan step tag last n : Nat) (data : List Byte) :
    d.LinksKept (d.sendMsg dst mkind die core chan step tag last n data) := by
  induction n generalizing d data with
  | zero => exact refl d
  | succ n ih => exact ite ((forward d _ _ _).trans (ih _ _)) (forward d _ _ _)

theorem sendTo (d : Dev) (s : Show) (pos mkind die core chan step tag : Nat) (data : List Byte) :
    d.LinksKept (d.sendTo s pos mkind die core chan step tag data) := sendMsg d _ _ _ _ _ _ _ _ _ _

/-! Acts that are aborted with their instances (R184, R333, R424). -/

theorem loseRed (d : Dev) (p i step : Nat) (s : Show) (e : Nat) : d.LinksKept (d.loseRed p i step s e) :=
  (trans (of_links (by rfl)) (ite (errAdd (d.modRed p i _) _ _ _ _) (refl _))).trans (of_links (by rfl))

theorem abandonRed (d : Dev) (p i step : Nat) (cls : AbortClass) : d.LinksKept (d.abandonRed p i step cls) := by
  unfold Dev.abandonRed
  split
  · exact refl d
  split
  · exact refl d
  · exact ite (refl d) ((loseRed d p i step _ _).trans (foldl (fun d pos => sendTo d _ pos _ _ _ _ _ _ _) _ _))

theorem abandonOf (d : Dev) (p die core : Nat) (cls : AbortClass) : d.LinksKept (d.abandonOf p die core cls) := by
  unfold Dev.abandonOf
  split
  · exact refl d
  refine foldl (fun d i => ?_) d _
  split
  · exact refl d
  split
  · exact ite (abandonRed d p i _ cls) (refl d)
  · exact refl d

/-- The abandonment of a Race exchange is marked and counted. -/
theorem markRace (d : Dev) (p l e : Nat) (g : RaceInst → RaceInst) : d.LinksKept ((d.modRace p l g).raceErr e 5 1) :=
  trans (of_links (by rfl)) (errAdd _ _ _ _ _)

theorem raceSend (d : Dev) (dst kind tag l e step : Nat) (data : List Byte) : d.LinksKept (d.raceSend dst kind tag l e step data) :=
  sendMsg d _ _ _ _ _ _ _ _ _ _

theorem abandonSource (d : Dev) (p l : Nat) (s : Show) (e step : Nat) : d.LinksKept (d.abandonSource p l s e step) :=
  ite (refl d) ((markRace d p l e _).trans (foldl (fun d h => ite (refl d) (raceSend d h 5 0 l e step [])) _ _))

theorem sourceGone (d : Dev) (p l : Nat) (s : Show) (e step : Nat) : d.LinksKept (d.sourceGone p l s e step) :=
  ite (ite (refl d) (markRace d p l e _)) (abandonSource d p l s e step)

theorem abandonShard (d : Dev) (p l : Nat) (s : Show) (e q step : Nat) : d.LinksKept (d.abandonShard p l s e q step) :=
  ite (refl d) ((markRace d p l e _).trans (foldl (fun d a => ite (sourceGone d p l s e step) (raceSend d a 5 0 l e step [])) _ _))

theorem abandonRaces (d : Dev) (r : Run) (a : Act) : d.LinksKept (d.abandonRaces r a) := by
  unfold Dev.abandonRaces
  split
  · exact refl d
  · exact foldl (fun d q => trans (ite (abandonSource d _ _ _ _ _) (refl d))
      (foldl (fun d h => ite (abandonShard d _ _ _ _ _ _) (refl d)) _ _)) d _

theorem actOver (d : Dev) (k : Nat) : d.LinksKept (d.actOver k) := by
  unfold Dev.actOver
  split <;> exact of_links rfl

theorem coreAbort (d : Dev) (k : Nat) (cls : AbortClass) : d.LinksKept (d.coreAbort k cls) := by
  unfold Dev.coreAbort
  split
  · exact refl d
  next r _ =>
    have htold : d.LinksKept ((d.abortGroup r.group cls).abandonOf r.pasture (k / 64) (k % 64) cls) :=
      trans (of_links (by rfl)) (abandonOf _ _ _ _ cls)
    refine trans (trans ?_ (ite (of_links (by rfl)) (refl _))) (actOver _ k)
    split
    · exact htold.trans (abandonRaces _ _ _)
    · exact htold

/-! Reads of a stack by an agent, and a peer's answer (R209, R354, R435). -/

theorem raise_isolation (d : Dev) (die core info item : Nat) : d.raise 0x0008 die core info item =
    (d.record 0x0008 die core dContained 0 (d.pastureOfDie die) 0 info).coreAbort (coreKey die core) .hardware := rfl

theorem isolation (d : Dev) (target : Nat) (x : StackReq) : d.LinksKept (d.isolation target x) := by
  rw [Dev.isolation, raise_isolation]
  exact (ite (errAdd d _ _ _ _) (errAdd d _ _ _ _)).trans ((record _ _ _ _ _ _ _ _ _).trans (coreAbort _ _ _))

theorem stackPerf (d : Dev) (s i n : Nat) : d.LinksKept (d.stackPerf s i n) := perfAdd d _ _ _ _ _

theorem stackErr (d : Dev) (s i n : Nat) : d.LinksKept (d.stackErr s i n) := errAdd d _ _ _ _

theorem modStack (d : Dev) (s : Nat) (g : Stack → Stack) : d.LinksKept (d.modStack s g) := of_links rfl

/-- A read that finds nothing in error changes counts and the Fold, or is denied. -/
theorem transfer_read (d : Dev) {x : StackReq} (hkind : x.kind = 0) (herrs : x.errs = []) (hue : x.foldUe = []) :
    d.LinksKept (d.transfer x).2 := by
  have hmet : ∀ s a b c, d.LinksKept ((((d.stackPerf s 0 1).stackPerf s 1 a).stackPerf s 4 b).stackErr s 4 c) := fun s a b c =>
    (((stackPerf d s 0 1).trans (stackPerf _ s 1 a)).trans (stackPerf _ s 4 b)).trans (stackErr _ s 4 c)
  unfold Dev.transfer
  dsimp only
  rw [apply_ite Prod.snd]
  refine ite (isolation d _ x) ?_
  rw [if_pos hkind]
  simp only [herrs, hue, decodeWords_nil]
  exact ((((ite (hmet _ _ _ _) (ite ((hmet _ _ _ _).trans (modStack _ _ _)) (hmet _ _ _ _))).trans (stackPerf _ _ 6 _)).trans
    (stackPerf _ _ 7 _)).trans (modStack _ _ _)).trans (stackErr _ _ 2 _)

theorem grantAlone (d : Dev) (x : StackReq) : d.LinksKept (d.grantAlone x) := by
  unfold Dev.grantAlone
  exact (stackPerf d _ 3 _).trans (modStack _ _ _)

theorem access_read (d : Dev) (die core pen : Nat) (high : Bool) (fuel off n : Nat) :
    d.LinksKept (d.access die core pen 0 high [] fuel off n none).2 := by
  induction fuel generalizing d off n with
  | zero => exact refl d
  | succ fuel ih =>
    have hread : ∀ x : StackReq, x.kind = 0 → x.errs = [] → x.foldUe = [] → d.LinksKept ((d.grantAlone x).transfer x).2 :=
      fun x hkind herrs hue => (grantAlone d x).trans (transfer_read _ hkind herrs hue)
    unfold Dev.access
    dsimp only
    rw [apply_ite Prod.snd, apply_ite Prod.snd]
    exact ite (refl d) (ite (hread _ rfl rfl rfl) ((hread _ rfl rfl rfl).trans (ih _ _ _)))

theorem answerPeer (d : Dev) (src : Nat) (data : List Byte) : d.LinksKept (d.answerPeer src data) := by
  unfold Dev.answerPeer
  dsimp only
  split
  · exact (access_read d _ _ _ _ _ _ _).trans (sendMsg _ _ _ _ _ _ _ _ _ _ _)
  · exact refl d

theorem messageIn (d : Dev) (l : Nat) (bs : List Byte) : d.LinksKept (d.messageIn l bs) :=
  ite (answerPeer d _ _) (ite (emit d _) (ite (of_links (by rfl)) (linkErr d l 4 1)))

/-! Flits that cross the Midway (R240 to R245, R275). -/

theorem modPort (d : Dev) (die q : Nat) (f : Port → Port) : d.LinksKept (d.modPort die q f) := of_links rfl

theorem mwPerf (d : Dev) (die i n : Nat) : d.LinksKept (d.mwPerf die i n) := perfAdd d _ _ _ _ _

theorem launch (d : Dev) (die q h data : Nat) : d.LinksKept (d.launch die q h data) := of_links rfl

theorem turnIn (d : Dev) (h data : Nat) : d.LinksKept (d.turnIn h data) :=
  ite (trans (of_links (by rfl)) (queueFlit _ _ _ _ _ _ _)) (of_links (by rfl))

theorem mwMove (d : Dev) (die q c turn : Nat) (p : Nat × Nat × Nat × Nat) : d.LinksKept (d.mwMove die q c turn p) := by
  unfold Dev.mwMove
  have hmoved := fun f g => (modPort d die p.1 f).trans (modPort _ die q g)
  exact ite (((hmoved _ _).trans (mwPerf _ die 1 1)).trans (ite (turnIn _ _ _) (emit _ _)))
    ((((hmoved _ _).trans (ite (mwPerf _ die 2 1) (refl _))).trans (mwPerf _ die 0 1)).trans (launch _ die q _ _))

theorem mwSlot (d : Dev) (die q : Nat) : d.LinksKept (d.mwSlot die q).1 := by
  unfold Dev.mwSlot
  dsimp only
  refine ite_fst (refl d) ?_
  have hperf := fun a b => (mwPerf d die 3 a).trans (mwPerf _ die 4 b)
  split
  · exact hperf _ _
  split
  · exact hperf _ _
  · exact (hperf _ _).trans (mwMove _ die q _ _ _)

theorem mwMoves (d : Dev) (die n : Nat) : d.LinksKept (d.mwMoves die n) := by
  induction n generalizing d with
  | zero => exact refl d
  | succ n ih =>
    have hround : d.LinksKept ((List.range 5).foldl (fun (a : Dev × Bool) q => ((a.1.mwSlot die q).1, a.2 || (a.1.mwSlot die q).2))
        (d, false)).1 :=
      List.foldlRecOn (motive := fun a : Dev × Bool => d.LinksKept a.1) _ _ (refl d) (fun a ha q _ => ha.trans (mwSlot a.1 die q))
    exact ite (hround.trans (ih _)) hround

theorem mwIdle (d : Dev) (die q n : Nat) : d.LinksKept (d.mwIdle die q n) := by
  induction n generalizing d with
  | zero => exact refl d
  | succ n ih => exact ite ((launch d die q _ 0).trans (ih _)) (refl d)

theorem runRouter (d : Dev) (die : Nat) : d.LinksKept (d.runRouter die) :=
  (mwMoves d die _).trans (foldl (fun d q => mwIdle d die q 9) _ _)

theorem mwGiveBack (d : Dev) (die inn v : Nat) : d.LinksKept (d.mwGiveBack die inn v) := ite (refl d) (modPort d _ _ _)

theorem mwTake (d : Dev) (die inn h data : Nat) : d.LinksKept (d.mwTake die inn h data) :=
  ite ((errAdd d die 64 1 1).trans (mwGiveBack _ _ _ _)) (ite ((ite (emit d _) (errAdd d 18 64 1 1)).trans (mwGiveBack _ _ _ _))
    (ite (mwGiveBack d _ _ _) (modPort d _ _ _)))

theorem mwInject (d : Dev) (die h data : Nat) (pair : Bool) : d.LinksKept (d.mwInject die h data pair) :=
  ite (refl d) (ite (((mwTake d _ _ _ _).trans (mwTake _ _ _ _ _)).trans (runRouter _ die)) ((mwTake d _ _ _ _).trans (runRouter _ die)))

theorem pumpTurns (d : Dev) (l n : Nat) : d.LinksKept (d.pumpTurns l n) := by
  induction n generalizing d with
  | zero => exact refl d
  | succ n ih =>
    unfold Dev.pumpTurns
    split
    · exact refl d
    · exact ite (((modLink d l _).trans (mwInject _ _ _ _ _)).trans (ih _)) (refl d)

theorem moveTurns (d : Dev) (die : Nat) : d.LinksKept (d.moveTurns die) := foldl (fun d l => pumpTurns d l _) d _

/-! Flits that are taken (R268, R273 to R275). -/

theorem startMsg (d : Dev) (l v : Nat) (body : List Byte) : d.LinksKept (d.startMsg l v body).2 := by
  unfold Dev.startMsg
  dsimp only
  rw [apply_ite Prod.snd, apply_ite Prod.snd]
  refine ite (linkErr d l 3 1) (ite (refl d) ?_)
  split
  · exact refl d
  · exact unroutable d _ _ _
  · rw [apply_ite Prod.snd]
    exact ite (unroutable d _ _ true) (refl d)

theorem feedMsg (d : Dev) (l v : Nat) (m : RxMsg) (ft : Nat) (body : List Byte) : d.LinksKept (d.feedMsg l v m ft body) := by
  unfold Dev.feedMsg
  exact trans (modLink d l _) (ite (freeEntry _ _) (ite ((freeEntry _ _).trans (ite (messageIn _ _ _) (refl _)))
    (ite (queueFlit _ _ _ _ _ _ _) ((modLink _ l _).trans (moveTurns _ _)))))

end Dev.LinksKept

/-- A data flit that is delivered has advanced the number that link `l` expects, before its message goes on (R268). -/
def Dev.advanced (d : Dev) (l : Nat) : Dev := (d.linkPerf l 1 1).modLink l (fun x => { x with rxSeq := (x.rxSeq + 1) % 2 ^ 24 })

theorem Dev.LinksKept.deliverFlit (d : Dev) (l : Nat) (f : List Byte) : (d.advanced l).LinksKept (d.deliverFlit l f) := by
  unfold Dev.deliverFlit
  refine ite ((startMsg _ l _ _).trans (feedMsg _ l _ _ 1 _)) ?_
  split
  · exact feedMsg _ l _ _ 2 _
  · exact freeEntry _ _

end Sys2Proof.Machine
end

section
/-! SUPPORT. What a Stile link does with a flit that comes without errors, with a timeout and with a slot (R262 to R268). -/

namespace Sys2Proof.Machine

open Sys2Proof

/-! What the rows answer. -/

section
variable (s : State) (l : Nat)

theorem exec_stileFlitReceive (f : List Byte) (x : StileFacts) :
    exec (.stileFlitReceive l f x) s = .next (s.on (stileFlitReceive s.dev l f x)) := rfl
theorem exec_stileNakTimeout : exec (.stileNakTimeout l) s = .next (s.on (stileNakTimeout s.dev l)) := rfl
theorem exec_stileRetransmitTimeout : exec (.stileRetransmitTimeout l) s = .next (s.on (stileRetransmitTimeout s.dev l)) := rfl
theorem exec_stileControlDue (idle : Nat) : exec (.stileControlDue l idle) s = .next (s.on (stileControlDue s.dev l idle)) := rfl

end

/-! A flit that comes (R262, R264, R265). -/

theorem rdLE_take {bs : List Byte} {off n m : Nat} (h : off + n ≤ m) : rdLE (bs.take m) off n = rdLE bs off n := by
  rw [rdLE, rdLE, slice, slice, List.drop_take, List.take_take, Nat.min_eq_left (by omega)]

/-- What link `l`, which is up, does with a flit `f` numbered `n` whose bytes have come out of the decoder. -/
def Dev.takeFlit (d : Dev) (l n : Nat) (f : List Byte) : Dev :=
  let ft := rdLE f 256 1 / 16
  if f.length ≠ 262 || rdLE f 258 4 ≠ flitCrc n (f.take 258) then d.badCrc l
  else if 6 ≤ ft then d.linkErr l 3 1
  else if ft = 1 || ft = 2 then d.dataFlit l n f
  else
    let d := if n = (d.link l).rxSeq then d else d.gap l
    if ft = 3 then d.takeControl l (f.take 256) else d

/-- Where no codeword left errors, none is dropped as a slot passes. -/
theorem Link.settle_clean {x : Link} (slot : Nat) (h : x.rxErrs = []) : x.settle slot [] = x := by
  cases x
  cases h
  rfl

theorem stileFlitReceive_clean {d : Dev} {l slot n : Nat} {f : List Byte} (hup : (d.link l).st = .up) (herrs : (d.link l).rxErrs = [])
    (hn : n = ((d.link l).rxSeq + (rdLE f 257 1 + 256 - (d.link l).rxSeq % 256) % 256) % 2 ^ 24) :
    stileFlitReceive d l f { slot := slot } = (d.modLink l (fun x => x)).takeFlit l n f := by
  have hstream : streamErrs (d.link l).rxErrs (groupsOf (d.link l).rxLanes.length) (262 * slot) f = f := by rw [herrs]; rfl
  have hsettle : d.modLink l (fun y => y.settle (slot + 1) []) = d.modLink l (fun x => x) :=
    Dev.modLink_congr (Link.settle_clean _ herrs)
  rw [stileFlitReceive, if_neg (not_not.2 hup)]
  simp only [Dev.takeWords, List.foldl_nil, hstream, hsettle, Dev.link_modLink_same, ← hn, Dev.takeFlit]

theorem Dev.badCrc_coded {d : Dev} {l : Nat} (h : (d.link l).bypass = false) : d.badCrc l = d.linkErr l 1 1 := by
  rw [badCrc, if_pos (by rw [link_of_links (d.linkErr_links ..), h]; rfl)]

theorem Dev.takeFlit_bad {d : Dev} {l n : Nat} {f : List Byte} (hcode : (d.link l).bypass = false)
    (hbad : f.length ≠ 262 ∨ rdLE f 258 4 ≠ flitCrc n (f.take 258)) : d.takeFlit l n f = d.linkErr l 1 1 := by
  rw [takeFlit, if_pos (by simpa using hbad), badCrc_coded hcode]

section
variable {d : Dev} {l n : Nat} {f : List Byte} (hlen : f.length = 262) (hcrc : rdLE f 258 4 = flitCrc n (f.take 258))
include hlen hcrc

theorem Dev.takeFlit_reserved (ht : 6 ≤ rdLE f 256 1 / 16) : d.takeFlit l n f = d.linkErr l 3 1 := by
  rw [takeFlit, if_neg (by simp [hlen, hcrc]), if_pos ht]

theorem Dev.takeFlit_data (ht : rdLE f 256 1 / 16 = 1 ∨ rdLE f 256 1 / 16 = 2) : d.takeFlit l n f = d.dataFlit l n f := by
  rw [takeFlit, if_neg (by simp [hlen, hcrc]), if_neg (by omega), if_pos (by simpa using ht)]

theorem Dev.takeFlit_control (ht : rdLE f 256 1 / 16 = 3) (hn : n = (d.link l).rxSeq) :
    d.takeFlit l n f = d.takeControl l (f.take 256) := by
  rw [takeFlit, if_neg (by simp [hlen, hcrc]), if_neg (by omega), if_neg (by simp [ht]), if_pos ht, if_pos hn]

end

/-! A data flit (R268, R273). -/

theorem Dev.deliverHeld_none {d : Dev} {l : Nat} (h : (d.link l).replay = []) (k : Nat) : d.deliverHeld l k = d := by
  cases k with
  | zero => rfl
  | succ k => simp [deliverHeld, h]

section
variable {d : Dev} {l n : Nat} (f : List Byte)

theorem Dev.advanced_link (d : Dev) (l : Nat) : (d.advanced l).link l =
    { d.link l with rxSeq := ((d.link l).rxSeq + 1) % 2 ^ 24 } := by
  rw [advanced, link_modLink_same, link_of_links (d.linkPerf_links ..)]

/-- What a delivered flit leaves of its link's receiver, wherever its message goes: the number advances. -/
theorem Dev.deliverFlit_receiver (d : Dev) (l : Nat) (f : List Byte) :
    ((d.deliverFlit l f).link l).rxSeq = ((d.link l).rxSeq + 1) % 2 ^ 24 ∧
    ((d.deliverFlit l f).link l).replay = (d.link l).replay ∧ ((d.deliverFlit l f).link l).nak = (d.link l).nak := by
  have hkept := (LinksKept.deliverFlit d l f).kept l
  rw [advanced_link] at hkept
  exact ⟨Link.field_eq hkept Link.rxSeq, Link.field_eq hkept Link.replay, Link.field_eq hkept Link.nak⟩

@[simp] theorem Dev.link_freeEntry_same (d : Dev) (l v : Nat) : (d.freeEntry (some (l, v))).link l =
    { d.link l with freed := Tab.mod (d.link l).freed v 0 (fun n => (n + 1) % 2 ^ 32) } := link_modLink_same ..

/-- A body flit of no message frees its entry. -/
theorem Dev.deliverFlit_stray (ht : rdLE f 256 1 / 16 = 2) (hnone : Tab.get? (d.link l).parts (rdLE f 256 1 % 16) = none) :
    d.deliverFlit l f = (d.advanced l).freeEntry (some (l, rdLE f 256 1 % 16)) := by
  have hparts : Tab.get? ((d.advanced l).link l).parts (rdLE f 256 1 % 16) = none := by rw [advanced_link]; exact hnone
  rw [advanced] at hparts
  rw [deliverFlit, if_neg (by omega)]
  simp only [hparts]
  rfl

/-- A body flit of a message for this package joins it, and its entry is free. -/
theorem Dev.deliverFlit_joins {m : RxMsg} (ht : rdLE f 256 1 / 16 = 2) (hm : Tab.get? (d.link l).parts (rdLE f 256 1 % 16) = some m)
    (hhere : m.goes = 6) (hleft : 1 < m.left) :
    d.deliverFlit l f = ((d.advanced l).modLink l (fun x =>
      { x with parts := Tab.put x.parts (rdLE f 256 1 % 16) { m with left := m.left - 1, bytes := m.bytes ++ f.take 256 } })).freeEntry
        (some (l, rdLE f 256 1 % 16)) := by
  have hparts : Tab.get? ((d.advanced l).link l).parts (rdLE f 256 1 % 16) = some m := by rw [advanced_link]; exact hm
  have hlast : (m.left - 1 == 0) = false := by simp; omega
  rw [advanced] at hparts
  rw [deliverFlit, if_neg (by omega)]
  simp only [hparts, feedMsg, hhere, hlast, advanced]
  rfl

theorem Dev.freed_deliverFlit_stray (ht : rdLE f 256 1 / 16 = 2)
    (hnone : Tab.get? (d.link l).parts (rdLE f 256 1 % 16) = none) :
    Tab.getD ((d.deliverFlit l f).link l).freed (rdLE f 256 1 % 16) 0 = (Tab.getD (d.link l).freed (rdLE f 256 1 % 16) 0 + 1) % 2 ^ 32 := by
  rw [deliverFlit_stray f ht hnone, link_freeEntry_same, advanced_link, Tab.getD_mod, if_pos rfl]

theorem Dev.link_deliverFlit_joins {m : RxMsg} (ht : rdLE f 256 1 / 16 = 2) (hm : Tab.get? (d.link l).parts (rdLE f 256 1 % 16) = some m)
    (hhere : m.goes = 6) (hleft : 1 < m.left) :
    Tab.getD ((d.deliverFlit l f).link l).freed (rdLE f 256 1 % 16) 0 = (Tab.getD (d.link l).freed (rdLE f 256 1 % 16) 0 + 1) % 2 ^ 32 ∧
    Tab.get? ((d.deliverFlit l f).link l).parts (rdLE f 256 1 % 16) =
      some { m with left := m.left - 1, bytes := m.bytes ++ f.take 256 } := by
  rw [deliverFlit_joins f ht hm hhere hleft, link_freeEntry_same, link_modLink_same, advanced_link, Tab.getD_mod, if_pos rfl]
  exact ⟨rfl, Tab.get?_put_same ..⟩

variable (hreplay : (d.link l).replay = []) (hnak : (d.link l).nak = none)
include hreplay hnak

/-- The expected flit is delivered, and nothing else was held. -/
theorem Dev.dataFlit_expected (hn : n = (d.link l).rxSeq) :
    d.dataFlit l n f = (d.deliverFlit l f).modLink l (fun x => { x with nak := none }) := by
  obtain ⟨-, hheld, -⟩ := d.deliverFlit_receiver l f
  rw [hreplay] at hheld
  rw [dataFlit, if_pos hn]
  simp [deliverHeld_none hheld, hheld, hnak]

/-- The flit after the expected one is held, and a NAK is due. -/
theorem Dev.dataFlit_ahead (hn : n ≠ (d.link l).rxSeq) : d.dataFlit l n f =
    (d.modLink l (fun x => { x with replay := [(n, f)] })).sendNak l (d.link l).from_ := by
  have hjoins : d.modLink l (fun x => { x with replay := x.replay ++ [(n, f)] }) = d.modLink l (fun x => { x with replay := [(n, f)] }) :=
    modLink_congr (by simp [hreplay])
  rw [dataFlit, if_neg hn]
  simp [hreplay, hnak, hjoins, gap]

end

/-! A control flit (R267, R281). -/

theorem Dev.store_pauseTx (d : Dev) (l : Nat) : (d.link l).store <+: ((d.pauseTx l).link l).store := by
  unfold pauseTx
  split_ifs
  · exact List.prefix_rfl
  · simpa using (LinksKept.sendFlit (d.modLink l (fun x => { x with txPause := true })) l _).store l

/-- The acknowledged flits leave the store; data flits may follow. -/
theorem Dev.store_takeControl (d : Dev) (l : Nat) {body : List Byte} (hnak : bit (rdLE body 6 1) 0 = false) :
    (d.link l).store.filter (fun f => !seqGe (rdLE body 0 3) f.1) <+: ((d.takeControl l body).link l).store := by
  unfold takeControl
  simp only [hnak]
  refine List.IsPrefix.trans ?_ ((LinksKept.pumpLink _ l).store l)
  rw [if_neg Bool.false_ne_true]
  split_ifs
  · exact List.IsPrefix.trans (by rw [link_modLink_same]) (store_pauseTx _ l)
  · rw [link_modLink_same]

/-! Timeouts and idle flits (R266, R268). -/

section
variable {d : Dev} {l : Nat}

theorem stileFlitReceive_not_up (h : (d.link l).st ≠ .up) (f : List Byte) (x : StileFacts) : stileFlitReceive d l f x = d := if_pos h
theorem stileNakTimeout_not_up (h : (d.link l).st ≠ .up) : stileNakTimeout d l = d := if_neg (by simp [h])
theorem stileRetransmitTimeout_not_up (h : (d.link l).st ≠ .up) : stileRetransmitTimeout d l = d := if_pos h
theorem stileControlDue_not_up (h : (d.link l).st ≠ .up) (idle : Nat) : stileControlDue d l idle = d := if_neg (by simp [h])

theorem stileNakTimeout_none (h : (d.link l).nak = none) : stileNakTimeout d l = d := if_neg (by simp [h])
theorem stileControlDue_paused (h : (d.link l).txPause = true) (idle : Nat) : stileControlDue d l idle = d := if_neg (by simp [h])

variable (hup : (d.link l).st = .up)
include hup

theorem stileNakTimeout_again (h : (d.link l).nak.isSome = true) : stileNakTimeout d l = d.sendNak l true := if_pos (by simp [hup, h])

theorem stileRetransmitTimeout_repeats : stileRetransmitTimeout d l =
    (d.modLink l (fun x => { x with again := x.store.map Prod.fst })).pumpLink l := by
  simp [stileRetransmitTimeout, Dev.resend, hup]

theorem stileControlDue_idles (h : (d.link l).txPause = false) (idle : Nat) :
    stileControlDue d l idle = (d.sendIdles l idle).pumpLink l := if_pos (by simp [hup, h])

/-! What a slot goes to (R266, R272). -/

variable (hpause : (d.link l).txPause = false)
include hpause

theorem Dev.linkSlot_marker {b : List Byte} (hb : (d.link l).markerDue = some b) : d.linkSlot l =
    ((d.modLink l (fun y => { y with markerDue := none })).sendFlit l (mkFlit (d.link l).txSeq 0 4 b), true) := by
  simp [linkSlot, hup, hpause, hb]

variable (hmarker : (d.link l).markerDue = none)
include hmarker

theorem Dev.linkSlot_nak (hdue : (d.link l).nakDue = true) (hnak : (d.link l).nak.isSome = true) : d.linkSlot l =
    (((d.modLink l (fun y => { y with nakDue := false })).linkErr l 2 1).sendCtl l (d.link l).nak, true) := by
  simp [linkSlot, hup, hpause, hmarker, hdue, hnak]

variable (hdue : (d.link l).nakDue = false)
include hdue

theorem Dev.linkSlot_repeated {n : Nat} {rest : List Nat} {f : List Byte} (hagain : (d.link l).again = n :: rest)
    (hf : (d.link l).store.find? (fun q => q.1 == n) = some (n, f)) : d.linkSlot l =
    (((d.modLink l (fun y => { y with again := rest })).sendFlit l f).linkPerf l 2 1, true) := by
  simp [linkSlot, hup, hpause, hmarker, hdue, hagain, hf]

variable (hagain : (d.link l).again = [])
include hagain

theorem Dev.linkSlot_control (hctl : (d.link l).ctlDue = true ∨ 1024 ≤ (d.link l).sinceCtl) :
    d.linkSlot l = (d.sendCtl l none, true) := by
  simp [linkSlot, hup, hpause, hmarker, hdue, hagain, hctl]

theorem Dev.linkSlot_data {v : Nat} (hctl : (d.link l).ctlDue = false) (hsince : (d.link l).sinceCtl < 1024)
    (hroom : (d.link l).store.length < 98304) (hpick : (d.link l).pick = some v) : d.linkSlot l =
    ((d.linkPerf l 3 ((List.range 16).any (fun v => (d.link l).ready v && !(d.link l).hasCredit v)).toNat).sendData l v, true) := by
  simp [linkSlot, hup, hpause, hmarker, hdue, hagain, hctl, Nat.not_le_of_lt hsince, Nat.not_le_of_lt hroom, hpick]

end

end Sys2Proof.Machine
end

section
/-! SUPPORT. How a Stile link trains, narrows and goes down (R256, R257, R260, R263, R279 to R282, R387). -/

namespace Sys2Proof.Machine

open Sys2Proof

/-! What the rows answer. -/

section
variable (s : State) (l : Nat)

theorem exec_linkTrainingDone (t : LinkFacts) : exec (.linkTrainingDone l t) s = .next (s.on (linkTrainingDone s.dev l t)) := rfl
theorem exec_linkTrainTimeout : exec (.linkTrainTimeout l) s = .next (s.on (linkTrainTimeout s.dev l)) := rfl
theorem exec_laneFailure (lane : Nat) : exec (.laneFailure l lane) s = .next (s.on (laneFailure s.dev l lane)) := rfl
theorem exec_repairPauseEnd (tx : Bool) (lanes : List Nat) (far slices : Nat) :
    exec (.repairPauseEnd l tx lanes far slices) s = .next (s.on (repairPauseEnd s.dev l tx lanes far slices)) := rfl
theorem exec_linkDown : exec (.linkDown l) s = .next (s.on (linkDown s.dev l)) := rfl

end

/-! Lanes and settings (R256, R257, R260). -/

theorem lanesOf_length {out w : Nat} (h : w ≤ 66 - popCount out 66) : (lanesOf out w).length = w := by
  have hall : 66 = popCount out 66 + ((List.range 66).filter (fun n => !bit out n)).length := by
    simpa [popCount, maskList] using List.length_eq_length_filter_add (l := List.range 66) (bit out)
  rw [lanesOf, List.length_take]
  omega

theorem lanesOf_pairwise (out w : Nat) : (lanesOf out w).Pairwise (· < ·) :=
  (List.pairwise_lt_range.filter _).sublist (List.take_sublist _ _)

theorem working_of_mem_lanesOf {out w n : Nat} (h : n ∈ lanesOf out w) : n < 66 ∧ bit out n = false := by
  simpa using List.mem_filter.1 (List.mem_of_mem_take h)

theorem clampInt_bounds {lo hi : Int} (h : lo ≤ hi) (x : Int) : lo ≤ clampInt lo hi x ∧ clampInt lo hi x ≤ hi :=
  ⟨le_max_left _ _, max_le h (min_le_left _ _)⟩

theorem ctleRange_le (reach : Nat) : (ctleRange reach).1 ≤ (ctleRange reach).2 := by
  unfold ctleRange
  split_ifs <;> decide

theorem maskOf_singleton (n : Nat) : maskOf [n] = 2 ^ n := by
  simp [maskOf, bit]

/-! Training (R279). -/

section
variable {d : Dev} {l : Nat} {t : LinkFacts}

theorem linkTrainingDone_idle (h : (d.link l).st ≠ .training) : linkTrainingDone d l t = d := if_pos h

theorem linkTrainTimeout_idle (h : (d.link l).st ≠ .training) : linkTrainTimeout d l = d := if_neg h

theorem Dev.trainFailed_eq (d : Dev) (l phase status : Nat) : d.trainFailed l phase status =
    (d.modLink l (fun x => { x with st := .down, handle := 0 })).finish (d.link l).handle status [phase, 0] := rfl

variable (ht : (d.link l).st = .training)
include ht

theorem linkTrainTimeout_fails : linkTrainTimeout d l = d.trainFailed l 1 sTimeout := if_pos ht

theorem linkTrainingDone_fails (hp : 0 < t.phase) (hp8 : t.phase < 8) : linkTrainingDone d l t = d.trainFailed l t.phase sAborted := by
  rw [linkTrainingDone, if_neg (by simp [ht]), if_pos (by omega), Nat.mod_eq_of_lt hp8]

end

/-- The lanes that training maps out: those found bad, and those whose error ratio fails the limit (R256, R262). -/
def mappedOut (bad : List Nat) (ber : List (Nat × Nat)) : Nat := maskOf ((bad ++ berBad ber).filter (· < 66))

/-- Link `l` as a training that found `t` leaves it, with the lanes of masks `txOut` and `rxOut` out and the widths `tw` and `rw`. -/
def Dev.trained (d : Dev) (l : Nat) (t : LinkFacts) (txOut rxOut tw rw : Nat) : Link :=
  let x := d.link l
  { st := .up, ask := x.ask, forced := x.forced
    bypass := x.reach == 0 && x.ask && (berClean txOut t.txBer && berClean rxOut t.rxBer) && !x.forced
    reach := x.reach, rtt := t.rtt, txOut := txOut, rxOut := rxOut, txWidth := tw, rxWidth := rw
    txLanes := lanesOf txOut tw, rxLanes := lanesOf rxOut rw
    txEq := t.txEq.map (TxEq.within x.reach), rxEq := t.rxEq.map (RxEq.within x.reach)
    slices := d.sliceKeys l, farSlices := t.farSlices }

section
variable {d : Dev} {l txOut rxOut tw rw : Nat} {t : LinkFacts} (ht : (d.link l).st = .training) (hp : t.phase = 0)
  (htx : txOut = mappedOut t.txBad t.txBer) (hrx : rxOut = mappedOut t.rxBad t.rxBer)
  (htw : tw = d.widthOf l txOut t.txFar) (hrw : rw = d.widthOf l rxOut t.rxFar)
include ht hp htx hrx htw hrw

theorem linkTrainingDone_narrow (hw : tw = 0 ∨ rw = 0) : linkTrainingDone d l t = d.trainFailed l 4 sAborted := by
  subst htx hrx htw hrw
  rw [linkTrainingDone, if_neg (by simp [ht]), if_neg (by simp [hp])]
  exact if_pos (by rwa [Bool.or_eq_true, decide_eq_true_iff, decide_eq_true_iff])

theorem linkTrainingDone_succeeds (htw0 : tw ≠ 0) (hrw0 : rw ≠ 0) : linkTrainingDone d l t =
    ((d.modLink l (fun _ => d.trained l t txOut rxOut tw rw)).emit (.linkUp l)).finish (d.link l).handle sOk [0, tw + rw * 256] := by
  subst htx hrx htw hrw
  rw [linkTrainingDone, if_neg (by simp [ht]), if_neg (by simp [hp])]
  exact if_neg (by rw [Bool.or_eq_true, decide_eq_true_iff, decide_eq_true_iff]; exact not_or.2 ⟨htw0, hrw0⟩)

end

theorem Dev.trained_bypass (d : Dev) (l : Nat) (t : LinkFacts) (txOut rxOut tw rw : Nat) :
    (d.trained l t txOut rxOut tw rw).bypass = true ↔ (d.link l).reach = 0 ∧ (d.link l).ask = true ∧ (d.link l).forced = false ∧
      berClean txOut t.txBer = true ∧ berClean rxOut t.rxBer = true := by
  simp only [trained, Bool.and_eq_true, beq_iff_eq, Bool.not_eq_true']
  tauto

section
variable (d : Dev)

@[simp] theorem Dev.laneRecords_links (l dir old new : Nat) (lanes : List Nat) : (d.laneRecords l dir old new lanes).links = d.links := by
  unfold laneRecords
  dsimp only
  split_ifs
  · simp
  · simp
  · exact List.foldlRecOn (motive := fun e : Dev => e.links = d.links) lanes _ (d.linkErr_links ..)
      (fun e he n _ => (e.record_links ..).trans he)

/-- The loss of the beat's source changes the Beat and the functions' events alone. -/
theorem Dev.beatLost_frame (l : Nat) : ∃ b fs o, d.beatLost l = { d with beat := b, funcs := fs, out := o } := by
  unfold beatLost beatState
  split_ifs
  · exact ⟨_, _, _, rfl⟩
  · obtain ⟨fs, o, h⟩ := Dev.eventAll_frame { d with beat := { d.beat with st := .holdover, missing := 0, valid := 0 } } 3 2
    exact ⟨_, fs, o, h⟩
  · exact ⟨_, _, _, rfl⟩

end

/-! Going down (R282). -/

/-- `e` is `d` but for buffer entries of links that are free again: of the links and the memories, the counts of freed entries alone
differ. -/
structure Dev.OnlyFreed (d e : Dev) : Prop where
  link : ∀ k, ∃ fr, e.link k = { d.link k with freed := fr }
  mem : e.mem = d.mem

namespace Dev.OnlyFreed

theorem refl (d : Dev) : d.OnlyFreed d := ⟨fun _ => ⟨_, rfl⟩, rfl⟩

theorem trans {d e g : Dev} (h : d.OnlyFreed e) (h' : e.OnlyFreed g) : d.OnlyFreed g := by
  refine ⟨fun k => ?_, h'.mem.trans h.mem⟩
  obtain ⟨fr, hd⟩ := h.link k
  obtain ⟨fr', he⟩ := h'.link k
  exact ⟨fr', by rw [he, hd]⟩

theorem foldl {α : Type} {g : Dev → α → Dev} (hg : ∀ (d : Dev) (a : α), d.OnlyFreed (g d a)) (d : Dev) (l : List α) :
    d.OnlyFreed (l.foldl g d) :=
  List.foldlRecOn l g (refl d) (fun e he a _ => he.trans (hg e a))

theorem freeEntry (d : Dev) (inn : Option (Nat × Nat)) : d.OnlyFreed (d.freeEntry inn) := by
  unfold Dev.freeEntry
  split
  · exact refl d
  next l v =>
    refine ⟨fun k => ?_, rfl⟩
    by_cases hk : k = l
    · subst hk
      exact ⟨_, link_modLink_same ..⟩
    · exact ⟨_, link_modLink_ne d _ hk⟩

/-- The entries of all that waits to leave a link are freed. -/
theorem freeQueue (d : Dev) (t : Tab (List TxMsg)) : d.OnlyFreed
    (t.foldl (fun d q => q.2.foldl (fun d m => m.flits.foldl (fun d _ => Dev.freeEntry d m.inn) d) d) d) :=
  foldl (fun d q => foldl (fun d m => foldl (fun d _ => freeEntry d m.inn) d m.flits) d q.2) d t

end Dev.OnlyFreed

theorem Dev.link_mapV (d : Dev) {f : Nat → Link → Link} (hf : ∀ k, f k {} = {}) (k : Nat) :
    Dev.link { d with links := Tab.mapV d.links f } k = f k (d.link k) := by
  simp only [link, Tab.getD, Tab.get?_mapV]
  cases Tab.get? d.links k with
  | none => exact (hf k).symm
  | some x => rfl

theorem Dev.link_dropMessages (d : Dev) (l k : Nat) : ∃ q fr, (d.dropMessages l).link k = { d.link k with queue := q, freed := fr } ∧
    (k = l → q = []) := by
  obtain ⟨fr, hfr⟩ := (OnlyFreed.freeQueue d (d.link l).queue).link k
  rw [dropMessages, link_mapV, hfr]
  · exact ⟨_, _, rfl, fun h => if_pos h⟩
  · intro k
    split_ifs <;> rfl

theorem Dev.mem_dropMessages (d : Dev) (l : Nat) : (d.dropMessages l).mem = d.mem :=
  (OnlyFreed.freeQueue d (d.link l).queue).mem

/-- A link that has gone down: what its stores held is discarded. -/
def Link.downed (x : Link) : Link :=
  { x with
    st := .down, txWidth := 0, rxWidth := 0, txLanes := [], rxLanes := [], txPause := false, rxPause := false, bypass := false
    store := [], again := [], replay := [], parts := [], turns := [], nak := none, nakDue := false, from_ := false, rxFail := []
    markerDue := none, ctlDue := false }

section
variable {d : Dev} {l : Nat}

theorem Dev.goDown_eq (hup : (d.link l).st = .up) : d.goDown l =
    (((d.dropMessages l).modLink l Link.downed).notice 0x002A (gateOf l) 63 31 l).beatLost l := if_neg (not_not.2 hup)

theorem Dev.goDown_not_up (h : (d.link l).st ≠ .up) : d.goDown l = d := if_pos h

variable (hup : (d.link l).st = .up)
include hup

theorem Dev.link_goDown (k : Nat) : (d.goDown l).link k = ((d.dropMessages l).modLink l Link.downed).link k := by
  obtain ⟨b, fs, o, h⟩ := (((d.dropMessages l).modLink l Link.downed).notice 0x002A (gateOf l) 63 31 l).beatLost_frame l
  rw [goDown_eq hup, h]
  exact link_of_links (notice_links ..) k

theorem Dev.link_goDown_same : ∃ fr, (d.goDown l).link l = Link.downed { d.link l with queue := [], freed := fr } := by
  obtain ⟨q, fr, hlink, hq⟩ := d.link_dropMessages l l
  exact ⟨fr, by rw [link_goDown hup, link_modLink_same, hlink, hq rfl]⟩

theorem Dev.link_goDown_ne {k : Nat} (hk : k ≠ l) : ∃ q fr, (d.goDown l).link k = { d.link k with queue := q, freed := fr } := by
  obtain ⟨q, fr, hlink, -⟩ := d.link_dropMessages l k
  exact ⟨q, fr, by rw [link_goDown hup, link_modLink_ne _ _ hk, hlink]⟩

theorem Dev.st_goDown : ((d.goDown l).link l).st = .down := by
  obtain ⟨fr, h⟩ := link_goDown_same hup
  rw [h]
  rfl

theorem Dev.mem_goDown : (d.goDown l).mem = d.mem := by
  obtain ⟨b, fs, o, h⟩ := (((d.dropMessages l).modLink l Link.downed).notice 0x002A (gateOf l) 63 31 l).beatLost_frame l
  obtain ⟨hmem, -⟩ := SameMemories.notice ((d.dropMessages l).modLink l Link.downed) 0x002A (gateOf l) 63 31 l
  rw [goDown_eq hup, h]
  exact hmem.trans (d.mem_dropMessages l)

end

theorem linkDown_not_up {d : Dev} {l : Nat} (h : (d.link l).st ≠ .up) : linkDown d l = d := by
  rw [linkDown, Dev.goDown_not_up h, ite_self]

/-! Lane repair (R280, R281). -/

section
variable {d : Dev} {l lane : Nat}

theorem laneFailure_unused (h : lane ∉ (d.link l).rxLanes) : laneFailure d l lane = d := if_pos (by simp [h])

section
variable (hup : (d.link l).st = .up) (hfail : (d.link l).rxFail = []) (hin : lane ∈ (d.link l).rxLanes)
include hup hfail hin

theorem laneFailure_asks (hleft : popCount (d.link l).rxOut 66 ≤ 49) : laneFailure d l lane =
    (d.modLink l (fun x => { x with rxFail := x.rxFail ++ [lane], rxPause := true, ctlDue := true })).pumpLink l := by
  rw [laneFailure, if_neg (by simp [hup, hfail, hin])]
  exact if_neg (by rw [hfail, List.length_nil]; omega)

theorem laneFailure_fails (hleft : 49 < popCount (d.link l).rxOut 66) : ((laneFailure d l lane).link l).st = .down := by
  rw [laneFailure, if_neg (by simp [hup, hfail, hin])]
  dsimp only
  rw [if_pos (by rw [hfail, List.length_nil]; omega)]
  exact Dev.st_goDown (by rw [Dev.link_modLink_same]; exact hup)

end

/-- The receiving direction after a repair pause, of width `w` with the lanes of mask `out` out (R281). -/
def Link.repairedRx (x : Link) (out w slices : Nat) : Link :=
  { x with rxOut := out, rxWidth := w, rxLanes := lanesOf out w, rxErrs := [], rxPause := false, rxFail := [], slices := slices }

/-- The transmit direction after a repair pause, with the far end's table `far` (R281). -/
def Link.repairedTx (x : Link) (out w slices far : Nat) : Link :=
  { x with
    txOut := out, txWidth := w, txLanes := lanesOf out w, txPos := 0, txCode := [], txPause := false, slices := slices, farSlices := far }

section
variable {now : List Nat} {out w far slices : Nat} (hup : (d.link l).st = .up)
include hup

section
variable (hpause : (d.link l).rxPause = true) (hnow : now = (d.link l).rxFail.filter (fun n => !bit (d.link l).rxOut n))
  (hout : out = (d.link l).rxOut ||| maskOf now) (hw : w = d.widthOf l out far)
include hpause hnow hout hw

theorem repairPauseEnd_rx_fails (h0 : w = 0) : repairPauseEnd d l false [] far slices = d.goDown l := by
  subst hnow hout hw
  rw [repairPauseEnd, if_neg (by simp [hup, hpause])]
  exact if_pos h0

theorem repairPauseEnd_rx (h0 : w ≠ 0) : repairPauseEnd d l false [] far slices =
    ((d.laneRecords l 1 (d.link l).rxWidth w now).modLink l
      (fun x => x.repairedRx out w ((d.laneRecords l 1 (d.link l).rxWidth w now).sliceKeys l))).sendNak l true := by
  subst hnow hout hw
  rw [repairPauseEnd, if_neg (by simp [hup, hpause])]
  exact if_neg h0

/-- The receiver resumes on its good lanes and asks for what was in flight; what leaves by the link then keeps both. -/
theorem kept_repairPauseEnd_rx (h0 : w ≠ 0) : ∃ sl, ((repairPauseEnd d l false [] far slices).link l).kept =
    { (d.link l).repairedRx out w sl with nak := some true, from_ := false }.kept :=
  ⟨_, by rw [repairPauseEnd_rx hup hpause hnow hout hw h0, Dev.sendNak, (Dev.LinksKept.pumpLink _ l).kept, Dev.link_modLink_same,
    Dev.link_modLink_same, Dev.link_of_links (d.laneRecords_links ..)]; rfl⟩

end

section
variable {lanes : List Nat} (hpause : (d.link l).txPause = true)
  (hnow : now = (lanes.filter (· < 66)).filter (fun n => !bit (d.link l).txOut n)) (hout : out = (d.link l).txOut ||| maskOf now)
  (hw : w = d.widthOf l out far) (h0 : w ≠ 0)
include hpause hnow hout hw h0

theorem repairPauseEnd_tx : repairPauseEnd d l true lanes far slices = ((d.laneRecords l 0 (d.link l).txWidth w now).modLink l
    (fun x => x.repairedTx out w ((d.laneRecords l 0 (d.link l).txWidth w now).sliceKeys l) slices)).pumpLink l := by
  subst hnow hout hw
  rw [repairPauseEnd, if_neg (by simp [hup, hpause])]
  exact if_neg h0

/-- The transmitter resumes on the lanes that the far end has left. -/
theorem kept_repairPauseEnd_tx : ∃ sl, ((repairPauseEnd d l true lanes far slices).link l).kept =
    ((d.link l).repairedTx out w sl slices).kept :=
  ⟨_, by rw [repairPauseEnd_tx hup hpause hnow hout hw h0, (Dev.LinksKept.pumpLink _ l).kept, Dev.link_modLink_same,
    Dev.link_of_links (d.laneRecords_links ..)]⟩

end

end

end

end Sys2Proof.Machine
end

section
/-! The statements on Stile links. -/

namespace Sys2Proof.Machine

open Sys2Proof

/-- Settles O48: a flit without errors is taken as `Dev.takeFlit` says, and what its message does beyond the link leaves the receiver
(`Dev.LinksKept`); each other row and each kind of slot by its lemma. -/
theorem stileFramesAreCheckedTakenAndRepeated : Obligations.StileFramesAreCheckedTakenAndRepeated := by
  unfold Obligations.StileFramesAreCheckedTakenAndRepeated
  refine ⟨fun s l f slot e n v y c hy hup hcode herrs he hn hv hc => ?receive, fun s l idle f x h => ?notUp, fun s l idle hup => ?timers,
    fun d l x hx hup hpause => ?slots⟩
  case receive =>
    subst hy he hv
    have hc : c.link l = s.dev.link l := by rw [hc, Dev.link_modLink_same]
    have htaken : exec (.stileFlitReceive l f { slot := slot }) s = .next (s.on (c.takeFlit l n f)) := by
      rw [exec_stileFlitReceive, stileFlitReceive_clean hup herrs hn, ‹c = _›]
    rw [htaken, ← hc]
    rw [← hc] at hcode
    refine ⟨fun hbad => by rw [Dev.takeFlit_bad hcode hbad], fun hlen hcrc => ⟨fun ht => by rw [Dev.takeFlit_reserved hlen hcrc ht],
      fun ht hne hreplay hnak => ?expected, fun ht hne hlt hreplay hnak => ?ahead, fun ht hne hbit => ?control⟩⟩
    case expected =>
      rw [Dev.takeFlit_data hlen hcrc ht, Dev.dataFlit_expected f hreplay hnak hne]
      obtain ⟨hseq, hheld, -⟩ := c.deliverFlit_receiver l f
      refine ⟨_, rfl, by rw [Dev.link_modLink_same, hseq], by rw [Dev.link_modLink_same], by rw [Dev.link_modLink_same, hheld, hreplay],
        fun ht hnone => ?_, fun m ht hm hhere hleft => ?_⟩
      · rw [Dev.link_modLink_same, Dev.freed_deliverFlit_stray f ht hnone]
      · rw [Dev.link_modLink_same]
        exact Dev.link_deliverFlit_joins f ht hm hhere hleft
    case ahead =>
      have hne : n ≠ (c.link l).rxSeq := by omega
      rw [Dev.takeFlit_data hlen hcrc ht, Dev.dataFlit_ahead f hreplay hnak hne]
    case control =>
      obtain ⟨more, hmore⟩ := c.store_takeControl l (body := f.take 256) (by rwa [rdLE_take (by omega)])
      rw [Dev.takeFlit_control hlen hcrc ht hne]
      exact ⟨_, more, rfl, by rw [← hmore, rdLE_take (by omega)]⟩
  case notUp =>
    rw [exec_stileFlitReceive, exec_stileNakTimeout, exec_stileRetransmitTimeout, exec_stileControlDue, stileFlitReceive_not_up h,
      stileNakTimeout_not_up h, stileRetransmitTimeout_not_up h, stileControlDue_not_up h, State.on_dev_self]
    exact ⟨rfl, rfl, rfl, rfl⟩
  case timers =>
    rw [exec_stileNakTimeout, exec_stileRetransmitTimeout, exec_stileControlDue, stileRetransmitTimeout_repeats hup]
    refine ⟨fun h => ?_, fun h => ?_, rfl, fun h => ?_, fun h => ?_⟩
    · rw [stileNakTimeout_again hup h, Dev.sendNak]
    · rw [stileNakTimeout_none h, State.on_dev_self]
    · rw [stileControlDue_idles hup h]
    · rw [stileControlDue_paused h, State.on_dev_self]
  case slots =>
    subst hx
    exact ⟨fun b => Dev.linkSlot_marker hup hpause, Dev.linkSlot_nak hup hpause,
      fun n rest f hmarker hdue => Dev.linkSlot_repeated hup hpause hmarker hdue,
      fun hmarker hdue hagain => Dev.linkSlot_control hup hpause hmarker hdue hagain,
      fun v hmarker hdue hagain => Dev.linkSlot_data hup hpause hmarker hdue hagain⟩

/-- Settles O49: each row by its lemma; what a resumed link sends keeps its lanes and widths (`Dev.LinksKept`), and going down only frees
entries of other links (`Dev.OnlyFreed`). -/
theorem stileLinksTrainNarrowAndGoDown : Obligations.StileLinksTrainNarrowAndGoDown := by
  unfold Obligations.StileLinksTrainNarrowAndGoDown
  refine ⟨fun s l t x txOut rxOut tw rw hx ht htx hrx htw hrw => ?training, fun s l t h => ?idle,
    fun out w hw => ⟨lanesOf_length hw, lanesOf_pairwise out w, fun n => working_of_mem_lanesOf⟩, fun reach e r => ?within,
    fun s l lane hup hfail => ?lane, fun s l lane far slices w hup hpause hfail hgood hw => ?rx,
    fun s l far slices out w lanes hup hpause hout hw h0 => ?tx, fun s l hl hup => ?down, fun s l h => ?stays⟩
  case training =>
    subst hx
    rw [exec_linkTrainingDone, exec_linkTrainTimeout, linkTrainTimeout_fails ht]
    refine ⟨fun hp hp8 => ?_, fun hp hw => ?_, fun hp htw0 hrw0 => ?_, rfl⟩
    · rw [linkTrainingDone_fails ht hp hp8, Dev.trainFailed_eq]
    · rw [linkTrainingDone_narrow ht hp htx hrx htw hrw hw, Dev.trainFailed_eq]
    · rw [linkTrainingDone_succeeds ht hp htx hrx htw hrw htw0 hrw0]
      have hlink : ∀ k, (Dev.emit (s.dev.modLink l (fun _ => s.dev.trained l t txOut rxOut tw rw)) (.linkUp l)).link k =
        (s.dev.modLink l (fun _ => s.dev.trained l t txOut rxOut tw rw)).link k := fun _ => rfl
      refine ⟨_, rfl, ?_⟩
      simp only [hlink, Dev.link_modLink_same]
      exact ⟨rfl, rfl, rfl, rfl, rfl, rfl, rfl, rfl, rfl, rfl, rfl, rfl, rfl, rfl, Dev.trained_bypass ..,
        fun k hk => Dev.link_modLink_ne _ _ hk⟩
  case idle =>
    rw [exec_linkTrainingDone, exec_linkTrainTimeout, linkTrainingDone_idle h, linkTrainTimeout_idle h, State.on_dev_self]
    exact ⟨rfl, rfl⟩
  case within =>
    obtain ⟨hpre2, hpre2'⟩ := clampInt_bounds (Int.natCast_nonneg (txRange reach).1) e.pre2
    obtain ⟨hpre1, hpre1'⟩ := clampInt_bounds (Int.neg_nonpos_of_nonneg (Int.natCast_nonneg (txRange reach).2.1)) e.pre1
    obtain ⟨hpost, hpost'⟩ := clampInt_bounds (Int.neg_nonpos_of_nonneg (Int.natCast_nonneg (txRange reach).2.2)) e.post1
    refine ⟨hpre2, hpre2', hpre1', hpre1, hpost', hpost, le_max_left _ _, max_le (by decide) (min_le_left _ _), le_max_left _ _,
      max_le (ctleRange_le reach) (min_le_left _ _), ?_, List.length_take_le _ _⟩
    simp [RxEq.within]
  case lane =>
    rw [exec_laneFailure]
    refine ⟨fun hin => ?_, fun hin hleft => ?_, fun hin hleft => ⟨_, rfl, laneFailure_fails hup hfail hin hleft⟩⟩
    · rw [laneFailure_unused hin, State.on_dev_self]
    · rw [laneFailure_asks hup hfail hin hleft]
  case rx =>
    have hnow : [lane] = (s.dev.link l).rxFail.filter (fun n => !bit (s.dev.link l).rxOut n) := by
      rw [hfail, List.filter_singleton, hgood]
      rfl
    rw [← maskOf_singleton] at hw ⊢
    rw [exec_repairPauseEnd]
    refine ⟨fun h0 => ⟨_, rfl, ?_⟩, fun h0 => ⟨_, rfl, ?_⟩⟩
    · rw [repairPauseEnd_rx_fails hup hpause hnow rfl hw h0]
      exact Dev.st_goDown hup
    · obtain ⟨sl, hkept⟩ := kept_repairPauseEnd_rx (slices := slices) hup hpause hnow rfl hw h0
      exact ⟨(Link.field_eq hkept Link.st).trans hup, Link.field_eq hkept Link.rxOut, Link.field_eq hkept Link.rxWidth,
        Link.field_eq hkept Link.rxLanes, Link.field_eq hkept Link.rxPause, Link.field_eq hkept Link.rxFail, Link.field_eq hkept Link.nak,
        Link.field_eq hkept Link.txOut, Link.field_eq hkept Link.txWidth⟩
  case tx =>
    obtain ⟨sl, hkept⟩ := kept_repairPauseEnd_tx (slices := slices) hup hpause rfl hout hw h0
    rw [exec_repairPauseEnd]
    exact ⟨_, rfl, (Link.field_eq hkept Link.st).trans hup, Link.field_eq hkept Link.txOut, Link.field_eq hkept Link.txWidth,
      Link.field_eq hkept Link.txLanes, Link.field_eq hkept Link.txPause, Link.field_eq hkept Link.farSlices,
      Link.field_eq hkept Link.rxOut, Link.field_eq hkept Link.rxWidth⟩
  case down =>
    obtain ⟨fr, hlink⟩ := Dev.link_goDown_same hup
    rw [exec_linkDown, linkDown, if_pos hl]
    refine ⟨_, rfl, ?_⟩
    rw [hlink]
    refine ⟨rfl, rfl, rfl, rfl, rfl, rfl, fun k hk => ?_, Dev.mem_goDown hup⟩
    obtain ⟨q, fr', hk⟩ := Dev.link_goDown_ne hup hk
    rw [hk]
    exact ⟨rfl, rfl, rfl, rfl⟩
  case stays => rw [exec_linkDown, linkDown_not_up h, State.on_dev_self]

end Sys2Proof.Machine
end

section
/-! SUPPORT. What the services of the request, `PREFIX` and `ADAPTER` commands answer where every check passes, and what they read of a
package whose mailbox has just taken the slot (R285 to R308, R385, R386). -/

namespace Sys2Proof.Machine

open Sys2Proof

theorem exec_reqOpen (c : Door) (s : State) : exec (.reqOpen c) s = .next (s.on (s.dev.serve c 0x0501 svcReqOpen)) := rfl
theorem exec_reqAppend (c : Door) (s : State) : exec (.reqAppend c) s = .next (s.on (s.dev.serve c 0x0502 svcReqAppend)) := rfl
theorem exec_reqGenerate (c : Door) (s : State) : exec (.reqGenerate c) s = .next (s.on (s.dev.serve c 0x0503 svcReqGenerate)) := rfl
theorem exec_reqPause (c : Door) (s : State) : exec (.reqPause c) s = .next (s.on (s.dev.serve c 0x0504 svcReqPause)) := rfl
theorem exec_reqResume (c : Door) (s : State) : exec (.reqResume c) s = .next (s.on (s.dev.serve c 0x0505 svcReqResume)) := rfl
theorem exec_reqClose (c : Door) (s : State) : exec (.reqClose c) s = .next (s.on (s.dev.serve c 0x0506 svcReqClose)) := rfl
theorem exec_reqQuery (c : Door) (s : State) : exec (.reqQuery c) s = .next (s.on (s.dev.serve c 0x0507 svcReqQuery)) := rfl
theorem exec_prefixBuild (c : Door) (s : State) : exec (.prefixBuild c) s = .next (s.on (s.dev.serve c 0x0601 svcPrefixBuild)) := rfl
theorem exec_prefixTrain (c : Door) (s : State) : exec (.prefixTrain c) s = .next (s.on (s.dev.serve c 0x0602 svcPrefixTrain)) := rfl
theorem exec_prefixDrop (c : Door) (s : State) : exec (.prefixDrop c) s = .next (s.on (s.dev.serve c 0x0603 svcPrefixDrop)) := rfl
theorem exec_adapterTrain (c : Door) (s : State) : exec (.adapterTrain c) s = .next (s.on (s.dev.serve c 0x0604 svcAdapterTrain)) := rfl

/-! What a taken slot leaves as it was: requests, pools and reservations. -/

section
variable (d : Dev) (c : Door) (op : Nat)

theorem Dev.took_req (h : Nat) : (d.took c op).req h = d.req h := by
  simp only [Dev.req, Dev.took_reqs]

theorem Dev.took_draftWidth (p : Nat) : (d.took c op).draftWidth p = d.draftWidth p := by
  simp only [Dev.draftWidth, Dev.took_pKey]

theorem Dev.took_canRestore (r : Request) : (d.took c op).canRestore r = d.canRestore r := by
  obtain ⟨fs, h⟩ := d.took_eq c op; rw [h]; rfl

theorem Dev.took_reserveOk (r : Request) (n : Nat) : reserveOk (d.took c op) r n = reserveOk d r n := by
  obtain ⟨fs, h⟩ := d.took_eq c op; rw [h]; rfl

end

/-- A page that loses a holder changes the page records alone (R294). -/
theorem Dev.releasePage_frame (d : Dev) (n : Nat) : ∃ ps, d.releasePage n = { d with pages := ps } := by
  unfold Dev.releasePage
  split
  · exact ⟨_, rfl⟩
  · split <;> exact ⟨_, rfl⟩

theorem Dev.releasePages_frame (d : Dev) (l : List Nat) : ∃ ps, d.releasePages l = { d with pages := ps } := by
  induction l generalizing d with
  | nil => exact ⟨_, rfl⟩
  | cons n l ih =>
    obtain ⟨ps, h⟩ := d.releasePage_frame n
    obtain ⟨qs, h'⟩ := ih (d.releasePage n)
    exact ⟨qs, h'.trans (by rw [h])⟩

/-- Pages that return to their pool leave the next handle as it is. -/
theorem Dev.nextHandle_releasePages (d : Dev) (l : List Nat) (f : Nat) : (d.releasePages l).nextHandle f = d.nextHandle f := by
  obtain ⟨ps, h⟩ := d.releasePages_frame l; rw [h]; rfl

/-! Requests (R285 to R288, R295, R298, R385). -/

/-- An issuer with a pasture, or the PF where it may name another function's handle, names an open request (R361, R365). -/
theorem namedReq_ok {d : Dev} {c : Door} {foreign : Bool} {h : Nat} {r : Request}
    (hp : (foreign && decide (c.func = 0)) = false → ∃ p, d.pastureOf c.func = some p) (hn : namedHandle d c foreign = .ok h)
    (hr : d.req h = some r) : namedReq d c foreign = .ok (h, r) := by
  cases hf : foreign && decide (c.func = 0) with
  | true => simp only [namedReq, hf, hn, hr, if_true, except_ok_bind, except_pure]
  | false =>
    obtain ⟨p, hp⟩ := hp hf
    simp only [namedReq, hf, ownPasture_ok hp, hn, hr, Bool.false_eq_true, if_false, except_ok_bind, except_pure]

/-- A request of the issuer's own. -/
theorem namedReq_own {d : Dev} {c : Door} {h p : Nat} {r : Request} (hp : d.pastureOf c.func = some p)
    (hn : namedHandle d c false = .ok h) (hr : d.req h = some r) : namedReq d c false = .ok (h, r) :=
  namedReq_ok (fun _ => ⟨p, hp⟩) hn hr

/-- A request that the PF, or its own function, names. -/
theorem namedReq_foreign {d : Dev} {c : Door} {h : Nat} {r : Request} (hp : c.func ≠ 0 → ∃ p, d.pastureOf c.func = some p)
    (hn : namedHandle d c true = .ok h) (hr : d.req h = some r) : namedReq d c true = .ok (h, r) :=
  namedReq_ok (fun hf => hp (by simpa using hf)) hn hr

section
variable {d : Dev} {c : Door} {p : Nat}

/-- The service of `REQ_OPEN` that names none of the prefixes, where the checks pass. -/
theorem svcReqOpen_plain {w : Show} (hh : checkHeader c 8 [(0, [255, 255, 255])] = .ok ()) (hs : d.stopped = false)
    (hp : d.pastureOf c.func = some p) (hw : d.showOf p = some w) (hr : d.handlesLeft c.func = true) (hmax : d.openReqs p < w.rmax)
    (hn : dp c 0 2 = 0xFFFF) : svcReqOpen d c = .ok ({ handle := some (d.nextHandle c.func) },
      ({ d.opened c.func c.tag .request with
        reqs := Tab.put (d.opened c.func c.tag .request).reqs (d.nextHandle c.func) { pasture := p } } : Dev).srvAdd c.func 4 1) := by
  have hroom : decide (w.rmax ≤ d.openReqs p) = false := decide_eq_false (Nat.not_le.2 hmax)
  simp only [svcReqOpen, hh, notStopped_ok hs, ownPasture_ok hp, hw, hn, if_true, handleRoom_ok hr, hroom, refuseIf_false, except_ok_bind,
    Dev.newHandle_eq, except_pure]

/-- The service of `REQ_OPEN` that names one of the built prefixes of its pasture or granted to it, where the checks pass (R298). -/
theorem svcReqOpen_prefix {w : Show} {owner : Nat} {x : Prefix} (hh : checkHeader c 8 [(0, [255, 255, 255])] = .ok ())
    (hs : d.stopped = false) (hp : d.pastureOf c.func = some p) (hw : d.showOf p = some w) (hr : d.handlesLeft c.func = true)
    (hmax : d.openReqs p < w.rmax) (hn : dp c 0 2 < 1024) (ho : owner = if dp c 2 1 = 0xFF then p else dp c 2 1)
    (hx : d.prefixOf owner (dp c 0 2) = some x) (hdrop : x.dropped = false) (hbuilt : x.built = true)
    (hgrant : owner = p ∨ bit x.grants p = true) (hcount : x.count < 2 ^ 32 - 1) :
    svcReqOpen d c = .ok ({ handle := some (d.nextHandle c.func) },
      (({ d.opened c.func c.tag .request with
        reqs := Tab.put (d.opened c.func c.tag .request).reqs (d.nextHandle c.func)
          { pasture := p, pfx := some (owner * 1024 + dp c 0 2) } } : Dev).modPrefix
        owner (dp c 0 2) (fun x => { x with count := x.count + 1 })).srvAdd c.func 4 1) := by
  have hroom : decide (w.rmax ≤ d.openReqs p) = false := decide_eq_false (Nat.not_le.2 hmax)
  have husable : (x.dropped || !x.built || (owner != p && !bit x.grants p)) = false := by
    rcases hgrant with h | h <;> simp [hdrop, hbuilt, h]
  have hbusy : decide (2 ^ 32 - 1 ≤ x.count) = false := decide_eq_false (Nat.not_le.2 hcount)
  have hne : dp c 0 2 ≠ 0xFFFF := by omega
  have hdiv : (owner * 1024 + dp c 0 2) / 1024 = owner := by omega
  have hmod : (owner * 1024 + dp c 0 2) % 1024 = dp c 0 2 := by omega
  simp only [svcReqOpen, hh, notStopped_ok hs, ownPasture_ok hp, hw, if_neg hne, ← ho, hx, husable, hbusy, handleRoom_ok hr, hroom,
    refuseIf_false, except_ok_bind, Dev.newHandle_eq, except_pure, hdiv, hmod]

variable {h : Nat} {r : Request}

/-- A request after an accepted `REQ_APPEND` of handle `a` and `n` positions at beat `now`, with `need` pages reserved in each list: the
append waits in the queue, or starts at once (R286, R295). -/
def Request.takeAppend (y : Request) (queued : Bool) (a now n need : Nat) : Request :=
  if queued then
    { y with qAppend := a, qBeatA := now, qCount := n, qIn := false, qTokens := [], qResvA := need, qGenFirst := y.qGen != 0 }
  else { y with st := .prefill, admitted := now, append := a, prompt := n, tokensIn := false, tokens := [], resv := need }

/-- A request after an accepted `REQ_GENERATE` of handle `g` and at most `n` tokens into buffer `buf`, likewise (R286, R288, R295). -/
def Request.takeGen (y : Request) (queued : Bool) (g now n buf need : Nat) : Request :=
  if queued then { y with qGen := g, qBeatG := now, qMax := n, qBuf := buf, qResvG := need, qGenFirst := y.qAppend == 0 }
  else { y with st := .decode, admitted := now, gen := g, genMax := n, genDone := 0, genBuf := buf, genBase := 0, resv := need }

/-- The service of `REQ_APPEND` where the state accepts or queues it and the other checks pass. -/
theorem svcReqAppend_ok {queued : Bool} (hh : checkHeader c 16 [(0, List.replicate 16 255)] = .ok ()) (hs : d.stopped = false)
    (hp : d.pastureOf c.func = some p) (hn : namedHandle d c false = .ok h) (hr : d.req h = some r) (hlo : 1 ≤ dp c 4 4)
    (hhi : dp c 4 4 ≤ 2 ^ 20) (hctx : r.committed + dp c 4 4 ≤ 262144) (hbuf : dp c 8 8 % 64 = 0) (hroom : d.handlesLeft c.func = true)
    (hresv : reserveOk d r (r.need (dp c 4 4) 0) = .ok ()) (ha : admitted (admitAppend r) = .ok queued) :
    svcReqAppend d c = .ok ({ handle := some (d.nextHandle c.func) },
      ((d.opened c.func c.tag (.reqAppend h)).modReq h (fun y =>
        y.takeAppend queued (d.nextHandle c.func) d.beat.now (dp c 4 4) (r.need (dp c 4 4) 0))).emit
          (.hostRead c.func (dp c 8 8) (4 * dp c 4 4) (d.nextHandle c.func))) := by
  have hfits : decide (262144 < r.committed + dp c 4 4) = false := decide_eq_false (Nat.not_lt.2 hctx)
  simp only [svcReqAppend, hh, notStopped_ok hs, namedReq_own hp hn hr, inRange_ok hlo hhi, hfits, aligned64_ok hbuf, ha,
    handleRoom_ok hroom, hresv, refuseIf_false, except_ok_bind, Dev.newHandle_eq, except_pure]
  rfl

/-- The service of `REQ_GENERATE` where the state accepts or queues it and the other checks pass. -/
theorem svcReqGenerate_ok {queued : Bool} (hh : checkHeader c 24 [(0, List.replicate 20 255)] = .ok ()) (hs : d.stopped = false)
    (hp : d.pastureOf c.func = some p) (hn : namedHandle d c false = .ok h) (hr : d.req h = some r) (hlo : 1 ≤ dp c 4 4)
    (hhi : dp c 4 4 ≤ 2 ^ 20) (hctx : r.committed + dp c 4 4 ≤ 262144) (hbuf : dp c 8 8 % 64 = 0)
    (hlen : 8 + 4 * dp c 4 4 ≤ dp c 16 4) (hroom : d.handlesLeft c.func = true)
    (hresv : reserveOk d r (r.need (dp c 4 4) (d.draftWidth r.pasture)) = .ok ()) (ha : admitted (admitGen r) = .ok queued) :
    svcReqGenerate d c = .ok ({ handle := some (d.nextHandle c.func) },
      (d.opened c.func c.tag (.reqGenerate h)).modReq h (fun y =>
        y.takeGen queued (d.nextHandle c.func) d.beat.now (dp c 4 4) (dp c 8 8) (r.need (dp c 4 4) (d.draftWidth r.pasture)))) := by
  have hfits : decide (262144 < r.committed + dp c 4 4) = false := decide_eq_false (Nat.not_lt.2 hctx)
  have hholds : decide (dp c 16 4 < 8 + 4 * dp c 4 4) = false := decide_eq_false (Nat.not_lt.2 hlen)
  simp only [svcReqGenerate, hh, notStopped_ok hs, namedReq_own hp hn hr, inRange_ok hlo hhi, hfits, aligned64_ok hbuf, hholds, ha,
    handleRoom_ok hroom, hresv, refuseIf_false, except_ok_bind, Dev.newHandle_eq, except_pure]
  rfl

/-- The service of `REQ_PAUSE` of an IDLE request, where the checks pass (R306, R307). -/
theorem svcReqPause_ok (hh : checkHeader c 8 [(0, List.replicate 8 255)] = .ok ()) (hs : d.stopped = false)
    (hp : d.pastureOf c.func = some p) (hn : namedHandle d c false = .ok h) (hr : d.req h = some r) (hlo : 1 ≤ dp c 4 4)
    (hhi : dp c 4 4 ≤ 2592000) (hidle : r.st = .idle) (hroom : d.handlesLeft c.func = true) :
    svcReqPause d c = .ok ({ handle := some (d.nextHandle c.func) },
      ((d.opened c.func c.tag (.reqPause h)).modReq h (fun y =>
        { y with
          st := .pausing, pause := d.nextHandle c.func, expiry := (d.beat.now + dp c 4 4 * d.beat.rate) % 2 ^ 64, moving := false
          inStacks := false, tier := [] })).resweep r.pasture) := by
  have ha : admitted (admitPause r) = .ok false := by simp only [admitPause, hidle, admitted]
  simp only [svcReqPause, hh, notStopped_ok hs, namedReq_own hp hn hr, inRange_ok hlo hhi, ha, handleRoom_ok hroom, except_ok_bind,
    Dev.newHandle_eq, except_pure]
  rfl

/-- The service of `REQ_RESUME` of a PAUSED request before its expiry, where the checks pass (R295, R308). -/
theorem svcReqResume_ok {e : Dev} (hh : checkHeader c 8 [(0, List.replicate 4 255)] = .ok ()) (hs : d.stopped = false)
    (hp : d.pastureOf c.func = some p) (hn : namedHandle d c false = .ok h) (hr : d.req h = some r) (hpaused : r.st = .paused)
    (hlive : beatGe d.beat.now r.expiry = false) (hroom : d.handlesLeft c.func = true) (hfits : d.canRestore r = true)
    (he : e = ((d.opened c.func c.tag (.reqResume h)).modReq h (fun y =>
      { y with st := .resuming, resume := d.nextHandle c.func, restored := 0 })).resweep r.pasture) :
    svcReqResume d c = .ok ({ handle := some (d.nextHandle c.func) },
      if r.tier.isEmpty then ((e.modReq h (fun y => { y with resume := 0 })).nextState h).finish (d.nextHandle c.func) sOk [0] else e) := by
  subst he
  simp only [svcReqResume, hh, notStopped_ok hs, namedReq_own hp hn hr, hpaused, hlive, hfits, handleRoom_ok hroom, Bool.and_false,
    Bool.not_true, bne_self_eq_false, refuseIf_false, except_ok_bind, Dev.newHandle_eq, except_pure]

/-- A `REQ_CLOSE` of the request acts at once, and not at the next boundary or at the end of a page's move (R286). -/
def Request.closesNow (r : Request) : Bool :=
  match r.st with
  | .idle | .paused => true
  | .pausing => !r.moving
  | .resuming => r.tier.isEmpty
  | .prefill | .decode => false

theorem Request.closesNow_of_still
    (hr : r.st = .idle ∨ r.st = .paused ∨ (r.st = .pausing ∧ r.moving = false) ∨ (r.st = .resuming ∧ r.tier = [])) :
    r.closesNow = true := by
  rcases hr with h | h | ⟨h, hm⟩ | ⟨h, ht⟩
  · rw [Request.closesNow, h]
  · rw [Request.closesNow, h]
  · simp only [Request.closesNow, h, hm, Bool.not_false]
  · simp only [Request.closesNow, h, ht, List.isEmpty_nil]

theorem Request.closesNow_of_busy
    (hr : r.st = .prefill ∨ r.st = .decode ∨ (r.st = .pausing ∧ r.moving = true) ∨ (r.st = .resuming ∧ r.tier ≠ [])) :
    r.closesNow = false := by
  rcases hr with h | h | ⟨h, hm⟩ | ⟨h, ht⟩
  · rw [Request.closesNow, h]
  · rw [Request.closesNow, h]
  · simp only [Request.closesNow, h, hm, Bool.not_true]
  · simp only [Request.closesNow, h, List.isEmpty_eq_false_iff.2 ht]

/-- The service of `REQ_CLOSE` of a request that no other one closes, where the checks pass. -/
theorem svcReqClose_ok {e : Dev} (hh : checkHeader c 8 [(0, List.replicate 4 255)] = .ok ()) (hs : d.stopped = false)
    (hp : c.func ≠ 0 → ∃ p, d.pastureOf c.func = some p) (hn : namedHandle d c true = .ok h) (hr : d.req h = some r)
    (hopen : r.closing = false) (hroom : d.handlesLeft (hFunc h) = true)
    (he : e = (d.opened (hFunc h) c.tag (.reqClose h)).modReq h (fun y => { y with close := d.nextHandle (hFunc h), closing := true })) :
    svcReqClose d c = .ok ({ handle := some (d.nextHandle (hFunc h)) }, if r.closesNow then e.closeReq h sOk sAborted else e) := by
  subst he
  simp only [svcReqClose, hh, notStopped_ok hs, namedReq_foreign hp hn hr, hopen, handleRoom_ok hroom, refuseIf_false, except_ok_bind,
    Dev.newHandle_eq, except_pure]
  rfl

/-- The service of `REQ_QUERY` where the checks pass. -/
theorem svcReqQuery_ok (hh : checkHeader c 8 [(0, List.replicate 4 255)] = .ok ())
    (hp : c.func ≠ 0 → ∃ p, d.pastureOf c.func = some p) (hn : namedHandle d c true = .ok h) (hr : d.req h = some r) :
    svcReqQuery d c = .ok ({ res := [reqCode r.st, r.committed, r.lists.foldl (fun n l => n + l.2.length) 0] }, d) := by
  simp only [svcReqQuery, hh, namedReq_foreign hp hn hr, except_ok_bind, except_pure]

end

/-! Prefixes and adapters (R292, R295, R298, R300, R386). -/

section
variable {d : Dev} {c : Door} {p : Nat}

/-- The pages of number `n` among the prefixes of pasture `p`, none where it is not there. -/
def Dev.prefixPages (d : Dev) (p n : Nat) : List Nat := match d.prefixOf p n with
  | some x => x.lists.flatMap (·.2)
  | none => []

/-- The prefill that an accepted `PREFIX_BUILD` of handle `h` and `count` positions starts at beat `now` (R300). -/
def buildRequest (p n count now h : Nat) : Request :=
  { pasture := p, st := .prefill, admitted := now, append := h, prompt := count, resv := cdiv count 64, build := some n }

/-- The service of `PREFIX_BUILD` where no request holds what the number named before and the other checks pass; `e` is the package
in which the number is taken anew. -/
theorem svcPrefixBuild_ok {e : Dev} {w : Show}
    (hh : checkHeader c 16 [(0, [255, 255, 0, 0, 255, 255, 255, 255, 255, 255, 255, 255, 255, 255, 255, 255])] = .ok ())
    (hs : d.stopped = false) (hp : d.pastureOf c.func = some p) (hn : dp c 0 2 ≤ 1023) (hlo : 1 ≤ dp c 4 4) (hhi : dp c 4 4 ≤ 2 ^ 20)
    (hbuf : dp c 8 8 % 64 = 0) (hw : d.showOf p = some w) (hx : ∀ x, d.prefixOf p (dp c 0 2) = some x → x.count = 0 ∧ x.built = true)
    (hfree : ∀ pen ∈ sharePens w,
      cdiv (dp c 4 4) 64 * w.lgroups ≤ (d.releasePages (d.prefixPages p (dp c 0 2))).poolFree p pen w.lgroups)
    (hr : d.handlesLeft c.func = true)
    (he : e = ((d.releasePages (d.prefixPages p (dp c 0 2))).modPasture p (fun q =>
      { q with prefixes := Tab.put q.prefixes (dp c 0 2) {} })).opened c.func c.tag (.prefixBuild p (dp c 0 2))) :
    svcPrefixBuild d c = .ok ({ handle := some (d.nextHandle c.func) },
      ({ e with
        reqs := Tab.put e.reqs (d.nextHandle c.func)
          (buildRequest p (dp c 0 2) (dp c 4 4) e.beat.now (d.nextHandle c.func)) } : Dev).emit
        (.hostRead c.func (dp c 8 8) (4 * dp c 4 4) (d.nextHandle c.func))) := by
  have hpools : (sharePens w).any (fun pen => decide ((d.releasePages (d.prefixPages p (dp c 0 2))).poolFree p pen w.lgroups <
      cdiv (dp c 4 4) 64 * w.lgroups)) = false := by
    simpa using hfree
  have hnext : ((d.releasePages (d.prefixPages p (dp c 0 2))).modPasture p (fun q =>
      { q with prefixes := Tab.put q.prefixes (dp c 0 2) {} })).nextHandle c.func = d.nextHandle c.func :=
    d.nextHandle_releasePages _ _
  subst he
  simp only [svcPrefixBuild, hh, notStopped_ok hs, ownPasture_ok hp, inRange_ok (Nat.zero_le _) hn, inRange_ok hlo hhi, aligned64_ok hbuf,
    hw, handleRoom_ok hr, except_ok_bind, Dev.newHandle_eq, except_pure]
  cases hpx : d.prefixOf p (dp c 0 2) with
  | none =>
    simp only [Dev.prefixPages, hpx] at hpools hnext ⊢
    simp only [hpools, hnext, refuseIf_false, except_ok_bind, buildRequest]
  | some x =>
    have hunheld : (x.count != 0 || !x.built) = false := by simp [hx x hpx]
    simp only [Dev.prefixPages, hpx] at hpools hnext ⊢
    simp only [hpools, hnext, hunheld, refuseIf_false, except_ok_bind, buildRequest]

/-- The service of `PREFIX_TRAIN` where what it names is built, no request holds it, and the checks pass. -/
theorem svcPrefixTrain_ok {x : Prefix} (hh : checkHeader c 24 [(0, [255, 255, 0, 0]), (4, List.replicate 20 255)] = .ok ())
    (hs : d.stopped = false) (hp : d.pastureOf c.func = some p) (hx : d.prefixOf p (dp c 0 2) = some x) (hbuilt : x.built = true)
    (hcount : x.count = 0) (hlo : 1 ≤ dp c 4 4) (hhi : dp c 4 4 ≤ 2 ^ 20) (hbuf : dp c 8 8 % 64 = 0) (hlen : dp c 16 8 ≤ 2 ^ 32)
    (hr : d.handlesLeft c.func = true) : svcPrefixTrain d c = .ok ({ handle := some (d.nextHandle c.func) },
      (d.opened c.func c.tag (.prefixTrain p (dp c 0 2) (dp c 4 4) 0 false)).emit
        (.hostRead c.func (dp c 8 8) (dp c 16 8) (d.nextHandle c.func))) := by
  simp only [svcPrefixTrain, hh, notStopped_ok hs, ownPasture_ok hp, hx, hbuilt, hcount, inRange_ok hlo hhi, aligned64_ok hbuf,
    inRange_ok (Nat.zero_le _) hlen, handleRoom_ok hr, Bool.not_true, bne_self_eq_false, refuseIf_false, except_ok_bind,
    Dev.newHandle_eq, except_pure]

/-- The service of `PREFIX_DROP` where what it names is built and not dropped, and the checks pass (R300). -/
theorem svcPrefixDrop_ok {x : Prefix} (hh : checkHeader c 8 [(0, [255, 255])] = .ok ()) (hs : d.stopped = false)
    (hp : d.pastureOf c.func = some p) (hx : d.prefixOf p (dp c 0 2) = some x) (hdrop : x.dropped = false) (hbuilt : x.built = true)
    (hr : d.handlesLeft c.func = true) : svcPrefixDrop d c = .ok ({ handle := some (d.nextHandle c.func) },
      ((d.opened c.func c.tag (.prefixDrop p (dp c 0 2))).modPrefix p (dp c 0 2) (fun x =>
        { x with dropped := true, dropHandle := d.nextHandle c.func, dropCount := x.count })).settlePrefix p (dp c 0 2)) := by
  simp only [svcPrefixDrop, hh, notStopped_ok hs, ownPasture_ok hp, hx, hdrop, hbuilt, handleRoom_ok hr, Bool.not_true, Bool.or_self,
    refuseIf_false, except_ok_bind, Dev.newHandle_eq, except_pure]

/-- The service of `ADAPTER_TRAIN` of a pasture without a running request, where the checks pass. -/
theorem svcAdapterTrain_ok {w : Show} (hh : checkHeader c 24 [(0, [255, 255, 0, 0]), (4, List.replicate 20 255)] = .ok ())
    (hs : d.stopped = false) (hp : d.pastureOf c.func = some p) (hw : d.showOf p = some w) (hlo : 1 ≤ dp c 4 4)
    (hhi : dp c 4 4 ≤ 2 ^ 20) (hbuf : dp c 8 8 % 64 = 0) (hlen : dp c 16 8 ≤ 2 ^ 32)
    (hidle : ∀ r ∈ d.reqs, r.2.pasture = p → r.2.st ≠ .prefill ∧ r.2.st ≠ .decode) (hr : d.handlesLeft c.func = true) :
    svcAdapterTrain d c = .ok ({ handle := some (d.nextHandle c.func) },
      (d.opened c.func c.tag (.adapterTrain p (dp c 0 2) (dp c 4 4) 0 false)).emit
        (.hostRead c.func (dp c 8 8) (dp c 16 8) (d.nextHandle c.func))) := by
  have hnone : d.reqs.any (fun r => r.2.pasture == p && (r.2.st == .prefill || r.2.st == .decode)) = false := by
    simpa using hidle
  simp only [svcAdapterTrain, hh, notStopped_ok hs, ownPasture_ok hp, hw, Option.isNone_some, inRange_ok hlo hhi, aligned64_ok hbuf,
    inRange_ok (Nat.zero_le _) hlen, hnone, handleRoom_ok hr, refuseIf_false, except_ok_bind, Dev.newHandle_eq, except_pure]

end

end Sys2Proof.Machine
end

section
/-! The statements on requests, prefixes and adapters. -/

namespace Sys2Proof.Machine

open Sys2Proof

/-- Settles O11: each service answers as its `_ok` lemma says, on the package whose mailbox has taken the slot. -/
theorem requestsOpenAppendAndGenerate : Obligations.RequestsOpenAppendAndGenerate := by
  unfold Obligations.RequestsOpenAppendAndGenerate
  refine ⟨?opens, ?append, ?generate⟩
  case opens =>
    intro s c p w hd hh hs hp hw hr hmax
    rw [← s.dev.nextHandle_took c 0x0501]
    refine ⟨fun hn => exec_accepts (exec_reqOpen c s) hd (svcReqOpen_plain (w := w) hh ?_ ?_ ?_ ?_ ?_ hn),
      fun owner x _ ho hx hdrop hbuilt hgrant hcount hn =>
        exec_accepts (exec_reqOpen c s) hd (svcReqOpen_prefix (w := w) hh ?_ ?_ ?_ ?_ ?_ hn ho ?_ hdrop hbuilt hgrant hcount)⟩
    all_goals simpa only [Dev.took_stopped, Dev.took_pastureOf, Dev.took_showOf, Dev.took_handlesLeft, Dev.took_openReqs,
      Dev.took_prefixOf]
  case append =>
    intro s c h p r hd hh hs hp hn hr hlo hhi hctx hbuf hroom hresv
    rw [← s.dev.nextHandle_took c 0x0502]
    have happ : ∀ queued, admitted (admitAppend r) = .ok queued → svcReqAppend (s.dev.took c 0x0502) c = _ := fun queued =>
      svcReqAppend_ok hh (by rwa [Dev.took_stopped]) (by rwa [Dev.took_pastureOf]) (by rwa [Dev.took_namedHandle]) (by rwa [Dev.took_req])
        hlo hhi hctx hbuf (by rwa [Dev.took_handlesLeft]) (by rwa [Dev.took_reserveOk])
    exact ⟨fun ha => exec_accepts (exec_reqAppend c s) hd (happ false (by rw [ha]; rfl)),
      fun ha => exec_accepts (exec_reqAppend c s) hd (happ true (by rw [ha]; rfl))⟩
  case generate =>
    rintro s c h n p r hd hh hs hp hn hr hlo hhi hctx hbuf hlen hroom rfl hresv
    rw [← s.dev.nextHandle_took c 0x0503, ← s.dev.took_draftWidth c 0x0503]
    have hgen : ∀ queued, admitted (admitGen r) = .ok queued → svcReqGenerate (s.dev.took c 0x0503) c = _ := fun queued =>
      svcReqGenerate_ok hh (by rwa [Dev.took_stopped]) (by rwa [Dev.took_pastureOf]) (by rwa [Dev.took_namedHandle])
        (by rwa [Dev.took_req]) hlo hhi hctx hbuf hlen (by rwa [Dev.took_handlesLeft])
        (by rwa [Dev.took_reserveOk, Dev.took_draftWidth])
    exact ⟨fun ha => exec_accepts (exec_reqGenerate c s) hd (hgen false (by rw [ha]; rfl)),
      fun ha => exec_accepts (exec_reqGenerate c s) hd (hgen true (by rw [ha]; rfl))⟩

/-- Settles O12: the table is read off state by state. -/
theorem requestStateTable : Obligations.RequestStateTable := by
  unfold Obligations.RequestStateTable
  intro r
  refine ⟨fun h => ?idle, fun h => ?prefill, fun h => ?decode, fun h => ?resuming, fun h => ?pausing⟩
  case pausing => rcases h with h | h <;> simp only [admitAppend, admitGen, admitPause, h, and_self]
  all_goals simp only [admitAppend, admitGen, admitPause, h, and_self]

/-- Settles O13: each service answers as its `_ok` lemma says, on the package whose mailbox has taken the slot. -/
theorem requestsPauseResumeCloseAndReport : Obligations.RequestsPauseResumeCloseAndReport := by
  unfold Obligations.RequestsPauseResumeCloseAndReport
  refine ⟨?pause, ?resume, ?close, ?query⟩
  case pause =>
    intro s c h p r hd hh hs hp hn hr hlo hhi hidle hroom
    rw [← s.dev.nextHandle_took c 0x0504]
    refine exec_accepts (exec_reqPause c s) hd (svcReqPause_ok (p := p) hh ?_ ?_ ?_ ?_ hlo hhi hidle ?_)
    all_goals simpa only [Dev.took_stopped, Dev.took_pastureOf, Dev.took_namedHandle, Dev.took_req, Dev.took_handlesLeft]
  case resume =>
    intro s c h p r hd hh hs hp hn hr hpaused hlive hroom hfits
    rw [← s.dev.nextHandle_took c 0x0505]
    refine exec_accepts (exec_reqResume c s) hd (svcReqResume_ok (p := p) hh ?_ ?_ ?_ ?_ hpaused ?_ ?_ ?_ rfl)
    all_goals simpa only [Dev.took_stopped, Dev.took_pastureOf, Dev.took_namedHandle, Dev.took_req, Dev.took_beat, Dev.took_handlesLeft,
      Dev.took_canRestore]
  case close =>
    rintro s c h r hd hh hs hp hn hr hopen hroom q rfl e he
    rw [← s.dev.nextHandle_took c 0x0506] at he ⊢
    have hsvc := svcReqClose_ok (d := s.dev.took c 0x0506) hh (by rwa [Dev.took_stopped]) (by simpa only [Dev.took_pastureOf])
      (by rwa [Dev.took_namedHandle]) (by rwa [Dev.took_req]) hopen (by rwa [Dev.took_handlesLeft]) he
    rw [exec_reqClose, Dev.serve_ok hd hsvc]
    refine ⟨fun hstill => ?_, fun hbusy => ?_⟩
    · rw [if_pos (Request.closesNow_of_still hstill)]
      rfl
    · rw [if_neg (ne_true_of_eq_false (Request.closesNow_of_busy hbusy))]
      rfl
  case query =>
    intro s c h r hd hh hp hn hr
    rw [exec_reqQuery, Dev.serve_answers (eff := id) hd (svcReqQuery_ok hh ?_ ?_ ?_)]
    all_goals simpa only [Dev.took_pastureOf, Dev.took_namedHandle, Dev.took_req]

/-- Settles O14: each service answers as its `_ok` lemma says, on the package whose mailbox has taken the slot. -/
theorem prefixAndAdapterCommandsActAsAccepted : Obligations.PrefixAndAdapterCommandsActAsAccepted := by
  unfold Obligations.PrefixAndAdapterCommandsActAsAccepted
  refine ⟨?build, ?train, ?drop, ?adapter⟩
  case build =>
    rintro s c p w old hd hh hs hp hn hlo hhi hbuf hw hx hold hfree hr h rfl
    have hpages : old = (s.dev.took c 0x0601).prefixPages p (dp c 0 2) := by
      rw [Dev.prefixPages, Dev.took_prefixOf]
      exact hold
    subst hpages
    have hsvc := svcPrefixBuild_ok (d := s.dev.took c 0x0601) hh (by rwa [Dev.took_stopped]) (by rwa [Dev.took_pastureOf]) hn hlo hhi hbuf
      (by rwa [Dev.took_showOf]) (by rwa [Dev.took_prefixOf]) hfree (by rwa [Dev.took_handlesLeft]) rfl
    rw [exec_prefixBuild, Dev.serve_ok hd hsvc, Dev.nextHandle_took]
    rfl
  case train =>
    intro s c p x hd hh hs hp hx hbuilt hcount hlo hhi hbuf hlen hr
    rw [← s.dev.nextHandle_took c 0x0602]
    refine exec_accepts (exec_prefixTrain c s) hd (svcPrefixTrain_ok hh ?_ ?_ ?_ hbuilt hcount hlo hhi hbuf hlen ?_)
    all_goals simpa only [Dev.took_stopped, Dev.took_pastureOf, Dev.took_prefixOf, Dev.took_handlesLeft]
  case drop =>
    intro s c p x hd hh hs hp hx hdrop hbuilt hr
    rw [← s.dev.nextHandle_took c 0x0603]
    refine exec_accepts (exec_prefixDrop c s) hd (svcPrefixDrop_ok hh ?_ ?_ ?_ hdrop hbuilt ?_)
    all_goals simpa only [Dev.took_stopped, Dev.took_pastureOf, Dev.took_prefixOf, Dev.took_handlesLeft]
  case adapter =>
    intro s c p w hd hh hs hp hw hlo hhi hbuf hlen hidle hr
    rw [← s.dev.nextHandle_took c 0x0604]
    refine exec_accepts (exec_adapterTrain c s) hd (svcAdapterTrain_ok (w := w) hh ?_ ?_ ?_ hlo hhi hbuf hlen ?_ ?_)
    all_goals simpa only [Dev.took_stopped, Dev.took_pastureOf, Dev.took_showOf, Dev.took_reqs, Dev.took_handlesLeft]

end Sys2Proof.Machine
end

section
/-! SUPPORT. What the services of the `EXPERT_MAP` commands answer where every check passes, what a staged set leaves of the catalogue, and
how a host read goes on or ends (R316, R317, R341, R381 to R387). -/

namespace Sys2Proof.Machine

open Sys2Proof

theorem exec_expertMapSet (c : Door) (bs : List Byte) (s : State) :
    exec (.expertMapSet c bs) s = .next (s.on (s.dev.serve c 0x0701 (svcExpertMapSet bs))) := rfl
theorem exec_expertMapGet (c : Door) (s : State) : exec (.expertMapGet c) s = .next (s.on (s.dev.serve c 0x0702 svcExpertMapGet)) := rfl
theorem exec_expertMapEffect (h : Nat) (s : State) : exec (.expertMapEffect h) s = .next (s.on (expertMapEffect s.dev h)) := rfl
theorem exec_hostReadComplete (h : Nat) (ok : Bool) (data : List Byte) (s : State) :
    exec (.hostReadComplete h ok data) s = .next (s.on (hostReadComplete s.dev h ok data)) := rfl

/-! What a taken slot leaves as it was: the catalogue, its owners and the staged sets. -/

section
variable (d : Dev) (c : Door) (op : Nat)

theorem Dev.took_catalog : (d.took c op).catalog = d.catalog := by
  obtain ⟨fs, h⟩ := d.took_eq c op; rw [h]

theorem Dev.took_mapver : (d.took c op).mapver = d.mapver := by
  obtain ⟨fs, h⟩ := d.took_eq c op; rw [h]

theorem Dev.took_ownsIndex (p i : Nat) : (d.took c op).ownsIndex p i = d.ownsIndex p i := by
  obtain ⟨fs, h⟩ := d.took_eq c op; rw [h]; rfl

theorem Dev.took_catDenied (i e : Nat) : (d.took c op).catDenied i e = d.catDenied i e := by
  obtain ⟨fs, h⟩ := d.took_eq c op; rw [h]; rfl

theorem Dev.took_mapSets : (d.took c op).mapSets = d.mapSets := by
  simp only [Dev.mapSets, Dev.took_handles]

end

/-! `EXPERT_MAP_SET` and `EXPERT_MAP_GET` (R316, R317, R387). -/

/-- A command that replies ABORTED and opens no handle (R341; log entry 28). -/
theorem exec_aborts {i : Instr} {s : State} {c : Door} {op : Nat} {svc : Dev → Door → Svc} {d : Dev}
    (hi : exec i s = .next (s.on (s.dev.serve c op svc))) (h : s.dev.hears c = true)
    (hs : svc (s.dev.took c op) c = .ok ({ status := some sAborted }, d)) :
    exec i s = .next (s.on (d.putReply c (replyBytes sAborted 0 0 c.tag []))) := by
  rw [hi, Dev.serve_ok h hs]
  rfl

section
variable {d : Dev} {c : Door}

/-- What is left where the host access of a command fails before the command is accepted: HOST_ERROR is recorded (R341). -/
def Dev.hostAborted (d : Dev) (c : Door) : Dev :=
  let p := (d.pastureOf c.func).getD 31
  let e := d.notice 0x004A 63 63 p 0
  if p = 31 && c.func ≠ 0 then e.event c.func 1 1 else e

theorem Dev.hostAborted_own {p : Nat} (hp : d.pastureOf c.func = some p) (hne : p ≠ 31) : d.hostAborted c = d.notice 0x004A 63 63 p 0 := by
  simp [Dev.hostAborted, hp, hne]

/-- The entries that the firmware has read at the host address of an `EXPERT_MAP_SET`: none where the read fails. -/
def mapEntries (bs : List Byte) (c : Door) : List Nat :=
  if c.hostOk then (List.range (dp c 2 2 + 1)).map (fun i => rdLE bs (16 * i) 16) else []

/-- The end of an `EXPERT_MAP_SET` of entries `es` that has passed the checks: it is accepted, or its host read has failed. -/
def Dev.mapSetEnd (d : Dev) (c : Door) (es : List Nat) : Svc :=
  if c.hostOk then
    .ok ({ handle := some (d.nextHandle c.func) },
      (d.opened c.func c.tag (.expertMapSet (dp c 0 2) (dp c 2 2 + 1) (dp c 4 4) (dp c 8 8) es)).emit
        (.hostRead c.func (dp c 16 8) (16 * (dp c 2 2 + 1)) (d.nextHandle c.func)))
  else .ok ({ status := some sAborted }, d.hostAborted c)

/-- The service of `EXPERT_MAP_SET` where the checks pass (R317, R387). -/
theorem svcExpertMapSet_checked {bs : List Byte} (hh : checkHeader c 24 [(0, List.replicate 24 255)] = .ok ()) (hs : d.stopped = false)
    (hown : c.func ≠ 0 → ∃ p, d.pastureOf c.func = some p ∧ ∀ i < dp c 2 2 + 1, d.ownsIndex p (dp c 0 2 + i) = true)
    (hn : dp c 2 2 ≤ 255) (hfit : dp c 0 2 + (dp c 2 2 + 1) ≤ 65536) (hlo : 16 ≤ beatAhead d.beat.now (dp c 8 8))
    (hhi : beatAhead d.beat.now (dp c 8 8) < 2 ^ 63) (hbuf : dp c 16 8 % 64 = 0)
    (hfree : ∀ m ∈ d.mapSets, overlaps m.2.1 m.2.2.1 (dp c 0 2) (dp c 2 2 + 1) = false) (hr : d.handlesLeft c.func = true)
    (hes : ∀ i v, (mapEntries bs c)[i]? = some v → d.catDenied (dp c 0 2 + i) v = false ∧ catInvalid v = false) :
    svcExpertMapSet bs d c = d.mapSetEnd c (mapEntries bs c) := by
  have hden : (mapEntries bs c).zipIdx.any (fun e => d.catDenied (dp c 0 2 + e.2) e.1) = false :=
    List.any_eq_false.2 (fun q hq => by simp [(hes q.2 q.1 (List.mem_zipIdx_iff_getElem?.1 hq)).1])
  have hinv : (mapEntries bs c).any catInvalid = false := List.any_eq_false.2 (fun v hv => by
    obtain ⟨i, hi⟩ := List.mem_iff_getElem?.1 hv
    simp [(hes i v hi).2])
  have hbusy : d.mapSets.any (fun m => overlaps m.2.1 m.2.2.1 (dp c 0 2) (dp c 2 2 + 1)) = false :=
    List.any_eq_false.2 (fun m hm => by simp [hfree m hm])
  have hroom : decide (65536 < dp c 0 2 + (dp c 2 2 + 1)) = false := decide_eq_false (by omega)
  have hahead : (decide (beatAhead d.beat.now (dp c 8 8) < 16) || decide (2 ^ 63 ≤ beatAhead d.beat.now (dp c 8 8))) = false := by
    rw [decide_eq_false (by omega), decide_eq_false (by omega), Bool.or_self]
  rw [mapEntries] at hden hinv
  simp only [svcExpertMapSet, hh, notStopped_ok hs, hden, hinv, hbusy, hroom, hahead, inRange_ok (Nat.zero_le _) hn, aligned64_ok hbuf,
    handleRoom_ok hr, refuseIf_false, except_ok_bind, Dev.newHandle_eq, except_pure]
  by_cases hf : c.func = 0
  · rw [if_neg (not_not.2 hf)]
    rfl
  · obtain ⟨p, hp, hall⟩ := hown hf
    have howned : (List.range (dp c 2 2 + 1)).any (fun i => !d.ownsIndex p (dp c 0 2 + i)) = false :=
      List.any_eq_false.2 (fun i hi => by simp [hall i (List.mem_range.1 hi)])
    rw [if_pos hf, Dev.mapSetEnd, Dev.hostAborted, hp]
    simp only [howned, refuseIf_false, except_ok_bind]
    rfl

/-- The data that `EXPERT_MAP_GET` writes: the entries of its range (R316). -/
def Dev.mapData (d : Dev) (c : Door) : List Byte :=
  (List.range (dp c 2 2 + 1)).flatMap (fun i => leBytes (Tab.getD d.catalog (dp c 0 2 + i) 0) 16)

theorem Dev.took_mapData (d : Dev) (c : Door) (op : Nat) : (d.took c op).mapData c = d.mapData c := by
  simp only [Dev.mapData, Dev.took_catalog]

/-- The service of `EXPERT_MAP_GET` where the checks pass (R317, R387). -/
theorem svcExpertMapGet_checked
    (hh : checkHeader c 16 [(0, [255, 255, 255, 255, 0, 0, 0, 0, 255, 255, 255, 255, 255, 255, 255, 255])] = .ok ())
    (hs : d.stopped = false) (hn : dp c 2 2 ≤ 255) (hfit : dp c 0 2 + (dp c 2 2 + 1) ≤ 65536) (hbuf : dp c 8 8 % 64 = 0) :
    svcExpertMapGet d c = if c.hostOk then .ok ({ res := [d.mapver] }, d.emit (.hostWrite c.func (dp c 8 8) (d.mapData c)))
      else .ok ({ status := some sAborted }, d.hostAborted c) := by
  have hroom : decide (65536 < dp c 0 2 + (dp c 2 2 + 1)) = false := decide_eq_false (by omega)
  simp only [svcExpertMapGet, hh, notStopped_ok hs, hroom, inRange_ok (Nat.zero_le _) hn, aligned64_ok hbuf, refuseIf_false,
    except_ok_bind, except_pure]
  rfl

end

/-! A staged set takes effect (R317). -/

/-- A catalogue after the entries `es` have been written from index `i`, the first at place `n` of the list. -/
theorem getD_putEntries (es : List Nat) (first n k : Nat) (t : Tab Nat) :
    Tab.getD ((es.zipIdx n).foldl (fun t (e : Nat × Nat) => Tab.put t (first + e.2) e.1) t) k 0 =
      if first + n ≤ k then (es[k - (first + n)]?).getD (Tab.getD t k 0) else Tab.getD t k 0 := by
  induction es generalizing n t with
  | nil => simp
  | cons v es ih =>
    rw [List.zipIdx_cons, List.foldl_cons, ih, Tab.getD_put]
    rcases lt_trichotomy k (first + n) with h | rfl | h
    · rw [if_neg (by omega), if_neg (by omega), if_neg (by omega)]
    · simp
    · obtain ⟨j, rfl⟩ := Nat.exists_eq_add_of_lt h
      rw [if_pos (by omega), if_neg (by omega), if_pos (by omega), show first + n + j + 1 - (first + (n + 1)) = j by omega,
        show first + n + j + 1 - (first + n) = j + 1 by omega, List.getElem?_cons_succ]

/-- A set alone that is due for handle `h`, and whose range no loaded show owns, takes effect. -/
theorem expertMapEffect_one {d : Dev} {h : Nat} {m : Nat × Nat × Nat × Nat × Nat × List Nat}
    (hm : d.dueSets.filter (fun m => m.1 == h && (d.owners m.2.1 m.2.2.1).isEmpty) = [m]) : expertMapEffect d h = d.applyMap m := by
  rw [expertMapEffect, hm]
  rfl

/-- A set that takes effect writes its entries and MAPVER together, leaves every other entry, and completes its handle. -/
theorem Dev.applyMap_catalog (d : Dev) (h first n ver b : Nat) (es : List Nat) :
    ∃ e : Dev, d.applyMap (h, first, n, ver, b, es) = e.finish h sOk [] ∧ e = { d with catalog := e.catalog, mapver := ver } ∧
      (∀ i v, es[i]? = some v → Tab.getD e.catalog (first + i) 0 = v) ∧
      (∀ k, (k < first ∨ first + es.length ≤ k) → Tab.getD e.catalog k 0 = Tab.getD d.catalog k 0) := by
  refine ⟨_, rfl, rfl, fun i v hv => ?_, fun k hk => ?_⟩
  · refine (getD_putEntries es first 0 (first + i) d.catalog).trans ?_
    rw [Nat.add_zero, if_pos (Nat.le_add_right _ _), Nat.add_sub_cancel_left, hv, Option.getD_some]
  · refine (getD_putEntries es first 0 k d.catalog).trans ?_
    split_ifs
    · rw [List.getElem?_eq_none (by omega), Option.getD_none]
    · rfl

/-! Host reads (R341, R381, R382, R385, R386). -/

section
variable {d : Dev} {h : Nat} {w : Work} (hw : d.workOf h = some w) (hr : d.reads h w = true) (data : List Byte)
include hw hr

theorem hostReadComplete_ok : hostReadComplete d h true data = d.readDone h w data := by
  simp [hostReadComplete, hw, hr]

theorem hostReadComplete_failed : hostReadComplete d h false data = (d.hostError h).readLost h w := by
  simp [hostReadComplete, hw, hr]

end

section
variable {d : Dev} {h : Nat}

/-- The bytes of an image of which no golden copy is asked reach its pen, and its load ends (R381). -/
theorem Dev.imageRead_without_golden {p n : Nat} {i : Image} (data : List Byte) (hg : i.goldenDue = false) : d.imageRead h p n i data =
    ((d.agentWrite 18 i.pen i.off (padTo data i.len)).modImage p n (fun x =>
      { x with crcs := checkValues (padTo data i.len), ready := true })).finish h sOk [0] := by
  rw [Dev.imageRead, hg]
  rfl

theorem Dev.readDone_imageLoad {p n : Nat} {i : Image} (data : List Byte) (hi : d.image p n = some i) :
    d.readDone h (.imageLoad p n false) data = d.imageRead h p n i data := by
  rw [Dev.readDone, hi]

/-- The append that a request runs waits for its tokens until they are in (R385). -/
theorem Dev.reads_reqAppend {q : Nat} {r : Request} (hr : d.req q = some r) (ha : r.append = h) (hin : r.tokensIn = false) :
    d.reads h (.reqAppend q) = true := by
  simp [Dev.reads, Dev.awaitsTokens, hr, ha, hin]

end

end Sys2Proof.Machine
end

section
/-! The statements on the expert catalogue and on host reads. -/

namespace Sys2Proof.Machine

open Sys2Proof

/-- Settles O15: each service answers as its `_checked` lemma says, on the package whose mailbox has taken the slot, and a staged set as
`applyMap_catalog` says. -/
theorem expertMapCommandsActAsAccepted : Obligations.ExpertMapCommandsActAsAccepted := by
  unfold Obligations.ExpertMapCommandsActAsAccepted
  refine ⟨?set, ?effect, ?get⟩
  case set =>
    intro s c bs es hd hh hs hown hn hfit hlo hhi hbuf hfree hr
    have hsvc : (∀ i v, (mapEntries bs c)[i]? = some v → s.dev.catDenied (dp c 0 2 + i) v = false ∧ catInvalid v = false) →
        svcExpertMapSet bs (s.dev.took c 0x0701) c = _ := fun hes => by
      refine svcExpertMapSet_checked hh ?_ ?_ hn hfit ?_ ?_ hbuf ?_ ?_ ?_
      all_goals simpa only [Dev.took_stopped, Dev.took_pastureOf, Dev.took_ownsIndex, Dev.took_beat, Dev.took_mapSets,
        Dev.took_handlesLeft, Dev.took_catDenied]
    refine ⟨fun hok hes hvalid => ?_, fun p hok hp hne => ?_⟩
    · have hread : mapEntries bs c = es := by rw [mapEntries, if_pos hok, hes]
      rw [hread, Dev.mapSetEnd, if_pos hok] at hsvc
      rw [← s.dev.nextHandle_took c 0x0701]
      exact exec_accepts (exec_expertMapSet c bs s) hd (hsvc hvalid)
    · have hread : mapEntries bs c = [] := by rw [mapEntries, if_neg (by simp [hok])]
      rw [hread, Dev.mapSetEnd, if_neg (by simp [hok]), Dev.hostAborted_own (by rwa [Dev.took_pastureOf]) hne] at hsvc
      exact exec_aborts (exec_expertMapSet c bs s) hd (hsvc (fun i v hv => by simp at hv))
  case effect =>
    intro s h first n ver b es hm
    obtain ⟨e, he, hrest⟩ := s.dev.applyMap_catalog h first n ver b es
    exact ⟨e, by rw [exec_expertMapEffect, expertMapEffect_one hm, he], hrest⟩
  case get =>
    rintro s c data hd hh hs hn hfit hbuf rfl
    have hsvc := svcExpertMapGet_checked (d := s.dev.took c 0x0702) hh (by rwa [Dev.took_stopped]) hn hfit hbuf
    refine ⟨fun hok => ?_, fun p hok hp hne => ?_⟩
    · rw [if_pos hok, Dev.took_mapData, Dev.took_mapver] at hsvc
      rw [exec_expertMapGet, Dev.serve_answers (eff := fun d => d.emit (.hostWrite c.func (dp c 8 8) (s.dev.mapData c))) hd hsvc]
      rfl
    · rw [if_neg (by simp [hok]), Dev.hostAborted_own (by rwa [Dev.took_pastureOf]) hne] at hsvc
      exact exec_aborts (exec_expertMapGet c s) hd hsvc

/-- Settles O19: the command of the handle goes on with the data, or ends. -/
theorem hostReadsContinueOrEndTheirCommand : Obligations.HostReadsContinueOrEndTheirCommand := by
  unfold Obligations.HostReadsContinueOrEndTheirCommand
  refine ⟨?either, ?image, ?show_, ?append⟩
  case either =>
    intro s h w data hw hr
    exact ⟨by rw [exec_hostReadComplete, hostReadComplete_failed hw hr], by rw [exec_hostReadComplete, hostReadComplete_ok hw hr]⟩
  case image =>
    intro s h p n i data hw hi hg
    rw [exec_hostReadComplete, hostReadComplete_ok hw rfl, Dev.readDone_imageLoad data hi, Dev.imageRead_without_golden data hg]
  case show_ =>
    intro s h p len data hw
    rw [exec_hostReadComplete, hostReadComplete_ok hw rfl]
    rfl
  case append =>
    intro s h q r data hw hr ha hin
    rw [exec_hostReadComplete, hostReadComplete_ok hw (Dev.reads_reqAppend hr ha hin)]
    rfl

end Sys2Proof.Machine
end

section
/-! SUPPORT. The Race instances are no part of what a count, a record, a message and an abandoned reduction change (R184, R266, R437). -/

namespace Sys2Proof.Machine

open Sys2Proof

theorem Dev.foldl_races {α : Type} {g : Dev → α → Dev} (hg : ∀ d a, (g d a).races = d.races) (d : Dev) (l : List α) :
    (l.foldl g d).races = d.races :=
  List.foldlRecOn (motive := fun e => e.races = d.races) l g rfl (fun e he a _ => (hg e a).trans he)

theorem Dev.SameButCounts.races {d e : Dev} (h : d.SameButCounts e) : e.races = d.races := by
  obtain ⟨_, _, _, _, _, rfl⟩ := h
  rfl

section
variable (d : Dev)

theorem Dev.SameButCounts.errAdd (die core i n : Nat) : d.SameButCounts (d.errAdd die core i n) := by
  obtain ⟨t, h⟩ := d.errAdd_frame die core i n
  exact ⟨_, _, t, _, _, h⟩

theorem Dev.SameButCounts.raceErr (e i n : Nat) : d.SameButCounts (d.raceErr e i n) := errAdd ..

theorem Dev.SameButCounts.racePerf (e i n : Nat) : d.SameButCounts (d.racePerf e i n) := perfAdd ..

theorem Dev.SameButCounts.record (code die core disp unit pasture link info : Nat) :
    d.SameButCounts (d.record code die core disp unit pasture link info) := by
  obtain ⟨fl, t, fs, o, h⟩ := d.record_frame code die core disp unit pasture link info
  exact ⟨_, fl, t, fs, o, h⟩

@[simp] theorem Dev.errAdd_races (die core i n : Nat) : (d.errAdd die core i n).races = d.races := (SameButCounts.errAdd ..).races

@[simp] theorem Dev.perfAdd_races (die core g i n : Nat) : (d.perfAdd die core g i n).races = d.races := (SameButCounts.perfAdd ..).races

@[simp] theorem Dev.notice_races (code die core pasture info : Nat) : (d.notice code die core pasture info).races = d.races :=
  (SameButCounts.record ..).races

@[simp] theorem Dev.raceErr_races (e i n : Nat) : (d.raceErr e i n).races = d.races := d.errAdd_races ..

@[simp] theorem Dev.racePerf_races (e i n : Nat) : (d.racePerf e i n).races = d.races := d.perfAdd_races ..

/-! Messages that leave on a link (R261, R266 to R276). -/

@[simp] theorem Dev.freeEntry_races (inn : Option (Nat × Nat)) : (d.freeEntry inn).races = d.races := by cases inn <;> rfl

@[simp] theorem Dev.sendFlit_races (l : Nat) (f : List Byte) : (d.sendFlit l f).races = d.races := by
  rw [sendFlit, putStream, modLink_races]
  refine (foldl_races (fun d g => ?_) _ _).trans rfl
  dsimp only
  split <;> rfl

@[simp] theorem Dev.sendCtl_races (l : Nat) (nak : Option Bool) : (d.sendCtl l nak).races = d.races := sendFlit_races ..

@[simp] theorem Dev.sendData_races (l v : Nat) : (d.sendData l v).races = d.races := by
  unfold sendData
  dsimp only
  split
  · split
    · simp [linkPerf]
    · rfl
  · rfl

/-- One arm for each kind of flit, in the order of R266. -/
@[simp] theorem Dev.linkSlot_races (l : Nat) : (d.linkSlot l).1.races = d.races := by
  unfold linkSlot
  dsimp only
  split
  · rfl
  split
  · simp
  split
  · simp [apply_ite Dev.races, linkErr]
  split
  · split <;> simp [linkPerf]
  split
  · simp
  split
  · rfl
  split <;> simp [linkPerf]

@[simp] theorem Dev.linkPump_races (l n : Nat) : (d.linkPump l n).races = d.races := by
  induction n generalizing d with
  | zero => rfl
  | succ n ih => simp [linkPump, apply_ite Dev.races, ih]

@[simp] theorem Dev.forward_races (dst mkind : Nat) (bs : List Byte) : (d.forward dst mkind bs).races = d.races := by
  have hlost : ∀ l b, (d.unroutable l dst b).races = d.races := fun l b => by simp [unroutable, apply_ite Dev.races, linkErr]
  unfold forward
  split
  · rfl
  · exact hlost ..
  · simp [apply_ite Dev.races, pumpLink, hlost]

@[simp] theorem Dev.sendMsg_races (dst mkind die core chan step tag last n : Nat) (data : List Byte) :
    (d.sendMsg dst mkind die core chan step tag last n data).races = d.races := by
  induction n generalizing d data with
  | zero => rfl
  | succ n ih => simp [sendMsg, apply_ite Dev.races, ih]

@[simp] theorem Dev.raceSend_races (dst kind tag l e step : Nat) (data : List Byte) :
    (d.raceSend dst kind tag l e step data).races = d.races := d.sendMsg_races ..

/-! Reductions that are abandoned, acts that end, groups and receives (R184, R328, R424, R432). -/

@[simp] theorem Dev.abandonRed_races (p i step : Nat) (cls : AbortClass) : (d.abandonRed p i step cls).races = d.races := by
  have hlose : ∀ s e, (d.loseRed p i step s e).races = d.races := fun s e => by simp [loseRed, apply_ite Dev.races]
  unfold abandonRed
  split
  · rfl
  split
  · rfl
  · simp [apply_ite Dev.races, foldl_races, sendTo, hlose]

@[simp] theorem Dev.abandonOf_races (p die core : Nat) (cls : AbortClass) : (d.abandonOf p die core cls).races = d.races := by
  unfold abandonOf
  split
  · rfl
  refine foldl_races (fun d i => ?_) d _
  split
  · rfl
  split
  · simp [apply_ite Dev.races]
  · rfl

@[simp] theorem Dev.actOver_races (k : Nat) : (d.actOver k).races = d.races := by
  unfold actOver
  split <;> rfl

@[simp] theorem Dev.abortGroup_races (g : Nat) (cls : AbortClass) : (d.abortGroup g cls).races = d.races := rfl

@[simp] theorem Dev.groupPoison_races (g : Nat) (l : List Nat) : (d.groupPoison g l).races = d.races := rfl

@[simp] theorem Dev.qDone_races (k u pc : Nat) : (d.qDone k u pc).races = d.races := rfl

@[simp] theorem Dev.recvInto_races (k : Nat) (q : QOp) (bs : List Byte) : (d.recvInto k q bs).races = d.races := d.spWrite_races ..

@[simp] theorem Dev.raceDeliver_races (p l e : Nat) : (d.raceDeliver p l e).races = d.races := by
  simp [raceDeliver, apply_ite Dev.races, foldl_races]

end

/-! One Race. -/

section
variable {d e : Dev}

theorem Dev.race_modRace_same (d : Dev) (p l : Nat) (f : RaceInst → RaceInst) : (d.modRace p l f).race p l = f (d.race p l) :=
  Tab.getD_put_same ..

theorem Dev.race_of_races (h : e.races = d.races) (p l : Nat) : e.race p l = d.race p l := by
  rw [Dev.race, h]
  rfl

theorem Dev.modRace_races_congr {p l : Nat} {f : RaceInst → RaceInst} (h : e.races = d.races) :
    (e.modRace p l f).races = (d.modRace p l f).races := by
  rw [Dev.modRace, Dev.race_of_races h, h]
  rfl

theorem Dev.layerOf_eq_some {p l e : Nat} {w : Show} : d.layerOf p l = some (w, e) ↔ d.showOf p = some w ∧ (layersOf w)[l]? = some e := by
  unfold Dev.layerOf
  cases d.showOf p with
  | none => simp
  | some v =>
    simp only [Option.bind_some, Option.map_eq_some_iff, Prod.mk.injEq, Option.some.injEq]
    constructor
    · rintro ⟨_, h, rfl, rfl⟩
      exact ⟨rfl, h⟩
    · rintro ⟨rfl, h⟩
      exact ⟨e, h, rfl, rfl⟩

end

end Sys2Proof.Machine
end

section
/-! SUPPORT. What a Race die's accesses to the stacks keep of every Race, even where a denied one aborts an act: all but what an abandonment
marks (R209, R333, R354). -/

namespace Sys2Proof.Machine

open Sys2Proof

/-- Race `x` without what an abandonment marks (R333). -/
def RaceInst.kept (x : RaceInst) : RaceInst :=
  { x with abandoned := false, mans := [], lost := [], waits := x.waits.map (fun w => { step := w.step }) }

/-- Race `x` without what the arrival of a message of its step marks either (R328, R329, R332). -/
def RaceInst.unarrived (x : RaceInst) : RaceInst := { x.kept with choices := [], mismatch := false }

/-- What `π` takes of each Race is the same in `e` as in `d`. -/
structure Dev.RacesSame (π : RaceInst → RaceInst) (d e : Dev) : Prop where
  same : ∀ k, π (Tab.getD e.races k {}) = π (Tab.getD d.races k {})

theorem RaceInst.kept_modWait (x : RaceInst) (step : Nat) (f : RaceWait → RaceWait) (hf : ∀ w, (f w).step = w.step) :
    (x.modWait step f).kept = x.kept := by
  have hsteps : (x.modWait step f).waits.map (fun w => ({ step := w.step } : RaceWait)) = x.waits.map (fun w => { step := w.step }) := by
    simp only [RaceInst.modWait, List.map_map]
    refine List.map_congr_left (fun w _ => ?_)
    by_cases h : w.step = step <;> simp [h, hf]
  rw [RaceInst.kept, hsteps]
  rfl

theorem RaceInst.kept_loseSource (x : RaceInst) (step : Nat) (own : Option Nat) : (x.loseSource step own).kept = x.kept := by
  unfold RaceInst.loseSource
  split
  · exact x.kept_modWait step _ (fun _ => rfl)
  · split <;> rfl

theorem RaceInst.kept_loseShard (x : RaceInst) (step q : Nat) : (x.loseShard step q).kept = x.kept := by
  unfold RaceInst.loseShard
  split
  · exact x.kept_modWait step _ (fun _ => rfl)
  · rfl

/-- A field that `kept` keeps is the same in instances that keep the same. -/
theorem RaceInst.field_eq {α : Type} {x y : RaceInst} (h : y.kept = x.kept) (f : RaceInst → α)
    (hf : ∀ z, f z.kept = f z := by exact fun _ => rfl) : f y = f x := by
  rw [← hf, h, hf]

theorem RaceInst.steps_eq {x y : RaceInst} (h : y.kept = x.kept) : y.waits.map RaceWait.step = x.waits.map RaceWait.step :=
  RaceInst.field_eq h (fun z => z.waits.map RaceWait.step) (fun z => by simp [RaceInst.kept, Function.comp_def])

/-- A granted transfer without errors leaves the Race instances as they are. -/
theorem Dev.transfer_races_of_granted {d : Dev} {x : StackReq} (herrs : x.errs = []) (hue : x.foldUe = [])
    (hmap : d.mapAllows x.pen x.die x.off (if x.kind = 0 then x.size else x.data.length) (x.kind != 0) = true) :
    (d.transfer x).2.races = d.races := by
  by_cases hkind : x.kind = 0
  · have hread : d.mapAllows x.pen x.die x.off x.size false = true := by simpa [hkind] using hmap
    simp [Dev.transfer, hkind, hread, hue, herrs, stackPerf, stackErr]
  · have hwrite : d.mapAllows x.pen x.die x.off x.data.length (x.kind != 0) = true := by simpa [hkind] using hmap
    simp [Dev.transfer, hkind, hwrite, hue, herrs, stackPerf, stackErr, foldl_races, apply_ite Dev.races]

namespace Dev.RacesSame
variable {π : RaceInst → RaceInst}

theorem of_races {d e : Dev} (h : e.races = d.races) : RacesSame π d e := ⟨fun _ => by rw [h]⟩

theorem refl (d : Dev) : RacesSame π d d := of_races rfl

theorem trans {d e g : Dev} (h : RacesSame π d e) (h' : RacesSame π e g) : RacesSame π d g :=
  ⟨fun k => (h'.same k).trans (h.same k)⟩

theorem ite {d x y : Dev} {c : Prop} [Decidable c] (hx : RacesSame π d x) (hy : RacesSame π d y) : RacesSame π d (if c then x else y) := by
  split_ifs
  · exact hx
  · exact hy

theorem ite_fst {α : Type} {d : Dev} {x y : Dev × α} {c : Prop} [Decidable c] (hx : RacesSame π d x.1) (hy : RacesSame π d y.1) :
    RacesSame π d (if c then x else y).1 := by
  split_ifs
  · exact hx
  · exact hy

theorem ite_snd {α : Type} {d : Dev} {x y : α × Dev} {c : Prop} [Decidable c] (hx : RacesSame π d x.2) (hy : RacesSame π d y.2) :
    RacesSame π d (if c then x else y).2 := by
  split_ifs
  · exact hx
  · exact hy

theorem foldl {α : Type} {g : Dev → α → Dev} (hg : ∀ (d : Dev) (a : α), RacesSame π d (g d a)) (d : Dev) (l : List α) :
    RacesSame π d (l.foldl g d) :=
  List.foldlRecOn l g (refl d) (fun e he a _ => he.trans (hg e a))

/-- A fold that carries something beside the package. -/
theorem foldl_fst {α β : Type} {g : Dev × β → α → Dev × β} (hg : ∀ a x, RacesSame π a.1 (g a x).1) (a : Dev × β) (l : List α) :
    RacesSame π a.1 (l.foldl g a).1 :=
  List.foldlRecOn (motive := fun b => RacesSame π a.1 b.1) l g (refl a.1) (fun b hb x _ => hb.trans (hg b x))

theorem modRace (d : Dev) (p l : Nat) {g : RaceInst → RaceInst} (hg : ∀ x, π (g x) = π x) : RacesSame π d (d.modRace p l g) := by
  refine ⟨fun k => ?_⟩
  rw [Dev.modRace, Tab.getD_put]
  split_ifs with h
  · rw [hg, h]
    rfl
  · rfl

theorem race {d e : Dev} (h : RacesSame π d e) (p l : Nat) : π (e.race p l) = π (d.race p l) := h.same _

/-- What abandonment leaves of a Race, an arrival leaves too. -/
theorem unarrived_of_kept {d e : Dev} (h : RacesSame RaceInst.kept d e) : RacesSame RaceInst.unarrived d e :=
  ⟨fun k => congrArg (fun x : RaceInst => { x with choices := [], mismatch := false }) (h.same k)⟩

/-! Instances that are abandoned (R333). -/

theorem abandonSource (d : Dev) (p l : Nat) (s : Show) (e step : Nat) : RacesSame .kept d (d.abandonSource p l s e step) :=
  ite (refl d) (((modRace d p l (fun x => x.kept_loseSource step _)).trans (of_races (raceErr_races ..))).trans
    (foldl (fun d _ => ite (refl d) (of_races (d.raceSend_races ..))) _ _))

theorem sourceGone (d : Dev) (p l : Nat) (s : Show) (e step : Nat) : RacesSame .kept d (d.sourceGone p l s e step) :=
  ite (ite (refl d) ((modRace d p l (fun x => x.kept_loseSource step none)).trans (of_races (raceErr_races ..))))
    (abandonSource d p l s e step)

theorem abandonShard (d : Dev) (p l : Nat) (s : Show) (e q step : Nat) : RacesSame .kept d (d.abandonShard p l s e q step) :=
  ite (refl d) (((modRace d p l (fun x => x.kept_loseShard step q)).trans (of_races (raceErr_races ..))).trans
    (foldl (fun d _ => ite (sourceGone d p l s e step) (of_races (d.raceSend_races ..))) _ _))

theorem abandonRaces (d : Dev) (r : Run) (a : Act) : RacesSame .kept d (d.abandonRaces r a) := by
  unfold Dev.abandonRaces
  split
  · exact refl d
  · exact foldl (fun d _ => trans (ite (abandonSource d ..) (refl d)) (foldl (fun d _ => ite (abandonShard d ..) (refl d)) _ _)) d _

theorem coreAbort (d : Dev) (k : Nat) (cls : AbortClass) : RacesSame .kept d (d.coreAbort k cls) := by
  unfold Dev.coreAbort
  split
  · exact refl d
  · refine trans (trans ?_ (ite (of_races (modCore_races ..)) (refl _))) (of_races (actOver_races ..))
    split
    · exact trans (of_races (by simp)) (abandonRaces _ _ _)
    · exact of_races (by simp)

/-! Accesses to the stacks (R209, R213, R354). -/

theorem isolation (d : Dev) (target : Nat) (x : StackReq) : RacesSame .kept d (d.isolation target x) :=
  trans (ite (of_races (d.errAdd_races ..)) (of_races (d.errAdd_races ..)))
    ((of_races (SameButCounts.record _ 0x0008 x.die x.core dContained 0 _ 0 _).races).trans (coreAbort _ (coreKey x.die x.core) .hardware))

theorem transfer (d : Dev) {x : StackReq} (herrs : x.errs = []) (hue : x.foldUe = []) : RacesSame .kept d (d.transfer x).2 := by
  cases hmap : d.mapAllows x.pen x.die x.off (if x.kind = 0 then x.size else x.data.length) (x.kind != 0) with
  | true => exact of_races (transfer_races_of_granted herrs hue hmap)
  | false =>
    unfold Dev.transfer
    dsimp only
    rw [if_pos (by rw [hmap]; rfl)]
    exact isolation d _ x

theorem access (d : Dev) (die core pen atomic : Nat) (high : Bool) (fuel off n : Nat) (data : Option (List Byte)) :
    RacesSame .kept d (d.access die core pen atomic high [] fuel off n data).2 := by
  induction fuel generalizing d off n data with
  | zero => exact refl d
  | succ fuel ih =>
    have hone : ∀ x : StackReq, x.errs = [] → x.foldUe = [] → RacesSame .kept d ((d.grantAlone x).transfer x).2 := fun x herrs hue =>
      (of_races (by simp [Dev.grantAlone, stackPerf])).trans (transfer _ herrs hue)
    exact ite_snd (refl d) (ite_snd (hone _ rfl rfl) ((hone _ rfl rfl).trans (ih ..)))

theorem raceRead (d : Dev) (e a n : Nat) : RacesSame .kept d (d.raceRead e a n).2 := access ..

theorem raceWrite (d : Dev) (e a : Nat) (bs : List Byte) : RacesSame .kept d (d.raceWrite e a bs) := access ..

end Dev.RacesSame

end Sys2Proof.Machine
end

section
/-! SUPPORT. Ranking and assignment: no expert's slot is given twice, and none at or past the capacity (R323 to R325). -/

namespace Sys2Proof.Machine

open Sys2Proof

/-- The expert and slot of each choice. -/
def seats (cs : List Choice) : List (Nat × Nat) := cs.map (fun c => (c.expert, c.slot))

/-- What the counts of an assignment say of its choices: each has a slot below the count of its live expert, a slot of its own, and the
counts are those of the choices and within the capacity. -/
structure Assigning.Sound (cap : Nat) (live : Nat → Bool) (a : Assigning) : Prop where
  seated : ∀ q ∈ seats a.out, q.2 < Tab.getD a.count q.1 0 ∧ live q.1 = true
  nodup : (seats a.out).Nodup
  counted : ∀ n, (seats a.out).countP (fun q => q.1 == n) = Tab.getD a.count n 0
  fits : ∀ n, Tab.getD a.count n 0 ≤ cap

namespace Assigning.Sound
variable {cap : Nat} {live : Nat → Bool} {a b : Assigning}

/-- Pointers and the count of dropped choices do not matter. -/
theorem congr (h : a.Sound cap live) (hc : b.count = a.count) (ho : b.out = a.out) : b.Sound cap live := by
  obtain ⟨hseated, hnodup, hcounted, hfits⟩ := h
  rw [← ho, ← hc] at hseated hcounted
  exact ⟨hseated, ho ▸ hnodup, hcounted, hc ▸ hfits⟩

/-- A choice takes the next slot of a live expert that has one left. -/
theorem take (h : a.Sound cap live) {x : Nat} (hx : live x = true) (hm : Tab.getD a.count x 0 < cap) {c : Choice} (hce : c.expert = x)
    (hcs : c.slot = Tab.getD a.count x 0) (hc : b.count = Tab.put a.count x (Tab.getD a.count x 0 + 1)) (ho : b.out = c :: a.out) :
    b.Sound cap live := by
  have hout : seats b.out = (x, Tab.getD a.count x 0) :: seats a.out := by
    rw [ho, seats, List.map_cons, hce, hcs]
    rfl
  have hcount : ∀ n, Tab.getD b.count n 0 = if n = x then Tab.getD a.count x 0 + 1 else Tab.getD a.count n 0 := fun n => by
    rw [hc, Tab.getD_put]
  refine ⟨fun q hq => ?_, ?_, fun n => ?_, fun n => ?_⟩
  · rw [hout, List.mem_cons] at hq
    rcases hq with rfl | hq
    · exact ⟨by rw [hcount, if_pos rfl]; exact Nat.lt_succ_self _, hx⟩
    · obtain ⟨hslot, hlive⟩ := h.seated q hq
      refine ⟨?_, hlive⟩
      rw [hcount]
      split_ifs with hqx
      · exact Nat.lt_succ_of_lt (hqx ▸ hslot)
      · exact hslot
  · rw [hout, List.nodup_cons]
    exact ⟨fun hmem => absurd (h.seated _ hmem).1 (Nat.lt_irrefl _), h.nodup⟩
  · rw [hout, List.countP_cons, h.counted, hcount]
    by_cases hn : n = x
    · simp [hn]
    · simp [hn, Ne.symm hn]
  · rw [hcount]
    split_ifs
    · exact hm
    · exact h.fits n

/-- A token's next candidates take a choice only where they have a slot left. -/
theorem offer (k t i r : Nat) (order : List (Nat × Fl)) (n : Nat) (h : a.Sound cap live) :
    (Machine.offer cap k live t i r order n a).Sound cap live := by
  induction n generalizing a with
  | zero => exact h.congr rfl rfl
  | succ n ih =>
    unfold Machine.offer
    dsimp only
    split
    · exact h.congr rfl rfl
    next x _ _ =>
      split_ifs with hroom
      · rw [Bool.and_eq_true, decide_eq_true_eq] at hroom
        obtain ⟨hx, hm⟩ := hroom
        exact h.take hx hm rfl rfl rfl rfl
      · exact ih (h.congr rfl rfl)

theorem assignOne (k policy r : Nat) (q : Ranked × Nat) (h : a.Sound cap live) : (Machine.assignOne cap k policy live r a q).Sound cap live := by
  unfold Machine.assignOne
  split
  · exact h
  next x _ _ =>
    dsimp only
    split_ifs with hroom
    · rw [Bool.and_eq_true, decide_eq_true_eq] at hroom
      obtain ⟨hx, hm⟩ := hroom
      exact h.take hx hm rfl rfl rfl rfl
    · exact h.offer ..
    · exact h.congr rfl rfl

end Assigning.Sound

/-- The choices that `assign` gives: each in a slot below the capacity of a live expert, no slot twice, no expert past its capacity. -/
theorem seats_assign (cap k policy : Nat) (live : Nat → Bool) (rs : List Ranked) :
    (∀ q ∈ seats (assign cap k policy live rs).1, q.2 < cap ∧ live q.1 = true) ∧ (seats (assign cap k policy live rs).1).Nodup ∧
    ∀ n, (seats (assign cap k policy live rs).1).countP (fun q => q.1 == n) ≤ cap := by
  have hsound : ((List.range k).foldl (fun a r => rs.zipIdx.foldl (assignOne cap k policy live (r + 1)) a) ({} : Assigning)).Sound cap live :=
    List.foldlRecOn _ _ ⟨by simp [seats], by simp [seats], fun _ => rfl, fun _ => Nat.zero_le _⟩ (fun a ha r _ =>
      List.foldlRecOn _ _ ha (fun b hb q _ => hb.assignOne k policy (r + 1) q))
  have hrev : seats (assign cap k policy live rs).1 = (seats (List.foldl (fun a r => rs.zipIdx.foldl (assignOne cap k policy live (r + 1)) a)
      ({} : Assigning) (List.range k)).out).reverse := List.map_reverse
  rw [hrev]
  refine ⟨fun q hq => ?_, List.nodup_reverse.2 hsound.nodup, fun n => ?_⟩
  · obtain ⟨hslot, hlive⟩ := hsound.seated q (List.mem_reverse.1 hq)
    exact ⟨hslot.trans_le (hsound.fits _), hlive⟩
  · rw [List.countP_reverse, hsound.counted]
    exact hsound.fits n

/-- Weights and shards leave every choice in its seat. -/
theorem seats_weigh (g k policy : Nat) (rs : List Ranked) (cs : List Choice) (f : Choice → Nat) :
    seats ((weigh g k policy rs cs).map (fun c => { c with shards := f c })) = seats cs := by
  simp only [seats, weigh, List.map_map]
  rfl

/-- What seats say of their choices. -/
theorem choices_of_seats {cs : List Choice} {cap : Nat} {live : Nat → Bool} (hseat : ∀ q ∈ seats cs, q.2 < cap ∧ live q.1 = true)
    (hfull : ∀ n, (seats cs).countP (fun q => q.1 == n) ≤ cap) :
    (∀ c ∈ cs, c.slot < cap ∧ live c.expert = true) ∧ ∀ n, (cs.filter (fun c => c.expert == n)).length ≤ cap := by
  refine ⟨fun c hc => hseat (c.expert, c.slot) (List.mem_map_of_mem hc), fun n => ?_⟩
  rw [← List.countP_eq_length_filter]
  exact (List.countP_map (p := fun q : Nat × Nat => q.1 == n)).symm.trans_le (hfull n)

end Sys2Proof.Machine
end

section
/-! SUPPORT. What the rows of a Race leave of it: the start that routes it, the dispatch, the combine, and the arrivals of manifests,
returns and refusals (R320 to R332). -/

namespace Sys2Proof.Machine

open Sys2Proof

section
variable (s : State) (p l : Nat)

theorem exec_raceInstanceStart : exec (.raceInstanceStart p l) s = .next (s.on (raceInstanceStart s.dev p l)) := rfl
theorem exec_raceDispatch : exec (.raceDispatch p l) s = .next (s.on (raceDispatch s.dev p l)) := rfl
theorem exec_raceCombine : exec (.raceCombine p l) s = .next (s.on (raceCombine s.dev p l)) := rfl

end

section
variable {d : Dev} {p l : Nat}

theorem raceInstanceStart_none (h : d.layerOf p l = none) : raceInstanceStart d p l = d := by rw [raceInstanceStart, h]

theorem raceDispatch_none (h : d.layerOf p l = none) : raceDispatch d p l = d := by rw [raceDispatch, h]

theorem raceCombine_none (h : d.layerOf p l = none) : raceCombine d p l = d := by rw [raceCombine, h]

end

/-! The Race itself, and the steps that wait for it (R333). -/

section
variable {x y : RaceInst} {step : Nat}

theorem RaceInst.waiting_none (h : step ∉ x.waits.map RaceWait.step) : x.waiting step = none :=
  List.find?_eq_none.2 (fun w hw hstep => h (List.mem_map.2 ⟨w, hw, beq_iff_eq.1 hstep⟩))

/-- The Race's own step, once abandoned by its source (R333). -/
theorem RaceInst.abandoned_loseSource (own : Option Nat) (h : step ∉ x.waits.map RaceWait.step) : (x.loseSource step own).abandoned = true := by
  unfold RaceInst.loseSource
  rw [RaceInst.waiting_none h]
  cases own <;> rfl

/-- A source part of the Race's own step that is over and not combined is abandoned. -/
theorem RaceInst.abandoned_of_sourceOver (hstep : x.step = step) (h : step ∉ x.waits.map RaceWait.step) (hc : x.combined = false)
    (hover : x.sourceOver step = true) : x.abandoned = true := by
  simpa [RaceInst.sourceOver, RaceInst.waiting_none h, hstep, hc] using hover

theorem RaceInst.waits_nil_of_kept (h : y.kept = x.kept) (hx : x.waits = []) : y.waits = [] := by
  simpa [hx] using RaceInst.steps_eq h

/-- A field that neither an abandonment nor an arrival marks. -/
theorem RaceInst.field_eq_of_unarrived {α : Type} (h : y.unarrived = x.unarrived) (f : RaceInst → α)
    (hf : ∀ z, f z.unarrived = f z := by exact fun _ => rfl) : f y = f x := by
  rw [← hf, h, hf]

theorem RaceInst.waits_nil_of_unarrived (h : y.unarrived = x.unarrived) (hx : x.waits = []) : y.waits = [] := by
  have hsteps := RaceInst.field_eq_of_unarrived h (fun z => z.waits.map RaceWait.step)
    (fun z => by simp [RaceInst.unarrived, RaceInst.kept, Function.comp_def])
  simpa [hx] using hsteps

end

section
variable {d : Dev} {p l : Nat}

/-- A Race that nothing waits for gives way to nothing (R333). -/
theorem Dev.settleRace_alone (h : (d.race p l).waits = []) : d.settleRace p l = d := by
  unfold Dev.settleRace
  split
  · rfl
  · split
    · rw [h]
      rfl
    · rfl

section
variable {e step : Nat} (s : Show) (hstep : (d.race p l).step = step) (hw : step ∉ (d.race p l).waits.map RaceWait.step)
  (hc : (d.race p l).combined = false)
include hstep hw hc

/-- A source Race of the step that runs, abandoned (R333). -/
theorem Dev.abandonSource_abandons : ((d.abandonSource p l s e step).race p l).abandoned = true := by
  unfold Dev.abandonSource
  by_cases hover : (d.race p l).sourceOver step = true
  · rw [if_pos hover]
    exact RaceInst.abandoned_of_sourceOver hstep hw hc hover
  · rw [if_neg hover]
    dsimp only
    rw [Dev.race_of_races (Dev.foldl_races (fun d h => by simp [apply_ite Dev.races]) _ _), Dev.race_of_races (Dev.raceErr_races ..),
      Dev.race_modRace_same]
    exact RaceInst.abandoned_loseSource _ hw

/-- One that a destination has abandoned (R333). -/
theorem Dev.sourceGone_abandons : ((d.sourceGone p l s e step).race p l).abandoned = true := by
  unfold Dev.sourceGone
  dsimp only
  split_ifs with _ hover
  · exact RaceInst.abandoned_of_sourceOver hstep hw hc hover
  · rw [Dev.race_of_races (Dev.raceErr_races ..), Dev.race_modRace_same]
    exact RaceInst.abandoned_loseSource _ hw
  · exact Dev.abandonSource_abandons s hstep hw hc

end

end

/-! Arrivals (R328, R329, R332). -/

namespace Dev.RacesSame

theorem raceRefuse (d : Dev) (p l e from_ : Nat) (experts : List Nat) : RacesSame .unarrived d (d.raceRefuse p l e from_ experts) := by
  refine trans (modRace d p l ?marks) (of_races (raceErr_races ..))
  exact fun _ => rfl

theorem takeReturn (d : Dev) (p l e t r h : Nat) (bs : List Byte) : RacesSame .unarrived d (d.takeReturn p l e t r h bs) :=
  ite ((unarrived_of_kept (raceWrite d _ _ _)).trans ((of_races (racePerf_races ..)).trans (modRace _ p l (fun _ => rfl)))) (refl d)

theorem takeManifest (d : Dev) (p l : Nat) (s : Show) (e i mapver : Nat) (as : List Arrival) :
    RacesSame .unarrived d (d.takeManifest p l s e i mapver as) := by
  unfold Dev.takeManifest
  dsimp only
  refine ite (refl d) (trans ?_ (of_races (raceDeliver_races ..)))
  refine trans (trans (modRace d p l ?marks) (ite (of_races (notice_races ..)) (refl _)))
    (ite (refl _) (ite (raceRefuse ..) (of_races (raceSend_races ..))))
  exact fun _ => rfl

end Dev.RacesSame

/-- A manifest of the map in force, none of whose experts is refused, stands as it came (R328). -/
theorem Dev.mans_takeManifest {d : Dev} {p l i : Nat} {s : Show} {e : Nat} {as : List Arrival} (hnone : Tab.get? (d.race p l).mans i = none)
    (hok : ∀ a ∈ as, d.arrivalRefused e a = false) :
    Tab.get? ((d.takeManifest p l s e i d.mapver as).race p l).mans i = some (as.map (fun a => { a with src := i })) := by
  have hall : as.partition (fun a => d.mapver != d.mapver || d.arrivalRefused e a) = ([], as) := by
    rw [List.partition_eq_filter_filter, List.filter_eq_nil_iff.2 (fun a ha => by simp [hok a ha]),
      List.filter_eq_self.2 (fun a ha => by simp [hok a ha])]
  unfold Dev.takeManifest
  dsimp only
  rw [hnone, hall]
  simp only [Option.isSome_none, Bool.false_eq_true, if_false, bne_self_eq_false, Bool.false_and, List.map_nil, List.eraseDups_nil,
    List.isEmpty_nil, if_true]
  rw [Dev.race_of_races (Dev.raceDeliver_races ..), Dev.race_modRace_same]
  exact Tab.get?_put_same ..

/-! RACE_INSTANCE_START (R320 to R325). -/

section
variable {d : Dev} {p l e : Nat} {w : Show} {x : RaceInst} (hl : d.layerOf p l = some (w, e)) (hx : x = d.race p l)
include hl hx

theorem raceInstanceStart_idle (h : x.live = false ∨ x.routed = true ∨ x.abandoned = true ∨ x.heard.length < lProd e) :
    raceInstanceStart d p l = d := by
  rw [raceInstanceStart, hl]
  dsimp only
  rw [← hx, if_pos (by simpa [or_assoc] using h)]

/-- A Race that is routed: its choices take the seats of an assignment of its accepted records, and beside the counters
alone change. -/
theorem raceInstanceStart_routes (hlive : x.live = true) (hr : x.routed = false) (ha : x.abandoned = false) (hp : lProd e ≤ x.heard.length)
    (hb : lBias e = 0) : ∃ (policy : Nat) (rs : List Ranked) (toks : List (Nat × Nat × Nat)) (cs : List Choice) (dropped : Nat),
      rs.length = (acceptRecords e x.recs).1.length ∧
      seats cs = seats (assign (min (capTerm e rs.length) (lCapMax e)) (lK e) policy (fun i => cLive (d.expertEntry e i)) rs).1 ∧
      (d.modRace p l (fun x => { x with routed := true, tokens := toks, choices := cs, dropped, recs := [] })).SameButCounts
        (raceInstanceStart d p l) := by
  rw [raceInstanceStart, hl]
  dsimp only
  rw [← hx, if_neg (by simp [hlive, hr, ha, hp]), if_pos hb]
  dsimp only
  exact ⟨_, _, _, _, _, by rw [List.length_map, List.length_map], seats_weigh .., .trans (.raceErr ..) <| .trans (.raceErr ..) <|
    .trans (.raceErr ..) <| .trans (.racePerf ..) <| .trans (.racePerf ..) <| .trans (.racePerf ..) (.racePerf ..)⟩

end

/-! RACE_DISPATCH (R326, R327, R432). -/

/-- The dispatch vectors of Race `x` leave, up to the first poisoned row, whose addresses are answered. -/
def Dev.dispatchVectors (d : Dev) (l e : Nat) (x : RaceInst) (src : Nat) : Dev × List Nat :=
  x.choices.foldl (fun (acc : Dev × List Nat) c =>
    let da := ((x.tokens.find? (fun t => t.1 == c.token)).map (fun t => t.2.1)).getD 0
    (List.range c.shards).foldl (fun (acc : Dev × List Nat) h =>
      if !acc.2.isEmpty then acc
      else
        let (r, d) := Dev.raceRead acc.1 e da (512 * lDrows e)
        if r.poison.isEmpty then (d.dispatchOne l e x src c h r.data, []) else (d, r.poison)) acc) (d, [])

/-- The manifests of Race `x` leave for the hosts of its layer, this package among them. -/
def Dev.dispatchManifests (d : Dev) (p l : Nat) (s : Show) (e : Nat) (x : RaceInst) (src : Nat) : Dev :=
  (d.hosts e).foldl (fun d host =>
    let as := (x.choices.filter (fun c => cPkg (d.expertEntry e c.expert) == host)).map (fun c =>
      ({ src, expert := c.expert, slot := c.slot, rank := c.rank - 1, token := c.token, weight := c.weight } : Arrival))
    if host = d.route.addr then d.takeManifest p l s e src d.mapver as
    else d.raceSend host 2 as.length l e x.step (manifestData d as)) d

namespace Dev.RacesSame
variable {π : RaceInst → RaceInst}

theorem dispatchOne (d : Dev) (l e : Nat) (x : RaceInst) (src : Nat) (c : Choice) (h : Nat) (bs : List Byte) :
    RacesSame .kept d (d.dispatchOne l e x src c h bs) :=
  (of_races (d.racePerf_races ..)).trans (ite (raceWrite ..) (of_races (raceSend_races ..)))

theorem dispatchVectors (d : Dev) (l e : Nat) (x : RaceInst) (src : Nat) : RacesSame .kept d (d.dispatchVectors l e x src).1 := by
  refine foldl_fst (fun a c => foldl_fst (fun b h => ?_) a _) (d, []) x.choices
  refine ite_fst (refl _) ?_
  dsimp only
  exact ite_fst ((raceRead ..).trans (dispatchOne ..)) (raceRead ..)

theorem dispatchManifests (d : Dev) (p l : Nat) (s : Show) (e : Nat) (x : RaceInst) (src : Nat) :
    RacesSame .unarrived d (d.dispatchManifests p l s e x src) :=
  foldl (fun d _ => ite (takeManifest d ..) (of_races (raceSend_races ..))) d _

end Dev.RacesSame

section
variable {d : Dev} {p l e : Nat} {w : Show} {x : RaceInst} (hl : d.layerOf p l = some (w, e)) (hx : x = d.race p l)
include hl hx

theorem raceDispatch_idle (h : x.routed = false ∨ x.sent = true ∨ x.abandoned = true ∨ (lLaunch e ≠ 0 ∧ x.launched = false)) :
    raceDispatch d p l = d := by
  rw [raceDispatch, hl]
  dsimp only
  rw [← hx, if_pos (by simpa [or_assoc] using h)]

section
variable (hr : x.routed = true) (hs : x.sent = false) (ha : x.abandoned = false) (hlaunch : lLaunch e = 0 ∨ x.launched = true)
include hr hs ha hlaunch

/-- A routed and launched Race dispatches: its vectors leave, and then its manifests, or it is abandoned where poison is met. -/
theorem raceDispatch_launched {r : Dev × List Nat} (hv : d.dispatchVectors l e x (d.sourceIndex w e) = r) : raceDispatch d p l =
    if !r.2.isEmpty then ((r.1.groupPoison (sendGroup w (lLchan e)) r.2).abortGroup (sendGroup w (lLchan e)) .hardware).abandonSource p l w e x.step
    else (r.1.modRace p l (fun x => { x with sent := true })).dispatchManifests p l w e x (d.sourceIndex w e) := by
  subst hv
  rw [raceDispatch, hl]
  dsimp only
  rw [← hx, if_neg (by rcases hlaunch with h | h <;> simp [hr, hs, ha, h])]
  rfl

theorem raceDispatch_ends (hc : x.combined = false) (hw : x.step ∉ x.waits.map RaceWait.step) :
    ((raceDispatch d p l).race p l).sent = true ∨ ((raceDispatch d p l).race p l).abandoned = true := by
  obtain ⟨r, hv⟩ : ∃ r, d.dispatchVectors l e x (d.sourceIndex w e) = r := ⟨_, rfl⟩
  have hkept : (r.1.race p l).kept = x.kept := by
    rw [hx, ← hv]
    exact (Dev.RacesSame.dispatchVectors d l e x _).race p l
  rw [raceDispatch_launched hl hx hr hs ha hlaunch hv]
  split_ifs
  · right
    refine Dev.abandonSource_abandons w (RaceInst.field_eq hkept RaceInst.step) ?_ ((RaceInst.field_eq hkept RaceInst.combined).trans hc)
    rwa [← RaceInst.steps_eq hkept] at hw
  · left
    rw [RaceInst.field_eq_of_unarrived ((Dev.RacesSame.dispatchManifests _ p l w e x _).race p l) RaceInst.sent, Dev.race_modRace_same]

end

end

/-! RACE_COMBINE (R330). -/

theorem Dev.RacesSame.combineToken (d : Dev) (e : Nat) (x : RaceInst) (t : Nat × Nat × Nat) : RacesSame .kept d (d.combineToken e x t).1 := by
  refine trans ?_ (raceWrite ..)
  refine List.foldlRecOn (motive := fun (a : List Fl × Dev × List Nat) => RacesSame .kept d a.2.1) _ _ (refl d) (fun a ha c _ => ?_)
  exact List.foldlRecOn (motive := fun (a : List Fl × Dev × List Nat) => RacesSame .kept d a.2.1) _ _ ha
    (fun b hb h _ => hb.trans (raceRead ..))

/-- The tokens of Race `x` are combined, with the poisoned addresses met. -/
def Dev.combineTokens (d : Dev) (e : Nat) (x : RaceInst) : Dev × List Nat :=
  x.tokens.foldl (fun (a : Dev × List Nat) t =>
    let (d, b) := Dev.combineToken a.1 e x t
    (d, a.2 ++ b)) (d, [])

theorem Dev.RacesSame.combineTokens (d : Dev) (e : Nat) (x : RaceInst) : RacesSame .kept d (d.combineTokens e x).1 := by
  refine foldl_fst (fun a t => ?_) (d, []) x.tokens
  exact combineToken a.1 e x t

section
variable {d : Dev} {p l e : Nat} {w : Show} {x : RaceInst} (hl : d.layerOf p l = some (w, e)) (hx : x = d.race p l)
include hl hx

theorem raceCombine_idle
    (h : x.sent = false ∨ x.combined = true ∨ x.abandoned = true ∨ ∃ c ∈ x.choices, c.refused = false ∧ ∃ h < c.shards, h ∉ c.got) :
    raceCombine d p l = d := by
  rw [raceCombine, hl]
  dsimp only
  rw [← hx, if_pos]
  rcases h with h | h | h | ⟨c, hc, hr, i, hi, hgot⟩
  · simp [h]
  · simp [h]
  · simp [h]
  · have hall : x.choices.all (fun c => c.refused || (List.range c.shards).all (fun h => c.got.contains h)) = false :=
      List.all_eq_false.2 ⟨c, hc, by simpa [hr] using ⟨i, hi, hgot⟩⟩
    rw [hall, Bool.not_false, Bool.or_true]

section
variable (hs : x.sent = true) (hc : x.combined = false) (ha : x.abandoned = false)
  (hgot : ∀ c ∈ x.choices, c.refused = true ∨ ∀ h < c.shards, h ∈ c.got)
include hs hc ha hgot

theorem raceCombine_ready : ∃ g : Dev,
    g.races = ((d.combineTokens e x).1.modRace p l (fun x => { x with combined := true })).races ∧ raceCombine d p l = g.settleRace p l := by
  have hall : x.choices.all (fun c => c.refused || (List.range c.shards).all (fun h => c.got.contains h)) = true := by
    simpa [List.all_eq_true, or_iff_not_imp_left] using hgot
  rw [raceCombine, hl]
  dsimp only
  rw [← hx, hall, hs, hc, ha, if_neg (by decide)]
  refine ⟨_, ?_, rfl⟩
  rw [Dev.foldl_races (fun d q => d.recvInto_races ..), Dev.racePerf_races]
  exact Dev.modRace_races_congr (by simp [apply_ite Dev.races, Dev.combineTokens])

/-- A sent Race with every return in or refused is combined, and keeps its choices. -/
theorem raceCombine_combines (hw : x.waits = []) :
    ((raceCombine d p l).race p l).combined = true ∧ ((raceCombine d p l).race p l).choices = x.choices := by
  have hkept : ((d.combineTokens e x).1.race p l).kept = x.kept := by
    rw [hx]
    exact (Dev.RacesSame.combineTokens d e _).race p l
  obtain ⟨g, hg, heq⟩ := raceCombine_ready hl hx hs hc ha hgot
  have hrace : g.race p l = { (d.combineTokens e x).1.race p l with combined := true } := by
    rw [Dev.race_of_races hg, Dev.race_modRace_same]
  have hwaits := RaceInst.waits_nil_of_kept hkept hw
  rw [heq, Dev.settleRace_alone (by rw [hrace, hwaits]), hrace]
  exact ⟨rfl, RaceInst.field_eq hkept RaceInst.choices⟩

end

end

end Sys2Proof.Machine
end

section
/-! SUPPORT. What a Race message does that arrives for the step of the live Race, for a later one and for an earlier one (R327 to R333). -/

namespace Sys2Proof.Machine

open Sys2Proof

section
variable (s : State) (p l from_ step : Nat)

theorem exec_dispatch (expert slot shard : Nat) (data : List Byte) : exec (.dispatch p l from_ step expert slot shard data) s =
    .next (s.on (raceDispatchIn s.dev p l from_ step expert slot shard data)) := rfl
theorem exec_manifest (mapver : Nat) (es : List (Nat × Nat × Nat × Nat × Nat)) : exec (.manifest p l from_ step mapver es) s =
    .next (s.on (raceManifestIn s.dev p l from_ step mapver es)) := rfl
theorem exec_returnVector (expert shard : Nat) (recv : Bool) (token rank : Nat) (data : List Byte) :
    exec (.returnVector p l expert shard recv step token rank data) s =
      .next (s.on (raceReturn s.dev p l expert shard recv step token rank data)) := rfl
theorem exec_refuse (experts : List Nat) : exec (.refuse p l from_ step experts) s =
    .next (s.on (raceRefuseIn s.dev p l from_ step experts)) := rfl
theorem exec_abandon (atSource hw : Bool) : exec (.abandon p l from_ step atSource hw) s =
    .next (s.on (raceAbandonIn s.dev p l from_ step atSource hw)) := rfl

end

/-- A command that brings a Race message has it arrive; where it is a return or an abandonment, a Race that is over then gives way. -/
theorem exec_raceMessage {i : Instr} (s : State) {p l : Nat} {m : RaceMsg} (h : raceMessage i = some (p, l, m)) :
    exec i s = .next (s.on (s.dev.raceArrive p l m)) ∨ exec i s = .next (s.on ((s.dev.raceArrive p l m).settleRace p l)) := by
  unfold raceMessage at h
  split at h
  · cases h
    exact .inl (exec_dispatch ..)
  · cases h
    exact .inl (exec_manifest ..)
  · cases h
    exact .inr (exec_returnVector ..)
  · cases h
    exact .inl (exec_refuse ..)
  · cases h
    exact .inr (exec_abandon ..)
  · cases h

/-! The step of a message (R333). -/

/-- Message `m` of source index `src`, where it is one, comes too late for Race `x` of its step. -/
def RaceInst.stale (x : RaceInst) (src : Option Nat) (m : RaceMsg) : Bool :=
  if m.kind = 1 then x.lost.contains (4 * fld m.tag 0 12 + fld m.tag 24 4) || x.done.contains (4 * fld m.tag 0 12 + fld m.tag 24 4)
  else if m.kind = 3 || m.kind = 4 || (m.kind = 5 && m.tag = 1) then x.combined || x.abandoned
  else match src with
    | some i => (Tab.get? x.mans i).isSome
    | none => false

section
variable {x : RaceInst} {m : RaceMsg} {src : Option Nat}

/-- A dispatch vector is in time until its shard is abandoned or done. -/
theorem RaceInst.stale_dispatch (hk : m.kind = 1) (hlost : 4 * fld m.tag 0 12 + fld m.tag 24 4 ∉ x.lost)
    (hdone : 4 * fld m.tag 0 12 + fld m.tag 24 4 ∉ x.done) : x.stale src m = false := by
  simp [RaceInst.stale, hk, hlost, hdone]

/-- A manifest, or a source's abandonment in its place, is in time until one of its source is in. -/
theorem RaceInst.stale_fromSource {i : Nat} (hk : m.kind = 2 ∨ m.kind = 5 ∧ m.tag ≠ 1) (hi : src = some i) (hnone : Tab.get? x.mans i = none) :
    x.stale src m = false := by
  rcases hk with hk | ⟨hk, ht⟩
  · simp [RaceInst.stale, hk, hi, hnone]
  · simp [RaceInst.stale, hk, ht, hi, hnone]

/-- What a destination sends to the source is in time until the source has combined or is abandoned. -/
theorem RaceInst.stale_toSource (hk : m.kind = 3 ∨ m.kind = 4 ∨ m.kind = 5 ∧ m.tag = 1) (hc : x.combined = false) (ha : x.abandoned = false) :
    x.stale src m = false := by
  rcases hk with hk | hk | ⟨hk, ht⟩
  · simp [RaceInst.stale, hk, hc, ha]
  · simp [RaceInst.stale, hk, hc, ha]
  · simp [RaceInst.stale, hk, ht, hc, ha]

end

section
variable {d : Dev} {p l e : Nat} {w : Show} {x : RaceInst} {m : RaceMsg} (hl : d.layerOf p l = some (w, e)) (hx : x = d.race p l)
  (hlive : x.live = true)
include hl hx hlive

theorem Dev.raceArrive_live : d.raceArrive p l m =
    if m.step == x.step then
      (if x.stale (indexWhere (fun a => a == m.src) (lSources w e)) m then d.raceErr e 4 1 else d.raceMsg p l w e m)
    else if beatGe m.step x.step then (d.modRace p l (fun x => { x with held := x.held ++ [m] })).racePerf e 7 1
    else d.raceErr e 4 1 := by
  obtain ⟨hshow, hlayer⟩ := Dev.layerOf_eq_some.1 hl
  unfold Dev.raceArrive
  rw [hshow]
  dsimp only
  rw [hlayer]
  dsimp only
  rw [← hx, hlive]
  simp only [Bool.true_and, Bool.not_true, Bool.false_or, RaceInst.stale]
  rfl

theorem Dev.raceArrive_later (hstep : m.step ≠ x.step) (hge : beatGe m.step x.step = true) : d.raceArrive p l m =
    (d.modRace p l (fun x => { x with held := x.held ++ [m] })).racePerf e 7 1 := by
  rw [Dev.raceArrive_live hl hx hlive, if_neg (by simpa using hstep), if_pos hge]

theorem Dev.raceArrive_earlier (hstep : m.step ≠ x.step) (hge : beatGe m.step x.step = false) : d.raceArrive p l m = d.raceErr e 4 1 := by
  rw [Dev.raceArrive_live hl hx hlive, if_neg (by simpa using hstep), if_neg (by simp [hge])]

theorem Dev.raceArrive_now (hstep : m.step = x.step) (hs : x.stale (indexWhere (fun a => a == m.src) (lSources w e)) m = false) :
    d.raceArrive p l m = d.raceMsg p l w e m := by
  rw [Dev.raceArrive_live hl hx hlive, if_pos (by simpa using hstep), if_neg (by simp [hs])]

end

/-! What a message of the Race's own step does (R326 to R333). -/

section
variable {d : Dev} {p l e : Nat} (s : Show) {m : RaceMsg}

theorem Dev.raceMsg_dispatch {i c : Nat} (hk : m.kind = 1) (hi : indexWhere (fun a => a == m.src) (lSources s e) = some i)
    (hc : c = d.expertEntry e (fld m.tag 0 12)) (hvalid : bit c 19 = true) (hpkg : cPkg c = d.route.addr) : d.raceMsg p l s e m =
    d.raceWrite e (rxSlot e c (fld m.tag 24 4) i (fld m.tag 12 12)) (m.data.take (512 * lDrows e)) := by
  simp [Dev.raceMsg, hk, hi, ← hc, hvalid, hpkg]

theorem Dev.raceMsg_manifest {i : Nat} (hk : m.kind = 2) (hi : indexWhere (fun a => a == m.src) (lSources s e) = some i) :
    d.raceMsg p l s e m = d.takeManifest p l s e i m.mapver m.arrivals := by
  simp [Dev.raceMsg, hk, hi]

theorem Dev.raceMsg_return (hk : m.kind = 3) :
    d.raceMsg p l s e m = d.takeReturn p l e (fld m.tag 0 16) (fld m.tag 16 3 + 1) (fld m.tag 19 2) m.data := by
  simp [Dev.raceMsg, hk]

theorem Dev.raceMsg_refuse (hk : m.kind = 4) :
    d.raceMsg p l s e m = d.raceRefuse p l e m.src (m.arrivals.map (fun a : Arrival => a.expert)) := by
  simp [Dev.raceMsg, hk]

theorem Dev.raceMsg_lost (hk : m.kind = 5) (ht : m.tag = 1) :
    d.raceMsg p l s e m = d.sourceLost p l s e (if m.mapver = 1 then .hardware else .program) := by
  simp [Dev.raceMsg, hk, ht]

theorem Dev.raceMsg_abandoned {i : Nat} (hk : m.kind = 5) (ht : m.tag ≠ 1)
    (hi : indexWhere (fun a => a == m.src) (lSources s e) = some i) (hnone : Tab.get? (d.race p l).mans i = none) : d.raceMsg p l s e m =
    (d.modRace p l (fun x => { x with mans := Tab.put x.mans i [] })).raceDeliver p l e := by
  simp [Dev.raceMsg, hk, ht, hi, hnone]

end

section
variable {d : Dev} {p l e : Nat}

/-- A Race that is abandoned by a destination (R333). -/
theorem Dev.sourceLost_abandons (s : Show) (cls : AbortClass) (hw : (d.race p l).waits = []) (hc : (d.race p l).combined = false) :
    ((d.sourceLost p l s e cls).race p l).abandoned = true := by
  unfold Dev.sourceLost
  dsimp only
  split_ifs with hover
  · simpa [hc] using hover
  · rw [Dev.race_of_races (Dev.abortGroup_races ..), Dev.race_of_races (Dev.foldl_races (fun d q => d.qDone_races ..) _ _)]
    exact Dev.sourceGone_abandons s rfl (by simp [hw]) hc

theorem Dev.sourceLost_waits (s : Show) (cls : AbortClass) (hw : (d.race p l).waits = []) : ((d.sourceLost p l s e cls).race p l).waits = [] := by
  have hkept : Dev.RacesSame .kept d (d.sourceLost p l s e cls) :=
    .ite (.refl d) ((Dev.RacesSame.sourceGone d p l s e _).trans
      ((Dev.RacesSame.of_races (Dev.foldl_races (fun d q => d.qDone_races ..) _ _)).trans (.of_races (Dev.abortGroup_races ..))))
  exact RaceInst.waits_nil_of_kept (hkept.race p l) hw

/-- The choices that a refusal of `experts` by package `from_` marks (R332). -/
theorem Dev.choices_raceRefuse (from_ : Nat) (experts : List Nat) : ((d.raceRefuse p l e from_ experts).race p l).choices =
    (d.race p l).choices.map (fun c =>
      { c with refused := c.refused || (experts.contains c.expert && cPkg (d.expertEntry e c.expert) == from_) }) := by
  unfold Dev.raceRefuse
  dsimp only
  rw [Dev.race_of_races (Dev.raceErr_races ..), Dev.race_modRace_same]
  refine List.map_congr_left (fun c _ => ?_)
  split_ifs with hhit
  · simp only [Bool.and_eq_true] at hhit
    obtain ⟨⟨-, hexpert⟩, hpkg⟩ := hhit
    rw [hexpert, hpkg, Bool.and_self, Bool.or_true]
  · have hsame : (c.refused || (experts.contains c.expert && cPkg (d.expertEntry e c.expert) == from_)) = c.refused := by
      cases hr : c.refused with
      | true => rfl
      | false => simpa [hr] using hhit
    rw [hsame]

/-- The choice that a return vector answers has its shard's return in (R329). -/
theorem Dev.got_takeReturn {t r h : Nat} (bs : List Byte) {c : Choice} (hc : c ∈ ((d.takeReturn p l e t r h bs).race p l).choices)
    (ht : c.token = t) (hr : c.rank = r) (hh : h < c.shards) : h ∈ c.got := by
  unfold Dev.takeReturn at hc
  dsimp only at hc
  split_ifs at hc with hany
  · rw [Dev.race_modRace_same] at hc
    obtain ⟨c', -, rfl⟩ := List.mem_map.1 hc
    split_ifs at ht hr hh ⊢ with hhit
    · exact List.mem_cons_self
    · simpa [ht, hr, hh] using hhit
  · have hnot := List.any_eq_false.1 (Bool.not_eq_true _ ▸ hany) c hc
    simpa [ht, hr, hh] using hnot

end

/-! The fields of a tag (R327). -/

theorem dispatchTag_fields {n slot h : Nat} (hn : n < 4096) (hs : slot < 4096) (hh : h < 4) :
    fld (n % 2 ^ 12 + slot % 2 ^ 12 * 2 ^ 12 + h % 4 * 2 ^ 24) 0 12 = n ∧
    fld (n % 2 ^ 12 + slot % 2 ^ 12 * 2 ^ 12 + h % 4 * 2 ^ 24) 12 12 = slot ∧
    fld (n % 2 ^ 12 + slot % 2 ^ 12 * 2 ^ 12 + h % 4 * 2 ^ 24) 24 4 = h := by
  unfold fld
  omega

theorem returnTag_fields {t r h : Nat} (ht : t < 2 ^ 16) (h1 : 1 ≤ r) (h8 : r ≤ 8) (hh : h < 4) :
    fld (t % 2 ^ 16 + (r + 7) % 8 * 2 ^ 16 + h % 4 * 2 ^ 19) 0 16 = t ∧
    fld (t % 2 ^ 16 + (r + 7) % 8 * 2 ^ 16 + h % 4 * 2 ^ 19) 16 3 + 1 = r ∧
    fld (t % 2 ^ 16 + (r + 7) % 8 * 2 ^ 16 + h % 4 * 2 ^ 19) 19 2 = h := by
  unfold fld
  omega

/-! The rows of the messages, in the Race's own step. -/

section
variable {d : Dev} {p l e from_ : Nat} {w : Show} {x : RaceInst} (hl : d.layerOf p l = some (w, e)) (hx : x = d.race p l)
  (hlive : x.live = true)
include hl hx hlive

/-- A dispatch vector of a source is written in the slot of its expert, shard and source (R326). -/
theorem raceDispatchIn_writes {i n slot h c : Nat} (data : List Byte) (hi : indexWhere (fun a => a == from_) (lSources w e) = some i)
    (hn : n < 4096) (hs : slot < 4096) (hh : h < 4) (hc : c = d.expertEntry e n) (hvalid : bit c 19 = true) (hpkg : cPkg c = d.route.addr)
    (hlost : 4 * n + h ∉ x.lost) (hdone : 4 * n + h ∉ x.done) :
    raceDispatchIn d p l from_ x.step n slot h data = d.raceWrite e (rxSlot e c h i slot) (data.take (512 * lDrows e)) := by
  obtain ⟨hexpert, hslot, hshard⟩ := dispatchTag_fields hn hs hh
  rw [raceDispatchIn, Dev.raceArrive_now hl hx hlive rfl (RaceInst.stale_dispatch rfl (by rwa [hexpert, hshard]) (by rwa [hexpert, hshard])),
    Dev.raceMsg_dispatch w rfl hi (by rw [hexpert]; exact hc) hvalid hpkg, hslot, hshard]

/-- A manifest that matches the map and names no expert that is refused is kept (R328). -/
theorem raceManifestIn_kept {i : Nat} (es : List (Nat × Nat × Nat × Nat × Nat))
    (hi : indexWhere (fun a => a == from_) (lSources w e) = some i) (hnone : Tab.get? x.mans i = none)
    (hok : ∀ a ∈ es, cLive (d.expertEntry e a.1) = true ∧
      ∀ h < cShards (d.expertEntry e a.1), bit d.faults.offline (cPen (d.expertEntry e a.1) + h) = false) :
    Tab.get? ((raceManifestIn d p l from_ x.step d.mapver es).race p l).mans i =
      some (es.map (fun a => { src := i, expert := a.1, slot := a.2.1, rank := a.2.2.1, token := a.2.2.2.1, weight := a.2.2.2.2 })) := by
  rw [raceManifestIn, Dev.raceArrive_now hl hx hlive rfl (RaceInst.stale_fromSource (.inl rfl) hi hnone), Dev.raceMsg_manifest w rfl hi,
    Dev.mans_takeManifest (hx ▸ hnone) (fun a ha => ?_), List.map_map]
  · rfl
  · obtain ⟨b, hb, rfl⟩ := List.mem_map.1 ha
    obtain ⟨hexpert, hpens⟩ := hok b hb
    simpa [Dev.arrivalRefused, hexpert] using hpens

/-- An abandonment by a source stands for its manifest (R333). -/
theorem raceAbandonIn_bySource {i : Nat} (hw : Bool) (hwaits : x.waits = []) (hi : indexWhere (fun a => a == from_) (lSources w e) = some i)
    (hnone : Tab.get? x.mans i = none) : Tab.get? ((raceAbandonIn d p l from_ x.step false hw).race p l).mans i = some [] := by
  have hrace : (((d.modRace p l (fun x => { x with mans := Tab.put x.mans i [] })).raceDeliver p l e).race p l) =
      { x with mans := Tab.put x.mans i [] } := by
    rw [Dev.race_of_races (Dev.raceDeliver_races ..), Dev.race_modRace_same, hx]
  rw [raceAbandonIn, Dev.raceArrive_now hl hx hlive rfl (RaceInst.stale_fromSource (.inr ⟨rfl, by simp⟩) hi hnone),
    Dev.raceMsg_abandoned w rfl (by simp) hi (hx ▸ hnone), Dev.settleRace_alone (by rw [hrace]; exact hwaits), hrace]
  exact Tab.get?_put_same ..

section
variable (hc : x.combined = false) (ha : x.abandoned = false)
include hc ha

/-- A refusal marks the choices of its experts (R332). -/
theorem choices_raceRefuseIn (experts : List Nat) : ((raceRefuseIn d p l from_ x.step experts).race p l).choices = x.choices.map (fun c =>
    { c with refused := c.refused || (experts.contains c.expert && cPkg (d.expertEntry e c.expert) == from_) }) := by
  rw [raceRefuseIn, Dev.raceArrive_now hl hx hlive rfl (RaceInst.stale_toSource (.inr (.inl rfl)) hc ha), Dev.raceMsg_refuse w rfl,
    Dev.choices_raceRefuse, hx, List.map_map]
  exact congrArg (fun es : List Nat => (d.race p l).choices.map (fun c =>
    { c with refused := c.refused || (es.contains c.expert && cPkg (d.expertEntry e c.expert) == from_) })) (List.map_id experts)

/-- A return vector marks the choice that it answers (R329). -/
theorem got_raceReturn {t r h n : Nat} (data : List Byte) (hwaits : x.waits = []) (ht : t < 2 ^ 16) (h1 : 1 ≤ r) (h8 : r ≤ 8) (hh : h < 4) :
    ∀ c ∈ ((raceReturn d p l n h true x.step t r data).race p l).choices, c.token = t → c.rank = r → h < c.shards → h ∈ c.got := by
  obtain ⟨htoken, hrank, hshard⟩ := returnTag_fields ht h1 h8 hh
  intro c hcs
  rw [raceReturn, if_pos rfl, Dev.raceArrive_now hl hx hlive rfl (RaceInst.stale_toSource (.inl rfl) hc ha), Dev.raceMsg_return w rfl, htoken, hrank,
    hshard, Dev.settleRace_alone (RaceInst.waits_nil_of_unarrived ((Dev.RacesSame.takeReturn d p l e t r h data).race p l) (hx ▸ hwaits))] at hcs
  exact Dev.got_takeReturn data hcs

/-- An abandonment by a destination abandons the source Race (R333). -/
theorem raceAbandonIn_byDestination (hw : Bool) (hwaits : x.waits = []) :
    ((raceAbandonIn d p l from_ x.step true hw).race p l).abandoned = true := by
  subst hx
  rw [raceAbandonIn, Dev.raceArrive_now hl rfl hlive rfl (RaceInst.stale_toSource (.inr (.inr ⟨rfl, rfl⟩)) hc ha), Dev.raceMsg_lost w rfl rfl,
    Dev.settleRace_alone (Dev.sourceLost_waits w _ hwaits)]
  exact Dev.sourceLost_abandons w _ hwaits hc

end

end

/-! The returns of a shard of this package (R329). -/

/-- The return vector of arrival `a`, of shard `h` of catalogue entry `c`, leaves for its source or is taken here. -/
def Dev.returnOne (p l : Nat) (s : Show) (e h step c : Nat) (d : Dev) (a : Arrival) : Dev :=
  let (r, d) := d.raceRead e (rxReturn e c h a.src a.slot) (512 * lRrows e)
  let d := if r.poison.isEmpty then d else d.groupPoison (sendGroup s (cDchan c + h)) r.poison
  let pkg := (lSources s e).getD a.src 0
  if pkg = d.route.addr then d.takeReturn p l e a.token (a.rank + 1) h r.data
  else d.raceSend pkg 3 (a.token + a.rank * 2 ^ 16 + h * 2 ^ 19) l e step r.data

theorem Dev.RacesSame.returnOne (p l : Nat) (s : Show) (e h step c : Nat) (d : Dev) (a : Arrival) :
    RacesSame .unarrived d (Dev.returnOne p l s e h step c d a) := by
  unfold Dev.returnOne
  dsimp only
  exact (unarrived_of_kept (raceRead ..)).trans (.trans (ite (refl _) (of_races (groupPoison_races ..)))
    (ite (takeReturn ..) (of_races (raceSend_races ..))))

section
variable {d : Dev} {p l e n h : Nat} {w : Show} {x : RaceInst} (step t r : Nat) (data : List Byte) (hl : d.layerOf p l = some (w, e))
  (hx : x = d.race p l)
include hl hx

theorem raceReturn_idle (hi : 4 * n + h ∉ x.done ∨ 4 * n + h ∈ x.returned) : raceReturn d p l n h false step t r data = d := by
  rw [raceReturn, if_neg Bool.false_ne_true, hl]
  dsimp only
  rw [← hx, if_pos (by simpa using hi)]

/-- A shard that is done sends its returns once. -/
theorem raceReturn_sends (hd : 4 * n + h ∈ x.done) (hr : 4 * n + h ∉ x.returned) : raceReturn d p l n h false step t r data =
    ((x.mans.flatMap (fun m => m.2.filter (fun a => a.expert == n))).foldl (Dev.returnOne p l w e h x.step (d.expertEntry e n))
      (d.modRace p l (fun x => { x with returned := (4 * n + h) :: x.returned }))).settleRace p l := by
  rw [raceReturn, if_neg Bool.false_ne_true, hl]
  dsimp only
  rw [← hx, if_neg (by simp [hd, hr])]
  rfl

theorem returned_raceReturn (hd : 4 * n + h ∈ x.done) (hr : 4 * n + h ∉ x.returned) (hw : x.waits = []) :
    4 * n + h ∈ ((raceReturn d p l n h false step t r data).race p l).returned := by
  have hsame := (Dev.RacesSame.foldl (Dev.RacesSame.returnOne p l w e h x.step (d.expertEntry e n))
    (d.modRace p l (fun x => { x with returned := (4 * n + h) :: x.returned }))
    (x.mans.flatMap (fun m => m.2.filter (fun a => a.expert == n)))).race p l
  rw [Dev.race_modRace_same, ← hx] at hsame
  rw [raceReturn_sends step t r data hl hx hd hr, Dev.settleRace_alone (RaceInst.waits_nil_of_unarrived hsame hw),
    RaceInst.field_eq_of_unarrived hsame RaceInst.returned]
  exact List.mem_cons_self

end

end Sys2Proof.Machine
end

section
/-! The statements on the Race dies. -/

namespace Sys2Proof.Machine

open Sys2Proof

/-- Settles O50: an assignment keeps its seats distinct and within the capacity (`seats_assign`), and what the dispatch and the combine read and
write changes no more of the Race than an abandonment marks (`Dev.RacesSame`). -/
theorem raceRanksAssignsDispatchesAndCombines : Obligations.RaceRanksAssignsDispatchesAndCombines := by
  unfold Obligations.RaceRanksAssignsDispatchesAndCombines
  refine ⟨?start, ?dispatch, ?combine, ?nowhere⟩
  case start =>
    intro s p l e cap w x hl hx
    refine ⟨fun hlive hr ha hp hb hcap => ?_, fun h => by rw [exec_raceInstanceStart, raceInstanceStart_idle hl hx h, State.on_dev_self]⟩
    obtain ⟨policy, rs, toks, cs, dropped, hlen, hseats, hcounts⟩ := raceInstanceStart_routes hl hx hlive hr ha hp hb
    obtain ⟨hseat, hnodup, hfull⟩ := seats_assign (min (capTerm e rs.length) (lCapMax e)) (lK e) policy
      (fun i => cLive (s.dev.expertEntry e i)) rs
    rw [← hseats] at hseat hnodup hfull
    rw [hlen, ← hcap] at hseat hfull
    obtain ⟨hlive', hfits⟩ := choices_of_seats (live := fun i => cLive (s.dev.expertEntry e i)) hseat hfull
    have hrace := (Dev.race_of_races hcounts.races p l).trans (Dev.race_modRace_same ..)
    refine ⟨_, exec_raceInstanceStart s p l, ?_⟩
    rw [hrace, hcounts.mem, hx]
    exact ⟨rfl, hlive', hnodup, hfits, rfl, rfl, rfl⟩
  case dispatch =>
    intro s p l e w x hl hx
    refine ⟨fun hr hs ha hc hw hlaunch => ⟨_, exec_raceDispatch s p l, raceDispatch_ends hl hx hr hs ha hlaunch hc ?_⟩,
      fun h => by rw [exec_raceDispatch, raceDispatch_idle hl hx h, State.on_dev_self]⟩
    intro hmem
    obtain ⟨y, hy, hstep⟩ := List.mem_map.1 hmem
    exact hw y hy hstep
  case combine =>
    intro s p l e w x hl hx
    exact ⟨fun hs hc ha hw hgot => ⟨_, exec_raceCombine s p l, raceCombine_combines hl hx hs hc ha hgot hw⟩,
      fun h => by rw [exec_raceCombine, raceCombine_idle hl hx h, State.on_dev_self]⟩
  case nowhere =>
    intro s p l h
    exact ⟨by rw [exec_raceInstanceStart, raceInstanceStart_none h, State.on_dev_self],
      by rw [exec_raceDispatch, raceDispatch_none h, State.on_dev_self], by rw [exec_raceCombine, raceCombine_none h, State.on_dev_self]⟩

/-- Settles O51: a message is held, counted as stale, or takes effect in its own step, kind by kind. -/
theorem raceMessagesTakeEffectInTheirStep : Obligations.RaceMessagesTakeEffectInTheirStep := by
  unfold Obligations.RaceMessagesTakeEffectInTheirStep
  refine ⟨?elsewhen, ?source, ?destination, ?shard⟩
  case elsewhen =>
    rintro i s p l e w m x hm hl rfl hlive hwaits hstep
    have harrives : ∀ d, s.dev.raceArrive p l m = d → (d.race p l).waits = [] → exec i s = .next (s.on d) := by
      rintro _ rfl hd
      rcases exec_raceMessage s hm with h | h
      · exact h
      · rw [h, Dev.settleRace_alone hd]
    refine ⟨fun hge => harrives _ (Dev.raceArrive_later hl rfl hlive hstep hge) ?_,
      fun hge => harrives _ (Dev.raceArrive_earlier hl rfl hlive hstep hge) ?_⟩
    · rw [Dev.race_of_races (Dev.racePerf_races ..), Dev.race_modRace_same]
      exact hwaits
    · rw [Dev.race_of_races (Dev.raceErr_races ..)]
      exact hwaits
  case source =>
    intro s p l e from_ i w x hl hx hlive hwaits hi
    refine ⟨fun n slot h c data hn hs hh hc hvalid hpkg hlost hdone => ?_, fun es hnone hok => ?_, fun hw hnone => ?_⟩
    · rw [exec_dispatch, raceDispatchIn_writes hl hx hlive data hi hn hs hh hc hvalid hpkg hlost hdone]
    · exact ⟨_, exec_manifest .., raceManifestIn_kept hl hx hlive es hi hnone hok⟩
    · exact ⟨_, exec_abandon .., raceAbandonIn_bySource hl hx hlive hw hwaits hi hnone⟩
  case destination =>
    intro s p l e from_ w x hl hx hlive hwaits hc ha
    refine ⟨fun experts => ?_, fun t r h n data ht h1 h8 hh _ => ?_, fun hw => ?_⟩
    · exact ⟨_, exec_refuse .., choices_raceRefuseIn hl hx hlive hc ha experts⟩
    · exact ⟨_, exec_returnVector .., got_raceReturn hl hx hlive hc ha data hwaits ht h1 h8 hh⟩
    · exact ⟨_, exec_abandon .., raceAbandonIn_byDestination hl hx hlive hc ha hw hwaits⟩
  case shard =>
    intro s p l e n h step t r w x data hl hx hwaits
    exact ⟨fun hd hr => ⟨_, exec_returnVector .., returned_raceReturn step t r data hl hx hd hr hwaits⟩,
      fun hi => by rw [exec_returnVector, raceReturn_idle step t r data hl hx hi, State.on_dev_self]⟩

end Sys2Proof.Machine
end

section
/-! SUPPORT. A mailbox command at a mailbox that is busy or does not hear, and what a completion leaves of the handles and of what
waits to be posted. -/

namespace Sys2Proof.Machine

open Sys2Proof

/-! Doorbells (R338, R359, R361). -/

/-- A mailbox command is served with the slot, the opcode and the service that the table gives it. -/
theorem exec_mailboxService {i : Instr} {c : Door} {op : Nat} {svc : Dev → Door → Svc} (h : mailboxService i = some (c, op, svc))
    (s : State) : exec i s = .next (s.on (s.dev.serve c op svc)) := by
  cases i <;> cases h <;> rfl

section
variable {d : Dev} {c : Door} {op : Nat} {svc : Dev → Door → Svc}

theorem Dev.serve_refused {r : Refuse} (h : d.hears c = true) (hs : svc (d.took c op) c = .error r) :
    d.serve c op svc = (d.took c op).putReply c (replyBytes r.status r.detail 0 c.tag []) := by
  rw [Dev.serve_of_hears h, hs]; rfl

theorem Dev.serve_closed (h : d.doorOpen c.func c.mbx = false) : d.serve c op svc = d := by
  simp only [Dev.serve, h, Bool.not_false, if_true]

/-- A doorbell at a mailbox that holds another slot is counted and ignored (R359). -/
theorem Dev.serve_busy {other : List Byte} (ho : d.doorOpen c.func c.mbx = true) (hh : (d.mailbox c.func c.mbx).held = some other)
    (hne : other ≠ doorSlot c op) :
    d.serve c op svc = d.modFunc c.func (fun x => { x with mbxIgnored := satAdd 32 x.mbxIgnored 1 }) := by
  simp [Dev.serve, Dev.ring, ho, hh, hne]

end

/-! Completions (R366, R369). -/

section
variable {d : Dev} {h : Nat}

/-- The completion of handle `h` with `x` in its handle table: its beat, its HOST_TAG and its result words (R366, R368). -/
def Dev.completionOf (d : Dev) (h st beat : Nat) (res : List Nat) (ruled : Bool) (x : Handle) : Completion :=
  { handle := h, status := st, beat, tag := x.tag, r0 := res.getD 0 0 % 2 ^ 32, r1 := res.getD 1 0 % 2 ^ 32, r2 := res.getD 2 0 % 2 ^ 32
    ruled, waited := decide ((d.func (hFunc h)).room ≤ (d.func (hFunc h)).waiting.length) }

/-- A handle that completes: its completion joins those of its function, and no other function changes. -/
theorem Dev.func_finishAt {x : Handle} (st beat : Nat) (res : List Nat) (ruled : Bool) (hx : Tab.get? d.handles h = some x)
    (ho : d.isOpen h = true) (hflr : (d.func (hFunc h)).flr = false) (hgen : hGen h = (d.func (hFunc h)).gen) :
    ∃ w, ∀ f, (d.finishAt h st beat res ruled).func f = if f = hFunc h then
      { d.func f with waiting := placeCompletion (d.completionOf h st beat res ruled x) (d.func f).waiting, ledWaits := w } else d.func f := by
  refine ⟨satAdd 32 (d.func (hFunc h)).ledWaits (decide ((d.func (hFunc h)).room ≤ (d.func (hFunc h)).waiting.length)).toNat, fun f => ?_⟩
  have hkeep (e : Dev) (b : Bool) (w : Work) : (if b then e else e.setWork h w).func f = e.func f := by cases b <;> rfl
  have hcut : ¬ ((d.func (hFunc h)).flr || decide (hGen h ≠ (d.func (hFunc h)).gen)) = true := by simp [hflr, hgen]
  rw [Dev.finishAt, if_neg (by simp [ho]), if_neg hcut]
  simp only [hkeep, Dev.func_modFunc, hx, Option.map_some, Option.getD_some]
  split
  · subst_vars; rfl
  · rfl

theorem Dev.isOpen_of_waiting {q : Completion} (hq : q ∈ (d.func (hFunc h)).waiting) (hh : q.handle = h) : d.isOpen h = false := by
  have hc : d.completed h = true := List.any_eq_true.2 ⟨q, hq, by simpa using hh⟩
  simp [Dev.isOpen, hc]

end

end Sys2Proof.Machine
end

section
/-! The statements on steps, answers, refusals and completions. -/

namespace Sys2Proof.Machine

open Sys2Proof

/-- Settles O1: a step is the meaning of the front command (`step_front`), and an empty queue idles (`step_idle`). -/
theorem stepRunsFrontCommand : Obligations.StepRunsFrontCommand :=
  ⟨fun c rest s => step_front c { s with pending := c :: rest } rest rfl, step_idle⟩

/-- Settles O2: the meaning of each command, row by row, is a next state with another package and the same queue. -/
theorem everyCommandAnswersAndKeepsTheQueue : Obligations.EveryCommandAnswersAndKeepsTheQueue := by
  intro c s
  cases c <;> exact ⟨_, rfl⟩

/-- Settles O4: a mailbox command is served (`exec_mailboxService`), and the service ends in a refusal, at a busy mailbox, or at a closed
door. -/
theorem refusedCommandLeavesNothingBehind : Obligations.RefusedCommandLeavesNothingBehind := by
  unfold Obligations.RefusedCommandLeavesNothingBehind
  refine ⟨fun i c op svc r s hi hd hs => ?refused, fun i c op svc s hi => ⟨fun other ho hh hne => ?busy, fun hc => ?closed⟩⟩
  case refused => rw [exec_mailboxService hi, Dev.serve_refused hd hs]
  case busy => rw [exec_mailboxService hi, Dev.serve_busy ho hh hne]
  case closed => rw [exec_mailboxService hi, Dev.serve_closed hc, State.on_dev_self]

/-- Settles O7: the completion that joins those of the function (`Dev.func_finishAt`) closes the handle. -/
theorem handleCompletesOnce : Obligations.HandleCompletesOnce := by
  unfold Obligations.HandleCompletesOnce
  refine ⟨?completes, fun d h st beat res ruled => Dev.finishAt_closed st beat res ruled⟩
  rintro d h st beat res ruled x hx ho hflr hgen e rfl
  obtain ⟨w, hfunc⟩ := Dev.func_finishAt st beat res ruled hx ho hflr hgen
  have hown : ((d.finishAt h st beat res ruled).func (hFunc h)).waiting =
      placeCompletion (d.completionOf h st beat res ruled x) (d.func (hFunc h)).waiting := by
    rw [hfunc, if_pos rfl]
  have hmem := mem_placeCompletion (d.completionOf h st beat res ruled x) (d.func (hFunc h)).waiting
  rw [← hown] at hmem
  have hclosed := Dev.isOpen_of_waiting hmem rfl
  refine ⟨⟨_, hmem, rfl, rfl, rfl, rfl, rfl, rfl, rfl⟩, ?_, fun f hf => ?_, hclosed,
    fun st' beat' res' r' => Dev.finishAt_closed st' beat' res' r' hclosed⟩
  · rw [hown, length_placeCompletion]
  · rw [hfunc, if_neg hf]

end Sys2Proof.Machine
end

section
/-! SUPPORT. What posting and the registers of a Ledger leave of their function, and which images the boot ROM accepts. -/

namespace Sys2Proof.Machine

open Sys2Proof

/-! What the commands answer. -/

theorem exec_ledgerPost (f : Nat) (ok : Bool) (s : State) : exec (.ledgerPost f ok) s = .next (s.on (ledgerPost s.dev f ok)) := rfl
theorem exec_ledgerHeadWrite (f v : Nat) (s : State) : exec (.ledgerHeadWrite f v) s = .next (s.on (ledgerHeadWrite s.dev f v)) := rfl
theorem exec_ledgerEnableWrite (f v : Nat) (s : State) : exec (.ledgerEnableWrite f v) s = .next (s.on (ledgerEnableWrite s.dev f v)) := rfl
theorem exec_bootDoorbell (v : Nat) (img : FwImage) (s : State) : exec (.bootDoorbell v img) s = .next (s.on (bootDoorbell s.dev v img)) := rfl

/-! The Ledger (R341, R367 to R369, R498). -/

/-- Two updates of a function that agree on it as it is leave the same package. -/
theorem Dev.modFunc_congr {d : Dev} {f : Nat} {g g' : Func → Func} (h : g (d.func f) = g' (d.func f)) : d.modFunc f g = d.modFunc f g' := by
  rw [Dev.modFunc, Dev.modFunc, h]

theorem State.next_modFunc_congr {s : State} {f : Nat} {g g' : Func → Func} (h : g (s.dev.func f) = g' (s.dev.func f)) :
    (Host.Outcome.next (s.on (s.dev.modFunc f g)) : Answer) = .next (s.on (s.dev.modFunc f g')) := by
  rw [Dev.modFunc_congr h]

section
variable {d : Dev} {f : Nat} {c : Completion} {rest : List Completion}

/-- A completion that waits is counted where the function cannot post (R369). -/
theorem ledgerPost_blocked (ok : Bool) (hw : (d.func f).waiting ≠ [])
    (hb : d.power.portUp = false ∨ (d.func f).enabled = false ∨ (d.func f).flr = true ∨ (d.func f).room = 0) :
    ledgerPost d f ok = d.modFunc f Func.countWaits := by
  obtain ⟨c, rest, hc⟩ := List.exists_cons_of_ne_nil hw
  simp only [ledgerPost, hc]
  rw [if_pos]
  rcases hb with h | h | h | h <;> simp [h]

section
variable (hw : (d.func f).waiting = c :: rest) (hup : d.power.portUp = true) (hen : (d.func f).enabled = true)
  (hflr : (d.func f).flr = false) (hroom : (d.func f).room ≠ 0)
include hw hup hen hflr hroom

/-- The first waiting completion is posted where there is room (R367 to R369). -/
theorem ledgerPost_posts : ledgerPost d f true =
    (({ d.emit (.hostWrite f ((d.func f).ledBase + 32 * (d.func f).ledTail) (ledgerEntry c (d.func f).ledPhase)) with
      handles := Tab.del d.handles c.handle }).modFunc f Func.advance).event f 0 0 := by
  simp only [ledgerPost, hw, if_true]
  rw [if_neg (by simp [hup, hen, hflr, hroom])]
  rfl

/-- A write that fails leaves the Ledger lost, and its pasture's record (R341). -/
theorem ledgerPost_fails {p : Nat} (hp : d.pastureOf f = some p) :
    ledgerPost d f false = (d.modFunc f (fun y => { y with ledLost := true })).notice 0x004B 63 63 p 0 := by
  have hp' : (d.modFunc f (fun y => { y with ledLost := true })).pastureOf f = some p := hp
  simp only [ledgerPost, hw, hp', Bool.false_eq_true, if_false]
  rw [if_neg (by simp [hup, hen, hflr, hroom])]

end

/-- The sizes of a Ledger (R367). -/
theorem ledgerSize_ok_iff (n : Nat) : ((List.range 11).any (fun i => n == 2 ^ (i + 6)) = true) ↔ ∃ i, 6 ≤ i ∧ i ≤ 16 ∧ n = 2 ^ i := by
  simp only [List.any_eq_true, List.mem_range, beq_iff_eq]
  constructor
  · rintro ⟨i, hi, h⟩
    exact ⟨i + 6, by omega, by omega, h⟩
  · rintro ⟨i, hlo, hhi, h⟩
    exact ⟨i - 6, by omega, by rw [h, Nat.sub_add_cancel hlo]⟩

end

/-! The boot doorbell (R348, R349, R494). -/

section
variable (f : Fuses) (img : FwImage)

/-- The check passes exactly where each of its conditions holds (R348). -/
theorem bootCheck_eq_zero_iff : bootCheck f img = 0 ↔ f.keyHashes[img.key]? = some img.keyHash ∧ bit f.revoked img.key = false ∧
    img.sigOk = true ∧ img.digest = img.actual ∧ f.minSvn ≤ img.svn ∧ img.len ≤ 2 ^ 23 := by
  unfold bootCheck
  split_ifs <;> simp_all

theorem bootCheck_le : bootCheck f img ≤ 6 := by
  unfold bootCheck
  split_ifs <;> decide

end

theorem bootDoorbell_open {d : Dev} (img : FwImage) (hd : d.decoded 0 0x020 = true) (hw : d.power.window = true) :
    bootDoorbell d 1 img = if bootCheck d.fuses img = 0 then d.startImage img 2 false
      else { d with power := { d.power with reject := bootCheck d.fuses img } } := by
  rw [bootDoorbell, if_neg (by simp [hd, hw])]

theorem bootDoorbell_closed {d : Dev} (v : Nat) (img : FwImage) (hw : d.power.window = false) : bootDoorbell d v img = d := by
  simp [bootDoorbell, hw]

end Sys2Proof.Machine
end

section
/-! The statements on Ledgers and the boot doorbell. -/

namespace Sys2Proof.Machine

open Sys2Proof

/-- Settles O20: a post follows whether the function can post and the write succeeds, and each register its own rule. -/
theorem ledgerPostsCompletionsAndKeepsItsIndices : Obligations.LedgerPostsCompletionsAndKeepsItsIndices := by
  unfold Obligations.LedgerPostsCompletionsAndKeepsItsIndices
  refine ⟨?post, ?blocked, ?head, ?enable⟩
  case post =>
    rintro s f c rest hw hup hen hflr hroom x rfl
    refine ⟨?_, fun p hp => by rw [exec_ledgerPost, ledgerPost_fails hw hup hen hflr hroom hp]⟩
    rw [exec_ledgerPost, ledgerPost_posts hw hup hen hflr hroom]
    congr 3
    refine Dev.modFunc_congr ?_
    have hrest : (s.dev.func f).waiting.drop 1 = rest := by rw [hw]; rfl
    rw [← hrest]
    rfl
  case blocked =>
    intro s f ok hw hb
    rw [exec_ledgerPost, ledgerPost_blocked ok hw hb]
    rfl
  case head =>
    rintro s f v hd hon x rfl
    rw [exec_ledgerHeadWrite, ledgerHeadWrite, if_pos hd]
    refine ⟨fun hin => ?_, fun hout => ?_⟩ <;> refine State.next_modFunc_congr ?_
    · simp only [Func.writeHead, hon, hin, decide_true, Bool.and_self, Bool.not_true, Bool.false_eq_true, if_false, if_true]
    · have hno : ¬ (decide (v % 2 ^ 16 < (s.dev.func f).ledSize) && decide (((s.dev.func f).ledTail + (s.dev.func f).ledSize - v % 2 ^ 16) %
          (s.dev.func f).ledSize ≤ ((s.dev.func f).ledTail + (s.dev.func f).ledSize - (s.dev.func f).ledHead) % (s.dev.func f).ledSize)) = true := by
        simpa using hout
      rw [Func.writeHead, if_neg (by simp [hon]), if_neg hno]
  case enable =>
    intro s f v hd
    rw [exec_ledgerEnableWrite, ledgerEnableWrite, if_pos hd]
    refine ⟨fun hv hoff hsize => ?_, fun hv hoff hsize => ?_, fun hv => ?_⟩ <;>
      refine State.next_modFunc_congr ?_
    · rw [Func.enable, if_neg (by simp [bit, hv]), if_neg (by simp [hoff]), if_pos ((ledgerSize_ok_iff _).2 hsize)]
    · rw [Func.enable, if_neg (by simp [bit, hv]), if_neg (by simp [hoff]), if_neg]
      rw [ledgerSize_ok_iff]
      rintro ⟨i, hlo, hhi, h⟩
      exact hsize i hlo hhi h
    · rw [Func.enable, if_pos (by simp [bit, hv])]

/-- Settles O24: the doorbell follows the check of the image, which passes exactly where its conditions hold (`bootCheck_eq_zero_iff`). -/
theorem bootDoorbellChecksTheHeader : Obligations.BootDoorbellChecksTheHeader := by
  unfold Obligations.BootDoorbellChecksTheHeader
  refine ⟨fun s img hd hw good hgood => ?_, fun s v img hw => by rw [exec_bootDoorbell, bootDoorbell_closed v img hw, State.on_dev_self]⟩
  rw [← bootCheck_eq_zero_iff] at hgood
  rw [exec_bootDoorbell, bootDoorbell_open img hd hw]
  refine ⟨fun h => ?_, fun h => ?_⟩
  · rw [if_pos (hgood.1 h)]
    rfl
  · have hne : bootCheck s.dev.fuses img ≠ 0 := fun h0 => h (hgood.2 h0)
    exact ⟨bootCheck s.dev.fuses img, Nat.pos_of_ne_zero hne, bootCheck_le _ _, by rw [if_neg hne]⟩

end Sys2Proof.Machine
end

section
/-! SUPPORT. What each step of start-up leaves (R469, R470): the Midway's training keeps the power state and the step, and the tier-2
ports' training keeps the whole power state. -/

namespace Sys2Proof.Machine

open Sys2Proof

theorem exec_startupStepDone (x : StartFacts) (s : State) : exec (.startupStepDone x) s = .next (s.on (startupStepDone s.dev x)) := rfl

/-! The power state where a port trains (R217, R218, R251 to R253). -/

theorem Dev.errAdd_power (d : Dev) (die core i n : Nat) : (d.errAdd die core i n).power = d.power := by
  obtain ⟨t, h⟩ := d.errAdd_frame die core i n
  rw [h]

theorem Dev.notice_power (d : Dev) (code die core p info : Nat) : (d.notice code die core p info).power = d.power := by
  obtain ⟨fl, t, fs, o, h⟩ := d.notice_frame code die core p info
  rw [h]

theorem Dev.record_power (d : Dev) (code die core disp unit p link info : Nat) :
    (d.record code die core disp unit p link info).power = d.power := by
  obtain ⟨fl, t, fs, o, h⟩ := d.record_frame code die core disp unit p link info
  rw [h]

theorem Dev.tierTrained_power (d : Dev) (i : Nat) (x : TierFacts) : (d.tierTrained i x).power = d.power := by
  unfold Dev.tierTrained
  dsimp only
  split_ifs <;> simp only [Dev.notice_power]

/-- Start-up runs in `e` as in `d`: in STARTING, and at the same step. -/
def Dev.SameStart (d e : Dev) : Prop := d.power.st = .starting ∧ e.power.st = .starting ∧ e.power.step = d.power.step

namespace Dev.SameStart
variable {d e : Dev}

theorem refl (h : d.power.st = .starting) : d.SameStart d := ⟨h, h, rfl⟩

theorem of_power (h : d.power.st = .starting) (hp : e.power = d.power) : d.SameStart e := ⟨h, hp ▸ h, hp ▸ rfl⟩

theorem trans {f : Dev} (h : d.SameStart e) (h' : e.SameStart f) : d.SameStart f := ⟨h.1, h'.2.1, h'.2.2.trans h.2.2⟩

theorem foldl {α : Type} {f : Dev → α → Dev} (hf : ∀ (e : Dev) (a : α), e.power.st = .starting → e.SameStart (f e a)) (l : List α) (d : Dev)
    (h : d.power.st = .starting) : d.SameStart (l.foldl f d) := by
  induction l generalizing d with
  | nil => exact refl h
  | cons a l ih => exact (hf d a h).trans (ih _ (hf d a h).2.1)

theorem routerFails (die info : Nat) (h : d.power.st = .starting) : d.SameStart (d.routerFails die info) := by
  rw [Dev.routerFails, if_pos (by simp [Power.startingUp, h])]
  have hp := d.record_power 0x0022 die 63 dNotice 7 (d.pastureOfDie die) 0 info
  exact ⟨h, by simp only [hp, h], by simp only [hp]⟩

/-- Wires that fail in start-up are spared without a fault (R251). -/
theorem badWires (die q dir : Nat) (old fresh : List Nat) (half : Bool) (h : d.power.st = .starting) :
    d.SameStart (d.badWires die q dir old fresh half) := by
  unfold Dev.badWires
  dsimp only
  split_ifs
  · exact refl h
  · refine foldl (fun e w he => ?_) fresh d h
    rw [if_pos (by simp [Power.startingUp, Dev.errAdd_power, he])]
    exact of_power he (e.errAdd_power die 64 2 1)
  · exact refl h
  · exact of_power h (by rw [Dev.notice_power, Dev.errAdd_power])
  · exact routerFails die _ h

theorem portTrained (die q : Nat) (out inn : List WireMargin) (h : d.power.st = .starting) :
    d.SameStart (d.portTrained die q out inn) := by
  have hout := badWires die q 0 (d.port die q).outBad ((wiresFailing out).filter (fun w => !(d.port die q).outBad.contains w))
    (d.port die q).outHalf h
  exact (hout.trans (badWires die q 1 _ _ _ hout.2.1)).trans (of_power (badWires die q 1 _ _ _ hout.2.1).2.1 rfl)

theorem midwayTrained (l : List PortMargins) (h : d.power.st = .starting) : d.SameStart (d.midwayTrained l) := by
  refine foldl (fun e m he => ?_) l d h
  split_ifs
  · exact portTrained m.die m.port m.out m.inn he
  · exact refl he

end Dev.SameStart

/-! The steps (R348, R349, R394, R469, R470). -/

/-- The ceiling is 0.6 GHz at least (R394, R458, R464). -/
theorem Power.six_le_ceiling (p : Power) : 6 ≤ p.ceiling := by
  have hclock : 11 ≤ clockFreq p.clockInForce := by
    unfold clockFreq
    split_ifs <;> decide
  unfold Power.ceiling
  dsimp only
  split_ifs <;> omega

section
variable {d : Dev} {x : StartFacts}

theorem startupStepDone_idle (h : d.power.inReset = true ∨ d.power.code ≠ 0 ∨ d.power.startingUp = false ∨ 6 < d.power.step) :
    startupStepDone d x = d := by
  unfold startupStepDone
  dsimp only
  rcases h with h | h | h | h
  · rw [if_pos (by simp [h])]
  · rw [if_pos (by simp [h])]
  · rw [if_pos (by simp [h])]
  · have hne (n : Nat) (hn : n ≤ 6) : ¬ d.power.step = n := by omega
    rw [if_neg (hne 1 (by decide)), if_neg (hne 2 (by decide)), if_neg (hne 3 (by decide)), if_neg (hne 4 (by decide)),
      if_neg (hne 5 (by decide)), if_neg (hne 6 (by decide)), ite_self]

/-- With no image in any slot the boot ROM stops start-up with NO_IMAGE (R470). -/
theorem Dev.bootFlash_empty {flash : List (Option FwImage)} (h : ∀ i ∈ flash, i = none) (mark : Nat) (slots : List Nat) (d : Dev) :
    d.bootFlash flash mark slots = { d with power := { d.power with code := 0x10, portUp := true }, fuses := { d.fuses with trySlot := 2 } } := by
  have hnone (s : Nat) : (flash[s]?).join = none := by
    rcases hs : flash[s]? with _ | i
    · rfl
    · rw [h i (List.mem_of_getElem? hs)]; rfl
  induction slots with
  | nil => rfl
  | cons s rest ih => rw [Dev.bootFlash, hnone s]; exact ih

/-- Under host push step 1 waits for the boot doorbell, with the window open and WAIT_PUSH (R349, R470). -/
theorem Dev.step1_push (hbad : x.rmBad = []) (hp : d.aux.strapBoot = true) :
    d.step1 x = { d with power := { d.power with code := 0x11, window := true, portUp := true } } := by
  rw [Dev.step1, hbad, List.foldl_nil, List.isEmpty_nil, if_pos rfl, if_pos hp]

/-- With no image in either slot step 1 stops (R348, R470). -/
theorem Dev.step1_empty (hbad : x.rmBad = []) (hp : d.aux.strapBoot = false) (hf : ∀ i ∈ x.flash, i = none) :
    d.step1 x = { d with power := { d.power with code := 0x10, portUp := true }, fuses := { d.fuses with trySlot := 2 } } := by
  rw [Dev.step1, hbad, List.foldl_nil, List.isEmpty_nil, if_pos rfl, if_neg (by simp [hp]), Dev.bootFlash_empty hf]

/-- Start-up ends in RUN where nothing was lost (R469, R470). -/
theorem Dev.ready_run (hst : d.power.st = .starting) (hl : d.power.lostInStartup = false) :
    d.ready.power.step = 7 ∧ d.ready.power.ready = true ∧ d.ready.power.code = 1 ∧ d.ready.power.st = .run ∧
      d.ready.power.freq = 6 + Config.free d.draws % (d.power.ceiling - 5) ∧ d.ready.power.ceiling = d.power.ceiling := by
  have hceil (p : Power) (h : p.st = .starting) : ({ p with st := .run, braceFrom := .run } : Power).ceiling = p.ceiling := by
    simp [Power.ceiling, Power.braced, h]
  have hready : d.ready.power = { d.power with
      step := 7, ready := true, freq := 6 + Config.free d.draws % (d.power.ceiling - 5), code := 0x01, st := .run, braceFrom := .run } := by
    simp [Dev.ready, Dev.draw, hst, hl]
  rw [hready]
  exact ⟨rfl, rfl, rfl, rfl, rfl, hceil d.power hst⟩

section
variable (hr : d.power.inReset = false) (hc : d.power.code = 0) (hst : d.power.st = .starting)
include hr hc hst

/-- A step of start-up that has not stopped ends by its own rule. -/
theorem startupStepDone_running : startupStepDone d x =
    if d.power.step = 1 then if d.power.refclk then d.step1 x else d
    else if d.power.step = 2 then
      if d.aux.strapMet && d.fuses.variant == 1 then { d with power := { d.power with code := 0x12 } }
      else { d with power := { d.power with step := d.power.step + 1 } }
    else if d.power.step = 3 then
      let e := (x.stacksBad.filter (· < 32)).foldl (fun d s => Dev.penOffline d (s / 2) 0) { d with mem := [], poison := [] }
      { e with power := { e.power with step := e.power.step + 1 } }
    else if d.power.step = 4 then
      { d.midwayTrained x.midway with power := { (d.midwayTrained x.midway).power with step := (d.midwayTrained x.midway).power.step + 1 } }
    else if d.power.step = 5 then if d.fence.group = 10 then { d with power := { d.power with step := d.power.step + 1 } } else d
    else if d.power.step = 6 then
      ([0, 1].foldl (fun d i => Dev.tierTrained d i (x.tier.getD i {})) { d with tier := [{}, {}] }).ready
    else d := by
  rw [startupStepDone, if_neg (by simp [Power.startingUp, hst, hr, hc])]

end
end

end Sys2Proof.Machine
end

section
/-! The statement on start-up. -/

namespace Sys2Proof.Machine

open Sys2Proof

/-- Settles O56: the step that runs ends by its own rule (`startupStepDone_running`). -/
theorem startupGoesStepByStep : Obligations.StartupGoesStepByStep := by
  unfold Obligations.StartupGoesStepByStep
  refine ⟨fun s x h => by rw [exec_startupStepDone, startupStepDone_idle h, State.on_dev_self], fun s x hr hc hst => ?_⟩
  rw [exec_startupStepDone, startupStepDone_running hr hc hst]
  refine ⟨fun h => ?one, fun h => ?two, fun h hbad => ?three, fun h => ?four, fun h => ?five, fun h hl => ?six⟩
  case one =>
    rw [if_pos h]
    refine ⟨fun hclk => ?_, fun hclk hbad => ?_⟩
    · rw [if_neg (by simp [hclk]), State.on_dev_self]
    · rw [if_pos hclk]
      exact ⟨fun hp => by rw [Dev.step1_push hbad hp],
        fun hp hf => ⟨_, congrArg _ (congrArg _ (Dev.step1_empty hbad hp hf)), rfl, h, hst⟩⟩
  case two =>
    rw [if_neg (by omega), if_pos h, h]
    congr 2
    by_cases hm : s.dev.aux.strapMet = true ∧ s.dev.fuses.variant = 1
    · rw [if_pos hm, if_pos (by simp [hm])]
    · rw [if_neg hm, if_neg (by simpa using hm)]
  case three =>
    rw [if_neg (by omega), if_neg (by omega), if_pos h, hbad, List.filter_nil, List.foldl_nil]
    simp only [h]
  case four =>
    rw [if_neg (by omega), if_neg (by omega), if_neg (by omega), if_pos h]
    exact ⟨rfl, (Dev.SameStart.midwayTrained x.midway hst).2.2.trans h⟩
  case five =>
    rw [if_neg (by omega), if_neg (by omega), if_neg (by omega), if_neg (by omega), if_pos h, h]
  case six =>
    rw [if_neg (by omega), if_neg (by omega), if_neg (by omega), if_neg (by omega), if_neg (by omega), if_pos h]
    have hpower : ([0, 1].foldl (fun d i => Dev.tierTrained d i (x.tier.getD i {})) { s.dev with tier := [{}, {}] }).power =
        s.dev.power := by
      simp only [List.foldl_cons, List.foldl_nil, Dev.tierTrained_power]
    obtain ⟨hstep, hready, hcode, hrun, hfreq, hceil⟩ := Dev.ready_run (by rw [hpower, hst]) (by rw [hpower, hl])
    have hlow := Power.six_le_ceiling s.dev.power
    rw [hpower] at hfreq hceil
    have hmod := Nat.mod_lt (Config.free ([0, 1].foldl (fun d i => Dev.tierTrained d i (x.tier.getD i {}))
      { s.dev with tier := [{}, {}] }).draws) (show 0 < s.dev.power.ceiling - 5 by omega)
    refine ⟨_, rfl, hstep, hready, hcode, hrun, ?_, ?_, ?_⟩
    · rw [hfreq]; exact Nat.le_add_right _ _
    · rw [hfreq, hceil]; omega
    · rw [Dev.serving, hstep]; rfl

end Sys2Proof.Machine
end

section
/-! SUPPORT. What the endpoint answers on a binding (R345 to R347, R351), what a refresh of the sensors stores and sends (R346), and what
the test access port executes (R485). -/

namespace Sys2Proof.Machine

open Sys2Proof

/-! What the commands answer. -/

theorem exec_setEndpointId (b e : Nat) (s : State) : exec (.setEndpointId b e) s = .next (s.on (setEndpointId s.dev b e)) := rfl
theorem exec_setEventReceiver (b e : Nat) (s : State) : exec (.setEventReceiver b e) s = .next (s.on (setEventReceiver s.dev b e)) := rfl
theorem exec_requestUpdate (b : Nat) (s : State) : exec (.requestUpdate b) s = .next (s.on (requestUpdate s.dev b)) := rfl
theorem exec_activateFirmware (b : Nat) (u : Bool) (s : State) :
    exec (.activateFirmware b u) s = .next (s.on (activateFirmware s.dev b u)) := rfl
theorem exec_getVersion (b : Nat) (s : State) : exec (.getVersion b) s = .next (s.on (s.dev.reply b 5 0x84 [0x12] [])) := rfl
theorem exec_getCapabilities (b : Nat) (s : State) :
    exec (.getCapabilities b) s = .next (s.on (s.dev.reply b 5 0xE1 [1, 1, 2, 0, 0, 0] [])) := rfl
theorem exec_negotiateAlgorithms (b : Nat) (e h : Bool) (s : State) :
    exec (.negotiateAlgorithms b e h) s = .next (s.on (s.dev.reply b 5 0xE3 [e.toNat, h.toNat] [])) := rfl
theorem exec_getDigests (b : Nat) (s : State) : exec (.getDigests b) s = .next (s.on (s.dev.reply b 5 0x81 [1] (sha384 s.dev.fuses.devCert))) := rfl
theorem exec_getCertificate (b slot off len : Nat) (s : State) :
    exec (.getCertificate b slot off len) s = .next (s.on (getCertificate s.dev b slot off len)) := rfl
theorem exec_challenge (b slot nonce : Nat) (s : State) : exec (.challenge b slot nonce) s = .next (s.on (challenge s.dev b slot nonce)) := rfl
theorem exec_getMeasurements (b i nonce : Nat) (signed : Bool) (s : State) :
    exec (.getMeasurements b i nonce signed) s = .next (s.on (getMeasurements s.dev b i nonce signed)) := rfl
theorem exec_dynamicAddress (tally : Bool) (a : Nat) (s : State) :
    exec (.dynamicAddress tally a) s = .next (s.on (dynamicAddress s.dev tally a)) := rfl
theorem exec_sensorRefresh (l : List (Nat × Int)) (s : State) : exec (.sensorRefresh l) s = .next (s.on (sensorRefresh s.dev l)) := rfl

/-! Answers on a binding (R345). -/

section
variable {d : Dev} {b : Nat}

theorem Dev.reply_on (h : d.mctpOn b = true) (type cmd : Nat) (fields : List Nat) (data : List Byte) :
    d.reply b type cmd fields data = d.emit (.mctp b type cmd fields data) := if_pos h

theorem Dev.reply_off (h : d.mctpOn b = false) (type cmd : Nat) (fields : List Nat) (data : List Byte) :
    d.reply b type cmd fields data = d := if_neg (by simp [h])

section
variable (h : d.mctpOn b = true)
include h

theorem setEndpointId_lawful {eid : Nat} (hlo : 8 ≤ eid) (hhi : eid ≤ 254) : setEndpointId d b eid =
    ({ d with mgmt := { d.mgmt with eids := d.mgmt.eids.set b eid } } : Dev).emit (.mctp b 0 1 [0, eid] []) := by
  rw [setEndpointId, if_neg (by simp [h]), if_neg (by simp; omega)]
  exact if_pos h

theorem setEndpointId_unlawful {eid : Nat} (he : eid < 8 ∨ 254 < eid) : setEndpointId d b eid = d.emit (.mctp b 0 1 [2] []) := by
  rw [setEndpointId, if_neg (by simp [h]), if_pos (by simpa using he), Dev.reply_on h]

theorem setEventReceiver_on (eid : Nat) : setEventReceiver d b eid =
    ({ d with mgmt := { d.mgmt with receiver := some (eid % 256) } } : Dev).emit (.mctp b 1 4 [0] []) := by
  rw [setEventReceiver, if_pos h]
  exact if_pos h

/-- An update is refused under host push and while one is under way, else the inactive slot is written (R347). -/
theorem requestUpdate_on : requestUpdate d b = if d.aux.strapBoot = true then d.emit (.mctp b 1 0x10 [0x8A] [])
    else if d.fuses.updating = true then d.emit (.mctp b 1 0x10 [0x81] [])
    else (({ d with fuses := { d.fuses with updating := true } } : Dev).emit (.flashWrite (1 - d.fuses.slot))).emit
      (.mctp b 1 0x10 [0] []) := by
  rw [requestUpdate, if_neg (by simp [h]), Dev.reply_on h, Dev.reply_on h, Dev.reply_on (by exact h)]

theorem activateFirmware_selfContained : activateFirmware d b true = d.emit (.mctp b 1 0x1A [0x8C] []) := by
  rw [activateFirmware, if_neg (by simp [h]), if_pos rfl, Dev.reply_on h]

/-- The written slot is marked to be tried, where an update is under way (R347). -/
theorem activateFirmware_on : activateFirmware d b false = if d.fuses.updating = false then d.emit (.mctp b 1 0x1A [0x80] [])
    else ({ d with fuses := { d.fuses with updating := false, trySlot := 1 - d.fuses.slot } } : Dev).emit (.mctp b 1 0x1A [0] []) := by
  rw [activateFirmware, if_neg (by simp [h]), if_neg (by decide), Dev.reply_on h, Dev.reply_on (by exact h)]
  cases d.fuses.updating <;> rfl

theorem getCertificate_slot0 {off len : Nat} (hl : off + len ≤ d.fuses.devCert.length) : getCertificate d b 0 off len =
    d.emit (.mctp b 5 0x82 [0, len, d.fuses.devCert.length - off - len] ((d.fuses.devCert.drop off).take len)) := by
  have hlen : ((d.fuses.devCert.drop off).take len).length = len := by
    rw [List.length_take, List.length_drop]; omega
  rw [getCertificate, if_neg (by decide), Dev.reply_on h, slice, hlen]

theorem getCertificate_empty {slot : Nat} (hs : slot ≠ 0) (off len : Nat) : getCertificate d b slot off len = d.emit (.mctp b 5 0x7F [1] []) := by
  rw [getCertificate, if_pos hs, Dev.reply_on h]

theorem challenge_empty {slot : Nat} (hs : slot ≠ 0) (nonce : Nat) : challenge d b slot nonce = d.emit (.mctp b 5 0x7F [1] []) := by
  rw [challenge, if_pos hs, Dev.reply_on h]

/-- A challenge of slot 0 is answered with the chain's digest and a signature (R351). -/
theorem challenge_slot0 (nonce : Nat) : ∃ sig, sig.length = 96 ∧
    challenge d b 0 nonce = d.emit (.mctp b 5 0x83 [0, nonce] (sha384 d.fuses.devCert ++ sig)) := by
  refine ⟨deviceSign (Config.layout 1 [0, nonce, leNat (sha384 d.fuses.devCert)]), by simp [deviceSign, padTo]; omega, ?_⟩
  rw [challenge, if_neg (by decide), Dev.reply_on h]

/-- Measurements without a signature: their number, all of them, one of the four, or an error (R351). -/
theorem getMeasurements_unsigned (index nonce : Nat) : getMeasurements d b index nonce false = d.emit (if index = 0 then .mctp b 5 0x60 [4] []
    else if index = 0xFF then .mctp b 5 0x60 (d.measurement 1 ++ d.measurement 2 ++ d.measurement 3 ++ d.measurement 4) []
    else if index ≤ 4 then .mctp b 5 0x60 (d.measurement index) [] else .mctp b 5 0x7F [1] []) := by
  have hall : [1, 2, 3, 4].flatMap d.measurement = d.measurement 1 ++ d.measurement 2 ++ d.measurement 3 ++ d.measurement 4 := by simp
  simp only [getMeasurements, Dev.reply_on h, hall, Bool.false_eq_true, if_false]
  split_ifs <;> rfl

end

theorem setEndpointId_off (h : d.mctpOn b = false) (e : Nat) : setEndpointId d b e = d := if_pos (by simp [h])

theorem setEventReceiver_off (h : d.mctpOn b = false) (e : Nat) : setEventReceiver d b e = d := if_neg (by simp [h])

theorem requestUpdate_off (h : d.mctpOn b = false) : requestUpdate d b = d := if_pos (by simp [h])

theorem activateFirmware_off (h : d.mctpOn b = false) (u : Bool) : activateFirmware d b u = d := if_pos (by simp [h])

theorem getCertificate_off (h : d.mctpOn b = false) (slot off len : Nat) : getCertificate d b slot off len = d := by
  simp only [getCertificate, Dev.reply_off h, ite_self]

theorem challenge_off (h : d.mctpOn b = false) (slot nonce : Nat) : challenge d b slot nonce = d := by
  simp only [challenge, Dev.reply_off h, ite_self]

theorem getMeasurements_off (h : d.mctpOn b = false) (i nonce : Nat) (signed : Bool) : getMeasurements d b i nonce signed = d := by
  simp only [getMeasurements, Dev.reply_off h, ite_self]

end

/-! Sensors (R346). -/

/-- The readings `l` are taken one after another (R346). -/
def Dev.senseAll (d : Dev) (l : List (Nat × Int)) : Dev := l.foldl (fun d q => Dev.sense d q.1 q.2) d

theorem sensorRefresh_on {d : Dev} (hup : d.power.mctpUp = true) (hr : d.power.inReset = false) (l : List (Nat × Int)) :
    sensorRefresh d l = d.senseAll (l.filter (fun q => numericSensor q.1) ++ d.stateSensors) := if_neg (by simp [hup, hr])

section
variable {d : Dev} {n r : Nat} {v : Int}

/-- A reading is stored for its sensor, and the receiver stays. -/
theorem Dev.sense_mgmt (d : Dev) (n : Nat) (v : Int) : (d.sense n v).mgmt = { d.mgmt with sensors := Tab.put d.mgmt.sensors n v } := by
  unfold Dev.sense
  dsimp only
  split <;> rfl

/-- What was sent before stays sent. -/
theorem Dev.out_sense_prefix (d : Dev) (n : Nat) (v : Int) : d.out <+: (d.sense n v).out := by
  unfold Dev.sense
  dsimp only
  split
  · exact List.prefix_append _ _
  · exact List.prefix_refl _

theorem Dev.out_sense_silent (h : d.mgmt.receiver = none) : (d.sense n v).out = d.out := by
  unfold Dev.sense
  dsimp only
  split
  · rename_i r hr
    exact absurd (h.symm.trans hr) (by simp)
  · rfl

/-- A state that changed is sent to the receiver. -/
theorem Dev.out_sense_state {o : Int} (hn : numericSensor n = false) (ho : Tab.get? d.mgmt.sensors n = some o) (hne : o ≠ v)
    (hr : d.mgmt.receiver = some r) : Out.platformEvent r n v ∈ (d.sense n v).out := by
  have hmoved : (o != v) = true := bne_iff_ne.2 hne
  simp [Dev.sense, ho, hn, hr, hmoved, Dev.emit]

end

section
variable (l : List (Nat × Int)) {n r : Nat} {v : Int}

theorem Dev.senseAll_cons (d : Dev) (q : Nat × Int) : d.senseAll (q :: l) = (d.sense q.1 q.2).senseAll l := rfl

theorem Dev.senseAll_receiver (d : Dev) : (d.senseAll l).mgmt.receiver = d.mgmt.receiver := by
  induction l generalizing d with
  | nil => rfl
  | cons q l ih => rw [Dev.senseAll_cons, ih, Dev.sense_mgmt]

theorem Dev.out_senseAll_prefix (d : Dev) : d.out <+: (d.senseAll l).out := by
  induction l generalizing d with
  | nil => exact List.prefix_refl _
  | cons q l ih => exact (d.out_sense_prefix q.1 q.2).trans (ih _)

theorem Dev.out_senseAll_silent (d : Dev) (h : d.mgmt.receiver = none) : (d.senseAll l).out = d.out := by
  induction l generalizing d with
  | nil => rfl
  | cons q l ih => rw [Dev.senseAll_cons, ih _ (by rw [Dev.sense_mgmt, h]), Dev.out_sense_silent h]

theorem Dev.get?_senseAll_notMem (d : Dev) (h : n ∉ l.map Prod.fst) : Tab.get? (d.senseAll l).mgmt.sensors n = Tab.get? d.mgmt.sensors n := by
  induction l generalizing d with
  | nil => rfl
  | cons q l ih =>
    rw [List.map_cons, List.mem_cons, not_or] at h
    rw [Dev.senseAll_cons, ih _ h.2, Dev.sense_mgmt, Tab.get?_put_ne _ _ h.1]

/-- Every reading of different sensors is stored. -/
theorem Dev.get?_senseAll_mem (d : Dev) (hl : (l.map Prod.fst).Nodup) (h : (n, v) ∈ l) :
    Tab.get? (d.senseAll l).mgmt.sensors n = some v := by
  induction l generalizing d with
  | nil => cases h
  | cons q l ih =>
    rw [List.map_cons, List.nodup_cons] at hl
    rw [Dev.senseAll_cons]
    rcases List.mem_cons.1 h with rfl | h
    · rw [Dev.get?_senseAll_notMem l _ hl.1, Dev.sense_mgmt, Tab.get?_put_same]
    · exact ih _ hl.2 h

/-- Every state that changed is sent. -/
theorem Dev.out_senseAll_state (d : Dev) {o : Int} (hl : (l.map Prod.fst).Nodup) (h : (n, v) ∈ l) (hn : numericSensor n = false)
    (ho : Tab.get? d.mgmt.sensors n = some o) (hne : o ≠ v) (hr : d.mgmt.receiver = some r) :
    Out.platformEvent r n v ∈ (d.senseAll l).out := by
  induction l generalizing d with
  | nil => cases h
  | cons q l ih =>
    rw [List.map_cons, List.nodup_cons] at hl
    rw [Dev.senseAll_cons]
    rcases List.mem_cons.1 h with rfl | h
    · exact (Dev.out_senseAll_prefix l _).subset (Dev.out_sense_state hn ho hne hr)
    · have hnq : n ≠ q.1 := by
        rintro rfl
        exact hl.1 (List.mem_map.2 ⟨_, h, rfl⟩)
      exact ih _ hl.2 h (by rw [Dev.sense_mgmt, Tab.get?_put_ne _ _ hnq, ho]) (by rw [Dev.sense_mgmt, hr])

end

theorem Dev.stateSensors_keys (d : Dev) : d.stateSensors.map Prod.fst = List.range' 96 24 := rfl

theorem Dev.stateSensors_not_numeric {d : Dev} {q : Nat × Int} (h : q ∈ d.stateSensors) : numericSensor q.1 = false := by
  have hq : q.1 ∈ List.range' 96 24 := d.stateSensors_keys ▸ List.mem_map_of_mem h
  revert hq
  generalize q.1 = n
  intro hn
  rw [List.mem_range'_1] at hn
  simp only [numericSensor, Bool.or_eq_false_iff, Bool.and_eq_false_iff, decide_eq_false_iff_not]
  omega

/-- The readings of a refresh are those of different sensors. -/
theorem Dev.refreshed_nodup (d : Dev) {l : List (Nat × Int)} (hl : (l.map Prod.fst).Nodup) :
    ((l.filter (fun q => numericSensor q.1) ++ d.stateSensors).map Prod.fst).Nodup := by
  rw [List.map_append, List.nodup_append]
  refine ⟨hl.sublist (List.filter_sublist.map Prod.fst), by rw [Dev.stateSensors_keys]; exact List.nodup_range', ?_⟩
  rintro n hn m hm rfl
  obtain ⟨q, hq, rfl⟩ := List.mem_map.1 hn
  obtain ⟨q', hq', he⟩ := List.mem_map.1 hm
  have hnum : numericSensor q.1 = true := (List.mem_filter.1 hq).2
  rw [← he, Dev.stateSensors_not_numeric hq'] at hnum
  exact absurd hnum (by decide)

/-! The test access port (R485). -/

section
variable {d : Dev}

/-- An instruction whose condition holds executes. -/
theorem Dev.tapLoad_holds (ha : d.power.auxGood = true) (op cells captured : Nat) :
    d.tapLoad op true cells captured = ({ d with tap := { ir := op, runs := op, cells } } : Dev).emit (.tap captured) := if_neg (by simp [ha])

/-- Any other executes as BYPASS. -/
theorem Dev.tapLoad_bypass (ha : d.power.auxGood = true) (op cells captured : Nat) :
    d.tapLoad op false cells captured = ({ d with tap := { d.tap with ir := op, runs := 0xFF } } : Dev).emit (.tap 0) := if_neg (by simp [ha])

end

end Sys2Proof.Machine
end

section
/-! The statement on management and the test access port. -/

namespace Sys2Proof.Machine

open Sys2Proof

/-- Settles O57: each request is answered on its binding as its lemma says, a refresh is one pass over the readings (`Dev.senseAll`), and the
test access port executes by `Dev.tapLoad`. -/
theorem managementAndTestPortAnswer : Obligations.ManagementAndTestPortAnswer := by
  unfold Obligations.ManagementAndTestPortAnswer
  refine ⟨?on, ?off, ?address, ?sensors, ?tap⟩
  case on =>
    intro s b h
    refine ⟨fun eid hlo hhi => ?_, fun eid he => ?_, fun eid => ?_, ?_, ?_, ?_, ?_, ?_, fun e k => ?_, ?_, fun off len hl => ?_,
      fun slot off len nonce hs => ⟨?_, ?_⟩, fun nonce => ?_, fun i nonce => ?_⟩
    · rw [exec_setEndpointId, setEndpointId_lawful h hlo hhi]
    · rw [exec_setEndpointId, setEndpointId_unlawful h he]
    · rw [exec_setEventReceiver, setEventReceiver_on h]
    · rw [exec_requestUpdate, requestUpdate_on h]
    · rw [exec_activateFirmware, activateFirmware_selfContained h]
    · rw [exec_activateFirmware, activateFirmware_on h]
    · rw [exec_getVersion, Dev.reply_on h]
    · rw [exec_getCapabilities, Dev.reply_on h]
    · rw [exec_negotiateAlgorithms, Dev.reply_on h]
    · rw [exec_getDigests, Dev.reply_on h]
    · rw [exec_getCertificate, getCertificate_slot0 h hl]
    · rw [exec_getCertificate, getCertificate_empty h hs]
    · rw [exec_challenge, challenge_empty h hs]
    · obtain ⟨sig, hlen, hc⟩ := challenge_slot0 h nonce
      exact ⟨sig, hlen, by rw [exec_challenge, hc]⟩
    · rw [exec_getMeasurements, getMeasurements_unsigned h]
  case off =>
    intro s b x y z u v h
    simp only [exec_setEndpointId, setEndpointId_off h, exec_setEventReceiver, setEventReceiver_off h, exec_requestUpdate, requestUpdate_off h,
      exec_activateFirmware, activateFirmware_off h, exec_getVersion, exec_getCapabilities, exec_negotiateAlgorithms, exec_getDigests,
      Dev.reply_off h, exec_getCertificate, getCertificate_off h, exec_challenge, challenge_off h, exec_getMeasurements,
      getMeasurements_off h, State.on_dev_self, and_self]
  case address =>
    intro s a
    refine ⟨fun hup => ?_, fun hon => ?_⟩
    · rw [exec_dynamicAddress, dynamicAddress, if_pos rfl, if_pos hup]; rfl
    · rw [exec_dynamicAddress, dynamicAddress, if_neg (by decide), if_pos hon]; rfl
  case sensors =>
    intro s l hup hr hl
    have hnodup := s.dev.refreshed_nodup hl
    refine ⟨_, by rw [exec_sensorRefresh, sensorRefresh_on hup hr], fun q hq => ?_, fun q hq hn => ?_, fun hnone => ?_,
      fun r q v hrec hq hold hne => ?_⟩
    · exact Dev.get?_senseAll_mem _ _ hnodup (List.mem_append_right _ hq)
    · exact Dev.get?_senseAll_mem _ _ hnodup (List.mem_append_left _ (List.mem_filter.2 ⟨hq, hn⟩))
    · exact Dev.out_senseAll_silent _ _ hnone
    · exact Dev.out_senseAll_state _ _ hnodup (List.mem_append_right _ hq) (Dev.stateSensors_not_numeric hq) hold hne hrec
  case tap =>
    rintro s p lands cells op ok ha rfl
    refine ⟨?_, fun hlo hhi => ?_, fun hm => ?_, fun hok => ?_, fun hok => ?_⟩
    · exact congrArg (fun d => Host.Outcome.next (s.on d)) (Dev.tapLoad_holds ha _ _ _)
    · have hmod : op % 256 = op := Nat.mod_eq_of_lt hhi
      have hb : bypass s.dev op = s.dev.tapLoad op false 0 0 := by rw [bypass, hmod, if_neg (Nat.not_le.2 hlo)]
      exact congrArg (fun d => Host.Outcome.next (s.on d)) (hb.trans (Dev.tapLoad_bypass ha _ _ _))
    · have hs : samplePreload s.dev p lands cells = s.dev.tapLoad 0x02 true cells lands := by rw [samplePreload, hm]
      exact congrArg (fun d => Host.Outcome.next (s.on d)) (hs.trans (Dev.tapLoad_holds ha _ _ _))
    · have hb (o c k : Nat) : s.dev.tapLoad o (TapPins.boundary p) c k = s.dev.tapLoad o true c k := by rw [TapPins.boundary, hok]
      refine ⟨?_, ?_, ?_, ?_, ?_⟩ <;> exact congrArg (fun d => Host.Outcome.next (s.on d)) ((hb _ _ _).trans (Dev.tapLoad_holds ha _ _ _))
    · have hb (o c k : Nat) : s.dev.tapLoad o (TapPins.boundary p) c k = s.dev.tapLoad o false c k := by rw [TapPins.boundary, hok]
      refine ⟨?_, ?_, ?_, ?_, ?_⟩ <;> exact congrArg (fun d => Host.Outcome.next (s.on d)) ((hb _ _ _).trans (Dev.tapLoad_bypass ha _ _ _))

end Sys2Proof.Machine
end

section
/-! SUPPORT. What the services of the remaining configuration commands and of the metering and fault commands answer where every check
passes, and what they read of a package whose mailbox has just taken the slot. -/

namespace Sys2Proof.Machine

open Sys2Proof

/-! What the commands answer. -/

theorem exec_cfgBegin (c : Door) (s : State) : exec (.cfgBegin c) s = .next (s.on (s.dev.serve c 0x0101 svcCfgBegin)) := rfl
theorem exec_cfgSet (c : Door) (s : State) : exec (.cfgSet c) s = .next (s.on (s.dev.serve c 0x0102 svcCfgSet)) := rfl
theorem exec_cfgGet (c : Door) (s : State) : exec (.cfgGet c) s = .next (s.on (s.dev.serve c 0x0103 svcCfgGet)) := rfl
theorem exec_tallyRead (c : Door) (s : State) : exec (.tallyRead c) s = .next (s.on (s.dev.serve c 0x0B01 svcTallyRead)) := rfl
theorem exec_tallyLogRead (c : Door) (s : State) : exec (.tallyLogRead c) s = .next (s.on (s.dev.serve c 0x0B02 svcTallyLogRead)) := rfl
theorem exec_faultQuery (c : Door) (s : State) : exec (.faultQuery c) s = .next (s.on (s.dev.serve c 0x0C01 svcFaultQuery)) := rfl
theorem exec_faultAck (c : Door) (s : State) : exec (.faultAck c) s = .next (s.on (s.dev.serve c 0x0C02 svcFaultAck)) := rfl
theorem exec_unknownOpcode (c : Door) (op : Nat) (s : State) : exec (.unknownOpcode c op) s = .next (s.on (unknownOpcode s.dev c op)) := rfl

/-! What a taken slot leaves as it was: the mirror, the Tally, and which domains and records a function sees. -/

section
variable (d : Dev) (c : Door) (op : Nat)

theorem Dev.took_mirror : (d.took c op).mirror = d.mirror := by
  obtain ⟨fs, h⟩ := d.took_eq c op; rw [h]

theorem Dev.took_tally : (d.took c op).tally = d.tally := by
  obtain ⟨fs, h⟩ := d.took_eq c op; rw [h]

theorem Dev.took_sees (f : Nat) : (d.took c op).sees f = d.sees f := by
  obtain ⟨fs, h⟩ := d.took_eq c op; rw [h]; rfl

theorem Dev.took_seesFault (f : Nat) (r : FaultRec) : (d.took c op).seesFault f r = d.seesFault f r := by
  simp only [Dev.seesFault, Dev.took_pastureOf]

theorem Dev.took_faultOf (q : Nat) : (d.took c op).faultOf q = d.faultOf q := by
  simp only [Dev.faultOf, Dev.took_faults]

end

/-- An IMMEDIATE command that its service answers. -/
theorem exec_answers {i : Instr} {s : State} {c : Door} {op : Nat} {svc : Dev → Door → Svc} {res : List Nat} (eff : Dev → Dev)
    (hi : exec i s = .next (s.on (s.dev.serve c op svc))) (h : s.dev.hears c = true)
    (hs : svc (s.dev.took c op) c = .ok ({ res }, eff (s.dev.took c op))) : exec i s = .next (s.on (s.dev.answers c op res eff)) := by
  rw [hi, Dev.serve_answers h hs]

/-- No element is found where none satisfies the condition. -/
theorem indexWhere_eq_none {α : Type} {p : α → Bool} {l : List α} (h : ∀ x ∈ l, p x = false) : indexWhere p l = none := by
  induction l with
  | nil => rfl
  | cons x xs ih =>
    rw [indexWhere, if_neg (by simp [h x (List.mem_cons_self)]), ih (fun y hy => h y (List.mem_cons_of_mem _ hy))]
    rfl

/-! Configuration transactions (R371, R372, R379). -/

section
variable {d : Dev} {c : Door}

/-- The service of `CFG_BEGIN` of PASTURE scope where the checks pass. -/
theorem svcCfgBegin_pasture {p : Nat} (hh : checkHeader c 8 [(0, [255, 255])] = .ok ()) (hscope : dp c 0 1 = 0) (hs : d.stopped = false)
    (hp : namedPasture d c 1 = .ok p) (hfree : ∀ t ∈ d.txns, t.pending = false → t.package = false → t.pasture ≠ p)
    (hr : d.handlesLeft c.func = true) : svcCfgBegin d c = .ok ({ handle := some (d.nextHandle c.func) },
      { d.opened c.func c.tag .txn with txns := d.txns ++
          [{ handle := d.nextHandle c.func, package := false, pasture := p, touched := d.beat.now }] }) := by
  have hnone : d.txns.any (fun t => !t.pending && t.package == false && (false || t.pasture == p)) = false := by
    rw [List.any_eq_false]
    intro t ht hopen
    simp only [Bool.and_eq_true, Bool.not_eq_true', beq_iff_eq, Bool.false_or] at hopen
    exact hfree t ht hopen.1.1 hopen.1.2 hopen.2
  have hscope' : (dp c 0 1 == 1) = false := by rw [hscope]; rfl
  have hin : inRange c 0 1 0 1 = .ok () := inRange_ok (by omega) (by omega)
  simp only [svcCfgBegin, hh, notStopped_ok hs, if_pos hscope, hp, hscope', hin, hnone, handleRoom_ok hr, Bool.false_and, refuseIf_false, except_ok_bind, Dev.newHandle_eq, except_pure]
  rfl

/-- The service of `CFG_BEGIN` of PACKAGE scope where the checks pass. -/
theorem svcCfgBegin_package (hh : checkHeader c 8 [(0, [255, 255])] = .ok ()) (hscope : dp c 0 1 = 1) (hf : c.func = 0)
    (hs : d.stopped = false) (hp : dp c 1 1 = 0) (hfree : ∀ t ∈ d.txns, t.pending = false → t.package = false)
    (hr : d.handlesLeft 0 = true) : svcCfgBegin d c = .ok ({ handle := some (d.nextHandle c.func) },
      { d.opened c.func c.tag .txn with txns := d.txns ++
          [{ handle := d.nextHandle 0, package := true, pasture := 0, touched := d.beat.now }] }) := by
  have hnone : d.txns.any (fun t => !t.pending && t.package == true && (true || t.pasture == 0)) = false := by
    rw [List.any_eq_false]
    intro t ht hopen
    simp only [Bool.and_eq_true, Bool.not_eq_true', beq_iff_eq, Bool.true_or, and_true] at hopen
    exact absurd (hfree t ht hopen.1) (by simp [hopen.2])
  have hscope' : (dp c 0 1 == 1) = true := by rw [hscope]; rfl
  have hzero : ¬ dp c 0 1 = 0 := by omega
  have hin : inRange c 0 1 0 1 = .ok () := inRange_ok (by omega) (by omega)
  simp only [svcCfgBegin, hh, hf, notStopped_ok hs, hp, hscope', if_neg hzero, hin, hnone,
    handleRoom_ok hr, bne_self_eq_false, Bool.and_false, refuseIf_false, except_ok_bind, Dev.newHandle_eq, except_pure]
  rfl

/-- The service of `CFG_SET` where the checks pass. -/
theorem svcCfgSet_ok {h n : Nat} {t : Txn} {staged : List (Nat × Nat)} (hn : n = dp c 4 2) (hlo : 1 ≤ n) (hhi : n ≤ 14)
    (hh : cfgSetHeader c n = .ok ()) (hs : d.stopped = false) (hnamed : namedHandle d c false = .ok h) (ht : d.txnOf h = some t)
    (hp : t.pending = false) (hkeys : ∀ i < n, (if t.package then isPackageKey else isPastureKey) (setItem c i).1 = true)
    (hst : staged = ((List.range n).map (setItem c)).foldl (fun l i => stage l i.1 i.2) t.items) (hlen : staged.length ≤ 512) :
    svcCfgSet d c = .ok ({ res := [staged.length] }, d.modTxn h (fun t => { t with items := staged, touched := d.beat.now })) := by
  have hwhere : indexWhere (fun i : Nat × Nat => if t.package then !isPackageKey i.1 else !isPastureKey i.1) ((List.range n).map (setItem c)) = none := by
    refine indexWhere_eq_none (fun x hx => ?_)
    obtain ⟨i, hi, rfl⟩ := List.mem_map.1 hx
    have hkey := hkeys i (List.mem_range.1 hi)
    cases hpk : t.package <;> simpa [hpk] using hkey
  have hshort : decide (512 < staged.length) = false := decide_eq_false (Nat.not_lt.2 hlen)
  obtain rfl := Dev.txnOf_handle ht
  subst hn
  simp only [svcCfgSet, hh, notStopped_ok hs, namedTxn_ok hnamed ht, inRange_ok hlo hhi, hwhere, hp, ← hst, hshort, refuseIf_false, except_ok_bind,
    except_pure]

/-- The value of key `k` that `CFG_GET` gives under transaction `t`, if any, for pasture `p`: the staged one, else the one in force (R372). -/
def Dev.keyShown (d : Dev) (t : Option Txn) (p k : Nat) : Nat :=
  match t.bind (fun t => t.items.find? (fun e => e.1 == k)) with
  | some e => e.2
  | none => if isPastureKey k then d.pKey p k else d.key k

theorem Dev.took_keyShown (d : Dev) (c : Door) (op : Nat) (t : Option Txn) (p k : Nat) :
    (d.took c op).keyShown t p k = d.keyShown t p k := by
  simp only [Dev.keyShown, Dev.took_pKey, Dev.took_key]

section
variable {n p : Nat} (hn : n = dp c 4 2) (hlo : 1 ≤ n) (hhi : n ≤ 6) (hh : cfgGetHeader c n = .ok ())
  (hkeys : ∀ i < n, isPastureKey (dp c (8 + 2 * i) 2) = true ∨ isPackageKey (dp c (8 + 2 * i) 2) = true)
include hn hlo hhi hh hkeys

/-- The service of `CFG_GET` with the transaction `t` named, or none. -/
theorem svcCfgGet_ok {t : Option Txn} {own : Option Nat} 
    (ht : (dp c 0 4 = 0 ∧ t = none) ∨ ∃ u, dp c 0 4 ≠ 0 ∧ namedTxn d c false = .ok u ∧ t = some u)
    (hown : own = match t with
      | some t => if t.package then d.pastureOf c.func else some t.pasture
      | none => d.pastureOf c.func)
    (hp : ∀ i < n, isPastureKey (dp c (8 + 2 * i) 2) = true → own = some p) :
    svcCfgGet d c = .ok ({ res := (List.range n).map (fun i => d.keyShown t p (dp c (8 + 2 * i) 2)) }, match t with
      | some t => d.modTxn t.handle (fun t => if t.pending then t else { t with touched := d.beat.now })
      | none => d) := by
  have hwhere : indexWhere (fun k => !isPastureKey k && !isPackageKey k) ((List.range n).map (fun i => dp c (8 + 2 * i) 2)) = none := by
    refine indexWhere_eq_none (fun k hk => ?_)
    obtain ⟨i, hi, rfl⟩ := List.mem_map.1 hk
    rcases hkeys i (List.mem_range.1 hi) with h | h <;> simp [h]
  have hmine : (own.isNone && ((List.range n).map (fun i => dp c (8 + 2 * i) 2)).any isPastureKey) = false := by
    rcases ho : own with _ | q
    · rw [Option.isNone_none, Bool.true_and, List.any_eq_false]
      intro k hk hpast
      obtain ⟨i, hi, rfl⟩ := List.mem_map.1 hk
      exact absurd (ho.symm.trans (hp i (List.mem_range.1 hi) hpast)) (by simp)
    · rfl
  have hshown : ((List.range n).map (fun i => dp c (8 + 2 * i) 2)).map (fun k =>
      match t.bind (fun t => t.items.find? (fun i => i.1 == k)) with
        | some i => i.2
        | none => if isPastureKey k then d.pKey (own.getD 0) k else d.key k) =
      (List.range n).map (fun i => d.keyShown t p (dp c (8 + 2 * i) 2)) := by
    rw [List.map_map]
    refine List.map_congr_left (fun i hi => ?_)
    simp only [Function.comp_apply, Dev.keyShown]
    cases hk : isPastureKey (dp c (8 + 2 * i) 2)
    · rfl
    · rw [hp i (List.mem_range.1 hi) hk]
      rfl
  subst hn
  rw [← hshown]
  rcases ht with ⟨h0, rfl⟩ | ⟨u, h0, hu, rfl⟩
  · subst hown
    simp only [svcCfgGet, hh, if_pos h0, inRange_ok hlo hhi, hwhere, hmine, refuseIf_false, except_ok_bind, except_pure] <;>
      rfl
  · subst hown
    simp only [svcCfgGet, hh, if_neg h0, hu, Except.map, inRange_ok hlo hhi, hwhere, hmine, refuseIf_false, except_ok_bind, except_pure] <;>
      rfl

end

end

/-! Metering (R388, R412). -/

section
variable {d : Dev} {c : Door}

/-- The service of `TALLY_READ` where the checks pass. -/
theorem svcTallyRead_ok {data : List Byte} (hh : checkHeader c 24 (bufUsed []) = .ok ()) (hbuf : dp c 8 8 % 64 = 0)
    (hdata : data = leBytes d.mirror.status 8 ++ leBytes d.mirror.seq 8 ++ leBytes d.mirror.time 8 ++ leBytes d.mirror.id 8 ++
      leBytes 0 32 ++ (d.sees c.func).flatMap d.mirror.domainBytes) (hlen : data.length ≤ dp c 16 4) :
    svcTallyRead d c = d.answerBuf c data [] := by
  have hfit : decide (dp c 16 4 < data.length) = false := decide_eq_false (Nat.not_lt.2 hlen)
  simp only [svcTallyRead, hh, aligned64_ok hbuf, ← hdata, hfit, refuseIf_false, except_ok_bind]

/-- The service of `TALLY_LOG_READ` where the checks pass. -/
theorem svcTallyLogRead_ok (hh : checkHeader c 24 (bufUsed (List.replicate 8 255)) = .ok ()) (hf : c.func = 0) (hbuf : dp c 8 8 % 64 = 0) :
    svcTallyLogRead d c = d.answerItems c ((d.tally.audits.filter (fun q => dp c 0 8 ≤ q.1)).map Prod.snd) false := by
  simp only [svcTallyLogRead, hh, pfOnly_ok hf, aligned64_ok hbuf, except_ok_bind]

/-- The service of `FAULT_QUERY` where the checks pass. -/
theorem svcFaultQuery_ok (hh : checkHeader c 24 (bufUsed (List.replicate 4 255)) = .ok ()) (hbuf : dp c 8 8 % 64 = 0) :
    svcFaultQuery d c =
      d.answerItems c ((d.faults.log.filter (fun r => dp c 0 4 ≤ r.seq && d.seesFault c.func r)).map FaultRec.bytes) false := by
  simp only [svcFaultQuery, hh, aligned64_ok hbuf, except_ok_bind]

/-- The service of `FAULT_ACK` where the checks pass. -/
theorem svcFaultAck_ok (hh : checkHeader c 8 [(0, List.replicate 4 255)] = .ok ()) (h0 : dp c 0 4 ≠ 0) (hlast : dp c 0 4 ≤ d.faults.lastSeq)
    (hsees : ∀ r, d.faultOf (dp c 0 4) = some r → d.seesFault c.func r = true) :
    svcFaultAck d c = .ok ({}, d.modFault (dp c 0 4) (fun r => { r with acked := true })) := by
  have hseq : (dp c 0 4 == 0 || decide (d.faults.lastSeq < dp c 0 4)) = false := by simp [h0, hlast]
  simp only [svcFaultAck, hh, hseq, refuseIf_false, except_ok_bind]
  rcases hr : d.faultOf (dp c 0 4) with _ | r
  · rfl
  · simp only [hsees r hr, Bool.not_true, refuseIf_false, except_ok_bind, except_pure]

end

end Sys2Proof.Machine
end

section
/-! The statements on configuration transactions that open, and on metering and fault commands. -/

namespace Sys2Proof.Machine

open Sys2Proof

/-- Settles O5: each service answers as its lemma says, on the package whose mailbox has taken the slot. -/
theorem configurationTransactionsOpenStageAndRead : Obligations.ConfigurationTransactionsOpenStageAndRead := by
  unfold Obligations.ConfigurationTransactionsOpenStageAndRead
  refine ⟨?pasture, ?package, ?set, ?get, ?getInForce⟩
  case pasture =>
    intro s c p hd hh hscope hs hp hfree hr
    rw [← s.dev.nextHandle_took c 0x0101]
    refine exec_accepts (exec_cfgBegin c s) hd (svcCfgBegin_pasture hh hscope ?_ ?_ ?_ ?_)
    all_goals simpa only [Dev.took_stopped, Dev.took_namedPasture, Dev.took_txns, Dev.took_handlesLeft]
  case package =>
    intro s c hd hh hscope hf hs hp hfree hr
    rw [← s.dev.nextHandle_took c 0x0101]
    refine exec_accepts (exec_cfgBegin c s) hd (svcCfgBegin_package hh hscope hf ?_ hp ?_ ?_)
    all_goals simpa only [Dev.took_stopped, Dev.took_txns, Dev.took_handlesLeft]
  case set =>
    intro s c h n t hd hn hlo hhi hh hs hnamed ht hp hkeys staged hst hlen
    refine exec_answers _ (exec_cfgSet c s) hd (svcCfgSet_ok hn hlo hhi hh ?_ ?_ ?_ hp hkeys hst hlen)
    all_goals simpa only [Dev.took_stopped, Dev.took_namedHandle, Dev.took_txnOf]
  case get =>
    intro s c h n p t hd hn hlo hhi hh h0 hnamed ht hp hkeys
    have hsvc := svcCfgGet_ok (d := s.dev.took c 0x0103) (p := p) hn hlo hhi hh hkeys
      (.inr ⟨t, h0, namedTxn_ok (by rwa [Dev.took_namedHandle]) (by rwa [Dev.took_txnOf]), rfl⟩) rfl
      (fun i hi hk => by rw [Dev.took_pastureOf]; exact hp i hi hk)
    simp only [Dev.took_keyShown, Dev.txnOf_handle ht] at hsvc
    exact exec_answers _ (exec_cfgGet c s) hd hsvc
  case getInForce =>
    intro s c n p hd hn hlo hhi hh h0 hp hkeys
    have hsvc := svcCfgGet_ok (d := s.dev.took c 0x0103) (p := p) hn hlo hhi hh hkeys (.inl ⟨h0, rfl⟩) rfl
      (fun i hi hk => by rw [Dev.took_pastureOf]; exact hp i hi hk)
    simp only [Dev.took_keyShown] at hsvc
    exact exec_answers id (exec_cfgGet c s) hd hsvc

/-- Settles O18: each service answers as its `_ok` lemma says, on the package whose mailbox has taken the slot. -/
theorem meteringAndFaultCommandsActAsAccepted : Obligations.MeteringAndFaultCommandsActAsAccepted := by
  unfold Obligations.MeteringAndFaultCommandsActAsAccepted
  refine ⟨?tally, ?log, ?query, ?ack, ?unknown⟩
  case tally =>
    intro s c data hd hh hbuf hdata hlen hr
    exact exec_acceptsData (exec_tallyRead c s) hd hr (svcTallyRead_ok hh hbuf (by rw [Dev.took_mirror, Dev.took_sees, hdata]) hlen)
  case log =>
    intro s c l hd hh hf hbuf hl hfit hr
    refine exec_acceptsData (exec_tallyLogRead c s) hd (hf ▸ hr) ?_
    rw [svcTallyLogRead_ok hh hf hbuf, Dev.took_tally, ← hl, Dev.answerItems_fitting false hfit]
    rfl
  case query =>
    intro s c l hd hh hbuf hl hfit hr
    refine exec_acceptsData (exec_faultQuery c s) hd hr ?_
    simp only [svcFaultQuery_ok hh hbuf, Dev.took_faults, Dev.took_seesFault]
    rw [← hl, Dev.answerItems_fitting false hfit]
    rfl
  case ack =>
    intro s c hd hh h0 hlast hsees
    refine exec_answers _ (exec_faultAck c s) hd (svcFaultAck_ok hh h0 ?_ ?_)
    all_goals simpa only [Dev.took_faults, Dev.took_faultOf, Dev.took_seesFault]
  case unknown =>
    intro s c op hd hop
    have hserve : unknownOpcode s.dev c op = s.dev.serve c op svcUnknown := if_neg (by simpa using hop)
    rw [exec_unknownOpcode, hserve, Dev.serve_refused hd rfl]

end Sys2Proof.Machine
end

section
/-! SUPPORT. What the metrology port answers, the places of a live record's fields, and what a change of a legal parameter or of the clock
leaves of the Tally (R409, R413, R414). -/

namespace Sys2Proof.Machine

open Sys2Proof

/-! What the commands answer. -/

theorem exec_readId (b : Bool) (s : State) : exec (.readId b) s = .next (s.on (readId s.dev b)) := rfl
theorem exec_readLive (n : Nat) (b : Bool) (s : State) : exec (.readLive n b) s = .next (s.on (readLive s.dev n b)) := rfl
theorem exec_readInterval (n q : Nat) (b : Bool) (s : State) : exec (.readInterval n q b) s = .next (s.on (readInterval s.dev n q b)) := rfl
theorem exec_readAudit (e : Nat) (b : Bool) (s : State) : exec (.readAudit e b) s = .next (s.on (readAudit s.dev e b)) := rfl
theorem exec_readEvent (i : Nat) (b : Bool) (s : State) : exec (.readEvent i b) s = .next (s.on (readEvent s.dev i b)) := rfl
theorem exec_readCert (o l : Nat) (b : Bool) (s : State) : exec (.readCert o l b) s = .next (s.on (readCert s.dev o l b)) := rfl
theorem exec_setParam (p v : Nat) (data : List Byte) (b : Bool) (s : State) :
    exec (.setParam p v data b) s = .next (s.on (setParam s.dev p v data b)) := rfl
theorem exec_setTime (time : Nat) (b : Bool) (s : State) : exec (.setTime time b) s = .next (s.on (setTime s.dev time b)) := rfl

/-! The port (R413, R418). -/

section
variable {d : Dev}

/-- A Tally that runs, is not FAILED and signs no record answers. -/
theorem Dev.metrology_answers (hup : d.tally.up = true) (hf : d.tally.failed = false) (always : Bool) (f : Dev → Dev) :
    d.metrology always false f = f d := by
  simp [Dev.metrology, hup, hf]

/-- One that signs a record is BUSY. -/
theorem Dev.metrology_busy (hup : d.tally.up = true) (hf : d.tally.failed = false) (always : Bool) (f : Dev → Dev) :
    d.metrology always true f = d.emit (.metrology mBusy [] []) := by
  simp [Dev.metrology, hup, hf]

/-- One that does not run, or is FAILED, does not answer what only a sound Tally does. -/
theorem Dev.metrology_silent (h : d.tally.up = false ∨ d.tally.failed = true) (busy : Bool) (f : Dev → Dev) :
    d.metrology false busy f = d := by
  rcases h with h | h <;> simp [Dev.metrology, h]

end

section
variable {s : State} (hup : s.dev.tally.up = true) (hf : s.dev.tally.failed = false)
include hup hf

/-- A parameter that is set answers its status and takes effect on the Tally alone. -/
theorem exec_setParam_answers {p v : Nat} {data : List Byte} {st : Nat} {t : Tally}
    (h : s.dev.tally.setParam s.dev.fuses.variant p v data = (st, t)) :
    exec (.setParam p v data false) s = .next (s.on ({ s.dev with tally := t }.emit (.metrology st [] []))) := by
  rw [exec_setParam, setParam, Dev.metrology_answers hup hf, h]

theorem exec_setTime_answers {time st : Nat} {t : Tally} (h : s.dev.tally.setTime time = (st, t)) :
    exec (.setTime time false) s = .next (s.on ({ s.dev with tally := t }.emit (.metrology st [] []))) := by
  rw [exec_setTime, setTime, Dev.metrology_answers hup hf, h]

end

/-! Records (R409, R414). -/

/-- A signature takes 96 bytes. -/
theorem tallySign_length (body : List Byte) : (tallySign body).length = 96 := padTo_length _ _

/-- A number read where its bytes stand. -/
theorem rdLE_leBytes_here {v k : Nat} {bs : List Byte} (hv : v < 256 ^ k) : rdLE (leBytes v k ++ bs) 0 k = v := by
  have hk : (leBytes v k).length = k := leBytes_length v k
  rw [rdLE, slice, List.drop_zero, List.take_append_of_le_length (Nat.le_of_eq hk.symm), List.take_of_length_le (Nat.le_of_eq hk),
    leNat_leBytes v k hv]

/-- A number read past the field before it. -/
theorem rdLE_leBytes_past {v j off k : Nat} {bs : List Byte} (h : j ≤ off) : rdLE (leBytes v j ++ bs) off k = rdLE bs (off - j) k := by
  rw [rdLE, rdLE, slice, slice, List.drop_append, List.drop_of_length_le (by rwa [leBytes_length]), List.nil_append, leBytes_length]

section
variable (t : Tally) (n : Nat)

theorem Tally.liveRecord_length (h : 2 ≤ t.romId.length) : (t.liveRecord n).length = 160 := by
  simp only [Tally.liveRecord, Tally.energyRecord, List.length_append, leBytes_length, tallySign_length, List.length_take]
  omega

/-- The first fields of a live record, in their order (R409). -/
theorem Tally.liveRecord_fields : ∃ flags rest, t.liveRecord n =
    leBytes 3 1 ++ (leBytes n 1 ++ (leBytes flags 2 ++ (leBytes 0xFFFFFFFF 4 ++ (leBytes t.clock 8 ++ (leBytes t.intervalSecs 4 ++
      (leBytes t.auditCount 4 ++ (leBytes (t.domain n).ereg 8 ++ rest))))))) := ⟨t.flags n false, _, rfl⟩

end

/-! Changes of legal parameters and of the clock (R414). -/

/-- `e` is `t` with one accepted change more: its audit record is stored under the counter's new value, and the registers, the records and
the clock stay. -/
def Tally.Audited (t e : Tally) : Prop :=
  e.auditCount = t.auditCount + 1 ∧ (∃ r, Tab.get? e.audits e.auditCount = some r ∧ r.length = 128) ∧ e.domains = t.domains ∧
    e.records = t.records ∧ e.clock = t.clock

theorem Tally.audited_audit (t : Tally) (p old new : Nat) : t.Audited (t.audit p old new) := by
  refine ⟨rfl, ⟨_, Tab.get?_put_same _ _ _, ?_⟩, rfl, rfl, rfl⟩
  simp only [List.length_append, leBytes_length, tallySign_length]

section
variable {t : Tally} {variant p v : Nat} {data : List Byte}

theorem Tally.setParam_logFull (hl : t.logFull = true) : t.setParam variant p v data = (mLogFull, t) := by
  simp [Tally.setParam, Tally.setTime, hl]

section
variable (hl : t.logFull = false)
include hl

theorem Tally.setParam_sealClosed (hp : p ≠ 0x09) (hs : t.sealOpen = false) : t.setParam variant p v data = (mSealClosed, t) := by
  simp [Tally.setParam, hl, hp, hs]

section
variable (hs : t.sealOpen = true)
include hs

/-- A calibration record is taken, unless the variant or the number of records bars it (R403, R414). -/
theorem Tally.setParam_cal : t.setParam variant 0x01 v data = if variant = 2 ∨ 15 ≤ t.calRec then (mLocked, t)
    else (mOk, { t.audit 1 t.calRec (t.calRec + 1) with cals := t.cals ++ [data] }) := by
  simp [Tally.setParam, hl, hs]

/-- An interval length waits for the interval's end (R406, R414). -/
theorem Tally.setParam_interval : t.setParam variant 0x02 v data = if v ∈ [60, 300, 900, 3600] then
    (mOk, { t.audit 2 (t.intervalNext.getD t.interval) v with intervalNext := some v }) else (mRange, t) := by
  simp [Tally.setParam, hl, hs]

theorem Tally.setParam_pulseDomain (hlo : 3 ≤ p) (hhi : p ≤ 5) : t.setParam variant p v data = if v ≤ 17 then
    (mOk, (t.audit p (t.pulse (p - 3)).domain v).setPulse (p - 3) (fun x => { x with domain := v })) else (mRange, t) := by
  rw [Tally.setParam, if_neg (by omega), if_neg (by simp [hl]), if_neg (by simp [hs]), if_neg (by omega), if_neg (by omega),
    if_pos (by simp [hlo, hhi])]

theorem Tally.setParam_pulseConst (hlo : 6 ≤ p) (hhi : p ≤ 8) : t.setParam variant p v data = if 1 ≤ v ∧ v ≤ 100000 then
    (mOk, (t.audit p (t.pulse (p - 6)).const v).setPulse (p - 6) (fun x => { x with const := v })) else (mRange, t) := by
  rw [Tally.setParam, if_neg (by omega), if_neg (by simp [hl]), if_neg (by simp [hs]), if_neg (by omega), if_neg (by omega),
    if_neg (by simp; omega), if_pos (by simp [hlo, hhi])]
  simp only [Bool.and_eq_true, decide_eq_true_eq]

theorem Tally.setParam_unknown (h : p = 0 ∨ 9 < p) : t.setParam variant p v data = (mRange, t) := by
  rw [Tally.setParam, if_neg (by omega), if_neg (by simp [hl]), if_neg (by simp [hs]), if_neg (by omega), if_neg (by omega),
    if_neg (by simp; omega), if_neg (by simp; omega)]

/-- A value within its parameter's range is taken with its audit record. -/
theorem Tally.setParam_takes (h : (p = 1 ∧ variant ≠ 2 ∧ t.calRec < 15) ∨ (p = 2 ∧ v ∈ [60, 300, 900, 3600]) ∨ (3 ≤ p ∧ p ≤ 5 ∧ v ≤ 17) ∨
    (6 ≤ p ∧ p ≤ 8 ∧ 1 ≤ v ∧ v ≤ 100000)) : ∃ e, t.setParam variant p v data = (mOk, e) ∧ t.Audited e ∧
      (p = 1 → e.cals = t.cals ++ [data]) ∧ (p = 2 → e.intervalNext = some v ∧ e.interval = t.interval) := by
  rcases h with ⟨rfl, hvar, hcal⟩ | ⟨rfl, hv⟩ | ⟨hlo, hhi, hv⟩ | ⟨hlo, hhi, hv⟩
  · exact ⟨_, (Tally.setParam_cal hl hs).trans (if_neg (by omega)), t.audited_audit _ _ _, fun _ => rfl, fun h => absurd h (by decide)⟩
  · exact ⟨_, (Tally.setParam_interval hl hs).trans (if_pos hv), t.audited_audit _ _ _, fun h => absurd h (by decide), fun _ => ⟨rfl, rfl⟩⟩
  · exact ⟨_, (Tally.setParam_pulseDomain hl hs hlo hhi).trans (if_pos hv), t.audited_audit _ _ _, fun h => by omega, fun h => by omega⟩
  · exact ⟨_, (Tally.setParam_pulseConst hl hs hlo hhi).trans (if_pos hv), t.audited_audit _ _ _, fun h => by omega, fun h => by omega⟩

/-- Any other value is out of range. -/
theorem Tally.setParam_range (h : p = 2 ∧ v ∉ [60, 300, 900, 3600] ∨ (3 ≤ p ∧ p ≤ 5 ∧ 17 < v) ∨ (6 ≤ p ∧ p ≤ 8 ∧ (v = 0 ∨ 100000 < v)) ∨
    p = 0 ∨ 9 < p) : t.setParam variant p v data = (mRange, t) := by
  rcases h with ⟨rfl, hv⟩ | ⟨hlo, hhi, hv⟩ | ⟨hlo, hhi, hv⟩ | h
  · rw [Tally.setParam_interval hl hs, if_neg hv]
  · rw [Tally.setParam_pulseDomain hl hs hlo hhi, if_neg (by omega)]
  · rw [Tally.setParam_pulseConst hl hs hlo hhi, if_neg (by omega)]
  · exact Tally.setParam_unknown hl hs h

end
end

variable {time : Nat}


/-- An event is recorded, and nothing else changes. -/
theorem Tally.event_frame (t : Tally) (k : EventKind) (n : Option Nat) (a b : Nat) :
    ∃ l, t.event k n a b = { t with eventNext := t.eventNext + 1, events := l } := ⟨_, rfl⟩

theorem Tally.setTime_logFull (hl : t.logFull = true) : t.setTime time = (mLogFull, t) := if_pos hl

section
variable (hl : t.logFull = false) (ht : time < 2 ^ 64)
include hl ht

/-- A clock that is UNSET, or whose seal is open, takes any time, with an audit record (R414). -/
theorem Tally.setTime_set (h : t.clockSet = false ∨ t.sealOpen = true) :
    t.setTime time = (mOk, (t.audit 0x09 t.clock time).setClock time) := by
  rw [Tally.setTime, if_neg (by simp [hl]), if_neg (Nat.not_le.2 ht), if_pos]
  rcases h with h | h <;> simp [h]

section
variable (hset : t.clockSet = true) (hs : t.sealOpen = false)
include hset hs

/-- A synchronisation of at most 2 s is taken once a day, with an event and no audit record (R414). -/
theorem Tally.setTime_sync (hlo : time ≤ t.clock + 2) (hhi : t.clock ≤ time + 2) (hw : t.syncWait = 0) :
    ∃ e, t.setTime time = (mOk, e) ∧ e.clock = time ∧ e.syncWait = 86400 ∧ e.auditCount = t.auditCount ∧ e.eventNext = t.eventNext + 1 := by
  obtain ⟨l, hl'⟩ := t.event_frame .sync none t.clock time
  refine ⟨{ ({ t with eventNext := t.eventNext + 1, events := l } : Tally).setClock time with syncWait := 86400 }, ?_, rfl, rfl, rfl, rfl⟩
  rw [← hl', Tally.setTime, if_neg (by simp [hl]), if_neg (Nat.not_le.2 ht), if_neg (by simp [hset, hs]), if_pos (by simp [hw]; omega)]

theorem Tally.setTime_sealClosed (h : t.clock + 2 < time ∨ time + 2 < t.clock ∨ t.syncWait ≠ 0) : t.setTime time = (mSealClosed, t) := by
  rw [Tally.setTime, if_neg (by simp [hl]), if_neg (Nat.not_le.2 ht), if_neg (by simp [hset, hs]), if_neg (by simp; omega)]

end
end
end

end Sys2Proof.Machine
end

section
/-! The statement on the metrology port. -/

namespace Sys2Proof.Machine

open Sys2Proof

/-- Settles O58: a Tally that can answer does so by `Dev.metrology`, and a change of a parameter or of the clock by its lemma. -/
theorem metrologyPortReadsAndSetsUnderTheSeal : Obligations.MetrologyPortReadsAndSetsUnderTheSeal := by
  unfold Obligations.MetrologyPortReadsAndSetsUnderTheSeal
  refine ⟨?reads, ?record, ?param, ?logFull, ?clock, ?busy, ?silent⟩
  case reads =>
    intro s n seq a hup hf
    simp only [exec_readId, exec_readLive, exec_readInterval, exec_readAudit, exec_readEvent, exec_readCert, readId, readLive, readInterval,
      readAudit, readEvent, readCert, Dev.metrology_answers hup hf, true_and]
    refine ⟨fun hn => by rw [if_pos hn], fun hn => ?_, fun hn hseq => ?_, rfl, fun ha => ?_, fun ha => ?_⟩
    · rw [if_neg (Nat.not_lt.2 hn), if_neg (Nat.not_lt.2 hn)]
      exact ⟨rfl, rfl⟩
    · rw [if_pos hn, if_pos hseq]
      rfl
    · rw [if_pos ha]
      rfl
    · rw [if_neg (Nat.not_le.2 ha)]
  case record =>
    intro t n hrom hn hclk hreg
    obtain ⟨flags, rest, h⟩ := t.liveRecord_fields n
    refine ⟨t.liveRecord_length n hrom, ?_⟩
    rw [h]
    refine ⟨?_, ?_, ?_, ?_, ?_⟩ <;>
      simp (disch := omega) only [rdLE_leBytes_past, rdLE_leBytes_here, Nat.reduceSub]
  case param =>
    intro s p v data hup hf hl hp
    refine ⟨fun hs => exec_setParam_answers hup hf (Tally.setParam_sealClosed hl hp hs), fun hs => ⟨fun h => ?_,
      fun h => exec_setParam_answers hup hf (Tally.setParam_range hl hs h), ?_⟩⟩
    · obtain ⟨e, he, ⟨hcount, ⟨r, hr, hlen⟩, hdom, hrec, hclk⟩, hcal, hint⟩ :=
        Tally.setParam_takes (variant := s.dev.fuses.variant) (data := data) hl hs h
      exact ⟨e, r, exec_setParam_answers hup hf he, hcount, hr, hlen, hdom, hrec, hclk, hcal, hint⟩
    · rintro rfl hlock
      exact exec_setParam_answers hup hf ((Tally.setParam_cal hl hs).trans (if_pos hlock))
  case logFull =>
    intro s p v time data hup hf hl
    exact ⟨exec_setParam_answers hup hf (Tally.setParam_logFull hl), exec_setTime_answers hup hf (Tally.setTime_logFull hl)⟩
  case clock =>
    intro s time hup hf hl ht
    refine ⟨fun h => ?_, fun hset hs => ⟨fun hlo hhi hw => ?_, fun h => ?_⟩⟩
    · obtain ⟨-, ⟨r, hr, -⟩, -⟩ := s.dev.tally.audited_audit 0x09 s.dev.tally.clock time
      exact ⟨_, exec_setTime_answers hup hf (Tally.setTime_set hl ht h), rfl, rfl, rfl, Option.isSome_iff_exists.2 ⟨r, hr⟩⟩
    · obtain ⟨e, he, hrest⟩ := Tally.setTime_sync hl ht hset hs hlo hhi hw
      exact ⟨e, exec_setTime_answers hup hf he, hrest⟩
    · exact exec_setTime_answers hup hf (Tally.setTime_sealClosed hl ht hset hs h)
  case busy =>
    intro s n a time data hup hf
    simp only [List.forall_mem_cons, exec_readId, exec_readLive, exec_readInterval, exec_readAudit, exec_readEvent, exec_readCert,
      exec_setParam, exec_setTime, readId, readLive, readInterval, readAudit, readEvent, readCert, setParam, setTime,
      Dev.metrology_busy hup hf, List.not_mem_nil, false_implies, implies_true, and_self]
  case silent =>
    intro s n a time data b h
    simp only [List.forall_mem_cons, exec_readLive, exec_readInterval, exec_readAudit, exec_readCert, exec_setParam, exec_setTime, readLive,
      readInterval, readAudit, readCert, setParam, setTime, Dev.metrology_silent h, State.on_dev_self, List.not_mem_nil, false_implies,
      implies_true, and_self]

end Sys2Proof.Machine
end

section
/-! SUPPORT. How BRACE begins and ends, what a package reset and its release leave, how the governor evaluates, and which responses a
reading of the temperatures sets (R394, R395, R457 to R468). -/

namespace Sys2Proof.Machine

open Sys2Proof

/-! What the commands answer. -/

theorem exec_uvWarn (mv : Nat) (s : State) : exec (.uvWarn mv) s = .next (s.on (uvWarn s.dev mv)) := rfl
theorem exec_uvWarnClear (mv us : Nat) (s : State) : exec (.uvWarnClear mv us) s = .next (s.on (uvWarnClear s.dev mv us)) := rfl
theorem exec_dipTimerExpire (s : State) : exec .dipTimerExpire s = .next (s.on (dipTimerExpire s.dev)) := rfl
theorem exec_orderlyHalt (s : State) : exec .orderlyHalt s = .next (s.on (orderlyHalt s.dev)) := rfl
theorem exec_uvReset (s : State) : exec .uvReset s = .next (s.on (uvReset s.dev)) := rfl
theorem exec_ovReset (s : State) : exec .ovReset s = .next (s.on (ovReset s.dev)) := rfl
theorem exec_auxFail (s : State) : exec .auxFail s = .next (s.on (auxFail s.dev)) := rfl
theorem exec_ztResetN (ns : Nat) (s : State) : exec (.ztResetN ns) s = .next (s.on (ztResetN s.dev ns)) := rfl
theorem exec_thermalTrip (s : State) : exec .thermalTrip s = .next (s.on (thermalTrip s.dev)) := rfl
theorem exec_thermalRead (dies stk : List Nat) (s : State) : exec (.thermalRead dies stk) s = .next (s.on (thermalRead s.dev dies stk)) := rfl
theorem exec_governorEvaluation (w cv : Nat) (s : State) :
    exec (.governorEvaluation w cv) s = .next (s.on (governorEvaluation s.dev w cv)) := rfl
theorem exec_resetRelease (boot beat met : Bool) (i3c : Nat) (s : State) :
    exec (.resetRelease boot beat met i3c) s = .next (s.on (resetRelease s.dev boot beat met i3c)) := rfl
theorem exec_refclkDetected (s : State) : exec .refclkDetected s = .next (s.on (refclkDetected s.dev)) := rfl

/-! A change of what the effective cap and the ceiling rest on (R394, R395). -/

section
variable (p : Power) (f : Power → Power)

/-- A change does to the power state what `f` does, but for the governor's count and the frequency. -/
theorem Power.change_frame : ∃ n q, p.change f = { f p with govCount := n, freq := q } := by
  unfold Power.change
  dsimp only
  split_ifs <;> exact ⟨_, _, rfl⟩

/-- What rests on neither the governor's count nor the frequency is after a change what `f` makes it. -/
theorem Power.change_eq {α : Type} (g : Power → α) (hg : ∀ (p : Power) (n q : Nat), g { p with govCount := n, freq := q } = g p) :
    g (p.change f) = g (f p) := by
  obtain ⟨n, q, h⟩ := p.change_frame f
  rw [h]
  exact hg _ n q

/-- A frequency within the ceiling stays within it, where the change itself sets none (R395). -/
theorem Power.freq_change_le (hf : (f p).freq = p.freq) (h : p.freq ≤ p.ceiling) : (p.change f).freq ≤ (f p).ceiling := by
  unfold Power.change
  dsimp only
  split_ifs with hsame hfall hcap hcap
  · omega
  · exact (Nat.min_le_left _ _).trans (Nat.min_le_right _ _)
  · exact Nat.min_le_right _ _
  · have hrise : ¬ (f p).ceiling < p.ceiling := hfall
    exact (Nat.min_le_left _ _).trans (show (f p).freq ≤ _ by omega)
  · have hrise : ¬ (f p).ceiling < p.ceiling := hfall
    show (f p).freq ≤ _
    omega

end

/-! BRACE (R458, R460 to R462). -/

/-- The power state as BRACE begins, at a supply of `mv` (R458). -/
def Power.enterBrace (mv : Nat) (p : Power) : Power :=
  { p with st := .brace, braceFrom := p.st, dip := true, haltDue := false, dipMin := mv, braceCap := p.cap / 2 }

theorem Power.cap_enterBrace (mv : Nat) (p : Power) : (p.enterBrace mv).cap ≤ p.cap / 2 := Nat.min_le_right _ _

theorem Power.ceiling_enterBrace (mv : Nat) (p : Power) : (p.enterBrace mv).ceiling ≤ 11 := by
  have hmin : min (clockFreq p.clockInForce) 11 ≤ 11 := Nat.min_le_right _ _
  show (if p.hot105 then min (min (clockFreq p.clockInForce) 11) 6 else min (clockFreq p.clockInForce) 11) ≤ 11
  split_ifs
  · exact (Nat.min_le_left _ _).trans hmin
  · exact hmin

section
variable {d : Dev} {mv us : Nat}

theorem uvWarn_enters (h : d.power.st = .starting ∨ d.power.st = .run) :
    uvWarn d mv = { d with tap := d.tap.drop true, power := d.power.change (Power.enterBrace mv) } := by
  rcases h with h | h <;> (unfold uvWarn; dsimp only; rw [h]; rfl)

theorem uvWarn_brace (h : d.power.st = .brace) :
    uvWarn d mv = { d with tap := d.tap.drop true, power := { d.power with dipMin := min d.power.dipMin mv } } := by
  unfold uvWarn; dsimp only; rw [h]

theorem uvWarn_elsewhere (h : d.power.st ≠ .starting) (h' : d.power.st ≠ .run) (h'' : d.power.st ≠ .brace) :
    uvWarn d mv = { d with tap := d.tap.drop true } := by
  unfold uvWarn
  dsimp only
  split <;> simp_all

/-- The power state as BRACE ends after a dip of `us` us with the minimum `mv` (R460). -/
def Dev.leaveBrace (d : Dev) (mv us : Nat) (p : Power) : Power :=
  { p with
    st := p.braceFrom, dip := false, braceCap := 0, capInForce := d.key kPowerCap, clockInForce := d.key kClock
    dipCount := satAdd 16 p.dipCount 1, dipMinMv := min d.power.dipMin mv % 2 ^ 16, dipDurUs := us % 2 ^ 32 }

theorem uvWarnClear_inTime (hst : d.power.st = .brace) (hdip : d.power.dip = true) (hdue : d.power.haltDue = false) : uvWarnClear d mv us =
    ({ d with tap := d.tap.powered, power := d.power.change (d.leaveBrace mv us) } : Dev).event 0 2 1 := by
  rw [uvWarnClear, if_pos (by simp [hst, hdip, hdue])]
  rfl

theorem uvWarnClear_tooLate (hdip : d.power.dip = true) (hdue : d.power.haltDue = true) : uvWarnClear d mv us =
    { d with tap := d.tap.powered, power := { d.power with dipMin := min d.power.dipMin mv } } := by
  rw [uvWarnClear, if_neg (by simp [hdue])]
  simp only [hdip, if_true]

theorem dipTimerExpire_brace (hst : d.power.st = .brace) (hdip : d.power.dip = true) :
    dipTimerExpire d = { d with power := { d.power with haltDue := true } } := if_pos (by simp [hst, hdip])

theorem dipTimerExpire_elsewhere (h : d.power.st ≠ .brace) : dipTimerExpire d = d := if_neg (by simp [h])

theorem orderlyHalt_idle (h : d.power.st ≠ .brace ∨ d.power.haltDue = false) : orderlyHalt d = d := by
  rw [orderlyHalt, if_pos]
  rcases h with h | h <;> simp [h]

/-- The halt ends every request, transaction and Calendar entry, and leaves the stacks (R461, R470). -/
theorem orderlyHalt_halts (hst : d.power.st = .brace) (hdue : d.power.haltDue = true) :
    (orderlyHalt d).power.st = .halted ∧ (orderlyHalt d).power.code = 0x13 ∧ (orderlyHalt d).power.ready = false ∧
      (orderlyHalt d).reqs = [] ∧ (orderlyHalt d).txns = [] ∧ (orderlyHalt d).cal = [] ∧ (orderlyHalt d).mem = d.mem := by
  have hmem : d.SameMemories (orderlyHalt d) := by
    rw [orderlyHalt, if_neg (by simp [hst, hdue])]
    exact (Dev.SameMemories.abortActs d _ _).trans ((Dev.SameMemories.foldl (fun d (q : Nat × Group) => Dev.SameMemories.leaveNotice d q.1) _ _).trans
      ((Dev.SameMemories.foldl (fun d h => Dev.SameMemories.finish d h _ _) _ _).trans ⟨rfl, rfl, rfl, rfl⟩))
  refine ⟨?_, ?_, ?_, ?_, ?_, ?_, hmem.1⟩ <;> rw [orderlyHalt, if_neg (by simp [hst, hdue])]

end

/-! Package resets and their release (R465 to R469, R484). -/

section
variable {d : Dev}

theorem Dev.resetBy_running (h : d.power.inReset = false) (c : Nat) : d.resetBy c = d.packageReset c := if_neg (by simp [h])

theorem Dev.resetBy_inReset (h : d.power.inReset = true) (c : Nat) : d.resetBy c = d := if_pos h

theorem ztResetN_long {ns : Nat} (h : 10000 ≤ ns) : ztResetN d ns = d.resetBy 2 := by
  rw [ztResetN, if_neg (by omega), if_pos h]

theorem ztResetN_short {ns : Nat} (h : ns < 1000) : ztResetN d ns = d := if_pos h

/-- A pulse of 1 us to 10 us may reset (R465). -/
theorem ztResetN_between {ns : Nat} (hlo : 1000 ≤ ns) (hhi : ns < 10000) : ztResetN d ns = { d with draws := d.draws + 1 } ∨
    ztResetN d ns = ({ d with draws := d.draws + 1 } : Dev).resetBy 2 := by
  rw [ztResetN, if_neg (by omega), if_neg (by omega)]
  dsimp only [Dev.draw]
  split_ifs
  · exact .inr rfl
  · exact .inl rfl

theorem auxFail_lost (h : d.power.auxGood = false) : auxFail d = d := if_pos (by simp [h])

/-- The last save changes the Tally alone, which stops (R407). -/
theorem tallyAuxLowSave_frame (d : Dev) : ∃ t, tallyAuxLowSave d = { d with tally := t } ∧ t.up = false := by
  unfold tallyAuxLowSave
  cases hup : d.tally.up
  · exact ⟨d.tally, rfl, hup⟩
  · exact ⟨{ d.tally.save with up := false, dynAddr := none }, rfl, rfl⟩

/-- AUX fail resets the package and stops the Tally (R407, R457, R495). -/
theorem auxFail_resets (hg : d.power.auxGood = true) (hr : d.power.inReset = false) :
    (auxFail d).power.inReset = true ∧ (auxFail d).power.auxGood = false ∧ (auxFail d).power.st = .off ∧ (auxFail d).aux.causes = 2 ^ 6 ∧
      (auxFail d).tally.up = false ∧ (auxFail d).fuses = { d.fuses with updating := false } ∧ (auxFail d).mem = [] := by
  rw [auxFail, if_neg (by simp [hg])]
  obtain ⟨t, h, ht⟩ := tallyAuxLowSave_frame
    ({ d with power := { d.power with auxGood := false }, aux := { d.aux with auxFailLatch := true } } : Dev)
  dsimp only
  rw [h, Dev.resetBy_running (by exact hr)]
  exact ⟨rfl, rfl, rfl, rfl, ht, rfl, rfl⟩

theorem resetRelease_held (boot beat met : Bool) (i3c : Nat) (h : d.power.auxGood = false) : resetRelease d boot beat met i3c = d :=
  if_pos (by simp [h])

theorem resetRelease_starts (boot beat met : Bool) (i3c : Nat) (hr : d.power.inReset = true) (hg : d.power.auxGood = true) :
    resetRelease d boot beat met i3c = { d with
      power := {}
      tap := (d.tap.drop false).powered
      aux := { d.aux with strapBoot := boot, strapBeat := beat, strapMet := met, strapI3c := i3c % 4 } } := if_neg (by simp [hr, hg])

end

/-! The governor (R395). -/

section
variable {d : Dev} {w cv : Nat}

theorem Power.governs_iff (p : Power) : p.governs = true ↔ p.st = .run ∨ p.st = .brace ∧ p.braceFrom = .run := by
  simp [Power.governs]

theorem governorEvaluation_idle (h : d.power.governs = false) : governorEvaluation d w cv = d := if_neg (by simp [h])

/-- An evaluation that raises no event changes the power state alone. -/
theorem governorEvaluation_quiet (hg : d.power.governs = true) (h : d.power.freq ≠ 6 ∨ 8 * w ≤ d.power.cap) :
    governorEvaluation d w cv = { d with power :=
      { d.power.evaluate w with vinCv := cv % 2 ^ 16, overCount := 0, unmet := false } } := by
  have hovr : (d.power.freq == 6 && decide (d.power.cap < 8 * w)) = false := by
    rcases h with h | h
    · simp [h]
    · simp [Nat.not_lt.2 h]
  rw [governorEvaluation, if_pos hg]
  simp only [hovr, Bool.false_eq_true, if_false]
  rfl

theorem Power.evaluate_down {p : Power} (hcap : p.cap < 8 * w) (hf : 6 < p.freq) :
    p.evaluate w = { p with avg := w, freq := p.freq - 1, govCount := 0 } := if_pos ⟨hcap, hf⟩

theorem Power.evaluate_lowest {p : Power} (hcap : p.cap < 8 * w) (hf : p.freq = 6) : p.evaluate w = { p with avg := w, govCount := 0 } := by
  have hdown : ¬ (({ p with avg := w } : Power).cap < 8 * w ∧ 6 < p.freq) := by omega
  have hup : ¬ (800 * w < 95 * ({ p with avg := w } : Power).cap ∧ p.freq < ({ p with avg := w } : Power).ceiling) := by
    have hcap' : ({ p with avg := w } : Power).cap < 8 * w := hcap
    omega
  exact (if_neg hdown).trans (if_neg hup)

theorem Power.evaluate_up {p : Power} (hcap : 800 * w < 95 * p.cap) (hf : p.freq < p.ceiling) : p.evaluate w =
    if p.govCount = 9 then { p with avg := w, freq := p.freq + 1, govCount := 0 } else { p with avg := w, govCount := p.govCount + 1 } := by
  have hdown : ¬ (({ p with avg := w } : Power).cap < 8 * w ∧ 6 < p.freq) := by
    have hcap' : 800 * w < 95 * ({ p with avg := w } : Power).cap := hcap
    omega
  refine (if_neg hdown).trans ((if_pos ⟨hcap, hf⟩).trans ?_)
  simp only [Nat.reduceEqDiff]

/-- The tenth evaluation in a row at 0.6 GHz above the cap raises POWER_CAP_UNMET. -/
theorem governorEvaluation_unmet (hg : d.power.governs = true) (hcap : d.power.cap < 8 * w) (hf : d.power.freq = 6)
    (ho : d.power.overCount = 9) (hu : d.power.unmet = false) : governorEvaluation d w cv =
      ({ d with power := { d.power with avg := w, govCount := 0, vinCv := cv % 2 ^ 16, overCount := 10, unmet := true } } : Dev).notice
        0x004C 63 63 31 (d.power.cap / 8) := by
  have hovr : (d.power.freq == 6 && decide (d.power.cap < 8 * w)) = true := by simp [hf, hcap]
  rw [governorEvaluation, if_pos hg]
  simp only [hovr, if_true, ho, hu, Power.evaluate_lowest hcap hf]
  rfl

end

/-! Heat (R464). -/

/-- The responses after a reading of the temperatures of the dies and of the stacks (R464). -/
def Power.heated (dies stk : List Nat) (p : Power) : Power :=
  let cool := if stk.all (· ≤ 90) then min (p.coolMs + 1) 1000 else 0
  { p with
    hotCap := if stk.any (95 < ·) then true else p.hotCap && decide (cool < 1000)
    coolMs := cool
    hot100 := if dies.any (100 ≤ ·) then true else p.hot100 && !dies.all (· < 95)
    hot105 := if dies.any (105 ≤ ·) then true else p.hot105 && !dies.all (· < 100) }

theorem thermalRead_eq (d : Dev) (dies stk : List Nat) :
    thermalRead d dies stk = { d with power := d.power.change (Power.heated dies stk) } := rfl

/-- A stack above 95 degrees cuts the cap to three quarters (R464). -/
theorem Power.cap_hotCap {p : Power} (h : p.hotCap = true) : p.cap ≤ p.baseCap * 3 / 4 := by
  have hmin := Nat.min_le_right p.baseCap (p.baseCap * 3 / 4)
  rw [Power.cap]
  simp only [h, if_true]
  split_ifs
  · exact (Nat.min_le_left _ _).trans hmin
  · exact hmin

/-- A junction of 105 degrees cuts the ceiling to 0.6 GHz (R464). -/
theorem Power.ceiling_hot105 {p : Power} (h : p.hot105 = true) : p.ceiling ≤ 6 := by
  rw [Power.ceiling]
  simp only [h, if_true]
  exact Nat.min_le_right _ _

section
variable {p : Power} {dies stk : List Nat}

theorem Power.hotCap_heated (h : ∃ t ∈ stk, 95 < t) : (Power.heated dies stk p).hotCap = true := if_pos (by simpa using h)

theorem Power.hot105_heated (h : ∃ t ∈ dies, 105 ≤ t) : (Power.heated dies stk p).hot105 = true := if_pos (by simpa using h)

theorem Power.hot100_heated (h : ∃ t ∈ dies, 100 ≤ t) : (Power.heated dies stk p).hot100 = true := if_pos (by simpa using h)

theorem Power.hot105_heated_cool (h : ∀ t ∈ dies, t < 100) : (Power.heated dies stk p).hot105 = false := by
  have hall : dies.all (· < 100) = true := by simpa using h
  have hnone : ¬ dies.any (105 ≤ ·) = true := by
    simp only [List.any_eq_true, decide_eq_true_eq, not_exists, not_and, not_le]
    exact fun t ht => (h t ht).trans (by decide)
  exact (if_neg hnone).trans (by simp [hall])

theorem Power.hot100_heated_cool (h : ∀ t ∈ dies, t < 95) : (Power.heated dies stk p).hot100 = false := by
  have hall : dies.all (· < 95) = true := by simpa using h
  have hnone : ¬ dies.any (100 ≤ ·) = true := by
    simp only [List.any_eq_true, decide_eq_true_eq, not_exists, not_and, not_le]
    exact fun t ht => (h t ht).trans (by decide)
  exact (if_neg hnone).trans (by simp [hall])

end

end Sys2Proof.Machine
end

section
/-! The statement on supply, heat and resets. -/

namespace Sys2Proof.Machine

open Sys2Proof

/-- Settles O55: each row by the lemma of its case; what BRACE and the heat set follows from `Power.change_eq`. -/
theorem supplyHeatAndResetsMoveThePackage : Obligations.SupplyHeatAndResetsMoveThePackage := by
  unfold Obligations.SupplyHeatAndResetsMoveThePackage
  refine ⟨?warn, ?clear, ?notBrace, ?causes, ?reset, ?held, ?down, ?up, ?idle, ?heat⟩
  case warn =>
    intro s mv
    refine ⟨fun h => ?_, fun h => by rw [exec_uvWarn, uvWarn_brace h], fun h h' h'' => by rw [exec_uvWarn, uvWarn_elsewhere h h' h'']⟩
    refine ⟨s.dev.power.change (Power.enterBrace mv), by rw [exec_uvWarn, uvWarn_enters h], ?_⟩
    have hset {α : Type} (g : Power → α) := s.dev.power.change_eq (Power.enterBrace mv) g
    have hfreq := s.dev.power.freq_change_le (Power.enterBrace mv) rfl
    refine ⟨hset Power.st fun _ _ _ => rfl, hset Power.braceFrom fun _ _ _ => rfl, hset Power.dip fun _ _ _ => rfl,
      hset Power.haltDue fun _ _ _ => rfl, hset Power.dipMin fun _ _ _ => rfl, ?_, ?_, fun hle => ?_⟩
    · rw [hset Power.cap fun _ _ _ => rfl]; exact Power.cap_enterBrace mv _
    · rw [hset Power.ceiling fun _ _ _ => rfl]; exact Power.ceiling_enterBrace mv _
    · exact (hfreq hle).trans (Power.ceiling_enterBrace mv _)
  case clear =>
    intro s mv us hst hdip
    refine ⟨fun hdue => ?_, by rw [exec_dipTimerExpire, dipTimerExpire_brace hst hdip], fun hdue => ⟨?_, ?_⟩, fun hdue => ?_⟩
    · refine ⟨s.dev.power.change (s.dev.leaveBrace mv us), by rw [exec_uvWarnClear, uvWarnClear_inTime hst hdip hdue], ?_⟩
      obtain ⟨n, q, hp⟩ := s.dev.power.change_frame (s.dev.leaveBrace mv us)
      rw [hp]
      exact ⟨rfl, rfl, rfl, rfl, rfl, rfl, rfl⟩
    · exact ⟨_, congrArg (fun d => Host.Outcome.next (s.on d)) (uvWarnClear_tooLate hdip hdue), hst, hdue⟩
    · exact ⟨_, exec_orderlyHalt s, orderlyHalt_halts hst hdue⟩
    · rw [exec_orderlyHalt, orderlyHalt_idle (.inr hdue), State.on_dev_self]
  case notBrace =>
    intro s h
    rw [exec_dipTimerExpire, exec_orderlyHalt, dipTimerExpire_elsewhere h, orderlyHalt_idle (.inl h), State.on_dev_self]
    exact ⟨rfl, rfl⟩
  case causes =>
    intro s ns hr
    refine ⟨?_, ?_, ?_, fun h => ?_, fun hlo hhi => ?_, fun h => ?_, fun hg => ⟨_, exec_auxFail s, auxFail_resets hg hr⟩, ?_⟩
    · rw [exec_uvReset, uvReset, Dev.resetBy_running (by exact hr)]
    · rw [exec_ovReset, ovReset, Dev.resetBy_running (by exact hr)]
    · rw [exec_thermalTrip, thermalTrip, Dev.resetBy_running (by exact hr)]
    · rw [exec_ztResetN, ztResetN_long h, Dev.resetBy_running hr]
    · rw [exec_ztResetN]
      rcases ztResetN_between (d := s.dev) hlo hhi with h | h
      · exact .inl (by rw [h])
      · exact .inr (by rw [h, Dev.resetBy_running (by exact hr)])
    · rw [exec_ztResetN, ztResetN_short h, State.on_dev_self]
    · rw [exec_refclkDetected, refclkDetected, if_neg (by simp [hr])]
  case reset =>
    intro d c
    exact ⟨rfl, rfl, rfl, rfl, rfl, rfl, rfl, rfl, rfl, rfl, rfl⟩
  case held =>
    intro s boot beat met i3c hr
    refine ⟨?_, ?_, fun hg => ⟨?_, ?_⟩, fun hg => ?_⟩
    · rw [exec_refclkDetected, refclkDetected, if_pos hr, State.on_dev_self]
    · rw [exec_uvReset, uvReset, Dev.resetBy_inReset (by exact hr)]
    · rw [exec_auxFail, auxFail_lost hg, State.on_dev_self]
    · rw [exec_resetRelease, resetRelease_held _ _ _ _ hg, State.on_dev_self]
    · exact ⟨_, congrArg (fun d => Host.Outcome.next (s.on d)) (resetRelease_starts _ _ _ _ hr hg), rfl, rfl, rfl, rfl, rfl, rfl, rfl, rfl⟩
  case down =>
    intro s w cv hgov hcap
    have hg := (Power.governs_iff _).2 hgov
    refine ⟨fun hf => ?_, fun hf ho hu => ?_⟩
    · exact ⟨_, by rw [exec_governorEvaluation, governorEvaluation_quiet hg (.inl (by omega)), Power.evaluate_down hcap hf], rfl, rfl, rfl, rfl⟩
    · exact ⟨_, congrArg (fun d => Host.Outcome.next (s.on d)) (governorEvaluation_unmet hg hcap hf ho hu), hf, rfl⟩
  case up =>
    intro s w cv hgov hcap hf
    have hg := (Power.governs_iff _).2 hgov
    refine ⟨_, by rw [exec_governorEvaluation, governorEvaluation_quiet hg (.inr (by omega)), Power.evaluate_up hcap hf], ?_⟩
    split_ifs <;> rfl
  case idle =>
    intro s w cv hrun hbrace
    have hg : s.dev.power.governs = false := by
      rw [Bool.eq_false_iff, Ne, Power.governs_iff]
      rintro (h | ⟨h, h'⟩)
      · exact hrun h
      · exact hbrace.elim (fun hb => hb h) (fun hb => hb h')
    rw [exec_governorEvaluation, governorEvaluation_idle hg, State.on_dev_self]
  case heat =>
    intro s dies stk
    refine ⟨s.dev.power.change (Power.heated dies stk), congrArg (fun d => Host.Outcome.next (s.on d)) (thermalRead_eq s.dev dies stk), ?_⟩
    have hset {α : Type} (g : Power → α) := s.dev.power.change_eq (Power.heated dies stk) g
    have h105 := hset Power.hot105 fun _ _ _ => rfl
    have h100 := hset Power.hot100 fun _ _ _ => rfl
    refine ⟨fun h => ⟨(hset Power.hotCap fun _ _ _ => rfl).trans (Power.hotCap_heated h), ?_⟩,
      fun h => ⟨h105.trans (Power.hot105_heated h), ?_⟩, fun h => h105.trans (Power.hot105_heated_cool h),
      fun h => h100.trans (Power.hot100_heated h), fun h => h100.trans (Power.hot100_heated_cool h)⟩
    · rw [hset Power.cap fun _ _ _ => rfl]; exact Power.cap_hotCap (Power.hotCap_heated h)
    · rw [hset Power.ceiling fun _ _ _ => rfl]; exact Power.ceiling_hot105 (Power.hot105_heated h)

end Sys2Proof.Machine
end

section
/-! SUPPORT. What a passing item leaves of the failure that waited for its retest, and what a spare array leaves of the array whose index it
takes, where the table's keys rise (R18, R428, R445, R446). -/

namespace Sys2Proof.Machine

open Sys2Proof

theorem exec_selfTestSlice (die core item index : Nat) (x : SliceFacts) (s : State) :
    exec (.selfTestSlice die core item index x) s = .next (s.on (selfTestSlice s.dev die core item index x)) := rfl
theorem exec_faultRecoveryDone (s : State) : exec .faultRecoveryDone s = .next (s.on (faultRecoveryDone s.dev)) := rfl

/-- A command answers the machine with one package only. -/
theorem State.dev_of_next_on {ρ φ : Type} {s : State} {d d' : Dev} (h : (Host.Outcome.next (s.on d) : Host.Outcome State ρ φ) = .next (s.on d')) :
    d = d' := by
  injection h with h
  exact congrArg State.dev h

/-- The failure of item `f` that waited for its retest has left the retests once `f` has passed (R446). -/
theorem Dev.retests_itemPasses {d : Dev} {f : ItemFail} {t : Retest}
    (hwait : Tab.get? d.fence.retests (retestKey (coreKey f.die f.core) f) = some t) :
    (d.itemPasses f).fence.retests = Tab.del d.fence.retests (retestKey (coreKey f.die f.core) f) := by
  obtain ⟨e, he⟩ := Dev.errAdd_frame
    { d with fence := { d.fence with retests := Tab.del d.fence.retests (retestKey (coreKey f.die f.core) f) } } f.die f.core 21 1
  unfold Dev.itemPasses
  simp only [hwait, he, apply_ite Dev.fence, apply_ite Fence.retests, ite_self]

/-- Where the keys of the retests rise, no failure of `f` waits after `f` has passed. -/
theorem Dev.not_waiting_itemPasses {d : Dev} {f : ItemFail} (hwf : Tab.wf d.fence.retests = true)
    (hwait : (Tab.get? d.fence.retests (retestKey (coreKey f.die f.core) f)).isSome = true) :
    Tab.get? (d.itemPasses f).fence.retests (retestKey (coreKey f.die f.core) f) = none := by
  obtain ⟨t, ht⟩ := Option.isSome_iff_exists.1 hwait
  rw [Dev.retests_itemPasses ht, Tab.get?_del _ _ _ hwf, if_pos rfl]

/-- Where the keys of the core's arrays rise, the array whose index a spare takes is at its reset values after it (R428). -/
theorem Dev.arrs_mapArray {d : Dev} {k a : Nat} (hwf : Tab.wf (d.core k).arrs = true) : Tab.get? ((d.mapArray k a).core k).arrs a = none := by
  unfold Dev.mapArray
  rw [Dev.core_modCore_same]
  exact (Tab.get?_del _ _ _ hwf).trans (if_pos rfl)

end Sys2Proof.Machine
end

section
/-! The statements on recoveries and on self-tests in service. -/

namespace Sys2Proof.Machine

open Sys2Proof

/-- Refutes O54: the statement asks for no table whose keys rise. Core 0 of die 0 passes item 0x01 with its key listed twice among the
retests: the pass takes one of the two away, and the other still waits. Where the keys rise, none waits
(`Dev.not_waiting_itemPasses`). -/
theorem not_selfTestsRecordRetestAndQualify : ¬ Obligations.SelfTestsRecordRetestAndQualify := by
  unfold Obligations.SelfTestsRecordRetestAndQualify
  intro h
  obtain ⟨hslice, -⟩ := h
  obtain ⟨-, -, -, -, htest⟩ := hslice
    { dev := {
        power := { step := 7, st := .run, portUp := true }
        groups := [(3, { exists_ := true, pasture := 0, stepNo := 1 })]
        cal := [{ beat := 0, tick := 0, action := 4, rel := true, group := 3, target := 0, arg := 256, dies := [0] }]
        fence := { retests := [(256, ⟨0, 0⟩), (256, ⟨0, 0⟩)] } } }
    0 0 1 0 {} _ 0 256 { beat := 0, tick := 0, action := 4, rel := true, group := 3, target := 0, arg := 256, dies := [0] }
    (by decide +kernel) (by decide) (by decide +kernel) (by decide +kernel) (by decide +kernel) rfl (by decide +kernel) (by decide +kernel)
  obtain ⟨-, hpass⟩ := htest (by decide +kernel) (by decide +kernel) (by decide +kernel) rfl (by decide) (by decide)
  obtain ⟨d, hd, hnone, -⟩ := hpass rfl (by decide +kernel)
  rw [← State.dev_of_next_on ((exec_selfTestSlice _ _ _ _ _ _).symm.trans hd)] at hnone
  exact absurd hnone (by decide +kernel)

/-- Refutes O52: the statement asks for no table whose keys rise. Core 0 of die 0 lists its array 0 twice, and the recovery of that array
ends: the spare takes the place of one of the two, and the other still stands. Where the keys rise, the array is at its reset values
(`Dev.arrs_mapArray`). -/
theorem not_faultsAreRecordedAndRecoveredInOrder : ¬ Obligations.FaultsAreRecordedAndRecoveredInOrder := by
  unfold Obligations.FaultsAreRecordedAndRecoveredInOrder
  intro h
  obtain ⟨-, -, -, -, -, harray, -⟩ := h
  obtain ⟨-, hidle, -⟩ := harray
    { dev := {
        cores := [(0, { arrs := [(0, {}), (0, {})] })]
        fence := { spareArr := [(0, 1)] }
        faults := {
          log := [{ seq := 1, code := 1, die := 0, core := 0, disp := 1, unit := 1, pasture := 31, beat := 0 }]
          lastSeq := 1
          running := some 1 } } }
    1 0 { seq := 1, code := 1, die := 0, core := 0, disp := 1, unit := 1, pasture := 31, beat := 0 }
    rfl (by decide +kernel) rfl rfl (by decide +kernel)
  obtain ⟨hspare, -⟩ := hidle (by decide +kernel)
  obtain ⟨d, hd, -, -, -, hnone⟩ := hspare (by decide +kernel)
  rw [← State.dev_of_next_on ((exec_faultRecoveryDone _).symm.trans hd)] at hnone
  exact absurd hnone (by decide +kernel)

end Sys2Proof.Machine
end

section
/-! SUPPORT. What keeps every image: counts and records, messages that leave, aborts, an agent's write, and what a reseed
asks (R354, R424, R433 to R435). -/

namespace Sys2Proof.Machine

open Sys2Proof

/-- `e` has the images of `d`. -/
def Dev.SameImages (d e : Dev) : Prop := e.image = d.image

namespace Dev.SameImages

theorem refl (d : Dev) : d.SameImages d := rfl

theorem trans {d e g : Dev} (h : d.SameImages e) (h' : e.SameImages g) : d.SameImages g := Eq.trans h' h

theorem of_pastures {d e : Dev} (h : e.pastures = d.pastures) : d.SameImages e := by
  unfold Dev.SameImages Dev.image
  rw [h]

theorem of_counts {d e : Dev} : d.SameButCounts e → d.SameImages e := by
  rintro ⟨_, _, _, _, _, rfl⟩
  exact of_pastures rfl

theorem ite {d x y : Dev} {c : Prop} [Decidable c] (hx : d.SameImages x) (hy : d.SameImages y) : d.SameImages (if c then x else y) := by
  split_ifs
  · exact hx
  · exact hy

theorem foldl {α : Type} {g : Dev → α → Dev} (hg : ∀ (d : Dev) (a : α), d.SameImages (g d a)) (d : Dev) (l : List α) :
    d.SameImages (l.foldl g d) :=
  List.foldlRecOn l g (refl d) (fun e he a _ => he.trans (hg e a))

theorem modPasture (d : Dev) (p : Nat) {g : Pasture → Pasture} (hg : ∀ q, (g q).images = q.images) : d.SameImages (d.modPasture p g) := by
  funext m n
  unfold Dev.image
  rw [Dev.modPasture, Tab.get?_upd]
  split_ifs
  · cases Tab.get? d.pastures m with
    | none => rfl
    | some q => exact congrArg (fun t => Tab.get? t n) (hg q)
  · rfl

theorem errAdd (d : Dev) (die core i n : Nat) : d.SameImages (d.errAdd die core i n) := of_counts (.errAdd d _ _ _ _)

theorem perfAdd (d : Dev) (die core g i n : Nat) : d.SameImages (d.perfAdd die core g i n) := of_counts (.perfAdd d _ _ _ _ _)

theorem record (d : Dev) (code die core disp unit pasture link info : Nat) :
    d.SameImages (d.record code die core disp unit pasture link info) := of_counts (.record d _ _ _ _ _ _ _ _)

theorem notice (d : Dev) (code die core pasture info : Nat) : d.SameImages (d.notice code die core pasture info) :=
  record d code die core dNotice 0 pasture 0 info

/-! Messages that leave on a link (R261, R266 to R276). -/

theorem modLink (d : Dev) (l : Nat) (f : Link → Link) : d.SameImages (d.modLink l f) := of_pastures rfl

theorem emit (d : Dev) (o : Out) : d.SameImages (d.emit o) := of_pastures rfl

theorem linkPerf (d : Dev) (l i n : Nat) : d.SameImages (d.linkPerf l i n) := perfAdd d _ _ _ _ _

theorem linkErr (d : Dev) (l i n : Nat) : d.SameImages (d.linkErr l i n) := errAdd d _ _ _ _

theorem freeEntry (d : Dev) (inn : Option (Nat × Nat)) : d.SameImages (d.freeEntry inn) := by
  cases inn <;> exact of_pastures rfl

theorem putStream (d : Dev) (l : Nat) (f : List Byte) : d.SameImages (d.putStream l f) := by
  unfold Dev.putStream
  refine (foldl (fun d g => ?_) d _).trans (modLink _ l _)
  dsimp only
  split
  · exact modLink d l _
  · exact (modLink d l _).trans (emit _ _)

theorem sendFlit (d : Dev) (l : Nat) (f : List Byte) : d.SameImages (d.sendFlit l f) :=
  ((modLink d l _).trans (emit _ _)).trans (putStream _ l f)

theorem sendCtl (d : Dev) (l : Nat) (nak : Option Bool) : d.SameImages (d.sendCtl l nak) := (sendFlit d l _).trans (modLink _ l _)

theorem sendData (d : Dev) (l v : Nat) : d.SameImages (d.sendData l v) := by
  unfold Dev.sendData
  dsimp only
  split
  · split
    · exact (((modLink d l _).trans (linkPerf _ l 0 1)).trans (linkPerf _ l 6 _)).trans ((sendFlit _ l _).trans (freeEntry _ _))
    · exact refl d
  · exact refl d

theorem ite_fst {α : Type} {d : Dev} {x y : Dev × α} {c : Prop} [Decidable c] (hx : d.SameImages x.1) (hy : d.SameImages y.1) :
    d.SameImages (if c then x else y).1 := by
  split_ifs
  · exact hx
  · exact hy

/-- One arm for each kind of flit, in the order of R266. -/
theorem linkSlot (d : Dev) (l : Nat) : d.SameImages (d.linkSlot l).1 := by
  unfold Dev.linkSlot
  dsimp only
  refine ite_fst (refl d) ?_
  split
  · exact (modLink d l _).trans (sendFlit _ l _)
  refine ite_fst ((modLink d l _).trans (ite ((linkErr _ l 2 1).trans (sendCtl _ l _)) (refl _))) ?_
  split
  · dsimp only
    split
    · exact ((modLink d l _).trans (sendFlit _ l _)).trans (linkPerf _ l 2 1)
    · exact modLink d l _
  refine ite_fst (sendCtl d l none) (ite_fst (refl d) ?_)
  split
  · exact linkPerf d l 3 _
  · exact (linkPerf d l 3 _).trans (sendData _ l _)

theorem linkPump (d : Dev) (l n : Nat) : d.SameImages (d.linkPump l n) := by
  induction n generalizing d with
  | zero => exact refl d
  | succ n ih => exact ite ((linkSlot d l).trans (ih _)) (linkSlot d l)

theorem forward (d : Dev) (dst mkind : Nat) (bs : List Byte) : d.SameImages (d.forward dst mkind bs) := by
  have hlost : ∀ l b, d.SameImages (d.unroutable l dst b) := fun l b => (linkErr d l 4 1).trans (ite (notice _ _ _ _ _ _) (refl _))
  unfold Dev.forward
  split
  · exact refl d
  · exact hlost _ _
  · exact ite (hlost _ _) ((modLink d _ _).trans (linkPump _ _ _))

theorem sendMsg (d : Dev) (dst mkind die core chan step tag last n : Nat) (data : List Byte) :
    d.SameImages (d.sendMsg dst mkind die core chan step tag last n data) := by
  induction n generalizing d data with
  | zero => exact refl d
  | succ n ih => exact ite ((forward d _ _ _).trans (ih _ _)) (forward d _ _ _)

theorem sendTo (d : Dev) (s : Show) (pos mkind die core chan step tag : Nat) (data : List Byte) :
    d.SameImages (d.sendTo s pos mkind die core chan step tag data) := sendMsg d _ _ _ _ _ _ _ _ _ _

theorem tellGroup (d : Dev) (g tag : Nat) (data : List Byte) : d.SameImages (d.tellGroup g tag data) := by
  unfold Dev.tellGroup
  split
  · exact foldl (fun d pos => sendTo d _ pos _ _ _ _ _ _ _) d _
  · exact refl d

/-! Acts that are aborted with their instances (R184, R333, R424). -/

theorem loseRed (d : Dev) (p i step : Nat) (s : Show) (e : Nat) : d.SameImages (d.loseRed p i step s e) :=
  (trans (of_pastures (by rfl)) (ite (errAdd (d.modRed p i _) _ _ _ _) (refl _))).trans (of_pastures (by rfl))

theorem abandonRed (d : Dev) (p i step : Nat) (cls : AbortClass) : d.SameImages (d.abandonRed p i step cls) := by
  unfold Dev.abandonRed
  split
  · exact refl d
  split
  · exact refl d
  · exact ite (refl d) ((loseRed d p i step _ _).trans (foldl (fun d pos => sendTo d _ pos _ _ _ _ _ _ _) _ _))

theorem abandonOf (d : Dev) (p die core : Nat) (cls : AbortClass) : d.SameImages (d.abandonOf p die core cls) := by
  unfold Dev.abandonOf
  split
  · exact refl d
  refine foldl (fun d i => ?_) d _
  split
  · exact refl d
  split
  · exact ite (abandonRed d p i _ cls) (refl d)
  · exact refl d

theorem raceErr (d : Dev) (e i n : Nat) : d.SameImages (d.raceErr e i n) := errAdd d _ _ _ _

theorem raceSend (d : Dev) (dst kind tag l e step : Nat) (data : List Byte) : d.SameImages (d.raceSend dst kind tag l e step data) :=
  sendMsg d _ _ _ _ _ _ _ _ _ _

theorem modRace (d : Dev) (p l : Nat) (f : RaceInst → RaceInst) : d.SameImages (d.modRace p l f) := of_pastures rfl

theorem abandonSource (d : Dev) (p l : Nat) (s : Show) (e step : Nat) : d.SameImages (d.abandonSource p l s e step) :=
  ite (refl d) (((modRace d p l _).trans (raceErr _ e 5 1)).trans (foldl (fun d h => ite (refl d) (raceSend d h 5 0 l e step [])) _ _))

theorem sourceGone (d : Dev) (p l : Nat) (s : Show) (e step : Nat) : d.SameImages (d.sourceGone p l s e step) :=
  ite (ite (refl d) ((modRace d p l _).trans (raceErr _ e 5 1))) (abandonSource d p l s e step)

theorem abandonShard (d : Dev) (p l : Nat) (s : Show) (e q step : Nat) : d.SameImages (d.abandonShard p l s e q step) :=
  ite (refl d) (((modRace d p l _).trans (raceErr _ e 5 1)).trans
    (foldl (fun d a => ite (sourceGone d p l s e step) (raceSend d a 5 0 l e step [])) _ _))

theorem abandonRaces (d : Dev) (r : Run) (a : Act) : d.SameImages (d.abandonRaces r a) := by
  unfold Dev.abandonRaces
  split
  · exact refl d
  · exact foldl (fun d q => trans (ite (abandonSource d _ _ _ _ _) (refl d))
      (foldl (fun d h => ite (abandonShard d _ _ _ _ _ _) (refl d)) _ _)) d _

theorem actOver (d : Dev) (k : Nat) : d.SameImages (d.actOver k) := by
  unfold Dev.actOver
  split <;> exact of_pastures rfl

theorem coreAbort (d : Dev) (k : Nat) (cls : AbortClass) : d.SameImages (d.coreAbort k cls) := by
  unfold Dev.coreAbort
  split
  · exact refl d
  next r _ =>
    have htold : d.SameImages ((d.abortGroup r.group cls).abandonOf r.pasture (k / 64) (k % 64) cls) :=
      trans (of_pastures (by rfl)) (abandonOf _ _ _ _ cls)
    refine trans (trans ?_ (ite (of_pastures (by rfl)) (refl _))) (actOver _ k)
    split
    · exact htold.trans (abandonRaces _ _ _)
    · exact htold

/-! An agent's write (R209, R354). -/

theorem isolation (d : Dev) (target : Nat) (x : StackReq) : d.SameImages (d.isolation target x) := by
  rw [Dev.isolation, Dev.LinksKept.raise_isolation]
  exact (ite (errAdd d _ _ _ _) (errAdd d _ _ _ _)).trans ((record _ _ _ _ _ _ _ _ _).trans (coreAbort _ _ _))

theorem stackPerf (d : Dev) (s i n : Nat) : d.SameImages (d.stackPerf s i n) := perfAdd d _ _ _ _ _

theorem stackErr (d : Dev) (s i n : Nat) : d.SameImages (d.stackErr s i n) := errAdd d _ _ _ _

theorem modStack (d : Dev) (s : Nat) (g : Stack → Stack) : d.SameImages (d.modStack s g) := of_pastures rfl

theorem penWrite (d : Dev) (p o : Nat) (bs : List Byte) : d.SameImages (d.penWrite p o bs) := of_pastures rfl

/-- A write that finds nothing in error changes counts, the Fold and the stack, or is denied. -/
theorem transfer_write (d : Dev) {x : StackReq} (hkind : x.kind = 1) (herrs : x.errs = []) (hue : x.foldUe = []) :
    d.SameImages (d.transfer x).2 := by
  have hmet : ∀ s a b c, d.SameImages ((((d.stackPerf s 0 1).stackPerf s 1 a).stackPerf s 4 b).stackErr s 4 c) := fun s a b c =>
    (((stackPerf d s 0 1).trans (stackPerf _ s 1 a)).trans (stackPerf _ s 4 b)).trans (stackErr _ s 4 c)
  unfold Dev.transfer
  dsimp only
  rw [apply_ite Prod.snd]
  refine ite (isolation d _ x) ?_
  rw [if_neg (by omega : ¬ x.kind = 0)]
  simp only [herrs, hue, decodeWords_nil, if_pos hkind]
  refine trans ?_ ((errAdd _ _ _ _ _).trans ((errAdd _ _ _ _ _).trans (perfAdd _ _ _ _ _ _)))
  refine trans ?_ (foldl (fun d w => ite (refl d) (penWrite d _ _ _)) _ _)
  exact ((((ite (hmet _ _ _ _) (ite ((hmet _ _ _ _).trans (modStack _ _ _)) (hmet _ _ _ _))).trans (stackPerf _ _ 6 _)).trans
    (stackPerf _ _ 7 _)).trans (modStack _ _ _)).trans (stackErr _ _ 2 _)

theorem grantAlone (d : Dev) (x : StackReq) : d.SameImages (d.grantAlone x) := by
  unfold Dev.grantAlone
  exact (stackPerf d _ 3 _).trans (modStack _ _ _)

theorem access_write (d : Dev) (die core pen : Nat) (high : Bool) (fuel off n : Nat) (bs : List Byte) :
    d.SameImages (d.access die core pen 0 high [] fuel off n (some bs)).2 := by
  induction fuel generalizing d off n bs with
  | zero => exact refl d
  | succ fuel ih =>
    have hwrite : ∀ x : StackReq, x.kind = 1 → x.errs = [] → x.foldUe = [] → d.SameImages ((d.grantAlone x).transfer x).2 :=
      fun x hkind herrs hue => (grantAlone d x).trans (transfer_write _ hkind herrs hue)
    unfold Dev.access
    dsimp only
    rw [apply_ite Prod.snd, apply_ite Prod.snd]
    exact ite (refl d) (ite (hwrite _ rfl rfl rfl) ((hwrite _ rfl rfl rfl).trans (ih _ _ _ _)))

theorem agentWrite (d : Dev) (die pen off : Nat) (bs : List Byte) : d.SameImages (d.agentWrite die pen off bs) :=
  access_write d die 63 pen false _ off _ bs

/-! What a reseed tells and asks (R433, R435). -/

theorem tellUsers (d : Dev) (code owner n b src : Nat) : d.SameImages (d.tellUsers code owner n b src) :=
  foldl (fun d u => record d code 63 63 dNotice 0 u _ _) d _

theorem askPeers (d : Dev) (owner n b : Nat) : d.SameImages (d.askPeers owner n b) := by
  unfold Dev.askPeers
  dsimp only
  split
  · exact (emit d _).trans (tellGroup _ _ _ _)
  · exact emit d _

theorem askSource (d : Dev) (owner n b src : Nat) : d.SameImages (d.askSource owner n b src) :=
  trans (of_pastures (by rfl)) (ite (askPeers _ owner n b) (ite (record _ _ _ _ _ _ _ _ _) (refl _)))

theorem nextReseed (d : Dev) (owner n : Nat) : d.SameImages (d.nextReseed owner n) := by
  unfold Dev.nextReseed
  dsimp only
  split
  · exact ite (askSource d _ _ _ _) (refl d)
  · exact refl d

end Dev.SameImages

namespace Dev.SameMemories

theorem tellGroup (d : Dev) (g tag : Nat) (data : List Byte) : d.SameMemories (d.tellGroup g tag data) := by
  unfold Dev.tellGroup
  split
  · exact foldl (fun d pos => sendTo d _ pos _ _ _ _ _ _ _) d _
  · exact refl d

theorem tellUsers (d : Dev) (code owner n b src : Nat) : d.SameMemories (d.tellUsers code owner n b src) :=
  foldl (fun d u => record d code 63 63 dNotice 0 u _ _) d _

theorem askPeers (d : Dev) (owner n b : Nat) : d.SameMemories (d.askPeers owner n b) := by
  unfold Dev.askPeers
  dsimp only
  split
  · exact (emit d _).trans (tellGroup _ _ _ _)
  · exact emit d _

theorem askSource (d : Dev) (owner n b src : Nat) : d.SameMemories (d.askSource owner n b src) :=
  (faults d _).trans (ite (askPeers _ owner n b) (ite (record _ _ _ _ _ _ _ _ _) (refl _)))

theorem nextReseed (d : Dev) (owner n : Nat) : d.SameMemories (d.nextReseed owner n) := by
  unfold Dev.nextReseed
  dsimp only
  split
  · exact ite (askSource d _ _ _ _) (refl d)
  · exact refl d

end Dev.SameMemories

end Sys2Proof.Machine
end

section
/-! SUPPORT. How a block of an image is reseeded: what waits for a source, what a write leaves, and what a failed source asks next (R433 to
R436). -/

namespace Sys2Proof.Machine

open Sys2Proof

theorem exec_reseedSourceDone (p n b : Nat) (data : List Byte) (s : State) :
    exec (.reseedSourceDone p n b data) s = .next (s.on (reseedSourceDone s.dev p n b data)) := rfl
theorem exec_reseedTimeout (p n b : Nat) (s : State) : exec (.reseedTimeout p n b) s = .next (s.on (reseedTimeout s.dev p n b)) := rfl

/-! The reseeds that are under way. -/

theorem Dev.signalFault_faults (d : Dev) (p : Nat) : (d.signalFault p).faults = d.faults := by
  obtain ⟨fs, o, h⟩ := d.signalFault_frame p
  rw [h]

theorem Dev.reseeds_faultRoom (d : Dev) : d.faultRoom.faults.reseeds = d.faults.reseeds := by
  obtain ⟨l, t, h⟩ := d.faultRoom_frame
  rw [h]

theorem Dev.reseeds_record (d : Dev) (code die core disp unit pasture link info : Nat) :
    (d.record code die core disp unit pasture link info).faults.reseeds = d.faults.reseeds :=
  (congrArg Faults.reseeds (Dev.signalFault_faults _ _)).trans d.reseeds_faultRoom

/-- `e` has the images of `d` and the reseeds that are under way in `d`. -/
def Dev.SameReseeding (d e : Dev) : Prop := d.SameImages e ∧ e.faults.reseeds = d.faults.reseeds

namespace Dev.SameReseeding

theorem refl (d : Dev) : d.SameReseeding d := ⟨.refl d, rfl⟩

theorem trans {d e g : Dev} (h : d.SameReseeding e) (h' : e.SameReseeding g) : d.SameReseeding g :=
  ⟨h.1.trans h'.1, h'.2.trans h.2⟩

theorem of_parts {d e : Dev} (hp : e.pastures = d.pastures) (hf : e.faults = d.faults) : d.SameReseeding e :=
  ⟨.of_pastures hp, congrArg Faults.reseeds hf⟩

theorem ite {d x y : Dev} {c : Prop} [Decidable c] (hx : d.SameReseeding x) (hy : d.SameReseeding y) :
    d.SameReseeding (if c then x else y) := by
  split_ifs
  · exact hx
  · exact hy

theorem foldl {α : Type} {g : Dev → α → Dev} (hg : ∀ (d : Dev) (a : α), d.SameReseeding (g d a)) (d : Dev) (l : List α) :
    d.SameReseeding (l.foldl g d) :=
  List.foldlRecOn l g (refl d) (fun e he a _ => he.trans (hg e a))

theorem modPasture (d : Dev) (p : Nat) {g : Pasture → Pasture} (hg : ∀ q, (g q).images = q.images) : d.SameReseeding (d.modPasture p g) :=
  ⟨.modPasture d p hg, rfl⟩

theorem record (d : Dev) (code die core disp unit pasture link info : Nat) :
    d.SameReseeding (d.record code die core disp unit pasture link info) :=
  ⟨.record d _ _ _ _ _ _ _ _, d.reseeds_record _ _ _ _ _ _ _ _⟩

theorem finishAt (d : Dev) (h st b : Nat) (res : List Nat) (r : Bool) : d.SameReseeding (d.finishAt h st b res r) := by
  obtain ⟨fs, hs, h⟩ := d.finishAt_frame h st b res r
  rw [h]
  exact of_parts rfl rfl

theorem finish (d : Dev) (h st : Nat) (res : List Nat) : d.SameReseeding (d.finish h st res) := finishAt d h st _ res false

theorem finishIn (d : Dev) (h st : Nat) (res : List Nat) : d.SameReseeding (d.finishIn h st res) := finishAt d h st _ res true

theorem releasePages (d : Dev) (l : List Nat) : d.SameReseeding (d.releasePages l) :=
  foldl (fun d n => by
    unfold Dev.releasePage
    split
    · exact refl d
    · exact ite (of_parts rfl rfl) (of_parts rfl rfl)) d l

theorem remap (d : Dev) : d.SameReseeding d.remap := of_parts rfl rfl

theorem settlePrefix (d : Dev) (p n : Nat) : d.SameReseeding (d.settlePrefix p n) := by
  have hprefix : ∀ d : Dev, d.SameReseeding (d.modPasture p (fun q => { q with prefixes := Tab.del q.prefixes n })).remap :=
    fun d => by
      refine trans (modPasture d p ?_) (remap _)
      exact fun _ => rfl
  unfold Dev.settlePrefix
  split
  · exact refl d
  · exact ite (((releasePages d _).trans (hprefix _)).trans (ite (refl _) (finish _ _ _ _))) (refl d)

theorem unholdPrefix (d : Dev) (pfx : Option Nat) : d.SameReseeding (d.unholdPrefix pfx) := by
  have hhold : ∀ p n f, d.SameReseeding (d.modPrefix p n f) := fun p _ _ => modPasture d p (fun _ => rfl)
  cases pfx with
  | none => exact refl d
  | some k => exact (hhold _ _ _).trans (settlePrefix _ _ _)

theorem resweep (d : Dev) (p : Nat) : d.SameReseeding (d.resweep p) := by
  unfold Dev.resweep
  dsimp only
  split <;> exact of_parts rfl rfl

theorem closeReq (d : Dev) (h st cmds : Nat) : d.SameReseeding (d.closeReq h st cmds) := by
  unfold Dev.closeReq
  split
  · exact refl d
  next r _ =>
    have hpages : d.SameReseeding (Dev.releasePages { d with reqs := Tab.del d.reqs h } ((r.lists.flatMap (·.2)).filter (· != movedPage))) :=
      trans (of_parts (by rfl) (by rfl)) (releasePages _ _)
    have hdone := hpages.trans ((foldl (fun d c => finishIn d c cmds []) _ r.commands).trans (finishIn _ h st []))
    have hleft := hdone.trans (ite (c := r.close = 0) (refl _) (finishIn _ r.close sOk []))
    refine trans ?_ ((unholdPrefix _ r.pfx).trans (resweep _ r.pasture))
    split
    · exact hleft.trans (modPasture _ _ (fun _ => rfl))
    · exact hleft

theorem closeAll (d : Dev) (p st : Nat) : d.SameReseeding (d.closeAll p st) := foldl (fun d h => closeReq d h st st) d _

/-- A lost image is marked so; what its users lose keeps the images and the reseeds (R436). -/
theorem imageLost (d : Dev) (owner n b link : Nat) :
    (d.modImage owner n (fun i => { i with lost := true })).SameReseeding (d.imageLost owner n b link) :=
  foldl (fun d u => ((foldl (fun d _ => of_parts (by rfl) (by rfl)) d _).trans (closeAll _ u _)).trans (record _ _ _ _ _ _ _ _ _)) _ _

end Dev.SameReseeding

/-! A block that a reseed waits for, and the image that it belongs to. -/

section
variable {d : Dev} {p n b : Nat} {i : Image}

theorem Dev.image_modImage (d : Dev) (p n : Nat) (f : Image → Image) : (d.modImage p n f).image p n = (d.image p n).map f := by
  unfold Dev.image
  rw [Dev.modImage, Dev.modPasture, Tab.get?_upd, if_pos rfl]
  cases Tab.get? d.pastures p with
  | none => rfl
  | some q => exact (Tab.get?_upd q.images n n f).trans (if_pos rfl)

theorem Dev.sourceFrom_host (d : Dev) (p n : Nat) : d.sourceFrom p n 2 = 2 := rfl

/-- Reseed `x` is of block `b` of image `n` of pasture `p`, and waits for a source. -/
def waitsAt (p n b : Nat) (x : Nat × Nat × Nat) : Bool := x.1 == imgKey p n && x.2.1 == b && x.2.2 != sourceWaits

/-- Reseed `x` after block `b` of image `n` of pasture `p` has asked source `src`. -/
def askedAt (p n b src : Nat) (x : Nat × Nat × Nat) : Nat × Nat × Nat := if x.1 = imgKey p n && x.2.1 = b then (x.1, b, src) else x

theorem Dev.reseedSource_eq (d : Dev) (p n b : Nat) : d.reseedSource p n b = (d.faults.reseeds.find? (waitsAt p n b)).map (fun x => x.2.2) := rfl

theorem waitsAt_askedAt {src : Nat} (hsrc : src ≠ sourceWaits) {x : Nat × Nat × Nat} (h : waitsAt p n b x = true) :
    waitsAt p n b (askedAt p n b src x) = true := by
  simp only [waitsAt, Bool.and_eq_true, beq_iff_eq, bne_iff_ne] at h ⊢
  obtain ⟨⟨hkey, hblock⟩, -⟩ := h
  simp [askedAt, hkey, hblock, hsrc]

/-- What waits after the block has asked `src` waits for `src`. -/
theorem askedAt_source {src : Nat} {x : Nat × Nat × Nat} (h : waitsAt p n b (askedAt p n b src x) = true) : (askedAt p n b src x).2.2 = src := by
  simp only [askedAt] at h ⊢
  split_ifs with hmine
  · rfl
  · rw [if_neg hmine] at h
    simp only [waitsAt, Bool.and_eq_true, beq_iff_eq] at h
    exact absurd (by simp [h.1.1, h.1.2]) hmine

/-- A block that waits for a source waits for the host once the host is asked (R435). -/
theorem Dev.reseedSource_askHost {src : Nat} (h : d.reseedSource p n b = some src) : (d.askSource p n b 2).reseedSource p n b = some 2 := by
  have hasked : (d.askSource p n b 2).faults.reseeds = d.faults.reseeds.map (askedAt p n b 2) := by
    unfold Dev.askSource
    dsimp only
    rw [if_neg (by decide), if_pos rfl]
    exact Dev.reseeds_record _ _ _ _ _ _ _ _ _
  rw [Dev.reseedSource_eq, Option.map_eq_some_iff] at h
  obtain ⟨x, hx, -⟩ := h
  obtain ⟨y, hy⟩ := Option.isSome_iff_exists.1 (List.find?_isSome.2
    ⟨x, List.mem_of_find?_eq_some hx, waitsAt_askedAt (src := 2) (by decide) (List.find?_some hx)⟩ :
      (d.faults.reseeds.find? (waitsAt p n b ∘ askedAt p n b 2)).isSome = true)
  have hwaits : waitsAt p n b (askedAt p n b 2 y) = true := List.find?_some (p := waitsAt p n b ∘ askedAt p n b 2) hy
  rw [Dev.reseedSource_eq, hasked, List.find?_map, hy]
  exact congrArg some (askedAt_source hwaits)

theorem Dev.sourceFailed_loses (d : Dev) (p n b : Nat) : ∃ link, d.sourceFailed p n b 2 =
    Dev.imageLost { d with faults := { d.faults with reseeds := d.faults.reseeds.filter (fun x => x.1 != imgKey p n) } } p n b link := ⟨_, rfl⟩

/-- No block of an image waits for a source after the host has failed, and the image is lost (R436). -/
theorem Dev.sourceFailed_host (d : Dev) (p n b : Nat) :
    (d.sourceFailed p n b 2).reseedSource p n b = none ∧ ∀ j, (d.sourceFailed p n b 2).image p n = some j → j.lost = true := by
  obtain ⟨link, hfailed⟩ := d.sourceFailed_loses p n b
  rw [hfailed]
  obtain ⟨himage, hreseeds⟩ := Dev.SameReseeding.imageLost
    { d with faults := { d.faults with reseeds := d.faults.reseeds.filter (fun x => x.1 != imgKey p n) } } p n b link
  refine ⟨?_, fun j hj => ?_⟩
  · rw [Dev.reseedSource_eq, hreseeds, Dev.modImage_faults, Option.map_eq_none_iff, List.find?_eq_none]
    intro x hx
    have hother : (x.1 != imgKey p n) = true := (List.mem_filter.1 hx).2
    simp_all [waitsAt]
  · rw [himage, Dev.image_modImage, Option.map_eq_some_iff] at hj
    obtain ⟨i, -, rfl⟩ := hj
    rfl

theorem Dev.sourceFailed_peer (d : Dev) (p n b : Nat) : d.sourceFailed p n b 1 = d.askSource p n b 2 := rfl

end

/-! The data of a source. -/

section
variable {d : Dev} {p n b src : Nat} {i : Image} {data bs : List Byte}

theorem Dev.SameImages.dropReseed (d : Dev) (p n b : Nat) : d.SameImages (d.dropReseed p n b) := of_pastures rfl

/-- The device once block `b` holds `bs` and, where it was tainted, its users know the source. -/
def Dev.blockTold (d : Dev) (p n b src : Nat) (i : Image) (bs : List Byte) : Dev :=
  let d := d.agentWrite 18 i.pen (i.off + 4096 * b) bs
  if i.tainted.contains b then (d.tellUsers 0x0052 p n b src).dropReseed p n b else d

/-- The image once its block `b` is written at beat `beat`. -/
def Image.cleaned (b beat : Nat) (i : Image) : Image := { i with tainted := i.tainted.filter (· != b), clean := Tab.put i.clean b beat }

theorem Dev.SameImages.blockTold (d : Dev) (p n b src : Nat) (i : Image) (bs : List Byte) : d.SameImages (d.blockTold p n b src i bs) :=
  (agentWrite d _ _ _ _).trans (ite ((tellUsers _ _ _ _ _ _).trans (dropReseed _ p n b)) (refl _))

theorem Dev.mem_blockTold (d : Dev) (p n b src : Nat) (i : Image) (bs : List Byte) :
    (d.blockTold p n b src i bs).mem = (d.agentWrite 18 i.pen (i.off + 4096 * b) bs).mem :=
  (SameMemories.ite ((SameMemories.tellUsers _ _ p n b src).trans (.faults _ _)) (.refl _)).1

theorem Dev.writeBlock_eq (hi : d.image p n = some i) : d.writeBlock p n b src bs =
    ((d.blockTold p n b src i bs).modImage p n (Image.cleaned b (d.blockTold p n b src i bs).beat.now)).nextReseed p n := by
  unfold Dev.writeBlock
  rw [hi]
  rfl

/-- A block that is written: what stands in the stacks, and the image (R433). -/
theorem Dev.writeBlock_writes (hi : d.image p n = some i) : (d.writeBlock p n b src bs).mem = (d.agentWrite 18 i.pen (i.off + 4096 * b) bs).mem ∧
    ∃ beat, (d.writeBlock p n b src bs).image p n = some (i.cleaned b beat) := by
  have htold := Dev.SameImages.blockTold d p n b src i bs
  rw [Dev.writeBlock_eq hi, (Dev.SameMemories.nextReseed _ p n).1, Dev.modImage_mem, Dev.mem_blockTold]
  refine ⟨rfl, (d.blockTold p n b src i bs).beat.now, ?_⟩
  rw [Dev.SameImages.nextReseed _ p n, Dev.image_modImage, htold, hi]
  rfl

theorem Image.not_tainted_cleaned (i : Image) (b beat : Nat) : b ∉ (i.cleaned b beat).tainted := by simp [Image.cleaned]

theorem Image.tainted_cleaned (i : Image) (b beat : Nat) {c : Nat} (h : c ≠ b) : c ∈ (i.cleaned b beat).tainted ↔ c ∈ i.tainted := by
  simp [Image.cleaned, h]

/-- The data that source `src` supplies for block `b`: tier 2 the golden copy's, any other its own (R435). -/
def Image.supplied (i : Image) (b src : Nat) (data : List Byte) : List Byte :=
  match src, i.golden with
  | 0, some g => slice g (4096 * b) 4096
  | _, _ => data

theorem reseedSourceDone_waiting (hi : d.image p n = some i) (hs : d.reseedSource p n b = some src) (hsrc : src < 2) :
    reseedSourceDone d p n b data = if i.matches b (i.supplied b src data) then d.writeBlock p n b src (i.supplied b src data)
      else (d.errAdd 18 64 9 1).sourceFailed p n b src := by
  unfold reseedSourceDone
  rw [hs, hi]
  exact if_neg (by omega)

theorem reseedSourceDone_idle (h : d.reseedSource p n b = none) : reseedSourceDone d p n b data = d := by
  unfold reseedSourceDone
  rw [h]

theorem reseedTimeout_idle (h : d.reseedSource p n b = none) : reseedTimeout d p n b = d := by
  unfold reseedTimeout
  rw [h]

theorem reseedTimeout_waiting (h : d.reseedSource p n b = some src) : reseedTimeout d p n b = d.sourceFailed p n b src := by
  unfold reseedTimeout
  rw [h]

end

end Sys2Proof.Machine
end

section
/-! The statement on tainted images. -/

namespace Sys2Proof.Machine

open Sys2Proof

/-- Settles O53: data by `reseedSourceDone_waiting` and `Dev.writeBlock_writes`, a source that fails by the source that it was. -/
theorem taintedImagesAreReseededInOrder : Obligations.TaintedImagesAreReseededInOrder := by
  unfold Obligations.TaintedImagesAreReseededInOrder
  refine ⟨?data, ?idle, ?peer, ?host⟩
  case data =>
    intro s p n b i data bs src hi hs hsrc hbs
    change bs = i.supplied b src data at hbs
    rw [exec_reseedSourceDone, reseedSourceDone_waiting hi hs hsrc, ← hbs]
    refine ⟨fun hmatch => ?_, fun hmatch => by rw [if_neg (by simp [hmatch])]⟩
    obtain ⟨hmem, beat, himage⟩ := Dev.writeBlock_writes (b := b) (src := src) (bs := bs) hi
    rw [if_pos hmatch]
    exact ⟨_, _, rfl, hmem, himage, i.not_tainted_cleaned b beat, fun c hc => i.tainted_cleaned b beat hc, rfl⟩
  case idle =>
    intro s p n b data h
    rw [exec_reseedSourceDone, exec_reseedTimeout, reseedSourceDone_idle h, reseedTimeout_idle h, State.on_dev_self]
    exact ⟨rfl, rfl⟩
  case peer =>
    intro s p n b _ h
    rw [exec_reseedTimeout, reseedTimeout_waiting h, Dev.sourceFailed_peer]
    exact ⟨_, rfl, Dev.reseedSource_askHost h⟩
  case host =>
    intro s p n b _ h
    rw [exec_reseedTimeout, reseedTimeout_waiting h]
    exact ⟨_, rfl, s.dev.sourceFailed_host p n b⟩

end Sys2Proof.Machine
end
